-- ==== Sys2Proof/Word.lean ====
section
/-! DEFINITION. The plain value types: bytes, 32-bit words, frame numbers and the sparse table type. -/

namespace Sys2Proof

/-- One byte of a stream, an image or a register window. -/
abbrev Byte := BitVec 8

/-- One 32-bit register word (00 R6). -/
abbrev Word := BitVec 32

/-- A frame number: 48-bit unsigned, wrapping (00 R3, 02 R32). -/
abbrev Frame := BitVec 48

/-- A sparse table: (index, entry) pairs with rising indices; an index that is not listed holds the
entry the reader names as the default. Plain data, so that states compare. -/
abbrev Tab (α : Type) := List (Nat × α)

end Sys2Proof
end

