-- ==== Sys2Proof/Syntax.lean ====
section
/-! DEFINITION. The commands of the block: one constructor of `Instr` per row of spec/opcode_table.json, in the
table's order, with the operands each row needs (the table gives none; they are what reaches the block from
outside at that step: bus data, pin levels, analog readings, arrival times). -/

namespace Sys2Proof

/-- The requesters of Table 15.1 (15 R343). -/
inductive Requester where
  | host | app | legal | chain
deriving DecidableEq, Repr

/-- A frame marker as it arrives on CU (02 R39, 15 R357). `arrive` is its start after the follower's own tick, in
12.5 ps; `crcOk` says whether its CRC-16 is correct. -/
structure Marker where
  frame  : Frame
  ofs    : Nat
  hold   : Bool
  jump   : Option (Frame × Frame)
  depth  : Nat
  arrive : Int
  crcOk  : Bool
deriving DecidableEq, Repr

/-- What the analog side shows for the frame that ends at a tick: overloaded channels with their first overloaded
aperture (03 R59), channels beyond the common-mode range (03 R60), whether any input clamp carried more than 5 mA
(11 Table 11.2, source 15), and the pins TAMP0 to TAMP7 that read high (11 R264). -/
structure TickInput where
  ovl      : List (Nat × Nat) := []
  cm       : List Nat := []
  clamp    : Bool := false
  tamp     : List Nat := []
deriving DecidableEq, Repr

/-- An environmental upset of a lane frame: a flipped bit of one member of the comparison set of lane A or B, in the main pass only or in
the retry as well (08 R190, R191, R193). `qty` is 1 to 12 for an increment of the point, 16 + o for the pulse-residue increment of
output o; with `prologue` the point is a bus and `qty` 0 the NCO phase, 1 the frequency, 2 the window-close flags. -/
structure Upset where
  laneB      : Bool
  prologue   : Bool
  point      : Nat
  qty        : Nat
  bit        : Nat
  persistent : Bool
deriving DecidableEq, Repr

/-- One host-port transaction on the wire (15 R345 to R349): the CRC-16 the host drives, and whether every nibble was clocked before
SCS_N rose. -/
structure Wire where
  crc      : BitVec 16 := 0
  complete : Bool := true
deriving DecidableEq, Repr

/-- The authentication an association request asks for (15 Table 15.4). -/
inductive DlmsAuth where
  | lowest | lls | hlsGmac | other
deriving DecidableEq, Repr

/-- The header fields of a Cobalt message that its handling depends on (15 R359). -/
structure CobaltHdr where
  dst  : Nat
  src  : Nat
  hseq : Nat
  tag  : Nat
deriving DecidableEq, Repr

/-- The causes of a port going down (15 Table 15.11, event 0xF2). -/
inductive DownCause where
  | violations | silence | drops
deriving DecidableEq, Repr

/-- The calibration cycle whose result a row takes: the last whole one, whose conversions have given their coefficients (04 R84 to R86).
There is no other. -/
inductive CalCycle where
  | whole
deriving DecidableEq, Repr

/-- A level that a tamper pin has held for two Slate cycles (11 R264). -/
structure HeldLevel where
  pin  : Nat
  high : Bool
deriving DecidableEq, Repr

/-- The command set: one constructor per row of the opcode table. -/
inductive Instr where
  | frameTick (inp : TickInput)
  | rtcSecondEdge (cyc : Nat)
  | markerReceive (m : Marker)
  | probeTimer
  | probeBurst
  | probe (port : Nat) (t2 t3 : Nat)
  | probeReply (t1 t2 t3 t4 : Int)
  | timebaseLock
  | acquireTimeout
  | missingMarkerTimeout
  | relockPairing (parent : Frame) (phase : Int)
  | frameRenumber
  | report (src : Nat) (number : Frame)
  | conversionComplete (slice slot : Nat) (taken : Option Nat) (raw : Int)
  | probeResult (ch : Nat) (res : Option Nat)
  | referenceCheck (m0 m1 m2 m3 : Nat)
  | sliceCalUpdate (slice : Nat) (cycle : CalCycle)
  | startupCalibrationDone (cycle : CalCycle)
  | settlingEnd
  | comparatorDwellComplete (point : Bool) (idx : Nat)
  | faultCaptureManual (ch ap : Nat)
  | faultCapturePush
  | queueMarkerAppend (q : Nat)
  | qpop0 (req : Requester) (q : Nat)
  | qpush (req : Requester) (q : Nat) (w0 w1 w2 w3 : Word)
  | begin (req : Requester)
  | pldata (req : Requester) (bytes : List Byte)
  | verify (req : Requester)
  | verificationDone
  | activate (req : Requester)
  | cancel (req : Requester)
  | arm (n : Frame)
  | commit
  | commitDeadline
  | selectorCommit
  | planActivation
  | lockstepCompare (upsets : List Upset)
  | rmsWindowClose (bus : Nat) (half : Bool)
  | pulseStart (out : Nat)
  | pulseEnd (out : Nat)
  | bandWindowEnd
  | bandPublish
  | pqIntervalEnd (tenMin : Bool)
  | hclr
  | liveWindowEnd (ch : Nat) (gain phs : Int) (noisy : Bool)
  | go (req : Requester)
  | sprintStart
  | sprintEnd
  | abort
  | sprd0 (req : Requester)
  | pairRead (req : Requester) (addr : Nat)
  | scrubSlot
  | reinstate (req : Requester) (w : Word)
  | clruv (req : Requester) (w : Word)
  | knownAnswerTestDone (failA failB : Bool)
  | lsinj (w : Word)
  | tariffSwitch
  | demandIntervalEnd
  | billingCloseRule
  | blcmd (req : Requester) (w : Word)
  | tariffFallbackApply
  | crystalStop
  | crystalRestore
  | slateSupplySwitch (cell : Bool)
  | vbatLow (mv : Nat)
  | slateColdStart
  | halt (req : Requester) (sub : Nat) (relpps : Bool)
  | rtcTimeWrite (req : Requester) (lo hi : Option Word)
  | clockSet (req : Requester) (dur : Nat)
  | haltTimeout
  | clockSetRecord
  | rtccapGo (sub cyc : Nat)
  | ppsEdge (interval : Nat) (offset : Int) (dur : Nat)
  | ppsLoss
  | sealPinChange (low : Bool)
  | sealDebounceComplete
  | sealOpenDecision
  | tamperStaticEvent (held : HeldLevel)
  | loopBurst (missing : List Nat)
  | tamperWindowClose (src : Nat)
  | secondEvaluator (upset : Bool)
  | dieTempSample (t : Int)
  | supplyGlitch
  | tpclr (req : Requester) (w : Word)
  | rwlRequestAnswer
  | legalRequest
  | eventRaise (code chan : Nat) (v : Option Int)
  | summaryWindowClose (code chan : Nat)
  | tokenRefill (code : Nat)
  | privilegedEntryWrite
  | erpack (req : Requester) (ack d0 d1 : Option Word)
  | ersclr (req : Requester)
  | summaryClearPassEnd
  | erwin15Read (req : Requester)
  | displayPowerUp
  | railGood (rail : Nat)
  | railFault (rail : Nat)
  | railRetry
  | displayPowerDown (forced : Bool)
  | driveStep (missed : List Nat)
  | pload (req : Requester)
  | dpfree (req : Requester) (r : Nat) (w : Word)
  | scrollDwellExpiry
  | buttonPress
  | buttonLongPress
  | autoScrollResume
  | itemRedraw
  | bootStages (keyOk : Bool) (pub : List Byte)
  | trfwctlBegin (req : Requester) (app : Bool)
  | trfwdata (req : Requester) (bytes : List Byte)
  | trfwctlVerify (req : Requester)
  | accept (req : Requester)
  | reset (req : Requester)
  | confirm (req : Requester)
  | confirmTimeout (app : Bool)
  | quoteRequest (path : Requester) (nonce : List Byte)
  | quoteGenerate
  | quoteComplete
  | trkctlGo (req : Requester) (w : Word)
  | userTagWrite (req : Requester) (addr : Nat) (bytes : List Byte)
  | tagDigestUpdate
  | read (req : Requester) (addr len : Nat) (wire : Wire)
  | write (req : Requester) (addr : Nat) (bytes : List Byte) (wire : Wire)
  | poll (wire : Wire)
  | unknownCommand (byte : Byte)
  | scsAbort
  | hostTimeout
  | registerWrite (req : Requester) (addr : Nat) (w : Word)
  | signOn (phys : Option Nat)
  | optionSelect (proto y z : Nat)
  | optionSelectTimeout
  | hdlcStart
  | hdlcFrame (port upper lower : Nat)
  | disc (port client upper : Nat)
  | aarq (port client upper : Nat) (auth : DlmsAuth) (ciphered authOk : Bool)
  | get (port client upper : Nat) (addr : Nat)
  | set (port client upper : Nat) (addr : Nat) (w : Word)
  | dlmsAction (port client upper : Nat) (addr : Nat) (w : Word)
  | inactivityTimeout (port client upper : Nat)
  | dataNotification
  | keyAssociationRelease
  | commaAlign (port : Nat)
  | hello (port depth : Nat) (hasAddr : Bool) (role : Nat)
  | portDown (port : Nat) (cause : DownCause)
  | portRefusedRetry (port : Nat)
  | cbctlWrite (req : Requester) (w : Word)
  | enum (addr : Nat)
  | enumDone (port hi : Nat)
  | ack (port hseq : Nat)
  | nak (port hseq : Nat)
  | resendTimeout (port hseq : Nat)
  | cmd (hdr : CobaltHdr) (op : Nat) (addr len : Nat) (data : List Byte)
  | opRead (hdr : CobaltHdr) (addr len : Nat)
  | opWrite (hdr : CobaltHdr) (addr : Nat) (data : List Byte)
  | opQuote (hdr : CobaltHdr) (nonce : List Byte)
  | aggdef (hdr : CobaltHdr) (arg : Word) (mask : List Byte)
  | rsp (hdr : CobaltHdr) (op addr status : Nat) (data : List Byte)
  | chainResponseTimeout (dst tag : Nat)
  | agg (hdr : CobaltHdr) (aid flags points : Nat) (frame : Frame) (value : BitVec 64)
  | powerFailWarning (pin : Bool)
  | powerOn (clksel : Bool)
  | mainPowerLoss
  | slatePowerLoss
  | bootComplete
  | startSequence (katA katB : Bool)
  | runEntry
  | recoveryEntry
  | mdctlReqRun (req : Requester)
  | mdctlReqCalibrate (req : Requester)
  | mdctlReqTest (req : Requester)
  | recov (req : Requester)
  | faultySliceReset
  | powerFailCommit (dur : Nat)
  | resetRelease
  | thermalSample (t : Int)
  | wdlkick (req : Requester) (w : Word)
  | legalWatchdogExpiry
  | wdakick (req : Requester) (w : Word)
  | appWatchdogExpiry
  | calibrationWrite (req : Requester) (addr : Nat) (v n : Word)
  | calctlCommit (req : Requester)
  | calctlDiscard (req : Requester)
  | messageCrcError (port : Nat)
  | codeViolation (port : Nat)
  | vbatlowClear
  | railDischarged (rail : Nat)
deriving DecidableEq, Repr

end Sys2Proof
end

