-- ==== Sys2Proof/Decode.lean ====
section
/-! DEFINITION. The command that a word spells. Every row of spec/opcode_table.json has an empty "fields" list and no
"fixed" bits, so no word spells a command: commands reach the block through its queue. -/

namespace Sys2Proof

/-- No row of the table gives bits. -/
def decodeTableWord (_nbits _w : Nat) : Option Instr := none

end Sys2Proof
end

