-- ==== Sys2Proof/Config.lean ====
section
/-! DEFINITION. What one PB8128 fixes and the spec does not state (free values): opaque constants with no body, so that
nothing can be proved about the number they stand for. Each names the log entry that declares it. -/

namespace Sys2Proof.Config

/-- A random or unstated number drawn as the n-th free value of a run (TRNG draws, 12 R295, 11 R264, R268; 07 R179);
log 13. -/
opaque freeNat : Nat → Nat

/-- The coefficient of tap k of the fractional-delay interpolator of 06 R129 at a whole delay n of frames and phase j of 1,024 (its table
is in the device, not in the spec), in 2^-16; log 14. -/
opaque fdelayTap : Nat → Nat → Nat → Int

/-- What the device's Q1.30 cosine (false) or sine (true) of a phase differs from the rounded one, before the limit of one unit (06 R133: the
last-bit rounding is not given); log 14. -/
opaque trigErr : Bool → Nat → Int

/-- The 500 Hz low-pass filter of the frequency reference over its conditioned samples, newest first (06 R142: its form is not given);
log 51. -/
opaque lowpass500 : List Int → Int

/-- What a spectral result of a window differs from the exact transform of its samples, k-th free value of a run, result i, before the limits
of 07 Table 7.2 (07 R163 to R171: the engine's arithmetic is not given); log 15. -/
opaque specErr : Nat → Nat → Int

/-- One step of the 31-bit maximal-length generator of the live injection (07 R179: its polynomial is not given); log 15. -/
opaque injectStep : Nat → Nat

/-- Whether an ECDSA P-256 signature over a digest verifies under the root key (none) or under the customer key with an
enrolled hash (14 R333; the public keys are not in the spec); log 16. -/
opaque sigOk : Option (BitVec 256) → BitVec 256 → List Byte → Bool

/-- ECDSA signature of a message with the identity key (14 R337), 64 bytes as a number; log 16. -/
opaque sign : List Byte → Nat

/-- First 64 bits of an AES-128-GCM tag with empty plaintext under a key over additional data (12 R295); log 16. -/
opaque gmac64 : List Byte → List Byte → BitVec 64

/-- Authenticated decryption of a wrapped key under the key-encryption key of a slot: the plaintext, or none when the tag is wrong (14 R340); log 16. -/
opaque unwrap : List Byte → List Byte → Option (List Byte)

/-- The firmware image written at manufacture for the legal core (false) and the application core (true); log 32. -/
opaque factoryImg : Bool → List Byte

/-- The code region of the recovery monitor in the boot ROM (14 R331); log 32. -/
opaque recoveryMonitor : List Byte

/-- The legal and non-legal streams of the safe plan in mask ROM, over its front-end section (05 R110, R124: the spec gives its
contents, not its bytes); log 33. -/
opaque safeLegal : List Byte → List Byte
opaque safeNonLegal : List Byte

/-- The factory drive profile in mask ROM (13 R306: its bytes are not given); log 37. -/
opaque factoryProfile : List Byte

end Sys2Proof.Config
end

