-- ==== Sys2Proof/Machine/Flags.lean ====
section
/-! DEFINITION. Status bits as registers show them and as writes clear them. -/

namespace Sys2Proof.Machine

/-- One bit of a word. -/
def wbit (w : Word) (i : Nat) : Bool := w.getLsbD i

/-- A flag as a number at a bit place. -/
def flagAt (b : Bool) (i : Nat) : Nat := if b then 2 ^ i else 0

/-- A write-one-to-clear bit after a write: a written 1 clears it, a 0 leaves it (00 R8, 17 R398). -/
def w1c (b : Bool) (w : Word) (i : Nat) : Bool := b && !wbit w i

end Sys2Proof.Machine
end

