-- ==== Sys2Proof/Machine/Operands.lean ====
section
/-! DEFINITION. The operand ranges of the commands: which slices, channels, apertures, queues, ports, outputs, buses, pins, sources
and rails exist, and the address and length a transaction takes. -/

namespace Sys2Proof.Machine

/-- Slices 0 to 63 (04 R76). -/
def isSlice (n : Nat) : Bool := decide (n < 64)

/-- Start slots of a frame's conversions: 0 to 127, and 128 and 129 for slots 0 and 1 of the next frame (04 R77, Table 4.3). -/
def isSlot (n : Nat) : Bool := decide (n < 130)

/-- Channels 0 to 167 (01 R14). -/
def isChannel (n : Nat) : Bool := decide (n < 168)

/-- The channels 0 to 127 that carry a probe (03 R65). -/
def isMainChannel (n : Nat) : Bool := decide (n < 128)

/-- The channels 0 to 159 of live verification (07 R180). -/
def isLiveChannel (n : Nat) : Bool := decide (n < 160)

/-- Apertures 0 to 47 of a frame (00 R3). -/
def isAperture (n : Nat) : Bool := decide (n < 48)

/-- A comparator: 168 stream comparators, 8 per point of the 128 points (04 R94). -/
def isComparator (point : Bool) (n : Nat) : Bool := decide (n < if point then 1024 else 168)

/-- Result queues 0 to 31 (04 R100). -/
def isQueue (n : Nat) : Bool := decide (n < 32)

/-- The queues 24 to 31 that take pushed entries (04 R104). -/
def isPushQueue (n : Nat) : Bool := decide (24 ≤ n) && decide (n < 32)

/-- Cobalt ports CU (0) and CD0 to CD2 (15 R361). -/
def isPort (p : Nat) : Bool := decide (p < 4)

/-- Pulse outputs 0 to 7 (06 R148). -/
def isOutput (n : Nat) : Bool := decide (n < 8)

/-- Voltage buses 0 to 7 (01 R14). -/
def isBus (n : Nat) : Bool := decide (n < 8)

/-- Tamper pins 0 to 7 (11 R264). -/
def isPin (n : Nat) : Bool := decide (n < 8)

/-- Tamper sources 0 to 15 (11 Table 11.2). -/
def isSource (n : Nat) : Bool := decide (n < 16)

/-- Display rails VNEG, VPOS, VCOM (13 R302). -/
def isRail (n : Nat) : Bool := decide (n < 3)

/-- The display regions 12 to 15 that `DPFREE` writes (13 R313, Table 13.10). -/
def isFreeRegion (n : Nat) : Bool := decide (12 ≤ n) && decide (n < 16)

/-- A word address lies in a range of n words. -/
def inRange (a n x : Nat) : Bool := decide (a ≤ x) && decide (x < a + 4 * n)

/-- LEN and ADDR of 15 R346: whole words, a length from 4 to `hi` bytes. -/
def lenAddrOk (a len hi : Nat) : Bool := a % 4 == 0 && decide (a < 2 ^ 32) && len % 4 == 0 && decide (4 ≤ len) && decide (len ≤ hi)

end Sys2Proof.Machine
end

