-- ==== Sys2Proof/Machine/State.lean ====
section
/-! DEFINITION. The state of the PB8128 block as plain data, the reasons a command can stop, and the state after
reset. Field defaults are the reset values; each field's text gives its width, the rule that names it and its reset
value ("reset" = the spec's, "DESIGN CHOICE" = none given there, see the assumption log). -/

namespace Sys2Proof.Machine

/-! ## Shared small types -/

/-- A critical value: the value and its bitwise complement (00 R4, R5; 08 R199). -/
structure Pair (w : Nat) where
  v : BitVec w
  n : BitVec w
deriving DecidableEq, Repr

/-- The pair of a value. -/
def Pair.of {w : Nat} (v : BitVec w) : Pair w := ⟨v, ~~~v⟩

/-- The operating states of Table 16.1 (16 R371). -/
inductive OpState where
  | off | backup | boot | start | run | calibrate | test | recovery
deriving DecidableEq, Repr

/-- Where a held device is inside a commit and reset (16 R384, R386): none, commit due, held in reset. -/
inductive CommitPhase where
  | none | due | held
deriving DecidableEq, Repr

/-- A 32-byte-slot of MRAM, Table 8.3 (08 R204). -/
structure Slot where
  val  : BitVec 64
  nval : BitVec 64
  tag  : Word
  ntag : Word
  seq  : Word
  nseq : Word
deriving DecidableEq, Repr

/-! ## Plan images in their parsed form (05) -/

/-- Channel map record of a point, Table 5.4. -/
structure ChMap where
  il1 : Nat := 0xFF
  il2 : Nat := 0xFF
  il3 : Nat := 0xFF
  ineu : Nat := 0xFF
  bus : Nat := 0
  l1 : Bool := false
  l2 : Bool := false
  l3 : Bool := false
  npe : Bool := false
deriving DecidableEq, Repr

/-- Front-end settings record of a channel, Table 5.5. -/
structure FeSet where
  gain : Nat := 0
  sensor : Nat := 0
  prben : Bool := false
  injen : Bool := false
  exc : Bool := false
  magsns : Bool := false
  prblow : Nat := 0
  prbhigh : Nat := 0
  drgain : Nat := 0
  drphs : Nat := 0
  magthr : Nat := 0
deriving DecidableEq, Repr

/-- Sinc^k parameters: order, notch code and L (04 R92, 05 R113). -/
structure SincSet where
  k : Nat := 3
  notch : Nat := 0
  l : Nat := 48
deriving DecidableEq, Repr

/-- Point definition, Table 5.8. -/
structure PointDef where
  type : Nat := 0
  qexp : Int := 0
  arith : Bool := false
  harm : Bool := false
  importOnly : Bool := false
  hz60 : Bool := false
  sliding : Bool := false
  mdcode : Nat := 0
  mdsub : Nat := 0
  ctnum : Nat := 0
  ctden : Nat := 0
  vtnum : Nat := 0
  vtden : Nat := 0
deriving DecidableEq, Repr

/-- Pulse map record, Table 5.10. -/
structure PulseDef where
  point : Nat := 0xFF
  qty : Nat := 0
  pol : Bool := false
  const : Nat := 0
  width : Nat := 0
deriving DecidableEq, Repr

/-- Comparator record (04 R94, 05 comparator-band section). `sel` is used by point records only. -/
structure CmpDef where
  low : Int := 0
  high : Int := 0
  hyst : Nat := 0
  dwell : Nat := 0
  en : Bool := false
  src : Bool := false
  sel : Nat := 0
deriving DecidableEq, Repr

/-- Queue-routing record (04 R100, 05 queue-routing section). -/
structure RouteDef where
  depth : Nat := 0
  reader : Nat := 0
  kinds : Nat := 0
  lo : Nat := 0
  hi : Nat := 0
deriving DecidableEq, Repr

/-- Season record, Table 9.2. -/
structure Season where
  mon : Nat
  day : Nat
  hour : Nat
  min : Nat
  week : Nat
deriving DecidableEq, Repr

/-- Switch of a day profile, Table 9.2. -/
structure DaySwitch where
  hour : Nat
  min : Nat
  tariff : Nat
deriving DecidableEq, Repr

/-- Special day, Table 9.2. -/
structure SpecialDay where
  year : Nat
  mon : Nat
  day : Nat
  profile : Nat
deriving DecidableEq, Repr

/-- DST rule, Table 9.3. -/
structure DstRule where
  year : Nat
  smon : Nat
  sweek : Nat
  swday : Nat
  shour : Nat
  smin : Nat
  emon : Nat
  eweek : Nat
  ewday : Nat
  ehour : Nat
  emin : Nat
  dofs : Nat
deriving DecidableEq, Repr

/-- Tariff calendar (09 R216, Tables 9.1 to 9.3). -/
structure Calendar where
  zone : Int := 0
  bcday : Nat := 0
  bchour : Nat := 0
  bcmin : Nat := 0
  seasons : List Season := []
  weeks : List (List Nat) := []
  days : List (List DaySwitch) := []
  special : List SpecialDay := []
  dst : List DstRule := []
deriving DecidableEq, Repr

/-- Scroll item record (13 R320). -/
structure ScrollItem where
  code : Nat := 0
  point : Nat := 0
  qty : Nat := 0
  tariff : Nat := 0
  rmask : Nat := 0
  dec : Nat := 0
  mega : Bool := false
  lz : Bool := false
deriving DecidableEq, Repr

/-- A plan in its parsed form: what the image of 05 says, section by section. `safe` marks the built-in safe plan of
Table 5.13, whose lane program and digests are in mask ROM. -/
structure PlanDef where
  safe : Bool := false
  /-- Section bodies by type, the loaded ones and those completed from the active plan (05 R109). -/
  sects : Tab (List Byte) := []
  planid : Word := 0
  planrev : Word := 0
  chmap : List ChMap := []
  fe : List FeSet := []
  dirMask : BitVec 64 := 0
  oosMask : BitVec 64 := 0
  caplen : Nat := 8
  capdiv : Nat := 0
  slots : List Word := []
  coefM1 : List Int := []
  coefM2 : List Int := []
  coefA1 : List Int := []
  coefA2 : List Int := []
  startSinc : SincSet := {}
  testSinc : SincSet := {}
  cycdecl : Nat := 0
  maxseg : Nat := 0
  segstart : List Nat := []
  code : List (BitVec 64) := []
  points : List PointDef := []
  pulses : List PulseDef := []
  cmpStream : List CmpDef := []
  cmpPoint : List CmpDef := []
  routes : List RouteDef := []
  calendar : Calendar := {}
  scroll : List ScrollItem := []
  scrollMode : Nat := 0
  scrollDwell : Nat := 0
  defTariff : List Nat := []
  legalDigest : BitVec 256 := 0
  nonLegalDigest : BitVec 256 := 0
deriving DecidableEq, Repr

/-! ## Timebase (02) -/

/-- Timebase states, Table 2.4 (02 R44). -/
inductive TbState where
  | free | acquire | locked | holdover | relock
deriving DecidableEq, Repr

/-- A marker sent on a downstream port (02 R39). -/
structure SentMarker where
  port : Nat
  frame : Frame
  ofs : Nat
  hold : Bool
  jump : Option (Frame × Frame)
deriving DecidableEq, Repr

structure Timebase where
  /-- Frame number `TBFRL`/`TBFRH`; 48 bits; 02 R32, R51; reset 0 -/
  frame : Frame := 0
  /-- `TBCTL.ASYMEN`; 1 bit; 02 Table 2.7; reset 0 -/
  asymen : Bool := false
  /-- `TBSTS.TBSTATE`; 3 bits; 02 R44, Table 2.8; reset 0 FREE -/
  st : TbState := .free
  /-- `TBSTS.ROLE`; 2 bits; 02 Table 2.8; reset 0 standalone -/
  role : Nat := 0
  /-- `TBSTS.UPHOLD`; 1 bit; 02 R48; reset 0 -/
  uphold : Bool := false
  /-- `TBSTS.XSRC`; 1 bit; 02 R26; reset 0 -/
  xsrc : Bool := false
  /-- `TBSTS.CLKOOR`; 1 bit; 02 R28; reset 0 -/
  clkoor : Bool := false
  /-- `TBSTS.JUMPED`; 1 bit; 02 R49; reset 0 -/
  jumped : Bool := false
  /-- `TBSTS.SLEWING`; 1 bit; 02 R46; reset 0 -/
  slewing : Bool := false
  /-- `TBSTS.DEPTH`; 5 bits; 02 Table 2.8; reset 0 -/
  depth : Nat := 0
  /-- `TBSECL`/`TBSECH`; 48 bits; 02 R37; reset 0 -/
  secFrame : Frame := 0
  /-- `TBSECP`; 15 bits; 02 R37; reset 0 -/
  secCyc : Nat := 0
  /-- `TBPPM`; 32 bits signed, 0.001 ppm; 02 R37; reset 0 -/
  ppm : Int := 0
  /-- Frame ticks counted since BOOT began, BOOT's own included, behind the elapsed core cycles of an edge; 02 R37; reset 0 -/
  ticks : Nat := 0
  /-- Elapsed core cycles at the last second edges, newest first (at most 17), behind `TBPPM`; 02 R37; reset none -/
  edges : List Nat := []
  /-- `TBHOP` d_down; 16 bits, 12.5 ps; 02 R41; reset 0 -/
  hop : Nat := 0
  /-- The round-trip results in the average, newest first (at most 16); 02 R41; reset none -/
  probes : List Int := []
  /-- `TBASYM`; 16 bits signed; 02 R41, Table 2.6; reset 0 -/
  asym : BitVec 16 := 0
  /-- `TBPHE`; 16 bits signed saturating; 02 Table 2.6; reset 0 -/
  phe : Int := 0
  /-- `TBSLEW`; 16 bits signed, 0.01 ppm; 02 R45, Table 2.6; reset 0 -/
  slew : Int := 0
  /-- `TBHOLD`; 32 bits saturating; 02 R47; reset 0 -/
  hold : Nat := 0
  /-- `TBJMPA`; 32 bits saturating; 02 Table 2.6; reset 0 -/
  jmpAmt : Nat := 0
  /-- `TBJMPL`/`TBJMPH` M; 48 bits; 02 R49; reset 0 -/
  jmpFrame : Frame := 0
  /-- Consecutive frames without a valid marker; count; 02 R44; reset 0 -/
  missed : Nat := 0
  /-- A valid marker arrived since the last tick; 1 bit; 02 R44, R50; reset 0 -/
  markerSeen : Bool := false
  /-- Consecutive frames with phase error within 0.25 ns; count; 02 R44; reset 0 -/
  inRange : Nat := 0
  /-- Frames spent in ACQUIRE; count; 02 R44; reset 0 -/
  acqFrames : Nat := 0
  /-- Pairing of R49 made since RELOCK; 1 bit; 02 R49; reset 0 -/
  paired : Bool := false
  /-- Probes of a burst still to send; count; 02 R41; reset 0 -/
  burst : Nat := 0
  /-- Ticks since the last probe; count; 02 R41; reset 0 -/
  probeTicks : Nat := 0
  /-- Number to take at the next commit-complete tick, as an offset to the own count; 02 R49; reset none -/
  renumber : Option Frame := none
  /-- Pending jump (M, N), M in the own count; 2 × 48 bits; 02 R39, R49; reset none -/
  jump : Option (Frame × Frame) := none
  /-- M of the pending jump as it was announced; 48 bits; 02 R49; reset 0 -/
  jumpAnn : Frame := 0
  /-- Excess of a reported number over the own count that waits for the next jump; count; 02 R49; reset none -/
  nextReport : Option Nat := none
  /-- Duration factor of the running frame; 24 bits, 23 fractional; 02 R46, 06 R139; DESIGN CHOICE 2^23 (no slew) log 3 -/
  df : Nat := 2 ^ 23
  /-- Steering values of the last 16,384 frames, newest first, behind the holdover value; 02 R47; reset none -/
  steer : List Int := []
  /-- The last valid marker; 02 R39, R42; reset none -/
  lastMarker : Option Marker := none
  /-- Ticks since the last RTC second edge; count; 02 R28; reset 0 -/
  secTicks : Nat := 0
  /-- Markers sent at the current tick on CD0 to CD2; 02 R39; reset none -/
  sent : List SentMarker := []
deriving DecidableEq, Repr

/-! ## Front ends (03) -/

/-- Registers and probe state of one front end, Tables 3.7 to 3.10. -/
structure FeChan where
  ovl : Bool := false
  ovlnow : Bool := false
  cmnow : Bool := false
  cmev : Bool := false
  prbst : Nat := 0
  prbchg : Bool := false
  res : Nat := 0
  resValid : Bool := false
  ovc : Nat := 0
  /-- Frame ticks of the running probe result (03 R65). -/
  prbN : Nat := 0
  /-- Last probe class of an undeclared new state (03 R68). -/
  prbCand : Nat := 0
  /-- An overloaded frame fell in the running probe result (03 R69). -/
  prbSpoil : Bool := false
  /-- Run of overloaded frames (03 Table 3.6, 0x23). -/
  ovlRun : Nat := 0
  /-- Run of common-mode frames (0x24). -/
  cmRun : Nat := 0
  /-- Ticks since the probe fault was declared (0x22). -/
  prbTicks : Nat := 0
  /-- Armed for fault capture (04 R98): `disarmed` = false. -/
  disarmed : Bool := false
deriving DecidableEq, Repr

structure FrontEnds where
  /-- `FESTS`, `FEPRB`, `FEOVC` and probe state per channel; Tables 3.9, 3.10; 03 R75; reset 0 -/
  ch : Tab FeChan := []
  /-- `FEREFS.REFOK`; 4 bits; 03 R72, Table 3.7; reset 0 -/
  refok : BitVec 4 := 0
  /-- `FEREFS.REFEV`; 4 bits; 03 R72; reset 0 -/
  refev : BitVec 4 := 0
  /-- `FEREFD0`–`FEREFD3`; 16 bits signed saturating; 03 R72; reset 0 -/
  refd : Tab Int := []
  /-- Consecutive out-of-tolerance evaluations per quarter; count; 03 R72; reset 0 -/
  refBad : Tab Nat := []
  /-- Consecutive in-tolerance evaluations per quarter; count; 03 R72; reset 0 -/
  refGood : Tab Nat := []
  /-- Peak deviation of a reference out of tolerance (0x25), 0.1 ppm; count; 03 R72; reset 0 -/
  refPeak : Tab Nat := []
  /-- Ticks since the references were last evaluated; count; 03 R72; reset 0 -/
  refTicks : Nat := 0
  /-- An input clamp carried more than 5 mA in the last frame; 1 bit; 11 Table 11.2; reset 0 -/
  clamp : Bool := false
deriving DecidableEq, Repr

/-! ## Converter fabric and queues (04) -/

/-- The coefficients a slice calibration yields (04 R84, R86), `sat` when a calibration conversion saturated. -/
structure SliceCal where
  off  : Int
  gain : Nat
  inl  : List Int
  sat  : Bool
deriving DecidableEq, Repr

/-- Per-slice registers and coefficients (04 R83 to R88, Table 4.15). -/
structure Slice where
  off : Int := 0
  gain : Nat := 0x800000
  inl : List Int := List.replicate 32 0
  faulty : Bool := false
  upd : Nat := 0
  age : Nat := 0
  lim : Nat := 0
  sub : Nat := 0
  /-- Cycles in a row that failed the limits of R87. -/
  bad : Nat := 0
  /-- The last update was limited (R85). -/
  limited : Bool := false
  limRun : Nat := 0
  /-- Remainder carried into the next cycle (R85). -/
  carry : Option SliceCal := none
  /-- The running calibration cycle: its conversions so far (8,960 in all), the sum of the codes of each of the 35 levels, whether one
  saturated (R84). -/
  calN : Nat := 0
  calSum : List Int := []
  calSat : Bool := false
  /-- Coefficients of a completed cycle, and whether a tick has come since: they are taken then (R85). -/
  ready : Option SliceCal := none
  calDue : Bool := false
deriving DecidableEq, Repr

/-- One corrected channel sample, `sub` when substituted (04 R83, R88). -/
structure Sample where
  y : Int := 0
  sub : Bool := false
deriving DecidableEq, Repr

/-- Sample and filter history of one channel. -/
structure ChanPath where
  /-- Samples of the running frame by aperture, `none` when missing (04 R88). -/
  cur : Tab (Option Sample) := []
  /-- Slices whose discarded conversion left an aperture missing. -/
  lostBy : Tab Nat := []
  /-- The last valid sample, and the missing ones since at the end of the last frame, at most 3 (04 R88). -/
  last : Int := 0
  openN : Nat := 0
  /-- Channel samples, newest first (04 R89, R90, R92). -/
  hist : List Int := []
  /-- Stage-1 outputs, newest first (04 R90). -/
  y1 : List Int := []
  /-- Stream values, newest first (04 R89; 06 Table 6.8 LDS). -/
  streams : List Int := []
  /-- Frames the stream stays flagged as settling (04 R91, R93). -/
  settle : Nat := 0
  /-- Latest stream value carries kind 0x1, and its substituted flag. -/
  settling : Bool := false
  subst : Bool := false
  /-- A yielded entry was taken by fault capture in this frame (04 R97). -/
  yielded : Bool := false
  /-- Moving-average history of the sinc^k filter, newest first (04 R92). -/
  sinc : List Int := []
deriving DecidableEq, Repr

/-- Window comparator, Tables 4.9 and 4.20 (04 R94, R95). -/
structure Comparator where
  st : Nat := 0
  pend : Nat := 0
  dwc : Nat := 0
  cnt : Nat := 0
  /-- Dwell completed, transition due (COMPARATOR_DWELL_COMPLETE). -/
  due : Bool := false
  /-- Frame of the evaluation that completed the dwell, and ticks since the excursion opened. -/
  dueFrame : Frame := 0
  run : Nat := 0
deriving DecidableEq, Repr

/-- A running fault capture (04 R96 to R99). -/
structure Capture where
  ch : Nat
  k : Nat
  frame : Frame
  gain : Nat
  manual : Bool
  total : Nat
  div : Nat
  /-- Apertures until the next captured one. -/
  wait : Nat
  /-- Captured codes, oldest first. -/
  samples : List Int
  /-- Frame of the last captured aperture. -/
  lastFrame : Frame
  /-- Triggers missed while it ran (0x47). -/
  misses : Nat
  /-- All apertures are captured; the record is due (FAULT_CAPTURE_PUSH). -/
  due : Bool := false
deriving DecidableEq, Repr

structure Converter where
  /-- `CVCTL.FCEN`; 1 bit; 04 Table 4.17; reset 1 -/
  fcen : Bool := true
  /-- `CVCTL.FCCH`; 8 bits; 04 Table 4.17; reset 0 -/
  fcch : Nat := 0
  /-- `CVSTS.FILT`; 1 bit; 04 Table 4.18; reset 0 -/
  filt : Bool := false
  /-- `CVSTS` W1C bits FCDONE, FCMISS, SLFLT, CALLIM, SUBST; 1 bit each; 04 Table 4.18; reset 0 -/
  fcdone : Bool := false
  fcmissF : Bool := false
  slflt : Bool := false
  callim : Bool := false
  substF : Bool := false
  /-- `CVSINC` parameters in force; 04 R92, Table 4.15; reset 0 -/
  sinc : SincSet := { k := 0, notch := 0, l := 0 }
  /-- `CVSETL`; frames; 04 R93; reset 0 -/
  setl : Nat := 0
  /-- The last settling frame has ended and SETTLING_END is to come; 1 bit; 04 R93; reset 0 -/
  setlEnd : Bool := false
  /-- `CVFCS` channel, k, LOST, CAPLEN of the last capture; 04 Table 4.15; reset 0 -/
  fcsCh : Nat := 0
  fcsK : Nat := 0
  fcsLost : Bool := false
  fcsLen : Nat := 0
  /-- `CVFCFL`/`CVFCFH`; 48 bits; 04 Table 4.15; reset 0 -/
  fcFrame : Frame := 0
  /-- `CVFCMISS`; 32 bits saturating; 04 R98; reset 0 -/
  fcmiss : Nat := 0
  /-- `CVSUBC`; 32 bits saturating; 04 R88; reset 0 -/
  subc : Nat := 0
  /-- Slice registers and coefficients; 04 Table 4.15; reset as that table -/
  slices : Tab Slice := []
  /-- Faulty slices (`CVFLTL`, `CVFLTH`); 64 bits; 04 R87; reset 0 -/
  flt : BitVec 64 := 0
  /-- Sample, filter and stream history per channel; 04 R83 to R93; reset empty (streams 0) -/
  paths : Tab ChanPath := []
  /-- Stream comparators; 04 R94, Table 4.20; reset INIT -/
  cmps : Tab Comparator := []
  /-- Point comparators (index 8p + m); 04 R94, Table 4.20; reset INIT -/
  cmpp : Tab Comparator := []
  /-- The running capture (`CVSTS.FCBUSY`, `CVFCS.BUSY`); 04 R96; reset none -/
  cap : Option Capture := none
  /-- Codes that YIELD entries captured in the running frame: (channel, aperture, 12-bit code); 04 R97; reset none -/
  got : List (Nat × Nat × Int) := []
  /-- The start-up calibration has ended; 1 bit; 04 R86; reset 0 -/
  calDone : Bool := false
  /-- Slices and slots of the frame of an activation whose entry an old PREV entry occupies; 05 R120 step 1; reset none -/
  blocked : List (Nat × Nat) := []
  /-- Faulty-slice count has reached 4 since the last reset decision (event 0x45); 1 bit; 04 R87, 16 R383; reset 0 -/
  fourFaulty : Bool := false
deriving DecidableEq, Repr

/-- A queue entry: tag and three payload words (04 R101). -/
structure QEntry where
  tag : Word
  w1 : Word := 0
  w2 : Word := 0
  w3 : Word := 0
deriving DecidableEq, Repr

/-- One result queue (04 R100 to R105, Tables 4.16, 4.21). -/
structure Queue where
  ents : List QEntry := []
  thr : Nat := 0
  lost : Nat := 0
  ovf : Bool := false
  rderr : Bool := false
  flushed : Bool := false
  /-- Refused entries not yet marked by a kind 0xC marker; MARKPEND while not 0. -/
  refused : Nat := 0
  /-- Overflow in the running frame, and in the frame before (events 0x48, 0x49). -/
  ovfNow : Bool := false
  ovfPrev : Bool := false
  /-- Entries lost in the running episode. -/
  epis : Nat := 0
deriving DecidableEq, Repr

structure Queues where
  /-- The 32 queues: contents, `QTHR`, `QLOST`, `QSTS`; 04 Tables 4.16, 4.21; reset empty -/
  q : Tab Queue := []
  /-- `QUNRT`; 32 bits saturating; 04 R105; reset 0 -/
  unrt : Nat := 0
deriving DecidableEq, Repr

/-! ## Plan loader (05) -/

/-- Loader states, Table 5.11. -/
inductive PlState where
  | empty | loading | verifying | ready | armed | pending | rejected
deriving DecidableEq, Repr

structure Loader where
  /-- `PLSTS.STATE`; 3 bits; 05 R117; reset 0 EMPTY -/
  st : PlState := .empty
  /-- `PLSTS.PARTIAL`; 1 bit; 05 Table 5.16; reset 0 -/
  partialImg : Bool := false
  /-- `PLSTS.LEGALCHG`; 1 bit; 05 R111; reset 0 -/
  legalchg : Bool := false
  /-- `PLSTS.LOCKED`; 1 bit; 05 R121; reset 0 -/
  locked : Bool := false
  /-- `PLSTS.DONE`, ACTREF, OWNERR; 1 bit each, W1C; 05 Table 5.16; reset 0 -/
  done : Bool := false
  actref : Bool := false
  ownerr : Bool := false
  /-- `PLSTS.OWNER`; 2 bits; 05 Table 5.16; reset 3 none -/
  owner : Option Requester := none
  /-- `PLRSN` code and SECT; 8 and 4 bits; 05 Table 5.14; reset 0 -/
  rsn : Nat := 0
  sect : Nat := 0
  /-- `PLWPTR`; 32 bits saturating; 05 R117; reset 0 -/
  wptr : Nat := 0
  /-- `PLAFL`, `PLAFH`; 32 and 16 bits; 05 Table 5.14; reset 0 -/
  afl : Word := 0
  afh : BitVec 16 := 0
  /-- Activation frame N of an ARMED or PENDING activation; 48 bits; 05 R119; reset 0 -/
  n : Frame := 0
  /-- Frame of the selector commit: the activation follows it by one tick at least; 48 bits; 02 R36; reset 0 -/
  lockFrame : Frame := 0
  /-- Verified shadow plan; 05 R118; reset none -/
  shadow : Option PlanDef := none
  /-- Plan in force; 05 R120, R124; reset: no plan was ever active, so the device holds none (DESIGN CHOICE: an all-off plan) log 4 -/
  act : PlanDef := {}
  /-- Legal digest pair `PLLDG`; 256 bits; 05 R110; reset 0 -/
  ldg : BitVec 256 := 0
  ldgN : BitVec 256 := 0
  /-- Parts reserved for the plan-change record; count; 05 R119; reset 0 -/
  resv : Nat := 0
  /-- Points whose QEXP changes at the pending activation: (point, old QEXP, new QEXP), due at the tick of N+2 (R120 step 4); reset none -/
  rescale : List (Nat × Int × Int) := []
  /-- Ticks until the rescale and the new definitions apply (R120 steps 3, 4); reset 0 -/
  rescaleIn : Nat := 0
  /-- Outputs whose point or quantity the activation changed: their residues retire at the tick of N+2; 05 R120 step 6; reset none -/
  retire : List Nat := []
  /-- Points whose scale fault under the coming plan was found at the tick of N−1; 06 R132; reset none -/
  scaleAnn : List Nat := []
  /-- ARM of the chain master awaiting its answer; header; 05 R122; reset none -/
  armHdr : Option CobaltHdr := none
deriving DecidableEq, Repr

/-! ## Lanes and metrology (06) -/

/-- One lane: working and wide registers and state memory (06 R150). -/
structure Lane where
  /-- W0–W63; 48 bits each; 06 R150; DESIGN CHOICE 0 log 5 -/
  w : Tab Int := []
  /-- X0–X15; 96 bits each; 06 R150; DESIGN CHOICE 0 log 5 -/
  x : Tab Int := []
  /-- LS, 65,536 words; 96 bits each; 06 R150; DESIGN CHOICE 0 log 5 -/
  ls : Tab Int := []
deriving DecidableEq, Repr

/-- Reference crossing and window bookkeeping of a bus (06 R142 to R145). Positions and weights are in 2^-16 frame. -/
structure Bus where
  /-- `PFREQ` frequency, 2^-16 Hz, and its validity (R142, R143). -/
  freq : Nat := 0
  valid : Bool := false
  /-- NCO phase θ (2^-32 turn) and the frequency it holds (R144). -/
  theta : Nat := 0
  nco : Nat := 0
  /-- The 10/12-cycle window: its weight so far, its first and last positive crossing, the whole cycles between them. -/
  winPos : Nat := 0
  /-- Weight of the running lane frame in it. -/
  w10 : Nat := 65536
  firstX : Option Nat := none
  lastX : Nat := 0
  cycles : Nat := 0
  /-- The half-cycle window: weight of its running and previous half, halves bounded so far (0 waits for a crossing, 1 the
  first half runs, 2 both are there), and whether the running half of 60 Hz has 134 frames. -/
  halfPos : Nat := 0
  prevHalf : Nat := 0
  halfN : Nat := 0
  halfLong : Bool := false
  /-- A window of the running lane frame closes at this position of the frame (RMS_WINDOW_CLOSE). -/
  due10 : Option Nat := none
  dueH : Option Nat := none
  /-- The reference's conditioned samples, newest first (at most 64), and the last output of its 500 Hz filter (R142). -/
  lp : List Int := []
  lpPrev : Int := 0
  /-- Position of a positive-going crossing in the running lane frame. -/
  crossUp : Option Nat := none
  /-- Frequency beyond ±1 % of nominal, and its peak deviation in 0.001 % (0x61); ticks since invalid (0x60). -/
  devOut : Bool := false
  devPeak : Nat := 0
  invTicks : Nat := 0
deriving DecidableEq, Repr

/-- Filter state of a member's conditioning (06 R128). -/
structure Cond where
  y : Int := 0
  xp : Int := 0
  h1 : Int := 0
  hx1 : Int := 0
  h2 : Int := 0
  hx2 : Int := 0
deriving DecidableEq, Repr

/-- Window sums of one RMS quantity (06 R146): its value of the last lane frame, Σ w u² of the 10/12-cycle window and of the
running and previous half, and the latest results. -/
structure Rms where
  u : Int := 0
  s10 : Nat := 0
  sH : Nat := 0
  pH : Nat := 0
  r10 : Nat := 0
  rH : Nat := 0
deriving DecidableEq, Repr

/-- Filters of an element (06 R133): the lpf3 sections of p, v² and i², the lpf4 sections of Vc, Vs, Ic, Is. -/
structure ElFilt where
  lp : List Int := [0, 0, 0]
  lv : List Int := [0, 0, 0]
  li : List Int := [0, 0, 0]
  vc : List Int := [0, 0, 0, 0]
  vs : List Int := [0, 0, 0, 0]
  ic : List Int := [0, 0, 0, 0]
  is : List Int := [0, 0, 0, 0]
deriving DecidableEq, Repr

/-- What a point's segment keeps across frames in LS (06 R150, 08 R192): conditioning by member (0–2 IL1–IL3, 3 INEU, 4–6
L1–L3, 7 N-PE), RMS sums (members, then 8–10 U12, U23, U31, 11 computed neutral, 12 mismatch), element filters, and the
linear window sums of R147: (value of the last frame, Σ w × value) of 0 P̄_tot, 1 Q_tot, 2 S_tot, 3 P1_tot, 4 the reversed
power of 11 Table 11.4, 8 + 4k … the Vc, Vs, Ic, Is of element k. -/
structure Seg where
  cond : Tab Cond := []
  rms : Tab Rms := []
  el : Tab ElFilt := []
  lin : Tab (Int × Int) := []
deriving DecidableEq, Repr

/-- Per-element quantities of Table 6.4 and the gate (06 R133, R136). -/
structure Elem where
  p : Int := 0
  pm : Int := 0
  p1 : Int := 0
  q : Int := 0
  s : Int := 0
  gate : Bool := false
  /-- QH_k from the last completed window (R134). -/
  qh : Int := 0
deriving DecidableEq, Repr

/-- The results, filters and status of one point (06). -/
structure Point where
  seg : Seg := {}
  e : Tab Elem := []
  pTot : Int := 0
  p1Tot : Int := 0
  qTot : Int := 0
  sTot : Int := 0
  /-- Window means of R147. -/
  meanP : Int := 0
  meanQ : Int := 0
  meanS : Int := 0
  meanP1 : Int := 0
  meanRev : Int := 0
  pf : Int := 0
  u2 : Nat := 0
  u0 : Nat := 0
  i2 : Nat := 0
  seqRun : Nat := 0
  seqOk : Nat := 0
  seqrev : Bool := false
  seqTicks : Nat := 0
  hrqAge : Nat := 0
  hrqstale : Bool := false
  hrqTicks : Nat := 0
  scalef : Bool := false
  sfcause : Nat := 0
  slew : Bool := false
  sat : Bool := false
  satNow : Bool := false
  satRun : Nat := 0
  wcnt : Nat := 0
  frame : Frame := 0
  wframe : Frame := 0
  /-- A window closed in the lane frame: its record goes out at the next tick (R154). -/
  recDue : Bool := false
  /-- Ticks with every gate closed (0x62). -/
  noLoad : Nat := 0
  /-- Direction-resolved values d of the last lane frame (R138), by quantity code. -/
  d : Tab Int := []
  /-- A current or voltage member's stream of the frame carried kind 0x1 (16 R376). -/
  withheld : Bool := false
  /-- The frame bills reverse energy as import (09 R213). -/
  rev : Bool := false
  /-- Bus frequency of the latest window and its validity (`PFREQ`, FVALID). -/
  freq : Nat := 0
  fvalid : Bool := false
  /-- Result slots written by PUB (06 Table 6.8). -/
  slots : Tab Int := []
deriving DecidableEq, Repr

/-- A pulse output (06 R148, R149, Tables 6.17, 6.18). -/
structure Pulse where
  cnt : Nat := 0
  lost : Nat := 0
  active : Bool := false
  ovr : Bool := false
  scale : Bool := false
  /-- Residue, signed 96 bits, in 2^-48 pulse, as a pair: [95:48] pending pulses, [47:0] the fraction. -/
  res : Pair 96 := ⟨0, BitVec.allOnes 96⟩
  /-- Apertures counted from BOOT: the crossing of the first whole pulse, the end of the pulse that runs, the end of the last one (R149). -/
  crossAt : Nat := 0
  endAt : Nat := 0
  lastEnd : Option Nat := none
  /-- Pulses were discarded in this frame; pulses discarded in the running episode (0x64). -/
  overNow : Bool := false
  epis : Nat := 0
deriving DecidableEq, Repr

/-- A calibration coefficient set entry: the five pairs of a channel (06 Table 6.13). -/
structure Cal where
  gain : Pair 32 := ⟨0x40000000, 0xBFFFFFFF⟩
  dly : Pair 32 := ⟨0, 0xFFFFFFFF⟩
  fsq : Pair 32 := ⟨0, 0xFFFFFFFF⟩
  pofs : Pair 32 := ⟨0, 0xFFFFFFFF⟩
  qofs : Pair 32 := ⟨0, 0xFFFFFFFF⟩
deriving DecidableEq, Repr

/-- A whole calibration set: channels and the four references. -/
structure CalSet where
  ch : Tab Cal := []
  ref : Tab (Pair 32) := []
deriving DecidableEq, Repr

structure Metrology where
  /-- Lane A and lane B registers and state memory; 06 R150, 08 R190; DESIGN CHOICE 0 log 5 -/
  laneA : Lane := {}
  laneB : Lane := {}
  /-- Staged LS updates of lanes A and B in the running lane frame, by part (point, 128 = prologue): (address, value); 08 R192; reset
  none -/
  stage : Tab (List (Nat × Int)) := []
  stageB : Tab (List (Nat × Int)) := []
  /-- Committed segment state of the points of the running lane frame, and the committed NCO and window state of the buses, for updates
  that are discarded; 08 R192; reset none -/
  base : Tab Seg := []
  baseBus : Tab Bus := []
  /-- Prologue outputs of lanes A and B, index 4 b + 0 NCO phase, 1 frequency, 2 window-close flags; 08 R191; reset none -/
  prolA : Tab Int := []
  prolB : Tab Int := []
  /-- Bus frequency, NCO and window state; 06 R142 to R145; reset 0, invalid -/
  bus : Tab Bus := []
  /-- Results, filters, `PTSTS` per point as the lanes have them; 06 Tables 6.10, 6.11; reset 0 -/
  pt : Tab Point := []
  /-- Point results as published at the last tick; 01 R23, 06 R153; reset 0 -/
  pub : Tab Point := []
  /-- Increments of the running lane frame, lane A (index 16 p + q); 96 bits; 08 R191; reset none -/
  incA : Tab Int := []
  /-- Increments of the running lane frame as lane B holds them, ¬ of its results; 08 R191, R200; reset none -/
  incB : Tab Int := []
  /-- Pulse-residue increments by output, lanes A and B; 08 R191; reset none -/
  pincA : Tab Int := []
  pincB : Tab Int := []
  /-- Points that disagreed in the running lane frame, with cause; 08 R193; reset none -/
  disagreed : List (Nat × Nat) := []
  /-- The prologue did not agree; 1 bit; 08 R192, R193; reset 0 -/
  prolBad : Bool := false
  /-- The comparison of the running lane frame has been made; 1 bit; 08 R191; reset 0 -/
  compared : Bool := false
  /-- The running lane frame computes a frame: its number; 48 bits; 06 R140; reset none -/
  laneRun : Option Frame := none
  /-- Plan whose definitions the running lane frame uses; 05 R120; reset none -/
  lanePlan : PlanDef := {}
  /-- State in force during the frame the lanes compute; 16 R379, R380; reset START -/
  laneSt : OpState := .start
  /-- Points in metrology-fault state when the running lane frame began; 08 R195, R197; reset none -/
  laneFlt : List Nat := []
  /-- Duration factor of the frame the lanes compute; 24 bits; 02 R46; DESIGN CHOICE 2^23 log 3 -/
  laneDf : Nat := 2 ^ 23
  /-- Accumulators (index 16 p + q), signed 96-bit pairs; 06 R140; reset 0 (factory-blank) -/
  acc : Tab (Pair 96) := []
  /-- Pulse outputs; 06 R148, R149; reset 0 -/
  pulse : Tab Pulse := []
  /-- Working calibration set; 06 R155, Table 6.13; reset factory-blank -/
  cal : CalSet := {}
  /-- Coefficients accepted and effective from the next tick; 06 R156; reset none -/
  calNext : Option CalSet := none
  /-- `CALCTL` as last accepted; 32 bits; 06 R156, 01 R18; reset 0 -/
  calctl : Word := 0
  /-- `CALSTS.REFUSED`; 1 bit; 06 Table 6.13; reset 0 -/
  calRef : Bool := false
  /-- `CALSEQ`; 32-bit pair; 06 R156; reset 0 -/
  calseq : Pair 32 := ⟨0, 0xFFFFFFFF⟩
  /-- `MDSETF`; 32 bits saturating; 16 R376; reset 0 -/
  setf : Nat := 0
deriving DecidableEq, Repr

/-! ## Power quality, live verification, sprint (07) -/

/-- Harmonic block of a channel, Table 7.10. -/
structure Harm where
  frame : Frame := 0
  valid : Bool := false
  fsync : Bool := false
  flag : Bool := false
  tvalid : Bool := false
  n : Nat := 0
  wins : Nat := 0
  thd40 : Nat := 0
  thd63 : Nat := 0
  freq : Nat := 0
  b29 : Nat := 0
  bframe : Frame := 0
  bvalid : Bool := false
  mag : List Nat := []
  phs : List Int := []
  ih : List Nat := []
  bnd : List Nat := []
deriving DecidableEq, Repr

/-- One running voltage event of a bus (07 R172 to R174). -/
structure VEvent where
  on : Bool := false
  ticks : Nat := 0
  extreme : Nat := 0
  chan : Nat := 0
deriving DecidableEq, Repr

/-- Power-quality state of one bus, Table 7.9. -/
structure PqBus where
  udin : Word := 0
  thr1 : Word := 0x044C0384
  thr2 : Word := 0x00140064
  dip : VEvent := {}
  swl : VEvent := {}
  int : VEvent := {}
  flag : Bool := false
  ext : Nat := 0
  dur : Nat := 0
  flg10 : Nat := 0
  flg10s : Nat := 0
  hist : Tab Nat := []
  /-- A host write to the settings since the last result (R175). -/
  rewrite : Bool := false
  /-- Interval aggregation: Σ v² and Σ THD² per evaluated channel, windows with a THD, Σ u2², windows; flagged (R177). -/
  aggV : Tab Nat := []
  aggT : Tab Nat := []
  aggTn : Tab Nat := []
  aggU : Nat := 0
  aggN : Nat := 0
  flg : Bool := false
  flgS : Bool := false
  /-- The running 10-second interval: its length so far, its first and last positive crossing, whole cycles between them
  (2^-16 frame). -/
  pos10s : Nat := 0
  first10s : Option Nat := none
  last10s : Nat := 0
  cyc10s : Nat := 0
deriving DecidableEq, Repr

/-- Live verification of a channel, Table 7.11 (07 R180 to R183). -/
structure Live where
  gain : Int := 0
  phs : Int := 0
  gbase : Int := 0
  pbase : Int := 0
  base : Bool := false
  gdrift : Bool := false
  pdrift : Bool := false
  chg : Bool := false
  inval : Bool := false
  win : Nat := 0
  frame : Frame := 0
  /-- Overloaded frames and ticks of the running window. -/
  ovl : Nat := 0
  ticks : Nat := 0
  invRun : Nat := 0
  /-- Valid windows in a row with, and without, gain and phase drift (R183). -/
  gRun : Nat := 0
  pRun : Nat := 0
  gOk : Nat := 0
  pOk : Nat := 0
  /-- Ticks since the gain and the phase drift were declared. -/
  gTicks : Nat := 0
  pTicks : Nat := 0
  /-- The running window began before the baseline was cleared and cannot become it (R182). -/
  baseWait : Bool := false
deriving DecidableEq, Repr

/-- Sprint states (07 Table 7.13). -/
inductive SpState where
  | idle | waiting | capturing | unread
deriving DecidableEq, Repr

/-- A 2–9 kHz band window awaiting publication: its channels, last frame, ticks since (07 R170, R171). -/
structure BandDue where
  chans : List Nat
  frame : Frame
  ticks : Nat
  hist : Tab (List Int)
deriving DecidableEq, Repr

structure PowerQuality where
  /-- `PQCTL.BANDEN`, BANDRR; 1 bit each; 07 Table 7.9; reset 1, 1 -/
  banden : Bool := true
  bandrr : Bool := true
  /-- HCLR requested, effective at the next tick; 07 R178; reset 0 -/
  hclr : Bool := false
  /-- `PQSTS.EVT`; 1 bit; 07 Table 7.9; reset 0 -/
  evt : Bool := false
  /-- `PQBSEL`; 32 bits; 07 R170; reset 0xFFFF_FFFF -/
  bsel : Word := 0xFFFFFFFF
  /-- `PQBCUR`; 32 bits; 07 R170; reset 0xFFFF_FFFF -/
  bcur : Word := 0xFFFFFFFF
  /-- Ticks in the running band window; count; 07 R170; reset 0 -/
  bandTicks : Nat := 0
  /-- Stage-1 outputs of the running band window, newest first, per analysed channel (25,600 at its end); 07 R170; reset none -/
  bandHist : Tab (List Int) := []
  /-- Band window awaiting publication: channels, last frame, ticks since; 07 R171; reset none -/
  bandDue : Option BandDue := none
  /-- Per-bus power quality; 07 Table 7.9; reset as that table -/
  bus : Tab PqBus := []
  /-- NCO phase in turns of the window and weight of the frames of each bus's running 10/12-cycle window, newest first (phase in 2^-32
  turn), and the conditioned samples of each member channel in it; 07 R163; reset none -/
  winPh : Tab (List (Nat × Nat)) := []
  winU : Tab (List Int) := []
  /-- Harmonic blocks in force; 07 R168, Table 7.10; reset 0 -/
  harm : Tab Harm := []
  /-- Blocks computed in the running lane frame, due at the next tick: (channel, block); 07 R168; reset none -/
  harmDue : List (Nat × Harm) := []
  /-- Ticks of the running 10-minute and 10-second intervals while the clock is invalid; 07 R177; reset 0 -/
  agg10m : Nat := 0
  agg10s : Nat := 0
  /-- Number of the UTC 10-minute and 10-second interval that runs while the clock is valid; counts; 07 R177; reset 0 -/
  num10m : Nat := 0
  num10s : Nat := 0
  /-- Live verification per channel; 07 Table 7.9; reset 0 -/
  live : Tab Live := []
  /-- Injection generator seeds drawn at START; 31 bits per channel; 07 R179; reset none -/
  seeds : Tab Nat := []
  /-- `SPCTL.SHIFT`; 4 bits; 07 Table 7.12; reset 0 -/
  shift : Nat := 0
  /-- ABORT requested; 1 bit; 07 R187; reset 0 -/
  abort : Bool := false
  /-- Ticks counted when GO and when ABORT were written; counts; 07 R185, R187; reset 0 -/
  goAt : Nat := 0
  abortAt : Nat := 0
  /-- `SPSTS.STATE`; 2 bits; 07 Table 7.13; reset 0 -/
  st : SpState := .idle
  /-- `SPSTS` DONE, REF, TRUNC, LOSTRD; 1 bit each; 07 Table 7.13; reset 0 -/
  done : Bool := false
  ref : Bool := false
  trunc : Bool := false
  lostrd : Bool := false
  /-- `SPSTS.RCODE`; 3 bits; 07 Table 7.13; reset 0 -/
  rcode : Nat := 0
  /-- `SPLEN`; 16 bits; 07 R185; reset 0 -/
  len : Nat := 0
  /-- `SPSFL`, `SPSFH`; 32, 16 bits; 07 R185; reset 0 -/
  sfl : Word := 0
  sfh : BitVec 16 := 0
  /-- `SPCH0`–`SPCH3`; 32 bits each; 07 Table 7.9; reset 0xFFFF_FFFF -/
  spch : List Word := [0xFFFFFFFF, 0xFFFFFFFF, 0xFFFFFFFF, 0xFFFFFFFF]
  /-- `SPAFL`/`SPAFH`; 48 bits; 07 Table 7.9; reset 0 -/
  saf : Frame := 0
  /-- Capture buffer entries not yet read (`SPLEFT`), oldest first; 07 R186; reset none -/
  buf : List QEntry := []
  /-- `SPNEXT`; ticks; 07 R187; reset 0 -/
  next : Nat := 0
  /-- `SPLOST`; 32 bits saturating; 07 R187; reset 0 -/
  lost : Nat := 0
  /-- Channels, shift, length and frames captured of the running sprint; 07 R185; reset 0 -/
  rCh : List Nat := []
  rShift : Nat := 0
  rLen : Nat := 0
  rDone : Nat := 0
deriving DecidableEq, Repr

/-! ## Lockstep, pairs, MRAM (08) -/

structure Integrity where
  /-- `LSSTS.KATOK`; 1 bit; 08 R208; reset 0 -/
  katok : Bool := false
  /-- `LSSTS` RETRY, PROLMM, XFER, REPAIR, LOST, RDPAIR, REINREF; 1 bit each, W1C; 08 Table 8.8; reset 0 -/
  retry : Bool := false
  prolmm : Bool := false
  xfer : Bool := false
  repair : Bool := false
  lost : Bool := false
  rdpair : Bool := false
  reinref : Bool := false
  /-- `LSSTS.INJRES`; 3 bits; 08 Table 8.5; reset 0 -/
  injres : Nat := 0
  /-- `LSRTC`; 32 bits saturating; 08 R194; reset 0 -/
  rtc : Nat := 0
  /-- `LSRLAST` point, points, cycles; 7, 8, 16 bits; 08 Table 8.7; reset 0 -/
  rlPoint : Nat := 0
  rlPoints : Nat := 0
  rlCyc : Nat := 0
  /-- `LSINJ` fields as written; 31 bits; 08 Table 8.9; reset 0 -/
  inj : Word := 0
  /-- Accepted injection: due at the next tick, and active in the lane frame; 08 R209; reset none -/
  injDue : Option Word := none
  injAct : Option Word := none
  /-- `LSREIN` as written; 08 Table 8.7; reset 0 -/
  rein : Word := 0
  /-- Reinstatement awaiting the known-answer test: request word; 08 R197; reset none -/
  katReq : Option Word := none
  /-- The running lane frame holds chunks of that test, and chunks of 64 cycles run so far; 1 bit, count; 08 R208; reset 0 -/
  katLive : Bool := false
  katChunks : Nat := 0
  /-- Reinstatements and clears granted, effective from the next tick; request words; 08 R197, R198, 01 R21; reset none -/
  reinDue : List Word := []
  /-- Storage: repaired and lost counts `MRREP`, `MRLOST`; 32 bits; 08 Table 8.7; reset 0 -/
  mrrep : Nat := 0
  mrlost : Nat := 0
  /-- Slots of bank A marked worn, behind `MRWORN`; 08 R205, Table 8.7; reset none -/
  worn : List Nat := []
  /-- Slots of banks A and B whose cells no longer take a write: the physical state a read-back meets (08 R205); DESIGN CHOICE none log 122 -/
  stuckA : List Nat := []
  stuckB : List Nat := []
  /-- `MRSCRUB` next slot and passes; 24 and 8 bits; 08 R207; reset 0 -/
  scrub : Nat := 0
  passes : Nat := 0
  passRep : Nat := 0
  /-- Ticks since the last slot read, and ticks until the next pass may begin; counts; 08 R207; reset 0 -/
  scrubTicks : Nat := 0
  passWait : Nat := 0
  /-- `PAIRERR`; 32 bits saturating; 08 R203; reset 0 -/
  pairerr : Nat := 0
  /-- Run of failed pair reads (0x76); count; 08 Table 8.6; reset 0 -/
  pairRun : Nat := 0
  /-- MRAM banks A and B: slots of each group (first index = group number); 08 R204, Table 8.3; reset: manufacture content of 02 R34 -/
  bankA : Tab (List Slot) := []
  bankB : Tab (List Slot) := []
  /-- Unverified accumulators, and registers in copies W1 and W2 (index 16 p + q); 96 and 64-bit pairs; 08 R195, Table 8.2; reset 0 -/
  uvAcc : Tab (Pair 96) := []
  uve : Tab (Pair 64) := []
  uveW2 : Tab (Pair 64) := []
  /-- Metrology-fault state and cause per point, 32-bit pair (0 none, else the cause); 08 R196; reset 0 -/
  fault : Tab (Pair 32) := []
  /-- `UVFRL`/`UVFRH` frame of entry; 48 bits; 08 R195; reset 0 -/
  uvFrame : Tab Frame := []
  /-- Ticks since fault entry (0x79); count; 08 Table 8.6; reset 0 -/
  faultTicks : Tab Nat := []
deriving DecidableEq, Repr

/-! ## Billing (09) -/

/-- An open demand interval of a point (09 R222 to R226). -/
structure Interval where
  isOpen : Bool := false
  start : BitVec 64 := 0
  /-- Energies of 0x1, 0x2, 0x7, 0x8 in the open interval. -/
  e : List Nat := [0, 0, 0, 0]
  /-- Sub-interval energies, newest first. -/
  subs : List (List Nat) := []
  short : Bool := false
  tinv : Bool := false
  outage : Bool := false
  ticks : Nat := 0
  /-- Demands and close of the last interval (`BDLAST`, `BDLTS`). -/
  last : List Nat := [0, 0, 0, 0]
  lastTs : BitVec 64 := 0
deriving DecidableEq, Repr

/-- A closed billing set: 96 registers, 32 maximum demands and timestamps, tariff index and header, every one as a pair
(01 Table 1.1; 09 R229, Table 9.5). -/
structure BillingSet where
  reg : Tab (Pair 64) := []
  md : Tab (Pair 64) := []
  mdts : Tab (Pair 64) := []
  tariff : Pair 32 := ⟨0, 0xFFFFFFFF⟩
  hseq : Pair 32 := ⟨0, 0xFFFFFFFF⟩
  hclose : Pair 64 := ⟨0, BitVec.allOnes 64⟩
  hstart : Pair 64 := ⟨0, BitVec.allOnes 64⟩
  hinfo : Pair 32 := ⟨0, 0xFFFFFFFF⟩
  hplan : Pair 32 := ⟨0, 0xFFFFFFFF⟩
  hframe : Pair 64 := ⟨0, BitVec.allOnes 64⟩
deriving DecidableEq, Repr

/-- A demand interval closed at a boundary whose last frame's energy is still to pass (09 R222, 02 R38). -/
structure IvClose where
  point : Nat
  tariff : Nat
  minutes : Nat
  n : Nat
  e : List Nat
  subs : List (List Nat)
  short : Bool
  stamp : BitVec 64
deriving DecidableEq, Repr

/-- What a billing close takes of a point before later steps of the same tick change it: tariff index, QEXP, metrology-fault state
(09 R230). -/
structure SetHead where
  point : Nat
  tidx : Pair 32
  qexp : Int
  fault : Bool
deriving DecidableEq, Repr

/-- A billing close whose last frame's energy is still to pass (09 R229). -/
structure SetDue where
  pts : List SetHead
  stamp : BitVec 64
  cause : Nat
  missed : Nat
  plan : Word
  frame : Frame
deriving DecidableEq, Repr

/-- A boundary step to finish, in the order of Table 9.6. -/
inductive BndDue where
  | iv (c : IvClose)
  | set (c : SetDue)
deriving DecidableEq, Repr

structure Billing where
  /-- Billing registers, copy W1 and copy W2 (index 96 p + 12 (t-1) + (q-1)); 64-bit pairs; 09 R212, 08 Table 8.2; reset 0 -/
  w1 : Tab (Pair 64) := []
  w2 : Tab (Pair 64) := []
  /-- Recovery-energy pairs `MDRCE` and their accumulators (index 16 p + q); 64 and 96-bit pairs; 16 R379, R380; reset 0 -/
  rce : Tab (Pair 64) := []
  rcAcc : Tab (Pair 96) := []
  /-- Maximum demand and timestamp (index 32 p + 4 (t-1) + m), copies W1 and W2; 64-bit pairs; 09 R225, 08 Table 8.2; reset 0 -/
  md : Tab (Pair 64) := []
  mdW2 : Tab (Pair 64) := []
  mdts : Tab (Pair 64) := []
  mdtsW2 : Tab (Pair 64) := []
  /-- Tariff index per point, copies W1 and W2; 32-bit pair; 09 R214, 08 Table 8.2; reset 0 (`BTARIF` Reset column) -/
  tidx : Tab (Pair 32) := []
  tidxW2 : Tab (Pair 32) := []
  /-- Open intervals per point; 09 R222 to R226; reset none open -/
  iv : Tab Interval := []
  /-- `BSTS.REVIMP`, NEWMD, TSWEV per point; 1 bit each; 09 Table 9.10; reset 0 -/
  revimp : Tab Bool := []
  newmd : Tab Bool := []
  tswev : Tab Bool := []
  revRun : Tab Nat := []
  /-- Billing sets per point, age 1 first (at most 13); 09 R229; reset none -/
  sets : Tab (List BillingSet) := []
  /-- Closes per point since manufacture (`HSEQ`); 32 bits; 09 Table 9.5; reset 0 -/
  closes : Tab Nat := []
  /-- `BLSTS` CLOSED, CREF, DROP, CATCHUP; 1 bit each; 09 Table 9.11; reset 0 -/
  closed : Bool := false
  cref : Bool := false
  drop : Bool := false
  catchup : Bool := false
  /-- `BLLCB` last closed boundary, copies W1 and W2; 64-bit pair; 09 R227, 08 Table 8.2; reset 0 -/
  lcb : Pair 64 := ⟨0, BitVec.allOnes 64⟩
  lcbW2 : Pair 64 := ⟨0, BitVec.allOnes 64⟩
  /-- `BLSSEL` point and age; 7 and 4 bits; 09 Table 9.9; reset 0, 1 -/
  selPoint : Nat := 0
  selAge : Nat := 1
  /-- Close by command accepted, closing at the next tick; 09 R228; reset none -/
  cmdDue : Option Word := none
  /-- Second of the last close by command; 09 R228; reset none -/
  lastCmd : Option Nat := none
  /-- Points under the default tariff by clock loss; 09 R220; reset none -/
  deflt : List Nat := []
  /-- Points in fallback, ordered by a Slate source or by metering tamper; 09 R221; reset none -/
  fallbk : List Nat := []
  /-- Fallback decided, to apply at the next tick; 09 R221; reset none -/
  fbDue : List Nat := []
  /-- The clock was lost: the default tariff applies from the next tick; 1 bit; 09 R220, 01 R21; reset 0 -/
  defDue : Bool := false
  /-- Points released from fallback, effective at the next tick; 09 R221, 01 R21; reset none -/
  relDue : List Nat := []
  /-- Points that wait for their next calendar boundary (R220), with ticks waited; reset none -/
  waiting : List (Nat × Nat) := []
  /-- Ticks in the default tariff (0xA5); count; 09 Table 9.7; reset 0 -/
  defTicks : Nat := 0
  /-- UTC second from which the time runs on without a set, a restore or a loss of the clock; 40 bits; 09 R220, R227; DESIGN CHOICE 0 log 6 -/
  evalSec : Nat := 0
  /-- Boundary steps of the last boundary tick, finished once the energy of the frame before it has passed; 09 R222, 02 R38; reset none -/
  fin : List BndDue := []
  /-- Tariffs in force for the frame before the last boundary tick, where they changed; 09 R215; reset none -/
  oldTar : Tab Nat := []
  /-- Intervals as committed at the power fail, to close at restore; 09 R233; reset false -/
  restorePend : Bool := false
deriving DecidableEq, Repr

/-! ## Slate: RTC, alarms, tamper, seal, key RAM (10, 11) -/

/-- One alarm slot with its latch (10 R248 to R253). -/
structure Alarm where
  time : Nat := 0
  per : Nat := 0
  en : Bool := false
  skip : Bool := false
  notify : Bool := false
  log : Bool := false
  fired : Bool := false
  late : Bool := false
  drop : Bool := false
  latSec : Nat := 0
  latCnt : Nat := 0
  latSet : Bool := false
deriving DecidableEq, Repr

/-- RTC capture registers (10 R247). -/
structure RtcCap where
  done : Bool := false
  halted : Bool := false
  invalid : Bool := false
  sec : Nat := 0
  sub : Nat := 0
  frame : Frame := 0
  cyc : Nat := 0
deriving DecidableEq, Repr

structure Rtc where
  /-- UTC seconds since 2000; 40 bits; 10 R238; reset 0 -/
  sec : Nat := 0
  /-- Sub-second; 15 bits; 10 R238; reset 0 -/
  sub : Nat := 0
  /-- Slate time since the last second edge, in 1/125 Slate cycle (a tick is 256 of them), behind the sub-second; 10 R238; reset 0 -/
  subAcc : Nat := 0
  /-- `RTCCTL.HALT`, RELPPS; 1 bit each; 10 Table 10.6; reset 0 -/
  halt : Bool := false
  relpps : Bool := false
  /-- HALT clear written and deferred to the PPS edge; 1 bit; 10 R245; reset 0 -/
  relWait : Bool := false
  /-- Counter, sub-second and requester held by HALT (t0), new time written; 10 R244, R245; reset 0 -/
  haltSec : Nat := 0
  haltSub : Nat := 0
  newSec : Nat := 0
  haltReq : Requester := .host
  /-- Ticks since HALT was set; count; 10 R245; reset 0 -/
  haltTicks : Nat := 0
  haltInv : Bool := false
  /-- `RTCSTS.VALID`; 1 bit; 10 R241; reset 0 -/
  valid : Bool := false
  /-- `RTCSTS.INVCAUSE`; 3 bits; 10 Table 10.1; reset 1 -/
  invcause : Nat := 1
  /-- `RTCSTS` WERR, HREF, HTO, COLD, OSCSTOP, VBATLOW, CELLRUN; 1 bit each; 10 Table 10.7; reset 0 but COLD 1 -/
  werr : Bool := false
  href : Bool := false
  hto : Bool := false
  cold : Bool := true
  oscstop : Bool := false
  vbatlow : Bool := false
  cellrun : Bool := false
  /-- The Slate runs on the cell now; 1 bit; 10 R243; DESIGN CHOICE false (VIO) log 7 -/
  onCell : Bool := false
  /-- `RTCTRIM.TRIM`; 9 bits signed; 10 R254; reset 0 -/
  trim : Int := 0
  /-- `RTCPPS` MODE, VALID, LOSS, PHBIG; 10 Table 10.5; reset 0 -/
  ppsMode : Nat := 0
  ppsValid : Bool := false
  /-- A valid edge came in the last 4 s, in any mode: the next one is judged by its interval; 1 bit; 10 R254; reset 0 -/
  ppsSeen : Bool := false
  ppsLoss : Bool := false
  phbig : Bool := false
  /-- `RTCPPSE`, `RTCPPSF`; 16 and 32 bits signed; 10 R254; reset 0 -/
  ppse : Int := 0
  ppsf : Int := 0
  /-- Intervals of the last 64 valid edges; edges since the last trim step; extra cycles of the phase slew; 10 Table 10.3; reset none -/
  ppsIv : List Nat := []
  ppsN : Nat := 0
  slew : Int := 0
  /-- `RTCVBAT` mV and VALID; 12 bits, 1 bit; 10 Table 10.5; reset 0 -/
  vbat : Nat := 0
  vbatOk : Bool := false
  /-- Capture registers; 10 R247, Table 10.5; reset 0 -/
  cap : RtcCap := {}
  /-- Alarm slots and latches; 10 R248, Table 10.5; reset 0 -/
  al : Tab Alarm := []
  /-- `BKMEM`; 32 words; 10 R256; reset 0 -/
  bk : Tab Word := []
  /-- Clock sets accepted, to reach the legal core at the next tick, oldest first: (t0, t0 sub, t1, requester, relpps, was invalid);
  10 R246; reset none -/
  setDue : List (Nat × Nat × Nat × Requester × Bool × Bool) := []
  /-- Events of Slate acts that arose while the recorder had no power, raised at restore: (code, channel, v); 10 R243, 11 R274; reset
  those of the cold start whose reset values these are: 0xC1 with cause 1, and 0xC3 -/
  evDue : List (Nat × Nat × Option Int) := [(0xC1, 0xFF, some 1), (0xC3, 0xFF, none)]
  /-- Slate second edges counted since the cold start, behind every duration of a Slate condition (the model's own); DESIGN CHOICE 0 log 22 -/
  edges : Nat := 0
  /-- Second edges counted when PPS was lost (0xC8); 10 R255; reset 0 -/
  ppsLostAt : Nat := 0
  /-- Last UTC second at which the clock was valid on main power, and ticks since; 09 Table 9.4; reset 0 -/
  lastValid : Nat := 0
  invTicks : Nat := 0
deriving DecidableEq, Repr

/-- One tamper source (11 R263 to R266, Tables 11.6, 11.9). -/
structure Source where
  cfg : Word := 0
  win : Nat := 0x3E8
  cnt : Nat := 0
  isOpen : Bool := false
  declared : Bool := false
  sticky : Bool := false
  active : Bool := false
  /-- Events of the open window by detector. -/
  statEv : Bool := false
  loopEv : Bool := false
  dsec : Nat := 0
  dtinv : Bool := false
  /-- Unit B's own count and declaration (R267). -/
  cntB : Nat := 0
  declB : Bool := false
  /-- MODE and RATE in effect on a pin: a written one takes effect at the next burst multiple (R264). -/
  mode : Nat := 0
  rate : Nat := 0
  /-- Slate time at which the open window began, in 1/125 Slate cycle (R266). -/
  openT : Nat := 0
deriving DecidableEq, Repr

/-- What a double decision decides, with the data its effect needs (11 Table 11.3). -/
inductive Decision where
  | sealOpen
  | firmware
  | plan (n : Frame) (req : Requester)
  | calCommit
  | stickyClear (mask : Nat)
  | reinstate (w : Word)
  | erase
  | lock
  | fallback
deriving DecidableEq, Repr

/-- A decision taken by its first evaluator and awaiting the second (11 R268). -/
structure PendDec where
  dec : Decision
  first : Bool
deriving DecidableEq, Repr

/-- A tamper latch: what a declaration leaves for the restore (11 R274). -/
structure TamperLatch where
  sec : Nat
  src : Nat
  log : Bool
  notify : Bool
  fallbk : Bool
  lock : Bool
  erased : Bool
  cell : Bool
deriving DecidableEq, Repr

structure Tamper where
  /-- `SEALSTS.STATE`; 2 bits (0 CLOSED, 1 REQUESTED, 2 OPEN); 11 Table 11.7; reset 0 -/
  sealSt : Nat := 0
  /-- `SEALST`; 32-bit pair; 11 R261; reset 0x0000_00C5 -/
  sealst : Pair 32 := ⟨0xC5, 0xFFFFFF3A⟩
  /-- `SEALSTS` REARM, DENY, PIN, PENDCELL; 1 bit each; 11 Table 11.7; reset 1, 0, 0, 0 -/
  rearm : Bool := true
  deny : Bool := false
  pin : Bool := false
  pendcell : Bool := false
  /-- SEAL_N level being debounced, true low; 1 bit; 11 R260; DESIGN CHOICE none (pin high) log 8 -/
  deb : Option Bool := none
  /-- `SEALCNT`; 32 bits saturating; 11 Table 11.6; reset 0 -/
  sealcnt : Nat := 0
  /-- Slate second edges counted when the seal last opened; count; 11 Table 11.5; reset 0 -/
  openAt : Nat := 0
  /-- Slate second edges counted when the seal last closed, none before the first close; count; 11 Table 11.5; reset none -/
  closeAt : Option Nat := none
  /-- The 16 sources: `TPCFG`, `TPWIN`, `TPCNT`, `TPDSEC`, `TPSTICKY`, `TPACT`; 11 Table 11.6; reset as that table -/
  src : Tab Source := []
  /-- `TPDISAG`; 16 bits; 11 R265; reset 0 -/
  disag : BitVec 16 := 0
  /-- `TPSTS` LOCKED, FALLBK, ERASED, DDDIS; 1 bit each; 11 Table 11.8; reset 0 -/
  locked : Bool := false
  fallbk : Bool := false
  erased : Bool := false
  dddis : Bool := false
  /-- Tamper latches awaiting restore (`TPSTS.LATCHED`); 11 R274; reset none -/
  latches : List TamperLatch := []
  /-- `TPCLR` as last accepted; 32 bits; 11 R276, 01 R18; reset 0 -/
  clr : Word := 0
  /-- `TPCLRR` flags and result; 16 and 2 bits; 11 Table 11.6; reset 0 -/
  clrFlags : Nat := 0
  clrRes : Nat := 0
  /-- `DDSTS`; 32 bits; 11 Table 11.6; reset 0 -/
  ddsts : Word := 0
  /-- `TPERAC`; 32 bits saturating; 11 R273; reset 0 -/
  erac : Nat := 0
  /-- `TPESEC`/`TPEINF`: second, TINV, mask; 40, 1, 16 bits; 11 R273; reset 0 -/
  esec : Nat := 0
  etinv : Bool := false
  emask : Nat := 0
  /-- Erase recorded on the cell; 1 bit; 11 R273; reset 0 -/
  ecell : Bool := false
  /-- Decisions awaiting their second evaluator, oldest first; 11 R268; reset none -/
  dd : List PendDec := []
  /-- Delay pool of 64 six-bit values and its position; 11 R268; reset: not yet drawn -/
  pool : List Nat := []
  poolPos : Nat := 0
  /-- Loop LFSR seed; 11 R264; reset: not yet drawn -/
  lfsr : Nat := 0
  /-- Burst-phase counter, Slate cycles at its last multiple of 1,024; 15 bits; 11 R264; reset 0 -/
  burst : Nat := 0
  /-- Slate time since the cold start, in 1/125 Slate cycle, behind the count windows (the model's own); 11 R266; DESIGN CHOICE 0 log 121 -/
  slate : Nat := 0
  /-- Slate die temperature in range at the last sample (source 10); 1 bit; 11 Table 11.2; DESIGN CHOICE true log 9 -/
  tempOk : Bool := true
  /-- `MTCFG`, `MTTHR1`, `MTTHR2`; 32 bits; 11 Table 11.6; reset as that table -/
  mtcfg : Word := 0x0566660F
  mtthr1 : Word := 0x00640032
  mtthr2 : Word := 0x00640064
  /-- Metering tamper per point (index 4 p + condition): declared, windows counted, ticks declared; 11 R277; reset 0 -/
  mt : Tab (Bool × Nat × Nat) := []
  /-- Slate second edges counted when the lock was applied (0xDE); count; 11 Table 11.5; reset 0 -/
  lockAt : Nat := 0
  /-- Key RAM: loaded slots; 64 × 64 bytes; 10 R257, 14 R340; reset empty -/
  keys : Tab (List Byte) := []
  /-- Key RAM erased since the last accepted load (QFLG [3]); 1 bit; 14 Table 14.6; DESIGN CHOICE true (cold start) log 10 -/
  keysErased : Bool := true
deriving DecidableEq, Repr

/-! ## Event recorder (12) -/

/-- A summary, open or stored (12 Table 12.3); `ok` says that the mark word of a stored one is valid (R281). -/
structure Summary where
  code : Nat
  chan : Nat
  sev : Nat
  endonly : Bool := false
  early : Bool := false
  cut : Bool := false
  xvalid : Bool := false
  sseq : Word := 0
  count : Nat := 0
  supp : Nat := 0
  fops : Nat := 0
  lops : Nat := 0
  fpwc : Nat := 0
  lpwc : Nat := 0
  xmin : Int := 0
  xmax : Int := 0
  hist : List Nat := [0, 0, 0, 0, 0, 0, 0, 0]
  ok : Bool := true
deriving DecidableEq, Repr

/-- A privileged entry that is due, before it is written (12 R289 to R292). -/
structure PrivDue where
  ptype : Nat
  parts : Nat
  refusable : Bool
  payload : List Byte
  /-- Retired residues of a plan change, by output: Table 12.6 gives its payload no place for them (05 R120 step 6, log 134). -/
  residues : List (Nat × Pair 96) := []
  cell : Bool := false
  restored : Bool := false
  /-- Its parts were counted in `ERPLOST` (12 R292). -/
  lost : Bool := false
deriving DecidableEq, Repr

/-- A stored privileged part (12 Table 12.5). -/
structure PrivPart where
  seq : Nat
  ptype : Nat
  part : Nat
  count : Nat
  flg : Nat
  frame : Frame
  time : BitVec 64
  payload : List Byte
  /-- Retired residues of a plan change, in its part 0 (log 134). -/
  residues : List (Nat × Pair 96) := []
  ok : Bool := true
deriving DecidableEq, Repr

/-- Token bucket of a code (12 R287, Table 12.10). -/
structure Bucket where
  burst : Nat
  period : Nat
  tokens : Nat
  /-- Tick, counted from the first tick of START, of the next refill. -/
  next : Nat
deriving DecidableEq, Repr

structure Recorder where
  /-- `ERSTS` SDROP, PLOST, CLRBUSY, ACKREF, CLRREF, EARLY; 1 bit each; 12 Table 12.8; reset 0 -/
  sdrop : Bool := false
  plost : Bool := false
  clrbusy : Bool := false
  ackref : Bool := false
  clrref : Bool := false
  early : Bool := false
  /-- `ERCUR` AREA and MODE; 2 bits each; 12 Table 12.9; reset 1, 2 -/
  area : Nat := 1
  mode : Nat := 2
  /-- `ERCIDX`; 32 bits; 12 R297; reset 0 -/
  cidx : Nat := 0
  /-- `ERRSTS.END`; 1 bit; 12 R297; reset 0 -/
  atEnd : Bool := false
  /-- `EROPS` operating-seconds and ticks into the next; 32 bits; 12 R283; reset 0 -/
  ops : Nat := 0
  opsTicks : Nat := 0
  /-- `ERPWC`; 32 bits; 12 R283; reset 0 -/
  pwc : Nat := 0
  /-- `ERSNEXT`; 32 bits; 12 R286; reset 0 -/
  snext : Word := 0
  /-- `ERPSEQ` next privileged SEQ; 32 bits; 12 R290; reset 0 -/
  pseq : Nat := 0
  /-- `ERPWM` watermark; 32 bits; 12 R292; reset 0 -/
  wm : Nat := 0
  /-- `ERPRES` parts reserved; 13 bits; 12 R292; reset 0 -/
  pres : Nat := 0
  /-- `ERPLOST`; 32 bits saturating; 12 R292; reset 0 -/
  plostN : Nat := 0
  /-- `ERSDROP` per severity; 32 bits saturating; 12 R286; reset 0 -/
  sdropN : Tab Nat := []
  /-- `ERCFG.WRAP`; 4 bits; 12 Table 12.7; reset 7 -/
  wrap : BitVec 4 := 7
  /-- `ERAGW` per severity; 17 bits; 12 Table 12.7; reset 86400, 3600, 600, 60 -/
  agw : List Nat := [86400, 3600, 600, 60]
  /-- `ERCHAL0/1`; 64 bits; 12 R295; reset 0 -/
  chal : BitVec 64 := 0
  /-- `ERAUTH0/1`; 64 bits, write-only; 12 R295; DESIGN CHOICE 0 log 11 -/
  auth : BitVec 64 := 0
  /-- `ERRL` buckets, where they differ from Table 12.11; 12 R287; reset as Table 12.11 -/
  rl : Tab Bucket := []
  /-- Working set of open summaries (at most 512), by entry; 12 R285; reset none -/
  work : List Summary := []
  /-- Summary area: stored records by index 0 to 12,271; 12 R280; reset none -/
  area0 : Tab Summary := []
  /-- Privileged area by ring position; 12 R290; reset none -/
  parts : Tab PrivPart := []
  /-- Privileged entries due, oldest first (record-due marks); 12 R291; reset none -/
  due : List PrivDue := []
  /-- Summaries closed during a clear pass, waiting; 12 R296; reset none -/
  waitS : List Summary := []
  /-- Records the running clear pass has covered; 12 R296; reset 0 -/
  clrPos : Nat := 0
deriving DecidableEq, Repr

/-! ## Display (13) -/

/-- Display rails: the supply state of one rail. -/
inductive Rail where
  | off | enabled | good
deriving DecidableEq, Repr

/-- A segment's optical state (13 R317). -/
inductive Optic where
  | light | dark | inter | unknown
deriving DecidableEq, Repr

/-- A segment: state, counters and fault (13 R304, R310). -/
structure Segment where
  opt : Optic := .light
  dci : Int := 0
  swc : Nat := 0
  fault : Bool := false
  /-- Misses in a row. -/
  miss : Nat := 0
  /-- Waveform in progress: 0 none, 1 dark, 2 light, 3 clear. -/
  wave : Nat := 0
deriving DecidableEq, Repr

/-- Region states (13 Table 13.6). -/
inductive RgState where
  | idle | pending | driving
deriving DecidableEq, Repr

/-- A region: state, targets, phase and journal (13 R314, R317). The journal's target, PHASE and band are those of the update it
stands for. -/
structure Region where
  st : RgState := .idle
  target : BitVec 24 := 0
  pend : Option (BitVec 24) := none
  phase : Nat := 0
  steps : Nat := 0
  band : Nat := 0
  /-- Clear in progress at power-up: 0 none, 1 dark part, 2 clear part (R318). -/
  clear : Nat := 0
  jopen : Bool := false
  jframe : Frame := 0
  /-- SDIG, the digest of the last committed state vector; none before the first commit. -/
  sdig : Option Word := none
deriving DecidableEq, Repr

structure Display where
  /-- `DPCTL.EN`; 1 bit; 13 Table 13.11; reset 1 -/
  en : Bool := true
  /-- Rails VNEG, VPOS, VCOM, behind `DPSTS.COND` and RAILOK; 13 R302 to R305; reset off -/
  vneg : Rail := .off
  vpos : Rail := .off
  vcom : Rail := .off
  /-- Power-up and power-down in progress; 1 bit each; 13 R303, R305; reset 0 -/
  poweringUp : Bool := false
  poweringDown : Bool := false
  /-- Ticks since the last step boundary; none while no step grid runs; 13 R300; reset none -/
  grid : Option Nat := none
  /-- Ticks since the last rail was enabled; a count; 13 Table 13.4; reset 0 -/
  railTicks : Nat := 0
  /-- `DPSTS` PROF, PROFREF, RFAULT, SFAULT, REBAL, and an open deferral of 0xE2; 1 bit each; 13 Table 13.12, R315; reset 0 -/
  prof : Bool := false
  profref : Bool := false
  rfault : Bool := false
  sfault : Bool := false
  defer : Bool := false
  rebal : Bool := false
  /-- A rail fault persists (degraded); 1 bit; 13 R304; reset 0 -/
  railBad : Bool := false
  /-- `DPSTS.PRSN`, BAND; 2 and 3 bits; 13 Table 13.12; reset 0 -/
  prsn : Nat := 0
  band : Nat := 0
  /-- `DPSTS.ITEM`; 6 bits; 13 Table 13.12; reset 0 -/
  item : Nat := 0
  /-- `DPFLK.LEVEL`; 8 bits; 13 R319; reset 0 -/
  flk : Nat := 0
  /-- Level in effect; 8 bits; 13 Table 13.10; reset 0 -/
  flkEff : Nat := 0
  /-- The power-up clear has ended and the frontlight is permitted; 1 bit; 13 R303; reset 0 -/
  lit : Bool := false
  /-- The first scroll item is due at the next tick; 1 bit; 13 Table 13.4; reset 0 -/
  firstDraw : Bool := false
  /-- `DPTEMP`; 32 bits signed; 13 Table 13.10; reset 0 -/
  temp : Int := 0
  /-- `DPPCRC`; 32 bits; 13 Table 13.10; reset 0 -/
  pcrc : Word := 0
  /-- Segments: state, `DPDCI`, `DPSWC`, `DPSFLT`; 13 R310, Table 13.10; reset light, 0 -/
  seg : Tab Segment := []
  /-- Regions and journals, `DPRGN`; 13 R314, R317; reset IDLE -/
  rgn : Tab Region := []
  /-- `DPFREE` words as written; 14 bits; 13 Table 13.10; reset 0 -/
  free : Tab Word := []
  /-- `DPPROF` staging; 256 words; 13 Table 13.10; reset 0 -/
  stage : Tab Word := []
  /-- Accepted profile waiting for an idle boundary; 1,024 bytes; 13 R307; reset none -/
  profNext : Option (List Byte) := none
  /-- Profile in use; 1,024 bytes, empty = the factory profile; 13 R306; reset factory -/
  profile : List Byte := []
  /-- Rebalance step kind (true positive), steps run, and the imbalances committed before the run; 13 R312; reset none -/
  rebKind : Bool := true
  rebSteps : Nat := 0
  rebSaved : Tab Int := []
  /-- Scroll: ticks the item has been shown, ticks since the press that suspended auto-advance, ticks since the last draw; 13 R322,
  R323; reset 0, none, 0 -/
  shown : Nat := 0
  suspend : Option Nat := none
  sinceDraw : Nat := 0
  /-- Targets last drawn for regions 0 to 10, and the ERR indicator; 13 R323; reset none -/
  drawn : List Nat := []
  err : Bool := false
  /-- Ticks since the rail fault, and since the first deferral; counts; 13 R304, Table 13.9; reset 0 -/
  retry : Nat := 0
  deferTicks : Nat := 0
deriving DecidableEq, Repr

/-! ## Trust (14) -/

/-- Firmware load states (14 Table 14.8). -/
inductive FwState where
  | empty | loading | valid | rejected | accepted
deriving DecidableEq, Repr

/-- A firmware slot: image bytes and failed mark (14 R333, R335); `factory` marks the image written at manufacture, whose
bytes are a free value (log 32). -/
structure FwSlot where
  img : List Byte := []
  failed : Bool := false
  factory : Bool := false
deriving DecidableEq, Repr

/-- A measurement-log entry (14 Table 14.3). -/
structure MLog where
  lseq : Nat
  reg : Nat
  kind : Nat
  frame : Frame
  digest : BitVec 256
deriving DecidableEq, Repr

/-- A queued quote request (14 R336). `hdr` is the chain header of a QUOTE OP. -/
structure QuoteReq where
  path : Requester
  nonce : List Byte
  /-- Tick of its arrival. -/
  tick : Nat := 0
  hdr : Option CobaltHdr := none
deriving DecidableEq, Repr

structure Trust where
  /-- `TRSTS` KEYOK, FWOWN, FALLBACK, CHKPT, KEYREF; 1 bit each; 14 Table 14.9; reset 0 -/
  keyok : Bool := false
  fwown : Bool := false
  fallback : Bool := false
  chkpt : Bool := false
  keyref : Bool := false
  /-- `TRFWSTS` STATE, CORE, code; 14 Table 14.8; reset 0 -/
  fst : FwState := .empty
  fcore : Bool := false
  fcode : Nat := 0
  /-- Owner of the firmware load; 14 R334; reset none -/
  fowner : Option Requester := none
  /-- `TRFWPTR`; 32 bits saturating; 14 R334; reset 0 -/
  fptr : Nat := 0
  /-- Firmware slots (0 legal A, 1 legal B, 2 application A, 3 application B), 1 MiB each; 14 R333; DESIGN CHOICE the images
  of manufacture in the slots A, none in the slots B, log 32 -/
  slots : Tab FwSlot := [(0, { factory := true }), (2, { factory := true })]
  /-- `TRSLOT` running and next per core; 1 bit each; 14 Table 14.8; reset 0 -/
  runL : Bool := false
  nextL : Bool := false
  runA : Bool := false
  nextA : Bool := false
  /-- Images running (a started image), awaiting CONFIRM with ticks; 14 R335; reset 0 -/
  confL : Bool := false
  confA : Bool := false
  confTicks : Nat := 0
  /-- Cores (true application) whose running slot the next BOOT marks failed for a missing CONFIRM; 14 R335; reset none -/
  confOut : List Bool := []
  /-- `TRSVNL`, `TRSVNA`; 32-bit pairs; 14 R335; reset 0 -/
  svnL : Pair 32 := ⟨0, 0xFFFFFFFF⟩
  svnA : Pair 32 := ⟨0, 0xFFFFFFFF⟩
  /-- `TRLCV`; 32-bit pair; 14 R331; reset 0 (both words, Reset column) -/
  lcv : Pair 32 := ⟨0, 0xFFFFFFFF⟩
  /-- `TRCKHL`, `TRCKHA`; 8 words each; 14 Table 14.8; reset 0 -/
  ckhL : Tab Word := []
  ckhA : Tab Word := []
  /-- `TRQSTS` BUSY (from the queue), DONE, REF, REASON; 14 Table 14.11; reset 0 -/
  qdone : Bool := false
  qref : Bool := false
  qreason : Nat := 0
  /-- `TRNONCE`; 8 words; 14 Table 14.8; reset 0 -/
  nonce : Tab Word := []
  /-- Quote queue (at most 4) and the running quote's captured bytes; 14 R336; reset none -/
  quotes : List QuoteReq := []
  quoteRun : Option (QuoteReq × List Byte) := none
  /-- `TRQUOTE` last host quote; 432 bytes; 14 R337; reset 0 -/
  quote : List Byte := []
  /-- Quotes issued since manufacture; 32 bits; 14 Table 14.6; reset 0 -/
  qcnt : Nat := 0
  /-- `TRPUB` public key; 64 bytes; 14 R332; reset 0 -/
  pub : List Byte := []
  /-- Recorded public-key hash; 256 bits; 14 R332; reset none -/
  pubHash : Option (BitVec 256) := none
  /-- `TRLIDX`; 8 bits; 14 Table 14.8; reset 0 -/
  lidx : Nat := 0
  /-- Measurement log, oldest first, next LSEQ and `TRLCNT` checkpoints; 14 R329, R330; reset 0 -/
  log : List MLog := []
  lseq : Nat := 0
  ckpts : Nat := 0
  /-- MEAS0–MEAS7; 256 bits each; 14 R328; reset 0 -/
  meas : Tab (BitVec 256) := []
  /-- `TRKSTS` result and reason; 2 bits each; 14 Table 14.8; reset 0 -/
  kres : Nat := 0
  kreason : Nat := 0
  /-- `TRKBUF`; 64 bytes, write-only; 14 R340; DESIGN CHOICE 0 log 11 -/
  kbuf : Tab Word := []
  /-- `TRTAG` user tag area; 128 words; 14 R339; reset 0 -/
  tag : Tab Word := []
  /-- `TRTAGD` digest; 256 bits; 14 R339; reset 0 -/
  tagd : BitVec 256 := 0
  /-- Applied tag writes whose digest update is due: bytes written; 14 R339; reset none -/
  tagDue : List (Nat × Nat) := []
  /-- Quote statuses delivered to the chain or DLMS; 14 R336; reset none -/
  issued : List (Requester × List Byte) := []
deriving DecidableEq, Repr

/-! ## Interfaces and Cobalt (15) -/

/-- A forwarded RWL request: requester and (address, word) list (17 R399). -/
structure RwlReq where
  req : Requester
  words : List (Nat × Word)
deriving DecidableEq, Repr

/-- An entry of the legal request queue (01 R17). -/
inductive LegalReq where
  | ack (req : Requester) (ack d0 d1 : Option Word)
  | clear (req : Requester)
  | close (req : Requester) (w : Word)
  | carmine (req : Requester) (addr : Nat) (w : Word)
deriving DecidableEq, Repr

/-- The legal core's answer to an entry of the legal request queue (01 R17): kind 0 acknowledgement, 1 clear, 2 close, 3 other. -/
structure LegalAns where
  req : Requester
  kind : Nat
  done : Bool
deriving DecidableEq, Repr

/-- A DLMS association (15 Table 15.4). -/
structure Assoc where
  port : Nat
  client : Nat
  upper : Nat
  keyed : Bool
  /-- Its APDUs are ciphered. -/
  ciph : Bool := false
  /-- Ticks since its last exchange. -/
  idle : Nat := 0
deriving DecidableEq, Repr

/-- A Cobalt message kept for acknowledgement (15 R359, R360): header fields, the OP, ADDR, STATUS and LEN its payload carries,
and its data bytes. -/
structure OutMsg where
  hseq : Nat := 0
  type : Nat
  dst : Nat
  src : Nat := 0
  tag : Nat := 0
  op : Nat := 0
  addr : Nat := 0
  status : Nat := 0
  len : Nat := 0
  data : List Byte := []
  sends : Nat := 1
deriving DecidableEq, Repr

/-- One Cobalt port (15 R361, Table 15.13). 0 DOWN, 1 ALIGN, 2 UP, 3 REFUSED. -/
structure CbPort where
  st : Nat := 0
  pdepth : Nat := 0
  chg : Bool := false
  err : Bool := false
  viol : Nat := 0
  crcDrops : Nat := 0
  rtx : Nat := 0
  nextSeq : Nat := 0
  out : List OutMsg := []
  /-- Messages that wait for a place in the window. -/
  wait : List OutMsg := []
  drops : Nat := 0
  downTicks : Nat := 0
  refTicks : Nat := 0
  /-- Ticks since the last HELLO or marker; the A character of the last HELLO sent, none before it. -/
  silent : Nat := 0
  hello : Option Nat := none
deriving DecidableEq, Repr

/-- A chain aggregate definition (15 R364, R366). -/
structure AggDef where
  qty : Nat
  tariff : Nat
  period : Nat
  mask : List Byte
deriving DecidableEq, Repr

/-- The mailbox buffer served to the application core: what the legal core published of the Carmine blocks at the last frame tick,
with the plan and clock they were read under (01 R22, 17 R393). -/
structure Mailbox where
  pub : Tab Point := []
  cal : CalSet := {}
  calRef : Bool := false
  calseq : Pair 32 := ⟨0, 0xFFFFFFFF⟩
  calctl : Word := 0
  nvCal : CalSet := {}
  ls : Integrity := {}
  bl : Billing := {}
  plan : PlanDef := {}
  rtc : Rtc := {}
deriving DecidableEq, Repr

structure Port where
  /-- `HSTS` last non-zero CODE, CRCERR, ABORT, TMO, NOEFF; 15 Table 15.12; reset 0 -/
  code : Nat := 0
  crcerr : Bool := false
  abort : Bool := false
  tmo : Bool := false
  noeff : Bool := false
  /-- `HCFG.HTO`; 8 bits; 15 Table 15.12; reset 0x10 -/
  hto : Nat := 0x10
  /-- Ticks since the last transaction of the host, behind its timeout; count; 15 R350; reset 0 -/
  idle : Nat := 0
  /-- `HCRCC`; 32 bits saturating; 15 R369; reset 0 -/
  crcc : Nat := 0
  /-- CRC errors of the running episode; count; 15 R369; reset 0 -/
  crcRun : Nat := 0
  /-- Lengths of ended runs whose end sample is still due; counts; 15 R369; reset none -/
  crcDone : List Nat := []
  /-- `IRQSTS`, `IRQMSK`; 15 bits; 15 Table 15.5; reset 0 -/
  irqsts : BitVec 15 := 0
  irqmsk : BitVec 15 := 0
  /-- `IRQEV`, `IRQEN`; 256 bits each; 15 R351; reset 0 -/
  irqev : BitVec 256 := 0
  irqen : BitVec 256 := 0
  /-- `IRQTAMP`; 16 bits; 15 Table 15.12; reset 0 -/
  irqtamp : BitVec 16 := 0
  /-- What the device drove in the last transaction: STATUS, data words; 15 R345 to R348; reset none -/
  status : Option (Nat × Bool × Bool) := none
  data : List Word := []
  /-- Port ignores the rest of an aborted transaction; 1 bit; 15 R350; reset 0 -/
  ignoring : Bool := false
  /-- `SUPSTS` UNMAP, RWLCLS, RWLREF; 1 bit each; 17 Table 17.8; reset 0 -/
  unmap : Bool := false
  rwlcls : Bool := false
  rwlref : Bool := false
  /-- `SUPUNA`, `SUPUNR`, `SUPRWLR`; 32, 8, 32 bits; 17 Table 17.6; reset 0 -/
  una : Nat := 0
  unr : Nat := 0
  rwlr : Nat := 0
  /-- `SUPSCR0`–`SUPSCR3`; 32 bits each; 17 Table 17.6; reset 0 -/
  scr : Tab Word := []
  /-- Forwarded RWL requests, oldest first (`SUPSTS.RWLPEND`); 17 R399; reset none -/
  rwl : List RwlReq := []
  /-- Requests accepted in the running tick: their fields take their values at the next tick unless the seal closes before it, oldest
  first; 01 R18, 16 R373; reset none -/
  rwlAcc : List RwlReq := []
  /-- Legal request queue, oldest first; 01 R17; reset none -/
  legal : List LegalReq := []
  /-- Answers on that queue, oldest first: the requester, the entry's kind and whether it was performed (at most 32 kept, log 123);
  01 R17; reset none -/
  legalAns : List LegalAns := []
  /-- Mailbox buffer served to the application core; 01 R22; reset: every value at its reset -/
  mbox : Mailbox := {}
deriving DecidableEq, Repr

structure Serial where
  /-- `U0CFG` ZMAX, EN; 3 and 1 bits; 15 Table 15.12; reset 6, 1 -/
  zmax : Nat := 6
  en0 : Bool := true
  /-- `U0STS` state (1 sign-on, 2 HDLC, 3 hand-over wait is reported as 1), Z′; 15 Table 15.12; reset 0 -/
  st0 : Nat := 0
  z : Nat := 0
  /-- Option select awaited (2 s) and accepted (300 ms); 1 bit each; 15 R352; reset 0 -/
  awaitOpt : Bool := false
  optOk : Bool := false
  /-- `U1CFG` BAUD, EN, PUSH; 15 Table 15.12; reset 0, 1, 0 -/
  baud : Nat := 0
  en1 : Bool := true
  push : Bool := false
  /-- `U1PHYS`; 14 bits; 15 Table 15.12; reset 0x0010 -/
  phys : Nat := 0x10
  /-- `DLINACT`; 10 bits; 15 Table 15.12; reset 0x78 -/
  inact : Nat := 0x78
  /-- Associations open (at most 32); 15 R354; reset none -/
  assoc : List Assoc := []
  /-- Notifications held, event codes and sources; 15 R355; reset none -/
  notify : List Nat := []
  /-- Notifications sent; 15 R355; reset none -/
  sent : List Nat := []
  /-- Last answer on the ports: identification Z, DM, UA, data words; 15 R352, R353; reset none -/
  answer : List Nat := []
  /-- Erase made keyed associations due for release; 1 bit; 15 R354; reset 0 -/
  relDue : Bool := false
  /-- Tick of that erase; ticks since the sign-on answer or option select; ticks since the last frame on UART0; counts; 15 R352, R354,
  Table 15.4; reset 0 -/
  relAt : Nat := 0
  optTicks : Nat := 0
  quiet0 : Nat := 0
  /-- Invocation counters of the two security keys; 32 bits; 15 R354; reset 0 -/
  invE : Nat := 0
  invA : Nat := 0
deriving DecidableEq, Repr

structure Cobalt where
  /-- `CBCTL` port enables, bit p; 4 bits; 15 Table 15.12; reset 0xF -/
  en : BitVec 4 := 0xF
  /-- `CBSTS` own address, ADDRVALID, ENUMRUN; 15 R362; reset 0 -/
  addr : Nat := 0
  addrValid : Bool := false
  enumRun : Bool := false
  /-- Next port of a running enumeration and next free address; 15 R362; reset 0 -/
  enumPort : Nat := 0
  enumNext : Nat := 0
  /-- `CBRSPTO`; 16 bits; 15 R365; reset 0x280 -/
  rspto : Nat := 0x280
  /-- `CBLATE`; 32 bits saturating; 15 R365; reset 0 -/
  late : Nat := 0
  /-- Ports CU, CD0–CD2; 15 R361, Tables 15.12, 15.13; reset DOWN -/
  ports : Tab CbPort := []
  /-- `CBRNG` low and high per CD port; 16 bits each; 15 R362; reset 0xFFFF, 0 -/
  rng : Tab (Nat × Nat) := []
  /-- CMDs sent and awaiting their RSP: (dst, tag, op, addr, ticks); 15 R365; reset none -/
  waiting : List (Nat × Nat × Nat × Nat × Nat) := []
  /-- A CMD for this device whose OP step follows: its header, OP and ADDR; 15 R363, R364; reset none -/
  rx : Option (CobaltHdr × Nat × Nat) := none
  /-- Aggregates defined, by ID; 15 R366; reset none -/
  aggs : Tab AggDef := []
  /-- Frame number of the last aggregate tick, to see multiples passed by a jump; 48 bits; 15 R366; reset 0 -/
  aggFrame : Nat := 0
  /-- `IFPFW` PFW_N low, comparator low, WARN, source; 1 bit each; 15 R367; reset 0 -/
  pfwPin : Bool := false
  pfwCmp : Bool := false
  warn : Bool := false
  warnSrc : Bool := false
deriving DecidableEq, Repr

/-! ## Supervisor (16) -/

/-- The commit-done pair (16 R384): W, cause, duration; `valid` false when missing. -/
structure CommitDone where
  w : Frame := 0
  cause : Nat := 1
  dur : Nat := 0
  valid : Bool := true
  /-- The pair manufacture leaves (02 R34). -/
  factory : Bool := true
deriving DecidableEq, Repr

structure Supervisor where
  /-- `MDSTS.STATE`; 4 bits; 16 R371, Table 16.10; reset 3 START -/
  st : OpState := .start
  /-- `MDSTS.RREASON`; 8 bits; 16 Table 16.4; reset 0 -/
  rreason : Nat := 0
  /-- `MDSTS.SPHASE`; 4 bits; 16 Table 16.6; reset 0 -/
  sphase : Nat := 0
  /-- Commit and reset: phase, cause (Table 17.9), W; 16 R384, R386; reset none -/
  commit : CommitPhase := .none
  cause : Nat := 0
  commitW : Frame := 0
  /-- `MDEVT` bits REQREF, CALDISC, LWDOG, AWDOG, TSTEP, PFDONE, PFINC, SLCRST; 1 bit each; 16 Table 16.11; reset 0 -/
  reqref : Bool := false
  caldisc : Bool := false
  lwdog : Bool := false
  awdog : Bool := false
  tstepE : Bool := false
  pfdone : Bool := false
  pfinc : Bool := false
  slcrst : Bool := false
  /-- `MDCTL` as last accepted; 32 bits; 16 R374, 01 R18; reset 0 -/
  mdctl : Word := 0
  /-- Accepted mode request, effective at the next tick; 16 R374; reset none -/
  modeReq : Option OpState := none
  /-- `MDSTIME`; 16 bits; 16 R377; reset 0 -/
  stime : Nat := 0
  /-- Ticks since the first tick of START; 16 R377; reset 0 -/
  startTicks : Nat := 0
  /-- `PWCDUR`, `PWCFRL`/`PWCFRH`; 16 and 48 bits; 16 Table 16.9; reset 0 -/
  pwcDur : Nat := 0
  pwcFrame : Frame := 0
  /-- `THTJ` Tj and peak; 16 bits signed each; 16 Table 16.9; reset 0 -/
  tj : Int := 0
  tjPeak : Int := 0
  /-- Thermal step in force, and consecutive samples below the leave level of steps 1 to 4; 16 R387; reset 0 -/
  tstep : Nat := 0
  below : List Nat := [0, 0, 0, 0]
  /-- `WDLCTL.PERIOD`, `WDACTL.PERIOD`; 16 bits; 16 R389, R390; reset 0x640 -/
  wdlPeriod : Nat := 0x640
  wdaPeriod : Nat := 0x640
  /-- Ticks since the last legal and application kick; counts; 16 R389; reset 0 -/
  wdlTicks : Nat := 0
  wdaTicks : Nat := 0
  /-- Operating-seconds of the legal expiries in the window (`WDLCNT`); 16 R389; reset none -/
  wdlExp : List Nat := []
  /-- The next BOOT marks the running legal slot failed (third expiry); 16 R389; reset 0 -/
  wdlMark : Bool := false
  /-- `SUPRST.CAUSE`; 4 bits; 17 R402; reset 1 -/
  suprst : Nat := 1
  /-- `SUPBFRL`/`SUPBFRH`; 48 bits; 17 Table 17.6; reset 0 -/
  bfr : Frame := 0
  /-- `SUPSTS` LEGRUN, APPRUN, RECMON; 1 bit each; 17 Table 17.8; reset 0 -/
  legrun : Bool := false
  apprun : Bool := false
  recmon : Bool := false
  /-- Boot stages run: whether a legal and an application image started, none before; 14 R327; reset none -/
  boot : Option (Bool × Bool) := none
  /-- Recovery order held in MRAM; 1 bit; 16 R379; reset 0 -/
  order : Bool := false
  /-- START reached its end and RUN begins; 1 bit; 16 Table 16.6; reset 0 -/
  startDone : Bool := false
  /-- RECOVERY is due (a start-up check failed, an order, or no legal image), with its reason; 16 R378; reset none -/
  recDue : Option Nat := none
  /-- RUN or RECOVERY entered, latches not yet processed; 1 bit; 16 R377; reset 0 -/
  restored : Bool := true
  /-- The seal closed in the running tick; 1 bit; 16 R373; reset 0 -/
  sealNow : Bool := false
  /-- Main rails present; 1 bit; 16 R372; DESIGN CHOICE true (START is powered) log 2 -/
  main : Bool := true
deriving DecidableEq, Repr

/-- A plan bank: the image bytes as loaded, and the plan the loader verified from them, completed where the image was partial
(05 R109). -/
structure PlanBank where
  img : List Byte := []
  plan : Option PlanDef := none
deriving DecidableEq, Repr

/-- Non-volatile memory outside the slots of Table 8.3: plan banks, committed sets, recorder and display copies that
MRAM keeps (05, 06 R156, 13 R317, 14). -/
structure NonVol where
  /-- The two plan banks; 512 KiB each; 05 Loading; reset empty (never held a plan) -/
  bank0 : PlanBank := {}
  bank1 : PlanBank := {}
  /-- Bank selector {bank, N}: bank in [48], N in [47:0]; 64-bit pair; 05 R121, 08 Table 8.2; reset bank 0, N 0 -/
  sel : Pair 64 := ⟨0, BitVec.allOnes 64⟩
  selValid : Bool := true
  /-- A selector was committed and its activation has not taken effect yet; 05 R123; reset 0 -/
  selPend : Bool := false
  /-- The billing steps of a selector committed before the last reset are due at the first tick of RUN or RECOVERY; 05 R123; reset 0 -/
  selRest : Bool := false
  /-- Pending-activation mark {N, owner}; 05 R123; reset none -/
  mark : Option (Frame × Nat) := none
  /-- Last committed calibration set; 06 R156; reset factory-blank -/
  cal : CalSet := {}
  /-- Committed frame number; 48-bit pair; 02 R34; reset 0 -/
  frame : Pair 48 := ⟨0, 0xFFFFFFFFFFFF⟩
  /-- Commit-done pair; 02 R34, 16 R384; reset W = 0, cause 1 (manufacture) -/
  done : CommitDone := {}
  /-- Factory ID; 16 bytes; 17 R401; written at manufacture, DESIGN CHOICE 0 log 12 -/
  fid : List Byte := List.replicate 16 0
  /-- Factory endorsement `TRENDO`; 64 bytes; 14 R332; DESIGN CHOICE 0 log 12 -/
  endo : List Byte := List.replicate 64 0
deriving DecidableEq, Repr

/-! ## The whole state -/

structure State where
  /-- Commands waiting, first in first out (the model's own queue); DESIGN CHOICE empty log 1 -/
  pending : List Instr := []
  sup : Supervisor := {}
  tb : Timebase := {}
  fe : FrontEnds := {}
  cv : Converter := {}
  qu : Queues := {}
  pl : Loader := {}
  met : Metrology := {}
  pq : PowerQuality := {}
  ls : Integrity := {}
  bl : Billing := {}
  rtc : Rtc := {}
  tp : Tamper := {}
  er : Recorder := {}
  dp : Display := {}
  tr : Trust := {}
  hp : Port := {}
  ser : Serial := {}
  cb : Cobalt := {}
  nv : NonVol := {}
  /-- Counter of free values drawn (the model's own field, log 13); DESIGN CHOICE 0 -/
  fresh : Nat := 0
deriving DecidableEq, Repr

/-- What stops a command as a fault. -/
inductive Fault where
  /-- Raised by a read or write of a channel, point, queue or slice number the device does not have, in a command
  whose operand names hardware that does not exist (01 R14 and the index ranges of the register tables). Safe. -/
  | noSuchUnit
deriving DecidableEq, Repr

/-- What refuses a command. -/
inductive Refusal where
  /-- Raised by `exec` for a command that has no meaning yet. Safe. -/
  | notModelled (mnemonic : String)
deriving DecidableEq, Repr

/-- The block right after reset: every register at its Reset column, a factory-blank device, no command waiting. -/
def State.reset : State := {}

end Sys2Proof.Machine
end

