-- ==== Sys2Proof/Machine/Ops.lean ====
section
/-! DEFINITION. The named operations every family uses: sparse tables, saturation, exact arithmetic, bytes and words,
pairs, free values, and one updater per part of the state. -/

namespace Sys2Proof.Machine

/-- What a command answers. -/
abbrev Out := Host.Outcome State Fault Refusal

/-! ## Sparse tables -/

/-- The entry of an index, `d` when it is not listed. -/
def tget {α : Type} (d : α) (k : Nat) : Tab α → α
  | [] => d
  | (j, x) :: t => if j = k then x else tget d k t

/-- Write the entry of an index, keeping the indices rising. -/
def tset {α : Type} (k : Nat) (v : α) : Tab α → Tab α
  | [] => [(k, v)]
  | (j, x) :: t => if k < j then (k, v) :: (j, x) :: t else if k = j then (k, v) :: t else (j, x) :: tset k v t

/-- Remove the entry of an index. -/
def tdel {α : Type} (k : Nat) (t : Tab α) : Tab α := t.filter fun e => e.1 != k

/-- Change the entry of an index. -/
def tmod {α : Type} (d : α) (k : Nat) (f : α → α) (t : Tab α) : Tab α := tset k (f (tget d k t)) t

/-- The indices of a table rise strictly: its one canonical form. -/
def rising {α : Type} : Tab α → Bool
  | [] => true
  | [_] => true
  | (i, _) :: (j, y) :: t => decide (i < j) && rising ((j, y) :: t)

/-! ## Numbers -/

/-- 2^32 − 1, the value a saturating 32-bit counter stops at. -/
def max32 : Nat := 0xFFFFFFFF

/-- Saturating count. -/
def satAdd (a n : Nat) : Nat := min (a + n) max32

/-- Clamp between two bounds. -/
def clampI (lo hi x : Int) : Int := max lo (min hi x)

/-- Saturation to w bits signed (06 R127). -/
def satS (w : Nat) (x : Int) : Int := clampI (-(2 ^ (w - 1))) (2 ^ (w - 1) - 1) x

/-- sat48() saturates to ±(2^47 − 1) (06 R127). -/
def sat48 (x : Int) : Int := clampI (-(2 ^ 47 - 1)) (2 ^ 47 - 1) x

/-- Saturation to w bits unsigned. -/
def satU (w : Nat) (x : Int) : Nat := (clampI 0 (2 ^ w - 1) x).toNat

/-- Arithmetic shift right: rounds toward minus infinity (06 R127). -/
def asr (x : Int) (n : Nat) : Int := x / (2 ^ n : Int)

/-- a / b rounded half away from zero; 0 when b is 0. -/
def rndDiv (a : Int) (b : Nat) : Int :=
  if b = 0 then 0
  else
    let q : Int := ((2 * a.natAbs + b) / (2 * b) : Nat)
    if a < 0 then -q else q

/-- Put an element before the first one that it does not follow. -/
def insertBy {α : Type} (le : α → α → Bool) (x : α) : List α → List α
  | [] => [x]
  | y :: l => if le x y then x :: y :: l else y :: insertBy le x l

/-- A list in rising order, equal elements in their order. -/
def sortBy {α : Type} (le : α → α → Bool) (l : List α) : List α := l.foldr (insertBy le) []

/-- Integer square root, bit by bit from bit k down, r the root so far. -/
def isqrtGo (n : Nat) : Nat → Nat → Nat
  | 0, r => if (r + 1) * (r + 1) ≤ n then r + 1 else r
  | k + 1, r => isqrtGo n k (if (r + 2 ^ (k + 1)) * (r + 2 ^ (k + 1)) ≤ n then r + 2 ^ (k + 1) else r)

/-- floor(sqrt n) for n below 2^128. -/
def isqrt (n : Nat) : Nat := isqrtGo n 63 0

/-- floor of a non-negative Int's square root; 0 below 0. -/
def isqrtI (n : Int) : Int := if n < 0 then 0 else (isqrt n.toNat : Int)

/-! ## Bits, words and bytes -/

/-- Bits [hi:lo] of a number. -/
def bits (x hi lo : Nat) : Nat := x / 2 ^ lo % 2 ^ (hi - lo + 1)

/-- One bit of a number. -/
def bitN (x i : Nat) : Bool := x / 2 ^ i % 2 == 1

/-- Bits [hi:lo] of a word. -/
def wbits (w : Word) (hi lo : Nat) : Nat := bits w.toNat hi lo

/-- A signed value as an unsigned w-bit field (two's complement). -/
def toField (w : Nat) (x : Int) : Nat := (x % (2 ^ w : Int)).toNat

/-- A w-bit field read as a signed value. -/
def fromField (w x : Nat) : Int := if 2 ^ (w - 1) ≤ x % 2 ^ w then (x % 2 ^ w : Int) - 2 ^ w else x % 2 ^ w

/-- A number as a word (mod 2^32). -/
def word (n : Nat) : Word := BitVec.ofNat 32 n

/-- Word i of a wide number, low word first (17 R396). -/
def wordOf (n i : Nat) : Word := BitVec.ofNat 32 (n / 2 ^ (32 * i))

/-- The little-endian bytes of a number (00 R6). -/
def leBytes : Nat → Nat → List Byte
  | 0, _ => []
  | k + 1, n => BitVec.ofNat 8 n :: leBytes k (n / 256)

/-- The number of a little-endian byte string. -/
def leNat : List Byte → Nat
  | [] => 0
  | b :: t => b.toNat + 256 * leNat t

/-- k little-endian bytes at an offset, as a number. -/
def leAt (l : List Byte) (off k : Nat) : Nat := leNat ((l.drop off).take k)

/-- Bytes at an offset. -/
def bytesAt (l : List Byte) (off k : Nat) : List Byte := (l.drop off).take k

/-- The words of a byte string, four bytes each, structurally on fuel. -/
def wordsOf : Nat → List Byte → List Word
  | 0, _ => []
  | k + 1, l => BitVec.ofNat 32 (leNat (l.take 4)) :: wordsOf k (l.drop 4)

/-- Words as bytes. -/
def bytesOfWords (l : List Word) : List Byte := l.flatMap fun w => leBytes 4 w.toNat

/-- Whether all bytes of a string are zero. -/
def allZero (l : List Byte) : Bool := l.all (· == 0)

/-! ## Pairs (00 R5) -/

/-- The halves are complements of each other. -/
def Pair.ok {w : Nat} (p : Pair w) : Bool := p.n == ~~~p.v

/-- The value of a pair as a signed number. -/
def Pair.int {w : Nat} (p : Pair w) : Int := p.v.toInt

/-- The pair of a signed value that fits its width. -/
def Pair.ofInt (w : Nat) (x : Int) : Pair w := Pair.of (BitVec.ofInt w x)

/-- A zero pair. -/
def Pair.zero (w : Nat) : Pair w := Pair.of 0#w

/-- A pair as the 64-bit halves a slot holds: the value zero-extended, its complement with ones (08 Table 8.3). -/
def Pair.ext {w : Nat} (p : Pair w) : Pair 64 := ⟨p.v.setWidth 64, ~~~((~~~p.n).setWidth 64)⟩

/-- The w-bit pair in the halves of a slot. -/
def Pair.cut (w : Nat) (p : Pair 64) : Pair w := ⟨p.v.setWidth w, p.n.setWidth w⟩

/-- A 96-bit pair as the halves of two slots, low word first. -/
def Pair.two (p : Pair 96) : List (Pair 64) :=
  [⟨p.v.setWidth 64, p.n.setWidth 64⟩, ⟨(p.v >>> 64).setWidth 64, ~~~(((~~~p.n) >>> 64).setWidth 64)⟩]

/-- The 96-bit pair in two slots. -/
def Pair.join (lo hi : Pair 64) : Pair 96 :=
  ⟨lo.v.setWidth 96 ||| (hi.v.setWidth 96 <<< 64), lo.n.setWidth 96 ||| (hi.n.setWidth 96 <<< 64)⟩

/-- Increments of the two lanes enter a pair: the true half through a lane A adder, the complement half through a lane B adder of the
Table 8.1 form (08 R200). -/
def Pair.add {w : Nat} (p : Pair w) (a b : Int) : Pair w := ⟨p.v + BitVec.ofInt w a, p.n + BitVec.ofInt w b + 1⟩

/-- Bitwise complement, as lane B holds every value (08 R190). -/
def compl (x : Int) : Int := -1 - x

/-! ## The parts of the state -/

def State.mapSup (s : State) (f : Supervisor → Supervisor) : State := { s with sup := f s.sup }
def State.mapTb (s : State) (f : Timebase → Timebase) : State := { s with tb := f s.tb }
def State.mapFe (s : State) (f : FrontEnds → FrontEnds) : State := { s with fe := f s.fe }
def State.mapCv (s : State) (f : Converter → Converter) : State := { s with cv := f s.cv }
def State.mapQu (s : State) (f : Queues → Queues) : State := { s with qu := f s.qu }
def State.mapPl (s : State) (f : Loader → Loader) : State := { s with pl := f s.pl }
def State.mapMet (s : State) (f : Metrology → Metrology) : State := { s with met := f s.met }
def State.mapPq (s : State) (f : PowerQuality → PowerQuality) : State := { s with pq := f s.pq }
def State.mapLs (s : State) (f : Integrity → Integrity) : State := { s with ls := f s.ls }
def State.mapBl (s : State) (f : Billing → Billing) : State := { s with bl := f s.bl }
def State.mapRtc (s : State) (f : Rtc → Rtc) : State := { s with rtc := f s.rtc }
def State.mapTp (s : State) (f : Tamper → Tamper) : State := { s with tp := f s.tp }
def State.mapEr (s : State) (f : Recorder → Recorder) : State := { s with er := f s.er }
def State.mapDp (s : State) (f : Display → Display) : State := { s with dp := f s.dp }
def State.mapTr (s : State) (f : Trust → Trust) : State := { s with tr := f s.tr }
def State.mapHp (s : State) (f : Port → Port) : State := { s with hp := f s.hp }
def State.mapSer (s : State) (f : Serial → Serial) : State := { s with ser := f s.ser }
def State.mapCb (s : State) (f : Cobalt → Cobalt) : State := { s with cb := f s.cb }
def State.mapNv (s : State) (f : NonVol → NonVol) : State := { s with nv := f s.nv }

/-- Apply an action to each element of a list in order. -/
def forEach {α : Type} (l : List α) (f : State → α → State) (s : State) : State := l.foldl f s

/-- The next free value is another one (log 13). -/
def State.nextFresh (s : State) : State := { s with fresh := s.fresh + 1 }

/-- Draw the next free value (log 13). -/
def State.draw (s : State) : Nat × State := (Config.freeNat s.fresh, s.nextFresh)

/-! ## Device-wide facts -/

/-- Main power and no hold in reset: the recorder and the SRAM blocks work (16 R371, R386; 12 R283). -/
def State.powered (s : State) : Bool :=
  match s.sup.st with
  | .off | .backup => false
  | _ => s.sup.commit != .held

/-- The device is past BOOT and not held in reset: its ports and cores serve requests (16 R371, R386; 01 R20). -/
def serving (s : State) : Bool := s.powered && s.sup.st != .boot

/-- The start-up sequence runs: in START, and in BOOT before a RECOVERY for missing legal firmware (16 R377, R379; log 41). -/
def State.starting (s : State) : Bool := s.sup.st == .start || (s.sup.st == .boot && s.sup.recmon)

/-- The states in which the metrology bills (16 R371, Table 16.2). -/
def OpState.num : OpState → Nat
  | .off => 0 | .backup => 1 | .boot => 2 | .start => 3 | .run => 4 | .calibrate => 5 | .test => 6 | .recovery => 7

/-- Requester numbers of Table 15.1 (15 R343). -/
def reqNum : Requester → Nat
  | .host => 0 | .app => 1 | .legal => 2 | .chain => 3

/-- The value pair of `SEALST` that means open. -/
def sealOpenPair : Pair 32 := Pair.of 0x3A

/-- The value pair of `SEALST` that means closed. -/
def sealClosedPair : Pair 32 := Pair.of 0xC5

/-- The seal is open: any value of `SEALST` but the open one is read as closed (11 R261). -/
def State.sealOpen (s : State) : Bool := s.tp.sealSt == 2 && s.tp.sealst == sealOpenPair

/-- The frame number as a natural number. -/
def State.fnum (s : State) : Nat := s.tb.frame.toNat

/-- Bank and activation frame of the bank selector (05 R121). -/
def NonVol.selBank (n : NonVol) : Nat := (n.sel.v >>> 48).toNat % 2
def NonVol.selN (n : NonVol) : Frame := n.sel.v.setWidth 48

/-- The selector pair of a bank and a frame. -/
def selOf (bank : Nat) (n : Frame) : Pair 64 := Pair.of (BitVec.ofNat 64 (bank * 2 ^ 48 + n.toNat))

/-- The plan in force. -/
def State.plan (s : State) : PlanDef := s.pl.act

/-- Both halves of a pair go through a function of the value, each from its own half (08 R200). -/
def Pair.via {w : Nat} (f : Nat → Nat) (p : Pair w) : Pair w := ⟨BitVec.ofNat w (f p.v.toNat), ~~~(BitVec.ofNat w (f (~~~p.n).toNat))⟩
def Pair.viaInt {w : Nat} (f : Int → Int) (p : Pair w) : Pair w := ⟨BitVec.ofInt w (f p.v.toInt), ~~~(BitVec.ofInt w (f (~~~p.n).toInt))⟩

/-- SHIFT of the low 16 bits of a frame number for a queue tag (04 R101). -/
def tagOf (num kind : Nat) (f : Frame) (sub : Nat) : Word :=
  word (num % 256 * 2 ^ 24 + kind % 16 * 2 ^ 20 + f.toNat % 2 ^ 16 * 2 ^ 4 + sub % 16)

/-- The index lists of the device's channels, points, buses, slices (01 R14, 04 R76). -/
def channels : List Nat := List.range 168
def points : List Nat := List.range 128
def buses : List Nat := List.range 8

/-- The UTC second and TINV of now (Table 9.4): the RTC counter while valid, otherwise the last valid second and the ticks
counted since (12 R289). -/
def State.nowSec (s : State) : Nat × Bool :=
  if s.rtc.valid then (s.rtc.sec, false) else (s.rtc.lastValid + s.rtc.invTicks / 16000, true)

/-- A billing timestamp of now with flags [63:41] (Table 9.4). -/
def State.stamp (s : State) (flags : Nat) : BitVec 64 :=
  BitVec.ofNat 64 (s.nowSec.1 % 2 ^ 40 + flagAt s.nowSec.2 40 + flags)

end Sys2Proof.Machine
end

