-- ==== Sys2Proof/Machine/Calendar.lean ====
section
/-! DEFINITION. Civil time and the tariff calendar as pure functions: Gregorian dates (10 R238), local time and daylight saving
(09 R218), switch instants and the tariff they give (R219), demand-interval ends (R223), billing-period boundaries (R227). -/

namespace Sys2Proof.Machine

/-! ## Gregorian dates (10 R238) -/

/-- The last second the counter takes: 2199-12-31 23:59:59. -/
def rtcMax : Nat := 6311433599

def leap (y : Int) : Bool := (y % 4 == 0 && y % 100 != 0) || y % 400 == 0

def monthLen (y : Int) (m : Nat) : Nat :=
  match m with
  | 2 => if leap y then 29 else 28
  | 4 | 6 | 9 | 11 => 30
  | _ => 31

/-- Days from 2000-01-01 to the first of a month; years count from March for the sum. -/
def daysFrom (y : Int) (m d : Nat) : Int :=
  let y' : Int := if m ≤ 2 then y - 1 else y
  let m' : Int := if m ≤ 2 then (m : Int) + 9 else (m : Int) - 3
  365 * y' + y' / 4 - y' / 100 + y' / 400 + (153 * m' + 2) / 5 + (d : Int) - 1 - 730425

/-- A civil date. -/
structure Date where
  y : Int
  m : Nat
  d : Nat
deriving DecidableEq, Repr

/-- The date of a day number counted from 2000-01-01. -/
def dateOf (n : Int) : Date :=
  let z := n + 730425
  let era := z / 146097
  let doe := z - era * 146097
  let yoe := (doe - doe / 1460 + doe / 36524 - doe / 146096) / 365
  let doy := doe - (365 * yoe + yoe / 4 - yoe / 100)
  let mp := (5 * doy + 2) / 153
  let d := (doy - (153 * mp + 2) / 5 + 1).toNat
  let m := (if mp < 10 then mp + 3 else mp - 9).toNat
  let y := yoe + era * 400
  ⟨if m ≤ 2 then y + 1 else y, m, d⟩

/-- Weekday 1–7, Monday to Sunday; 2000-01-01 is a Saturday. -/
def weekday (n : Int) : Nat := ((n + 5) % 7).toNat + 1

/-! ## Local time (09 R218) -/

/-- The rule of a year: its own, else the one for every year. -/
def dstRule (c : Calendar) (y : Int) : Option DstRule :=
  match c.dst.find? fun r => (r.year : Int) == y with
  | some r => some r
  | none => c.dst.find? fun r => r.year == 0

/-- Day number of the n-th (1–4) or last (5) weekday `wd` of a month. -/
def nthWeekday (y : Int) (m n wd : Nat) : Int :=
  let first := daysFrom y m 1
  let off := ((wd : Int) - weekday first) % 7
  if n < 5 then first + off + 7 * ((n : Int) - 1)
  else
    let last := first + monthLen y m - 1
    last - ((weekday last : Int) - wd) % 7

/-- Start and end of daylight saving of a rule in year y, in UTC seconds. -/
def dstSpan (c : Calendar) (r : DstRule) (y : Int) : Int × Int :=
  (nthWeekday y r.smon r.sweek r.swday * 86400 + r.shour * 3600 + r.smin * 60 - c.zone * 60,
   nthWeekday y r.emon r.eweek r.ewday * 86400 + r.ehour * 3600 + r.emin * 60 - c.zone * 60 - r.dofs * 60)

/-- The daylight offset in force at a UTC instant, in seconds. -/
def dstAt (c : Calendar) (u : Int) : Int :=
  let y := (dateOf ((u + c.zone * 60) / 86400)).y
  match dstRule c y with
  | none => 0
  | some r =>
    let sp := dstSpan c r y
    let on := if sp.1 < sp.2 then decide (sp.1 ≤ u ∧ u < sp.2) else if sp.2 < sp.1 then decide (u < sp.2 ∨ sp.1 ≤ u) else false
    if on then r.dofs * 60 else 0

/-- Local time of a UTC instant, in seconds since 2000-01-01 local. -/
def localOf (c : Calendar) (u : Int) : Int := u + c.zone * 60 + dstAt c u

/-- Daylight offsets that may bear on a local time: those of its year and the year before. -/
def dofsNear (c : Calendar) (y : Int) : List Int :=
  [dstRule c y, dstRule c (y - 1)].filterMap fun r => r.map fun r => (r.dofs : Int) * 60

/-- The UTC instant of a local time: the first of those that show it, or, in a gap, the instant DST starts (R219). -/
def utcOf (c : Calendar) (l : Int) : Int :=
  let y := (dateOf (l / 86400)).y
  let cand := (0 :: dofsNear c y).map fun o => l - c.zone * 60 - o
  match (cand.filter fun u => localOf c u == l).min? with
  | some u => u
  | none =>
    match dstRule c y with
    | some r => (dstSpan c r y).1
    | none => l - c.zone * 60

/-! ## Tariffs (09 R219) -/

/-- The week profile of the season in force at 00:00 of a date: the last that has started, else the last of the list. -/
def seasonOf (c : Calendar) (d : Date) : Option Season :=
  match (c.seasons.filter fun s =>
      decide (s.mon * 1000000 + s.day * 10000 + s.hour * 100 + s.min ≤ d.m * 1000000 + d.d * 10000)).getLast? with
  | some s => some s
  | none => c.seasons.getLast?

/-- The day profile of a local date (day number n). -/
def profileOf (c : Calendar) (n : Int) : List DaySwitch :=
  let d := dateOf n
  let hit (f : SpecialDay → Bool) := c.special.find? fun x => f x && x.mon == d.m && x.day == d.d
  let ix := match hit fun x => (x.year : Int) == d.y with
    | some x => x.profile
    | none =>
      match hit fun x => x.year == 0 with
      | some x => x.profile
      | none =>
        match seasonOf c d with
        | some sn => (c.weeks.getD sn.week []).getD (weekday n - 1) 0
        | none => 0
  c.days.getD ix []

/-- The switch instants of a local date with the tariffs they set. -/
def switchesOf (c : Calendar) (n : Int) : List (Int × Nat) :=
  (profileOf c n).map fun w => (utcOf c (n * 86400 + w.hour * 3600 + w.min * 60), w.tariff)

/-- The tariff in force at a UTC second: that of the latest switch instant of its local date; T1 with no calendar. -/
def tariffAt (c : Calendar) (u : Int) : Nat :=
  let n := localOf c u / 86400
  let l := switchesOf c n
  match (l.filter fun e => decide (e.1 ≤ u)).getLast? with
  | some e => e.2
  | none => match l with
    | e :: _ => e.2
    | [] => 1

/-- A switch instant lies in [lo, hi]; the days looked at are at most 400 before hi. -/
def switchIn (c : Calendar) (lo hi : Int) : Bool :=
  let n1 := localOf c hi / 86400
  let n0 := max (localOf c lo / 86400) (n1 - 400)
  (List.range ((n1 - n0).toNat + 1)).any fun i => (switchesOf c (n0 + i)).any fun e => decide (lo ≤ e.1 ∧ e.1 ≤ hi)

/-! ## Demand-interval ends (09 R223) -/

/-- Interval minutes of an MD code (Table 5.8). -/
def mdMinutes (code : Nat) : Nat := [1, 2, 3, 4, 5, 6, 10, 12, 15, 20, 30, 60].getD code 1

/-- Seconds of the interval, or of a sub-interval, of a point. -/
def mdStep (d : PointDef) : Nat := mdMinutes d.mdcode * 60 / max 1 (if d.sliding then d.mdsub else 1)

/-- The first regular end after a UTC second. -/
def nextEnd (c : Calendar) (step : Nat) (u : Int) : Int :=
  let t : Int := max 1 step
  ((u + c.zone * 60) / t + 1) * t - c.zone * 60

/-! ## Billing-period boundaries (09 R227) -/

/-- The boundary of a month, by months counted from 2000-01; none without a rule. -/
def boundaryOf (c : Calendar) (k : Int) : Option Int :=
  if c.bcday = 0 then none
  else some (utcOf c (daysFrom (2000 + k / 12) ((k % 12).toNat + 1) c.bcday * 86400 + c.bchour * 3600 + c.bcmin * 60))

/-- Months from 2000-01 to the local month of a UTC second. -/
def monthIx (c : Calendar) (u : Int) : Int :=
  let d := dateOf (localOf c u / 86400)
  (d.y - 2000) * 12 + d.m - 1

/-- The boundaries in (lo, hi], in time order. -/
def boundariesIn (c : Calendar) (lo hi : Int) : List Int :=
  let k0 := monthIx c lo - 1
  let k1 := monthIx c hi + 1
  ((List.range ((k1 - k0).toNat + 1)).filterMap fun (i : Nat) => boundaryOf c (k0 + (i : Int))).filter fun b => decide (lo < b ∧ b ≤ hi)

/-- The latest boundary at or before a second. -/
def lastBoundary (c : Calendar) (u : Int) : Option Int := (boundariesIn c (u - 86400 * 70) u).getLast?

/-- The next boundary after a second. -/
def nextBoundary (c : Calendar) (u : Int) : Option Int := (boundariesIn c u (u + 86400 * 70)).head?

end Sys2Proof.Machine
end

