-- ==== Sys2Proof/Machine/Events.lean ====
section
/-! DEFINITION. The event codes (00 R9; the tables of the owning chapters): severity, histogram bins and their lower
edges in the units of Table 12.2; the token-bucket resets of Table 12.11. -/

namespace Sys2Proof.Machine

/-- The codes of each severity, Table 0.4 (the code tables of chapters 03 to 16). -/
def infoCodes : List Nat :=
  [0x00, 0x22, 0x46, 0x62, 0x70, 0x77, 0x79, 0x8A, 0x8C, 0xA0, 0xA3, 0xA4, 0xA6, 0xC5, 0xC6, 0xC7, 0xE3, 0xE6, 0xEC,
   0xED, 0xF3, 0xF5]

def noticeCodes : List Nat :=
  [0x01, 0x02, 0x07, 0x08, 0x23, 0x24, 0x40, 0x41, 0x42, 0x43, 0x47, 0x48, 0x49, 0x4A, 0x60, 0x61, 0x63, 0x66, 0x67,
   0x73, 0x80, 0x81, 0x83, 0x84, 0x8B, 0xA1, 0xA2, 0xA8, 0xC0, 0xC2, 0xC4, 0xC8, 0xC9, 0xCA, 0xD0, 0xD1, 0xD5, 0xD6,
   0xD7, 0xE1, 0xE2, 0xE8, 0xEA, 0xEE, 0xEF, 0xF0, 0xF1, 0xF6, 0xF7, 0xF8, 0xFA]

def alarmCodes : List Nat :=
  [0x03, 0x06, 0x0A, 0x20, 0x21, 0x25, 0x44, 0x64, 0x72, 0x75, 0x76, 0x82, 0x88, 0x89, 0xA5, 0xA9, 0xAA, 0xAB, 0xC1,
   0xC3, 0xD2, 0xD3, 0xD4, 0xD8, 0xD9, 0xDB, 0xDC, 0xDD, 0xDE, 0xE0, 0xE4, 0xE5, 0xE7, 0xEB, 0xF2, 0xF4, 0xF9, 0xFB]

def criticalCodes : List Nat := [0x04, 0x05, 0x09, 0x45, 0x65, 0x71, 0x74, 0x78, 0xA7, 0xCB, 0xDA, 0xE9]

/-- The severity of a code; none for a reserved code (00 R10). -/
def severity (code : Nat) : Option Nat :=
  if infoCodes.contains code then some 0
  else if noticeCodes.contains code then some 1
  else if alarmCodes.contains code then some 2
  else if criticalCodes.contains code then some 3
  else none

/-- How a code's value falls into its bins: no value and always bin 1; the value names the bin; or the seven edges between
bins 1 and 8, with the lowest value that bin 1 takes. -/
inductive Bins where
  | countOnly
  | category
  | edges (low : Int) (l : List Int)
deriving DecidableEq, Repr

/-- The least signed 32-bit value: bin 1 has no lower edge. -/
def noLow : Int := -2147483648

/-- Durations of whole seconds: <1 s, 1–10 s, 10–60 s, 1–10 min, 10–60 min, 1–6 h, 6–24 h, ≥24 h. -/
def durShort : List Int := [1, 10, 60, 600, 3600, 21600, 86400]
/-- <1 min, 1–10 min, 10–60 min, 1–6 h, 6–24 h, 1–7 d, 7–30 d, ≥30 d. -/
def durLong : List Int := [60, 600, 3600, 21600, 86400, 604800, 2592000]
/-- Run lengths in frames (Tables 3.6, 6.16). -/
def runFrames : List Int := [2, 16, 160, 1600, 16000, 160000, 960000]
/-- 1, 2, 3–4, 5–8, 9–16, 17–64, 65–256, ≥257. -/
def counts257 : List Int := [2, 3, 5, 9, 17, 65, 257]
/-- 1, 2, 3–4, 5–8, 9–16, 17–32, 33–64, ≥65. -/
def counts65 : List Int := [2, 3, 5, 9, 17, 33, 65]
/-- 1, 2–3, 4–7, 8–15, 16–63, 64–255, 256–1,023, ≥1,024. -/
def counts1024 : List Int := [2, 4, 8, 16, 64, 256, 1024]

/-- The bins of a code (the histogram column of its owning table). -/
def binsOf (code : Nat) : Bins :=
  match code with
  | 0x04 | 0x07 | 0x0A | 0xC3 | 0xC6 | 0xC9 | 0xCA | 0xCB | 0xF4 | 0xF7 | 0xFA => .countOnly
  | 0x02 => .edges 1 [2, 4, 8, 16, 64, 256, 1024]
  | 0x03 => .edges noLow [1, 1, 2, 2, 3, 3, 4]
  | 0x09 => .edges 13000 [13100, 13200, 13400, 13600, 14000, 14500, 15000]
  | 0x20 => .edges noLow [2000, 4000, 16000, 64000, 256000, 1024000, 2147483647]
  | 0x21 => .edges noLow [100, 200, 400, 600, 800, 900, 950]
  | 0x22 | 0x24 | 0x60 | 0x62 | 0x63 | 0x66 | 0xA8 | 0xE2 | 0xF3 | 0xF5 => .edges noLow durShort
  | 0x23 | 0x67 | 0xAA => .edges 1 runFrames
  | 0x25 => .edges 200000 [300000, 500000, 1000000, 2000000, 5000000, 10000000, 30000000]
  | 0x40 | 0x41 | 0x42 | 0x43 => .edges noLow [1, 10, 100, 1000, 10000, 60000, 600000]
  | 0x44 | 0x45 => .edges 1 [2, 3, 4, 5, 9, 17, 33]
  | 0x46 => .edges noLow [105000, 120000, 140000, 160000, 180000, 200000, 220000]
  | 0x47 | 0x4A => .edges 1 counts65
  | 0x48 | 0x49 => .edges 1 [2, 4, 16, 64, 256, 1024, 4096]
  | 0x61 => .edges 1000 [1500, 2000, 3000, 5000, 8000, 12000, 20000]
  | 0x64 => .edges 1 [2, 16, 256, 4096, 65536, 1048576, 16777216]
  | 0x70 => .edges 1 [2, 3, 4, 5, 7, 9, 17]
  | 0x73 | 0xE3 => .edges 1 counts1024
  | 0x74 | 0x76 | 0x8B | 0xF0 => .edges 1 counts257
  | 0x79 | 0x8A | 0xA5 | 0xD1 | 0xD9 | 0xDA | 0xDB | 0xDE => .edges noLow durLong
  | 0x80 | 0x81 => .edges noLow [20, 100, 200, 500, 1000, 3000, 60000]
  | 0x82 => .edges noLow [500, 1000, 3000, 10000, 60000, 180000, 600000]
  | 0x83 => .edges 8000 [9000, 10000, 12000, 15000, 20000, 30000, 50000]
  | 0x84 => .edges 2000 [2500, 3000, 4000, 5000, 7000, 10000, 20000]
  | 0x88 | 0x89 | 0xE5 => .edges 1000 [1500, 2000, 3000, 5000, 10000, 30000, 100000]
  | 0x8C => .edges 1 [2, 3, 5, 9, 13, 16, 17]
  | 0xA1 | 0xA9 => .edges 1 [2, 9, 33, 128, 129, 129, 129]
  | 0xA6 => .edges noLow [60, 300, 900, 1800, 3600, 21600, 86400]
  | 0xA7 => .edges 1 [2, 3, 7, 13, 25, 61, 121]
  | 0xC0 | 0xC5 | 0xC7 => .edges noLow [1, 10, 60, 600, 3600, 86400, 2592000]
  | 0xC4 => .edges noLow [1900, 2000, 2050, 2100, 2150, 2200, 2250]
  | 0xC8 => .edges noLow [10, 60, 600, 3600, 21600, 86400, 604800]
  | 0xD0 => .edges noLow [3600, 86400, 604800, 2592000, 7776000, 31536000, 157788000]
  | 0xD6 => .edges 1 [2, 3, 5, 9, 13, 17, 17]
  | 0xE1 => .edges 1 [2, 3, 5, 9, 13, 17, 17]
  | 0xE7 => .edges 1 [2, 3, 5, 9, 17, 25, 25]
  | 0xEC => .edges 1 [5, 17, 65, 129, 257, 512, 513]
  | 0xF6 => .edges 1 [2, 16, 256, 4096, 65536, 1048576, 16777216]
  | _ => .category

/-- The bin, 1 to 8, of a value, lower edge inclusive (00 R4, 12 R282); none when the value lies below bin 1. -/
def binIx (code : Nat) (v : Int) : Option Nat :=
  match binsOf code with
  | .countOnly => some 1
  | .category => if 1 ≤ v ∧ v ≤ 8 then some v.toNat else none
  | .edges low l => if v < low then none else some (1 + (l.filter fun e => decide (e ≤ v)).length)

/-- BURST and PERIOD of a code at reset (Table 12.11). -/
def bucketReset (code : Nat) : Bucket :=
  match severity code with
  | some 0 => { burst := 8, period := 1000, tokens := 8, next := 16000 }
  | some 1 => { burst := 16, period := 100, tokens := 16, next := 1600 }
  | some 2 => { burst := 32, period := 10, tokens := 32, next := 160 }
  | some _ => { burst := 255, period := 1, tokens := 255, next := 16 }
  | none => { burst := 0, period := 0, tokens := 0, next := 0 }

end Sys2Proof.Machine
end

