-- ==== Sys2Proof/Machine/Queue.lean ====
section
/-! DEFINITION. The result queues (04 R100 to R105), the event recorder's intake (12 R282 to R288), the interrupt causes it
sets (15 R351) and the privileged entries that fall due (12 R289 to R292): the shared operations behind every command. -/

namespace Sys2Proof.Machine

/-! ## Interrupt causes (15 R351, Table 15.5) -/

/-- Set a bit of `IRQSTS`. -/
def State.irq (s : State) (b : Nat) : State :=
  s.mapHp fun h => { h with irqsts := h.irqsts ||| (1#15 <<< b) }

/-- Set the cause of an event code in `IRQEV`. -/
def State.irqEvent (s : State) (code : Nat) : State :=
  s.mapHp fun h => { h with irqev := h.irqev ||| (1#256 <<< code) }

/-- IRQ_N is asserted (15 R351). -/
def irqN (h : Port) : Bool := h.irqev &&& h.irqen != 0 || h.irqsts &&& h.irqmsk != 0

/-! ## Queues -/

/-- Routing record of a queue in the plan in force. -/
def routeRec (p : PlanDef) (q : Nat) : RouteDef := p.routes.getD q {}

/-- The queue that a kind and number are routed to (04 R100, R105): at most one. -/
def routeOf (p : PlanDef) (kind num : Nat) : Option Nat :=
  (List.range 32).find? fun q =>
    let r := routeRec p q
    r.depth != 0 && bitN r.kinds kind && decide (r.lo ≤ num) && decide (num ≤ r.hi)

def queueAt (s : State) (q : Nat) : Queue := tget {} q s.qu.q

def State.setQueue (s : State) (q : Nat) (x : Queue) : State := s.mapQu fun u => { u with q := tset q x u.q }

/-- The number of entries of the oldest record: its first entry and those that follow with a sub-index (04 R102). -/
def oldestLen : List QEntry → Nat
  | [] => 0
  | _ :: t => 1 + (t.takeWhile fun e => e.tag.toNat % 16 != 0).length

/-- Drop whole oldest records until `need` entries fit in `depth` (04 R102); `fuel` bounds the records. -/
def dropOldest : Nat → Nat → Nat → List QEntry → List QEntry
  | 0, _, _, l => l
  | k + 1, depth, need, l =>
    if l.length + need ≤ depth then l else dropOldest k depth need (l.drop (oldestLen l))

/-- The kind 0xC marker of a queue (Table 4.12). -/
def markerEntry (q : Nat) (f : Frame) (n : Nat) : QEntry := { tag := tagOf q 0xC f 0, w1 := word n }

/-- The threshold and non-empty causes of `IRQSTS` for a host-read queue whose fill went from `a` to `b` (Table 15.5). -/
def fillIrq (s : State) (q a b : Nat) : State :=
  if (routeRec s.plan q).reader = 0 then
    let thr := (queueAt s q).thr
    let s := if a = 0 ∧ 0 < b then s.irq 1 else s
    if thr ≠ 0 ∧ a < thr ∧ thr ≤ b then s.irq 0 else s
  else s

/-- Outcome of a push: taken, taken or refused with loss, and whether the loss opens an episode (Table 4.14). -/
structure Pushed where
  s : State
  ok : Bool
  opened : Bool

/-- Push one record (one or more entries) to a queue under its class's policy (04 R102). A record whose entries do not all
fit a refuse-newest queue is refused whole (log 20). -/
def pushTo (s : State) (q : Nat) (es : List QEntry) : Pushed :=
  let x := queueAt s q
  let depth := (routeRec s.plan q).depth
  if q < 16 then
    let kept := dropOldest x.ents.length depth es.length x.ents
    let lost := x.ents.length - kept.length
    if lost = 0 then
      ⟨fillIrq (s.setQueue q { x with ents := x.ents ++ es }) q x.ents.length (x.ents.length + es.length), true, false⟩
    else
      ⟨s.setQueue q { x with ents := kept ++ es, lost := satAdd x.lost lost, ovf := true, ovfNow := true,
                             epis := x.epis + lost },
       true, !x.ovfNow && !x.ovfPrev⟩
  else
    let mark := if x.refused = 0 then [] else [markerEntry q s.tb.frame x.refused]
    if x.ents.length + mark.length + es.length ≤ depth then
      let ents := x.ents ++ mark ++ es
      ⟨fillIrq (s.setQueue q { x with ents := ents, refused := 0 }) q x.ents.length ents.length, true, false⟩
    else
      ⟨s.setQueue q { x with lost := satAdd x.lost es.length, ovf := true, refused := x.refused + es.length, ovfNow := true,
                             epis := x.epis + es.length },
       false, !x.ovfNow && !x.ovfPrev⟩

/-- Route and push a record by kind and number, discarding what no record routes (04 R105). Answers the queue whose loss
opens an episode. -/
def pushRaw (s : State) (kind num : Nat) (es : List QEntry) : State × Option Nat :=
  match routeOf s.plan kind num with
  | none => (s.mapQu fun u => { u with unrt := satAdd u.unrt es.length }, none)
  | some q =>
    let r := pushTo s q es
    (r.s, if r.opened then some q else none)

/-! ## Intake of events (12 R282 to R288) -/

/-- The empty summary of a key at the present operating-second (12 R283). -/
def newSummary (r : Recorder) (code chan : Nat) : Summary :=
  { code := code, chan := chan, sev := (severity code).getD 0, fops := r.ops, lops := r.ops, fpwc := r.pwc, lpwc := r.pwc }

/-- Saturation of v to a signed 32-bit integer (12 R282). -/
def satV (v : Int) : Int := satS 32 v

/-- XMIN, XMAX and the bin of a value (12 R284). -/
def addValue (m : Summary) (v : Int) : Summary :=
  let w := satV v
  let hist := match binIx m.code w with
    | some b => m.hist.mapIdx fun i n => if i + 1 = b then min (n + 1) 65535 else n
    | none => m.hist
  { m with xvalid := true, xmin := if m.xvalid then min m.xmin w else w,
           xmax := if m.xvalid then max m.xmax w else w, hist := hist }

/-- Bin 1 of a code that only counts. -/
def addCount (m : Summary) : Summary :=
  { m with hist := m.hist.mapIdx fun i n => if i = 0 then min (n + 1) 65535 else n }

/-- A counted event in its summary (12 R284). -/
def countIn (r : Recorder) (v : Option Int) (m : Summary) : Summary :=
  let m := { m with count := m.count + 1, lops := r.ops, lpwc := r.pwc }
  match v with
  | some v => addValue m v
  | none => if binsOf m.code = .countOnly then addCount m else m

/-- A suppressed event in its summary (12 R287). -/
def suppressIn (r : Recorder) (m : Summary) : Summary := { m with supp := m.supp + 1, lops := r.ops, lpwc := r.pwc }

/-- The index of the open summary of a key. -/
def keyIx (l : List Summary) (code chan : Nat) : Option Nat := l.findIdx? fun m => m.code == code && m.chan == chan

/-- The index of the open summary with the lowest FOPS, the first of equals (12 R285). -/
def lowestIx (l : List Summary) : Nat := (l.findIdx? fun m => l.all fun n => decide (m.fops ≤ n.fops)).getD 0

/-! ### Storing a closed summary (12 R286) -/

/-- a is older than b under the comparison of 08 R204: the signed difference of the sequence numbers. -/
def older (a b : Word) : Bool := decide ((a - b).toInt < 0)

/-- The oldest stored record of a predicate: its index. -/
def oldestRec (t : Tab Summary) (p : Summary → Bool) : Option Nat :=
  (t.foldl (fun (acc : Option (Nat × Summary)) e =>
    if p e.2 then
      match acc with
      | none => some e
      | some b => if older e.2.sseq b.2.sseq then some e else acc
    else acc) none).map (·.1)

/-- The lowest index below 12,272 that holds no valid record, `k` the next candidate; a torn record is free (12 R281). -/
def lowestFree : Tab Summary → Nat → Nat
  | [], k => k
  | (i, m) :: t, k => if i = k ∧ m.ok then lowestFree t (k + 1) else k

/-- Where a closing summary goes: the lowest free record, else the oldest of lower severity, else, with WRAP, the oldest of
its own severity. -/
def placeOf (r : Recorder) (sev : Nat) : Option Nat :=
  if (r.area0.filter (·.2.ok)).length < 12272 then some (lowestFree r.area0 0)
  else
    match oldestRec r.area0 fun m => decide (m.sev < sev) with
    | some i => some i
    | none => if r.wrap.getLsbD sev then oldestRec r.area0 fun m => m.sev == sev else none

/-- Store a closed summary, or drop it (12 R286). During a clear pass it waits (12 R296). -/
def storeSummary (r : Recorder) (m : Summary) : Recorder :=
  if r.clrbusy then { r with waitS := r.waitS ++ [m] }
  else
    match placeOf r m.sev with
    | some i => { r with area0 := tset i { m with sseq := r.snext } r.area0, snext := r.snext + 1 }
    | none => { r with sdropN := tset m.sev (satAdd (tget 0 m.sev r.sdropN) 1) r.sdropN, sdrop := true }

/-- `IRQSTS.RECLOST` when SDROP became set (Table 15.5). -/
def State.storeSum (s : State) (m : Summary) : State :=
  let t := s.mapEr fun r => storeSummary r m
  if !s.er.sdrop && t.er.sdrop then t.irq 10 else t

/-- AGW of a severity (12 Table 12.7). -/
def agwOf (r : Recorder) (sev : Nat) : Nat := r.agw.getD sev 60

/-- The operating-second has reached o + AGW of a summary, with the AGW of now (12 R283; log 141). -/
def windowPast (r : Recorder) (m : Summary) : Bool := decide (m.fops + agwOf r m.sev ≤ r.ops)

/-- Close the open summary of a key whose window has ended, and store it: an event at o + AGW opens the next one (00 R4, 12 R283). -/
def closePast (s : State) (code chan : Nat) : State :=
  match (keyIx s.er.work code chan).bind fun i => (s.er.work[i]?).map fun m => (i, m) with
  | some (i, m) => if windowPast s.er m then (s.mapEr fun r => { r with work := r.work.eraseIdx i }).storeSum m else s
  | none => s

/-- Open a summary for a key when it has none in its window, closing the one with the lowest FOPS early when the working set is full
(12 R285). -/
def openKey (s : State) (code chan : Nat) (endonly : Bool) : State :=
  let s := closePast s code chan
  match keyIx s.er.work code chan with
  | some _ => s
  | none =>
    let s :=
      if s.er.work.length < 512 then s
      else
        let i := lowestIx s.er.work
        match s.er.work[i]? with
        | some m =>
          (s.mapEr fun r => { r with work := r.work.eraseIdx i, early := true }).storeSum { m with early := true }
        | none => s
    s.mapEr fun r => { r with work := r.work ++ [{ newSummary r code chan with endonly := endonly }] }

/-- Change the open summary of a key. -/
def updKey (s : State) (code chan : Nat) (f : Recorder → Summary → Summary) : State :=
  s.mapEr fun r => { r with work := r.work.map fun m => if m.code = code ∧ m.chan = chan then f r m else m }

/-- The bucket of a code, with the refills whose instants have come: they come before the events of their tick (12 R287). -/
def bucketAt (s : State) (code : Nat) : Bucket :=
  let b := tget (bucketReset code) code s.er.rl
  let p := b.period * 16
  if p = 0 ∨ s.sup.startTicks < b.next then b
  else
    let k := (s.sup.startTicks - b.next) / p + 1
    { b with tokens := min b.burst (b.tokens + k), next := b.next + k * p }

def State.setBucket (s : State) (code : Nat) (b : Bucket) : State := s.mapEr fun r => { r with rl := tset code b r.rl }

/-- The notice of a counted event, Table 12.4 (12 R288). -/
def noticeEntry (s : State) (code chan : Nat) (v : Option Int) : QEntry :=
  { tag := tagOf chan 0x8 s.tb.frame 0
    w1 := word (code % 256 + (severity code).getD 0 * 2 ^ 8 + flagAt v.isSome 10)
    w2 := word (toField 32 (satV (v.getD 0)))
    w3 := word (s.fnum / 2 ^ 16) }

/-- Take an event in (12 R287): token, count, `IRQEV`, notice. A loss that opens an overflow episode raises 0x48 or 0x49 of
that queue (Table 4.14); `fuel` bounds the chain of such events (32 queues). A reserved code is never raised (00 R10). -/
def raiseFuel : Nat → State → Nat → Nat → Option Int → State
  | 0, s, _, _, _ => s
  | k + 1, s, code, chan, v =>
    match severity code with
    | none => s
    | some _ =>
      if s.powered then
        let b := bucketAt s code
        let s := openKey s code chan false
        if b.tokens = 0 then updKey s code chan suppressIn
        else
          let s := s.setBucket code { b with tokens := b.tokens - 1 }
          let s := (updKey s code chan fun r => countIn r v).irqEvent code
          match pushRaw s 0x8 chan [noticeEntry s code chan v] with
          | (s, none) => s
          | (s, some q) => raiseFuel k s (if q < 16 then 0x48 else 0x49) q none
      else s

/-- Raise an event (12 R287, R288). -/
def raise (s : State) (code chan : Nat) (v : Option Int) : State := raiseFuel 33 s code chan v

/-- Deliver the value of a condition that has ended (12 R282, R284): no token, no notice. -/
def endSample (s : State) (code chan : Nat) (v : Int) : State :=
  match severity code with
  | none => s
  | some _ =>
    if s.powered then updKey (openKey s code chan true) code chan fun _ m => addValue m v else s

/-- Push a record with its overflow event (04 R102, R106). -/
def push (s : State) (kind num : Nat) (es : List QEntry) : State :=
  match pushRaw s kind num es with
  | (s, none) => s
  | (s, some q) => raise s (if q < 16 then 0x48 else 0x49) q none

/-! ## Privileged entries that fall due (12 R289 to R292) -/

/-- F, the free parts of the privileged area (12 R292). -/
def freeParts (r : Recorder) : Int := 4096 - ((r.pseq - r.wm : Nat) : Int) - r.pres

/-- `ERSTS.PFULL` (12 R292). -/
def privFull (r : Recorder) : Bool := decide (freeParts r < 67)

/-- Set `IRQSTS.RECFULL` when PFULL became 1 between two states (Table 15.5). -/
def fullIrq (a b : State) : State := if !privFull a.er && privFull b.er then b.irq 9 else b

/-- Reserve the parts of an accepted refusable request. -/
def reserve (s : State) (n : Nat) : State := fullIrq s (s.mapEr fun r => { r with pres := r.pres + n })

/-- Release a reservation. -/
def release (s : State) (n : Nat) : State := s.mapEr fun r => { r with pres := r.pres - n }

/-- Parts of an entry type and whether its request is refusable (Table 12.6). -/
def privParts (ptype : Nat) : Nat × Bool :=
  match ptype with
  | 0x04 | 0x06 => (2, true)
  | 0x05 | 0x0A | 0x0B => (3, true)
  | 0x01 | 0x03 | 0x07 | 0x0C | 0x0D => (1, true)
  | _ => (1, false)

/-- Entries of the Slate acts: seal changes, clock sets, key erasure (12 R291). -/
def slateAct (ptype : Nat) : Bool := ptype == 0x01 || ptype == 0x02 || ptype == 0x03 || ptype == 0x08

/-- The record-due mark of an act with its entry's payload (12 R291). A refusable act has reserved its parts before. -/
def privDue (s : State) (ptype : Nat) (payload : List Byte) (cell : Bool := false) : State :=
  s.mapEr fun r => { r with due := r.due ++ [{ ptype := ptype, parts := (privParts ptype).1, refusable := (privParts ptype).2,
                                               payload := payload, cell := cell }] }

end Sys2Proof.Machine
end

