-- ==== Sys2Proof/Machine/Billing.lean ====
section
/-! DEFINITION. Billing (09): tariff index, demand intervals, maximum demand, billing closes and sets, clock adjustments and
the restore after a power failure. A boundary at the tick of G acts at once on the index and on the open intervals; the
values that count the energy of frame G−1 are finished when that energy has passed (02 R38, 09 R215, R222; log 23). -/

namespace Sys2Proof.Machine

/-! ## Points and tariffs -/

def pointDef (p : PlanDef) (n : Nat) : PointDef := p.points.getD n {}

/-- The points of type 1–3 of the plan in force. -/
def livePts (s : State) : List Nat := points.filter fun p => (pointDef s.plan p).type != 0

/-- A point is in metrology-fault state (08 R196). -/
def faulted (s : State) (p : Nat) : Bool := (tget (Pair.zero 32) p s.ls.fault).v != 0

/-- Billing runs: the states RUN and CALIBRATE (16 R380, R379). -/
def billing (s : State) : Bool := s.sup.st == .run || s.sup.st == .calibrate

def tidx (s : State) (p : Nat) : Nat := (tget (Pair.zero 32) p s.bl.tidx).v.toNat
/-- The index takes a value, in both working copies (08 R201). -/
def State.putTidx (s : State) (p : Nat) (v : Pair 32) : State :=
  s.mapBl fun b => { b with tidx := tset p v b.tidx, tidxW2 := tset p v b.tidxW2 }

/-- B_L takes a second, in both working copies (09 R227). -/
def State.putLcb (s : State) (v : Pair 64) : State := s.mapBl fun b => { b with lcb := v, lcbW2 := v }

/-- TARIFF of the index (09 R214). -/
def tariffOf (s : State) (p : Nat) : Nat := tidx s p % 16
/-- SRC of the index. -/
def srcOf (s : State) (p : Nat) : Nat := tidx s p / 16 % 8

/-- The default tariff of a point (05 section 0x0C). -/
def defTariff (s : State) (p : Nat) : Nat := max 1 (s.plan.defTariff.getD p 1)

/-! ## Flags of Table 9.4 -/

def fCADJ : Nat := 2 ^ 41
def fSHORT : Nat := 2 ^ 42
def fOUTAGE : Nat := 2 ^ 43
def fPLANCHG : Nat := 2 ^ 44
def fTSW : Nat := 2 ^ 45
def fFAULT : Nat := 2 ^ 46
def fFALLBK : Nat := 2 ^ 47

/-- A timestamp of a given second with TINV and flags. -/
def stampAt (sec : Int) (tinv : Bool) (flags : Nat) : BitVec 64 :=
  BitVec.ofNat 64 (sec.toNat % 2 ^ 40 + flagAt tinv 40 + flags)

def stampSec (t : BitVec 64) : Nat := t.toNat % 2 ^ 40

/-! ## Demand intervals -/

def ivAt (s : State) (p : Nat) : Interval := tget {} p s.bl.iv

def State.setIv (s : State) (p : Nat) (v : Interval) : State := s.mapBl fun b => { b with iv := tset p v b.iv }

/-- Open an interval of a point now (09 R226, R230 step 6); its start carries SHORT and OUTAGE as the interval does (log 42). -/
def openIv (s : State) (p : Nat) (short outage : Bool) : State :=
  let v := ivAt s p
  s.setIv p { v with isOpen := true, start := s.stamp (flagAt short 42 + flagAt outage 43), e := [0, 0, 0, 0], short := short,
                     outage := outage, tinv := s.nowSec.2, ticks := 0 }

/-- Points may run a demand interval: billing runs, the point is on and not faulted (09 R234). -/
def ivRuns (s : State) (p : Nat) : Bool := billing s && (pointDef s.plan p).type != 0 && !faulted s p

/-- The flags an interval carries at its close. -/
def ivFlags (s : State) (p : Nat) (v : Interval) : Nat :=
  (if v.short then fSHORT else 0) + (if v.outage then fOUTAGE else 0) + (if srcOf s p = 0 then 0 else fFALLBK)

/-- The record of an interval that closes at `stamp` (09 R224); a block interval keeps no sliding history (Table 9.10, SUB). -/
def ivRecord (s : State) (p : Nat) (v : Interval) (short : Bool) (stamp : BitVec 64) : IvClose :=
  let d := pointDef s.plan p
  { point := p, tariff := tariffOf s p, minutes := mdMinutes d.mdcode, n := if d.sliding then max 1 d.mdsub else 0,
    e := v.e, subs := v.subs, short := short, stamp := stamp }

def addL (a b : List Nat) : List Nat := List.zipWith (· + ·) a b

/-- Demand of each quantity of R222: the energies of the closing sub-interval and of the n − 1 before it, × 60 / T. -/
def demandsOf (c : IvClose) : List Nat :=
  ((c.subs.take (c.n - 1)).foldl addL c.e).map fun e => e * 60 / c.minutes

/-- Index of a maximum-demand register (09 R225). -/
def mdIx (p t m : Nat) : Nat := 32 * p + 4 * (t - 1) + m

/-- Quantity bins of 0xA4: 0x1, 0x2, 0x7, 0x8 in bins 1–4. -/
def updMd (c : IvClose) (s : State) (m : Nat) (d : Nat) : State :=
  let i := mdIx c.point c.tariff m
  if (tget (Pair.zero 64) i s.bl.md).v.toNat < d then
    let v : Pair 64 := Pair.of (BitVec.ofNat 64 d)
    let t : Pair 64 := Pair.of c.stamp
    raise (s.mapBl fun b => { b with md := tset i v b.md, mdW2 := tset i v b.mdW2, mdts := tset i t b.mdts, mdtsW2 := tset i t b.mdtsW2,
                                     newmd := tset c.point true b.newmd }) 0xA4 c.point (some (m + 1 : Nat))
  else s

/-- Finish an interval close: demand, maximum demand, history (09 R224, R225). -/
def finIv (s : State) (c : IvClose) : State :=
  let ds := demandsOf c
  let v := ivAt s c.point
  let s := s.setIv c.point { v with last := ds, lastTs := c.stamp,
                                    subs := if c.short then v.subs else (c.e :: c.subs).take c.n }
  if c.tariff = 0 then s
  else updMd c (updMd c (updMd c (updMd c s 0 (ds.getD 0 0)) 1 (ds.getD 1 0)) 2 (ds.getD 2 0)) 3 (ds.getD 3 0)

/-! ## Billing sets -/

/-- Index of a billing register (08 Table 8.2). -/
def regIx (p t q : Nat) : Nat := 96 * p + 12 * (t - 1) + (q - 1)

/-- What the close of a point takes at its boundary. -/
def setHead (s : State) (p : Nat) : SetHead := ⟨p, tget (Pair.zero 32) p s.bl.tidx, (pointDef s.plan p).qexp, faulted s p⟩

/-- The entries of a table in [lo, lo + n), from index 0. -/
def slice {α : Type} (lo n : Nat) (t : Tab α) : Tab α :=
  t.filterMap fun e => if lo ≤ e.1 ∧ e.1 < lo + n then some (e.1 - lo, e.2) else none

/-- The snapshot of a point (09 R229, Table 9.5): its pairs as the working copies hold them. -/
def snapshot (s : State) (c : SetDue) (h : SetHead) : BillingSet :=
  let p := h.point
  { reg := slice (96 * p) 96 s.bl.w1
    md := slice (32 * p) 32 s.bl.md
    mdts := slice (32 * p) 32 s.bl.mdts
    tariff := h.tidx
    hseq := Pair.of (word (tget 0 p s.bl.closes + 1))
    hclose := Pair.of c.stamp
    hstart := ((tget [] p s.bl.sets).head?.map (·.hclose)).getD (Pair.zero 64)
    hinfo := Pair.of (word (c.cause + toField 8 h.qexp * 2 ^ 4 + h.tidx.v.toNat % 16 * 2 ^ 12 + min c.missed 255 * 2 ^ 16 +
      flagAt h.fault 24))
    hplan := Pair.of c.plan
    hframe := Pair.of (c.frame.setWidth 64) }

/-- Reset the maximum demand of a point to 0 (09 R225, Table 9.6 step 4). -/
def clearMd (p : Nat) (t : Tab (Pair 64)) : Tab (Pair 64) :=
  t.map fun e => if e.1 < 32 * p ∨ 32 * p + 32 ≤ e.1 then e else (e.1, Pair.zero 64)

/-- Close one point: the set at age 1, older sets shifted, the 14th discarded, maximum demand reset (09 R229). -/
def closePoint (c : SetDue) (s : State) (h : SetHead) : State :=
  let p := h.point
  let st := snapshot s c h
  s.mapBl fun b => { b with sets := tset p ((st :: tget [] p b.sets).take 13) b.sets, closes := tset p (tget 0 p b.closes + 1) b.closes,
                            md := clearMd p b.md, mdW2 := clearMd p b.mdW2, mdts := clearMd p b.mdts, mdtsW2 := clearMd p b.mdtsW2 }

/-- Finish a billing close. -/
def finSet (s : State) (c : SetDue) : State :=
  (forEach c.pts (closePoint c) s).mapBl fun b => { b with closed := true }

def finOne (s : State) : BndDue → State
  | .iv c => finIv s c
  | .set c => finSet s c

/-- Finish the boundary steps whose energy has passed, in their order. -/
def finAll (s : State) : State :=
  let l := s.bl.fin
  (forEach l finOne (s.mapBl fun b => { b with fin := [] })).mapBl fun b => { b with oldTar := [] }

def State.addFin (s : State) (d : BndDue) : State := s.mapBl fun b => { b with fin := b.fin ++ [d] }

/-! ## Closing an interval -/

/-- The regular end of the open interval of a point has come: on the valid clock its UTC end, otherwise T × 960,000 ticks from
its start (09 R223, R226; 02 R35). -/
def endDue (s : State) (p : Nat) : Bool :=
  let v := ivAt s p
  let d := pointDef s.plan p
  v.isOpen &&
  (if s.rtc.valid && !v.tinv then decide (nextEnd s.plan.calendar (mdStep d) (stampSec v.start) ≤ (s.rtc.sec : Int))
   else decide (mdStep d * 16000 ≤ v.ticks))

/-- The last point on the default tariff by clock loss has left it: the end sample of 0xA5 (log 25). -/
def leaveDefault (a b : State) : State :=
  if (livePts a).any (fun p => srcOf a p == 1) && !(livePts b).any (fun p => srcOf b p == 1) then
    endSample b 0xA5 0xFF (b.bl.defTicks / 16000 : Nat)
  else b

/-- Points that wait for their next calendar boundary take the calendar's tariff there (09 R220). -/
def resumeCalendar (setT : State → Nat → Nat → Nat → State) (s : State) (p : Nat) : State :=
  match s.bl.waiting.find? fun e => e.1 == p with
  | none => s
  | some (_, n) =>
    let a := s
    let s := s.mapBl fun b => { b with waiting := b.waiting.filter fun e => e.1 != p }
    let s := leaveDefault a (setT s p (tariffAt s.plan.calendar s.rtc.sec) 0)
    raise s 0xA6 p (some (n / 16000 : Nat))

/-- A regular end: the interval's record waits for its last energy and the next interval starts (09 R224, R230). -/
def regularEnd (s : State) (p : Nat) : State :=
  let v := ivAt s p
  let s := s.addFin (.iv (ivRecord s p v false (s.stamp (ivFlags s p v))))
  openIv s p false false

/-- Close the open interval of a point as short with a flag and its bin of 0xA3 (09 R226). `next` says whether an interval
follows. -/
def closeShort (flag bin : Nat) (next : Bool) (s : State) (p : Nat) : State :=
  let v := ivAt s p
  if !v.isOpen then s
  else
    let fl := ivFlags s p { v with short := true } + flag
    let s := s.addFin (.iv (ivRecord s p v true (s.stamp fl)))
    let s := s.setIv p { v with isOpen := false, subs := [] }
    let s := raise s 0xA3 p (some (bin : Nat))
    if next then openIv s p true false else s

/-- A short close within the boundary processing of a tick: an interval that began at this tick has nothing to close, and one
whose regular end has come closes regularly (Table 9.6 step 2). -/
def shortClose (flag bin : Nat) (next : Bool) (s : State) (p : Nat) : State :=
  let v := ivAt s p
  if !v.isOpen then s
  else if endDue s p && next then regularEnd s p
  else if v.ticks = 0 ∧ v.e.all (· == 0) then
    if next then s else s.setIv p { v with isOpen := false, subs := [] }
  else closeShort flag bin next s p

/-! ## Tariff switches -/

/-- Set the index of a point without closing anything, as at the loss of the clock (09 R220, R226; log 24). The tariff that the
energy of the frame before still takes is kept (R215). -/
def setIndex (s : State) (p t src : Nat) : State :=
  let old := tariffOf s p
  (s.putTidx p (Pair.of (BitVec.ofNat 32 (t % 16 + src % 8 * 16)))).mapBl fun b =>
    { b with                tswev := if old = t then b.tswev else tset p true b.tswev,
                            oldTar := if old = t ∨ b.oldTar.any (·.1 == p) then b.oldTar else tset p old b.oldTar }

/-- Set the index of a point (09 R214). Only a change of TARIFF is a switch: the open interval closes with TSW, and the tariff
that the energy of the frame before still takes is kept (R215, R226). -/
def setTariff (s : State) (p t src : Nat) : State :=
  setIndex (if tariffOf s p = t then s else shortClose fTSW 1 true s p) p t src

/-- Every calendar point takes the tariff of now; waiting points resume when a switch instant has come since the time last
ran on (09 R219, R220). -/
def tariffEval (s : State) : State :=
  let c := s.plan.calendar
  let t := tariffAt c s.rtc.sec
  let s := forEach (livePts s) (fun s p => if srcOf s p = 0 then setTariff s p t 0 else s) s
  if s.bl.waiting.isEmpty then s
  else if switchIn c s.bl.evalSec s.rtc.sec then
    forEach (s.bl.waiting.map (·.1)) (resumeCalendar setTariff) s
  else s

/-- The calendar applies in the states that bill or keep the index (16 R379, R380). -/
def calendarRuns (s : State) : Bool :=
  s.rtc.valid && (s.sup.st == .run || s.sup.st == .calibrate || s.sup.st == .test) && !s.sup.restored

/-- At a calendar switch instant (09 R219). -/
def execTariffSwitch (s : State) : Out := .next (if calendarRuns s then tariffEval s else s)

/-! ## Default tariff and fallback (09 R220, R221) -/

/-- Every point of type 1–3 outside a fallback takes its default tariff with SRC = 1, and event 0xA5 opens. -/
def defaultTariff (s : State) : State :=
  if s.sup.st == .recovery || !s.powered || s.sup.restored then s
  else
    let s := s.mapBl fun b => { b with defDue := false, iv := b.iv.map fun e => (e.1, { e.2 with subs := [] }) }
    let ps := (livePts s).filter fun p => srcOf s p != 2
    let fresh := !(ps.any fun p => srcOf s p == 1)
    let s := forEach ps (fun s p => setIndex s p (defTariff s p) 1) s
    let s := s.mapBl fun b => { b with deflt := ps, waiting := b.waiting.filter fun e => !ps.contains e.1,
                                       defTicks := if fresh then 0 else b.defTicks }
    if ps.isEmpty || !fresh then s else raise s 0xA5 0xFF none

/-- The clock is lost: the default tariff applies from the next tick (09 R220, 01 R21). -/
def orderDefault (s : State) : State := s.mapBl fun b => { b with defDue := true }

/-- The clock has become valid again: the points on the default tariff wait for their next boundary (09 R220). -/
def clockBack (s : State) : State :=
  let ps := s.bl.deflt
  s.mapBl fun b => { b with deflt := [], defDue := false, waiting := b.waiting ++ ps.map fun p => (p, 0) }

/-- Order a fallback for points, to apply at the tick after (09 R221). -/
def orderFallback (s : State) (ps : List Nat) : State :=
  s.mapBl fun b => { b with fbDue := b.fbDue ++ ps.filter fun p => !b.fbDue.contains p }

/-- Apply the ordered fallback: default tariff with SRC = 2 (09 R221). Nothing changes in RECOVERY, whose index stays T1. -/
def applyFallback (s : State) : State :=
  let ps := s.bl.fbDue.filter fun p => (livePts s).contains p
  let s := s.mapBl fun b => { b with fbDue := [] }
  if ps.isEmpty || s.sup.st == .recovery then s
  else
    let s := leaveDefault s (forEach ps (fun s p => setTariff s p (defTariff s p) 2) s)
    let s := s.mapBl fun b => { b with fallbk := b.fallbk ++ ps.filter (fun p => !b.fallbk.contains p),
                                       deflt := b.deflt.filter fun p => !ps.contains p,
                                       waiting := b.waiting.filter fun e => !ps.contains e.1 }
    raise s 0xA9 0xFF (some (ps.length : Nat))

def execTariffFallbackApply (s : State) : Out := .next (applyFallback s)

/-- Release points from fallback: with the clock valid they wait for a boundary, else they are on the default by clock loss
(09 R221). -/
def releaseFallback (s : State) (ps : List Nat) : State :=
  let ps := ps.filter fun p => s.bl.fallbk.contains p
  let s := s.mapBl fun b => { b with fallbk := b.fallbk.filter fun p => !ps.contains p }
  if s.rtc.valid then
    s.mapBl fun b => { b with waiting := b.waiting ++ ps.map fun p => (p, 0), evalSec := s.rtc.sec }
  else
    forEach ps (fun s p => setTariff s p (defTariff s p) 1) (s.mapBl fun b => { b with deflt := b.deflt ++ ps })

/-- Release points from fallback at the next tick (01 R21). -/
def orderRelease (s : State) (ps : List Nat) : State := s.mapBl fun b => { b with relDue := b.relDue ++ ps }

/-- The tick's part: an ordered release, and the default tariff of a lost clock. -/
def tariffTick (s : State) : State :=
  let ps := s.bl.relDue
  let s := if ps.isEmpty then s else releaseFallback (s.mapBl fun b => { b with relDue := [] }) ps
  if s.bl.defDue && !s.rtc.valid then defaultTariff s else s

/-! ## Demand-interval ends -/

/-- Close every interval whose regular end has come and start the next; a waiting point resumes at its end (09 R220, R224). -/
def demandEnds (s : State) : State :=
  forEach (livePts s) (fun s p =>
    if endDue s p then
      let s := regularEnd s p
      if s.rtc.valid then resumeCalendar setTariff s p else s
    else s) s

def execDemandIntervalEnd (s : State) : Out := .next (if billing s && !s.sup.restored then demandEnds s else s)

/-! ## Billing closes -/

/-- A billing close of points at a boundary with its cause (09 R229, R230 steps 2 to 4, R226): open intervals close as short
under SHORT only, the snapshot waits for the last energy, B_L moves when all points close. -/
def closePeriod (s : State) (ps : List Nat) (all : Bool) (b : Int) (cause missed flags : Nat) : State :=
  let s := forEach ps (shortClose 0 2 true) s
  let s := s.addFin (.set { pts := ps.map (setHead s), stamp := stampAt b false flags, cause := cause, missed := missed,
                            plan := s.plan.planid, frame := s.tb.frame })
  if all then s.putLcb (Pair.of (BitVec.ofNat 64 b.toNat)) else s

/-- Billing closes take place in RUN, CALIBRATE and TEST (16 R380). -/
def closesRun (s : State) : Bool :=
  (s.sup.st == .run || s.sup.st == .calibrate || s.sup.st == .test) && !s.sup.restored

/-- Close by rule: a boundary has come while the time ran on, clock valid. One later than B_L is closed (09 R227); at either the waiting
points take the calendar's tariff (R220). -/
def ruleClose (s : State) : State :=
  match lastBoundary s.plan.calendar s.rtc.sec with
  | none => s
  | some b =>
    if closesRun s ∧ s.rtc.valid ∧ (s.bl.evalSec : Int) ≤ b then
      let s :=
        if (s.bl.lcb.v.toNat : Int) < b then raise (closePeriod s (livePts s) true b 1 0 0) 0xA0 0xFF (some 1) else s
      forEach (s.bl.waiting.map (·.1)) (resumeCalendar setTariff) s
    else s

def execBillingCloseRule (s : State) : Out := .next (ruleClose s)

/-- BLCMD reaches the legal request queue whatever the seal state (09 R228); the reason is judged at the answer. -/
def execBlcmd (req : Requester) (w : Word) (s : State) : Out :=
  .next (if serving s then s.mapHp fun h => { h with legal := h.legal ++ [.close req w] } else s)

/-- Why a close by command is refused: 1 clock invalid, 2 guard, 3 spacing, 4 locked (09 R228, Table 9.7). A close that is accepted and
waits for its tick takes effect less than 60 s before any later one. -/
def blcmdReason (s : State) : Option Nat :=
  if !s.rtc.valid then some 1
  else if s.rtc.sec ≤ s.bl.lcb.v.toNat then some 2
  else if s.bl.cmdDue.isSome || s.bl.lastCmd.any fun t => decide (s.rtc.sec < t + 60) then some 3
  else if s.tp.locked then some 4
  else none

/-- A close by command is accepted: no reason against it, and a live point in a state that closes. -/
def closeOk (s : State) (w : Word) : Bool :=
  wbit w 8 && (blcmdReason s).isNone && closesRun s && (livePts s).any fun p => wbit w 7 || p == wbits w 6 0

/-- The legal core's answer to a close by command: closing at the next tick, or CREF and 0xA2. A word without CLOSE asks for
nothing. -/
def answerClose (s : State) (w : Word) : State :=
  if !wbit w 8 then s
  else
    match blcmdReason s with
    | some r => raise (s.mapBl fun b => { b with cref := true }) 0xA2 0xFF (some (r : Nat))
    | none =>
      if closeOk s w then s.mapBl fun b => { b with cmdDue := some w }
      else raise (s.mapBl fun b => { b with cref := true }) 0xA2 0xFF none

/-- The tick of an accepted close by command (09 R228). -/
def cmdCloseTick (s : State) : State :=
  match s.bl.cmdDue with
  | none => s
  | some w =>
    let ps := (livePts s).filter fun p => wbit w 7 || p == wbits w 6 0
    let all := ps == livePts s
    let s := s.mapBl fun b => { b with cmdDue := none, lastCmd := some s.rtc.sec }
    let s := closePeriod s ps all s.rtc.sec 2 0 0
    raise s 0xA1 0xFF (some (ps.length : Nat))

/-! ## Catch-up, clock sets, restore (09 R231 to R233) -/

/-- Close the boundaries of (lo, hi] later than B_L, at most the 13 latest, each once in time order (09 R232). -/
def catchUp (s : State) (lo hi : Int) (cause flags : Nat) : State :=
  let bs := (boundariesIn s.plan.calendar (max lo (s.bl.lcb.v.toNat : Int)) hi)
  let missed := bs.length - 13
  let keep := bs.drop missed
  let s := (keep.foldl (fun (a : State × Nat) b =>
    (raise (closePeriod a.1 (livePts a.1) true b cause a.2 flags) 0xA0 0xFF (some (cause : Nat)), 0)) (s, missed)).1
  if missed = 0 then s
  else raise (s.mapBl fun b => { b with drop := true }) 0xA7 0xFF (some (missed : Nat))

/-- A second is itself a calendar boundary of a point (09 R220). -/
def boundaryAt (s : State) (p t : Nat) : Bool :=
  let c := s.plan.calendar
  switchIn c t t || decide (nextEnd c (mdStep (pointDef s.plan p)) ((t : Int) - 1) = (t : Int)) || lastBoundary c t == some (t : Int)

/-- Points that wait resume at once when the set time itself is a calendar boundary (09 R220). -/
def resumeAtSet (s : State) (t : Nat) : State :=
  forEach ((s.bl.waiting.map (·.1)).filter fun p => boundaryAt s p t) (resumeCalendar setTariff) s

/-- The legal core's billing part of an accepted clock set (09 R231, R232, R220). -/
def clockSetBilling (s : State) (t0 t1 : Nat) (wasInvalid : Bool) : State :=
  let s := if billing s then forEach (livePts s) (closeShort fCADJ 3 true) s else s
  let lo := if wasInvalid then s.rtc.lastValid else t0
  let s := if lo < t1 ∧ closesRun s ∧ (wasInvalid → 0 < lo) then catchUp s lo t1 3 fCADJ else s
  let s := s.mapBl fun b => { b with evalSec := t1 }
  let s := if wasInvalid then resumeAtSet (clockBack s) t1 else s
  if calendarRuns s then
    let t := tariffAt s.plan.calendar s.rtc.sec
    let s := forEach (livePts s) (fun s p => if srcOf s p = 0 then setTariff s p t 0 else s) s
    s
  else s

/-- Close the interval that was open at the commit, at restore (09 R233): at its regular end when that has passed at `now`, else as
short; with TINV when the clock was lost. A clock set that waits for the restore (`sets`) closes it instead of the short close. -/
def restoreIv (now : Nat) (sets : Bool) (s : State) (p : Nat) : State :=
  let v := ivAt s p
  if !v.isOpen then s
  else
    let e := nextEnd s.plan.calendar (mdStep (pointDef s.plan p)) (stampSec v.start)
    let out : Option Int := if s.rtc.valid then some ((s.rtc.sec : Int) - s.rtc.lastValid) else none
    let v := { v with outage := true }
    if s.rtc.valid && !v.tinv && decide (e ≤ (now : Int)) then
      raise (finIv (s.setIv p { v with isOpen := false, subs := [] })
        (ivRecord s p v true (stampAt e false (ivFlags s p v)))) 0xA8 p out
    else if sets then raise (s.setIv p v) 0xA8 p out
    else
      let fl := ivFlags s p { v with short := true }
      let s := finIv (s.setIv p { v with isOpen := false, subs := [] }) (ivRecord s p v true (s.stamp fl))
      raise (raise s 0xA3 p (some 6)) 0xA8 p out

/-- A clock set that waited for the restore: the boundaries before it belong to the outage, the rest is R231, R232 (10 R246). -/
def restoreSet (s : State) (d : Nat × Nat × Nat × Requester × Bool × Bool) : State :=
  let lo := s.rtc.lastValid
  let s := if !d.2.2.2.2.2 && decide (0 < lo) then catchUp s lo d.1 4 fOUTAGE else s
  clockSetBilling s d.1 d.2.2.1 d.2.2.2.2.2

/-- The billing steps of the first tick of RUN (09 R230, R233): intervals of the commit close, boundaries of the outage close
with cause 4 and OUTAGE, clock sets that waited are carried out, the tariff of now is set, intervals start with OUTAGE and SHORT. -/
def restoreBilling (s : State) : State :=
  let sets := s.rtc.setDue
  let now := match sets with
    | [] => s.rtc.sec
    | d :: _ => if d.2.2.2.2.2 then s.rtc.lastValid else d.1
  let s := forEach (livePts s) (restoreIv now (!sets.isEmpty)) s
  let s := (forEach sets restoreSet s).mapRtc fun r => { r with setDue := [] }
  let lo := match sets.getLast? with
    | none => s.rtc.lastValid
    | some d => d.2.2.1
  let s :=
    if s.rtc.valid then
      let s := if 0 < lo then catchUp s lo s.rtc.sec 4 fOUTAGE else s
      let s := s.mapBl fun b => { b with evalSec := s.rtc.sec }
      forEach (livePts s) (fun s p => if srcOf s p ≠ 2 then setTariff s p (tariffAt s.plan.calendar s.rtc.sec) 0 else s) s
    else defaultTariff s
  let s := finAll s
  forEach (livePts s) (fun s p => if faulted s p then s else openIv s p true (!s.nv.done.factory)) s

end Sys2Proof.Machine
end

