-- ==== Sys2Proof/Machine/Tamper.lean ====
section
/-! DEFINITION. Tamper sources, declarations and their responses, the tamper latches and the seal pin (11). The granting
decisions and the seal transitions that change the operating state stand with the requests. -/

namespace Sys2Proof.Machine

/-! ## Sources (Tables 11.2, 11.9) -/

/-- A source at reset (Table 11.6). -/
def srcDef (n : Nat) : Source := { cfg := if n ≤ 7 then 0x100 else 0x180101 }

def srcAt (s : State) (n : Nat) : Source := tget (srcDef n) n s.tp.src

def State.setSrc (s : State) (n : Nat) (x : Source) : State := s.mapTp fun t => { t with src := tset n x t.src }

/-- The 16 source numbers. -/
def sources : List Nat := List.range 16

/-- MODE in effect: a pin takes a written MODE at its next burst multiple (11 R264). -/
def srcMode (s : State) (n : Nat) : Nat := if n ≤ 7 then (srcAt s n).mode else wbits (srcAt s n).cfg 1 0

/-- N of a source. -/
def srcN (x : Source) : Nat := wbits x.cfg 15 8

/-- A response bit of any of some sources: 16 erase, 17 lock, 18 fallback, 19 log, 20 notify. -/
def respAny (s : State) (l : List Nat) (b : Nat) : Bool := l.any fun n => wbit (srcAt s n).cfg b

/-! ## Events of the Slate domain -/

/-- An event of a Slate act: raised now, or held for the restore while the recorder has no power (11 R274, 10 R243). -/
def slateEvent (s : State) (code chan : Nat) (v : Option Int) : State :=
  if s.powered then raise s code chan v else s.mapRtc fun r => { r with evDue := r.evDue ++ [(code, chan, v)] }

/-- The legal core, or in RECOVERY the recovery monitor, acts on declarations at once: it runs and no tamper latch waits
(11 R274). -/
def actsNow (s : State) : Bool :=
  !s.rtc.onCell && s.sup.commit != .held && !s.sup.restored && s.tp.latches.isEmpty &&
  (s.sup.st == .run || s.sup.st == .calibrate || s.sup.st == .test || s.sup.st == .recovery)

/-! ## Double decisions (11 R268 to R270, Table 11.3) -/

/-- The row of Table 11.3. -/
def Decision.row : Decision → Nat
  | .sealOpen => 1 | .firmware => 2 | .plan _ _ => 3 | .calCommit => 4 | .stickyClear _ => 5 | .reinstate _ => 6
  | .erase => 7 | .lock => 8 | .fallback => 9

/-- Protecting decisions are those of rows 7 to 9. -/
def Decision.protecting (d : Decision) : Bool := decide (7 ≤ d.row)

/-- Hand a decision of the first evaluator to the second. -/
def pendDec (s : State) (d : Decision) (first : Bool) : State :=
  s.mapTp fun t => { t with dd := t.dd ++ [{ dec := d, first := first }] }

/-- The next 6-bit value of the delay pool, d − 1; a free value while the pool was never drawn (log 13). -/
def poolNext (s : State) : Nat × State :=
  if s.tp.pool.isEmpty then
    let d := s.draw
    (d.1 % 64, d.2)
  else (s.tp.pool.getD s.tp.poolPos 0 % 64, s.mapTp fun t => { t with poolPos := (t.poolPos + 1) % 64 })

/-- Draw the pool and reseed the loop LFSR from the TRNG, at each restore and each second on main power (11 R264, R268). -/
def refreshPool (s : State) : State :=
  let d := s.draw
  let e := d.2.draw
  e.2.mapTp fun t => { t with pool := (List.range 64).map fun i => d.1 / 64 ^ i % 64, lfsr := e.1 }

/-- `DDSTS` of a decision. -/
def ddWord (d : Decision) (first second : Bool) (dly : Nat) : Word :=
  word (d.row + flagAt d.protecting 4 + flagAt first 5 + flagAt second 6 + flagAt (first != second) 7 + dly % 64 * 2 ^ 8)

/-! ## Responses (11 R271 to R275) -/

/-- Clear the key RAM and record the erase; its entry falls due (11 R273). -/
def eraseKeys (s : State) (mask : Nat) : State :=
  let cell := s.rtc.onCell
  let s := s.mapTp fun t => { t with keys := [], keysErased := true, erased := true, erac := satAdd t.erac 1,
                                     esec := s.rtc.sec, etinv := !s.rtc.valid, emask := mask, ecell := cell }
  let s := s.mapSer fun x => { x with relDue := true, relAt := s.tb.ticks }
  privDue s 0x08 (leBytes 8 (stampAt s.rtc.sec (!s.rtc.valid) 0).toNat ++ leBytes 2 mask ++ leBytes 1 (if cell then 1 else 0)) cell

/-- The IRQ cause and DLMS notification of a source (11 R271, 15 R351, R355). -/
def notifySrc (s : State) (n : Nat) : State :=
  let s := s.mapHp fun h => { h with irqtamp := h.irqtamp ||| (1#16 <<< n) }
  (s.irq 3).mapSer fun x => { x with notify := x.notify ++ [(if n ≤ 7 then 0xD3 else 0xD4) * 256 + n] }

/-- Log a source: 0xD3 with its bin for pins, 0xD4 for the others. -/
def logSrc (s : State) (n : Nat) : State :=
  if n ≤ 7 then raise s 0xD3 n (some (n + 1 : Nat)) else raise s 0xD4 n (some (n - 7 : Nat))

/-- Supply bins of 0xD8. -/
def eraseBin (cell : Bool) : Int := if cell then 2 else 1

/-- The declaration of sources in one Slate cycle (11 R271, R274): erase and lock at once; fallback, log and notify now or as
latches. -/
def declare (s : State) (l : List Nat) : State :=
  if l.isEmpty then s
  else
    let mask := l.foldl (fun m n => m + 2 ^ n) 0
    let s := forEach l (fun s n => s.setSrc n { srcAt s n with sticky := true, dsec := s.rtc.sec, dtinv := !s.rtc.valid }) s
    let er := respAny s l 16
    let lk := respAny s l 17
    let fb := respAny s l 18
    let newLock := lk && !s.tp.locked
    let now := actsNow s
    let s := if er then pendDec (eraseKeys s mask) .erase true else s
    let s := if lk then pendDec (s.mapTp fun t => { t with locked := true,
                                                           lockAt := if newLock then s.rtc.edges else t.lockAt }) .lock true else s
    let s := if fb then pendDec (s.mapTp fun t => { t with fallbk := true }) .fallback true else s
    if now then
      let s := if er then raise s 0xD8 0xFF (some (eraseBin s.rtc.onCell)) else s
      let s := if newLock then raise s 0xDE 0xFF none else s
      let s := if fb then orderFallback s (livePts s) else s
      let s := forEach (l.filter fun n => wbit (srcAt s n).cfg 19) logSrc s
      forEach (l.filter fun n => wbit (srcAt s n).cfg 20) notifySrc s
    else
      s.mapTp fun t => { t with latches := t.latches ++ l.mapIdx fun i n =>
        { sec := s.rtc.sec, src := n, log := wbit (srcAt s n).cfg 19, notify := wbit (srcAt s n).cfg 20,
          fallbk := fb && i == 0, lock := newLock && i == 0, erased := er && i == 0, cell := s.rtc.onCell } }

/-- Process one tamper latch at restore (11 R274): log, key erasure, lock, fallback, notify. -/
def processLatch (s : State) (x : TamperLatch) : State :=
  let s := if x.log then logSrc s x.src else s
  let s := if x.erased then raise s 0xD8 0xFF (some (eraseBin x.cell)) else s
  let s := if x.lock then raise s 0xDE 0xFF none else s
  let s := if x.fallbk then orderFallback s (livePts s) else s
  if x.notify then notifySrc s x.src else s

/-- A sticky flag of a source with a response bit remains. -/
def stickyWith (s : State) (b : Nat) : Bool := sources.any fun n => (srcAt s n).sticky && wbit (srcAt s n).cfg b

/-- A response bit of a metering-tamper condition: REV 8, BYP 12, NEU 16, SENS 20, plus 0 FALLBK, 1 LOG, 2 NOTIFY
(Table 11.10). -/
def mtResp (s : State) (m b : Nat) : Bool := wbit s.tp.mtcfg (8 + 4 * m + b)

/-- Metering tamper holds a point in fallback (11 R277). -/
def mtHolds (s : State) (p : Nat) : Bool :=
  (List.range 4).any fun m => (tget (false, 0, 0) (4 * p + m) s.tp.mt).1 && mtResp s m 0

/-- Release the lock and the Slate's fallback when no sticky flag orders them any more (11 R272, 09 R221). -/
def releaseChecks (s : State) : State :=
  let s :=
    if s.tp.locked && !stickyWith s 17 then
      endSample (s.mapTp fun t => { t with locked := false }) 0xDE 0xFF ((s.rtc.edges - s.tp.lockAt : Nat) : Int)
    else s
  if s.tp.fallbk && !stickyWith s 18 then
    orderRelease (s.mapTp fun t => { t with fallbk := false }) ((livePts s).filter fun p => !mtHolds s p)
  else s

/-! ## Counting (11 R265 to R267) -/

/-- W of a source: round(`TPWIN` × 32.768) Slate cycles (11 R266). -/
def tamperWinCycles (x : Source) : Nat := (x.win * 32768 + 500) / 1000

/-- A count window ends: in MODE 3 one-sided events are a disagreement (11 R265). -/
def windowEnds (s : State) (src : Nat) : State :=
  let x := srcAt s src
  let t := s.setSrc src { x with isOpen := false, cnt := 0, cntB := 0, declared := false }
  if src ≤ 7 ∧ srcMode s src = 3 ∧ x.statEv ≠ x.loopEv then
    let b := if x.statEv then src else 8 + src
    slateEvent (t.mapTp fun t => { t with disag := t.disag ||| (1#16 <<< b) }) 0xD5 src (some (if x.statEv then 1 else 2))
  else t

/-- The window [t, t + W) of a source is over by the Slate time that the ticks and second edges have shown (11 R266, log 121). -/
def windowOver (s : State) (n : Nat) : Bool :=
  let x := srcAt s n
  x.isOpen && decide (x.openT + tamperWinCycles x * 125 ≤ s.tp.slate)

/-- One event of a source at a Slate time in its window; the new declaration, if any. `stat` and `loop` name the detector of a
pin. -/
def countEvent (x : Source) (now : Nat) (stat loop : Bool) : Source × Bool :=
  let x := if x.isOpen then x
    else { x with isOpen := true, openT := now, cnt := 0, cntB := 0, declared := false, declB := false, statEv := false,
                  loopEv := false }
  let x := { x with cnt := min 255 (x.cnt + 1), cntB := min 255 (x.cntB + 1), statEv := x.statEv || stat,
                    loopEv := x.loopEv || loop }
  let hit := !x.declared && decide (srcN x ≤ x.cnt)
  ({ x with declared := x.declared || hit, declB := x.declB || decide (srcN x ≤ x.cntB) }, hit)

/-- Sources 11, 12, 13 and 15 do not run on the cell (Table 11.2). -/
def runsOnCell (n : Nat) : Bool := n ≤ 10 || n == 14

/-- Source events in one Slate cycle: count each and declare together (11 R266, R271). -/
def sourceEvents (s : State) (l : List Nat) (stat loop : Bool) : State :=
  let l := l.filter fun n => srcMode s n != 0 && (runsOnCell n || !s.rtc.onCell)
  let r := l.foldl (fun (a : State × List Nat) n =>
    let s := if windowOver a.1 n then windowEnds a.1 n else a.1
    let c := countEvent (srcAt s n) s.tp.slate stat loop
    (s.setSrc n c.1, if c.2 then a.2 ++ [n] else a.2)) (s, [])
  declare r.1 r.2

/-- One event of a source without detectors. -/
def sourceEvent (s : State) (n : Nat) : State := sourceEvents s [n] false false

/-- The static detector of a pin runs in MODE 1 and 3 (11 R264). -/
def hasStatic (s : State) (pin : Nat) : Bool := srcMode s pin == 1 || srcMode s pin == 3

/-- A level of a pin is the active one that POL gives (Table 11.9). -/
def activeLevel (s : State) (pin : Nat) (high : Bool) : Bool := high == wbit (srcAt s pin).cfg 2

/-- A level that a pin has held for 2 Slate cycles: one static event when it is the active one, in MODE 1 and 3 (11 R264). -/
def execTamperStaticEvent (held : HeldLevel) (s : State) : Out :=
  if !isPin held.pin then .fault .noSuchUnit
  else if hasStatic s held.pin && activeLevel s held.pin held.high then
    .next (sourceEvents (s.setSrc held.pin { srcAt s held.pin with active := true }) [held.pin] true false)
  else .next (s.setSrc held.pin { srcAt s held.pin with active := false })

/-- Burst period of a RATE, Slate cycles (11 R264). -/
def burstPeriod (rate : Nat) : Nat :=
  match rate with
  | 0 => 32768
  | 1 => 8192
  | 2 => 2048
  | _ => 1024

/-- A written MODE and RATE take effect at a multiple of the written RATE's period (11 R264, log 121). -/
def takeMode (s : State) (n : Nat) : State :=
  let x := srcAt s n
  let rate := wbits x.cfg 5 4
  if s.tp.burst % burstPeriod rate = 0 then s.setSrc n { x with mode := wbits x.cfg 1 0, rate := rate } else s

/-- The pin starts a burst at this multiple: its loop detector runs and its period divides the burst-phase counter. -/
def bursts (s : State) (n : Nat) : Bool :=
  (srcMode s n == 2 || srcMode s n == 3) && s.tp.burst % burstPeriod (srcAt s n).rate == 0

/-- The bursts of one multiple of 1,024 of the burst-phase counter: written modes take effect, and each pin that bursts with a bit
missing in its return has one loop event (11 R264). The bits run within this step, so no static sample falls inside them. -/
def execLoopBurst (missing : List Nat) (s : State) : Out :=
  let s := s.mapTp fun t => { t with burst := (t.burst + 1024) % 32768 }
  let s := forEach (List.range 8) takeMode s
  .next (sourceEvents s ((List.range 8).filter fun n => missing.contains n && bursts s n) false true)

/-- The instant t + W of a source's window has come (11 R266). -/
def execTamperWindowClose (src : Nat) (s : State) : Out :=
  if !isSource src then .fault .noSuchUnit
  else .next (if (srcAt s src).isOpen then windowEnds s src else s)

/-- The Slate temperature sample, °C (Table 11.2, source 10). -/
def execDieTempSample (t : Int) (s : State) : Out :=
  let ok := decide (-50 ≤ t ∧ t ≤ 135)
  let u := s.mapTp fun x => { x with tempOk := ok }
  .next (if !ok && s.tp.tempOk then sourceEvent u 10 else u)

/-- A supply glitch (Table 11.2, source 11). -/
def execSupplyGlitch (s : State) : Out := .next (sourceEvent s 11)

/-! ## The seal pin (11 R260) -/

/-- A level change of SEAL_N starts the debounce, or restarts it as one event of source 14. -/
def execSealPinChange (low : Bool) (s : State) : Out :=
  let t := s.mapTp fun x => { x with deb := some low }
  .next (match s.tp.deb with
    | some _ => sourceEvent t 14
    | none => t)

end Sys2Proof.Machine
end

