-- ==== Sys2Proof/Machine/Rtc.lean ====
section
/-! DEFINITION. The real-time clock and the Slate supply (10): second edges with their timebase measurement (02 R28, R37),
validity, clock sets, alarms and latches, PPS discipline. -/

namespace Sys2Proof.Machine

/-! ## Validity (10 R241) -/

/-- The clock becomes invalid by a cause of Table 10.1: 0xC1 when it was valid, `TBSTS.CLKOOR` reads 0, and the points take
their default tariff (09 R220), which is a protecting decision (Table 11.3). -/
def clockInvalid (s : State) (cause : Nat) : State :=
  let was := s.rtc.valid
  let s := (s.mapRtc fun r => { r with valid := false, invcause := cause }).mapTb fun t => { t with clkoor := false }
  if was then
    let s := slateEvent s 0xC1 0xFF (some (cause : Nat))
    if s.powered && !s.sup.restored && s.sup.st != .recovery then pendDec (orderDefault s) .fallback true else s
  else s

/-! ## Alarms (10 R248 to R253) -/

def alarmAt (s : State) (n : Nat) : Alarm := tget {} n s.rtc.al

def State.setAlarm (s : State) (n : Nat) (a : Alarm) : State := s.mapRtc fun r => { r with al := tset n a r.al }

/-- The 8 slots. -/
def alarms : List Nat := List.range 8

/-- Firings set latches from the loss of main power until the latches have been processed after restore (10 R252). -/
def latchMode (s : State) : Bool :=
  s.rtc.onCell || !s.sup.main || s.sup.restored ||
  !(s.sup.st == .run || s.sup.st == .calibrate || s.sup.st == .test || s.sup.st == .recovery)

/-- One-shot slots clear EN; repeating slots advance by their period (10 R248). -/
def afterFire (a : Alarm) : Alarm := if a.per = 0 then { a with en := false } else { a with time := a.time + a.per }

/-- A slot sets its latch in place of its actions (10 R252). -/
def latchAlarm (s : State) (n : Nat) (a : Alarm) : State :=
  s.setAlarm n { a with latSet := true, latSec := if a.latSet then a.latSec else s.rtc.sec,
                        latCnt := if a.latSet then min 255 (a.latCnt + 1) else 0 }

/-- A slot fires at its second (10 R248), or latches (R252). A latch keeps the second of its first firing and counts the further
ones. -/
def fireAlarm (s : State) (n : Nat) : State :=
  let a := alarmAt s n
  if latchMode s then latchAlarm s n (afterFire a)
  else
    let s := s.setAlarm n { afterFire a with fired := true }
    let s := if a.log then raise s 0xC6 n none else s
    if a.notify then s.irq 2 else s

/-- A skipped slot fires late with 0xC5, or is dropped under SKIP with 0xC7 (10 R250). -/
def lateFire (s : State) (n lateness : Nat) : State :=
  let a := alarmAt s n
  if a.skip then raise (s.setAlarm n { a with drop := true }) 0xC7 n (some (lateness : Nat))
  else
    let s := raise (s.setAlarm n { a with fired := true, late := true }) 0xC5 n (some (lateness : Nat))
    if a.notify then s.irq 2 else s

/-- The slots that fire at the second edge that has just begun a second, in ascending order (10 R249). -/
def fireDue (s : State) : State :=
  if s.rtc.valid && !s.rtc.halt then
    forEach (alarms.filter fun n => (alarmAt s n).en && (alarmAt s n).time == s.rtc.sec) fireAlarm s
  else s

/-- The next ALTIME of a skipped slot: the first ALTIME + kP at or after t1, or after it when it equals t1 and joins the late
firing (10 R250). -/
def skipTo (a : Alarm) (t1 : Nat) : Alarm :=
  if a.per = 0 then (if a.skip then a else { a with en := false })
  else { a with time := a.time + ((t1 - a.time) / a.per + 1) * a.per }

/-- The alarm rules of an accepted set (10 R250, R251). -/
def alarmsAtSet (s : State) (t0 t1 : Nat) : State :=
  let skipped := alarms.filter fun n =>
    let a := alarmAt s n
    a.en && decide (t0 < a.time) && decide (a.time < t1)
  let onTime := alarms.filter fun n => (alarmAt s n).en && (alarmAt s n).time == t1
  let s := forEach skipped (fun s n =>
    let a := alarmAt s n
    if latchMode s && !a.skip then latchAlarm s n (skipTo a t1) else lateFire (s.setAlarm n (skipTo a t1)) n (t1 - a.time)) s
  forEach onTime fireAlarm s

/-- Process the alarm latch of a slot (10 R253). -/
def alarmLatch (s : State) (n : Nat) : State :=
  let a := alarmAt s n
  lateFire (s.setAlarm n { a with latSet := false, latCnt := 0, latSec := 0 }) n (s.rtc.sec - a.latSec)

/-- The set latches as (second, 0 tamper or 1 alarm, index): tamper latches come first in a second (11 R274, 10 R253). -/
def latchOrder (s : State) : List (Nat × Nat × Nat) :=
  (s.tp.latches.mapIdx fun i l => (l.sec, 0, i)) ++
  (if s.rtc.valid then (alarms.filter fun n => (alarmAt s n).latSet).map fun n => ((alarmAt s n).latSec, 1, n) else [])

/-- Lexicographic order of latch keys. -/
def latchLe (a b : Nat × Nat × Nat) : Bool :=
  decide (a.1 < b.1) || (a.1 == b.1 && (decide (a.2.1 < b.2.1) || (a.2.1 == b.2.1 && decide (a.2.2 ≤ b.2.2))))

/-- Insert in order. -/
def insertLatch (x : Nat × Nat × Nat) : List (Nat × Nat × Nat) → List (Nat × Nat × Nat)
  | [] => [x]
  | y :: t => if latchLe x y then x :: y :: t else y :: insertLatch x t

/-- Process the alarm and tamper latches in time order (11 R274, 10 R253). Alarm latches stay while the clock is invalid. -/
def processLatches (s : State) : State :=
  let l := s.tp.latches
  let order := (latchOrder s).foldl (fun t x => insertLatch x t) []
  let s := forEach order (fun s x =>
    if x.2.1 = 0 then
      match l[x.2.2]? with
      | some y => processLatch s y
      | none => s
    else alarmLatch s x.2.2) s
  s.mapTp fun t => { t with latches := [] }

/-! ## The sub-second (10 R238) -/

/-- A frame tick is 2.048 Slate cycles: the sub-second between two edges, which the Slate's own crystal counts (log 120). -/
def subTick (s : State) : State :=
  let s := s.mapTp fun t => { t with slate := t.slate + 256 }
  s.mapRtc fun r => if r.halt then r else { r with subAcc := r.subAcc + 256, sub := min 32767 ((r.subAcc + 256) / 125) }

/-- The Slate has counted on without frame ticks: the sub-second is a free value until the next edge (log 120). -/
def subUnknown (s : State) : State :=
  if s.rtc.halt then s
  else
    let d := s.draw
    d.2.mapRtc fun r => { r with subAcc := d.1 % 32768 * 125, sub := d.1 % 32768 }

/-! ## Second edges -/

/-- TBPPM from the elapsed core cycles at the last edges (02 R37), 0.001 ppm; over fewer edges while 17 have not passed. -/
def ppmOf (l : List Nat) : Option Int :=
  match l, l.getLast? with
  | a :: _ :: _, some b =>
    let n := l.length - 1
    some (rndDiv (((a - b : Nat) : Int) * 1000000000) (n * 491520000) - 1000000000)
  | _, _ => none

/-- The timebase's part of a second edge: the latched frame and offset, TBPPM, and the count of ticks in the second
(02 R28, R37). -/
def timebaseEdge (s : State) (cyc : Nat) : State :=
  let had := !s.tb.edges.isEmpty
  let count := s.tb.secTicks
  let bad := had && s.rtc.valid && (decide (count ≤ 15992) || decide (16008 ≤ count))
  let cyc := min cyc 30719
  let edges := ((s.tb.ticks * 30720 + cyc) :: s.tb.edges).take 17
  let s := s.mapTb fun t => { t with secFrame := t.frame, secCyc := cyc, edges := edges,
                                     ppm := (ppmOf edges).getD t.ppm, secTicks := 0, clkoor := bad }
  if bad then sourceEvent s 12 else s

/-- A second edge of the RTC (10 R238, R240, R248; 02 R37). None occurs while HALT is set or the counter has stopped. -/
def execRtcSecondEdge (cyc : Nat) (s : State) : Out :=
  if s.rtc.halt then .next s
  else
    let s := s.mapRtc fun r => { r with edges := r.edges + 1 }
    let s := if s.powered then s else s.mapTp fun t => { t with slate := t.slate + 4096000 }
    if rtcMax ≤ s.rtc.sec then .next s
    else
      let s := s.mapRtc fun r => { r with sec := r.sec + 1, sub := 0, subAcc := 0 }
      let s := if s.powered then refreshPool (timebaseEdge s cyc) else s
      if s.rtc.sec = rtcMax then .next (slateEvent (clockInvalid s 4) 0xCB 0xFF none)
      else .next (fireDue s)

/-! ## Crystal and supply (10 R242, R243) -/

/-- The crystal has stopped: the RC oscillator runs, the clock is invalid, source 9 has an event. -/
def execCrystalStop (s : State) : Out :=
  .next (sourceEvent (clockInvalid (s.mapRtc fun r => { r with oscstop := true }) 2) 9)

/-- The crystal has run for 1 s without a stop. -/
def execCrystalRestore (s : State) : Out := .next (s.mapRtc fun r => { r with oscstop := false })

/-- The Slate switches between VIO and the cell; a cell known below 1.80 V then makes the clock invalid (Table 10.1). -/
def execSlateSupplySwitch (cell : Bool) (s : State) : Out :=
  let s := s.mapRtc fun r => { r with onCell := cell, cellrun := r.cellrun || cell }
  .next (if cell && s.rtc.vbatlow && s.rtc.vbatOk && decide (s.rtc.vbat < 1800) then clockInvalid s 3 else s)

/-- VBAT falls below a supply level, mV: below 2.20 V `VBATLOW`, 0xC4 and source 8; below 1.80 V on the cell the clock is
invalid with cause 3. The comparator ladder reports 50 mV steps while main power is present. -/
def execVbatLow (mv : Nat) (s : State) : Out :=
  let s := if s.powered then s.mapRtc fun r => { r with vbat := min 4050 (mv / 50 * 50), vbatOk := true } else s
  let s :=
    if mv < 2200 ∧ !s.rtc.vbatlow then
      sourceEvent (slateEvent (s.mapRtc fun r => { r with vbatlow := true }) 0xC4 0xFF (some (mv : Nat))) 8
    else s
  .next (if mv < 1800 ∧ s.rtc.onCell then clockInvalid s 3 else s)

/-- VBAT is back above 2.20 V: the ladder reports a step from there up, a free value (log 120). -/
def execVbatlowClear (s : State) : Out :=
  let s := s.mapRtc fun r => { r with vbatlow := false }
  if s.powered then
    let d := s.draw
    .next (d.2.mapRtc fun r => { r with vbat := 2200 + 50 * (d.1 % 38), vbatOk := true })
  else .next s

/-- The record-due marks of the Slate acts, which the Slate domain holds, are lost with its supply (12 R291). -/
def dropSlateMarks (s : State) : State := s.mapEr fun r => { r with due := r.due.filter fun e => !(e.cell || slateAct e.ptype) }

/-- The Slate supply has risen above 1.60 V again: every Slate register takes its reset value, the key RAM reads as erased, and
0xC3 and 0xC1 follow at the next restore; a domain that starts on the cell runs on it (`CELLRUN`). The second and marks the legal core keeps are not the Slate's. -/
def execSlateColdStart (s : State) : Out :=
  let s := s.mapRtc fun r =>
    { lastValid := r.lastValid, invTicks := r.invTicks, onCell := r.onCell, cellrun := r.onCell }
  let s := s.mapTp fun t => { mtcfg := t.mtcfg, mtthr1 := t.mtthr1, mtthr2 := t.mtthr2, mt := t.mt }
  let s := if s.sup.st = .off then s.mapSup fun u => { u with st := .backup } else s
  .next (dropSlateMarks s)

/-! ## Setting the time (10 R244, R245) -/

/-- A write of 1 to HALT at a sub-second. A write while HALT is set changes only RELPPS. -/
def setHalt (s : State) (req : Requester) (sub : Nat) (relpps : Bool) : State :=
  if s.rtc.halt then s.mapRtc fun r => { r with relpps := relpps }
  else if privFull s.er || s.tp.locked then s.mapRtc fun r => { r with href := true, relpps := relpps }
  else
    let s := reserve s 1
    let s := s.mapTb fun t => { t with edges := [] }
    s.mapRtc fun r => { r with halt := true, relpps := relpps, relWait := false, haltSec := r.sec, haltSub := sub % 32768,
                               sub := sub % 32768, subAcc := sub % 32768 * 125, newSec := r.sec, haltReq := req,
                               haltInv := !r.valid, haltTicks := 0 }

/-- The request reaches the Slate only through a device that serves it (01 R20). -/
def execHalt (req : Requester) (sub : Nat) (relpps : Bool) (s : State) : Out :=
  .next (if serving s then setHalt s req sub relpps else s)

/-- Write `RTCSECL`, `RTCSECH`: only while HALT is set. -/
def writeTime (s : State) (lo hi : Option Word) : State :=
  if s.rtc.halt then
    s.mapRtc fun r =>
      let l := match lo with | some w => w.toNat | none => r.newSec % 2 ^ 32
      let h := match hi with | some w => wbits w 7 0 | none => r.newSec / 2 ^ 32
      { r with newSec := h * 2 ^ 32 + l }
  else raise (s.mapRtc fun r => { r with werr := true }) 0xC2 0xFF (some 1)

def execRtcTimeWrite (_req : Requester) (lo hi : Option Word) (s : State) : Out :=
  .next (if serving s then writeTime s lo hi else s)

/-- t0 in Slate cycles: the time held at HALT plus the halt duration (10 R245). -/
def haltT0 (r : Rtc) (dur : Nat) : Nat := r.haltSec * 32768 + r.haltSub + dur

/-- The RTC resumes at t0, and the reservation of the clock-set record is released; a clock that comes to the end of its range
becomes invalid (10 R240). -/
def resumeAt (s : State) (t0 : Nat) : State :=
  let ends := decide (s.rtc.sec < rtcMax) && decide (rtcMax ≤ t0 / 32768)
  let s := release (s.mapRtc fun r => { r with halt := false, relWait := false, sec := min rtcMax (t0 / 32768), sub := t0 % 32768,
                                                subAcc := t0 % 32768 * 125 }) 1
  if ends then slateEvent (clockInvalid s 4) 0xCB 0xFF none else s

/-- The clear of HALT after a halt of `dur` Slate cycles (10 R245). -/
def clearHalt (s : State) (dur : Nat) : State :=
  let t0 := haltT0 s.rtc dur
  let t1 := s.rtc.newSec
  if rtcMax < t1 ∨ s.tp.locked then
    let s := ((resumeAt s t0).mapRtc fun r => { r with werr := true }).irq 11
    raise s 0xC2 0xFF (some (if rtcMax < t1 then 2 else 3))
  else
    let inv := !s.rtc.valid
    let from0 := if inv then s.rtc.lastValid else t0 / 32768
    let s := s.mapRtc fun r =>
      { r with halt := false, relWait := false, sec := t1, sub := 0, subAcc := 0, valid := true,
               setDue := r.setDue ++ [(t0 / 32768, t0 % 32768, t1, r.haltReq, r.relpps, inv)] }
    let s := s.irq 11
    let s := if inv then forEach (alarms.filter fun n => (alarmAt s n).latSet && !s.sup.restored) alarmLatch s else s
    let s := if from0 < t1 then alarmsAtSet s from0 t1
      else forEach (alarms.filter fun n => (alarmAt s n).en && (alarmAt s n).time == t1) fireAlarm s
    if t1 = rtcMax then slateEvent (clockInvalid s 4) 0xCB 0xFF none else s

/-- A write that clears HALT after `dur` Slate cycles; with RELPPS it waits for the next valid PPS edge. -/
def execClockSet (_req : Requester) (dur : Nat) (s : State) : Out :=
  if !s.rtc.halt || !serving s then .next s
  else if s.rtc.relpps then .next (s.mapRtc fun r => { r with relWait := true })
  else .next (clearHalt s dur)

/-- HALT has stayed set for 327,680 Slate cycles. -/
def execHaltTimeout (s : State) : Out :=
  if s.rtc.halt then
    let s := (resumeAt s (haltT0 s.rtc 327680)).mapRtc fun r => { r with hto := true }
    .next (slateEvent s 0xCA 0xFF none)
  else .next s

/-- A capture at one Slate cycle edge: sub-second and core cycles of that edge (10 R247). -/
def capture (s : State) (sub cyc : Nat) : State :=
  s.mapRtc fun r => { r with cap := { done := true, halted := r.halt, invalid := !r.valid, sec := r.sec,
                                      sub := if r.halt then r.haltSub else sub % 32768, frame := s.tb.frame, cyc := min cyc 30719 } }

def execRtccapGo (sub cyc : Nat) (s : State) : Out := .next (if serving s then capture s sub cyc else s)

/-! ## PPS discipline (10 R254, R255) -/

/-- Frequency error of the RTC over the recorded intervals in crystal cycles, 0.01 ppm: of every 2^20 cycles TRIM removes n
(log 120). -/
def ppsFreq (trim : Int) (l : List Nat) : Int :=
  if l.isEmpty then 0 else rndDiv (((l.sum : Int) * (2 ^ 20 - trim) - l.length * 2 ^ 35) * 100000000) (l.length * 2 ^ 35)

/-- One trim step toward zero frequency error. -/
def trimStep (trim f : Int) : Int := clampI (-256) 255 (if 0 < f then trim + 1 else if f < 0 then trim - 1 else trim)

/-- The measuring part of a valid edge in modes 1 to 3. -/
def ppsMeasure (s : State) (interval : Nat) (offset : Int) : State :=
  let s := if s.rtc.ppsValid || s.rtc.ppsLostAt = 0 then s
    else endSample s 0xC8 0xFF ((s.rtc.edges - s.rtc.ppsLostAt : Nat) : Int)
  let iv := if s.rtc.ppsValid then (interval :: s.rtc.ppsIv).take 64 else []
  let f := ppsFreq s.rtc.trim iv
  let step := decide (2 ≤ s.rtc.ppsMode) && s.rtc.ppsN + 1 == 64
  let big := decide (8192 ≤ offset.natAbs)
  let s := s.mapRtc fun r =>
    { r with ppse := satS 16 offset, ppsIv := iv, ppsf := satS 32 f, ppsValid := true, ppsLostAt := 0,
             ppsN := if step then 0 else if r.ppsMode < 2 then 0 else r.ppsN + 1,
             trim := if step then trimStep r.trim f else r.trim,
             slew := if r.ppsMode = 3 ∧ 2 ≤ offset.natAbs ∧ !big then offset.sign else 0,
             phbig := r.phbig || big }
  if big then raise s 0xC9 0xFF none else s

/-- A rising edge on PPS_IN, `interval` crystal cycles after the previous valid edge and `offset` from the nearest second edge;
`dur` is the halt duration at the edge. An edge with no edge before it, or the first after a loss, is valid, in every mode. -/
def execPpsEdge (interval : Nat) (offset : Int) (dur : Nat) (s : State) : Out :=
  let ok := s.powered && (!s.rtc.ppsSeen || (decide (32752 ≤ interval) && decide (interval ≤ 32784)))
  if !ok then .next s
  else
    let s := s.mapRtc fun r => { r with ppsSeen := true }
    let s := if s.rtc.halt && s.rtc.relWait then clearHalt s dur else s
    .next (if s.rtc.ppsMode = 0 then s else ppsMeasure s interval offset)

/-- 4 s have passed without a valid edge. -/
def execPpsLoss (s : State) : Out :=
  if s.powered && s.rtc.ppsValid then
    .next (raise (s.mapRtc fun r => { r with ppsSeen := false, ppsValid := false, ppsLoss := true, ppsLostAt := r.edges, slew := 0 })
      0xC8 0xFF none)
  else if s.powered then .next (s.mapRtc fun r => { r with ppsSeen := false })
  else .next s

end Sys2Proof.Machine
end

