-- ==== Sys2Proof/Machine/Integrity.lean ====
section
/-! DEFINITION. Pairs, copies and MRAM banks (08): slots and groups, commits, selection and repair, the scrub, metrology-fault
entry, the known-answer test and fault injection. -/

namespace Sys2Proof.Machine

/-! ## Metrology-fault state (08 R195, R196) -/

/-- The points in metrology-fault state. -/
def faultPts (s : State) : List Nat := points.filter fun p => faulted s p

/-- Close the open interval of a point at once, as short with a flag, from the energy registered so far (09 R234; 16 R379). -/
def closeNow (flag bin : Nat) (s : State) (p : Nat) : State :=
  let n := s.bl.fin.length
  let s := shortClose flag bin false s p
  match s.bl.fin[n]? with
  | some (.iv c) => finIv (s.mapBl fun b => { b with fin := b.fin.take n }) c
  | _ => s

/-- A point enters metrology-fault state with a cause of event 0x71, at frame F. -/
def faultEntry (s : State) (p cause : Nat) (f : Frame) : State :=
  if faulted s p then s
  else
    let s := if billing s && !s.sup.restored then closeNow fFAULT 5 s p else s
    let s := s.mapLs fun l => { l with fault := tset p (Pair.of (word cause)) l.fault, uvFrame := tset p f l.uvFrame,
                                       faultTicks := tset p 0 l.faultTicks }
    raise s 0x71 p (some (cause : Nat))

/-- The pairs of a table whose index lies in [lo, hi) restart from zero. -/
def zeroRange {n : Nat} (lo hi : Nat) (t : Tab (Pair n)) : Tab (Pair n) :=
  t.map fun e => if lo ≤ e.1 ∧ e.1 < hi then (e.1, Pair.zero n) else e

/-- The unverified registers and accumulators of a point from zero (08 R196, R198, R206). -/
def clearUv (s : State) (p : Nat) : State :=
  s.mapLs fun l => { l with uve := zeroRange (16 * p) (16 * p + 16) l.uve, uveW2 := zeroRange (16 * p) (16 * p + 16) l.uveW2,
                            uvAcc := zeroRange (16 * p) (16 * p + 16) l.uvAcc }

/-- The recovery-energy pairs restart from zero (16 R379, R380). -/
def clearRecovery (s : State) : State :=
  s.mapBl fun b => { b with rce := zeroRange 0 2048 b.rce, rcAcc := zeroRange 0 2048 b.rcAcc }

/-- A storage fault of a value of a point: cause 3, unverified registers from zero (08 R206). -/
def storageFault (s : State) (p : Nat) : State :=
  if faulted s p then s
  else clearUv (faultEntry s p 3 s.tb.frame) p

/-! ## Critical values and their slots (08 R201, R204, Tables 8.2, 8.3) -/

/-- The critical values of Table 8.2, the control values of the recorder (12 R280) and the mark of a pending activation (05 R123). -/
inductive Crit where
  | frame | sel | digest | lcb | seal | mark | er (i : Nat) | cal | fault (p : Nat) | tidx (p : Nat) | res (o : Nat) | acc (i : Nat)
  | uvAcc (i : Nat) | uve (i : Nat) | rce (i : Nat) | rcAcc (i : Nat) | md (i : Nat) | mdts (i : Nat) | reg (i : Nat) | set (i : Nat)
deriving DecidableEq, Repr

/-- First slot of a value's group in the legal area of a bank; the layout is the model's (log 26). A closed set of point p with count h is
number 16 p + h mod 13. -/
def Crit.base : Crit → Nat
  | .frame => 0
  | .sel => 1
  | .digest => 2
  | .lcb => 6
  | .seal => 7
  | .mark => 8
  | .er i => 16 + i
  | .cal => 1024
  | .fault p => 2048 + p
  | .tidx p => 2304 + p
  | .res o => 2560 + 2 * o
  | .acc i => 4096 + 2 * i
  | .uvAcc i => 8192 + 2 * i
  | .uve i => 12288 + i
  | .rce i => 14336 + i
  | .rcAcc i => 16384 + 2 * i
  | .md i => 20480 + i
  | .mdts i => 24576 + i
  | .reg i => 28672 + i
  | .set i => 65536 + 256 * i

/-- Slots of the legal area. -/
def legalSlots : Nat := 65536 + 256 * 2048

/-- The value whose group begins at a slot. -/
def critAt (b : Nat) : Option Crit :=
  if b = 0 then some .frame
  else if b = 1 then some .sel
  else if b = 2 then some .digest
  else if b = 6 then some .lcb
  else if b = 7 then some .seal
  else if b = 8 then some .mark
  else if 16 ≤ b ∧ b < 22 then some (.er (b - 16))
  else if b = 1024 then some .cal
  else if b < 2048 then none
  else if b < 2176 then some (.fault (b - 2048))
  else if b < 2304 then none
  else if b < 2432 then some (.tidx (b - 2304))
  else if b < 2560 then none
  else if b < 2576 then (if b % 2 = 0 then some (.res ((b - 2560) / 2)) else none)
  else if b < 4096 then none
  else if b < 8192 then (if b % 2 = 0 then some (.acc ((b - 4096) / 2)) else none)
  else if b < 12288 then (if b % 2 = 0 then some (.uvAcc ((b - 8192) / 2)) else none)
  else if b < 14336 then some (.uve (b - 12288))
  else if b < 16384 then some (.rce (b - 14336))
  else if b < 20480 then (if b % 2 = 0 then some (.rcAcc ((b - 16384) / 2)) else none)
  else if b < 24576 then some (.md (b - 20480))
  else if b < 28672 then some (.mdts (b - 24576))
  else if b < 40960 then some (.reg (b - 28672))
  else if b < 65536 ∨ legalSlots ≤ b ∨ b % 256 ≠ 0 then none
  else some (.set ((b - 65536) / 256))

/-- The points of type 1–3 that have a value in a group (08 R206): a residue belongs to the point of its output. -/
def ownersOf (s : State) : Crit → List Nat
  | .frame | .sel | .digest | .lcb | .seal | .mark | .er _ => []
  | .cal => livePts s
  | .fault p | .tidx p => [p]
  | .res o => let u := s.plan.pulses.getD o {}; if u.point < 128 then [u.point] else []
  | .acc i | .uvAcc i | .uve i | .rce i | .rcAcc i | .set i => [i / 16]
  | .md i | .mdts i => [i / 32]
  | .reg i => [i / 96]

/-- The channel field of an event about a group: its point, or 0xFF. -/
def critChan (s : State) (c : Crit) : Nat :=
  match ownersOf s c with
  | [p] => p
  | _ => 0xFF

/-! ## Working copies (08 Table 8.2) -/

/-- The pairs of a calibration set in ascending channel and coefficient order, the references last. -/
def calPairs (c : CalSet) : List (Pair 32) :=
  ((List.range 168).flatMap fun i =>
    let x := tget {} i c.ch
    [x.gain, x.dly, x.fsq, x.pofs, x.qofs]) ++
  ((List.range 4).map fun i => tget (Pair.of 0x40000000#32) i c.ref)

/-- The value words of a calibration set. -/
def calVals (c : CalSet) : List Word := (calPairs c).map (·.v)

/-- A calibration set from its pairs. -/
def calOf (l : List (Pair 32)) : CalSet :=
  let at' (i : Nat) := l.getD i (Pair.zero 32)
  { ch := ((List.range 168).map fun i =>
      (i, ({ gain := at' (5 * i), dly := at' (5 * i + 1), fsq := at' (5 * i + 2), pofs := at' (5 * i + 3),
             qofs := at' (5 * i + 4) } : Cal))).filter fun e => e.2 != {}
    ref := ((List.range 4).map fun i => (i, at' (840 + i))).filter fun e => e.2 != Pair.of 0x40000000#32 }

/-- The pairs of a billing set: header, tariff index, registers, maximum demands, timestamps. -/
def setPairs (x : BillingSet) : List (Pair 64) :=
  [x.hseq.ext, x.hclose, x.hstart, x.hinfo.ext, x.hplan.ext, x.hframe, x.tariff.ext] ++
  ((List.range 96).map fun i => tget (Pair.zero 64) i x.reg) ++ ((List.range 32).map fun i => tget (Pair.zero 64) i x.md) ++
  ((List.range 32).map fun i => tget (Pair.zero 64) i x.mdts)

/-- A table of the pairs of a list that are not zero. -/
def tabOf (l : List (Pair 64)) : Tab (Pair 64) := (l.mapIdx fun i x => (i, x)).filter fun e => e.2 != Pair.zero 64

/-- A billing set from its pairs. -/
def setOf (l : List (Pair 64)) : BillingSet :=
  let at' (i : Nat) := l.getD i (Pair.zero 64)
  { hseq := (at' 0).cut 32, hclose := at' 1, hstart := at' 2, hinfo := (at' 3).cut 32, hplan := (at' 4).cut 32, hframe := at' 5
    tariff := (at' 6).cut 32, reg := tabOf ((l.drop 7).take 96), md := tabOf ((l.drop 103).take 32), mdts := tabOf ((l.drop 135).take 32) }

/-- The number of a set's group. -/
def setNo (p : Nat) (x : BillingSet) : Nat := 16 * p + x.hseq.v.toNat % 13

/-- The set held for a group number. -/
def setFor (s : State) (i : Nat) : BillingSet :=
  ((tget [] (i / 16) s.bl.sets).find? fun x => setNo (i / 16) x == i).getD {}

/-- The legal digest as pairs of 64 bits. -/
def digestPairs (s : State) : List (Pair 64) :=
  (List.range 4).map fun i => ⟨(s.pl.ldg >>> (64 * i)).setWidth 64, (s.pl.ldgN >>> (64 * i)).setWidth 64⟩

/-- The recorder's control values: next summary and privileged sequence, watermark, `ERPLOST`, operating-seconds, power cycles
(12 Table 12.1). -/
def erVals (r : Recorder) : List Nat := [r.snext.toNat, r.pseq, r.wm, r.plostN, r.ops, r.pwc]

/-- The mark of a pending activation as a value: N, and owner + 1 above it; 0 without one. -/
def markVal (m : Option (Frame × Nat)) : BitVec 64 :=
  match m with
  | some (n, o) => BitVec.ofNat 64 ((o + 1) * 2 ^ 48 + n.toNat)
  | none => 0

/-- The working pairs of a value: copy W1 where there are two, else the one place that holds it. -/
def workOf (s : State) : Crit → List (Pair 64)
  | .frame => [s.nv.frame.ext]
  | .sel => [s.nv.sel]
  | .digest => digestPairs s
  | .lcb => [s.bl.lcb]
  | .seal => [s.tp.sealst.ext]
  | .mark => [Pair.of (markVal s.nv.mark)]
  | .er i => [Pair.of (BitVec.ofNat 64 ((erVals s.er).getD i 0))]
  | .cal => (calPairs s.nv.cal).map Pair.ext
  | .fault p => [(tget (Pair.zero 32) p s.ls.fault).ext]
  | .tidx p => [(tget (Pair.zero 32) p s.bl.tidx).ext]
  | .res o => ((tget {} o s.met.pulse).res).two
  | .acc i => (tget (Pair.zero 96) i s.met.acc).two
  | .uvAcc i => (tget (Pair.zero 96) i s.ls.uvAcc).two
  | .uve i => [tget (Pair.zero 64) i s.ls.uve]
  | .rce i => [tget (Pair.zero 64) i s.bl.rce]
  | .rcAcc i => (tget (Pair.zero 96) i s.bl.rcAcc).two
  | .md i => [tget (Pair.zero 64) i s.bl.md]
  | .mdts i => [tget (Pair.zero 64) i s.bl.mdts]
  | .reg i => [tget (Pair.zero 64) i s.bl.w1]
  | .set i => setPairs (setFor s i)

/-- Copy W2 of the values that have one. -/
def workW2 (s : State) : Crit → Option (List (Pair 64))
  | .lcb => some [s.bl.lcbW2]
  | .tidx p => some [(tget (Pair.zero 32) p s.bl.tidxW2).ext]
  | .uve i => some [tget (Pair.zero 64) i s.ls.uveW2]
  | .md i => some [tget (Pair.zero 64) i s.bl.mdW2]
  | .mdts i => some [tget (Pair.zero 64) i s.bl.mdtsW2]
  | .reg i => some [tget (Pair.zero 64) i s.bl.w2]
  | _ => none

/-- A closed set takes its place among the sets of its point, newest first. -/
def putSet (s : State) (p : Nat) (x : BillingSet) : State :=
  let rest := (tget [] p s.bl.sets).filter fun y => setNo p y != setNo p x
  let l := insertBy (fun a b => decide (b.hseq.v.toNat ≤ a.hseq.v.toNat)) x rest
  s.mapBl fun b => { b with sets := tset p l b.sets, closes := tset p ((l.head?.map (·.hseq.v.toNat)).getD 0) b.closes }

/-- Values read from a bank enter the working copies. The seal state and the recorder's control values live outside the banks' owner and
are not written back from them; the seal's rule is 11 R261. -/
def putWork (s : State) (c : Crit) (l : List (Pair 64)) : State :=
  let x := l.getD 0 (Pair.zero 64)
  let w := Pair.join x (l.getD 1 (Pair.zero 64))
  match c with
  | .frame => s.mapNv fun n => { n with frame := x.cut 48 }
  | .sel => s.mapNv fun n => { n with sel := x, selValid := true }
  | .digest => s.mapPl fun p => { p with ldg := l.foldr (fun y d => (d <<< 64) ||| y.v.setWidth 256) 0,
                                         ldgN := l.foldr (fun y d => (d <<< 64) ||| y.n.setWidth 256) 0 }
  | .lcb => s.putLcb x
  | .seal | .er _ => s
  | .mark => s.mapNv fun n => { n with mark := if x.v = 0 then none else some (x.v.setWidth 48, (x.v >>> 48).toNat - 1) }
  | .cal => s.mapNv fun n => { n with cal := calOf (l.map (Pair.cut 32)) }
  | .fault p => s.mapLs fun b => { b with fault := tset p (x.cut 32) b.fault }
  | .tidx p => s.putTidx p (x.cut 32)
  | .res o => s.mapMet fun m => { m with pulse := tmod {} o (fun y => { y with res := w }) m.pulse }
  | .acc i => s.mapMet fun m => { m with acc := tset i w m.acc }
  | .uvAcc i => s.mapLs fun b => { b with uvAcc := tset i w b.uvAcc }
  | .uve i => s.mapLs fun b => { b with uve := tset i x b.uve, uveW2 := tset i x b.uveW2 }
  | .rce i => s.mapBl fun b => { b with rce := tset i x b.rce }
  | .rcAcc i => s.mapBl fun b => { b with rcAcc := tset i w b.rcAcc }
  | .md i => s.mapBl fun b => { b with md := tset i x b.md, mdW2 := tset i x b.mdW2 }
  | .mdts i => s.mapBl fun b => { b with mdts := tset i x b.mdts, mdtsW2 := tset i x b.mdtsW2 }
  | .reg i => s.mapBl fun b => { b with w1 := tset i x b.w1, w2 := tset i x b.w2 }
  | .set i => putSet s (i / 16) (setOf l)

/-! ## Slots (08 R204, Table 8.3) -/

/-- A slot that holds a pair as it is given: no complement is made anew. -/
def mkSlot (ix : Nat) (seq : Word) (p : Pair 64) : Slot :=
  { val := p.v, nval := p.n, tag := word ix, ntag := ~~~(word ix), seq := seq, nseq := ~~~seq }

/-- A slot is valid at its own index. -/
def slotOk (x : Slot) (ix : Nat) : Bool :=
  x.nval == ~~~x.val && x.ntag == ~~~x.tag && x.nseq == ~~~x.seq && x.tag == word ix

/-- A group is valid when all its slots are, with one sequence number. -/
def groupOk (base : Nat) (l : List Slot) : Bool :=
  !l.isEmpty && (l.mapIdx fun i x => slotOk x (base + i)).all id && l.all fun x => some x.seq == (l.head?.map (·.seq))

def groupSeq (l : List Slot) : Word := (l.head?.map (·.seq)).getD 0

/-- The pairs a group holds. -/
def slotPairs (l : List Slot) : List (Pair 64) := l.map fun x => ⟨x.val, x.nval⟩

/-! ## Commits (08 R205) -/

/-- The slots of a group with a sequence number. -/
def mkGroup (base : Nat) (seq : Word) (l : List (Pair 64)) : List Slot := l.mapIdx fun i v => mkSlot (base + i) seq v

/-- Write a group into a bank: a slot whose cells take no write keeps its content, and is invalid. -/
def writeBank (stuck : List Nat) (base : Nat) (old new : List Slot) : List Slot :=
  new.mapIdx fun i x => if stuck.contains (base + i) then { old.getD i x with seq := x.seq, nseq := x.seq } else x

/-- Slots of bank A whose second read-back failed are marked worn, with event 0x74 (08 R205). -/
def markWorn (s : State) (c : Crit) (l : List Slot) : State :=
  let bad := (l.mapIdx fun i x => (c.base + i, slotOk x (c.base + i))).filter fun e => !e.2
  let new := (bad.map (·.1)).filter fun i => !s.ls.worn.contains i
  if new.isEmpty then s
  else raise (s.mapLs fun x => { x with worn := x.worn ++ new }) 0x74 (critChan s c) (some (new.length : Nat))

/-- Write both banks under a sequence number: bank A with its read-back, twice when it fails, then bank B (08 R205). A second write to the
same cells answers as the first. -/
def writeGroup (s : State) (c : Crit) (seq : Word) (l : List (Pair 64)) : State :=
  let new := mkGroup c.base seq l
  let a := writeBank s.ls.stuckA c.base (tget [] c.base s.ls.bankA) new
  let b := writeBank s.ls.stuckB c.base (tget [] c.base s.ls.bankB) new
  let s := s.mapLs fun x => { x with bankA := tset c.base a x.bankA }
  let s := if groupOk c.base a then s else markWorn s c a
  s.mapLs fun x => { x with bankB := tset c.base b x.bankB }

/-- The sequence number of the next commit of a group. -/
def nextSeq (s : State) (c : Crit) : Word :=
  let a := groupSeq (tget [] c.base s.ls.bankA)
  let b := groupSeq (tget [] c.base s.ls.bankB)
  (if older a b then b else a) + 1

/-- Commit a value or group under the next sequence number. -/
def commitGroup (s : State) (c : Crit) (l : List (Pair 64)) : State := writeGroup s c (nextSeq s c) l

/-! ## Selection and repair (08 R206, Table 8.4) -/

/-- What a pair of banks holds for a group. -/
inductive Selected where
  /-- Nothing since manufacture. -/
  | blank
  /-- Values, and whether bank A or bank B is to be rewritten. -/
  | good (l : List (Pair 64)) (fixA fixB : Bool)
  /-- A storage fault. -/
  | lost
deriving DecidableEq, Repr

/-- Table 8.4. -/
def selectGroup (base : Nat) (a b : List Slot) : Selected :=
  if a.isEmpty && b.isEmpty then .blank
  else
    match groupOk base a, groupOk base b with
    | true, true =>
      if groupSeq a = groupSeq b then (if a.map (·.val) = b.map (·.val) then .good (slotPairs a) false false else .lost)
      else if older (groupSeq b) (groupSeq a) then .good (slotPairs a) false true
      else .good (slotPairs b) true false
    | true, false => .good (slotPairs a) false true
    | false, true => .good (slotPairs b) true false
    | false, false => .lost

/-- A repaired copy: `MRREP`, REPAIR, 0x73 with the repairs of the pass. -/
def noteRepair (s : State) (chan : Nat) : State :=
  let s := s.mapLs fun l => { l with mrrep := satAdd l.mrrep 1, repair := true, passRep := l.passRep + 1 }
  raise s 0x73 chan (some (s.ls.passRep : Nat))

/-- A storage fault: `MRLOST`, LOST, 0x74 with the slots affected; the points that have a value in the group fault (08 R206), and a lost
calibration set leaves the reset values (log 115). -/
def noteLost (s : State) (c : Crit) (slots : Nat) : State :=
  let s := s.mapLs fun l => { l with mrlost := satAdd l.mrlost 1, lost := true }
  let s := raise s 0x74 (critChan s c) (some (slots : Nat))
  forEach (ownersOf s c) storageFault (if c = .cal then s.mapNv fun n => { n with cal := {} } else s)

/-- Select a group under Table 8.4 and act; the values when there are any. -/
def checkGroup (s : State) (c : Crit) : State × Selected :=
  let a := tget [] c.base s.ls.bankA
  let b := tget [] c.base s.ls.bankB
  let r := selectGroup c.base a b
  match r with
  | .blank => (s, r)
  | .good l fixA fixB =>
    let s := if fixA then s.mapLs fun x =>
        { x with bankA := tset c.base (writeBank x.stuckA c.base a (mkGroup c.base (groupSeq b) l)) x.bankA }
      else if fixB then s.mapLs fun x =>
        { x with bankB := tset c.base (writeBank x.stuckB c.base b (mkGroup c.base (groupSeq a) l)) x.bankB } else s
    (if fixA || fixB then noteRepair s (critChan s c) else s, r)
  | .lost => (noteLost s c (max a.length b.length), r)

/-- The groups that either bank holds, ascending. -/
def groupsHeld (s : State) : List Nat :=
  ((s.ls.bankB.map (·.1)).filter fun g => !(s.ls.bankA.map (·.1)).contains g).foldr (insertBy fun a b => decide (a ≤ b)) (s.ls.bankA.map (·.1))

/-- The order of the restore: unverified values first, since a point that a lost group faults starts them from zero, then ascending. -/
def restoreOrder (s : State) : List Crit :=
  let l := (groupsHeld s).filterMap critAt
  let uv (c : Crit) : Bool := match c with
    | .uvAcc _ | .uve _ => true
    | _ => false
  l.filter uv ++ l.filter fun c => !uv c

/-- Restore every committed value (16 Table 16.6 step 1; 08 R206). A register whose slots are lost keeps its reset
value (log 115). -/
def restoreBanks (s : State) : State :=
  forEach (restoreOrder s) (fun s c =>
    let r := checkGroup s c
    match r.2 with
    | .good l _ _ => putWork r.1 c l
    | _ => r.1) s

/-! ## Working copies (08 R202) -/

/-- A pair has failed with no good working copy: fetched from MRAM under Table 8.4, else the owning point faults, or 0x74 is raised. -/
def fetchWork (s : State) (c : Crit) : State :=
  let r := checkGroup s c
  match r.2 with
  | .good l _ _ => noteRepair (putWork r.1 c l) (critChan s c)
  | .lost => r.1
  | .blank => if (ownersOf s c).isEmpty then raise r.1 0x74 0xFF (some 1) else forEach (ownersOf s c) storageFault r.1

def allOk (l : List (Pair 64)) : Bool := l.all (·.ok)

/-- The seal state is neither open nor closed: read as closed, with 0x74 (11 R261). -/
def sealCheck (s : State) : State :=
  if s.tp.sealst = sealOpenPair ∨ s.tp.sealst = sealClosedPair then s
  else raise (s.mapTp fun t => { t with sealst := sealClosedPair, sealSt := if t.sealSt = 2 then 0 else t.sealSt }) 0x74 0xFF (some 1)

/-- The failed pairs of a set take those of another. -/
def calMend (src dst : CalSet) : CalSet := calOf (List.zipWith (fun a b => if b.ok then b else a) (calPairs src) (calPairs dst))

/-- All the pairs of the working calibration set, its accepted successor among them, pass. -/
def calOk (s : State) : Bool := ((s.met.calNext.toList ++ [s.met.cal]).all fun c => (calPairs c).all (·.ok))

/-- The working calibration set: its failed pairs are repaired from the committed set. -/
def mendCal (s : State) : State :=
  if calOk s then s
  else noteRepair (s.mapMet fun m => { m with cal := calMend s.nv.cal m.cal, calNext := m.calNext.map (calMend s.nv.cal) }) 0xFF

/-- Check the working copies of a value: a failing copy is repaired from the other, else from MRAM; the seal state keeps the rule of its
chapter. -/
def checkWork (s : State) (c : Crit) : State :=
  if c = .seal then sealCheck s
  else
    let a := workOf s c
    let s : State :=
      match allOk a, workW2 s c with
      | true, none => s
      | false, none => fetchWork s c
      | true, some b => if allOk b then s else noteRepair (putWork s c a) (critChan s c)
      | false, some b => if allOk b then noteRepair (putWork s c b) (critChan s c) else fetchWork s c
    if c = .cal then mendCal s else s

/-- The source of a value passes its check. -/
def sourceOk (s : State) (c : Crit) : Bool := if c = .cal then calOk s else allOk (workOf s c)

/-- The pair of a value failed at a destination (08 R202): when the source passes, the transfer completes with XFER and 0x75, whose value is
the path of Table 8.6; else the copies are checked. -/
def transferFailed (s : State) (c : Crit) (path : Nat) : State :=
  if sourceOk s c then raise (s.mapLs fun l => { l with xfer := true }) 0x75 (critChan s c) (some (path : Nat)) else checkWork s c

/-! ## What is committed (08 Table 8.2) -/

/-- Commit a value on change, its pair checked on the way into the banks (08 R201). -/
def commitCrit (s : State) (c : Crit) : State :=
  let a := tget [] c.base s.ls.bankA
  let b := tget [] c.base s.ls.bankB
  let l := workOf s c
  if slotPairs a = l ∧ slotPairs b = l then s
  else
    let s := if allOk l then s else checkWork s c
    commitGroup s c (workOf s c)

def commitList (l : List Crit) (s : State) : State := forEach l commitCrit s

/-- The values committed each second and at the power fail, with the registers of their point. -/
def criticals (s : State) : List Crit :=
  (s.bl.w1.map fun e => Crit.reg e.1) ++ (s.ls.uve.map fun e => Crit.uve e.1) ++ (s.met.acc.map fun e => Crit.acc e.1) ++
  (s.ls.uvAcc.map fun e => Crit.uvAcc e.1) ++ (s.met.pulse.map fun e => Crit.res e.1) ++ (s.bl.rce.map fun e => Crit.rce e.1) ++
  (s.bl.rcAcc.map fun e => Crit.rcAcc e.1)

/-- The values committed on change. -/
def onChange (s : State) : List Crit :=
  (s.ls.fault.map fun e => Crit.fault e.1) ++ (s.bl.tidx.map fun e => Crit.tidx e.1) ++ [Crit.seal, Crit.lcb] ++ (s.bl.md.map fun e => Crit.md e.1) ++
  (s.bl.mdts.map fun e => Crit.mdts e.1) ++ (s.bl.sets.flatMap fun e => e.2.map fun x => Crit.set (setNo e.1 x)) ++
  (List.range 6).map fun i => Crit.er i

/-- Commit the frame number in use as a pair (02 R34). -/
def commitFrame (s : State) (f : Frame) : State :=
  let p := Pair.of f
  commitGroup (s.mapNv fun n => { n with frame := p }) .frame [p.ext]

/-- Commit the legal digest in force (05 R110). -/
def commitDigest (s : State) : State := commitGroup s .digest (digestPairs s)

/-- The pairs that a due billing close copies are checked on the way (08 R201). -/
def checkDue (s : State) : State :=
  forEach s.bl.fin (fun s d =>
    match d with
    | .iv _ => s
    | .set c => forEach c.pts (fun s h =>
        let s := forEach (List.range 96) (fun s i => checkWork s (.reg (96 * h.point + i))) s
        forEach (List.range 32) (fun s i => checkWork (checkWork s (.md (32 * h.point + i))) (.mdts (32 * h.point + i))) s) s) s

/-! ## The scrub (08 R207) -/

/-- Ticks of a day: a pass of the scrub begins at most once in it. -/
def scrubPeriod : Nat := 86400 * 16000

/-- The scrub reads the next slot of both banks: one per 64 ticks, one pass per 24 h; a group is judged at its first slot; a slot that a commit
is writing is passed over; at the end a pass ends. -/
def execScrubSlot (s : State) : Out :=
  if s.ls.scrubTicks < 64 ∨ (s.ls.scrub = 0 ∧ 0 < s.ls.passWait) ∨ !serving s ∨ s.sup.restored then .next s
  else
    let n := s.ls.scrub
    let s := s.mapLs fun l => { l with scrubTicks := 0, passWait := if n = 0 then scrubPeriod else l.passWait }
    let s : State :=
      match critAt n with
      | some c => if s.sup.commit = .none then (checkGroup s c).1 else s
      | none => s
    .next (s.mapLs fun l =>
      if legalSlots ≤ n + 1 then { l with scrub := 0, passes := (l.passes + 1) % 256, passRep := 0 } else { l with scrub := n + 1 })

/-! ## Fault injection (08 R209, Tables 8.5, 8.9) -/

def injMode (w : Word) : Nat := wbits w 1 0
def injPoint (w : Word) : Nat := wbits w 10 4
def injQty (w : Word) : Nat := wbits w 14 11
def injTar (w : Word) : Nat := wbits w 17 15 + 1
def injBit (w : Word) : Nat := wbits w 23 18

/-- The conditions of R209. -/
def injOk (s : State) (w : Word) : Bool :=
  s.sup.st == .test && injMode w != 0 && (injMode w == 1 || s.sealOpen) && decide (1 ≤ injQty w) && decide (injQty w ≤ 12) &&
  (pointDef s.plan (injPoint w)).type != 0 && !faulted s (injPoint w)

/-- A write of `LSINJ`. -/
def writeLsinj (s : State) (w : Word) : State :=
  let s := s.mapLs fun l => { l with inj := w &&& 0x00FFFFFF }
  if !wbit w 31 then s
  else if injOk s w then
    raise (s.mapLs fun l => { l with injres := 0, injDue := some w }) 0x77 (injPoint w) (some (injMode w : Nat))
  else s.mapLs fun l => { l with injres := 4 }

def execLsinj (w : Word) (s : State) : Out := .next (if serving s then writeLsinj s w else s)

/-- Flip bit BIT of VAL in W1 or bank A of the register, and repair it from the other copy (Table 8.5, mode 3). -/
def storageInject (s : State) (w : Word) : State :=
  let i := regIx (injPoint w) (injTar w) (injQty w)
  let c : Crit := .reg i
  let m : BitVec 64 := 1#64 <<< injBit w
  if wbit w 3 then
    let s := commitCrit s c
    let s := s.mapLs fun l =>
      { l with bankA := tset c.base ((tget [] c.base l.bankA).map fun x => { x with val := x.val ^^^ m }) l.bankA }
    (checkGroup s c).1
  else
    let p := tget (Pair.zero 64) i s.bl.w1
    checkWork (s.mapBl fun b => { b with w1 := tset i { p with v := p.v ^^^ m } b.w1 }) c

/-- The tick at which an accepted injection acts (08 R209). Modes 1 and 2 act in the lane frame that begins here. -/
def injectionAct (s : State) : State :=
  match s.ls.injDue with
  | none => s.mapLs fun l => { l with injAct := none }
  | some w =>
    let s := s.mapLs fun l => { l with injDue := none, injAct := if injMode w = 3 then none else some w }
    if injMode w = 3 then (storageInject s w).mapLs fun l => { l with injres := 3 } else s

/-! ## Known-answer test (08 R197, R208) -/

/-- The result of a known-answer test: KATOK, and 0x78 with the failing lane. -/
def katResult (s : State) (failA failB : Bool) : State :=
  let s := s.mapLs fun l => { l with katok := !failA && !failB }
  if failA || failB then raise s 0x78 0xFF (some (if failA && failB then 3 else if failA then 1 else 2)) else s

/-- Refuse a reinstatement or clear. -/
def reinRefuse (s : State) : State := s.mapLs fun l => { l with reinref := true }

/-- The chunks of the test that a lane frame holds: in the spare cycles from 768 + C to 28,876, and in a retry window without a mismatch
(08 R208). -/
def katFit (c : Nat) (clean : Bool) : Nat := (28877 - (768 + c)) / 64 + (if clean then 1843 / 64 else 0)

/-- A lane frame that held chunks ends. -/
def katAdvance (s : State) (c : Nat) (clean : Bool) : State :=
  if s.ls.katLive then s.mapLs fun l => { l with katChunks := l.katChunks + katFit c clean } else s

/-- A lane frame begins: it holds chunks of a test that is asked for. -/
def katBegin (s : State) : State := s.mapLs fun l => { l with katLive := l.katReq.isSome }

/-- The test of a reinstatement ends once its 64 chunks have run: a failure refuses it, a pass goes to the double decision (08 R197 steps 3,
4). -/
def execKnownAnswerTestDone (failA failB : Bool) (s : State) : Out :=
  match s.ls.katReq with
  | none => .next s
  | some w =>
    if s.ls.katChunks < 64 ∨ !serving s then .next s
    else
    let s := katResult (s.mapLs fun l => { l with katReq := none, katLive := false, katChunks := 0 }) failA failB
    if failA || failB then .next (reinRefuse (release s 3))
    else .next (pendDec s (.reinstate w) (s.sealOpen && !s.tp.locked && s.ls.katok))

end Sys2Proof.Machine
end

