-- ==== Sys2Proof/Machine/FrontEnd.lean ====
section
/-! DEFINITION. Analog front ends (03): overload and common-mode flags of a frame, the presence probe, the references. -/

namespace Sys2Proof.Machine

/-- Front-end settings of a channel in the plan in force. -/
def feSet (p : PlanDef) (c : Nat) : FeSet := p.fe.getD c {}

def feAt (s : State) (c : Nat) : FeChan := tget {} c s.fe.ch

def State.setFe (s : State) (c : Nat) (x : FeChan) : State := s.mapFe fun f => { f with ch := tset c x f.ch }

/-- Raise an event that carries the number of a given frame (00 R13, 12 R282). -/
def raiseAt (s : State) (code chan : Nat) (v : Option Int) (f : Frame) : State :=
  let t := raise (s.mapTb fun t => { t with frame := f }) code chan v
  t.mapTb fun t => { t with frame := s.tb.frame }

/-! ## Overload and common mode (03 R59, R60) -/

/-- An overloaded frame of a main input. -/
def ovlFrame (s : State) (c : Nat) : State :=
  let x := feAt s c
  let s := s.setFe c { x with ovl := true, ovlnow := true, ovc := satAdd x.ovc 1, ovlRun := x.ovlRun + 1, prbSpoil := true }
  if x.ovlnow then s else raise s 0x23 c none

/-- A frame without overload: the run ends and the channel is re-armed (04 R98). -/
def clearFrame (s : State) (c : Nat) : State :=
  let x := feAt s c
  let s := s.setFe c { x with ovlnow := false, ovlRun := 0, disarmed := false }
  if x.ovlnow then endSample s 0x23 c (x.ovlRun : Nat) else s

/-- A frame with common mode beyond ±0.5 V, or within it. -/
def cmFrame (out : Bool) (s : State) (c : Nat) : State :=
  let x := feAt s c
  if out then
    let s := s.setFe c { x with cmnow := true, cmev := true, cmRun := x.cmRun + 1 }
    if x.cmnow then s else raise s 0x24 c none
  else
    let s := s.setFe c { x with cmnow := false, cmRun := 0 }
    if x.cmnow then endSample s 0x24 c (x.cmRun / 16000 : Nat) else s

/-- Overload and common mode of the frame that ends (main inputs only). -/
def analogFrame (s : State) (inp : TickInput) : State :=
  let ovl := inp.ovl.map (·.1)
  let s := forEach (List.range 160) (fun s c =>
    if ovl.contains c then ovlFrame s c else if (feAt s c).ovlnow || (feAt s c).disarmed then clearFrame s c else s) s
  forEach (List.range 160) (fun s c =>
    if inp.cm.contains c then cmFrame true s c else if (feAt s c).cmnow then cmFrame false s c else s) s

/-! ## Presence probe (03 R65 to R69) -/

/-- `FEPRB.RES` of an OVER result. -/
def resOver : Nat := 0x0FFFFFFF

/-- The class of a result: 1 OK, 2 LOW, 3 OPEN (03 R67). With LOW above HIGH a result may meet both; the rule gives no precedence, and it
is LOW here (DESIGN CHOICE, log 127). -/
def probeClass (d : FeSet) (res : Nat) : Nat :=
  if res = resOver then 3
  else if res < d.prblow * 100 then 2
  else if d.prbhigh ≠ 0xFFFF ∧ d.prbhigh * 100 ≤ res then 3
  else 1

/-- The largest resistance measured, in mΩ: the lesser of 100 kΩ and 225 kΩ over the gain (03 R66). -/
def probeLimit (d : FeSet) : Nat := min 100000000 (225000000 / 2 ^ d.gain)

/-- The ratio R / threshold in thousandths, for the bins of 0x20 and 0x21. With the threshold 0 the rule defines no ratio: it is 0, the
first bin (DESIGN CHOICE, log 127). -/
def probeRatio (res thr : Nat) : Int := if res = resOver then 2147483647 else (res * 10 / thr : Nat)

/-- Declare a probe state, stamped with the last frame of the second result (03 R68). -/
def probeDeclare (s : State) (c new res : Nat) (f : Frame) : State :=
  let x := feAt s c
  let d := feSet s.plan c
  let s := s.setFe c { x with prbst := new, prbchg := true, prbCand := 0, prbTicks := if new = 1 then 0 else
                                                                           if x.prbst = 2 ∨ x.prbst = 3 then x.prbTicks else 0 }
  match new with
  | 3 => raiseAt s 0x20 c (some (probeRatio res d.prbhigh)) f
  | 2 => raiseAt s 0x21 c (some (probeRatio res d.prblow)) f
  | _ => if x.prbst = 2 ∨ x.prbst = 3 then raiseAt s 0x22 c (some (x.prbTicks / 16000 : Nat)) f else s

/-- The states in which the probe runs (03 R65). -/
def probeRuns (s : State) : Bool :=
  s.sup.st == .start || s.sup.st == .run || s.sup.st == .calibrate || s.sup.st == .test

/-- A tick of the probe: a result takes 1,024 consecutive frame ticks (03 R65). -/
def probeTick (s : State) : State :=
  let on (c : Nat) : Bool := (feSet s.plan c).prben && probeRuns s
  let s := s.mapFe fun f => { f with refTicks := f.refTicks + 1
                                     ch := f.ch.map fun e =>
    (e.1, { e.2 with prbN := if on e.1 then e.2.prbN else 0
                     prbTicks := if e.2.prbst = 2 ∨ e.2.prbst = 3 then e.2.prbTicks + 1 else e.2.prbTicks }) }
  forEach ((List.range 128).filter on) (fun s c => s.setFe c { feAt s c with prbN := (feAt s c).prbN + 1 }) s

/-- The probe result of a channel after its 1,024 frame ticks: the demodulated resistance in mΩ, none when it saturates (03 R65, R66; the value
comes from the analog loop, log 129). -/
def execProbeResult (ch : Nat) (res : Option Nat) (s : State) : Out :=
  if !isMainChannel ch then .fault .noSuchUnit
  else if !(feSet s.plan ch).prben || !probeRuns s || decide ((feAt s ch).prbN < 1024) then .next s
  else
    let x := { feAt s ch with prbN := (feAt s ch).prbN - 1024 }
    if x.prbSpoil then .next (s.setFe ch { x with prbSpoil := false, prbCand := 0 })
    else
      let r := match res with
        | some r => if r ≤ probeLimit (feSet s.plan ch) then r else resOver
        | none => resOver
      let k := probeClass (feSet s.plan ch) r
      let s := s.setFe ch { x with res := r, resValid := true, prbCand := if k = x.prbst then 0 else k }
      .next (if k ≠ x.prbst ∧ x.prbCand = k then probeDeclare s ch k r (s.tb.frame - 1) else s)

/-! ## References (03 R72) -/

/-- One evaluation of the reference of a quarter, deviation in 0.1 ppm. -/
def refEval (s : State) (q : Nat) (d : Int) : State :=
  let bad := decide (2000 < d.natAbs)
  let b := if bad then tget 0 q s.fe.refBad + 1 else 0
  let g := if bad then 0 else tget 0 q s.fe.refGood + 1
  let peak := max (tget 0 q s.fe.refPeak) d.natAbs
  let declared := tget 0 q s.fe.refBad ≥ 2
  let s := s.mapFe fun f => { f with refd := tset q (satS 16 d) f.refd, refGood := tset q g f.refGood,
                                     refBad := tset q (if bad then b else if g < 2 ∧ declared then 2 else 0) f.refBad,
                                     refPeak := tset q (if bad || declared then peak else 0) f.refPeak }
  if bad && b == 2 then
    raise (s.mapFe fun f => { f with refok := f.refok &&& ~~~(1#4 <<< q), refev := f.refev ||| (1#4 <<< q) }) 0x25 q none
  else if !bad && g == 2 then
    let s := s.mapFe fun f => { f with refok := f.refok ||| (1#4 <<< q), refPeak := tset q 0 f.refPeak }
    if declared then endSample s 0x25 q ((peak * 100 : Nat) : Int) else s
  else s

/-- Deviation in 0.1 ppm of a measured ratio of reference to monitor bandgap from the one stored at the last calibration, `CALREF`, in its
format (06 Table 6.13). To the nearest, half away from zero, and beyond every bound for a stored 0: the rule gives neither (DESIGN
CHOICE, log 128). -/
def refDev (s : State) (q m : Nat) : Int :=
  let c := (tget (Pair.of 0x40000000#32) q s.met.cal.ref).v.toNat
  if c = 0 then 2 ^ 15 else rndDiv (((m : Int) - c) * 10000000) c

/-- The evaluation of the four references, once per second, from the ratios the background slots measure (03 R72). -/
def execReferenceCheck (m0 m1 m2 m3 : Nat) (s : State) : Out :=
  if s.fe.refTicks < 16000 ∨ !serving s then .next s
  else
    let s := s.mapFe fun f => { f with refTicks := f.refTicks - 16000 }
    .next (forEach [(0, m0), (1, m1), (2, m2), (3, m3)] (fun s e => refEval s e.1 (refDev s e.1 e.2)) s)

end Sys2Proof.Machine
end

