-- ==== Sys2Proof/Machine/Converter.lean ====
section
/-! DEFINITION. The converter fabric (04): slice correction and calibration, substitution, decimators, window comparators and
fault capture; the queue commands. -/

namespace Sys2Proof.Machine

def sliceAt (s : State) (n : Nat) : Slice := tget {} n s.cv.slices

def State.setSlice (s : State) (n : Nat) (x : Slice) : State := s.mapCv fun c => { c with slices := tset n x c.slices }

def pathAt (s : State) (c : Nat) : ChanPath := tget {} c s.cv.paths

def State.setPath (s : State) (c : Nat) (x : ChanPath) : State := s.mapCv fun v => { v with paths := tset c x v.paths }

/-- The newest stream value of a channel (04 R89). -/
def streamOf (s : State) (c : Nat) : Int := (pathAt s c).streams.headD 0

/-! ## Slice correction (04 R83) -/

/-- inl_interp in 2^-17 raw LSB: linear between the points −2^21 + 2^17 j + 2^16, the end value beyond them. -/
def inlInterp (inl : List Int) (x : Int) : Int :=
  let t := x + 2 ^ 21 - 2 ^ 16
  if t ≤ 0 then inl.getD 0 0 * 2 ^ 17
  else
    let j := (t / 2 ^ 17).toNat
    if 31 ≤ j then inl.getD 31 0 * 2 ^ 17
    else inl.getD j 0 * 2 ^ 17 + (inl.getD (j + 1) 0 - inl.getD j 0) * (t % 2 ^ 17)

/-- NS mode: the channel sample of a 22-bit raw code. -/
def correctNs (c : Slice) (x : Int) : Int :=
  clampI (-524287) 524287 (rndDiv (((x - c.off) * 2 ^ 17 + inlInterp c.inl x) * c.gain) (2 ^ 42))

/-- The corrected 12-bit code of direct mode. -/
def direct12 (c : Slice) (x : Int) : Int := rndDiv ((x - c.off) * c.gain) (2 ^ 23)

def correctDirect (c : Slice) (x : Int) : Int := clampI (-524287) 524287 (direct12 c x * 256)

/-- The fields of a slot entry (Table 5.7). -/
def slotUse (w : Word) : Nat := wbits w 31 30
def slotCh (w : Word) : Nat := wbits w 29 22
def slotAp (w : Word) : Nat := wbits w 21 16
def slotPrev (w : Word) : Bool := wbit w 15
def slotYield (w : Word) : Bool := wbit w 14

/-- The entry of a slot of a slice; slots 128 and 129 are slots 0 and 1 of the next frame (04 R79, 05 R113; log 139). -/
def slotEntry (p : PlanDef) (slice slot : Nat) : Word := p.slots.getD (128 * slice + slot % 128) 0

/-- The start-up calibration runs: every slot of every slice converts calibration levels, and the schedule waits (04 R86). -/
def startCal (s : State) : Bool := s.starting && !s.cv.calDone

/-- The plan's schedule runs. -/
def schedRuns (s : State) : Bool := s.powered && (s.sup.st != .boot || s.sup.recmon) && !startCal s

/-- Mark an aperture's sample, or its loss by a slice. -/
def setSample (s : State) (c ap : Nat) (v : Option Sample) (slice : Option Nat) : State :=
  let p := pathAt s c
  s.setPath c { p with cur := tset ap v p.cur,
                       lostBy := match slice with | some n => tset ap n p.lostBy | none => p.lostBy }

/-! ### Calibration conversions (04 R84, Table 4.5) -/

/-- Conversions of a calibration cycle: 35 levels, 256 visits each. -/
def calCycle : Nat := 8960

/-- A raw code at the end of its range, 22 bits signed or 12 (04 R87). -/
def calSaturates (dir : Bool) (x : Int) : Bool :=
  if dir then decide (x ≤ -2048 ∨ 2047 ≤ x) else decide (x ≤ -(2 ^ 21) ∨ 2 ^ 21 - 1 ≤ x)

/-- The raw code of INL point j (04 R83). -/
def inlPoint (j : Nat) : Int := -(2 ^ 21) + 2 ^ 17 * j + 2 ^ 16

/-- The coefficients of a cycle from the sums of its 256 visits per level: off from Z; gain from P − N, ±90 % of peak full scale, which
is ±360,000 LSB of a channel sample; inl[j] from I_j, whose corrected code is that of point j. The rule names what each level feeds, not the
formula or its rounding (DEDUCED, log 130). -/
def calResult (dir : Bool) (sum : List Int) (sat : Bool) : SliceCal :=
  let avg (l : Nat) : Int := rndDiv (sum.getD l 0) 256
  let d := sum.getD 1 0 - sum.getD 2 0
  let span : Int := if dir then 720000 else 2880000 * 256
  let gain := if d ≤ 0 then 2 ^ 24 - 1 else satU 24 (rndDiv (2 ^ 23 * span) d.toNat)
  { off := satS 24 (avg 0), gain := gain, sat := sat
    inl := if dir then [] else (List.range 32).map fun j => satS 16 (rndDiv (inlPoint j * 2 ^ 23) gain - (avg (3 + j) - avg 0)) }

/-- One calibration conversion of a slice: the level that its order Z, P, N, I0 … I31 has reached; the last one of a cycle yields the
coefficients (04 R84). -/
def calConversion (s : State) (n : Nat) (raw : Int) : State :=
  let x := sliceAt s n
  let dir := s.plan.dirMask.getLsbD n
  let sum := (List.range 35).map fun l => x.calSum.getD l 0 + if x.calN % 35 = l then raw else 0
  let sat := x.calSat || calSaturates dir raw
  s.setSlice n (if calCycle ≤ x.calN + 1 then { x with calN := 0, calSum := [], calSat := false, ready := some (calResult dir sum sat) }
    else { x with calN := x.calN + 1, calSum := sum, calSat := sat })

/-! ### Channel conversions -/

/-- A YIELD entry is taken by fault capture: its auxiliary channel repeats its previous sample, flagged (04 R97). -/
def yieldSample (s : State) (c ap : Nat) : State :=
  let p := pathAt s c
  let prev := if ap = 0 then p.last else match tget none (ap - 1) p.cur with
    | some v => v.y
    | none => p.last
  s.setPath c { p with cur := tset ap (some { y := prev, sub := true }) p.cur, yielded := true }

/-- A conversion completes in a slot of the schedule: a calibration level, or an aperture of the entry's channel, in slots 128 and 129
of the frame before (04 R83, R84, R87; 05 R113). `taken` is the channel whose hold a YIELD entry acquires for fault capture instead: the
code is kept for it (04 R97). An entry that an old PREV entry displaces is not executed (05 R120). -/
def execConversionComplete (slice slot : Nat) (taken : Option Nat) (raw : Int) (s : State) : Out :=
  if !(isSlice slice && isSlot slot && taken.all isChannel) then .fault .noSuchUnit
  else if startCal s then .next (calConversion s slice raw)
  else
    let w := slotEntry s.plan slice slot
    let x := sliceAt s slice
    let dir := s.plan.dirMask.getLsbD slice
    if !schedRuns s || slotPrev w != decide (128 ≤ slot) || s.cv.blocked.contains (slice, slot) then .next s
    else
      match slotUse w, taken with
      | 2, _ => .next (calConversion s slice raw)
      | 1, none =>
        .next (if x.faulty then setSample s (slotCh w) (slotAp w) none (some slice)
          else setSample s (slotCh w) (slotAp w) (some { y := if dir then correctDirect x raw else correctNs x raw }) none)
      | 1, some c =>
        if !slotYield w || !s.cv.fcen then .next s
        else
          let s := yieldSample s (slotCh w) (slotAp w)
          .next (if x.faulty then s
            else s.mapCv fun v => { v with got := v.got ++ [(c, slotAp w, clampI (-2047) 2047 (direct12 x raw))] })
      | _, _ => .next s

/-! ## Substitution (04 R88) -/

/-- The nearest valid sample after position i in the rest of a frame, with its distance. -/
def nextGood : List (Option Sample) → Nat → Option (Nat × Int)
  | [], _ => none
  | some v :: _, n => some (n, v.y)
  | none :: t, n => nextGood t (n + 1)

/-- Substitute the missing samples of a frame: one or two in a run are interpolated, a longer run repeats the last valid one.
`last` is the last valid sample, `run` the missing samples already passed of this run. A run at the end of the frame has no
valid sample after it yet and repeats. A mean or interpolated sample is rounded to the nearest, half away from zero: the rule gives no
rounding (DESIGN CHOICE, log 131). -/
def fillGo : Int → Nat → List (Option Sample) → List Sample
  | _, _, [] => []
  | _, _, some v :: t => v :: fillGo v.y 0 t
  | last, run, none :: t =>
    let len := match nextGood t 0 with
      | some (n, _) => run + 1 + n
      | none => 3
    let y := match nextGood t 0 with
      | some (n, r) => if len ≤ 2 then rndDiv (last * (n + 1) + r * (run + 1)) (len + 1) else last
      | none => last
    { y := y, sub := true } :: fillGo last (run + 1) t

/-- The missing samples at the end of the last frame and the apertures of this one. -/
def pattern (p : ChanPath) : List (Option Sample) := List.replicate p.openN none ++ (List.range 48).map fun k => tget none k p.cur

/-- The pattern with its missing samples substituted. -/
def filled (p : ChanPath) : List Sample := fillGo p.last 0 (pattern p)

/-- The samples of the frame that ends, in aperture order. -/
def frameSamples (p : ChanPath) : List Sample := (filled p).drop p.openN

/-- The samples before the frame, newest first: those that the last frame left missing have their neighbours now. Its own stream value took
them as repeats, as it was due before aperture 0 of this frame was converted (log 131). -/
def earlier (p : ChanPath) : List Int :=
  if p.openN ≤ p.hist.length then (((filled p).take p.openN).map (·.y)).reverse ++ p.hist.drop p.openN else p.hist

/-- The samples that the frame leaves missing at its end (beyond two, a run repeats whatever its length), and the last valid one. -/
def nextOpen (p : ChanPath) : Nat := min 3 ((pattern p).reverse.takeWhile (·.isNone)).length
def nextLast (p : ChanPath) : Int := (((pattern p).reverse.findSome? id).map (·.y)).getD p.last

/-! ## Decimators (04 R89 to R93) -/

/-- Σ c[i] × x[i], newest first. -/
def conv : List Int → List Int → Int
  | c :: cs, x :: xs => c * x + conv cs xs
  | _, _ => 0

/-- ±(2^23 − 1). -/
def sat24 (x : Int) : Int := clampI (-(2 ^ 23 - 1)) (2 ^ 23 - 1) x

/-- The FIR decimator runs in RUN and CALIBRATE, the sinc^k filter otherwise (04 R89). -/
def firRuns (s : State) : Bool :=
  s.sup.st == .run || s.sup.st == .calibrate || (s.sup.st == .start && decide (4 ≤ s.sup.sphase))

def isMain (c : Nat) : Bool := c < 160

/-- Stage 1 over the samples of a frame, oldest first: an output at each k with k mod 6 = 5; the history and outputs, newest
first. -/
def stage1 (coef : List Int) : List Sample → Nat → List Int → List Int → List Int × List Int
  | [], _, h, y => (h, y)
  | v :: t, k, h, y =>
    let h := (v.y :: h).take 96
    let y := if k % 6 = 5 then (sat24 (rndDiv (conv coef h) (2 ^ 19)) :: y).take 1024 else y
    stage1 coef t (k + 1) h y

/-- Suffix sums of a list. -/
def suffixes : List Int → List Int
  | [] => []
  | x :: t => match suffixes t with
    | [] => [x]
    | y :: r => (x + y) :: y :: r

/-- Sums over windows of L, missing samples 0. -/
def boxSums (l : Nat) (xs : List Int) : List Int :=
  let sf := suffixes xs
  sf.mapIdx fun i x => x - sf.getD (i + l) 0

/-- k cascaded moving averages of L apertures at unity gain, in stream LSB. -/
def sincOut (k l : Nat) (h : List Int) : Int :=
  sat24 (rndDiv (((List.range k).foldl (fun x _ => boxSums l x) h).headD 0 * 16) (l ^ k))

/-- L of a parameter set (04 R92). -/
def sincL (x : SincSet) : Nat :=
  match x.notch with
  | 0 => 48
  | 1 => 15360
  | 2 => 12800
  | _ => x.l

/-- Settling time of a sinc^k filter, frames. -/
def sincSettle (x : SincSet) : Nat := (x.k * sincL x + 47) / 48 + 2

/-- Fill time of a coefficient set, frames (04 R91). -/
def firFill (p : PlanDef) (main : Bool) : Nat :=
  let n1 := if main then p.coefM1.length else p.coefA1.length
  let n2 := if main then p.coefM2.length else p.coefA2.length
  (n1 + 6 * n2 + 47) / 48

/-- Payload of a stream-value entry (Table 4.13). -/
def streamEntry (c : Nat) (kind : Nat) (f : Frame) (y : Int) (sub ovl : Bool) : QEntry :=
  { tag := tagOf c kind f 0, w1 := word (toField 32 y), w2 := word (f.toNat / 2 ^ 16), w3 := word (flagAt sub 0 + flagAt ovl 1) }

/-- Count the substitutions of a frame against their slices (04 R88). Samples repeated for a yielded entry are not counted. -/
def countSubs (s : State) (c : Nat) : State :=
  let p := pathAt s c
  let miss := (List.range 48).filter fun k => (tget none k p.cur).isNone
  let s := s.mapCv fun v => { v with subc := satAdd v.subc miss.length, substF := v.substF || !miss.isEmpty || p.yielded }
  forEach (p.lostBy.map (·.2)) (fun s n => let x := sliceAt s n; s.setSlice n { x with sub := satAdd x.sub 1 }) s

/-- STREAM_OUTPUT of one channel for the frame that ends (04 R88 to R93). A channel with no sensor has stream 0 and forms no
entry; none is formed before the schedule runs. -/
def streamOutput (s : State) (c : Nat) : State :=
  if (feSet s.plan c).sensor = 0 ∨ !schedRuns s then s
  else
    let s := countSubs s c
    let p := pathAt s c
    let fr := frameSamples p
    let fir := firRuns s
    let st := stage1 (if isMain c then s.plan.coefM1 else s.plan.coefA1) fr 0 (earlier p) p.y1
    let sn := if fir then p.sinc else (fr.foldl (fun h v => v.y :: h) p.sinc).take (s.cv.sinc.k * sincL s.cv.sinc)
    let y := if fir then sat24 (rndDiv (conv (if isMain c then s.plan.coefM2 else s.plan.coefA2) st.2) (2 ^ 23))
      else sincOut s.cv.sinc.k (sincL s.cv.sinc) sn
    let sub := p.yielded || fr.any (·.sub)
    let settling := decide (0 < p.settle) || (decide (0 < s.cv.setl) && !s.cv.setlEnd)
    let s := s.setPath c { p with cur := [], lostBy := [], last := nextLast p, openN := nextOpen p, hist := st.1, y1 := if fir then st.2 else p.y1, sinc := sn,
                                  streams := (y :: p.streams).take 4096, settle := p.settle - 1, settling := settling,
                                  subst := sub, yielded := false }
    push s (if settling then 1 else 0) c
      [streamEntry c (if settling then 1 else 0) s.tb.frame y sub (feAt s c).ovlnow]

/-- A change of filter, or of k or L, at a tick: the new filter starts from cleared state and settles (04 R93). The rule has one settling
time and one count for filters that settle set by set: the longer of the main and the auxiliary fill time flags every stream (DESIGN CHOICE,
log 132). -/
def filterChange (s : State) (fir : Bool) (x : SincSet) : State :=
  let t := if fir then firFill s.plan true else sincSettle x
  let t := if fir then max t (firFill s.plan false) else t
  s.mapCv fun c => { c with filt := !fir, sinc := if fir then { k := 0, notch := 0, l := 0 } else { x with l := sincL x },
                            setl := t, setlEnd := false, paths := c.paths.map fun e => (e.1, { e.2 with hist := [], y1 := [], sinc := [] }) }

/-- `CVSETL` counts a settling frame that has ended; SETTLING_END takes it from 1 to 0. -/
def settleTick (s : State) : State :=
  s.mapCv fun c => if 1 < c.setl then { c with setl := c.setl - 1 } else { c with setlEnd := c.setl == 1 }

/-- The settling time has elapsed: `CVSETL` is 0. -/
def execSettlingEnd (s : State) : Out :=
  .next (if s.cv.setlEnd then s.mapCv fun c => { c with setl := 0, setlEnd := false } else s)

/-! ## Window comparators (04 R94, R95) -/

/-- Condition met: 0 none, 1 in band, 2 above, 3 below, as the state asks (Table 4.9). -/
def cmpCond (d : CmpDef) (st : Nat) (v : Int) : Nat :=
  match st with
  | 0 => if d.high ≤ v then 2 else if v < d.low then 3 else 1
  | 1 => if d.high ≤ v then 2 else if v < d.low then 3 else 0
  | 2 => if v < d.low then 3 else if d.low ≤ v ∧ v < d.high - d.hyst then 1 else 0
  | _ => if d.high ≤ v then 2 else if d.low + d.hyst ≤ v ∧ v < d.high then 1 else 0

/-- One evaluation: count the condition, and mark the dwell complete (04 R95). -/
def cmpEval (d : CmpDef) (x : Comparator) (v : Int) (f : Frame) : Comparator :=
  let k := cmpCond d x.st v
  if k = 0 then { x with pend := 0, dwc := 0 }
  else
    let n := if x.pend = k then x.dwc + 1 else 1
    if d.dwell ≤ n then { x with pend := k, dwc := n, due := true, dueFrame := f } else { x with pend := k, dwc := n }

/-- Comparator of a stream (point = false, index c) or of a point (index 8 p + m). -/
def cmpAt (s : State) (pt : Bool) (i : Nat) : Comparator := if pt then tget {} i s.cv.cmpp else tget {} i s.cv.cmps

def State.setCmp (s : State) (pt : Bool) (i : Nat) (x : Comparator) : State :=
  s.mapCv fun c => if pt then { c with cmpp := tset i x c.cmpp } else { c with cmps := tset i x c.cmps }

/-- The transition whose dwell is complete: event and comparator entry on entering ABOVE or BELOW, end sample of the excursion
in ms on leaving one (04 R95, R106; kinds 0x4 and 0x5 of Table 4.12). -/
def cmpTransition (s : State) (pt : Bool) (i : Nat) : State :=
  let x := cmpAt s pt i
  if !x.due then s
  else
    let chan := if pt then i / 8 else i
    let base := if pt then 0x42 else 0x40
    let leaving := x.st = 2 ∨ x.st = 3
    let open' := x.pend = 2 ∨ x.pend = 3
    let y : Comparator := { x with st := x.pend, pend := 0, dwc := 0, due := false, run := 0,
                                   cnt := if open' then satAdd x.cnt 1 else x.cnt }
    let s := s.setCmp pt i y
    let s := if leaving then endSample s (base + (x.st - 2)) chan (x.run / 16 : Nat) else s
    if open' then
      let code := base + (x.pend - 2)
      let e := noticeEntry (s.mapTb fun t => { t with frame := x.dueFrame }) code chan none
      let s := push s (if pt then 5 else 4) chan [{ e with tag := tagOf chan (if pt then 5 else 4) x.dueFrame 0 }]
      raiseAt s code chan none x.dueFrame
    else s

def execComparatorDwellComplete (point : Bool) (idx : Nat) (s : State) : Out :=
  if !isComparator point idx then .fault .noSuchUnit else .next (if serving s then cmpTransition s point idx else s)

/-- Evaluate a comparator on a value; a transition still due is made first. -/
def cmpStep (s : State) (pt : Bool) (i : Nat) (d : CmpDef) (v : Int) : State :=
  let s := cmpTransition s pt i
  s.setCmp pt i (cmpEval d (cmpAt s pt i) v s.tb.frame)

/-- STREAM_COMPARATOR_EVAL of the frame that ends; the channel with MAGSNS has none (05). -/
def streamCompare (s : State) (c : Nat) : State :=
  let d := s.plan.cmpStream.getD c {}
  if d.en ∧ !(feSet s.plan c).magsns then
    let v := streamOf s c
    cmpStep s false c d (if d.src then v.natAbs else v)
  else s

/-! ## Slice calibration (04 R85 to R87) -/

/-- The limits of R87 that a calibration cycle may break. -/
def calBad (c : SliceCal) : Bool :=
  decide (40000 < c.off.natAbs) || decide (c.gain * 100 < 98 * 0x800000) || decide (102 * 0x800000 < c.gain * 100) ||
  (c.inl.any fun x => decide (4096 < x.natAbs)) || c.sat

/-- The faulty slices. -/
def faultySlices (s : State) : Nat := ((List.range 64).filter fun n => s.cv.flt.getLsbD n).length

/-- Declare a slice faulty; its conversions are discarded from the next tick (04 R87). -/
def declareSlice (s : State) (n : Nat) : State :=
  if s.cv.flt.getLsbD n then s
  else
    let s := s.mapCv fun c => { c with flt := c.flt ||| (1#64 <<< n), slflt := true }
    let k := faultySlices s
    let s := raise s 0x44 n (some (k : Nat))
    if k = 4 then raise (s.mapCv fun c => { c with fourFaulty := true }) 0x45 n (some (k : Nat)) else s

/-- A change of x toward y by at most lim. -/
def limited (x y lim : Int) : Int := clampI (x - lim) (x + lim) y

/-- The targets of an update: the new values, of which a change beyond 64 in off, 20 ppm in gain (167 units of Q1.23 are within 20 ppm of 1.0)
and 16 in inl is left to the next cycle (04 R85). -/
def calUpdate (x : Slice) (c : SliceCal) (dir : Bool) : Slice :=
  let inl := if dir then x.inl else c.inl
  let off := limited x.off c.off 64
  let g := (limited x.gain c.gain 167).toNat
  let il := List.zipWith (fun a b => limited a b 16) x.inl inl
  let lim := off != c.off || g != c.gain || il != inl
  { x with off := off, gain := g, inl := il, upd := (x.upd + 1) % 256, age := 0, lim := if lim then satAdd x.lim 1 else x.lim,
           limited := lim, limRun := if lim then x.limRun + 1 else 0, carry := if lim then some c else none }

/-- The first tick after a slice completed a calibration cycle: it takes the cycle's coefficients (04 R85, R87). -/
def execSliceCalUpdate (slice : Nat) (_cycle : CalCycle) (s : State) : Out :=
  if !isSlice slice then .fault .noSuchUnit
  else if s.cv.flt.getLsbD slice || s.plan.oosMask.getLsbD slice || startCal s || !(sliceAt s slice).calDue then .next s
  else
    match (sliceAt s slice).ready with
    | none => .next s
    | some cal =>
      let x := { sliceAt s slice with ready := none, calDue := false }
      let y := calUpdate x cal (s.plan.dirMask.getLsbD slice)
      let bad := calBad cal
      let s := s.setSlice slice { y with bad := if bad then x.bad + 1 else 0 }
      let s := if y.limited then s.mapCv fun c => { c with callim := true } else s
      let s := if y.limited && !x.limited then raise s 0x4A slice none else s
      let s := if x.limited && !y.limited then endSample s 0x4A slice (x.limRun : Nat) else s
      .next (if bad ∧ 1 ≤ x.bad then declareSlice s slice else s)

/-- A slice takes the coefficients of its start-up cycle whole; it is declared faulty when they break the limits (04 R86, R87). -/
def startupSlice (s : State) (n : Nat) : State :=
  let x := sliceAt s n
  match x.ready with
  | none => s
  | some c =>
    let s := s.setSlice n { x with off := c.off, gain := c.gain, inl := if s.plan.dirMask.getLsbD n then x.inl else c.inl,
                                   upd := (x.upd + 1) % 256, age := 0, bad := 0, limited := false, limRun := 0, carry := none,
                                   ready := none, calDue := false, calN := 0, calSum := [], calSat := false }
    if calBad c then declareSlice s n else s

/-- The start-up calibration has ended after its 70 frames, and the schedule runs (04 R86; 16 Table 16.6). Earlier declarations end. -/
def execStartupCalibrationDone (_cycle : CalCycle) (s : State) : Out :=
  if !startCal s || decide (s.sup.startTicks < 70) then .next s
  else .next (forEach (List.range 64) startupSlice (s.mapCv fun c => { c with flt := 0, fourFaulty := false, calDone := true }))

/-- A tick of the slices: ages, completed cycles that come due, and the conversions of declared slices discarded from here on (04 R85,
R87). -/
def sliceTick (s : State) : State :=
  forEach (List.range 64) (fun s n =>
    let x := sliceAt s n
    s.setSlice n { x with age := min 65535 (x.age + 1), calDue := x.ready.isSome, faulty := s.cv.flt.getLsbD n }) s

/-! ## Fault capture (04 R96 to R99) -/

/-- A missed trigger: counted, event 0x47. -/
def missTrigger (s : State) (c : Nat) : State :=
  let s := s.mapCv fun v => { v with fcmiss := satAdd v.fcmiss 1, fcmissF := true,
                                     cap := v.cap.map fun x => { x with misses := x.misses + 1 } }
  raise s 0x47 c none

/-- Start a capture after aperture k of the running frame. -/
def startCapture (s : State) (c k : Nat) (manual : Bool) : State :=
  s.mapCv fun v => { v with cap := some { ch := c, k := k, frame := s.tb.frame, gain := (feSet s.plan c).gain, manual := manual,
                                          total := s.plan.caplen, div := 2 ^ s.plan.capdiv, wait := k + 1, samples := [],
                                          lastFrame := s.tb.frame, misses := 0 } }

/-- FAULT_CAPTURE_TRIGGER: the armed overloaded channels of the frame, lowest index first (04 R98). -/
def captureTriggers (s : State) (inp : TickInput) : State :=
  if !s.cv.fcen then s
  else
    forEach ((List.range 160).filter fun c => inp.ovl.any fun e => e.1 == c) (fun s c =>
      let x := feAt s c
      if x.disarmed then s
      else
        let s := s.setFe c { x with disarmed := true }
        if s.cv.cap.isSome then missTrigger s c
        else startCapture s c (((inp.ovl.find? fun e => e.1 == c).map (·.2)).getD 0) false) s

/-- The apertures of a frame that a capture takes: `wait` apertures of the frame pass first, then one in `div`. -/
def captureGo (got : List (Nat × Nat × Int)) (f : Frame) : List Nat → Capture → Capture
  | [], x => x
  | a :: t, x =>
    if x.total ≤ x.samples.length then x
    else if x.wait = 0 then
      let code := ((got.find? fun e => e.1 == x.ch && e.2.1 == a).map (·.2.2)).getD (-2048)
      captureGo got f t { x with samples := x.samples ++ [code], wait := x.div - 1, lastFrame := f }
    else captureGo got f t { x with wait := x.wait - 1 }

/-- The captured apertures of the frame that ends; −2048 (code 0x800) marks an aperture without a YIELD entry. While `FCEN` is 0 none
runs: a capture it cuts is given up without a record (DESIGN CHOICE, log 133). -/
def captureFrame (s : State) : State :=
  let s := if s.cv.fcen then s else s.mapCv fun v => { v with cap := none }
  let s := s.mapCv fun v => { v with cap := v.cap.map fun x =>
    let y := captureGo v.got s.tb.frame (List.range 48) x
    { y with due := decide (y.total ≤ y.samples.length) } }
  s.mapCv fun v => { v with got := [] }

/-- A manual capture (04 R96): ignores arming; missed while a capture runs. -/
def manualCapture (s : State) (c ap : Nat) : State :=
  if !s.cv.fcen then s else if s.cv.cap.isSome then missTrigger s c else startCapture s c ap true

def execFaultCaptureManual (ch ap : Nat) (s : State) : Out :=
  if !(isChannel ch && isAperture ap) then .fault .noSuchUnit
  else .next (if serving s then manualCapture (s.mapCv fun v => { v with fcch := ch }) ch ap else s)

/-- 12-bit samples packed into one 96-bit payload, first in word 1 [11:0]. -/
def pack12 (l : List Int) : Nat := l.foldr (fun x n => toField 12 x + 4096 * n) 0

/-- The entries of a capture record (Table 4.10). -/
def captureEntries (x : Capture) : List QEntry :=
  let tag (i : Nat) := tagOf x.ch 0x6 x.lastFrame i
  let missing := x.samples.any (· == -2048)
  let sat := x.samples.any fun v => v == 2047 || v == -2047
  let d := Nat.log2 x.div
  { tag := tag 0, w1 := word x.frame.toNat, w2 := word (x.frame.toNat / 2 ^ 32 + x.k * 2 ^ 16 + x.gain * 2 ^ 24),
    w3 := word (x.total % 256 + d * 2 ^ 8 + flagAt x.manual 12 + flagAt missing 13 + flagAt sat 14) } ::
  (List.range (x.total / 8)).map fun i =>
    let n := pack12 ((x.samples.drop (8 * i)).take 8)
    { tag := tag (i + 1), w1 := wordOf n 0, w2 := wordOf n 1, w3 := wordOf n 2 }

/-- Peak |sample| in thousandths of peak full scale: 2048 codes stand for 240 %. -/
def capturePeak (x : Capture) : Int :=
  ((x.samples.foldl (fun m v => if v = -2048 then m else max m v.natAbs) 0) * 240000 / 2048 : Nat)

/-- Push the record at the tick after the last captured aperture: whole or dropped (04 R99). The misses of the capture enter the summary of 0x47
under the captured channel, though each event names the channel missed: Table 4.14 does not say which key they belong to (DESIGN
CHOICE, log 133). -/
def execFaultCapturePush (s : State) : Out :=
  match s.cv.cap with
  | none => .next s
  | some x =>
    if !x.due || !s.cv.fcen || !serving s then .next s
    else
      let es := captureEntries x
      let fits := match routeOf s.plan 6 x.ch with
        | some q => decide (es.length ≤ (routeRec s.plan q).depth)
        | none => true
      let s := (s.mapCv fun v => { v with cap := none, fcdone := true, fcsCh := x.ch, fcsK := x.k, fcsLen := x.total,
                                          fcFrame := x.frame, fcsLost := !fits }).irq 8
      let s :=
        if fits then push s 6 x.ch es
        else
          match routeOf s.plan 6 x.ch with
          | some q => s.setQueue q { queueAt s q with lost := satAdd (queueAt s q).lost es.length, ovf := true }
          | none => s
      let s := if 0 < x.misses then endSample s 0x47 x.ch (x.misses : Nat) else s
      .next (raise s 0x46 x.ch (some (capturePeak x)))

/-! ## Queue commands (04 R102, R103) -/

/-- Readers of `QCFG`: 0 host, 1 legal core, 2 application core, 3 Cobalt upstream. -/
def isReader (r : RouteDef) : Requester → Bool
  | .host => r.reader == 0
  | .legal => r.reader == 1
  | .app => r.reader == 2
  | .chain => r.reader == 3

/-- At least two entries are free again: the queue appends its marker (04 R102). -/
def execQueueMarkerAppend (q : Nat) (s : State) : Out :=
  if !isQueue q then .fault .noSuchUnit
  else
    let x := queueAt s q
    if serving s ∧ x.refused ≠ 0 ∧ x.ents.length + 2 ≤ (routeRec s.plan q).depth then
      .next (fillIrq (s.setQueue q { x with ents := x.ents ++ [markerEntry q s.tb.frame x.refused], refused := 0 }) q
        x.ents.length (x.ents.length + 1))
    else .next s

/-- The tag of no entry: kind 0xF (Table 4.12). -/
def noEntry : QEntry := { tag := 0x00F00000 }

/-- The head entry of a queue, or no entry. -/
def headEntry (s : State) (q : Nat) : QEntry := (queueAt s q).ents.headD noEntry

/-- The four words of an entry. -/
def entryWords (e : QEntry) : List Word := [e.tag, e.w1, e.w2, e.w3]

/-- Pop the head entry, by the queue's reader only (04 R103). -/
def popQueue (s : State) (req : Requester) (q : Nat) : State :=
  let x := queueAt s q
  if isReader (routeRec s.plan q) req then s.setQueue q { x with ents := x.ents.drop 1 }
  else s.setQueue q { x with rderr := true }

/-- What a pop by a requester returns. -/
def popWords (s : State) (req : Requester) (q : Nat) : List Word :=
  entryWords (if isReader (routeRec s.plan q) req then headEntry s q else noEntry)

/-- A pop: the entry is driven to the requester and removed. -/
def execQpop0 (req : Requester) (q : Nat) (s : State) : Out :=
  if !isQueue q then .fault .noSuchUnit
  else .next (if serving s then (popQueue s req q).mapHp fun h => { h with data := popWords s req q } else s)

end Sys2Proof.Machine
end

