-- ==== Sys2Proof/Machine/Trig.lean ====
section
/-! DEFINITION. Angles in 2^-32 turn: cosine, sine and tangent by their series in integers, the Q1.30 values that the lanes use (06 R133),
the angle of a phasor, and the sums of a discrete transform (07 R163). -/

namespace Sys2Proof.Machine

/-- π × 2^62. -/
def piQ62 : Nat := 14488038916154245685

/-- A power series in x² (Q62): each term is the one before times −x² over the next divisor. -/
def series (x2 first : Int) (ds : List Int) : Int :=
  (ds.foldl (fun (a : Int × Int) d => let t := -(a.2 * x2 / 2 ^ 62) / d; (a.1 + t, t)) (first, first)).1

/-- sin and cos of an angle of at most an eighth of a turn, in Q62. -/
def sinSeries (x : Int) : Int := series (x * x / 2 ^ 62) x [6, 20, 42, 72, 110, 156, 210, 272, 342]
def cosSeries (x : Int) : Int := series (x * x / 2 ^ 62) (2 ^ 62) [2, 12, 30, 56, 90, 132, 182, 240, 306]

/-- An angle of r × 2^-32 turn in Q62 radians. -/
def radQ62 (r : Nat) : Int := (r * piQ62 / 2 ^ 31 : Nat)

/-- cos and sin of a phase, Q62. -/
def trigQ62 (t : Nat) : Int × Int :=
  let r := t % 2 ^ 30
  let p := if r ≤ 2 ^ 29 then (cosSeries (radQ62 r), sinSeries (radQ62 r))
    else (sinSeries (radQ62 (2 ^ 30 - r)), cosSeries (radQ62 (2 ^ 30 - r)))
  match t / 2 ^ 30 % 4 with
  | 0 => p
  | 1 => (-p.2, p.1)
  | 2 => (-p.1, -p.2)
  | _ => (p.2, -p.1)

/-- A value within a limit of an exact one: the difference is the device's own. -/
def within (x lim e : Int) : Int := x + clampI (-lim) lim e

/-- Q1.30 of a Q62 value of a phase: exact at the quarter turns, elsewhere within one unit of the rounded value (log 14). -/
def trigQ30 (sine : Bool) (t : Nat) : Int :=
  let v := rndDiv (if sine then (trigQ62 t).2 else (trigQ62 t).1) (2 ^ 32)
  if t % 2 ^ 30 = 0 then v else clampI (-(2 ^ 30)) (2 ^ 30) (within v 1 (Config.trigErr sine t))

/-- cos θ and sin θ in Q1.30 (06 R133). -/
def cosQ30 (t : Nat) : Int := trigQ30 false t
def sinQ30 (t : Nat) : Int := trigQ30 true t

/-- The angle of a phasor in 2^-16 turn, 0 to 65,535, rounded down: its quarter, then bit by bit. -/
def angleOf (re im : Int) : Nat :=
  let q := if 0 < re ∧ 0 ≤ im then (0, re, im) else if re ≤ 0 ∧ 0 < im then (1, im, -re)
    else if re < 0 ∧ im ≤ 0 then (2, -re, -im) else (3, -im, re)
  let a := ((List.range 14).map fun i => 13 - i).foldl (fun a i =>
    let t := trigQ62 ((a + 2 ^ i) * 2 ^ 16)
    if 0 ≤ q.2.2 * t.1 - q.2.1 * t.2 then a + 2 ^ i else a) 0
  if re = 0 ∧ im = 0 then 0 else q.1 * 16384 + a

/-- tan(x) / x of an angle below a quarter of a turn, as numerator and denominator. -/
def tanOver (t : Nat) : Int × Int :=
  let v := trigQ62 t
  if t = 0 then (1, 1) else (v.2 * 2 ^ 62, v.1 * radQ62 t)

/-- A weighted sample with its phase. -/
structure Weighed where
  u : Int
  w : Nat
  ph : Nat
deriving DecidableEq, Repr

/-- Bin j of n cycles of a list of samples: Σ w u cos and −Σ w u sin at phase j θ / n, in 2^-46 (weights in 2^-16, Q1.30). -/
def binSum (n j : Nat) (l : List Weighed) : Int × Int :=
  l.foldl (fun a x =>
    let t := trigQ62 (j * x.ph / n)
    (a.1 + x.w * x.u * (t.1 / 2 ^ 32), a.2 - x.w * x.u * (t.2 / 2 ^ 32))) (0, 0)

end Sys2Proof.Machine
end

