-- ==== Sys2Proof/Machine/Metrology.lean ====
section
/-! DEFINITION. What the segment of a point computes in one lane frame (06): scales, conditioning, element powers,
direction-resolved values, and the window bookkeeping of the buses. -/

namespace Sys2Proof.Machine

/-- Run an action with a given frame number in place of the present one (01 R13). -/
def atFrame (s : State) (f : Frame) (g : State → State) : State :=
  (g (s.mapTb fun t => { t with frame := f })).mapTb fun t => { t with frame := s.tb.frame }

def ptAt (s : State) (p : Nat) : Point := tget {} p s.met.pt

def State.setPt (s : State) (p : Nat) (x : Point) : State := s.mapMet fun m => { m with pt := tset p x m.pt }

def busAt (s : State) (b : Nat) : Bus := tget {} b s.met.bus

def State.setBus (s : State) (b : Nat) (x : Bus) : State := s.mapMet fun m => { m with bus := tset b x m.bus }

/-! ## Members (06 R126, 05 Table 5.4) -/

/-- The members of a point: member number (0–2 IL1–IL3, 3 INEU, 4–6 L1–L3, 7 N-PE) and channel. -/
def members (c : ChMap) : List (Nat × Nat) :=
  ([(0, c.il1), (1, c.il2), (2, c.il3), (3, c.ineu)].filter fun e => e.2 != 0xFF) ++
  ([(4, c.l1), (5, c.l2), (6, c.l3), (7, c.npe)].filterMap fun e =>
    if e.2 then some (e.1, 128 + 4 * c.bus + (e.1 - 4)) else none)

def chMap (pl : PlanDef) (p : Nat) : ChMap := pl.chmap.getD p {}

/-- The channel of a member; none when the point does not use it. -/
def memberCh (pl : PlanDef) (p m : Nat) : Option Nat := ((members (chMap pl p)).find? fun e => e.1 == m).map (·.2)

/-- The reference voltage member of a point: L1, else L2, else L3 (R126). -/
def refVolt (c : ChMap) : Nat := if c.l1 then 4 else if c.l2 then 5 else 6

/-- The channel of the reference of F_ref for a member. -/
def refCh (pl : PlanDef) (p m : Nat) : Nat :=
  let c := chMap pl p
  if m < 4 then c.il1 else 128 + 4 * c.bus + (refVolt c - 4)

/-! ## Calibration values and scales (06 R131, R132, R139, R148) -/

def calAt (s : State) (c : Nat) : Cal := tget {} c s.met.cal.ch

/-- `CALFSQ` as mantissa and exponent: value = mantissa × 2^(exponent − 128). -/
def fsqOf (s : State) (c : Nat) : Nat × Nat :=
  let v := (calAt s c).fsq.v.toNat
  (v % 2 ^ 24, (fromField 8 (v / 2 ^ 24) + 128).toNat)

/-- `CALFSQ` lies in 2^-16 to 2^16. -/
def fsqOk (s : State) (c : Nat) : Bool :=
  let f := fsqOf s c
  decide (2 ^ 112 ≤ f.1 * 2 ^ f.2 ∧ f.1 * 2 ^ f.2 ≤ 2 ^ 144)

/-- The combined gain g of a member of a point, Q8.40, 48 bits unsigned (R131). The rule gives no rounding: to the nearest, half away from
zero, and at most 2^48 − 1 are the model's (DESIGN CHOICE, log 124). -/
def gainOf (s : State) (pl : PlanDef) (p m c : Nat) : Int :=
  let f := fsqOf s c
  let r := fsqOf s (refCh pl p m)
  min (rndDiv (((calAt s c).gain.v.toNat * 2 ^ 10 * f.1 * 2 ^ f.2 : Nat) : Int) (r.1 * 2 ^ r.2)) (2 ^ 48 - 1)

/-- A positive ratio as m × 2^(E − 80) with bit 31 of m set, m rounded to nearest; k is the floor of its base-2 logarithm
(R139). -/
structure Scale where
  m : Nat
  e : Int
  k : Int
deriving DecidableEq, Repr

def scaleOf (num den : Nat) : Scale :=
  if num = 0 ∨ den = 0 then ⟨0, 0, -1000⟩
  else
    let k0 : Int := (Nat.log2 num : Int) - Nat.log2 den
    let lt := if 0 ≤ k0 then decide (num < den * 2 ^ k0.toNat) else decide (num * 2 ^ (-k0).toNat < den)
    let k := if lt then k0 - 1 else k0
    let sh := 31 - k
    let m := (if 0 ≤ sh then rndDiv ((num * 2 ^ sh.toNat : Nat) : Int) den
      else rndDiv (num : Int) (den * 2 ^ (-sh).toNat)).toNat
    if m < 2 ^ 32 then ⟨m, k + 49, k⟩ else ⟨2 ^ 31, k + 50, k⟩

/-- V_FS × I_FS of a point as numerator and denominator. -/
def vaFs (s : State) (pl : PlanDef) (p : Nat) : Nat × Nat :=
  let v := fsqOf s (refCh pl p 4)
  let i := fsqOf s (refCh pl p 0)
  (v.1 * i.1 * 2 ^ (v.2 + i.2), 2 ^ 256)

/-- ESC of a point: quanta of 10^QEXP Wh primary per PU-frame (R139). One PU-frame is V_FS × I_FS / (5.89824 × 10^20) Wh. -/
def escOf (s : State) (pl : PlanDef) (p : Nat) : Scale :=
  let d := pointDef pl p
  let va := vaFs s pl p
  let q := d.qexp
  scaleOf (va.1 * d.ctnum * d.vtnum * (if q < 0 then 10 ^ (-q).toNat else 1))
    (va.2 * d.ctden * d.vtden * 589824000000000000000 * (if 0 ≤ q then 10 ^ q.toNat else 1))

/-- PESC of an output (R148): CONST pulses per kWh, without the ratios. -/
def pescOf (s : State) (pl : PlanDef) (o : Nat) : Scale :=
  let u := pl.pulses.getD o {}
  let va := vaFs s pl u.point
  scaleOf (va.1 * u.const) (va.2 * 589824000000000000000000)

/-- A scale lies in [2^-57, 2^-7). -/
def scaleOk (x : Scale) : Bool := decide (-57 ≤ x.k ∧ x.k ≤ -8)

/-- The lowest cause of Table 6.2 that applies; 0 none. -/
def scaleCause (s : State) (pl : PlanDef) (p : Nat) : Nat :=
  let ms := members (chMap pl p)
  if ms.any fun e => !fsqOk s e.2 then 1
  else if ms.any fun e => e.1 != 3 &&
      !decide (2 ^ 39 ≤ gainOf s pl p e.1 e.2 ∧ gainOf s pl p e.1 e.2 < 2 ^ 41) then 2
  else if ms.any fun e => e.1 == 3 &&
      !decide (2 ^ 32 ≤ gainOf s pl p e.1 e.2 ∧ gainOf s pl p e.1 e.2 < 2 ^ 47) then 3
  else if !scaleOk (escOf s pl p) then 4
  else 0

/-- Evaluate the scale fault of a point under a plan: `PTSTS` SCALEF, SFCAUSE, and 0x65 on entering (R132). -/
def scalePoint (pl : PlanDef) (s : State) (p : Nat) : State :=
  let x := ptAt s p
  let c := if (pointDef pl p).type = 0 then 0 else scaleCause s pl p
  if c = 0 ∧ !x.scalef then s
  else
    let s := s.setPt p { x with scalef := c != 0, sfcause := c }
    if c ≠ 0 ∧ !x.scalef then raise s 0x65 p (some (c : Nat)) else s

/-- `PLSSTS.SCALE` of an output (R148). -/
def scalePulse (pl : PlanDef) (s : State) (o : Nat) : State :=
  let bad := (pl.pulses.getD o {}).point < 128 && !scaleOk (pescOf s pl o)
  s.mapMet fun m => { m with pulse := tmod {} o (fun x => { x with scale := bad }) m.pulse }

/-- The scale-fault evaluation of a plan, or of an accepted calibration write (R132). -/
def scaleEval (s : State) (pl : PlanDef) : State :=
  forEach (List.range 8) (scalePulse pl) (forEach points (scalePoint pl) s)

/-- floor(d × df × m × 2^(E − 55)) (R139, R148). -/
def incOf (d : Int) (df : Nat) (x : Scale) : Int := asr (d * df * x.m) (55 - x.e).toNat

/-! ## Conditioning (06 R128 to R130) -/

/-- One phase of the interpolator of R129: its 16 taps over the streams, newest first, at a whole delay n and phase j of 1,024. Phase 0 is
the delayed stream itself; the other coefficients are the device's table (log 14). -/
def fdelayPhase (st : List Int) (n j : Nat) : Int :=
  if j = 0 then st.getD n 0 * 65536
  else ((List.range 16).map fun k => Config.fdelayTap n j k * st.getD k 0).sum

/-- fdelay: the stream delayed by 4 + dly / 65,536 frames, scaled by 2^16, with linear interpolation between adjacent phases, of which there
are 1,024 in a frame (R129). -/
def fdelay (s : State) (c : Nat) : Int :=
  let d := (clampI 0 (8 * 65536) (4 * 65536 + (calAt s c).dly.int)).toNat
  let st := (pathAt s c).streams
  let j := d / 64
  let a := fdelayPhase st (j / 1024) (j % 1024)
  let b := fdelayPhase st ((j + 1) / 1024) ((j + 1) % 1024)
  if d % 64 = 0 then a else asr (((64 - d % 64 : Nat) : Int) * a + ((d % 64 : Nat) : Int) * b) 6

def isRogowski (pl : PlanDef) (c : Nat) : Bool := (feSet pl c).sensor == 3

/-- nhpf of a member (R130). -/
def nhpf (pl : PlanDef) (p c : Nat) : Nat :=
  if (members (chMap pl p)).any fun e => isRogowski pl e.2 then (if isRogowski pl c then 1 else 2) else 1

/-- One trapezoidal integration step with the pole of R128: y and xp. -/
def rinStep (y xp x : Int) (sh : Nat) : Int := y - asr y 14 + asr (x + xp) (1 + sh)

/-- One high-pass stage: h from x, the last input and the last output. -/
def hpfStep (h hx x : Int) : Int := x - hx + h - asr h 14

/-- A value saturated to 48 bits, and whether it saturated (R127). -/
structure Sat where
  v : Int
  hit : Bool
deriving DecidableEq, Repr

def satOf (x : Int) : Sat := ⟨sat48 x, sat48 x != x⟩

/-- Condition one member: its new state and u (R128). `rsh` is the shift of the RIN instruction. -/
def condition (s : State) (pl : PlanDef) (p m c rsh : Nat) (k : Cond) : Cond × Sat :=
  let x := fdelay s c
  let y := if isRogowski pl c then rinStep k.y k.xp x rsh else 0
  let a := if isRogowski pl c then y else x
  let h1 := hpfStep k.h1 k.hx1 a
  let two := nhpf pl p c == 2
  let h2 := if two then hpfStep k.h2 k.hx2 h1 else 0
  let z := if two then h2 else h1
  ({ y := y, xp := x, h1 := h1, hx1 := a, h2 := h2, hx2 := if two then h1 else 0 },
   satOf (rndDiv (z * gainOf s pl p m c) (2 ^ 40)))

/-! ## Element powers (06 R133 to R137) -/

/-- Cascaded sections y = y + asr(x − y, n); the last is the output. -/
def lpf (n : Nat) : List Int → Int → List Int
  | [], _ => []
  | y :: t, x => let y' := y + asr (x - y) n; y' :: lpf n t y'

def lastOf (l : List Int) : Int := l.getLastD 0

/-- Number of elements of a point type (Table 6.3). -/
def elemCount (d : PointDef) : Nat := d.type

/-- Voltage and current member of an element: voltages as a difference of members (Table 6.3). -/
def elemOf (d : PointDef) (c : ChMap) (k : Nat) : Nat × Option Nat × Nat :=
  match d.type, k with
  | 1, _ => (refVolt c, none, 0)
  | 2, 0 => (4, some 5, 0)
  | 2, _ => (6, some 5, 2)
  | _, _ => (4 + k, none, k)

/-- What the segment yields for one element. -/
structure ElemOut where
  f : ElFilt
  e : Elem
  hit : Bool

/-- The quantities of Table 6.4 of an element from its voltage and current. -/
def elemRun (d : PointDef) (cal : Cal) (cs sn v i : Int) (f : ElFilt) (e : Elem) : ElemOut :=
  let p0 := satOf (asr (v * i) 34)
  let p := p0.v - cal.pofs.int
  let lp := lpf 10 f.lp p
  let lv := lpf 10 f.lv (v * v)
  let li := lpf 10 f.li (i * i)
  let vc := lpf 9 f.vc (asr (v * cs) 30)
  let vs := lpf 9 f.vs (asr (v * sn) 30)
  let ic := lpf 9 f.ic (asr (i * cs) 30)
  let is := lpf 9 f.is (asr (i * sn) 30)
  let p1 := asr (lastOf vc * lastOf ic + lastOf vs * lastOf is) 33 - cal.pofs.int
  let q1 := asr (lastOf vc * lastOf is - lastOf vs * lastOf ic) 33 - cal.qofs.int
  let q := if d.harm then q1 + e.qh else q1
  let pm := lastOf lp
  let sa := if d.arith then asr (isqrtI (lastOf lv) * isqrtI (lastOf li)) 34 else isqrtI (pm * pm + q * q)
  { f := { lp := lp, lv := lv, li := li, vc := vc, vs := vs, ic := ic, is := is }
    e := { e with p := p, pm := pm, p1 := p1, q := q, s := sa }, hit := p0.hit }

def sumE (l : List Elem) (f : Elem → Int) : Int := (l.map f).sum

/-- S_tot of a list of elements (R135). -/
def sTotOf (d : PointDef) (l : List Elem) : Int :=
  if d.arith then sumE l (·.s) else isqrtI (sumE l (·.pm) ^ 2 + sumE l (·.q) ^ 2)

def sgn (x : Int) : Int := if 0 ≤ x then 1 else -1

def iff0 (b : Bool) (x : Int) : Int := if b then x else 0

/-- The direction-resolved values of Table 6.5 over the open elements, by code; R213 of 09 for IMPORTONLY. -/
def dValues (d : PointDef) (l : List Elem) : List Int :=
  let o := l.filter (·.gate)
  let p := sumE o (·.p)
  let pt := sumE o (·.pm)
  let qt := sumE o (·.q)
  let p1 := sumE o (·.p1)
  let st := sTotOf d o
  let abs := sumE o fun e => sgn e.pm * e.p
  let imp := decide (0 ≤ pt)
  let ind := decide (0 ≤ qt)
  let aq : Int := qt.natAbs
  [ if d.importOnly then abs else iff0 imp p,
    iff0 (!imp) (-p),
    iff0 (imp && ind) aq, iff0 (!imp && ind) aq, iff0 (!imp && !ind) aq, iff0 (imp && !ind) aq,
    if d.importOnly then st else iff0 imp st,
    iff0 (!imp) st,
    if d.importOnly then (p1.natAbs : Int) else iff0 (decide (0 ≤ p1)) p1,
    iff0 (decide (p1 < 0)) (-p1),
    abs,
    sumE (o.filter fun e => decide (e.pm < 0)) fun e => -e.p ]

/-- The quantities the safe plan's segments form: total active and reactive (05 Table 5.13). -/
def safeQty (q : Nat) : Bool := decide (q ≤ 6) || q == 11 || q == 12

/-! ## RMS quantities (06 R146) -/

/-- The RMS quantities of a point and frame from its conditioned members: number and value, saturated differences. -/
def rmsVals (d : PointDef) (u : Tab Int) : List (Nat × Sat) :=
  let g (m : Nat) := tget 0 m u
  let ll := if d.type = 2 ∨ d.type = 3 then
      [(8, satOf (g 4 - g 5)), (9, satOf (g 5 - g 6)), (10, satOf (g 6 - g 4))] else []
  let cn := g 0 + g 1 + g 2
  let nc := if d.type = 3 then [(11, satOf cn)] else []
  let mm := if u.any (·.1 == 3) then
      (if d.type = 3 then [(12, satOf (g 3 - cn))] else if d.type = 1 then [(12, satOf (g 0 - g 3))] else []) else []
  (u.map fun e => (e.1, (⟨e.2, false⟩ : Sat))) ++ ll ++ nc ++ mm

/-- A frame's full weight in the window sums. -/
def fullW : Nat := 2 ^ 16

/-- Add a frame to the sums of an RMS quantity, with its weight in the 10/12-cycle window. -/
def rmsAdd (w : Nat) (t : Tab Rms) (e : Nat × Sat) : Tab Rms :=
  tmod {} e.1 (fun r => let q := e.2.v.natAbs * e.2.v.natAbs
                        { r with u := e.2.v, s10 := r.s10 + q * w, sH := r.sH + q * fullW }) t

/-- Add a frame to a linear window sum. -/
def linAdd (w : Nat) (t : Tab (Int × Int)) (e : Nat × Int) : Tab (Int × Int) :=
  tmod (0, 0) e.1 (fun r => (e.2, r.2 + e.2 * w)) t

/-! ## The segment of a point -/

/-- What a segment answers: the point's new state and the values of its frame. -/
structure SegOut where
  pt : Point
  d : List Int

/-- The segment of point p on the streams of the frame that ended (R128 to R138). -/
def segRun (s : State) (pl : PlanDef) (p : Nat) (rsh : Nat → Nat) (cs sn : Int) (df : Nat) (f : Frame) : SegOut :=
  let d := pointDef pl p
  let c := chMap pl p
  let x := ptAt s p
  let w := (busAt s c.bus).w10
  let ms := members c
  let cond := ms.map fun e => (e, condition s pl p e.1 e.2 (rsh e.2) (tget {} e.1 x.seg.cond))
  let u : Tab Int := cond.map fun r => (r.1.1, r.2.2.v)
  let rv := rmsVals d u
  let els := (List.range (elemCount d)).map fun k =>
    let m := elemOf d c k
    let v := match m.2.1 with
      | some n => satOf (tget 0 m.1 u - tget 0 n u)
      | none => ⟨tget 0 m.1 u, false⟩
    let o := elemRun d (calAt s ((memberCh pl p m.2.2).getD 0xFF)) cs sn v.v (tget 0 m.2.2 u) (tget {} k x.seg.el) (tget {} k x.e)
    { o with hit := o.hit || v.hit }
  let es := els.map (·.e)
  let es := if pl.safe then es.map fun e => { e with s := 0, p1 := 0 } else es
  let pTot := sumE es (·.pm)
  let qTot := sumE es (·.q)
  let p1 := sumE es (·.p1)
  let st := if pl.safe then 0 else sTotOf d es
  let rev := sumE (es.filter fun e => e.gate && decide (e.pm < 0)) fun e => (e.p.natAbs : Int)
  let ph := (els.mapIdx fun k o => [(8 + 4 * k, lastOf o.f.vc), (9 + 4 * k, lastOf o.f.vs), (10 + 4 * k, lastOf o.f.ic),
                                    (11 + 4 * k, lastOf o.f.is)]).flatten
  let lin := ([(0, pTot), (1, qTot), (2, st), (3, p1), (4, rev)] ++ ph).foldl (linAdd w) x.seg.lin
  let hit := cond.any (fun r => r.2.2.hit) || rv.any (fun e => e.2.hit) || els.any (·.hit)
  let dv := (dValues d es).mapIdx fun i v => if pl.safe && !safeQty (i + 1) then 0 else v
  { pt := { x with
      seg := { cond := cond.map fun r => (r.1.1, r.2.1), rms := rv.foldl (rmsAdd w) x.seg.rms,
               el := els.mapIdx fun k o => (k, o.f), lin := lin }
      e := es.mapIdx fun k e => (k, e), pTot := pTot, qTot := qTot, p1Tot := p1, sTot := st,
      d := dv.mapIdx fun i v => (i + 1, v), sat := x.sat || hit, satNow := hit,
      slew := df != 2 ^ 23, frame := f,
      withheld := ms.any fun e => (pathAt s e.2).settling
      rev := d.importOnly && ((es.any fun e => e.gate && decide (e.pm < 0)) || decide (sumE (es.filter (·.gate)) (·.p1) < 0)) }
    d := dv }

/-! ## Buses (06 R142 to R145) -/

/-- The points of a plan on a bus. -/
def busPts (pl : PlanDef) (b : Nat) : List Nat :=
  points.filter fun p => (pointDef pl p).type != 0 && (chMap pl p).bus == b

/-- Voltage buses in use. -/
def busesUsed (pl : PlanDef) : List Nat := buses.filter fun b => !(busPts pl b).isEmpty

/-- The frequency reference of a bus: the member (4 L1, 5 L2, 6 L3) and the lowest point that uses it (R142). -/
def busRef (pl : PlanDef) (b : Nat) : Option (Nat × Nat) :=
  let ps := busPts pl b
  let find (m : Nat) (f : ChMap → Bool) := (ps.find? fun p => f (chMap pl p)).map fun p => (m, p)
  match find 4 (·.l1) with
  | some r => some r
  | none => match find 5 (·.l2) with
    | some r => some r
    | none => find 6 (·.l3)

/-- Nominal frequency of a bus is 60 Hz: `OPTS[3]` of its lowest point (R143). -/
def bus60 (pl : PlanDef) (b : Nat) : Bool := ((busPts pl b).head?.map fun p => (pointDef pl p).hz60).getD false

def nominal (hz60 : Bool) : Nat := (if hz60 then 60 else 50) * 65536

/-- Cycles of a 10/12-cycle window (Table 6.6). -/
def winCycles (hz60 : Bool) : Nat := if hz60 then 12 else 10

/-- A bus without a valid crossing for as long as its window takes at 42.5 Hz has lost its frequency; the window then closes
at the end of the frame (log 29). -/
def winLimit (hz60 : Bool) : Nat := winCycles hz60 * 16000 * 65536 * 2 / 85

/-- Frames of the running half of an invalid half-cycle window (Table 6.6). -/
def halfFrames (hz60 long : Bool) : Nat := if hz60 then (if long then 134 else 133) else 160

/-- A sample of the reference enters the 500 Hz filter: a zero crossing of its output in the frame, located by linear interpolation to 2^-16
frame, with its direction (R142). -/
def busCross (u : Int) (x : Bus) : Bus × Option (Nat × Bool) :=
  let lp := (u :: x.lp).take 64
  let v := Config.lowpass500 lp
  let pos := min 65535 (x.lpPrev.natAbs * 65536 / (x.lpPrev.natAbs + v.natAbs))
  let c := if x.lpPrev < 0 ∧ 0 ≤ v then some (pos, true) else if 0 ≤ x.lpPrev ∧ v < 0 then some (pos, false) else none
  ({ x with lp := lp, lpPrev := v }, c)

/-- The prologue of a frame for one bus: θ, window weights, crossings, and the windows that close in this frame; whether the first window of
a valid frequency starts in it (R142 to R145). The advance of θ is cut to 2^-32 turn in every frame (DESIGN CHOICE, log 125). -/
def busStep (hz : Bool) (c : Option (Nat × Bool)) (x : Bus) : Bus × Bool :=
  let nco := if x.valid then x.nco else nominal hz
  let pos := (c.map (·.1)).getD 0 % fullW
  let up := c.any (·.2)
  let w0 := x.winPos
  let x := { x with w10 := fullW, nco := nco, theta := (x.theta + nco * 65536 / 16000) % 2 ^ 32, winPos := w0 + fullW,
                    halfPos := x.halfPos + fullW, crossUp := if up then some pos else none }
  let x :=
    if up then
      if x.firstX.isNone then { x with firstX := some (if x.valid then 0 else w0 + pos), lastX := w0 + pos, cycles := 0 }
      else { x with lastX := w0 + pos, cycles := x.cycles + 1 }
    else x
  let started := x.valid && up && x.cycles == 0 && x.lastX == w0 + pos
  let x := if started then { x with winPos := fullW - pos, w10 := fullW - pos, lastX := 0 } else x
  let x :=
    if x.valid then
      if up && winCycles hz ≤ x.cycles then { x with due10 := some pos }
      else if winLimit hz ≤ x.winPos then { x with due10 := some fullW }
      else x
    else if 3200 * fullW ≤ x.winPos then { x with due10 := some fullW }
    else x
  let x :=
    if x.valid then (if c.isSome then { x with dueH := some pos } else x)
    else if halfFrames hz x.halfLong * fullW ≤ x.halfPos then { x with dueH := some fullW, halfLong := !x.halfLong }
    else x
  (x, started)

/-- The prologue of a bus on a sample of its reference. -/
def busFrame (hz : Bool) (u : Int) (x : Bus) : Bus × Bool :=
  let r := busCross u x
  busStep hz r.2 r.1

/-- The conditioned sample of the reference of a bus in the frame that ended. -/
def refSample (s : State) (pl : PlanDef) (b : Nat) (rsh : Nat → Nat) : Int :=
  match busRef pl b with
  | none => 0
  | some (m, p) =>
    match memberCh pl p m with
    | none => 0
    | some c => (condition s pl p m c (rsh c) (tget {} m (ptAt s p).seg.cond)).2.v

/-- The window sums of the points of a bus start anew. -/
def restartSums (pl : PlanDef) (s : State) (b : Nat) : State :=
  forEach (busPts pl b) (fun s p =>
    let y := ptAt s p
    s.setPt p { y with seg := { y.seg with rms := y.seg.rms.map fun e => (e.1, { e.2 with s10 := 0 })
                                           lin := y.seg.lin.map fun e => (e.1, (e.2.1, 0)) } }) s

end Sys2Proof.Machine
end

