-- ==== Sys2Proof/Machine/Lanes.lean ====
section
/-! DEFINITION. The lanes (06 R150, R151; 08 R190 to R195): the lane program, a lane frame over all points, the lockstep
comparison with its retry, the application of the increments (06 R140) and the pulse outputs (06 R148, R149). -/

namespace Sys2Proof.Machine

/-! ## Instruction words (06 Tables 6.7, 6.8) -/

def liOp (w : BitVec 64) : Nat := bits w.toNat 63 56
def liD (w : BitVec 64) : Nat := bits w.toNat 55 50
def liA (w : BitVec 64) : Nat := bits w.toNat 49 44
def liB (w : BitVec 64) : Nat := bits w.toNat 43 38
def liM (w : BitVec 64) : Nat := bits w.toNat 37 32
def liImm (w : BitVec 64) : Nat := bits w.toNat 31 0

/-- Cycles of each op, 0x00 to 0x1A (Table 6.8). -/
def opCycles : List Nat :=
  [1, 1, 4, 1, 2, 2, 2, 1, 1, 1, 1, 1, 1, 1, 1, 8, 2, 8, 6, 6, 12, 1, 1, 4, 4, 1, 1]

def cyclesOf (w : BitVec 64) : Nat := opCycles.getD (liOp w) 0

/-- Repeats and body length of a REP. -/
def repBody (w : BitVec 64) : Nat := bits (liImm w) 5 0 + 1
def repTimes (w : BitVec 64) : Nat := bits (liImm w) 13 6 + 1

/-- Cycles of a part: a REP counts 1 and its body's cycles times its repeats; `skip` instructions are a body already counted. -/
def partCycles : List (BitVec 64) → Nat → Nat
  | [], _ => 0
  | w :: t, skip =>
    if 0 < skip then partCycles t (skip - 1)
    else if liOp w = 0x1A then
      1 + ((t.take (repBody w)).map cyclesOf).sum * repTimes w + partCycles t (repBody w)
    else cyclesOf w + partCycles t 0

/-- The segments of a plan: point and first instruction, those in use. -/
def segStarts (pl : PlanDef) : List (Nat × Nat) :=
  (pl.segstart.mapIdx fun p a => (p, a)).filter fun e => e.2 != 0xFFFF

/-- The instructions of the prologue (part 128) or of a point's segment (05 R114). -/
def partCode (pl : PlanDef) (part : Nat) : List (BitVec 64) :=
  let st := segStarts pl
  let after (a : Nat) := ((st.map (·.2)).filter fun b => decide (a < b)).min?.getD pl.code.length
  if part = 128 then pl.code.take ((st.map (·.2)).min?.getD pl.code.length)
  else
    match st.find? fun e => e.1 == part with
    | some (_, a) => (pl.code.take (after a)).drop a
    | none => []

/-- Cycles of the prologue or a segment; the safe plan's are those of 05 Table 5.13. -/
def costOf (pl : PlanDef) (part : Nat) : Nat :=
  if pl.safe then (if part = 128 then 512 else 164) else partCycles (partCode pl part) 0

/-- C of a plan: the prologue and all segments (05 R115). -/
def costSum (pl : PlanDef) : Nat := costOf pl 128 + ((points.filter fun p => (pointDef pl p).type != 0).map (costOf pl)).sum

/-- The shift of the RIN that follows the FDL of a channel in a segment (06 R128). -/
def rshIn (c : Nat) : List (BitVec 64) → Bool → Nat
  | [], _ => 0
  | w :: t, seen =>
    if liOp w = 2 then rshIn c t (liImm w % 256 == c)
    else if liOp w = 5 ∧ seen then liM w
    else rshIn c t seen

/-! ## Arithmetic of the lanes (08 R190, Table 8.1)

`lb` is lane B: its operands and results are the complements of lane A's. Where Table 8.1 gives no form (roots, quotients), lane B works on
the complement of its operand and answers the complement. -/

/-- A value as a lane holds it. -/
def inLane (lb : Bool) (x : Int) : Int := if lb then compl x else x

def lAdd (lb : Bool) (a b : Int) : Int := if lb then a + b + 1 else a + b
def lSub (lb : Bool) (a b : Int) : Int := if lb then a - b - 1 else a - b
def lMul (lb : Bool) (a b : Int) : Int := if lb then -(a * b) - a - b - 2 else a * b

/-- The sign test a ≥ 0. -/
def lNonneg (lb : Bool) (a : Int) : Bool := if lb then decide (a < 0) else decide (0 ≤ a)

def lAbs (lb : Bool) (a : Int) : Int :=
  if lb then (if a < 0 then a else -2 - a) else (a.natAbs : Int)

/-- sat48: lane B saturates to [−2^47, 2^47 − 2]. -/
def lSat48 (lb : Bool) (a : Int) : Int := if lb then clampI (-(2 ^ 47)) (2 ^ 47 - 2) a else sat48 a

/-- rnd(a / 2^n), half away from zero: lane B mirrors the tie. -/
def lRnd (lb : Bool) (a : Int) (n : Nat) : Int :=
  if lb then (if a < 0 then asr (a - 2 ^ (n - 1)) n else asr (a + 2 ^ (n - 1) - 2 ^ n + 1) n) else rndDiv a (2 ^ n)

/-- An increment of R139 and R148 from d as the lane holds it. -/
def lInc (lb : Bool) (d : Int) (df : Nat) (x : Scale) : Int :=
  asr (lMul lb (lMul lb d (inLane lb df)) (inLane lb x.m)) (55 - x.e).toNat

/-- y + asr(x − y, n). -/
def lLpf (lb : Bool) (y x : Int) (n : Nat) : Int := lAdd lb y (asr (lSub lb x y) n)

/-- One high-pass stage of R128. -/
def lHpf (lb : Bool) (h hx x : Int) : Int := lSub lb (lAdd lb (lSub lb x hx) h) (asr h 14)

/-- One step of the leaky integrator of R128. -/
def lRin (lb : Bool) (y xp x : Int) (sh : Nat) : Int := lAdd lb (lSub lb y (asr y 14)) (asr (lAdd lb x xp) (1 + sh))

/-! ## Executing a part (06 Table 6.8) -/

/-- What a part works on in one lane: registers, state memory and its staged words (newest first), buffers, the window sums that ended in this
frame, the buses as its NCO ops leave them with those stepped and those whose first window started, and whether an op saturated. -/
structure LaneRun where
  w : Tab Int
  x : Tab Int
  ls : Tab Int
  st : List (Nat × Int) := []
  inc : Tab Int := []
  pinc : Tab Int := []
  slots : Tab Int := []
  ended : List Nat := []
  bus : Tab Bus := []
  stepped : List Nat := []
  started : List Nat := []
  hit : Bool := false

def LaneRun.put (r : LaneRun) (i : Nat) (v : Int) : LaneRun := { r with w := tset i v r.w }

/-- A register takes a value saturated to 48 bits. -/
def LaneRun.putSat (lb : Bool) (r : LaneRun) (i : Nat) (v : Int) : LaneRun :=
  { r.put i (lSat48 lb v) with hit := r.hit || lSat48 lb v != v }

/-- A register of a lane; 0 as the lane holds it until something is written. -/
def LaneRun.reg (lb : Bool) (r : LaneRun) (i : Nat) : Int := tget (inLane lb 0) i r.w

/-- A state word: staged, else committed. -/
def LaneRun.word (lb : Bool) (r : LaneRun) (a : Nat) : Int :=
  match r.st.find? fun e => e.1 == a with
  | some e => e.2
  | none => tget (inLane lb 0) a r.ls

def LaneRun.store (r : LaneRun) (a : Nat) (v : Int) : LaneRun :=
  { r with st := (a, satS 96 v) :: r.st, hit := r.hit || satS 96 v != v }

/-- Two 48-bit values of one 96-bit state word (HPF and RIN keep two; the places are the model's, log 30). -/
def loHalf (v : Int) : Int := fromField 48 (toField 96 v)
def hiHalf (v : Int) : Int := fromField 48 (toField 96 v / 2 ^ 48)
def joinHalf (lo hi : Int) : Int := hi * 2 ^ 48 + toField 48 lo

/-- Where a part runs: plan, point (128 in the prologue) and bus. -/
structure LaneCtx where
  pl : PlanDef
  part : Nat
  bus : Nat

/-- The gain of a channel as the part's point scales it; in the prologue, as the lowest point that uses the channel does. -/
def laneGain (s : State) (c : LaneCtx) (ch : Nat) : Int :=
  let p := if c.part < 128 then c.part
    else (points.find? fun p => (members (chMap c.pl p)).any fun e => e.2 == ch).getD 0
  match (members (chMap c.pl p)).find? fun e => e.2 == ch with
  | some e => gainOf s c.pl p e.1 ch
  | none => 0

/-- Weight of this frame for a window sum of a bus: the whole frame, or, in a frame that closes the window, the part before
the crossing until WEND has taken the sum and the part after it then (06 R145). -/
def laneWeight (b : Bus) (half ended : Bool) : Nat :=
  match if half then b.dueH else b.due10 with
  | none => fullW
  | some x => if ended then fullW - x else x

/-- Σw of the window that closes, in 2^-16 frame. -/
def laneSumW (b : Bus) (half : Bool) : Nat :=
  match if half then b.dueH else b.due10 with
  | none => 0
  | some x => (if half then b.halfPos else b.winPos) - (fullW - x)

/-- One op, in one lane. A window sum takes w × value rounded down (DESIGN CHOICE, log 30). -/
def laneOp (s : State) (c : LaneCtx) (lb : Bool) (r : LaneRun) (w : BitVec 64) : LaneRun :=
  let d := liD w
  let a := r.reg lb (liA w)
  let b := r.reg lb (liB w)
  let m := liM w
  let imm := liImm w
  let ch := imm % 256
  let addr := imm % 65536
  let x := inLane lb
  let bus (i : Nat) : Bus := tget {} i r.bus
  match liOp w with
  | 0x01 => r.put d (x ((pathAt s ch).streams.getD m 0 * 65536))
  | 0x02 => r.put d (x (fdelay s ch))
  | 0x03 => r.putSat lb d (lRnd lb (lMul lb a (x (laneGain s c ch))) 40)
  | 0x04 =>
    let v := r.word lb addr
    let h := lHpf lb (loHalf v) (hiHalf v) a
    (r.store addr (joinHalf h a)).putSat lb d h
  | 0x05 =>
    let v := r.word lb addr
    let y := lRin lb (loHalf v) (hiHalf v) a m
    (r.store addr (joinHalf y a)).putSat lb d y
  | 0x06 =>
    let y := lLpf lb (r.word lb addr) a m
    (r.store addr y).putSat lb d y
  | 0x07 => r.putSat lb d (asr (lMul lb a b) m)
  | 0x08 =>
    let v := lAdd lb (tget (x 0) d r.x) (lMul lb a b)
    { r with x := tset d (satS 96 v) r.x, hit := r.hit || satS 96 v != v }
  | 0x09 => r.putSat lb d (lAdd lb a b)
  | 0x0A => r.putSat lb d (lSub lb a b)
  | 0x0B => r.putSat lb d (lAbs lb a)
  | 0x0C => r.put d (if lNonneg lb b then a else x 0)
  | 0x0D => r.put d (if lNonneg lb b then x 0 else a)
  | 0x0E =>
    let t := (bus (imm % 8)).theta
    (r.put d (asr (lMul lb a (x (cosQ30 t))) 30)).put (d + 1) (asr (lMul lb a (x (sinQ30 t))) 30)
  | 0x0F =>
    let i := imm % 8
    let y := busFrame (bus60 c.pl i) (x a) (bus i)
    { r with bus := tset i y.1 r.bus, stepped := i :: r.stepped, started := if y.2 then i :: r.started else r.started }
  | 0x10 =>
    let v := if bitN m 5 then lMul lb a a else a
    let n := x (laneWeight (bus c.bus) (m % 2 == 1) (r.ended.contains addr))
    r.store addr (lAdd lb (r.word lb addr) (asr (lMul lb v n) 16))
  | 0x11 =>
    let n := laneSumW (bus c.bus) (m % 2 == 1)
    if n = 0 then r
    else { (r.store addr (x 0)).putSat lb d (x (rndDiv (x (r.word lb addr) * 65536) n)) with ended := addr :: r.ended }
  | 0x12 => r.put d (x (isqrtI (x (tget (x 0) (liA w % 16) r.x))))
  | 0x13 => r.put d (x (isqrtI (x a * x a + x b * x b)))
  | 0x14 => if x b = 0 then r.put d (x 0) else r.putSat lb d (x (Int.fdiv (x a * 2 ^ m) (x b)))
  | 0x15 => r.put d (if (tget {} (imm % 4) (ptAt s (bits imm 14 8)).e).gate then a else x 0)
  | 0x16 => r.put d (x (tget {} (imm % 4) (ptAt s (bits imm 14 8)).e).qh)
  | 0x17 =>
    let p := bits imm 14 8
    { r with inc := tset (16 * p + imm % 16) (lInc lb a s.met.laneDf (escOf s c.pl p)) r.inc }
  | 0x18 => { r with pinc := tset (imm % 8) (lInc lb a s.met.laneDf (pescOf s c.pl (imm % 8))) r.pinc }
  -- Which slots are the RMS slots is not given (log 142).
  | 0x19 => { r with slots := tset ch (x a) r.slots }
  | _ => r

/-- Run the instructions of a part; `skip` are a REP's body already run. -/
def laneCode (s : State) (c : LaneCtx) (lb : Bool) : List (BitVec 64) → Nat → LaneRun → LaneRun
  | [], _, r => r
  | w :: t, skip, r =>
    if 0 < skip then laneCode s c lb t (skip - 1) r
    else if liOp w = 0x1A then
      let body := t.take (repBody w)
      let r := (List.range (repTimes w)).foldl (fun r _ => body.foldl (laneOp s c lb) r) r
      laneCode s c lb t (repBody w) r
    else laneCode s c lb t 0 (laneOp s c lb r w)

/-- The bus numbers in use as a lane's prologue outputs: 4 b + 0 the NCO phase, 1 the frequency, 2 the window-close flags (08 R191). -/
def prolOut (lb : Bool) (bs : List Nat) (t : Tab Bus) : Tab Int :=
  (bs.flatMap fun b =>
    let x := tget {} b t
    [(4 * b, inLane lb (x.theta : Nat)), (4 * b + 1, inLane lb (x.nco : Nat)),
     (4 * b + 2, inLane lb ((flagAt x.due10.isSome 0 + flagAt x.dueH.isSome 1 : Nat) : Int))])

/-- One part in one lane, from committed state. -/
def laneRunOf (pl : PlanDef) (s : State) (part : Nat) (lb : Bool) : LaneRun :=
  let l := if lb then s.met.laneB else s.met.laneA
  laneCode s ⟨pl, part, if part = 128 then 0 else (chMap pl part).bus⟩ lb (partCode pl part) 0
    { w := l.w, x := l.x, ls := l.ls, bus := s.met.bus }

/-- Both lanes run one part: their registers, staged words and increment buffers; an op of a segment that saturates marks the point (06
R127). -/
def lanePart (pl : PlanDef) (s : State) (part : Nat) : State :=
  if (partCode pl part).isEmpty then s
  else
    let a := laneRunOf pl s part false
    let b := laneRunOf pl s part true
    let enter (l t : Tab Int) : Tab Int := l.foldl (fun t e => tset e.1 e.2 t) t
    let s := s.mapMet fun m =>
      { m with laneA := { m.laneA with w := a.w, x := a.x }, laneB := { m.laneB with w := b.w, x := b.x },
               stage := tset part a.st m.stage, stageB := tset part b.st m.stageB, bus := a.bus,
               incA := enter a.inc m.incA, incB := enter b.inc m.incB, pincA := enter a.pinc m.pincA, pincB := enter b.pinc m.pincB }
    let s := forEach a.started (restartSums pl) s
    if part < 128 then
      let x := ptAt s part
      s.setPt part { x with slots := enter a.slots x.slots, sat := x.sat || a.hit, satNow := x.satNow || a.hit }
    else s

/-- The prologue of a lane frame: the part's code in both lanes, and the buses that it gives no NCO op, on the conditioned samples of their
reference (06 R142 to R145). -/
def prologue (pl : PlanDef) (s : State) : State :=
  let bs := busesUsed pl
  let a := laneRunOf pl s 128 false
  let b := laneRunOf pl s 128 true
  let rest := bs.filter fun i => !a.stepped.contains i
  let s0 := s
  let s := lanePart pl s 128
  let step (t : Tab Bus) (i : Nat) : Bus × Bool :=
    busFrame (bus60 pl i) (refSample s0 pl i fun c => rshIn c (partCode pl (((busRef pl i).map (·.2)).getD 128)) false) (tget {} i t)
  let tb := rest.foldl (fun t i => tset i (step t i).1 t) b.bus
  let s := forEach rest (fun s i =>
    let y := step s.met.bus i
    let s := s.setBus i y.1
    if y.2 then restartSums pl s i else s) s
  s.mapMet fun m => { m with prolA := prolOut false bs m.bus, prolB := prolOut true bs tb }

/-! ## A lane frame (01 R23, 06 R128 to R148) -/

/-- The segment of a plan holds an op. -/
def hasOp (pl : PlanDef) (part op : Nat) : Bool := (partCode pl part).any fun w => liOp w == op

/-- Increments of a point from its direction-resolved values, in both lanes; none in scale fault or while a member stream carries kind 0x1
(06 R132, R137; 16 R376). Where the segment has ACE ops of its own, these fill the buffer (log 31). -/
def pointIncs (pl : PlanDef) (s : State) (p : Nat) : State :=
  let x := ptAt s p
  if x.scalef || x.withheld then
    let s := s.mapMet fun m => { m with incA := m.incA.filter fun e => e.1 / 16 != p, incB := m.incB.filter fun e => e.1 / 16 != p }
    if x.withheld then s.mapMet fun m => { m with setf := satAdd m.setf 1 } else s
  else if hasOp pl p 0x17 then s
  else
    let esc := escOf s pl p
    let fill (lb : Bool) (t : Tab Int) (df : Nat) : Tab Int := x.d.foldl (fun t e =>
      if e.2 = 0 then t else tset (16 * p + e.1) (lInc lb (inLane lb e.2) df esc) t) t
    s.mapMet fun m => { m with incA := fill false m.incA m.laneDf, incB := fill true m.incB m.laneDf }

/-- The increment of a pulse output in both lanes (06 R148). -/
def pulseInc (pl : PlanDef) (s : State) (o : Nat) : State :=
  let u := pl.pulses.getD o {}
  let x := ptAt s u.point
  if 128 ≤ u.point ∨ (pointDef pl u.point).type = 0 then s
  else if x.scalef || x.withheld || (tget {} o s.met.pulse).scale then
    s.mapMet fun m => { m with pincA := tdel o m.pincA, pincB := tdel o m.pincB }
  else if hasOp pl u.point 0x18 then s
  else
    let d := tget 0 u.qty x.d
    let esc := pescOf s pl o
    if d = 0 then s
    else s.mapMet fun m => { m with pincA := tset o (lInc false d m.laneDf esc) m.pincA
                                    pincB := tset o (lInc true (compl d) m.laneDf esc) m.pincB }

/-- Saturation events of a point (06 R127, 0x67). -/
def satEvents (s : State) (p : Nat) (was : Bool) (run : Nat) : State :=
  let x := ptAt s p
  let s := s.setPt p { x with satRun := if x.satNow then run + 1 else 0 }
  if x.satNow && !was then raise s 0x67 p none
  else if was && !x.satNow then endSample s 0x67 p (run : Nat)
  else s

/-- Run the segment of a point. -/
def segment (pl : PlanDef) (s : State) (p : Nat) : State :=
  let x := ptAt s p
  let b := busAt s (chMap pl p).bus
  let code := partCode pl p
  let r := segRun s pl p (fun c => rshIn c code false) (cosQ30 b.theta) (sinQ30 b.theta) s.met.laneDf s.tb.frame
  let s := s.mapMet fun m => { m with pt := tset p r.pt m.pt }
  pointIncs pl (satEvents (lanePart pl s p) p x.satNow x.satRun) p

/-- The lane frame that computes the frame that has just ended, whose number is `tb.frame`, under a plan. -/
def laneFrame (s : State) (pl : PlanDef) (df : Nat) : State :=
  let ps := points.filter fun p => (pointDef pl p).type != 0
  let s := katBegin (s.mapMet fun m =>
    { m with incA := [], incB := [], pincA := [], pincB := [], stage := [], stageB := [], base := m.pt.map fun e => (e.1, e.2.seg),
             baseBus := m.bus, prolA := [], prolB := [], disagreed := [], prolBad := false, compared := false,
             laneRun := some s.tb.frame, lanePlan := pl, laneDf := df, laneSt := s.sup.st, laneFlt := faultPts s })
  let s := forEach ps (segment pl) (prologue pl s)
  forEach (List.range 8) (pulseInc pl) s

/-! ## Lockstep comparison and retry (08 R191 to R194) -/

/-- Flip one bit of a 96-bit value. -/
def flipBit (x : Int) (b : Nat) : Int := ((BitVec.ofInt 96 x) ^^^ (1#96 <<< b)).toInt

/-- The upsets of a lane frame with the injection that acts in it (08 R209). -/
def upsetsOf (s : State) (l : List Upset) : List Upset :=
  match s.ls.injAct with
  | some w =>
    if injMode w = 1 ∨ injMode w = 2 then
      l ++ [{ laneB := wbit w 2, prologue := false, point := injPoint w, qty := injQty w, bit := injBit w,
              persistent := injMode w == 2 }]
    else l
  | none => l

/-- Lane values after the upsets of a kind of member (prologue or not), point or bus, and quantity (log 140). -/
def upsetPair (l : List Upset) (prol : Bool) (p q : Nat) (x : Int × Int) : Int × Int :=
  l.foldl (fun r u =>
    if u.prologue != prol || u.point != p || u.qty != q then r
    else if u.laneB then (r.1, flipBit r.2 u.bit) else (flipBit r.1 u.bit, r.2)) x

/-- Lane A's value is not the complement of lane B's. -/
def differs (x : Int × Int) : Bool := x.1 != compl x.2

/-- The enabled pulse outputs of a point. -/
def outputsOf (pl : PlanDef) (p : Nat) : List Nat := (List.range 8).filter fun o => (pl.pulses.getD o {}).point == p

/-- Increment i of a point in both lanes, and the residue increment of an output. -/
def incPair (s : State) (p q : Nat) : Int × Int := (tget 0 (16 * p + q) s.met.incA, tget (-1) (16 * p + q) s.met.incB)
def pincPair (s : State) (o : Nat) : Int × Int := (tget 0 o s.met.pincA, tget (-1) o s.met.pincB)

/-- A point mismatches when one of its 12 increments, or the residue increment of one of its outputs, is not the complement of lane B's
(08 R191). -/
def mismatch (s : State) (l : List Upset) (p : Nat) : Bool :=
  ((List.range 12).any fun i => differs (upsetPair l false p (i + 1) (incPair s p (i + 1)))) ||
  (outputsOf s.met.lanePlan p).any fun o => differs (upsetPair l false p (16 + o) (pincPair s o))

/-- The prologue mismatches in the phase, the frequency or the window-close flags of a bus in use (08 R191). -/
def prolMismatch (s : State) (l : List Upset) : Bool :=
  (busesUsed s.met.lanePlan).any fun b => (List.range 3).any fun i =>
    differs (upsetPair l true b i (tget 0 (4 * b + i) s.met.prolA, tget (-1) (4 * b + i) s.met.prolB))

/-- Retry of one point: its segment must fit in the cycles left, and its increments must agree then (08 R193 step 2). -/
structure Retry where
  left : Nat
  used : Nat
  agreed : List Nat
  tried : List Nat
  bad : List (Nat × Nat)

def retryPoint (s : State) (l : List Upset) (r : Retry) (p : Nat) : Retry :=
  let c := costOf s.met.lanePlan p
  if c ≤ r.left then
    let r := { r with left := r.left - c, used := r.used + c, tried := r.tried ++ [p] }
    if mismatch s l p then { r with bad := r.bad ++ [(p, 1)] } else { r with agreed := r.agreed ++ [p] }
  else { r with bad := r.bad ++ [(p, 2)] }

/-- What the lanes hold of a point's increments after some upsets: the values that are applied (08 R194, R195). -/
def holdUpsets (s : State) (l : List Upset) (p : Nat) : State :=
  forEach ((l.filter fun u => !u.prologue && u.point == p).map (·.qty)) (fun s q =>
    if q < 16 then
      let x := upsetPair l false p q (incPair s p q)
      s.mapMet fun m => { m with incA := tset (16 * p + q) x.1 m.incA, incB := tset (16 * p + q) x.2 m.incB }
    else
      let x := upsetPair l false p q (pincPair s (q - 16))
      s.mapMet fun m => { m with pincA := tset (q - 16) x.1 m.pincA, pincB := tset (q - 16) x.2 m.pincB })
    s

/-- The cycles of the retry window. -/
def retryWindow : Nat := 1843

/-- The outcome of an injection that a retry resolved. -/
def injRetried (s : State) (l : List Nat) : State :=
  match s.ls.injAct with
  | some w => if injMode w = 1 ∧ l.contains (injPoint w) then s.mapLs fun x => { x with injres := 1 } else s
  | none => s

/-- Cycle 28,877 of the running lane frame (08 R191, R193, R194). Points in metrology-fault state are not compared. -/
def lockstep (s : State) (upsets : List Upset) : State :=
  match s.met.laneRun with
  | none => s
  | some f =>
    if s.met.compared then s
    else
      let pl := s.met.lanePlan
      let l := upsetsOf s upsets
      let s := s.mapMet fun m => { m with compared := true }
      let ps := points.filter fun p => (pointDef pl p).type != 0 && !faulted s p
      let miss := ps.filter (mismatch s l)
      let hold := l.filter (·.persistent)
      let prol := prolMismatch s l
      let pbad := prol && prolMismatch s hold
      let s := if prol then raiseAt (s.mapLs fun x => { x with prolmm := true }) 0x72 0xFF (some (if pbad then 2 else 1)) f else s
      let pc := if prol then costOf pl 128 else 0
      let r : Retry :=
        if pbad then ⟨0, pc, [], [], miss.map fun p => (p, 4)⟩
        else miss.foldl (retryPoint s hold) ⟨retryWindow - pc, pc, [], [], []⟩
      let s := forEach (points.filter fun p => l.any fun u => u.point == p)
        (fun s p => holdUpsets s (if r.tried.contains p then hold else l) p) s
      let s := s.mapMet fun m => { m with disagreed := r.bad, prolBad := pbad }
      let s := katAdvance s (costSum pl) (miss.isEmpty && !prol)
      let s := if r.tried.isEmpty then s
        else s.mapLs fun x => { x with rlPoint := r.tried.getLastD 0, rlPoints := r.tried.length, rlCyc := r.used }
      if r.agreed.isEmpty then s
      else
        let n := r.agreed.length
        let s := s.mapLs fun x => { x with rtc := satAdd x.rtc n, retry := true }
        injRetried (raiseAt s 0x70 (if n = 1 then r.agreed.headD 0 else 0xFF) (some (n : Nat)) f) r.agreed

/-- LOCKSTEP_COMPARE. -/
def execLockstepCompare (upsets : List Upset) (s : State) : Out := .next (if s.powered then lockstep s upsets else s)

/-! ## Applying the increments (06 R140; 08 R195; 16 R379, R380) -/

/-- Increments of the two lanes enter an accumulator: the accumulator left, and the whole quanta that pass as each half finds them, the
lane B adder's complemented (06 R140, 08 R200). -/
def accumulate (x : Pair 96) (a b : Int) : Pair 96 × (Int × Int) :=
  let t := x.add a b
  let n := asr t.v.toInt 48
  let m := asr t.n.toInt 48
  let na := if 1 ≤ n then n else 0
  let mb := if m ≤ -2 then m else -1
  (t.add (-(na * 2 ^ 48)) (compl (-(compl mb * 2 ^ 48))), (na, mb))

/-- The index of an interval quantity: 0x1, 0x2, 0x7, 0x8 (09 R222). -/
def mdQty (q : Nat) : Option Nat :=
  match q with
  | 1 => some 0
  | 2 => some 1
  | 7 => some 2
  | 8 => some 3
  | _ => none

def bumpAt (l : List Nat) (i n : Nat) : List Nat := l.mapIdx fun j x => if j = i then x + n else x

/-- Quanta of a quantity enter the interval of their frame: the one that closes at the boundary since, else the open one. -/
def ivEnergy (s : State) (p q n : Nat) : State :=
  match mdQty q with
  | none => s
  | some i =>
    let isP (d : BndDue) : Bool := match d with
      | .iv c => c.point == p
      | .set _ => false
    if s.bl.fin.any isP then
      s.mapBl fun b => { b with fin := (b.fin.foldl (fun (a : List BndDue × Bool) d =>
        match d with
        | .iv c => if c.point = p ∧ !a.2 then (a.1 ++ [.iv { c with e := bumpAt c.e i n }], true) else (a.1 ++ [d], a.2)
        | _ => (a.1 ++ [d], a.2)) ([], false)).1 }
    else
      let v := ivAt s p
      if v.isOpen then s.setIv p { v with e := bumpAt v.e i n } else s

/-- Whole quanta enter the billing register of the tariff in force for their frame, in both working copies; past 2^64 − 1 it
continues from 0 with event 0xAB (09 R212, R215). Each pair is checked after its update (08 R200). -/
def addQuanta (s : State) (p q : Nat) (n : Int × Int) : State :=
  if n = (0, -1) then s
  else
    let t := max 1 (tget (tariffOf s p) p s.bl.oldTar)
    let i := regIx p t q
    let old := tget (Pair.zero 64) i s.bl.w1
    let s := s.mapBl fun b => { b with w1 := tset i (Pair.add (tget (Pair.zero 64) i b.w1) n.1 n.2) b.w1,
                                       w2 := tset i (Pair.add (tget (Pair.zero 64) i b.w2) n.1 n.2) b.w2 }
    let s := if 2 ^ 64 ≤ old.v.toNat + n.1 then raise s 0xAB p (some ((min q 8 : Nat) : Int)) else s
    ivEnergy (checkWork s (.reg i)) p q n.1.toNat

/-- Where the energy of the lane frame goes (16 R371, R379, R380). -/
def billsIn (st : OpState) : Bool := st == .run || st == .calibrate
def recoversIn (st : OpState) : Bool := st == .test || st == .recovery

/-- Apply the increments of the two lanes for a quantity of a point: to its unverified pair in metrology-fault state, lane A's and its
complement (08 R195), to the recovery pair in TEST and RECOVERY, else to the verified accumulator (06 R140). -/
def applyInc (s : State) (p q : Nat) (a b : Int) : State :=
  let i := 16 * p + q
  if faulted s p || s.met.laneFlt.contains p then
    let r := accumulate (tget (Pair.zero 96) i s.ls.uvAcc) a (compl a)
    let s := s.mapLs fun l => { l with uvAcc := tset i r.1 l.uvAcc }
    let s := checkWork s (.uvAcc i)
    if r.2 = (0, -1) then s
    else checkWork (s.mapLs fun l => { l with uve := tset i (Pair.add (tget (Pair.zero 64) i l.uve) r.2.1 r.2.2) l.uve,
                                              uveW2 := tset i (Pair.add (tget (Pair.zero 64) i l.uveW2) r.2.1 r.2.2) l.uveW2 }) (.uve i)
  else if recoversIn s.met.laneSt then
    let r := accumulate (tget (Pair.zero 96) i s.bl.rcAcc) a b
    let s := checkWork (s.mapBl fun b => { b with rcAcc := tset i r.1 b.rcAcc }) (.rcAcc i)
    if r.2 = (0, -1) then s
    else checkWork (s.mapBl fun b => { b with rce := tset i (Pair.add (tget (Pair.zero 64) i b.rce) r.2.1 r.2.2) b.rce }) (.rce i)
  else
    let r := accumulate (tget (Pair.zero 96) i s.met.acc) a b
    addQuanta (checkWork (s.mapMet fun m => { m with acc := tset i r.1 m.acc }) (.acc i)) p q r.2

/-- The energy that IMPORTONLY bills in reverse: REVIMP of the last billed frame, and 0xAA (09 R213, R237). -/
def revImport (s : State) (p : Nat) : State :=
  let x := ptAt s p
  let n := tget 0 p s.bl.revRun
  let on := x.rev && billsIn s.met.laneSt && !faulted s p && !x.scalef && !x.withheld
  let s := s.mapBl fun b => { b with revimp := tset p on b.revimp, revRun := if on then tset p (n + 1) b.revRun else tdel p b.revRun }
  if on then (if n = 0 then raise s 0xAA p none else s)
  else if 0 < n then endSample s 0xAA p (n : Nat)
  else s

/-- The staged words of each lane enter its LS for the parts that agreed; a part that did not is put back to its committed state, the prologue
with the buses (08 R192). A part in metrology-fault state commits lane A's words and their complements. -/
def commitStage (s : State) : State :=
  let bad (part : Nat) : Bool := if part = 128 then s.met.prolBad else s.met.disagreed.any fun e => e.1 == part
  let words (t : Tab (List (Nat × Int))) : List (Nat × Nat × Int) :=
    (t.filter fun e => !bad e.1).flatMap fun e => e.2.reverse.map fun w => (e.1, w.1, w.2)
  let wa := words s.met.stage
  let flt (p : Nat) : Bool := s.met.laneFlt.contains p
  let wb := (words s.met.stageB).filter fun e => !flt e.1
  let wf := (wa.filter fun e => flt e.1).map fun e => (e.1, e.2.1, compl e.2.2)
  let enter (t : Tab Int) (l : List (Nat × Nat × Int)) : Tab Int := l.foldl (fun t e => tset e.2.1 e.2.2 t) t
  let s := s.mapMet fun m =>
    { m with laneA := { m.laneA with ls := enter m.laneA.ls wa }, laneB := { m.laneB with ls := enter m.laneB.ls (wb ++ wf) },
             stage := [], stageB := [], bus := if m.prolBad then m.baseBus else m.bus }
  forEach (s.met.disagreed.map (·.1)) (fun s p => s.setPt p { ptAt s p with seg := tget {} p s.met.base }) s

/-- The running frame lies at or past the W of a commit: the increments applied at the tick of W were the last (16 R384 step 2). -/
def pastW (s : State) : Bool := s.sup.commit == .due && decide (s.sup.commitW.toNat ≤ s.fnum)

/-- INCREMENT_APPLY and METROLOGY_FAULT_ENTRY at the tick that ends a lane frame. Energy of START, and after W, is not applied. -/
def applyFrame (s : State) : State :=
  match s.met.laneRun with
  | none => s
  | some f =>
    let s := commitStage (lockstep s [])
    let st := s.met.laneSt
    let s := s.mapMet fun m => { m with laneRun := none }
    let s := atFrame s f fun s => forEach s.met.disagreed (fun s e => faultEntry s e.1 e.2 f) s
    let s := match s.ls.injAct with
      | some w => if injMode w = 2 ∧ s.met.disagreed.contains (injPoint w, 1) then s.mapLs fun x => { x with injres := 2 } else s
      | none => s
    if !(billsIn st || recoversIn st) || pastW s then s
    else
      atFrame s f fun s =>
        let s := forEach s.met.incA (fun s e => applyInc s (e.1 / 16) (e.1 % 16) e.2 (tget (-1) e.1 s.met.incB)) s
        forEach (points.filter fun p => (pointDef s.met.lanePlan p).type != 0) revImport s

/-! ## Pulse outputs (06 R148, R149) -/

/-- The most pending pulses. -/
def maxPend : Int := 65535

/-- Add the increments of an output: the aperture of the first whole pulse's crossing in the frame that begins, and pulses beyond 65,535
discarded. -/
def applyPulse (f : Frame) (s : State) (o : Nat) : State :=
  let x := tget {} o s.met.pulse
  let u := s.met.lanePlan.pulses.getD o {}
  if u.point < 128 ∧ !faulted s u.point ∧ !s.met.laneFlt.contains u.point ∧ !pastW s ∧
      (billsIn s.met.laneSt || recoversIn s.met.laneSt) then
    let i := pincPair s o
    let before := x.res.v.toInt
    let r := x.res.add i.1 i.2
    let after := r.v.toInt
    let k := if before < 2 ^ 48 ∧ 2 ^ 48 ≤ after ∧ 0 < i.1 then
        48 * (s.tb.ticks + 1) + min 47 ((48 * (2 ^ 48 - before)) / i.1).toNat else x.crossAt
    let ex := after / 2 ^ 48 - maxPend
    if 0 < ex then
      let d := ex * 2 ^ 48
      let y := { x with res := r.add (-d) (compl (-d)), crossAt := k, lost := satAdd x.lost ex.toNat, ovr := true, overNow := true,
                        epis := x.epis + ex.toNat }
      let s := checkWork (s.mapMet fun m => { m with pulse := tset o y m.pulse }) (.res o)
      if x.overNow then s else raiseAt s 0x64 o none f
    else
      let s := s.mapMet fun m => { m with pulse := tset o { x with res := r, crossAt := k, overNow := false, epis := 0 } m.pulse }
      let s := checkWork s (.res o)
      if x.overNow then endSample s 0x64 o (x.epis : Nat) else s
  else s

/-- The pulse increments of the lane frame that ended. -/
def applyPulses (s : State) (f : Frame) : State := forEach (List.range 8) (applyPulse f) s

/-- WIDTH of an output in apertures (05 Table 5.10): ceil of µs over 1.302083 µs, 62.5 µs / 48. -/
def widthAp (us : Nat) : Nat := (us * 96 + 124) / 125

/-- The aperture at which the next pulse of an output starts: the crossing of the first whole pulse, or the first later one with the output
inactive for WIDTH apertures; not before the frame that runs (06 R149). -/
def pulseAt (s : State) (o : Nat) : Nat :=
  let x := tget {} o s.met.pulse
  let ready := match x.lastEnd with
    | some e => e + widthAp (s.plan.pulses.getD o {}).width
    | none => 0
  max (48 * s.tb.ticks) (max x.crossAt ready)

/-- A pulse is pending and the aperture of its start lies in the frame that runs: it starts (06 R149). -/
def execPulseStart (out : Nat) (s : State) : Out :=
  if !isOutput out then .fault .noSuchUnit
  else
    let x := tget {} out s.met.pulse
    let u := s.plan.pulses.getD out {}
    let k := pulseAt s out
    if u.point < 128 ∧ !x.scale ∧ !(ptAt s u.point).scalef ∧ !x.active ∧ 2 ^ 48 ≤ x.res.v.toInt ∧ !faulted s u.point ∧
        !s.pl.retire.contains out ∧ serving s ∧ s.sup.commit = .none ∧ k < 48 * (s.tb.ticks + 1) then
      let y := { x with active := true, cnt := (x.cnt + 1) % 2 ^ 32, endAt := k + widthAp u.width,
                        res := x.res.add (-(2 ^ 48)) (compl (-(2 ^ 48))) }
      .next (checkWork (s.mapMet fun m => { m with pulse := tset out y m.pulse }) (.res out))
    else .next s

/-- A started pulse ends after its WIDTH apertures. -/
def execPulseEnd (out : Nat) (s : State) : Out :=
  if !isOutput out then .fault .noSuchUnit
  else
    let x := tget {} out s.met.pulse
    if x.active ∧ x.endAt < 48 * (s.tb.ticks + 1) then
      .next (s.mapMet fun m => { m with pulse := tset out { x with active := false, lastEnd := some x.endAt } m.pulse })
    else .next s

end Sys2Proof.Machine
end

