-- ==== Sys2Proof/Machine/Link.lean ====
section
/-! DEFINITION. The Cobalt link engine's shared operations (15 R358 to R366): the send window of a port, routing by address, and
the records of kinds 0xA and 0xB. Port 0 is CU, ports 1 to 3 are CD0 to CD2. -/

namespace Sys2Proof.Machine

/-! ## CRC-32 of IEEE 802.3 -/

/-- One bit of the reflected CRC. -/
def crcBit (c : Word) : Word := if c.getLsbD 0 then (c >>> 1) ^^^ 0xEDB88320#32 else c >>> 1

def crcByte (c : Word) (b : Byte) : Word :=
  crcBit (crcBit (crcBit (crcBit (crcBit (crcBit (crcBit (crcBit (c ^^^ b.setWidth 32))))))))

def crc32 (l : List Byte) : Word := ~~~(l.foldl crcByte 0xFFFFFFFF#32)

/-! ## Ports and messages -/

def portAt (s : State) (p : Nat) : CbPort := tget {} p s.cb.ports

def State.setPort (s : State) (p : Nat) (x : CbPort) : State := s.mapCb fun c => { c with ports := tset p x c.ports }

/-- A port is UP. -/
def portUp (s : State) (p : Nat) : Bool := (portAt s p).st == 2

/-- Downstream ports. -/
def cdPorts : List Nat := [1, 2, 3]

/-- No upstream link: the device is the master or standalone (15 R363). -/
def noUpstream (s : State) : Bool := !portUp s 0

/-- Thermal step 3 holds the downstream messages other than PROBE-REPLY (16 R387). -/
def held (s : State) (p : Nat) (m : OutMsg) : Bool := decide (3 ≤ s.sup.tstep) && p != 0 && m.type != 0x11

/-- The 10-byte header of a message with a payload of so many bytes, and its CRC-32 over header and payload (15 R359). -/
def headerBytes (m : OutMsg) (len : Nat) : List Byte :=
  leBytes 2 m.dst ++ leBytes 2 m.src ++ leBytes 1 m.type ++ leBytes 1 0 ++ leBytes 1 m.hseq ++ leBytes 1 m.tag ++ leBytes 2 len
def messageCrc (m : OutMsg) (payload : List Byte) : Word := crc32 (headerBytes m payload.length ++ payload)

/-- Hand a message to a port: into the window of 4, else behind it (15 R360). A port that is not UP takes none. -/
def sendPort (s : State) (p : Nat) (m : OutMsg) : State :=
  let x := portAt s p
  if x.st ≠ 2 then s
  else if x.out.length < 4 && !held s p m then
    s.setPort p { x with out := x.out ++ [{ m with hseq := x.nextSeq, sends := 1 }], nextSeq := (x.nextSeq + 1) % 256 }
  else s.setPort p { x with wait := x.wait ++ [m] }

/-- A waiting message takes a free place of the window. -/
def fillWindow (x : CbPort) : CbPort :=
  match x.wait with
  | m :: t =>
    if x.out.length < 4 then
      { x with out := x.out ++ [{ m with hseq := x.nextSeq, sends := 1 }], nextSeq := (x.nextSeq + 1) % 256, wait := t }
    else x
  | [] => x

/-- Fill the free places of the window, unless thermal step 3 holds the port. -/
def refill (s : State) (p : Nat) : State :=
  if 3 ≤ s.sup.tstep ∧ p ≠ 0 then s
  else s.setPort p (fillWindow (fillWindow (fillWindow (fillWindow (portAt s p)))))

/-- Change `TBSTS.ROLE`, with its interrupt cause (Table 15.5). -/
def setRole (s : State) (r : Nat) : State :=
  if s.tb.role = r then s else (s.mapTb fun t => { t with role := r }).irq 14

/-- The range of addresses below a CD port (`CBRNG`); empty while lowest > highest. -/
def rangeOf (s : State) (p : Nat) : Nat × Nat := tget (0xFFFF, 0) (p - 1) s.cb.rng

/-- Where a message for an address goes: this device, a CD port whose range holds it, or CU. -/
inductive Hop where
  | self
  | port (p : Nat)
deriving DecidableEq, Repr

/-- This device's address; the chain master and a standalone device have 0x0000 (15 R362). -/
def ownAddr (s : State) : Nat := if noUpstream s then 0 else s.cb.addr

/-- The device has an address. -/
def hasAddr (s : State) : Bool := noUpstream s || s.cb.addrValid

def hopOf (s : State) (dst : Nat) : Hop :=
  if hasAddr s && dst == ownAddr s then .self
  else
    match cdPorts.find? fun p => decide ((rangeOf s p).1 ≤ dst) && decide (dst ≤ (rangeOf s p).2) with
    | some p => .port p
    | none => .port 0

/-- A record of 12 data bytes per entry after its first entry (15 Table 15.8). -/
def dataEntries (num kind : Nat) (f : Frame) (sub : Nat) : List Byte → Nat → List QEntry
  | _, 0 => []
  | l, k + 1 =>
    let w (i : Nat) : Word := word (leAt l (4 * i) 4)
    { tag := tagOf num kind f sub, w1 := w 0, w2 := w 1, w3 := w 2 } :: dataEntries num kind f (sub + 1) (l.drop 12) k

/-- The entries of a data part. -/
def dataCount (n : Nat) : Nat := (n + 11) / 12

/-- A kind 0xA record at the master, under requester number 3 (log 36). -/
def rspRecord (s : State) (src op tag addr status : Nat) (data : List Byte) : State :=
  let head : QEntry :=
    { tag := tagOf 3 0xA s.tb.frame 0, w1 := word (src % 65536 + op % 256 * 2 ^ 16 + tag % 256 * 2 ^ 24), w2 := word addr
      w3 := word (data.length + status * 2 ^ 16) }
  push s 0xA 3 (head :: dataEntries 3 0xA s.tb.frame 1 data (dataCount data.length))

/-- Send an RSP of this device to the source of a CMD; the master's own goes straight to its record. -/
def sendRsp (s : State) (h : CobaltHdr) (op addr status : Nat) (data : List Byte) : State :=
  match hopOf s h.src with
  | .self => rspRecord s (ownAddr s) op h.tag addr status data
  | .port p => sendPort s p { type := 2, dst := h.src, src := ownAddr s, tag := h.tag, op := op, addr := addr, status := status, data := data }

/-- The CMD in hand that carries an OP: its header and ADDR (R364). -/
def rxOf (s : State) (op : Nat) : Option (CobaltHdr × Nat) :=
  match s.cb.rx with
  | some (h, o, a) => if o = op then some (h, a) else none
  | none => none

/-- The CMD in hand is consumed. -/
def takeRx (s : State) : State := s.mapCb fun c => { c with rx := none }

/-- Answer a loader OP of the chain: 0x0, or 0xA with the loader code (Table 15.9). -/
def loaderAnswer (s : State) (h : Option CobaltHdr) (op addr : Nat) (code : Option Nat) : State :=
  match h, code with
  | none, _ => s
  | some h, none => sendRsp s h op addr 0 []
  | some h, some c => sendRsp s h op addr 0xA (leBytes 4 c)

/-- A kind 0xB record at the master (15 Table 15.10); its tag carries the frame of the sum (01 R13, 04 R101). -/
def aggRecord (s : State) (src aid flags pts : Nat) (f : Frame) (v : BitVec 64) : State :=
  let n := (~~~v).toNat
  let tag (i : Nat) := tagOf 3 0xB f i
  push s 0xB 3
    [{ tag := tag 0, w1 := word (src % 65536 + aid % 256 * 2 ^ 16 + flags % 256 * 2 ^ 24), w2 := wordOf f.toNat 0
       w3 := word (f.toNat / 2 ^ 32 + pts % 256 * 2 ^ 16) },
     { tag := tag 1, w1 := wordOf v.toNat 0, w2 := wordOf v.toNat 1, w3 := wordOf n 0 },
     { tag := tag 2, w1 := wordOf n 1 }]

end Sys2Proof.Machine
end

