-- ==== Sys2Proof/Machine/Sha256.lean ====
section
/-! DEFINITION. SHA-256, which the spec names for digests (05 R108, R110; 12 R293; 14 R328) without restating it; the
algorithm is that of FIPS 180-4 (PRESUMED, log 17), its constants taken from their definition there: fractional bits of roots of primes. -/

namespace Sys2Proof.Machine.Sha

/-! ## Constants -/

/-- The integer k-th root of n below 2^bits, over a first approximation, bit by bit from the highest. -/
def rootBits (k n : Nat) : Nat → Nat → Nat
  | 0, r => r
  | b + 1, r => rootBits k n b (if (r + 2 ^ b) ^ k ≤ n then r + 2 ^ b else r)

/-- The first 32 bits behind the point of the k-th root of p. -/
def rootWord (k p : Nat) : Word := BitVec.ofNat 32 (rootBits k (p * 2 ^ (32 * k)) 37 0)

/-- The first 64 primes: up to 311, no divisor from 2 to 17 but themselves. -/
def primes64 : List Nat := (List.range 312).filter fun n => decide (2 ≤ n) && (List.range 16).all fun i => n == i + 2 || n % (i + 2) != 0

/-- The constants of the 64 steps, and the words that a digest starts from. -/
def stepWords : List Word := primes64.map (rootWord 3)
def startWords : List Word := (primes64.take 8).map (rootWord 2)

/-! ## One block -/

/-- The sum without carry of the rotations of a word to the right. -/
def spin (x : Word) (ns : List Nat) : Word := ns.foldl (fun y n => y ^^^ x.rotateRight n) 0

/-- The schedule grows at its head: the word made of those 2, 7, 15 and 16 places back. -/
def grow (l : List Word) : List Word :=
  let back (n : Nat) : Word := l.getD (n - 1) 0
  (back 16 + back 7 + (spin (back 15) [7, 18] ^^^ (back 15 >>> 3)) + (spin (back 2) [17, 19] ^^^ (back 2 >>> 10))) :: l

/-- One step of the eight working words, with the sum of its constant and its schedule word. -/
def turn (v : List Word) (kw : Word) : List Word :=
  match v with
  | [p0, p1, p2, p3, q0, q1, q2, q3] =>
    let t := q3 + kw + spin q0 [6, 11, 25] + (q2 ^^^ (q0 &&& (q1 ^^^ q2)))
    let m := (p0 &&& p1) ||| (p2 &&& (p0 ||| p1))
    [t + m + spin p0 [2, 13, 22], p0, p1, p2, p3 + t, q0, q1, q2]
  | _ => v

/-- A big-endian number of bytes. -/
def beNat (l : List Byte) : Nat := l.foldl (fun a b => a * 256 + b.toNat) 0

/-- The first k big-endian words of a list of bytes, put before a schedule newest first. -/
def takeWords : Nat → List Byte → List Word → List Word
  | 0, _, acc => acc
  | k + 1, l, acc => takeWords k (l.drop 4) (BitVec.ofNat 32 (beNat (l.take 4)) :: acc)

/-- The words of a digest after one block of 64 bytes. -/
def absorb (v : List Word) (block : List Byte) : List Word :=
  let w := (Nat.repeat grow 48 (takeWords 16 block [])).reverse
  List.zipWith (· + ·) v ((List.zipWith (· + ·) stepWords w).foldl turn v)

/-! ## The digest -/

/-- Message, 0x80, zeros, and the bit length in 8 bytes, to a multiple of 64 bytes. -/
def padded (m : List Byte) : List Byte :=
  let n := m.length
  m ++ 0x80#8 :: List.replicate ((119 - n % 64) % 64) 0#8 ++ (leBytes 8 (8 * n)).reverse

/-- A number of blocks of 64 bytes, in order. -/
def absorbAll : Nat → List Byte → List Word → List Word
  | 0, _, v => v
  | k + 1, l, v => absorbAll k (l.drop 64) (absorb v (l.take 64))

/-- The digest as bytes, first byte first. -/
def digestBytes (m : List Byte) : List Byte :=
  (absorbAll ((m.length + 72) / 64) (padded m) startWords).flatMap fun w => (leBytes 4 w.toNat).reverse

/-- The digest as a number whose byte i is byte i of the digest (little-endian register order, 00 R6). -/
def digest (m : List Byte) : BitVec 256 := BitVec.ofNat 256 (leNat (digestBytes m))

end Sys2Proof.Machine.Sha
end

