-- ==== Sys2Proof/Machine/Trust.lean ====
section
/-! DEFINITION. Firmware, measurement and attestation (14): measurement registers and their log, the legal check value, firmware
loads, quotes, the user tag area and key loads. What a BOOT does with them, and the resets, stand with the modes. -/

namespace Sys2Proof.Machine

/-! ## Measurement (14 R328 to R330) -/

def digBytes (d : BitVec 256) : List Byte := leBytes 32 d.toNat

/-- SHA-256(MEASi ‖ d). -/
def extendOf (m d : BitVec 256) : BitVec 256 := Sha.digest (digBytes m ++ digBytes d)

/-- The value of a register after the entries of a list, from a value. -/
def replay (r : Nat) : List MLog → BitVec 256 → BitVec 256
  | [], v => v
  | e :: t, v => replay r t (if e.reg ≠ r then v else if e.kind = 6 then e.digest else extendOf v e.digest)

/-- The checkpoint of a register over the 64 oldest entries; none when they did not extend it. It takes the number and frame of
the last entry it replaces. -/
def checkpoint (l : List MLog) (r : Nat) : Option MLog :=
  ((l.filter fun e => e.reg == r).getLast?).map fun e => { lseq := e.lseq, reg := r, kind := 6, frame := e.frame, digest := replay r l 0 }

/-- Make room in a full log (R330). -/
def logRoom (t : Trust) : Trust :=
  if t.log.length < 256 then t
  else
    let cs := (List.range 7).filterMap (checkpoint (t.log.take 64))
    { t with log := cs ++ t.log.drop 64, ckpts := t.ckpts + cs.length, chkpt := true }

def measOf (t : Trust) (r : Nat) : BitVec 256 := tget 0 r t.meas

/-- Extend a measurement register and append the log entry. -/
def extendMeas (s : State) (reg kind : Nat) (d : BitVec 256) : State :=
  s.mapTr fun t =>
    let t := logRoom t
    { t with meas := tset reg (extendOf (measOf t reg) d) t.meas, lseq := t.lseq + 1,
             log := t.log ++ [{ lseq := t.lseq, reg := reg, kind := kind, frame := s.tb.frame, digest := d }] }

/-! ## Streams of a plan and the legal check value (05 R110, 14 R331) -/

/-- Types of the legal sections, ascending. -/
def legalTypes : List Nat := [1, 2, 3, 4, 5, 6, 7, 0xA, 0xB, 0xC]

def nonLegalTypes : List Nat := [8, 9, 0xD]

def sectBody (pl : PlanDef) (t : Nat) : List Byte := tget [] t pl.sects

def legalStream (pl : PlanDef) : List Byte :=
  if pl.safe then Config.safeLegal (sectBody pl 2) else legalTypes.flatMap (sectBody pl)

def nonLegalStream (pl : PlanDef) : List Byte := if pl.safe then Config.safeNonLegal else nonLegalTypes.flatMap (sectBody pl)

/-- Extend MEAS3 and MEAS4 with the streams of a plan. -/
def extendPlan (s : State) (kind : Nat) (pl : PlanDef) : State :=
  extendMeas (extendMeas s 3 kind (Sha.digest (legalStream pl))) 4 kind (Sha.digest (nonLegalStream pl))

/-! ## Firmware images (14 R333, Tables 14.4, 14.5) -/

def slotAt (s : State) (n : Nat) : FwSlot := tget {} n s.tr.slots

def State.setSlot (s : State) (n : Nat) (x : FwSlot) : State := s.mapTr fun t => { t with slots := tset n x t.slots }

/-- The bytes of a slot. -/
def imgOf (s : State) (n : Nat) : List Byte := if (slotAt s n).factory then Config.factoryImg (decide (2 ≤ n)) else (slotAt s n).img

def fwVersion (b : List Byte) : Nat := leAt b 8 4
def fwSvn (b : List Byte) : Nat := leAt b 0xC 4
def fwLdrLen (b : List Byte) : Nat := leAt b 0x10 4
def fwBodyLen (b : List Byte) : Nat := leAt b 0x14 4

/-- The signed region: bytes 0x00 to 0x40 + BODYLEN − 1. -/
def fwRegion (b : List Byte) : List Byte := b.take (0x40 + fwBodyLen b)

def fwLoader (b : List Byte) : List Byte := bytesAt b 0x40 (fwLdrLen b)

/-- The slot of a core: A (false) or B. -/
def fwSlotNo (app b : Bool) : Nat := (if app then 2 else 0) + (if b then 1 else 0)

def runningB (s : State) (app : Bool) : Bool := if app then s.tr.runA else s.tr.runL

/-- The slot a load of a core writes: the one not running. -/
def loadSlot (s : State) (app : Bool) : Nat := fwSlotNo app (!runningB s app)

/-- The image of a core that runs. -/
def runningImg (s : State) (app : Bool) : List Byte := imgOf s (fwSlotNo app (runningB s app))

/-- The enrolled customer-key hash of a core, as a number; 0 means none. -/
def enrolled (s : State) (app : Bool) : BitVec 256 :=
  BitVec.ofNat 256 (leNat (bytesOfWords ((List.range 8).map fun i => tget 0 i (if app then s.tr.ckhA else s.tr.ckhL))))

/-- The rollback counter of a core. -/
def svnOf (s : State) (app : Bool) : Nat := (if app then s.tr.svnA else s.tr.svnL).v.toNat

/-- The lengths of Table 14.4 hold for an image of so many bytes. -/
def fwLenOk (b : List Byte) (n : Nat) : Bool :=
  fwBodyLen b % 16 == 0 && decide (0x40 + fwBodyLen b + 64 ≤ 1048576) && n == 0x40 + fwBodyLen b + 64

/-- LDRLEN: a multiple of 16 within the body, 0 for an application image. -/
def fwLdrOk (b : List Byte) (app : Bool) : Bool :=
  fwLdrLen b % 16 == 0 && decide (fwLdrLen b ≤ fwBodyLen b) && (!app || fwLdrLen b == 0)

/-- The key KEYSEL names: root, or the enrolled customer key; none when there is no such key. -/
def fwKey (s : State) (b : List Byte) (app : Bool) : Option (Option (BitVec 256)) :=
  match leAt b 0x1C 1 with
  | 0 => some none
  | 1 => if enrolled s app = 0 then none else some (some (enrolled s app))
  | _ => none

/-- The first failing check of Table 14.5 up to Rollback, 0 when none fails. -/
def fwCheck (s : State) (b : List Byte) (n : Nat) (app : Bool) : Nat :=
  if leAt b 0 4 ≠ 0x57464450 ∨ leAt b 5 1 ≠ 1 ∨ leAt b 6 2 ≠ 0 ∨ !allZero (bytesAt b 0x1D 35) then 1
  else if !fwLenOk b n then 2
  else if leAt b 4 1 ≠ (if app then 1 else 0) ∨ !fwLdrOk b app then 3
  else
    match fwKey s b app with
    | none => 4
    | some k =>
      if !Config.sigOk k (Sha.digest (fwRegion b)) (bytesAt b (0x40 + fwBodyLen b) 64) then 5
      else if fwSvn b < svnOf s app then 6
      else 0

/-- Bins of 0xE8: format, key, signature, rollback, seal, lock, area full, disagreement. -/
def fwBin (code : Nat) : Nat :=
  if code ≤ 3 then 1 else if code ≤ 6 then code - 2 else code - 0x10 + 5

/-- Reject the loaded image. -/
def fwReject (s : State) (code : Nat) : State :=
  raise ((s.mapTr fun t => { t with fst := .rejected, fcode := code }).irq 5) 0xE8 0xFF (some (fwBin code : Nat))

/-- Requesters that load firmware (R334). -/
def fwReq (r : Requester) : Bool := r == .host || r == .app || r == .chain

/-- `TRFWCTL.BEGIN`. -/
def fwBegin (s : State) (req : Requester) (app : Bool) : State :=
  if !fwReq req then s
  else if s.tr.fst = .loading ∧ s.tr.fowner ≠ some req then s.mapTr fun t => { t with fwown := true }
  else
    let n := loadSlot s app
    (s.setSlot n { slotAt s n with img := [], factory := false }).mapTr fun t =>
      { t with fst := .loading, fcore := app, fcode := 0, fowner := some req, fptr := 0 }

def execTrfwctlBegin (req : Requester) (app : Bool) (s : State) : Out := .next (if serving s then fwBegin s req app else s)

/-- `TRFWDATA` by the owner during its load; bytes beyond 1 MiB are counted only. -/
def fwData (s : State) (req : Requester) (bs : List Byte) : State :=
  if s.tr.fst = .loading ∧ s.tr.fowner = some req then
    let n := loadSlot s s.tr.fcore
    let x := slotAt s n
    (s.setSlot n { x with img := (x.img ++ bs).take 1048576 }).mapTr fun t => { t with fptr := satAdd t.fptr bs.length }
  else s

def execTrfwdata (req : Requester) (bytes : List Byte) (s : State) : Out := .next (if serving s then fwData s req bytes else s)

/-- `TRFWCTL.VERIFY` by the owner. -/
def fwVerify (s : State) (req : Requester) : State :=
  if s.tr.fst = .loading ∧ s.tr.fowner = some req then
    match fwCheck s (imgOf s (loadSlot s s.tr.fcore)) s.tr.fptr s.tr.fcore with
    | 0 => (s.mapTr fun t => { t with fst := .valid, fcode := 0 }).irq 5
    | c => fwReject s c
  else s

def execTrfwctlVerify (req : Requester) (s : State) : Out := .next (if serving s then fwVerify s req else s)

/-- The acceptance of a VALID image: next boot slot, failed mark cleared, the 0x04 entry and 0xEA (R334). Its parts are
reserved. -/
def fwAccept (s : State) : State :=
  let app := s.tr.fcore
  let n := loadSlot s app
  let img := imgOf s n
  let b := !runningB s app
  let s := s.setSlot n { slotAt s n with failed := false }
  let s := s.mapTr fun t => { t with fst := .accepted, fcode := 0, nextL := if app then t.nextL else b,
                                     nextA := if app then b else t.nextA }
  let s := privDue s 0x04 (leBytes 1 (if app then 1 else 0) ++ leBytes 1 (if b then 1 else 0) ++ leBytes 2 0 ++
    leBytes 4 (fwVersion (runningImg s app)) ++ leBytes 4 (fwVersion img) ++ leBytes 4 (svnOf s app) ++ Sha.digestBytes img)
  raise (s.irq 5) 0xEA 0xFF (some (if app then 2 else 1))

/-- The authority checks of Table 14.5 before the double decision, 0 when they pass. -/
def fwAuth (s : State) : Nat :=
  if !s.tr.fcore && !s.sealOpen then 0x10
  else if s.tp.locked then 0x11
  else if privFull s.er then 0x12
  else 0

/-- `TRFWCTL.ACCEPT` by the owner of a VALID image: a legal image goes to the double decision (R334). -/
def fwAcceptReq (s : State) (req : Requester) : State :=
  if s.tr.fst = .valid ∧ s.tr.fowner = some req then
    match fwAuth s with
    | 0 =>
      let s := reserve s 2
      if s.tr.fcore then fwAccept s else pendDec s .firmware true
    | c => fwReject s c
  else s

def execAccept (req : Requester) (s : State) : Out := .next (if serving s then fwAcceptReq s req else s)

/-- `TRFWCTL.CONFIRM` from the core whose image runs: the rollback counter takes a higher SVN (R335 step 4). -/
def fwConfirm (s : State) (req : Requester) : State :=
  match req with
  | .legal =>
    if s.tr.confL then
      s.mapTr fun t => { t with confL := false, svnL := Pair.of (word (max (svnOf s false) (fwSvn (runningImg s false)))) }
    else s
  | .app =>
    if s.tr.confA then
      s.mapTr fun t => { t with confA := false, svnA := Pair.of (word (max (svnOf s true) (fwSvn (runningImg s true)))) }
    else s
  | _ => s

def execConfirm (req : Requester) (s : State) : Out := .next (if serving s then fwConfirm s req else s)

/-! ## Legal check value (R331) -/

/-- Bytes 0–3 of SHA-256(L ‖ P), byte 0 most significant; L is the recovery monitor's when no legal image runs. -/
def checkValue (l p : List Byte) : Word := BitVec.ofNat 32 (Sha.beNat ((Sha.digestBytes (l ++ p)).take 4))

def legalCheck (s : State) : State :=
  let l := if s.sup.st == .recovery && s.sup.rreason == 1 then Config.recoveryMonitor else fwRegion (runningImg s false)
  s.mapTr fun t => { t with lcv := Pair.of (checkValue l (legalStream s.plan)) }

/-! ## Attestation (R336, R337) -/

/-- The 32-byte nonce of a request: that of `TRNONCE` for the host; another's, cut or filled with 0 (log 138). -/
def nonceOf (s : State) (path : Requester) (n : List Byte) : List Byte :=
  if path = .host then bytesOfWords ((List.range 8).map fun i => tget 0 i s.tr.nonce) else (n ++ List.replicate 32 0).take 32

/-- Why a quote request is refused, 0 when it is taken. -/
def quoteRefusal (s : State) : Nat := if 4 ≤ s.tr.quotes.length then 1 else if !s.tr.keyok then 2 else 0

/-- Order of the requests of one tick: chain, host, DLMS. -/
def quoteRank : Requester → Nat
  | .chain => 0 | .host => 1 | _ => 2

/-- Put a request behind those of earlier ticks and those of its own tick that come before it (R336). -/
def quoteInsert (q : QuoteReq) : List QuoteReq → List QuoteReq
  | [] => [q]
  | a :: t => if a.tick = q.tick ∧ quoteRank q.path < quoteRank a.path then q :: a :: t else a :: quoteInsert q t

/-- A quote request by the host, the chain master or a DLMS client (path `.app`), with the chain header to answer. -/
def quoteAsk (s : State) (path : Requester) (nonce : List Byte) (hdr : Option CobaltHdr) : State :=
  match quoteRefusal s with
  | 0 => s.mapTr fun t =>
      { t with quotes := quoteInsert { path := path, nonce := nonceOf s path nonce, tick := s.tb.ticks, hdr := hdr } t.quotes }
  | r =>
    let s := if path = .host then (s.mapTr fun t => { t with qref := true, qreason := r }).irq 6 else s
    let s := match hdr with
      | none => s
      | some h => sendRsp s h 5 0 0xA (leBytes 4 r)
    raise s 0xEE 0xFF (some (r : Nat))

def execQuoteRequest (path : Requester) (nonce : List Byte) (s : State) : Out := .next (if serving s then quoteAsk s path nonce none else s)

/-- QFLG (Table 14.6). -/
def quoteFlags (s : State) : Nat :=
  flagAt s.sealOpen 0 + flagAt (!s.rtc.valid) 1 + flagAt (s.sup.st == .recovery) 2 + flagAt s.tp.keysErased 3 +
  flagAt s.tp.locked 4 + flagAt (sources.any fun n => (srcAt s n).sticky) 5 + flagAt (points.any fun p => faulted s p) 6

/-- Bytes 0x000–0x16F of a quote captured now (Table 14.6). -/
def quoteBody (s : State) (nonce : List Byte) : List Byte :=
  leBytes 4 0x544F5551 ++ leBytes 2 1 ++ leBytes 2 0x1B0 ++ leBytes 4 (s.tr.qcnt + 1) ++ leBytes 2 0xC1 ++
  leBytes 2 (quoteFlags s) ++ s.nv.fid ++ ((List.range 8).flatMap fun r => digBytes (measOf s.tr r)) ++ nonce ++
  leBytes 8 s.fnum ++ leBytes 8 (s.stamp 0).toNat ++ leBytes 4 s.tp.sealst.v.toNat ++ leBytes 4 s.tr.lcv.v.toNat ++
  leBytes 4 s.plan.planid.toNat ++ leBytes 4 s.plan.planrev.toNat ++ leBytes 4 (fwVersion (runningImg s false)) ++
  leBytes 4 (fwVersion (runningImg s true)) ++ leBytes 8 0

/-- Generation of the next quote starts: all fields are captured. -/
def execQuoteGenerate (s : State) : Out :=
  match s.tr.quoteRun, s.tr.quotes with
  | none, q :: rest =>
    .next (if serving s then s.mapTr fun t => { t with quotes := rest, quoteRun := some (q, quoteBody s q.nonce) } else s)
  | _, _ => .next s

/-- Bins of 0xED: host, chain, DLMS. -/
def quoteBin : Requester → Int
  | .host => 1 | .chain => 2 | _ => 3

/-- The running quote is signed and delivered. -/
def execQuoteComplete (s : State) : Out :=
  match s.tr.quoteRun with
  | none => .next s
  | some (q, b) =>
    if !serving s then .next s
    else
    let out := b ++ leBytes 64 (Config.sign b)
    let s := s.mapTr fun t =>
      { t with quoteRun := none, qcnt := t.qcnt + 1, quote := if q.path = .host then out else t.quote,
               qdone := t.qdone || q.path == .host, issued := if q.path = .host then t.issued else t.issued ++ [(q.path, out)] }
    let s := if q.path = .host then s.irq 6 else s
    let s := match q.hdr with
      | none => s
      | some h => sendRsp (sendRsp (sendRsp s h 5 0 0 (bytesAt out 0 180)) h 5 180 0 (bytesAt out 180 180)) h 5 360 0 (bytesAt out 360 72)
    .next (raise s 0xED 0xFF (some (quoteBin q.path)))

/-- `TRQSTS.BUSY`: the host's request waits or runs. -/
def quoteBusy (t : Trust) : Bool := t.quotes.any (·.path == .host) || t.quoteRun.any (·.1.path == .host)

/-! ## User tag (R339) -/

/-- The 512 bytes of the user tag area. -/
def tagBytes (t : Trust) : List Byte := bytesOfWords ((List.range 128).map fun i => tget 0 i t.tag)

/-- Base address of `TRTAG`. -/
def tagBase : Nat := 0x240800

/-- Apply a write transaction of the host or the application core whose bytes lie in the area. -/
def tagWrite (s : State) (req : Requester) (addr : Nat) (bs : List Byte) : State :=
  if (req = .host ∨ req = .app) ∧ tagBase ≤ addr ∧ addr + bs.length ≤ tagBase + 512 ∧ bs ≠ [] then
    let old := tagBytes s.tr
    let o := addr - tagBase
    let new := old.take o ++ bs ++ old.drop (o + bs.length)
    s.mapTr fun t => { t with tag := (wordsOf 128 new).mapIdx (fun i w => (i, w)), tagDue := t.tagDue ++ [(bs.length, s.tb.ticks)] }
  else s

def execUserTagWrite (req : Requester) (addr : Nat) (bytes : List Byte) (s : State) : Out := .next (if s.powered then tagWrite s req addr bytes else s)

/-- The tick after an applied tag write: digest, MEAS6 and 0xEC. -/
def execTagDigestUpdate (s : State) : Out :=
  match s.tr.tagDue with
  | [] => .next s
  | (n, k) :: rest =>
    if !s.powered || decide (s.tb.ticks ≤ k) then .next s
    else
    let d := Sha.digest (tagBytes s.tr)
    let s := s.mapTr fun t => { t with tagDue := rest, tagd := d }
    .next (raise (extendMeas s 6 5 d) 0xEC 0xFF (some (n : Nat)))

/-! ## Key RAM (R340) -/

/-- The blob in `TRKBUF`. -/
def keyBlob (t : Trust) : List Byte := bytesOfWords ((List.range 16).map fun i => tget 0 i t.kbuf)

/-- The key a load brings, or the bin of 0xEF: seal closed, no key-encryption key, tag, slot. -/
def keyLoad (s : State) (slot : Nat) (wrap : Bool) : Nat × List Byte :=
  if wrap then
    match s.tp.keys.find? fun e => e.1 == 1 with
    | none => (2, [])
    | some (_, kek) =>
      match Config.unwrap kek (keyBlob s.tr) with
      | none => (3, [])
      | some k => if slot = 1 ∨ 32 ≤ slot then (4, []) else (0, k)
  else if !s.sealOpen then (1, [])
  else if 32 ≤ slot then (4, [])
  else (0, keyBlob s.tr)

/-- `TRKCTL` with GO, from the host or the application core. -/
def keyGo (s : State) (req : Requester) (w : Word) : State :=
  if (req = .host ∨ req = .app) ∧ wbit w 31 then
    let slot := wbits w 5 0
    match keyLoad s slot (wbit w 8) with
    | (0, k) =>
      (s.mapTp fun t => { t with keys := tset slot k t.keys, keysErased := false }).mapTr fun t => { t with kres := 1, kreason := 0 }
    | (r, _) => raise (s.mapTr fun t => { t with kres := 2, kreason := r - 1, keyref := true }) 0xEF 0xFF (some (r : Nat))
  else s

def execTrkctlGo (req : Requester) (w : Word) (s : State) : Out := .next (if serving s then keyGo s req w else s)

end Sys2Proof.Machine
end

