-- ==== Sys2Proof/Machine/PlanImage.lean ====
section
/-! DEFINITION. Plan images (05): layout, sections in their parsed form, and the verification of Table 5.12 with codes 0x01 to
0x37 in their order. Everything here is a function of bytes. -/

namespace Sys2Proof.Machine

/-! ## Reading (R108, Tables 5.1, 5.2) -/

/-- Cut a byte string into so many records of a size. -/
def chunks (size : Nat) : Nat → List Byte → List (List Byte)
  | 0, _ => []
  | n + 1, l => l.take size :: chunks size n (l.drop size)

/-- Records of a body from an offset. -/
def records (body : List Byte) (off size n : Nat) : List (List Byte) := chunks size n (body.drop off)

/-- One byte of a record. -/
def byteAt (l : List Byte) (i : Nat) : Nat := (l.getD i 0).toNat

/-- A signed little-endian field of k bytes. -/
def leInt (l : List Byte) (off k : Nat) : Int := fromField (8 * k) (leAt l off k)

/-- An entry of the section table. -/
structure SectEnt where
  index : Nat
  type : Nat
  sflags : Nat
  sfmt : Nat
  off : Nat
  len : Nat
  rsv : Nat
  dig : List Byte
deriving DecidableEq, Repr

def sectEnt (i : Nat) (r : List Byte) : SectEnt :=
  { index := i, type := byteAt r 0, sflags := byteAt r 1, sfmt := leAt r 2 2, off := leAt r 4 4, len := leAt r 8 4,
    rsv := leAt r 0xC 4, dig := bytesAt r 0x10 32 }

def nsect (img : List Byte) : Nat := leAt img 0x0C 2

def sectTable (img : List Byte) : List SectEnt := (records img 0x40 48 (nsect img)).mapIdx sectEnt

def isPartial (img : List Byte) : Bool := bitN (leAt img 0x0E 2) 0

/-- The required sections of Table 5.3. -/
def requiredTypes : List Nat := [1, 2, 3, 4, 5, 6, 7, 8, 9, 0xA, 0xB, 0xC]

/-! ## Sections in their parsed form -/

/-- Table 5.4. -/
def parseChMap (r : List Byte) : ChMap :=
  { il1 := byteAt r 0, il2 := byteAt r 1, il3 := byteAt r 2, ineu := byteAt r 3, bus := bits (byteAt r 4) 2 0,
    l1 := bitN (byteAt r 4) 4, l2 := bitN (byteAt r 4) 5, l3 := bitN (byteAt r 4) 6, npe := bitN (byteAt r 4) 7 }

/-- Table 5.5. -/
def parseFe (r : List Byte) : FeSet :=
  { gain := bits (byteAt r 0) 2 0, sensor := bits (byteAt r 0) 6 4, prben := bitN (byteAt r 0) 7, injen := bitN (byteAt r 1) 0,
    exc := bitN (byteAt r 1) 1, magsns := bitN (byteAt r 1) 2, prblow := leAt r 4 2, prbhigh := leAt r 6 2, drgain := leAt r 8 2,
    drphs := leAt r 0xA 2, magthr := leAt r 0xC 4 }

/-- Sinc^k parameters: k, notch code, L. -/
def parseSinc (r : List Byte) : SincSet := { k := byteAt r 0, notch := byteAt r 1, l := leAt r 2 2 }

/-- Table 5.8. -/
def parsePoint (r : List Byte) : PointDef :=
  { type := byteAt r 0, qexp := leInt r 1 1, arith := bitN (byteAt r 2) 0, harm := bitN (byteAt r 2) 1,
    importOnly := bitN (byteAt r 2) 2, hz60 := bitN (byteAt r 2) 3, sliding := bitN (byteAt r 3) 0, mdcode := bits (byteAt r 3) 4 1,
    mdsub := byteAt r 4, ctnum := leAt r 8 4, ctden := leAt r 0xC 4, vtnum := leAt r 0x10 4, vtden := leAt r 0x14 4 }

/-- Table 5.10. -/
def parsePulse (r : List Byte) : PulseDef :=
  { point := byteAt r 0, qty := byteAt r 1, pol := bitN (byteAt r 2) 0, const := leAt r 4 4, width := leAt r 8 4 }

/-- A comparator record; LOW and HIGH are signed for streams. -/
def parseCmp (signed : Bool) (r : List Byte) : CmpDef :=
  { low := if signed then leInt r 0 4 else (leAt r 0 4 : Nat), high := if signed then leInt r 4 4 else (leAt r 4 4 : Nat),
    hyst := leAt r 8 4, dwell := leAt r 0xC 2, en := bitN (byteAt r 0xE) 0, src := bitN (byteAt r 0xE) 1, sel := byteAt r 0xF }

def parseRoute (r : List Byte) : RouteDef :=
  { depth := leAt r 0 2, reader := byteAt r 2, kinds := leAt r 4 2, lo := byteAt r 6, hi := byteAt r 7 }

def parseSeason (r : List Byte) : Season := ⟨byteAt r 0, byteAt r 1, byteAt r 2, byteAt r 3, byteAt r 4⟩

/-- The switches of a day profile: an hour of 0xFF ends the list. -/
def parseDay (r : List Byte) : List DaySwitch :=
  ((chunks 4 16 r).takeWhile fun w => byteAt w 0 != 0xFF).map fun w => ⟨byteAt w 0, byteAt w 1, byteAt w 2⟩

def parseSpecial (r : List Byte) : SpecialDay := ⟨leAt r 0 2, byteAt r 2, byteAt r 3, byteAt r 4⟩

/-- Table 9.3. -/
def parseDst (r : List Byte) : DstRule :=
  { year := leAt r 0 2, smon := byteAt r 2, sweek := byteAt r 3, swday := byteAt r 4, shour := byteAt r 5, smin := byteAt r 6,
    emon := byteAt r 7, eweek := byteAt r 8, ewday := byteAt r 9, ehour := byteAt r 0xA, emin := byteAt r 0xB, dofs := leAt r 0xC 2 }

/-- Counts of a calendar: seasons, weeks, days, special days, DST rules. -/
def calCounts (b : List Byte) : List Nat := (List.range 5).map (byteAt b)

/-- Record sizes in the same order. -/
def calSizes : List Nat := [8, 8, 64, 8, 16]

/-- The records of the k-th kind of a calendar. -/
def calRecords (b : List Byte) (k : Nat) : List (List Byte) :=
  records b (32 + (List.zipWith (· * ·) ((calCounts b).take k) calSizes).sum) (calSizes.getD k 8) ((calCounts b).getD k 0)

/-- 09 Tables 9.1 to 9.3. -/
def parseCalendar (b : List Byte) : Calendar :=
  { zone := leInt b 6 2, bcday := byteAt b 8, bchour := byteAt b 9, bcmin := byteAt b 0xA,
    seasons := (calRecords b 0).map parseSeason, weeks := (calRecords b 1).map fun r => (List.range 7).map (byteAt r),
    days := (calRecords b 2).map parseDay, special := (calRecords b 3).map parseSpecial, dst := (calRecords b 4).map parseDst }

/-- 13 R320. -/
def parseItem (r : List Byte) : ScrollItem :=
  { code := byteAt r 0, point := byteAt r 1, qty := byteAt r 2, tariff := byteAt r 3, rmask := leAt r 4 2,
    dec := bits (byteAt r 6) 2 0, mega := bitN (byteAt r 6) 3, lz := bitN (byteAt r 6) 4 }

/-- The four tap counts N1M, N2M, N1A, N2A. -/
def tapCounts (b : List Byte) : List Nat := [leAt b 0 2, leAt b 2 2, leAt b 4 2, leAt b 6 2]

/-- The k-th coefficient list of the decimator section. -/
def coefs (b : List Byte) (k : Nat) : List Int :=
  (records b (0x40 + 4 * ((tapCounts b).take k).sum) 4 ((tapCounts b).getD k 0)).map fun r => leInt r 0 4

/-- The plan of a set of section bodies. -/
def parsePlan (ss : Tab (List Byte)) (planid planrev : Word) : PlanDef :=
  let b (t : Nat) : List Byte := tget [] t ss
  let pl : PlanDef :=
    { sects := ss, planid := planid, planrev := planrev
      chmap := (records (b 1) 0 8 128).map parseChMap
      fe := (records (b 2) 0 16 168).map parseFe
      dirMask := BitVec.ofNat 64 (leAt (b 3) 0 8), oosMask := BitVec.ofNat 64 (leAt (b 3) 8 8)
      caplen := byteAt (b 3) 0x10, capdiv := byteAt (b 3) 0x11
      slots := (records (b 3) 0x20 4 8192).map fun r => word (leAt r 0 4)
      coefM1 := coefs (b 4) 0, coefM2 := coefs (b 4) 1, coefA1 := coefs (b 4) 2, coefA2 := coefs (b 4) 3
      startSinc := parseSinc (bytesAt (b 4) 8 4), testSinc := parseSinc (bytesAt (b 4) 0xC 4)
      cycdecl := leAt (b 5) 4 4, maxseg := leAt (b 5) 8 4
      segstart := (records (b 5) 0x10 2 128).map fun r => leAt r 0 2
      code := (records (b 5) 0x120 8 (leAt (b 5) 0 4)).map fun r => BitVec.ofNat 64 (leAt r 0 8)
      points := (records (b 6) 0 32 128).map parsePoint
      pulses := (records (b 7) 0 16 8).map parsePulse
      cmpStream := (records (b 8) 0 16 168).map (parseCmp true)
      cmpPoint := (records (b 8) 2688 16 1024).map (parseCmp false)
      routes := (records (b 9) 0 16 32).map parseRoute
      calendar := parseCalendar (b 0xA)
      scroll := ((records (b 0xB) 16 16 64).take (byteAt (b 0xB) 0)).map parseItem
      scrollMode := byteAt (b 0xB) 1, scrollDwell := leAt (b 0xB) 2 2
      defTariff := (List.range 128).map (byteAt (b 0xC)) }
  { pl with legalDigest := Sha.digest (legalStream pl), nonLegalDigest := Sha.digest (nonLegalStream pl) }

/-! ## Lengths (Table 5.3; R118) -/

def lengthOk (t : Nat) (b : List Byte) : Bool :=
  match t with
  | 1 => b.length == 1024
  | 2 => b.length == 2688
  | 3 => b.length == 32800
  | 4 => b.length == 64 + 4 * (tapCounts b).sum
  | 5 => b.length == 288 + 8 * leAt b 0 4 && decide (b.length ≤ 262144)
  | 6 => b.length == 4096
  | 7 => b.length == 128
  | 8 => b.length == 19072
  | 9 => b.length == 512
  | 0xA => b.length == 32 + (List.zipWith (· * ·) (calCounts b) calSizes).sum && decide (b.length ≤ 16384)
  | 0xB => b.length == 1040
  | 0xC => b.length == 128
  | _ => decide (b.length ≤ 4096)

/-! ## Field checks, code 0x0B (R112 to R116, R420, R421; 09 R216; 13 R320) -/

/-- All bytes of a record are 0. -/
def zeroRec (r : List Byte) : Bool := allZero r

def between (lo hi x : Nat) : Bool := decide (lo ≤ x) && decide (x ≤ hi)

def chMapFields (r : List Byte) : Bool :=
  ([0, 1, 2, 3].all fun i => between 0 127 (byteAt r i) || byteAt r i == 0xFF) && !bitN (byteAt r 4) 3 && zeroRec (r.drop 5)

def feFields (r : List Byte) : Bool :=
  let d := parseFe r
  if d.sensor = 0 then zeroRec r
  else
    !bitN (byteAt r 0) 3 && bits (byteAt r 1) 7 3 == 0 && leAt r 2 2 == 0 && (d.prben || (d.prblow == 0 && d.prbhigh == 0)) &&
    (if d.injen then d.drgain != 0 && d.drphs != 0 else d.drgain == 0 && d.drphs == 0) && (d.magsns || d.magthr == 0)

/-- A slot entry's own fields (Table 5.7). -/
def slotFields (w : Word) : Bool :=
  match slotUse w with
  | 1 => decide (slotCh w ≤ 167) && decide (slotAp w ≤ 47) && wbits w 13 0 == 0
  | 3 => false
  | _ => wbits w 29 0 == 0

def schedFields (b : List Byte) (slots : List Word) : Bool :=
  between 8 120 (byteAt b 0x10) && byteAt b 0x10 % 8 == 0 && decide (byteAt b 0x11 ≤ 8) && zeroRec (bytesAt b 0x12 14) &&
  slots.all slotFields

/-- A coefficient is sign-extended from 24 bits. -/
def coefOk (x : Int) : Bool := decide (-(2 ^ 23) ≤ x) && decide (x < 2 ^ 23)

def decFields (b : List Byte) (pl : PlanDef) : Bool :=
  zeroRec (bytesAt b 0x10 0x30) && (pl.startSinc.notch == 3 || pl.startSinc.l == 0) && (pl.testSinc.notch == 3 || pl.testSinc.l == 0) &&
  (pl.coefM1 ++ pl.coefM2 ++ pl.coefA1 ++ pl.coefA2).all coefOk

/-- Which fields an op uses (Table 6.19): D, A, B, the mask of M and the mask of IMM. -/
def opFields (op : Nat) : Bool × Bool × Bool × Nat × Nat :=
  match op with
  | 0x01 => (true, false, false, 0xF, 0xFF)
  | 0x02 => (true, false, false, 0, 0xFF)
  | 0x03 => (true, true, false, 0, 0xFF)
  | 0x04 => (true, true, false, 0, 0xFFFF)
  | 0x05 | 0x06 => (true, true, false, 0x3F, 0xFFFF)
  | 0x07 | 0x14 => (true, true, true, 0x3F, 0)
  | 0x08 | 0x09 | 0x0A | 0x0C | 0x0D | 0x13 => (true, true, true, 0, 0)
  | 0x0B | 0x12 => (true, true, false, 0, 0)
  | 0x0E => (true, true, false, 0, 7)
  | 0x0F => (false, true, false, 0, 7)
  | 0x10 => (false, true, false, 0x21, 0xFFFF)
  | 0x11 => (true, false, false, 1, 0xFFFF)
  | 0x15 => (true, true, false, 0, 0x7F03)
  | 0x16 => (true, false, false, 0, 0x7F03)
  | 0x17 => (false, true, false, 0, 0x7F0F)
  | 0x18 => (false, true, false, 0, 7)
  | 0x19 => (false, true, false, 0, 0xFF)
  | 0x1A => (false, false, false, 0, 0x3FFF)
  | _ => (false, false, false, 0, 0)

/-- Ranges of the used fields (Table 6.19). -/
def opRanges (w : BitVec 64) : Bool :=
  match liOp w with
  | 0x01 | 0x02 | 0x03 => decide (liImm w % 256 ≤ 167)
  | 0x08 => decide (liD w ≤ 15)
  | 0x0E => decide (liD w ≤ 62)
  | 0x12 => decide (liA w ≤ 15)
  | 0x15 | 0x16 => decide (liImm w % 4 ≤ 2)
  | 0x17 => between 1 12 (liImm w % 16)
  | _ => true

/-- An instruction whose OP Table 6.8 lists keeps R420; another is left to the walk. -/
def instrFields (w : BitVec 64) : Bool :=
  if 0x1A < liOp w then true
  else
    let f := opFields (liOp w)
    (f.1 || liD w == 0) && (f.2.1 || liA w == 0) && (f.2.2.1 || liB w == 0) && Nat.lor (liM w) f.2.2.2.1 == f.2.2.2.1 &&
    Nat.lor (liImm w) f.2.2.2.2 == f.2.2.2.2 && opRanges w

/-- The fields of a lane program. A SEGSTART that names no instruction of the program is out of range (0x0B); whether a point of type 0 has a
segment, or one in use none, is not checked: the rule names no check for either (DESIGN CHOICE, log 135). -/
def laneFields (b : List Byte) (pl : PlanDef) : Bool :=
  zeroRec (bytesAt b 0xC 4) && zeroRec (bytesAt b 0x110 16) &&
  (pl.segstart.all fun a => a == 0xFFFF || decide (a < pl.code.length)) && pl.code.all instrFields

def pointFields (r : List Byte) : Bool :=
  let d := parsePoint r
  if d.type = 0 then zeroRec r
  else
    decide (d.type ≤ 3) && decide (-6 ≤ d.qexp ∧ d.qexp ≤ 3) && bits (byteAt r 2) 7 4 == 0 && bits (byteAt r 3) 7 5 == 0 &&
    decide (d.mdcode ≤ 11) && (if d.sliding then between 1 15 d.mdsub else d.mdsub == 1) &&
    mdMinutes d.mdcode * 60 % max 1 d.mdsub == 0 && zeroRec (bytesAt r 5 3) && zeroRec (r.drop 0x18) &&
    [d.ctnum, d.ctden, d.vtnum, d.vtden].all (between 1 1000000)

def pulseFields (r : List Byte) : Bool :=
  let d := parsePulse r
  if d.point = 0xFF then zeroRec (r.drop 1)
  else
    decide (d.point ≤ 127) && between 1 12 d.qty && bits (byteAt r 2) 7 1 == 0 && byteAt r 3 == 0 && between 1 1000000 d.const &&
    between 2 100000 d.width && zeroRec (r.drop 0xC)

/-- A comparator record: `inUse` unless EN = 0 or its point is of type 0 (R421). -/
def cmpFields (stream inUse : Bool) (r : List Byte) : Bool :=
  if bitN (byteAt r 0xE) 0 && inUse then bits (byteAt r 0xE) 7 2 == 0 && (!stream || byteAt r 0xF == 0) else zeroRec r

def cmpSection (b : List Byte) (pl : PlanDef) : Bool :=
  ((records b 0 16 168).mapIdx fun c r => (feSet pl c).magsns || cmpFields true true r).all id &&
  ((records b 2688 16 1024).mapIdx fun i r => cmpFields false ((pointDef pl (i / 8)).type != 0) r).all id

def routeFields (r : List Byte) : Bool :=
  if leAt r 0 2 = 0 then zeroRec r
  else decide (byteAt r 2 ≤ 3) && byteAt r 3 == 0 && decide (leAt r 4 2 < 2 ^ 13) && zeroRec (r.drop 8)

def dateFields (m d : Nat) : Bool := between 1 12 m && between 1 31 d
def yearField (y : Nat) : Bool := y == 0 || between 2000 2199 y
def timeFields (h m : Nat) : Bool := decide (h ≤ 23) && decide (m ≤ 59)

/-- A DST offset: 15 to 120 minutes in multiples of 15. -/
def dofsField (d : Nat) : Bool := between 15 120 d && d % 15 == 0

def seasonFields (r : List Byte) : Bool :=
  let x := parseSeason r
  dateFields x.mon x.day && timeFields x.hour x.min && zeroRec (r.drop 5)

/-- The switches up to the end of the list keep their ranges; what stands after it is not in use, and is 0 or a further end mark: the rule
does not say which (DESIGN CHOICE, log 135). -/
def dayFields : List (List Byte) → Bool
  | [] => true
  | w :: t =>
    if byteAt w 0 = 0xFF then zeroRec (w.drop 1) && t.all fun w => zeroRec w || (byteAt w 0 == 0xFF && zeroRec (w.drop 1))
    else timeFields (byteAt w 0) (byteAt w 1) && between 1 8 (byteAt w 2) && byteAt w 3 == 0 && dayFields t

def specialFields (r : List Byte) : Bool :=
  let x := parseSpecial r
  yearField x.year && dateFields x.mon x.day && zeroRec (r.drop 5)

def dstFields (r : List Byte) : Bool :=
  let x := parseDst r
  yearField x.year && between 1 12 x.smon && between 1 5 x.sweek && between 1 7 x.swday && timeFields x.shour x.smin &&
  between 1 12 x.emon && between 1 5 x.eweek && between 1 7 x.ewday && timeFields x.ehour x.emin && dofsField x.dofs && leAt r 0xE 2 == 0

/-- 09 R216. -/
def calendarFields (b : List Byte) : Bool :=
  let n := calCounts b
  between 1 8 (n.getD 0 0) && between 1 8 (n.getD 1 0) && between 1 16 (n.getD 2 0) && decide (n.getD 3 0 ≤ 64) && decide (n.getD 4 0 ≤ 16) &&
  byteAt b 5 == 0 && decide (-720 ≤ leInt b 6 2 ∧ leInt b 6 2 ≤ 840) && decide (byteAt b 8 ≤ 28) && timeFields (byteAt b 9) (byteAt b 0xA) &&
  zeroRec (bytesAt b 0xB 21) && (calRecords b 0).all seasonFields && ((calRecords b 1).all fun r => byteAt r 7 == 0) &&
  ((calRecords b 2).all fun r => dayFields (chunks 4 16 r)) && (calRecords b 3).all specialFields && (calRecords b 4).all dstFields

/-- Quantities of maximum demand. -/
def isMdQty (q : Nat) : Bool := q == 1 || q == 2 || q == 7 || q == 8

/-- The fields an item code uses, in range, and the others 0 (13 R320). -/
def itemFields (r : List Byte) : Bool :=
  let x := parseItem r
  bits (byteAt r 6) 7 5 == 0 && zeroRec (r.drop 7) &&
  match x.code with
  | 1 => decide (x.point ≤ 127) && between 1 12 x.qty && between 1 8 x.tariff
  | 2 => decide (x.point ≤ 127) && between 1 12 x.qty && x.tariff == 0
  | 3 => decide (x.point ≤ 127) && isMdQty x.qty && between 1 8 x.tariff
  | 4 | 5 => decide (x.point ≤ 127) && isMdQty x.qty && between 1 8 x.tariff && byteAt r 6 == 0
  | 0 | 6 | 7 => x.point == 0 && x.qty == 0 && x.tariff == 0 && byteAt r 6 == 0
  | _ => false

/-- The header places of the scroll list (count, mode, dwell) are the model's reading (log 34). -/
def scrollFields (b : List Byte) : Bool :=
  let n := byteAt b 0
  between 1 64 n && decide (byteAt b 1 ≤ 2) && zeroRec (bytesAt b 4 12) &&
  ((records b 16 16 64).mapIdx fun i r => if i < n then itemFields r else zeroRec r).all id

/-- Default tariffs: none above 8, and 0 for a point of type 0 (09 R216, R421). -/
def tariffFields (b : List Byte) (pl : PlanDef) : Bool :=
  ((b.take 128).mapIdx fun p x => decide (x.toNat ≤ 8) && ((pointDef pl p).type != 0 || x.toNat == 0)).all id

/-- The field step over one section of the combined plan. -/
def sectionFields (pl : PlanDef) (t : Nat) : Bool :=
  let b := sectBody pl t
  match t with
  | 1 => (records b 0 8 128).all chMapFields
  | 2 => (records b 0 16 168).all feFields
  | 3 => schedFields b pl.slots
  | 4 => decFields b pl
  | 5 => laneFields b pl
  | 6 => (records b 0 32 128).all pointFields
  | 7 => (records b 0 16 8).all pulseFields
  | 8 => cmpSection b pl
  | 9 => (records b 0 16 32).all routeFields
  | 0xA => calendarFields b
  | 0xB => scrollFields b
  | 0xC => tariffFields b pl
  | _ => true

/-! ## Slot table, codes 0x11 to 0x19 (04 R80) -/

/-- A slot entry with its place. -/
structure SlotPos where
  slice : Nat
  slot : Nat
  w : Word
deriving DecidableEq, Repr

def slotPositions (pl : PlanDef) : List SlotPos := pl.slots.mapIdx fun i w => ⟨i / 128, i % 128, w⟩

def isDirect (pl : PlanDef) (n : Nat) : Bool := pl.dirMask.getLsbD n
def isOos (pl : PlanDef) (n : Nat) : Bool := pl.oosMask.getLsbD n

/-- The slot counted from the tick of the aperture's own frame. -/
def slotTime (e : SlotPos) : Nat := e.slot + if slotPrev e.w then 128 else 0

/-- The eligible start slots of an aperture (04 Table 4.3). -/
def eligible (k t : Nat) : Bool :=
  let lo := 8 * (k / 3) + 3 * (k % 3)
  between lo (lo + 4) t

/-- The slices that convert each aperture of a channel. -/
def slicesOf (l : List SlotPos) (c : Nat) : List (List Nat) :=
  let mine := l.filter fun e => slotCh e.w == c
  (List.range 48).map fun k => (mine.filter fun e => slotAp e.w == k).map (·.slice)

def distinct3 (a b c : Nat) : Bool := a != b && b != c && a != c

/-- Condition i of R80 holds of a plan, given its channel entries. -/
def slotCond (pl : PlanDef) (all chs : List SlotPos) (i : Nat) : Bool :=
  match i with
  | 1 => chs.all fun e => (decide (160 ≤ slotCh e.w)) == isDirect pl e.slice
  | 2 => channels.all fun c => (slicesOf chs c).all fun l => l.length == if (feSet pl c).sensor = 0 then 0 else 1
  | 3 => chs.all fun e => eligible (slotAp e.w) (slotTime e)
  | 4 => chs.all fun e => decide (slotTime e + (if isDirect pl e.slice then 1 else 0) ≤ 129)
  | 5 => (channels.filter fun c => (feSet pl c).sensor != 0).all fun c =>
      let l := (slicesOf chs c).map fun x => x.headD 64
      (List.range 48).all fun k => distinct3 (l.getD ((k + 47) % 48) 64) (l.getD k 64) (l.getD ((k + 1) % 48) 64)
  | 6 => ((List.range 160).filter fun c => (feSet pl c).sensor != 0).all fun c =>
      decide (16 ≤ ((slicesOf chs c).map fun x => x.headD 64).eraseDups.length)
  | 7 => (List.range 64).all fun n => isDirect pl n || isOos pl n ||
      decide (2 ≤ (all.filter fun e => e.slice == n && slotUse e.w == 2).length)
  | 8 => all.all fun e => slotUse e.w == 0 || !isOos pl e.slice
  | _ => all.all fun e => !slotYield e.w || (slotUse e.w == 1 && decide (160 ≤ slotCh e.w))

/-- The first condition that fails, as its code. -/
def slotCode (pl : PlanDef) : Option Nat :=
  let all := slotPositions pl
  let chs := all.filter fun e => slotUse e.w == 1
  ((List.range 9).find? fun i => !slotCond pl all chs (i + 1)).map (0x11 + ·)

/-! ## Budget, codes 0x23, 0x20 to 0x22 (R114, R115) -/

/-- The walk of one part: only listed ops, no REP in a body, no body past the part's end. -/
def walkPart : List (BitVec 64) → Nat → Bool
  | [], skip => skip == 0
  | w :: t, skip =>
    decide (liOp w ≤ 0x1A) &&
    (if liOp w = 0x1A then skip == 0 && walkPart t (repBody w) else walkPart t (skip - 1))

/-- The parts of a program: prologue and segments. -/
def planParts (pl : PlanDef) : List Nat := 128 :: (segStarts pl).map (·.1)

def walkOk (pl : PlanDef) : Bool := (planParts pl).all fun p => walkPart (partCode pl p) 0

/-- The sum over the parts of a program, each part once (two points may name one segment). -/
def cycleCount (pl : PlanDef) : Nat :=
  costOf pl 128 + (((segStarts pl).foldl (fun (l : List (Nat × Nat)) e => if l.any (·.2 == e.2) then l else e :: l) []).map
    fun e => costOf pl e.1).sum

/-- Prologue plus the longest segment. -/
def longestSeg (pl : PlanDef) : Nat := costOf pl 128 + ((segStarts pl).map fun e => costOf pl e.1).foldl max 0

def budgetCode (pl : PlanDef) : Option Nat :=
  if !walkOk pl then some 0x23
  else if pl.cycdecl ≠ cycleCount pl then some 0x20
  else if 28109 < cycleCount pl then some 0x21
  else if 1843 < longestSeg pl ∨ pl.maxseg ≠ longestSeg pl then some 0x22
  else none

/-! ## Structure, codes 0x30 to 0x37 -/

/-- Current channels of a map record. -/
def currents (c : ChMap) : List Nat := [c.il1, c.il2, c.il3, c.ineu].filter (· != 0xFF)

/-- Members present: every member channel has a sensor. -/
def membersPresent (pl : PlanDef) (p : Nat) : Bool :=
  (pointDef pl p).type == 0 ||
  ((members (chMap pl p)).all fun e => decide (e.2 < 168) && (feSet pl e.2).sensor != 0 && (decide (e.1 < 4)) == decide (e.2 < 128))

/-- R112 for one point. INEU is optional on a type 1 point (06 Table 6.9). -/
def membersFit (pl : PlanDef) (p : Nat) : Bool :=
  let c := chMap pl p
  let used (x : Nat) := x != 0xFF
  let volts := [c.l1, c.l2, c.l3].filter id
  match (pointDef pl p).type with
  | 0 => !used c.il1 && !used c.il2 && !used c.il3 && !used c.ineu && c.bus == 0 && volts.isEmpty && !c.npe
  | 1 => used c.il1 && !used c.il2 && !used c.il3 && volts.length == 1
  | 2 => used c.il1 && !used c.il2 && used c.il3 && !used c.ineu && volts.length == 3
  | _ => used c.il1 && used c.il2 && used c.il3 && used c.ineu && volts.length == 3

/-- A current channel belongs to at most one point, once. -/
def currentsOnce (pl : PlanDef) : Bool := decide ((points.flatMap fun p => currents (chMap pl p)).Nodup)

/-- GAIN, SENSOR, PRBEN, EXC and MAGSNS of a channel (03 Tables 3.4, 3.5). -/
def feCodes (c : Nat) (d : FeSet) : Bool :=
  (if c < 128 then decide (d.gain ≤ 5) && decide (d.sensor ≤ 3)
   else d.gain == 0 && (d.sensor == 0 || d.sensor == (if c < 160 then 4 else 5))) &&
  (!d.prben || (decide (c < 128) && d.sensor != 0)) && (!d.exc || decide (160 ≤ c)) &&
  (!d.magsns || (decide (160 ≤ c) && d.sensor == 5))

/-- 04 R94. -/
def cmpBand (d : CmpDef) : Bool := !d.en || (decide (d.low < d.high) && decide (2 * (d.hyst : Int) < d.high - d.low) && decide (1 ≤ d.dwell))

/-- Comparator bands; a point selector above 0xB names no RMS quantity (06 Table 6.12). -/
def cmpBands (pl : PlanDef) : Bool :=
  (pl.cmpStream.mapIdx fun c d => (feSet pl c).magsns || cmpBand d).all id && pl.cmpPoint.all fun d => cmpBand d && decide (d.sel ≤ 0xB)

/-- Kinds of a queue's class (04 Table 4.11). -/
def classKinds (q : Nat) : List Nat :=
  if q < 16 then [0, 1, 2, 3, 6] else if q < 24 then [4, 5, 8, 0xC] else [9, 0xA, 0xB, 0xC]

def routeOk (q : Nat) (r : RouteDef) : Bool :=
  r.depth == 0 || (between 16 8192 r.depth && r.depth % 16 == 0 && (List.range 13).all fun k => !bitN r.kinds k || (classKinds q).contains k)

/-- Two records route one kind and number. -/
def routesClash (a b : RouteDef) : Bool :=
  a.depth != 0 && b.depth != 0 && Nat.land a.kinds b.kinds != 0 && decide (max a.lo b.lo ≤ min a.hi b.hi)

/-- No earlier record clashes with a later one. -/
def noClash : List RouteDef → Bool
  | [] => true
  | r :: t => (t.all fun x => !routesClash r x) && noClash t

def routesOk (pl : PlanDef) : Bool :=
  (pl.routes.mapIdx routeOk).all id && decide ((pl.routes.map (·.depth)).sum ≤ 16384) && noClash pl.routes

/-- A list rises strictly. -/
def risesStrictly : List Nat → Bool
  | a :: b :: t => decide (a < b) && risesStrictly (b :: t)
  | _ => true

/-- A special day names a date that occurs. -/
def specialDate (x : SpecialDay) : Bool :=
  decide (x.day ≤ monthLen (if x.year = 0 then 2000 else x.year) x.mon)

/-- 09 R217 for the calendar. -/
def calendarOk (c : Calendar) : Bool :=
  (c.seasons.all fun x => decide (x.week < c.weeks.length) && decide (x.day ≤ monthLen 2001 x.mon)) &&
  (c.weeks.all fun w => w.all fun d => decide (d < c.days.length)) && (c.special.all fun x => decide (x.profile < c.days.length)) &&
  risesStrictly (c.seasons.map fun x => x.mon * 1000000 + x.day * 10000 + x.hour * 100 + x.min) &&
  (c.days.all fun d => (d.head?.any fun w => w.hour == 0 && w.min == 0) && risesStrictly (d.map fun w => w.hour * 60 + w.min)) &&
  decide ((c.special.map fun x => (x.year, x.mon, x.day)).Nodup) && decide ((c.dst.map (·.year)).Nodup) && c.special.all specialDate

/-- The default tariffs fit their points' types. -/
def tariffsOk (pl : PlanDef) : Bool :=
  points.all fun p => let t := pl.defTariff.getD p 0; if (pointDef pl p).type = 0 then t == 0 else between 1 8 t

/-- Tap counts of 04 Table 4.6 and the sinc^k parameters of R92. -/
def decimatorOk (pl : PlanDef) : Bool :=
  let sinc (x : SincSet) := between 1 5 x.k && decide (x.notch ≤ 3) && (x.notch != 3 || decide (48 ≤ x.l))
  between 6 96 pl.coefM1.length && between 8 1024 pl.coefM2.length && between 6 96 pl.coefA1.length && between 8 1024 pl.coefA2.length &&
  sinc pl.startSinc && sinc pl.testSinc

def structureCode (pl : PlanDef) : Option Nat :=
  if !points.all (membersPresent pl) then some 0x30
  else if !points.all (membersFit pl) || !currentsOnce pl then some 0x31
  else if !((pl.fe.mapIdx feCodes).all id) || decide (1 < (pl.fe.filter (·.magsns)).length) then some 0x32
  else if !cmpBands pl then some 0x33
  else if !routesOk pl then some 0x34
  else if (pl.scroll.filter fun x => x.code == 0).length ≠ 1 then some 0x35
  else if !calendarOk pl.calendar || !tariffsOk pl then some 0x36
  else if !decimatorOk pl then some 0x37
  else none

/-! ## Verification (R118, Table 5.12) -/

/-- The header checks, codes 0x01 to 0x04. -/
def headerCode (img : List Byte) (wptr : Nat) : Option Nat :=
  let n := leAt img 8 4
  if leAt img 0 4 ≠ 0x4E414C50 then some 1
  else if byteAt img 5 ≠ 1 ∨ leAt img 6 2 ≠ 0x40 then some 2
  else if n % 16 ≠ 0 ∨ n < 1024 ∨ 524288 < n ∨ n ≠ wptr then some 3
  else if 0xC1 < leAt img 0x18 2 then some 4
  else none

/-- An entry of a known type with the LEGAL flag of its type. -/
def entOk (e : SectEnt) : Bool := between 1 0xD e.type && bitN e.sflags 0 == legalTypes.contains e.type

/-- Placement (R108): sections in ascending type order at multiples of 16, without overlap, zeros elsewhere. `pos` is the end of
what stands before. -/
def placed (img : List Byte) : List SectEnt → Nat → Bool
  | [], pos => allZero (img.drop pos)
  | e :: t, pos =>
    e.off % 16 == 0 && decide (pos ≤ e.off) && decide (e.off + e.len ≤ img.length) && allZero (bytesAt img pos (e.off - pos)) &&
    placed img t (e.off + e.len)

/-- The table checks, codes 0x05 to 0x08. -/
def tableCode (img : List Byte) (hasActive : Bool) : Option Nat :=
  let tab := sectTable img
  let types := tab.map (·.type)
  if Sha.digestBytes (img.take 0x20 ++ bytesAt img 0x40 (48 * nsect img)) ≠ bytesAt img 0x20 32 then some 5
  else if !between 1 13 (nsect img) || !tab.all entOk || !decide (types.Nodup) then some 6
  else if !placed img (sortBy (fun a b => decide (a.type ≤ b.type)) tab) (0x40 + 48 * nsect img) then some 7
  else if (isPartial img && !hasActive) || (!isPartial img && !(requiredTypes.all types.contains)) then some 8
  else none

def entBody (img : List Byte) (e : SectEnt) : List Byte := bytesAt img e.off e.len

/-- Reserved fields of the header and the reserved PLANID. -/
def headerFields (img : List Byte) : Bool :=
  decide (leAt img 0x0E 2 ≤ 1) && leAt img 0x1A 2 == 0 && leAt img 0x10 4 != 0xFFFFFFFF

/-- Reserved fields of a table entry. -/
def entFields (e : SectEnt) : Bool := decide (e.sflags ≤ 1) && e.sfmt == 1 && e.rsv == 0

/-- The sections of an image, completed by the active plan's for a partial one (R109). -/
def combined (img : List Byte) (act : Option PlanDef) : Tab (List Byte) :=
  let own := (sectTable img).foldl (fun t e => tset e.type (entBody img e) t) ([] : Tab (List Byte))
  match isPartial img, act with
  | true, some a => a.sects.foldl (fun t e => if t.any (·.1 == e.1) then t else tset e.1 e.2 t) own
  | _, _ => own

/-- What a verification answers: a code and section index, or the plan and whether it is a legal change (R111). -/
inductive Verdict where
  | bad (code sect : Nat)
  | good (pl : PlanDef) (legal : Bool)
deriving DecidableEq, Repr

/-- The first section whose field step fails: the image's own by table index, a completed one as 0xF. -/
def fieldFail (tab : List SectEnt) (pl : PlanDef) : Option Nat :=
  match tab.find? fun e => !entFields e || !sectionFields pl e.type with
  | some e => some e.index
  | none => if (pl.sects.map (·.1)).any fun t => !sectionFields pl t then some 0xF else none

/-- Verification in the order of Table 5.12, stopping at the first failure. -/
def verifyImage (img : List Byte) (wptr : Nat) (act : Option PlanDef) : Verdict :=
  let tab := sectTable img
  match headerCode img wptr with
  | some c => .bad c 0xF
  | none =>
  match tableCode img act.isSome with
  | some c => .bad c 0xF
  | none =>
  match tab.find? fun e => !lengthOk e.type (entBody img e) with
  | some e => .bad 9 e.index
  | none =>
  match tab.find? fun e => Sha.digestBytes (entBody img e) != e.dig with
  | some e => .bad 0xA e.index
  | none =>
  if !headerFields img then .bad 0xB 0xF
  else
  let pl := parsePlan (combined img act) (word (leAt img 0x10 4)) (word (leAt img 0x14 4))
  match fieldFail tab pl with
  | some i => .bad 0xB i
  | none =>
  match slotCode pl with
  | some c => .bad c 0xF
  | none =>
  match budgetCode pl with
  | some c => .bad c 0xF
  | none =>
  match structureCode pl with
  | some c => .bad c 0xF
  | none => .good pl (act.all fun a => a.legalDigest != pl.legalDigest)

end Sys2Proof.Machine
end

