-- ==== Sys2Proof/Machine/PowerQuality.lean ====
section
/-! DEFINITION. Power quality, live verification and the capture sprint (07). -/

namespace Sys2Proof.Machine

def pqBus (s : State) (b : Nat) : PqBus := tget {} b s.pq.bus

def State.setPqBus (s : State) (b : Nat) (x : PqBus) : State := s.mapPq fun q => { q with bus := tset b x q.bus }

/-- Raise a power-quality event: `PQSTS.EVT` too (07 Table 7.9). -/
def pqRaise (s : State) (code chan : Nat) (v : Option Int) (f : Frame) : State :=
  raiseAt (s.mapPq fun q => { q with evt := true }) code chan v f

/-- The member channels of a plan, ascending. -/
def memberChs (pl : PlanDef) : List Nat :=
  channels.filter fun c => points.any fun p => (pointDef pl p).type != 0 && (members (chMap pl p)).any fun e => e.2 == c

/-- `FECFG.POINT`: the lowest-numbered point that uses a channel, with the channel's member number (R163). -/
def chPoint (pl : PlanDef) (c : Nat) : Option (Nat × Nat) :=
  points.findSome? fun p =>
    if (pointDef pl p).type = 0 then none else ((members (chMap pl p)).find? fun e => e.2 == c).map fun e => (p, e.1)

/-! ## Voltage events (07 R172 to R175, Table 7.3) -/

def udinOf (x : PqBus) : Nat := x.udin.toNat % 2 ^ 24

/-- An evaluated channel of a bus: channel index, point and RMS key. -/
structure PqChan where
  ch : Nat
  pt : Nat
  key : Nat
deriving DecidableEq, Repr

/-- The channels evaluated: members of the bus, or the differences of its lowest type 2 or 3 point with LL = 1, which carry the
index of their first member (R172). -/
def pqChans (pl : PlanDef) (b : Nat) (ll : Bool) : List PqChan :=
  if ll then
    match (busPts pl b).find? fun p => (pointDef pl p).type == 2 || (pointDef pl p).type == 3 with
    | some p => (List.range 3).map fun i => ⟨128 + 4 * b + i, p, 8 + i⟩
    | none => []
  else
    (List.range 3).filterMap fun i =>
      ((busPts pl b).find? fun p => (members (chMap pl p)).any fun e => e.1 == 4 + i).map fun p => ⟨128 + 4 * b + i, p, 4 + i⟩

/-- An RMS in 0.1 % of Udin, floor: V_FS × rms / 419,430,400,000 against Udin in 10 mV. -/
def levelOf (s : State) (pl : PlanDef) (p r udin : Nat) : Nat :=
  let f := fsqOf s (refCh pl p 4)
  if udin = 0 then 0 else r * f.1 * 2 ^ f.2 * 100000 / (udin * 419430400000 * 2 ^ 128)

/-- The three events of a bus: 0 dip, 1 swell, 2 interruption. -/
def evAt (x : PqBus) (k : Nat) : VEvent := match k with | 0 => x.dip | 1 => x.swl | _ => x.int
def PqBus.setEv (x : PqBus) (k : Nat) (e : VEvent) : PqBus :=
  match k with | 0 => { x with dip := e } | 1 => { x with swl := e } | _ => { x with int := e }

/-- A level meets the start, or allows the end, of an event. -/
def evStart (x : PqBus) (k l : Nat) : Bool :=
  match k with
  | 0 => decide (l < wbits x.thr1 15 0)
  | 1 => decide (wbits x.thr1 31 16 ≤ l)
  | _ => decide (l < wbits x.thr2 15 0)

def evClear (x : PqBus) (k l : Nat) : Bool :=
  let h := wbits x.thr2 31 16
  match k with
  | 0 => decide (wbits x.thr1 15 0 + h ≤ l)
  | 1 => decide (l + h < wbits x.thr1 31 16)
  | _ => decide (wbits x.thr2 15 0 + h ≤ l)

/-- Duration and extreme of an ended event enter its summary: the duration its histogram, the extreme XMIN and XMAX
(R174). -/
def evSummary (s : State) (code chan : Nat) (ms ext : Int) : State :=
  if s.powered then
    updKey (openKey s code chan true) code chan fun _ m =>
      let w := satV ext
      { m with xvalid := true, xmin := if m.xvalid then min m.xmin w else w, xmax := if m.xvalid then max m.xmax w else w,
               hist := match binIx code ms with
                 | some b => m.hist.mapIdx fun i n => if i + 1 = b then min (n + 1) 65535 else n
                 | none => m.hist }
  else s

/-- End a running event of a bus: `PQEXT`, `PQDUR` and its summary. -/
def evEnd (s : State) (b k : Nat) : State :=
  let x := pqBus s b
  let e := evAt x k
  let s := s.setPqBus b { x.setEv k {} with ext := min e.extreme 65535, dur := min e.ticks max32 }
  evSummary s (0x80 + k) e.chan (e.ticks / 16 : Nat) (e.extreme : Nat)

/-- Close the running events of a bus (R175). -/
def evCloseAll (s : State) (b : Nat) : State :=
  forEach [0, 1, 2] (fun s k => if (evAt (pqBus s b) k).on then evEnd s b k else s) s

/-- One event of a bus against a set of levels (Table 7.3). An interruption starts when all channels meet its condition and ends
when any allows it; the others the other way round. -/
def evStep (f : Frame) (b : Nat) (ls : List (Nat × Nat)) (s : State) (k : Nat) : State :=
  let x := pqBus s b
  let e := evAt x k
  let hit := ls.filter fun l => evStart x k l.2
  let lo := (ls.map (·.2)).min?.getD 0
  let hi := (ls.map (·.2)).max?.getD 0
  let ext := if k = 1 then hi else lo
  if e.on then
    let done := if k = 2 then ls.any fun l => evClear x k l.2 else ls.all fun l => evClear x k l.2
    let s := s.setPqBus b (x.setEv k { e with extreme := if done then e.extreme else if k = 1 then max e.extreme ext
                                                                                  else min e.extreme ext })
    if done then evEnd s b k else s
  else
    let start := if k = 2 then hit.length == ls.length && !ls.isEmpty else !hit.isEmpty
    if start then
      let ch := ((hit.map (·.1)).min?).getD 0
      let s := s.setPqBus b { x.setEv k { on := true, ticks := 0, extreme := ext, chan := ch } with flag := true }
      pqRaise s (0x80 + k) ch none f
    else s

/-- Evaluate a bus on a half-cycle refresh that closes in frame f (R172, R175). -/
def pqEvaluate (s : State) (pl : PlanDef) (b : Nat) (f : Frame) : State :=
  let x := pqBus s b
  let s := if x.rewrite then (evCloseAll s b) else s
  let s := s.setPqBus b { pqBus s b with rewrite := false }
  if udinOf x = 0 then s
  else
    let ls := (pqChans pl b (wbit x.udin 24)).map fun c =>
      (c.ch, levelOf s pl c.pt (tget {} c.key (ptAt s c.pt).seg.rms).rH (udinOf x))
    if ls.isEmpty then s else forEach [0, 1, 2] (evStep f b ls) s

/-! ## Harmonics (07 R163 to R168) -/

/-- G_1 is at least 1 % of the channel's rated rms input (R166). -/
def thdValid (s : State) (pl : PlanDef) (p c m g1 : Nat) : Bool :=
  let a := fsqOf s c
  let r := fsqOf s (refCh pl p m)
  decide ((419430400000 * a.1 * 2 ^ a.2) ^ 2 ≤ g1 ^ 2 * 2 * 4096 ^ 2 * 15625 * (r.1 * 2 ^ r.2) ^ 2)

/-- √(Σ G_h²) / G_1 for h = 2 … n, in 0.001 %, saturating (R166). -/
def thdOf (mag : List Nat) (n : Nat) : Nat :=
  let g1 := mag.headD 0
  let sum := (((mag.take n).drop 1).map fun g => g * g).sum
  if g1 = 0 then 0 else min (isqrt (sum * 10000000000 / (g1 * g1))) max32

/-! ### Spectra of a window (07 R163 to R165, R169) -/

/-- Full scale in SU (06 Table 6.1). -/
def fullSU : Nat := 419430400000

/-- A channel's F_ref and a point's, as a ratio: SU of point q in SU of point p for member m. -/
def suRatio (s : State) (pl : PlanDef) (q p m : Nat) : Nat × Nat :=
  let a := fsqOf s (refCh pl q m)
  let r := fsqOf s (refCh pl p m)
  (a.1 * 2 ^ a.2, r.1 * 2 ^ r.2)

/-- The rated rms input of a channel in HU of a point: 0.8 of its full scale over √2. -/
def ratedHU (s : State) (pl : PlanDef) (p m c : Nat) : Nat :=
  let a := fsqOf s c
  let r := fsqOf s (refCh pl p m)
  isqrt ((fullSU * a.1 * 2 ^ a.2) ^ 2 * 8 / (25 * (r.1 * 2 ^ r.2) ^ 2 * 4096 ^ 2))

/-- The frame whose lane frame has run its segments enters the windows of its buses: θ counted on through the window with the frame's weight,
and the conditioned sample of each member channel from the lowest point that uses it (R163). -/
def pqCollect (s : State) (pl : PlanDef) : State :=
  let fresh (b : Nat) : Bool := (busAt s b).winPos == (busAt s b).w10
  let ph := (busesUsed pl).map fun b =>
    let x := busAt s b
    let old := if fresh b then [] else tget [] b s.pq.winPh
    let th := match old with
      | e :: _ => e.1 + (x.theta + 2 ^ 32 - e.1 % 2 ^ 32) % 2 ^ 32
      | [] => x.theta
    (b, (th, x.w10) :: old)
  let u := channels.filterMap fun c => (chPoint pl c).map fun e =>
    let old := if fresh (chMap pl e.1).bus then [] else tget [] c s.pq.winU
    (c, (tget {} e.2 (ptAt s e.1).seg.rms).u :: old)
  s.mapPq fun q => { q with winPh := ph, winU := u }

/-- The samples of a channel in the window of a bus that closes with `post` of its last frame left to the next one. -/
def winSamples (s : State) (b c post : Nat) : List Weighed :=
  let l := (tget [] b s.pq.winPh).zip (tget [] c s.pq.winU)
  l.mapIdx fun i e => ⟨e.2, if i = 0 then e.1.2 - post else e.1.2, e.1.1⟩

/-- The next window begins with what is left of the frame. -/
def winNext (s : State) (b : Nat) (cs : List Nat) (post : Nat) : State :=
  s.mapPq fun q =>
    { q with winPh := tset b (if post = 0 then [] else ((tget [] b q.winPh).take 1).map fun e => (e.1 % 2 ^ 32, post)) q.winPh
             winU := cs.foldl (fun t c => tset c (if post = 0 then [] else (tget [] c t).take 1) t) q.winU }

/-- Bin j of a window of n cycles at a frequency; for a Rogowski member times tan(x) / x with x = π j f / (16,000 n) (R165). -/
def binOf (rog : Bool) (freq n : Nat) (l : List Weighed) (j : Nat) : Int × Int :=
  let x := binSum n j l
  if rog then
    let t := tanOver (j * freq * 65536 / (32000 * n))
    (x.1 * t.1 / t.2, x.2 * t.1 / t.2)
  else x

/-- Σ w of a window, in 2^-16 frame. -/
def weightOf (l : List Weighed) : Nat := (l.map (·.w)).sum

/-- The root of the sum of the squared rms bins of a group, in HU (R164, R165). -/
def groupHU (w : Nat) (bs : List (Int × Int)) : Nat :=
  if w = 0 then 0 else isqrt ((bs.map fun (x : Int × Int) => x.1 * x.1 + x.2 * x.2).sum.toNat * 2 / (w * w * 2 ^ 84))

/-- What Table 7.2 allows a magnitude to differ by: 1 % of the reading from 1 % of rated (voltage) or 3 % (current) on, else 0.01 % or
0.03 % of rated. -/
def magLimit (volt : Bool) (rated x : Nat) : Nat :=
  let k := if volt then 1 else 3
  if k * rated ≤ 100 * x then x / 100 else k * rated / 10000

/-- A published value: within a limit of the exact one where Table 7.2 gives one, else with the device's own difference (log 15). -/
def specVal (lim : Option Nat) (k i x : Nat) : Nat :=
  satU 32 (match lim with
    | some l => within x l (Config.specErr k i)
    | none => x + Config.specErr k i)

/-- A published phase: within 0.5°, 91 units, of the exact one where Table 7.2 says so. -/
def specPhase (near : Bool) (k i : Nat) (x : Int) : Int :=
  fromField 16 (toField 16 (if near then within x 91 (Config.specErr k i) else x + Config.specErr k i))

/-- Table 7.2 applies: the frequency is valid and the member at most 120 % of rated. -/
def specBound (s : State) (valid : Bool) (p m rated : Nat) : Bool :=
  valid && decide (10 * (tget {} m (ptAt s p).seg.rms).r10 ≤ 12 * 4096 * rated)

/-- The harmonic block of a channel for the window of a bus that closes in frame f, from the channel's samples and the reference channel's (R163
to R166, R168). -/
def harmBlock (s : State) (pl : PlanDef) (b c p m k : Nat) (f : Frame) (sync flag : Bool) (freq : Nat) (l ref : List Weighed) : Harm :=
  let old := tget {} c s.pq.harm
  let isRef := (busRef pl b).any fun r => memberCh pl r.2 r.1 == some c
  let n := winCycles (bus60 pl b)
  let w := weightOf l
  let bin := binOf (isRogowski pl c) freq n l
  let rated := ratedHU s pl p m c
  let ok := specBound s sync p m rated
  let volt := decide (3 < m)
  let val (i x : Nat) : Nat := specVal (if ok then some (magLimit volt rated x) else none) k i x
  let mag := (List.range 63).map fun h => val h (groupHU w [bin (n * (h + 1) - 1), bin (n * (h + 1)), bin (n * (h + 1) + 1)])
  let arg (x : Int × Int) : Int := angleOf x.1 x.2
  let a1 := arg (binSum n n ref)
  let tv := thdValid s pl p c m (mag.headD 0)
  { frame := f, valid := true, fsync := sync, flag := flag, tvalid := tv, n := n, wins := (old.wins + 1) % 256,
    thd40 := if tv then thdOf mag 40 else 0, thd63 := if tv then thdOf mag 63 else 0, freq := freq,
    mag := mag,
    phs := (List.range 63).map fun h =>
      if isRef ∧ h = 0 then 0
      else specPhase (ok && decide ((if volt then 1 else 3) * rated ≤ 100 * mag.getD h 0)) k (200 + h) (arg (bin (n * (h + 1))) - (h + 1) * a1)
    ih := (List.range 63).map fun i => val (100 + i) (groupHU w ((List.range (n - 3)).map fun j => bin (n * i + 2 + j))) }

/-- Σ over h of V_im I_re − V_re I_im, of element k of a point, in PU (R167); within one unit per order (log 15). -/
def harmReactive (s : State) (pl : PlanDef) (b p k post freq : Nat) (id : Nat) : Int :=
  let e := elemOf (pointDef pl p) (chMap pl p) k
  let n := winCycles (bus60 pl b)
  let bins (m : Nat) : Nat → Int × Int := fun h =>
    match memberCh pl p m with
    | none => (0, 0)
    | some c =>
      let r := suRatio s pl (((chPoint pl c).map (·.1)).getD p) p m
      let x := binOf (isRogowski pl c) freq n (winSamples s b c post) (n * h)
      (x.1 * r.1 / r.2, x.2 * r.1 / r.2)
  let v (h : Nat) : Int × Int :=
    let a := bins e.1 h
    match e.2.1 with
    | some m => let z := bins m h; (a.1 - z.1, a.2 - z.2)
    | none => a
  let w := weightOf (winSamples s b ((memberCh pl p e.1).getD 0xFF) post)
  let sum := ((List.range 62).map fun h => (v (h + 2)).2 * (bins e.2.2 (h + 2)).1 - (v (h + 2)).1 * (bins e.2.2 (h + 2)).2).sum
  if w = 0 then 0 else within (sum * 2 / (w * w * 2 ^ 94)) 62 (Config.specErr id 300)

/-- QH_k of an element is taken from a window: HRQSTALE ends with its duration (06 R134). -/
def takeQh (f : Frame) (s : State) (p : Nat) : State :=
  let x := ptAt s p
  let s := s.setPt p { x with hrqAge := 0, hrqstale := false, hrqTicks := 0 }
  if x.hrqstale then atFrame s f fun s => endSample s 0x66 p ((x.hrqTicks / 16000 : Nat) : Int) else s

/-- The blocks of the channels of a bus at a window close with `post` of the frame left to the next window, held for publication, and QH of
its elements (R167, R168). -/
def harmWindow (s : State) (pl : PlanDef) (b post : Nat) (f : Frame) (sync flag : Bool) (freq : Nat) : State :=
  let cs := channels.filterMap fun c => match chPoint pl c with
    | some (p, m) => if (chMap pl p).bus = b then some (c, p, m) else none
    | none => none
  let ref := winSamples s b (((busRef pl b).bind fun r => memberCh pl r.2 r.1).getD 0xFF) post
  let s := forEach cs (fun s e =>
    let h := harmBlock s pl b e.1 e.2.1 e.2.2 s.fresh f sync flag freq (winSamples s b e.1 post) ref
    (s.mapPq fun q => { q with harmDue := q.harmDue ++ [(e.1, h)] }).nextFresh) s
  let s := forEach (busPts pl b) (fun s p =>
    let s := forEach (List.range (elemCount (pointDef pl p))) (fun s k =>
      let x := ptAt s p
      (s.setPt p { x with e := tmod {} k (fun e => { e with qh := harmReactive s pl b p k post freq s.fresh }) x.e }).nextFresh) s
    takeQh f s p) s
  winNext s b (cs.map (·.1)) post

/-- The frames after which QH is stale: two windows without a new value (06 R134), each of at most 3,200 frames (log 126). -/
def hrqLimit : Nat := 6400

/-- A lane frame passes without a new QH of a point: after two windows it is taken as 0, with HRQSTALE and 0x66 (06 R134). -/
def hrqTick (f : Frame) (s : State) (p : Nat) : State :=
  let x := ptAt s p
  let n := min hrqLimit (x.hrqAge + 1)
  let s := s.setPt p { x with hrqAge := n, hrqTicks := if x.hrqstale then x.hrqTicks + 1 else 0 }
  if hrqLimit ≤ n ∧ !x.hrqstale then
    raiseAt (s.setPt p { ptAt s p with hrqstale := true, e := (ptAt s p).e.map fun e => (e.1, { e.2 with qh := 0 }) }) 0x66 p none f
  else s

/-- Publish the blocks computed in the lane frame that ends, keeping their band values (R168). -/
def harmPublish (s : State) : State :=
  let l := s.pq.harmDue
  s.mapPq fun q => { q with harmDue := [], harm := l.foldl (fun t e =>
    tmod {} e.1 (fun o => { e.2 with b29 := o.b29, bframe := o.bframe, bvalid := o.bvalid, bnd := o.bnd }) t) q.harm }

/-! ## The 2–9 kHz band (07 R170, R171) -/

/-- The four entries of a channel word. -/
def chWord (w : Word) : List Nat := [wbits w 7 0, wbits w 15 8, wbits w 23 16, wbits w 31 24]

def ofChs (l : List Nat) : Word := word (l.getD 0 0xFF + l.getD 1 0xFF * 2 ^ 8 + l.getD 2 0xFF * 2 ^ 16 + l.getD 3 0xFF * 2 ^ 24)

/-- The next up to 4 member channels above the last one, wrapping after the highest (R170). -/
def nextFour (ms : List Nat) (last : Nat) : List Nat :=
  let up := ms.filter fun c => decide (last < c)
  (up ++ ms.filter fun c => decide (c ≤ last)).take 4

/-- Choose the channels of the window that starts (R170). -/
def bandStart (s : State) : State :=
  let ms := memberChs s.plan
  let cur := chWord s.pq.bcur
  let last := ((cur.filter fun c => c != 0xFF).getLast?).getD 0xFF
  let w :=
    if !s.pq.banden then 0xFFFFFFFF
    else if s.pq.bandrr then ofChs (nextFour ms (if last = 0xFF then 1000 else last))
    else ofChs ((chWord s.pq.bsel).map fun c => if ms.contains c then c else 0xFF)
  s.mapPq fun q => { q with bcur := w, bandTicks := 0, bandHist := [] }

/-- The stage-1 outputs of the frame that ended enter the band window (R170). -/
def bandCollect (s : State) : State :=
  let enter (t : Tab (List Int)) (c : Nat) : Tab (List Int) := tmod [] c (fun l => (pathAt s c).y1.take 8 ++ l) t
  s.mapPq fun q => { q with bandHist := ((chWord q.bcur).filter fun c => c != 0xFF).foldl enter q.bandHist }

/-- The value of band b of a channel from its stage-1 outputs, newest first: the 5 Hz bins in [2,000 + 200 b, 2,200 + 200 b) Hz with a rectangular
window, scaled to HU with g; for a Rogowski member each bin divided by the response of an ideal integrator that equals the lane integrator's
at the fundamental (R171, log 15). -/
def bandExact (s : State) (pl : PlanDef) (c p m : Nat) (l : List Int) (b : Nat) : Nat :=
  let n := l.length
  let ws := l.reverse.mapIdx fun i u => (⟨u, 1, i * 2 ^ 32⟩ : Weighed)
  let code := partCode pl p
  let x := busAt s (chMap pl p).bus
  let f1 := if x.valid then x.nco else nominal (bus60 pl (chMap pl p).bus)
  let t := trigQ62 (f1 * 65536 / 32000)
  let bin (j : Nat) : Int :=
    let y := binSum 25600 j ws
    let q := y.1 * y.1 + y.2 * y.2
    if isRogowski pl c then
      let k := ((5 * j * 65536 * 2 ^ (rshIn c code false + 1) : Nat) : Int) * t.2
      q * (k * k) / ((f1 * t.1) * (f1 * t.1))
    else q
  let sum := ((List.range 40).map fun j => bin (400 + 40 * b + j)).sum.toNat
  if n = 0 then 0 else isqrt (sum * 2 * (gainOf s pl p m c).toNat ^ 2 / (n * n * 2 ^ 132))

/-- A band value as published (R169, Table 7.2): within 5 % from 0.1 % of rated on, else within 0.005 % of rated. -/
def bandValue (s : State) (pl : PlanDef) (c : Nat) (l : List Int) (k b : Nat) : Nat :=
  match chPoint pl c with
  | none => 0
  | some (p, m) =>
    let x := bandExact s pl c p m l b
    let rated := ratedHU s pl p m c
    let lim := if rated ≤ 1000 * x then x / 20 else rated / 20000
    specVal (if specBound s (busAt s (chMap pl p).bus).valid p m rated then some lim else none) k (400 + b) x

/-- A band window of 3,200 ticks has ended at this tick, one after the tick of its last frame (R170). -/
def execBandWindowEnd (s : State) : Out :=
  if s.pq.bandTicks < 3200 then .next s
  else
    let cs := (chWord s.pq.bcur).filter fun c => c != 0xFF
    let s := if cs.isEmpty then s
      else s.mapPq fun q => { q with bandDue := some { chans := cs, frame := s.tb.frame - 1, ticks := 1, hist := s.pq.bandHist } }
    .next (bandStart s)

/-- Publish the band values of a window 1,600 ticks after its last tick (R171). -/
def execBandPublish (s : State) : Out :=
  match s.pq.bandDue with
  | none => .next s
  | some d =>
    if d.ticks < 1600 then .next s
    else
      let s := s.mapPq fun q => { q with bandDue := none }
      .next (forEach (d.chans.filter fun c => (memberChs s.plan).contains c) (fun s c =>
        let v := (List.range 35).map fun b => bandValue s s.plan c (tget [] c d.hist) s.fresh b
        let t := min (isqrt ((v.map fun x => x * x).sum)) max32
        (s.mapPq fun q => { q with harm := tmod {} c (fun h =>
            { h with bnd := v, b29 := t, bframe := d.frame, bvalid := true }) q.harm }).nextFresh) s)

/-! ## Aggregation and histograms (07 R177, R178) -/

/-- Add a window of a bus that closes to its aggregates (R176, R177). -/
def pqWindow (s : State) (pl : PlanDef) (b : Nat) (flagged : Bool) : State :=
  let x := pqBus s b
  if udinOf x = 0 then s
  else
    let cs := pqChans pl b (wbit x.udin 24)
    let u2 := ((busPts pl b).find? fun p => (pointDef pl p).type == 2 || (pointDef pl p).type == 3).map fun p => (ptAt s p).u2
    let thd (c : PqChan) : Option Nat := if c.key < 8 then
        (s.pq.harmDue.find? fun e => e.1 == c.ch).bind fun e => if e.2.tvalid then some e.2.thd40 else none
      else none
    s.setPqBus b
      { x with aggV := cs.foldl (fun t c => tmod 0 c.key (· + (tget {} c.key (ptAt s c.pt).seg.rms).r10 ^ 2) t) x.aggV
               aggT := cs.foldl (fun t c => match thd c with | some v => tmod 0 c.key (· + v ^ 2) t | none => t) x.aggT
               aggTn := cs.foldl (fun t c => if (thd c).isSome then tmod 0 c.key (· + 1) t else t) x.aggTn
               aggU := x.aggU + (u2.getD 0) ^ 2, aggN := x.aggN + 1, flg := x.flg || flagged, flgS := x.flgS || flagged }

/-- The bin of a value by its lower-inclusive edges (Table 7.4). -/
def histBin (edges : List Int) (v : Int) : Nat := (edges.filter fun e => decide (e ≤ v)).length

def bumpHist (s : State) (b j i : Nat) : State :=
  let x := pqBus s b
  s.setPqBus b { x with hist := tmod 0 (8 * j + i) (fun n => satAdd n 1) x.hist }

/-- The voltage, THD and unbalance of an unflagged 10-minute interval (R178). -/
def tenMinute (s : State) (pl : PlanDef) (b : Nat) : State :=
  let x := pqBus s b
  let cs := pqChans pl b (wbit x.udin 24)
  let s := forEach cs (fun s c =>
    let v := levelOf s pl c.pt (isqrt (tget 0 c.key x.aggV / x.aggN)) (udinOf x)
    let s := bumpHist s b 0 (histBin [850, 900, 950, 1000, 1050, 1100, 1150] (v : Nat))
    let n := tget 0 c.key x.aggTn
    if n = 0 then s
    else
      let t := isqrt (tget 0 c.key x.aggT / n)
      let s := bumpHist s b 1 (histBin [1000, 2000, 3000, 4000, 5000, 6000, 8000] (t : Nat))
      if 8000 < t then pqRaise s 0x83 c.ch (some (t : Nat)) s.tb.frame else s) s
  if (busPts pl b).any fun p => (pointDef pl p).type == 2 || (pointDef pl p).type == 3 then
    let u := isqrt (x.aggU / x.aggN)
    let s := bumpHist s b 2 (histBin [500, 1000, 1500, 2000, 2500, 3000, 4000] (u : Nat))
    let ch := ((busRef pl b).bind fun r => memberCh pl r.2 r.1).getD 0xFF
    if 2000 < u then pqRaise s 0x84 ch (some (u : Nat)) s.tb.frame else s
  else s

/-- Close the running 10-minute interval of a bus; `flagged` by a clock set too (R177, R178). -/
def close10m (s : State) (b : Nat) (flagged : Bool) : State :=
  let x := pqBus s b
  if udinOf x = 0 then s
  else
    let s :=
      if x.flg || flagged then s.setPqBus b { x with flg10 := satAdd x.flg10 1 }
      else if x.aggN = 0 then s
      else tenMinute s s.plan b
    let y := pqBus s b
    s.setPqBus b { y with aggV := [], aggT := [], aggTn := [], aggU := 0, aggN := 0, flg := y.dip.on || y.swl.on || y.int.on }

/-- Close the running 10-second interval of a bus. -/
def close10s (s : State) (b : Nat) (flagged : Bool) : State :=
  let x := pqBus s b
  if udinOf x = 0 then s
  else
    let span := x.last10s - x.first10s.getD 0
    let s :=
      if x.flgS || flagged then s.setPqBus b { x with flg10s := satAdd x.flg10s 1 }
      else if x.cyc10s = 0 ∨ span = 0 then s
      else
        let nom := nominal (bus60 s.plan b)
        let f : Nat := x.cyc10s * 16000 * 2 ^ 32 / span
        bumpHist s b 3 (histBin [-2000, -1000, -500, 0, 500, 1000, 2000] (((f : Int) - nom) * 100000 / nom))
    let y := pqBus s b
    s.setPqBus b { y with pos10s := 0, first10s := none, last10s := 0, cyc10s := 0, flgS := y.dip.on || y.swl.on || y.int.on }

/-- The intervals that hold a UTC second begin (R177). -/
def pqIntervals (s : State) (sec : Nat) : State :=
  s.mapPq fun q => { q with agg10m := 0, agg10s := 0, num10m := sec / 600, num10s := sec / 10 }

/-- The running interval has reached its end: with a valid clock the tick has taken a UTC second of another interval, else its ticks since
the last boundary have passed (R177, 02 R38). -/
def pqIntervalDue (s : State) (tenMin : Bool) : Bool :=
  if s.rtc.valid then
    if tenMin then s.rtc.lastValid / 600 != s.pq.num10m else s.rtc.lastValid / 10 != s.pq.num10s
  else if tenMin then decide (9600000 ≤ s.pq.agg10m) else decide (160000 ≤ s.pq.agg10s)

/-- An aggregation interval ends (R177). -/
def execPqIntervalEnd (tenMin : Bool) (s : State) : Out :=
  if !pqIntervalDue s tenMin then .next s
  else
    let s := s.mapPq fun q => if tenMin then { q with agg10m := 0, num10m := s.rtc.lastValid / 600 }
      else { q with agg10s := 0, num10s := s.rtc.lastValid / 10 }
    .next (forEach buses (fun s b => if tenMin then close10m s b false else close10s s b false) s)

/-- A clock set closes the running intervals and flags them; the next ones end at the first boundary after the new time (R177). -/
def pqClockSet (s : State) : State :=
  forEach buses (fun s b => close10s (close10m s b true) b true) (pqIntervals s s.rtc.sec)

/-- A write of 1 to `PQCTL.HCLR`: the clear comes at the next tick (R178). -/
def execHclr (s : State) : Out := .next (if serving s then s.mapPq fun q => { q with hclr := true } else s)

/-- The tick's part of power quality: event and interval clocks, crossings of the 10-second intervals, and a requested clear. -/
def pqTick (s : State) : State :=
  let runs := !(s.sup.st == .start || s.sup.st == .boot || s.sup.st == .recovery)
  let s := if runs then bandCollect s else s
  let s := s.mapPq fun q => { q with agg10m := q.agg10m + 1, agg10s := q.agg10s + 1,
                                     bandTicks := if runs then q.bandTicks + 1 else q.bandTicks,
                                     bandDue := q.bandDue.map fun d => { d with ticks := d.ticks + 1 },
                                     next := q.next - 1 }
  let s := forEach buses (fun s b =>
    let x := pqBus s b
    let t (e : VEvent) : VEvent := if e.on then { e with ticks := e.ticks + 1 } else e
    s.setPqBus b { x with dip := t x.dip, swl := t x.swl, int := t x.int }) s
  let s := forEach (buses.filter fun b => udinOf (pqBus s b) != 0) (fun s b =>
    let x := pqBus s b
    let x := match (busAt s b).crossUp with
      | some pos => match x.first10s with
        | none => { x with first10s := some (x.pos10s + pos), last10s := x.pos10s + pos }
        | some _ => { x with last10s := x.pos10s + pos, cyc10s := x.cyc10s + 1 }
      | none => x
    s.setPqBus b { x with pos10s := x.pos10s + fullW }) s
  if s.pq.hclr then
    s.mapPq fun q => { q with hclr := false, bus := q.bus.map fun e => (e.1, { e.2 with hist := [], flg10 := 0, flg10s := 0 }) }
  else s

/-! ## Live verification (07 R180 to R183) -/

def liveAt (s : State) (c : Nat) : Live := tget {} c s.pq.live

def State.setLive (s : State) (c : Nat) (x : Live) : State := s.mapPq fun q => { q with live := tset c x q.live }

/-- `LVSTS.STATE`: 0 no baseline, 1 OK, 2 drift declared. -/
def liveState (x : Live) : Nat := if x.gdrift || x.pdrift then 2 else if x.base then 1 else 0

/-- CHG follows a change of STATE. -/
def liveChg (a b : Live) : Live := { b with chg := b.chg || liveState a != liveState b }

/-- Clear the baseline of a channel; a declared drift ends without 0x8A (R182, R183). -/
def clearBase (s : State) (c : Nat) : State :=
  let x := liveAt s c
  let y := { x with base := false, gbase := 0, pbase := 0, gdrift := false, pdrift := false, gRun := 0, pRun := 0, gOk := 0,
                    pOk := 0, gTicks := 0, pTicks := 0, baseWait := decide (0 < x.ticks) }
  s.setLive c (liveChg x y)

/-- The injection runs on a channel in RUN, CALIBRATE and TEST (R179, R180). -/
def liveRuns (s : State) (c : Nat) : Bool :=
  decide (c < 160) && (feSet s.plan c).injen && (s.sup.st == .run || s.sup.st == .calibrate || s.sup.st == .test)

/-- |Δ| in thousandths of a limit. -/
def driftRatio (d : Int) (lim : Nat) : Int := if lim = 0 then 2147483647 else (d.natAbs * 1000 / lim : Nat)

/-- DRIFT_DECLARE for one quantity: runs with and without drift, event at declaration and end (R183). -/
def driftStep (s : State) (c : Nat) (phase : Bool) : State :=
  let x := liveAt s c
  let fs := feSet s.plan c
  let lim := if phase then fs.drphs * 10 else fs.drgain * 100
  let d := if phase then x.phs - x.pbase else x.gain - x.gbase
  let out := decide (lim < d.natAbs)
  let run := if out then (if phase then x.pRun else x.gRun) + 1 else 0
  let ok := if out then 0 else (if phase then x.pOk else x.gOk) + 1
  let was := if phase then x.pdrift else x.gdrift
  let ticks := if phase then x.pTicks else x.gTicks
  let now := if was then !decide (2 ≤ ok) else decide (2 ≤ run)
  let tk := if now && was then ticks else 0
  let y := if phase then { x with pRun := run, pOk := ok, pdrift := now, pTicks := tk }
    else { x with gRun := run, gOk := ok, gdrift := now, gTicks := tk }
  let s := s.setLive c y
  if now && !was then pqRaise s (if phase then 0x89 else 0x88) c (some (driftRatio d lim)) x.frame
  else if was && !now then pqRaise s 0x8A c (some ((ticks / 16000 : Nat) : Int)) x.frame
  else s

/-- A correlation window of a channel ends with its fitted gain and phase; `noisy` when the estimator's noise bound exceeds its
limits (R180 to R183; log 143). -/
def execLiveWindowEnd (ch : Nat) (gain phs : Int) (noisy : Bool) (s : State) : Out :=
  if !isLiveChannel ch then .fault .noSuchUnit
  else
    let x := liveAt s ch
    if !liveRuns s ch || x.ticks < 163840 then .next s
    else
      let x0 := x
      let x := { x with ticks := 0, ovl := 0, frame := s.tb.frame - 1, baseWait := false }
      if noisy || 1638 < x0.ovl then
        let s := s.setLive ch { x with inval := true, invRun := x.invRun + 1, gRun := 0, pRun := 0, gOk := 0, pOk := 0 }
        .next (if 0 < x.win ∧ !x.inval then pqRaise s 0x8B ch none x.frame else s)
      else
        let y := { x with gain := satS 32 gain, phs := satS 32 phs, win := satAdd x.win 1, inval := false, invRun := 0 }
        let y := if !x.base ∧ !x0.baseWait then { y with base := true, gbase := y.gain, pbase := y.phs } else y
        let s := s.setLive ch y
        let s := if x.inval ∧ 0 < x.win then endSample s 0x8B ch (x.invRun : Nat) else s
        let s := if x.base then driftStep (driftStep s ch false) ch true else s
        .next (s.setLive ch (liveChg x0 (liveAt s ch)))

/-- Steps of a channel's injection generator, one per aperture (R179). -/
def injSteps : Nat → Nat → Nat
  | 0, x => x
  | n + 1, x => injSteps n (Config.injectStep x % 2 ^ 31)

/-- The tick's part of live verification: the generators' apertures, window length, overloaded frames, drift durations. -/
def liveTick (s : State) : State :=
  let s := forEach ((List.range 160).filter fun c => (feSet s.plan c).injen) (fun s c =>
    s.mapPq fun q => { q with seeds := tmod 0 c (injSteps 48) q.seeds }) s
  forEach ((List.range 160).filter (liveRuns s)) (fun s c =>
    let x := liveAt s c
    s.setLive c { x with ticks := x.ticks + 1, ovl := if (feAt s c).ovlnow then x.ovl + 1 else x.ovl,
                         gTicks := if x.gdrift then x.gTicks + 1 else 0, pTicks := if x.pdrift then x.pTicks + 1 else 0 }) s

/-! ## The capture sprint (07 R185 to R187) -/

/-- The channels listed in `SPCH0`–`SPCH3`. -/
def sprintChs (s : State) : List Nat := (s.pq.spch.flatMap chWord).filter fun c => c != 0xFF

/-- Start frame written. -/
def sprintFrameOf (s : State) : Frame := BitVec.ofNat 48 (s.pq.sfh.toNat * 2 ^ 32 + s.pq.sfl.toNat)

/-- The refusal code of a GO, 0 when it is accepted (Table 7.7). A running sprint refuses first. -/
def goCode (s : State) : Nat :=
  let cs := sprintChs s
  let sf := sprintFrameOf s
  if s.pq.st == .waiting || s.pq.st == .capturing then 7
  else if 0 < s.pq.next then 1
  else if 2 ≤ s.sup.tstep then 2
  else if s.pq.len = 0 ∨ 8 < s.pq.shift then 3
  else if !cs.isEmpty && decide (4194304 / (72 * cs.length) < s.pq.len) then 3
  else if cs.isEmpty || !cs.Nodup || cs.any fun c => decide (167 < c) then 4
  else if !(s.sup.st == .run || s.sup.st == .calibrate || s.sup.st == .test) then 5
  else if sf ≠ 0 ∧ (sf.toNat < s.fnum + 2 ∨ s.fnum + 2 ^ 31 < sf.toNat) then 6
  else 0

/-- A GO of the sprint. -/
def sprintGo (s : State) : State :=
  match goCode s with
  | 0 =>
    let n := s.pq.buf.length
    s.mapPq fun q => { q with st := .waiting, buf := [], lost := satAdd q.lost n, lostrd := q.lostrd || decide (0 < n),
                              rCh := sprintChs s, rShift := q.shift, rLen := q.len, rDone := 0, abort := false, goAt := s.tb.ticks }
  | k => s.mapPq fun q => { q with ref := true, rcode := k }

def execGo (_req : Requester) (s : State) : Out := .next (if serving s then sprintGo s else s)

/-- A waiting sprint starts at aperture 0 of its start frame, or, when none is named, of the frame of the first tick after GO (R185). -/
def execSprintStart (s : State) : Out :=
  let sf := sprintFrameOf s
  if s.pq.st == .waiting && (if sf == 0 then decide (s.pq.goAt < s.tb.ticks) else decide (sf.toNat ≤ s.fnum)) && !s.pq.abort then
    .next (s.mapPq fun q => { q with st := .capturing, saf := s.tb.frame, next := 32000, rDone := 0 })
  else .next s

/-- The 12-bit code of a sample (R186); −2048 marks a substituted one. -/
def sprintCode (shift : Nat) (v : Sample) : Int := if v.sub then -2048 else clampI (-2047) 2047 (rndDiv v.y (2 ^ shift))

/-- The entries of one frame of a channel, its header first in the sprint's first frame (R186, Table 7.6). -/
def sprintEntries (s : State) (c : Nat) : List QEntry :=
  let q := s.pq
  let codes := (frameSamples (pathAt s c)).map (sprintCode q.rShift)
  let hdr : List QEntry := if q.rDone = 0 then
      [{ tag := tagOf c 7 s.tb.frame 0xF, w1 := word q.saf.toNat
         w2 := word (q.saf.toNat / 2 ^ 32 + q.rShift * 2 ^ 16 + q.rCh.length * 2 ^ 20), w3 := word (q.rLen % 2 ^ 16) }] else []
  hdr ++ (List.range 6).map fun g =>
    let n := pack12 ((codes.drop (8 * g)).take 8)
    { tag := tagOf c 7 s.tb.frame g, w1 := wordOf n 0, w2 := wordOf n 1, w3 := wordOf n 2 }

/-- The frame that ends, in a running sprint: its entries become readable. -/
def sprintTick (s : State) : State :=
  if s.pq.st == .capturing && decide (s.pq.rDone < s.pq.rLen) then
    let es := s.pq.rCh.flatMap (sprintEntries s)
    s.mapPq fun q => { q with buf := q.buf ++ es, rDone := q.rDone + 1 }
  else s

/-- End a sprint, whole or truncated (R187). -/
def endSprint (s : State) (trunc : Bool) : State :=
  let n := s.pq.rCh.length
  let s := (s.mapPq fun q => { q with st := if q.buf.isEmpty then .idle else .unread, done := true, trunc := q.trunc || trunc,
                                      abort := false }).irq 7
  pqRaise s 0x8C 0xFF (some (if trunc then 17 else (n : Nat))) s.tb.frame

/-- A sprint ends after its length, or at the tick after an ABORT. -/
def execSprintEnd (s : State) : Out :=
  let running := serving s && (s.pq.st == .waiting || s.pq.st == .capturing)
  if running && s.pq.abort && decide (s.pq.abortAt < s.tb.ticks) then .next (endSprint s true)
  else if running && s.pq.st == .capturing && decide (s.pq.rLen ≤ s.pq.rDone) then .next (endSprint s false)
  else .next s

/-- A write of 1 to `SPCTL.ABORT`. -/
def sprintAbort (s : State) : State :=
  if s.pq.st == .waiting || s.pq.st == .capturing then s.mapPq fun q => { q with abort := true, abortAt := if q.abort then q.abortAt else s.tb.ticks }
  else s

def execAbort (s : State) : Out := .next (if serving s then sprintAbort s else s)

/-- The next sprint entry leaves the buffer. -/
def popSprint (s : State) : State :=
  s.mapPq fun q => { q with buf := q.buf.drop 1,
                            st := if q.st == .unread && decide (q.buf.length ≤ 1) then .idle else q.st }

/-- A completed read of `SPRD0` returns and removes the next entry. -/
def execSprd0 (_req : Requester) (s : State) : Out :=
  .next (if serving s then (popSprint s).mapHp fun h => { h with data := entryWords (s.pq.buf.headD noEntry) } else s)

end Sys2Proof.Machine
end

