-- ==== Sys2Proof/Machine/Windows.lean ====
section
/-! DEFINITION. The close of a 10/12-cycle or half-cycle window (06 R142 to R147): RMS, frequency, means, power factor and
unbalance, gates, point comparators, voltage events, and the metering-tamper evaluation (11 R277). -/

namespace Sys2Proof.Machine

/-- The frame the running lane frame computes. -/
def laneF (s : State) : Frame := s.met.laneRun.getD s.tb.frame

/-! ## RMS results -/

/-- Part of the frame at the close that belongs to the next window. -/
def postW (pos : Nat) : Nat := fullW - pos

/-- Close the 10/12-cycle sum of an RMS quantity (R146). -/
def rmsClose10 (pos sumW : Nat) (r : Rms) : Rms :=
  let post := postW pos * r.u.natAbs ^ 2
  { r with r10 := if sumW = 0 then 0 else isqrt ((r.s10 - post) / sumW), s10 := post }

/-- Close a half: the earlier half and this one make a window once both are there. -/
def rmsCloseH (pos sumW : Nat) (res : Bool) (r : Rms) : Rms :=
  let post := postW pos * r.u.natAbs ^ 2
  let cl := r.sH - post
  { r with rH := if res then (if sumW = 0 then 0 else isqrt ((r.pH + cl) / sumW)) else r.rH, pH := cl, sH := post }

def mapRms (f : Rms → Rms) (s : State) (p : Nat) : State :=
  let x := ptAt s p
  s.setPt p { x with seg := { x.seg with rms := x.seg.rms.map fun e => (e.1, f e.2) } }

def rmsAt (s : State) (p k : Nat) : Rms := tget {} k (ptAt s p).seg.rms

/-! ## Point comparators (04 R94, R95; 06 Table 6.12) -/

/-- The RMS quantity a selector names for a point type; none reads 0. -/
def selKey (d : PointDef) (c : ChMap) (sel : Nat) : Option Nat :=
  match sel with
  | 0 => some 0
  | 1 => if d.type = 2 then some 2 else if d.type = 3 then some 1 else none
  | 2 => if d.type = 3 then some 2 else none
  | 3 => some 3
  | 4 => if d.type = 1 then some (refVolt c) else if d.type = 3 then some 4 else none
  | 5 => if d.type = 3 then some 5 else none
  | 6 => if d.type = 3 then some 6 else none
  | 7 => some 7
  | 8 | 9 | 10 => some sel
  | 11 => some 12
  | _ => none

/-- Evaluate the comparators of a point on a half-cycle (`full` = false) or 10/12-cycle result. -/
def pointCompare (pl : PlanDef) (full : Bool) (f : Frame) (s : State) (p : Nat) : State :=
  atFrame s f fun s =>
    forEach (List.range 8) (fun s j =>
      let d := pl.cmpPoint.getD (8 * p + j) {}
      if d.en && d.src == full then
        let r := match selKey (pointDef pl p) (chMap pl p) d.sel with
          | some k => if full then (rmsAt s p k).r10 else (rmsAt s p k).rH
          | none => 0
        cmpStep s true (8 * p + j) d (r / 2 ^ 16 : Nat)
      else s) s

/-! ## Gates (06 R136) -/

/-- RMS at or above 0.015 %, and below 0.0125 %, of the rated rms input. -/
def gateOpens (r : Nat) : Bool := decide (900 * fullSU ^ 2 ≤ r ^ 2 * 125000000000)
def gateCloses (r : Nat) : Bool := decide (r ^ 2 * 125000000000 < 625 * fullSU ^ 2)

/-- Set the gates of a point from its half-cycle current results; 0x62 when one opens after all were closed (R137). A result of members that
an activation has replaced sets no gate: they start closed (R136). -/
def gateUpdate (pl : PlanDef) (f : Frame) (s : State) (p : Nat) : State :=
  if chMap pl p != chMap s.plan p || (pointDef pl p).type != (pointDef s.plan p).type then s
  else
  let d := pointDef pl p
  let x := ptAt s p
  let g (k : Nat) : Bool :=
    let r := (rmsAt s p (elemOf d (chMap pl p) k).2.2).rH
    if (tget {} k x.e).gate then !gateCloses r else gateOpens r
  let any0 := (List.range (elemCount d)).any fun k => (tget {} k x.e).gate
  let e := (List.range (elemCount d)).foldl (fun t k => tmod {} k (fun y => { y with gate := g k }) t) x.e
  let any1 := (List.range (elemCount d)).any g
  let s := s.setPt p { x with e := e, noLoad := if any1 then 0 else x.noLoad }
  if any1 && !any0 then raiseAt s 0x62 p (some ((x.noLoad / 16000 : Nat) : Int)) f else s

/-! ## Half-cycle close -/

/-- Close the half-cycle window of a bus that is due (R145). -/
def closeHalf (s : State) (b : Nat) : State :=
  let x := busAt s b
  match x.dueH with
  | none => s
  | some pos =>
    let pl := s.met.lanePlan
    let f := laneF s
    let ps := busPts pl b
    let w := x.halfPos - postW pos
    let start := x.valid && x.halfN == 0
    let res := !start && decide (2 ≤ x.halfN)
    let s := forEach ps (mapRms (rmsCloseH pos (x.prevHalf + w) res)) s
    let s := s.setBus b { x with dueH := none, prevHalf := w, halfPos := postW pos,
                                 halfN := if start then 1 else min 2 (max 1 x.halfN + 1) }
    if res then
      let s := forEach ps (fun s p => gateUpdate pl f (pointCompare pl false f s p) p) s
      pqEvaluate s pl b f
    else s

/-! ## Means, power factor, unbalance (06 R147) -/

/-- PF as signed Q1.15 saturating, sign of P; 0 when S is 0. -/
def powerFactor (p st : Int) : Int :=
  if st ≤ 0 then 0
  else
    let q : Int := ((p.natAbs * 32768 / st.toNat : Nat) : Int)
    clampI (-32768) 32767 (if p < 0 then -q else q)

/-- Squares of three times the sequence components of three phasors: positive, negative, zero; each × 9 (R147). -/
structure Seq where
  pos : Int
  neg : Int
  zero : Int

def seqOf (a b c : Int × Int) : Seq :=
  let re (x y : Int × Int) := x.1 * y.1 + x.2 * y.2
  let im (x y : Int × Int) := x.2 * y.1 - x.1 * y.2
  let sq := re a a + re b b + re c c
  let d := re a b + re b c + re c a
  let q := im a b + im b c + im c a
  let r : Int := isqrtI (3 * q * q)
  let t := if 0 ≤ q then r else -r
  ⟨sq - d + t, sq - d - t, sq + 2 * d⟩

/-- A ratio of magnitudes in 0.001 %, saturating at 65,535; 0 when the denominator is 0. -/
def ratioPm (n d : Int) : Nat :=
  if d ≤ 0 then 0 else min 65535 (isqrt (min (n.toNat * 10000000000 / d.toNat) (2 ^ 64)))

def subP (a b : Int × Int) : Int × Int := (a.1 - b.1, a.2 - b.2)
def negP (a : Int × Int) : Int × Int := (-a.1, -a.2)

/-- The unbalance results of a point from its window sums of Vc, Vs, Ic, Is: u2, u0, i2, and whether |V−| > |V+|. -/
def unbalance (d : PointDef) (lin : Nat → Int) : Nat × Nat × Nat × Bool :=
  let v (k : Nat) : Int × Int := (lin (8 + 4 * k), -lin (9 + 4 * k))
  let i (k : Nat) : Int × Int := (lin (10 + 4 * k), -lin (11 + 4 * k))
  if d.type = 3 then
    let sv := seqOf (v 0) (v 1) (v 2)
    let si := seqOf (i 0) (i 1) (i 2)
    (ratioPm sv.neg sv.pos, ratioPm sv.zero sv.pos, ratioPm si.neg si.pos, decide (sv.pos < sv.neg))
  else if d.type = 2 then
    let sv := seqOf (v 0) (negP (v 1)) (subP (v 1) (v 0))
    let si := seqOf (i 0) (negP ((i 0).1 + (i 1).1, (i 0).2 + (i 1).2)) (i 1)
    (ratioPm sv.neg sv.pos, 0, ratioPm si.neg si.pos, decide (sv.pos < sv.neg))
  else (0, 0, 0, false)

/-- The window results of a point (R147, R154). -/
def pointWindow (pl : PlanDef) (pos sumW : Nat) (freq : Nat) (valid : Bool) (f : Frame) (s : State) (p : Nat) : State :=
  let d := pointDef pl p
  let x := ptAt s p
  let cl (k : Nat) : Int := let e := tget (0, 0) k x.seg.lin; e.2 - e.1 * postW pos
  let mean (k : Nat) : Int := if sumW = 0 then 0 else cl k / sumW
  let un := unbalance d cl
  let run := if un.2.2.2 then x.seqRun + 1 else 0
  let ok := if un.2.2.2 then 0 else x.seqOk + 1
  let rev := if x.seqrev then !decide (2 ≤ ok) else decide (2 ≤ run)
  let s := s.setPt p { x with
    seg := { x.seg with lin := x.seg.lin.map fun e => (e.1, e.2.1, e.2.1 * postW pos) }
    meanP := mean 0, meanQ := mean 1, meanS := mean 2, meanP1 := mean 3, meanRev := mean 4
    pf := powerFactor (mean 0) (mean 2), u2 := un.1, u0 := un.2.1, i2 := un.2.2.1
    seqRun := run, seqOk := ok, seqrev := rev, seqTicks := if x.seqrev then x.seqTicks else 0
    wcnt := (x.wcnt + 1) % 256, wframe := f, recDue := true, freq := freq, fvalid := valid }
  if rev && !x.seqrev then raiseAt s 0x63 p none f
  else if x.seqrev && !rev then endSample s 0x63 p ((x.seqTicks / 16000 : Nat) : Int)
  else s

/-! ## Metering tamper (11 R277, Table 11.4) -/

/-- A per-point voltage RMS in a common unit: SU × F_ref × 2^128. -/
def voltsOf (s : State) (pl : PlanDef) (p r : Nat) : Nat := let f := fsqOf s (refCh pl p 4); r * f.1 * 2 ^ f.2

/-- RMS of an L member or N-PE of a bus from the lowest point that uses it, in the common unit. -/
def busVolts (s : State) (pl : PlanDef) (b m : Nat) : Option Nat :=
  ((busPts pl b).find? fun p => (members (chMap pl p)).any fun e => e.1 == m).map fun p => voltsOf s pl p (rmsAt s p m).r10

/-- A voltage of the common unit is at least t × 0.1 % of the point's rated voltage. -/
def overRated (s : State) (pl : PlanDef) (p v t : Nat) : Bool :=
  decide (t ^ 2 * (voltsOf s pl p fullSU) ^ 2 ≤ v ^ 2 * 3125000)

/-- Why SENS is met: 1 probe OPEN, 2 probe LOW, 3 gain drift, 4 phase drift. -/
def sensCause (s : State) (pl : PlanDef) (p : Nat) : Option Nat :=
  let cs := (members (chMap pl p)).map (·.2)
  if cs.any fun c => (feAt s c).prbst == 3 then some 1
  else if cs.any fun c => (feAt s c).prbst == 2 then some 2
  else if cs.any fun c => (liveAt s c).gdrift then some 3
  else if cs.any fun c => (liveAt s c).pdrift then some 4
  else none

/-- The window of a point meets condition m: 0 REV, 1 BYP, 2 NEU, 3 SENS. -/
def mtMet (s : State) (pl : PlanDef) (p m : Nat) : Bool :=
  let d := pointDef pl p
  let c := chMap pl p
  let t1 := s.tp.mtthr1
  let t2 := s.tp.mtthr2
  match m with
  | 0 => d.importOnly && decide (((wbits t1 15 0) * 327680000 : Nat) ≤ (ptAt s p).meanRev)
  | 1 =>
    let big := max (rmsAt s p (if d.type = 3 then 11 else 0)).r10 (rmsAt s p 3).r10
    (d.type == 1 || d.type == 3) && c.ineu != 0xFF && decide (wbits t1 31 16 * big ≤ (rmsAt s p 12).r10 * 1000) &&
      decide (fullSU ^ 2 ≤ big ^ 2 * 31250)
  | 2 =>
    let ls := [4, 5, 6].filterMap (busVolts s pl c.bus)
    (d.type == 1 || d.type == 3) && decide (2 ≤ ls.length) &&
      match busVolts s pl c.bus 7, ls.max?, ls.min? with
      | some n, some hi, some lo => overRated s pl p n (wbits t2 15 0) && overRated s pl p (hi - lo) (wbits t2 31 16)
      | _, _, _ => false
  | _ => (sensCause s pl p).isSome

/-- Declare a condition of a point: its response bits for that point (11 R277, R271). -/
def mtDeclare (s : State) (pl : PlanDef) (p m : Nat) (f : Frame) : State :=
  let s := s.mapTp fun t => { t with mt := tset (4 * p + m) (true, 0, 0) t.mt }
  let s := if mtResp s m 1 then
      raiseAt s (0xD9 + m) p (if m = 3 then (sensCause s pl p).map fun n => (n : Int) else none) f else s
  let s := if mtResp s m 0 then pendDec (orderFallback s [p]) .fallback true else s
  if mtResp s m 2 then (s.irq 3).mapSer fun x => { x with notify := x.notify ++ [(0xD9 + m) * 256 + p] } else s

/-- End a condition: its duration where it is logged, and the release of the fallback it held (09 R221). -/
def mtEnd (s : State) (p m ticks : Nat) : State :=
  let s := s.mapTp fun t => { t with mt := tset (4 * p + m) (false, 0, 0) t.mt }
  let s := if m = 3 || !mtResp s m 1 then s else endSample s (0xD9 + m) p ((ticks / 16000 : Nat) : Int)
  if mtResp s m 0 && !mtHolds s p && !s.tp.fallbk then orderRelease s [p] else s

/-- One condition at a window close: DWELL windows in a row to declare, as many to end; SENS at once. -/
def mtStep (pl : PlanDef) (f : Frame) (p : Nat) (s : State) (m : Nat) : State :=
  let x := tget (false, 0, 0) (4 * p + m) s.tp.mt
  let met := wbit s.tp.mtcfg m && mtMet s pl p m
  let dw := if m = 3 then 1 else max 1 (wbits s.tp.mtcfg 31 24)
  let n := if met = x.1 then 0 else x.2.1 + 1
  if met = x.1 then
    if x.2.1 = 0 then s else s.mapTp fun t => { t with mt := tset (4 * p + m) (x.1, 0, x.2.2) t.mt }
  else if dw ≤ n then (if met then mtDeclare s pl p m f else mtEnd s p m x.2.2)
  else s.mapTp fun t => { t with mt := tset (4 * p + m) (x.1, n, x.2.2) t.mt }

/-- METERING_TAMPER_EVAL of a point. -/
def mtEval (pl : PlanDef) (f : Frame) (s : State) (p : Nat) : State := forEach [0, 1, 2, 3] (mtStep pl f p) s

/-! ## 10/12-cycle close -/

/-- Validity of a measured frequency: the reference at 10 % of rated or more, and 42.5 Hz to 69.0 Hz (R143). -/
def freqValid (rms freq : Nat) : Bool :=
  decide (2 * fullSU ^ 2 ≤ rms ^ 2 * 625) && decide (2785280 ≤ freq) && decide (freq ≤ 4521984)

/-- The departure of a valid frequency from nominal (0x61): beyond ±1 %, and its peak in 0.001 %. -/
def freqDepart (pl : PlanDef) (b : Nat) (f : Frame) (s : State) : State :=
  let x := busAt s b
  let nom := nominal (bus60 pl b)
  let dev := ((x.freq : Int) - nom).natAbs
  let out := x.valid && decide (nom < dev * 100)
  let pk := max x.devPeak (dev * 100000 / nom)
  let ch := (busPts pl b).headD 0
  let s := s.setBus b { x with devOut := out, devPeak := if out then pk else 0 }
  if out && !x.devOut then raiseAt s 0x61 ch none f
  else if x.devOut && !out then endSample s 0x61 ch (x.devPeak : Nat)
  else s

/-- The bus starts its next windows under its new validity (R143 to R145). -/
def nextWindows (x : Bus) (pos freq : Nat) (valid : Bool) : Bus :=
  let atX := x.valid && decide (pos < fullW)
  let x' := { x with due10 := none, winPos := postW pos, w10 := fullW, cycles := 0, lastX := 0,
                     firstX := if atX then some 0 else none, freq := freq, valid := valid, nco := if valid then freq else x.nco,
                     invTicks := if valid then 0 else if x.valid then 1 else x.invTicks }
  if valid = x.valid then x' else { x' with halfN := if valid then 0 else 1, halfPos := 0, halfLong := false }

/-- Close the 10/12-cycle window of a bus that is due (R142 to R147). -/
def closeWindow (s : State) (b : Nat) : State :=
  match (busAt s b).due10 with
  | none => s
  | some pos =>
    let s := closeHalf s b
    let x := busAt s b
    let pl := s.met.lanePlan
    let f := laneF s
    let ps := busPts pl b
    let sumW := x.winPos - postW pos
    let span := x.lastX - x.firstX.getD 0
    let freq := if x.cycles = 0 ∨ span = 0 then 0 else x.cycles * 16000 * 2 ^ 32 / span
    let s := forEach ps (mapRms (rmsClose10 pos sumW)) s
    let ref := busRef pl b
    let valid := match ref with
      | some (m, p) => freqValid (rmsAt s p m).r10 freq
      | none => false
    let s := s.setBus b (nextWindows x pos freq valid)
    let s := if valid = x.valid then s
      else forEach ps (mapRms fun r => { r with sH := 0, pH := 0 }) s
    let s := forEach ps (pointWindow pl pos sumW freq valid f) s
    let ch := (ref.bind fun r => memberCh pl r.2 r.1).getD 0xFF
    let s := if x.valid && !valid then raiseAt s 0x60 ch none f
      else if valid && !x.valid && 0 < x.invTicks then endSample s 0x60 ch ((x.invTicks / 16000 : Nat) : Int) else s
    let s := freqDepart pl b f s
    let q := pqBus s b
    let flag := q.flag || q.dip.on || q.swl.on || q.int.on
    let s := harmWindow s pl b (postW pos) f x.valid flag (if x.valid then x.nco else nominal (bus60 pl b))
    let s := pqWindow s pl b flag
    let s := s.setPqBus b { pqBus s b with flag := q.dip.on || q.swl.on || q.int.on }
    forEach ps (fun s p => mtEval pl f (pointCompare pl true f s p) p) s

/-- Take the window closes of a lane frame that are still due (the lanes close them before the frame ends). -/
def closeDue (s : State) : State := forEach buses (fun s b => closeHalf (closeWindow s b) b) s

/-- A 10/12-cycle or half-cycle window of a bus closes. -/
def execRmsWindowClose (bus : Nat) (half : Bool) (s : State) : Out :=
  if !isBus bus then .fault .noSuchUnit
  else .next (if !s.powered then s else if half then closeHalf s bus else closeWindow s bus)

/-! ## The tick's part: durations and point records (06 R154) -/

/-- Table 6.12: the twelve values of a point's record. -/
def recordValues (s : State) (pl : PlanDef) (p : Nat) : List Int :=
  let x := ptAt s p
  let d := pointDef pl p
  let c := chMap pl p
  let r (k : Option Nat) : Int := match k with | some k => ((rmsAt s p k).r10 : Nat) | none => 0
  let ev (k : Nat) : Option Nat := if elemCount d ≤ k then none
    else if d.type = 2 then some (8 + k) else some (elemOf d c k).1
  let ei (k : Nat) : Option Nat := if elemCount d ≤ k then none else some (elemOf d c k).2.2
  [x.meanP, x.meanQ, x.meanS, x.meanP1, r (ev 0), r (ev 1), r (ev 2), r (ei 0), r (ei 1), r (ei 2), r (some 3), (x.freq : Nat)]

/-- POINT_RECORD_PUBLISH at the tick of F+2: kind 0x2, or 0x3 in metrology-fault state, to the queue of kind 0x2 (R154, 08
R195). -/
def pointRecord (pl : PlanDef) (s : State) (p : Nat) : State :=
  let x := ptAt s p
  if !x.recDue then s
  else
    let f := x.wframe
    let closed := (List.range (elemCount (pointDef pl p))).any fun k => !(tget {} k x.e).gate
    let fl := flagAt x.fvalid 16 + flagAt closed 17 + flagAt x.slew 18 + flagAt x.hrqstale 19
    let kind := if faulted s p then 3 else 2
    let es := (recordValues s pl p).mapIdx fun i v =>
      let n := toField 48 v
      ({ tag := tagOf p kind f i, w1 := word n, w2 := word (n / 2 ^ 32 + fl), w3 := word (f.toNat / 2 ^ 16) } : QEntry)
    push (s.setPt p { x with recDue := false }) 2 p es

/-- Durations that a tick advances on points, buses and metering tamper. -/
def metTick (s : State) : State :=
  let s := s.mapMet fun m =>
    { m with bus := m.bus.map fun e => (e.1, { e.2 with invTicks := if e.2.invTicks = 0 then 0 else e.2.invTicks + 1 })
             pt := m.pt.map fun e => (e.1, { e.2 with noLoad := if e.2.e.any (·.2.gate) then 0 else e.2.noLoad + 1
                                                      seqTicks := if e.2.seqrev then e.2.seqTicks + 1 else 0 }) }
  s.mapTp fun t => { t with mt := t.mt.map fun e => (e.1, e.2.1, e.2.2.1, if e.2.1 then e.2.2.2 + 1 else 0) }

end Sys2Proof.Machine
end

