-- ==== Sys2Proof/Machine/Plan.lean ====
section
/-! DEFINITION. The plan loader and plan activation (05): loader commands under Table 5.11, authority checks, selector commit, the
hand-over of R120 with its billing steps, and the built-in safe plan. -/

namespace Sys2Proof.Machine

/-! ## Banks -/

/-- The active bank: the selector's, except between its commit and the activation (05 R121, R123). -/
def activeBank (s : State) : Nat := if s.nv.selPend then 1 - s.nv.selBank else s.nv.selBank

def bankAt (s : State) (b : Nat) : PlanBank := if b = 0 then s.nv.bank0 else s.nv.bank1

def State.setBank (s : State) (b : Nat) (x : PlanBank) : State :=
  s.mapNv fun n => if b = 0 then { n with bank0 := x } else { n with bank1 := x }

/-- The legal digest pair of the active plan verifies. In RECOVERY `PLLDG` holds the safe plan's, and the active plan's stands in the
banks. -/
def digestOk (s : State) : Bool :=
  if s.sup.st = .recovery then
    match selectGroup (Crit.base .digest) (tget [] (Crit.base .digest) s.ls.bankA) (tget [] (Crit.base .digest) s.ls.bankB) with
    | .lost => false
    | _ => true
  else s.pl.ldgN == ~~~s.pl.ldg

/-- The active plan of R109: that of the active bank, when the selector and the digest pair verify. -/
def activePlan (s : State) : Option PlanDef :=
  if !s.nv.selValid || !digestOk s || (s.sup.st == .recovery && s.sup.rreason == 4) then none else (bankAt s (activeBank s)).plan

/-- A commit and reset is ordered for the next tick, with its cause of Table 17.9; one that is under way stays (16 R384). -/
def orderReset (s : State) (cause : Nat) : State :=
  if s.sup.commit = .none then s.mapSup fun u => { u with commit := .due, cause := cause, commitW := s.tb.frame + 1 } else s

/-! ## The safe plan (R124, Table 5.13) -/

/-- Front-end settings of a channel when the active plan's cannot be used. -/
def safeFe (c : Nat) : FeSet := { sensor := if c < 128 then 2 else if c < 160 then 4 else 5 }

/-- The slice that holds the calibration entry of each slot of the safe plan: SL00 to SL05 three a frame, SL06 to SL60 two (Table 4.4). -/
def safeCal : List Nat :=
  [2, 1, 5, 3, 6, 9, 7, 11, 10, 13, 15, 12, 16, 14, 19, 20, 17, 21, 23, 24, 26, 22, 27, 25, 29, 30, 31, 28, 35, 32, 33, 38] ++
  [36, 40, 39, 37, 41, 44, 45, 43, 46, 48, 47, 49, 53, 54, 56, 51, 52, 55, 58, 57, 0, 8, 59, 42, 60, 0, 34, 4, 60, 4, 3, 2] ++
  [18, 5, 1, 6, 10, 8, 16, 13, 14, 50, 15, 20, 18, 22, 23, 19, 21, 28, 33, 24, 29, 25, 26, 30, 31, 36, 48, 35, 39, 41, 37, 42] ++
  [49, 50, 51, 40, 43, 47, 44, 57, 45, 46, 58, 53, 54, 59, 3, 0, 7, 9, 55, 2, 11, 56, 17, 52, 12, 38, 27, 34, 32, 5, 4, 1]

/-- A channel entry of a schedule (Table 5.7). -/
def chEntry (c k : Nat) (prev yield : Bool) : Word := word (2 ^ 30 + c * 2 ^ 22 + k * 2 ^ 16 + flagAt prev 15 + flagAt yield 14)

/-- The entry of a slice and slot in a schedule of the layout of Table 4.4, over the channels with a sensor: three auxiliary conversions a slot
on SL61 to SL63, one calibration and sixty main conversions on the others. Each main channel visits 48 slices. Which of the schedules of
that layout the ROM holds is not given (DESIGN CHOICE, log 33). -/
def safeEntry (on : Nat → Bool) (n s : Nat) : Word :=
  if 61 ≤ n then
    let q := 3 * s + (n - 61)
    let r := if q < 2 then q + 382 else q - 2
    if on (160 + r % 8) then chEntry (160 + r % 8) (r / 8) (decide (q < 2)) true else 0
  else
    let c := safeCal.getD s 0
    if n = c then 2 ^ 31
    else
      let q := 60 * s + if n = 60 then c else n
      let r := if q < 40 then q + 7640 else q - 40
      let k := r / 160
      let j := r % 160
      let ch := 20 * (j / 20) + (j % 20 + 20 - k / 3 % 20) % 20
      if on ch then chEntry ch k (decide (q < 40)) false else 0

/-- The safe plan's slot schedule. -/
def safeSlots (fe : List FeSet) : List Word :=
  (List.range 64).flatMap fun n => (List.range 128).map fun s => safeEntry (fun c => (fe.getD c {}).sensor != 0) n s

/-- Queue records of the safe plan. -/
def safeRoute (q : Nat) : RouteDef :=
  match q with
  | 0 => { depth := 4096, kinds := 4, lo := 0, hi := 127 }
  | 16 => { depth := 1024, kinds := 0x100, lo := 0, hi := 255 }
  | 24 => { depth := 256, kinds := 0x200, lo := 0, hi := 255 }
  | 25 => { depth := 256, kinds := 0x400, lo := 0, hi := 255 }
  | _ => {}

/-- The safe plan over the front-end settings it takes. -/
def safePlan (fe : List FeSet) (feBody : List Byte) : PlanDef :=
  { safe := true, sects := [(2, feBody)], planid := 0xFFFFFFFF, planrev := 0
    chmap := points.map fun n => { il1 := n, bus := n / 16, l1 := true }
    fe := fe
    dirMask := 0xE000000000000000, slots := safeSlots fe
    caplen := 8, capdiv := 0, startSinc := {}, testSinc := {}, cycdecl := 21504, maxseg := 676
    points := points.map fun _ => { type := 1, qexp := -3, mdsub := 1, ctnum := 1, ctden := 1, vtnum := 1, vtden := 1 }
    pulses := List.replicate 8 {}, cmpStream := List.replicate 168 {}, cmpPoint := List.replicate 1024 {}
    routes := (List.range 32).map safeRoute
    scroll := [{ code := 0xE, rmask := 0x7FF }, { code := 0, rmask := 0x7FF }], scrollDwell := 10
    defTariff := List.replicate 128 1
    legalDigest := Sha.digest (Config.safeLegal feBody), nonLegalDigest := Sha.digest Config.safeNonLegal }

/-- The safe plan for this device now. -/
def safePlanOf (s : State) : PlanDef :=
  match activePlan s with
  | some a => safePlan a.fe (sectBody a 2)
  | none => safePlan (channels.map safeFe) []

/-! ## Loader commands (R117, Table 5.11) -/

/-- A refused command: no effect but OWNERR. -/
def ownErr (s : State) : State := s.mapPl fun l => { l with ownerr := true }

/-- The requesters that own loads; the legal core's writes of the loader registers have no effect (Table 17.3). -/
def loads (r : Requester) : Bool := r != .legal

/-- A command that its requester may not give: nothing for the legal core, OWNERR for the others. -/
def notOwner (s : State) (req : Requester) : State := if loads req then ownErr s else s

/-- The bank a load writes. -/
def shadowBank (s : State) : Nat := 1 - activeBank s

/-- Release the reservation of an activation (R119). -/
def releaseResv (s : State) : State :=
  if s.pl.resv = 0 then s else (release s s.pl.resv).mapPl fun l => { l with resv := 0 }

/-- The pending-activation mark, committed to both banks when it changes (R123). -/
def setMark (s : State) (m : Option (Frame × Nat)) : State :=
  if s.nv.mark = m then s else commitCrit (s.mapNv fun n => { n with mark := m }) .mark

/-- `PLSTS.OWNER` code. -/
def ownerCode : Option Requester → Nat
  | some .host => 0 | some .app => 1 | some .chain => 2 | _ => 3

/-- An activation or request ends with a code: ACTREF, code, reservation and mark gone. -/
def endActivation (s : State) (code : Nat) : State :=
  ((setMark (releaseResv s) none).mapPl fun l =>
    { l with st := .ready, actref := true, rsn := code, sect := 0xF, locked := false }).irq 4

/-- Start of a load. -/
def startLoad (s : State) (req : Requester) : State :=
  let s := releaseResv s
  (s.setBank (shadowBank s) {}).mapPl fun l =>
    { l with st := .loading, owner := some req, wptr := 0, shadow := none, partialImg := false, legalchg := false, armHdr := none }

/-- BEGIN. -/
def plBegin (s : State) (req : Requester) : State :=
  if !loads req then s
  else
    match s.pl.st with
    | .empty | .ready | .rejected => startLoad s req
    | .loading => if s.pl.owner = some req then startLoad s req else ownErr s
    | .verifying => ownErr s
    | .armed => startLoad (endActivation s 0x53) req
    | .pending => if s.pl.locked then ownErr s else startLoad (endActivation s 0x53) req

def execBegin (req : Requester) (s : State) : Out := .next (if serving s then plBegin s req else s)

/-- Bytes of `PLDATA`. -/
def plData (s : State) (req : Requester) (bs : List Byte) : State :=
  if s.pl.st = .loading ∧ s.pl.owner = some req then
    let b := shadowBank s
    let x := bankAt s b
    (s.setBank b { x with img := (x.img ++ bs).take 524288 }).mapPl fun l => { l with wptr := satAdd l.wptr bs.length }
  else notOwner s req

def execPldata (req : Requester) (bytes : List Byte) (s : State) : Out := .next (if serving s then plData s req bytes else s)

/-- VERIFY. -/
def plVerify (s : State) (req : Requester) : State :=
  if s.pl.st = .loading ∧ s.pl.owner = some req then s.mapPl fun l => { l with st := .verifying } else notOwner s req

def execVerify (req : Requester) (s : State) : Out := .next (if serving s then plVerify s req else s)

/-- The verdict on the shadow image. -/
def shadowVerdict (s : State) : Verdict := verifyImage (bankAt s (shadowBank s)).img s.pl.wptr (activePlan s)

/-- Take a verdict: READY with the verified plan, or REJECTED with its code. -/
def takeVerdict (s : State) (v : Verdict) : State :=
  let b := shadowBank s
  let x := bankAt s b
  match v with
  | .bad c i => ((s.setBank b { x with plan := none }).mapPl fun l =>
      { l with st := .rejected, rsn := c, sect := i, shadow := none }).irq 4
  | .good pl legal =>
    (s.setBank b { x with plan := some pl }).mapPl fun l =>
      { l with st := .ready, shadow := some pl, partialImg := isPartial x.img, legalchg := legal }

/-- Verification ends. -/
def execVerificationDone (s : State) : Out :=
  if s.pl.st = .verifying ∧ serving s then .next (takeVerdict s (shadowVerdict s)) else .next s

/-! ## Requests for activation (R119) -/

/-- The states that take a request. -/
def actState (s : State) : Bool :=
  s.sup.st == .run || s.sup.st == .calibrate || s.sup.st == .test || s.sup.st == .recovery

/-- N meets code 0x50. -/
def frameOk (s : State) (n : Frame) : Bool := decide (s.fnum + 64 ≤ n.toNat) && decide (n.toNat ≤ s.fnum + 2 ^ 31)

/-- The code of the first failing check of R119 before the double decision; 0 when all pass. A reservation already held
covers the parts. -/
def activateCode (s : State) (n : Frame) : Nat :=
  if !actState s then 0x58
  else if s.tp.locked then 0x57
  else if !frameOk s n then 0x50
  else if !s.pl.legalchg then 0
  else if !s.sealOpen then 0x40
  else if s.pl.resv = 0 ∧ privFull s.er then 0x41
  else 0

/-- A refused request: ACTREF and the code, nothing else. -/
def actRefuse (s : State) (code : Nat) : State := (s.mapPl fun l => { l with actref := true, rsn := code, sect := 0xF }).irq 4

/-- Reserve the 3 parts of a legal change once. -/
def reserveChange (s : State) : State := if s.pl.resv = 0 then (reserve s 3).mapPl fun l => { l with resv := 3 } else s

/-- An accepted activation: PENDING at N, with the mark. -/
def setPending (s : State) (n : Frame) : State :=
  (setMark s (some (n, ownerCode s.pl.owner))).mapPl fun l => { l with st := .pending, n := n, locked := false, armHdr := none }

/-- An accepted ARM: ARMED at N, with the mark. -/
def setArmed (s : State) (n : Frame) : State :=
  (setMark s (some (n, ownerCode s.pl.owner))).mapPl fun l => { l with st := .armed, n := n }

/-- N as written in `PLAFL`, `PLAFH`. -/
def plafN (s : State) : Frame := BitVec.ofNat 48 (s.pl.afh.toNat * 2 ^ 32 + s.pl.afl.toNat)

/-- ACTIVATE: from READY, or from PENDING unlocked to replace N, by the owner. A legal change waits for the double decision. -/
def plActivate (s : State) (req : Requester) : State :=
  if (s.pl.st = .ready ∨ (s.pl.st = .pending ∧ !s.pl.locked)) ∧ s.pl.owner = some req then
    let n := plafN s
    match activateCode s n with
    | 0 => if s.pl.legalchg then pendDec (reserveChange s) (.plan n req) true else setPending s n
    | c => actRefuse s c
  else notOwner s req

def execActivate (req : Requester) (s : State) : Out := .next (if serving s then plActivate s req else s)

/-- ARM from the chain master, with the header to answer; a legal change is answered after its double decision. -/
def plArm (s : State) (n : Frame) (hdr : Option CobaltHdr) : State :=
  let ans (s : State) (c : Option Nat) : State := loaderAnswer s hdr 3 (n.toNat % 2 ^ 32) c
  if s.pl.st = .ready then
    match activateCode s n with
    | 0 =>
      if s.pl.legalchg then pendDec ((reserveChange s).mapPl fun l => { l with armHdr := hdr }) (.plan n .chain) true
      else ans (setArmed s n) none
    | c => ans (actRefuse s c) (some c)
  else ans (ownErr s) (some s.pl.rsn)

def execArm (n : Frame) (s : State) : Out := .next (if serving s then plArm (takeRx s) n ((rxOf s 3).map (·.1)) else s)

/-- COMMIT from the chain master. -/
def plCommit (s : State) (hdr : Option CobaltHdr) (addr : Nat) : State :=
  if s.pl.st = .armed then loaderAnswer (setPending s s.pl.n) hdr 4 addr none
  else loaderAnswer (ownErr s) hdr 4 addr (some s.pl.rsn)

def execCommit (s : State) : Out :=
  .next (if serving s then plCommit (takeRx s) ((rxOf s 4).map (·.1)) (((rxOf s 4).map (·.2)).getD 0) else s)

/-- CANCEL by the owner. -/
def plCancel (s : State) (req : Requester) : State :=
  if (s.pl.st = .armed ∨ (s.pl.st = .pending ∧ !s.pl.locked)) ∧ s.pl.owner = some req then endActivation s 0x53 else notOwner s req

def execCancel (req : Requester) (s : State) : Out := .next (if serving s then plCancel s req else s)

/-- The frame that began at the tick of N−16, in which a COMMIT still wins, has passed without one (R122, 02 R50). -/
def execCommitDeadline (s : State) : Out :=
  if serving s ∧ s.pl.st = .armed ∧ s.pl.n.toNat < s.fnum + 16 then .next (endActivation s 0x54) else .next s

/-! ## Quantum rescale (R120 step 4; 09 R212) -/

/-- Points whose QEXP changes between two plans: point, old and new. -/
def qexpChanges (old new : PlanDef) : List (Nat × Int × Int) :=
  points.filterMap fun p =>
    let a := (pointDef old p).qexp
    let b := (pointDef new p).qexp
    if a = b then none else some (p, a, b)

/-- The factor 10^|new − old|, and whether the new quantum is finer. -/
def scaleStep (a b : Int) : Nat × Bool := (10 ^ (b - a).natAbs, decide (b < a))

/-- A 64-bit register of the point passes 2^64 − 1 under a finer quantum. -/
def overflows (k lo hi : Nat) (t : Tab (Pair 64)) : Bool :=
  t.any fun e => decide (lo ≤ e.1) && decide (e.1 < hi) && decide (2 ^ 64 ≤ e.2.v.toNat * k)

/-- The rescale of the changes would exceed 2^64 − 1 (code 0x56). -/
def rescaleOver (s : State) (cs : List (Nat × Int × Int)) : Bool :=
  cs.any fun (p, a, b) =>
    let (k, finer) := scaleStep a b
    finer && (overflows k (96 * p) (96 * p + 96) s.bl.w1 || overflows k (32 * p) (32 * p + 32) s.bl.md ||
      overflows k (16 * p) (16 * p + 16) s.ls.uve || overflows k (16 * p) (16 * p + 16) s.bl.rce)

/-- A register in the new quantum. -/
def stepReg (k : Nat) (finer : Bool) (x : Nat) : Nat := if finer then x * k else x / k

/-- A residue in 2^-48 of the new quantum. -/
def stepRes (k : Nat) (finer : Bool) (x : Int) : Int := if finer then x * k else x / (k : Int)

/-- What a coarser quantum leaves of a register, in 2^-48 of the new quantum. -/
def leftOver (k : Nat) (finer : Bool) (x : Nat) : Int := if finer then 0 else ((x % k * 2 ^ 48 / k : Nat) : Int)

/-- Re-express the registers of a point in a table. -/
def stepTab (k : Nat) (finer : Bool) (lo hi : Nat) (t : Tab (Pair 64)) : Tab (Pair 64) :=
  t.map fun e => if lo ≤ e.1 ∧ e.1 < hi then (e.1, e.2.via (stepReg k finer)) else e

/-- The residues of a point take their own re-expression and what its registers leave, register index i under quantity
`qOf i`. -/
def stepAcc (k : Nat) (finer : Bool) (p : Nat) (regs : List (Nat × Nat)) (acc : Tab (Pair 96)) : Tab (Pair 96) :=
  (List.range 16).foldl (fun t q =>
    let old := tget (Pair.zero 96) (16 * p + q) t
    let left := ((regs.filter fun r => r.1 == q).map fun r => leftOver k finer r.2).sum
    if old = Pair.zero 96 ∧ left = 0 then t else tset (16 * p + q) (old.viaInt fun x => stepRes k finer x + left) t) acc

/-- Re-express one point: billing registers, maximum demands, the open interval, recovery-energy and unverified pairs. -/
def rescalePoint (s : State) (c : Nat × Int × Int) : State :=
  let p := c.1
  let k := (scaleStep c.2.1 c.2.2).1
  let f := (scaleStep c.2.1 c.2.2).2
  let inPt (w i : Nat) : Bool := decide (w * p ≤ i) && decide (i < w * p + w)
  let regs := (s.bl.w1.filter fun e => inPt 96 e.1).map fun e => (e.1 % 12 + 1, e.2.v.toNat)
  let uv := (s.ls.uve.filter fun e => inPt 16 e.1).map fun e => (e.1 % 16, e.2.v.toNat)
  let rc := (s.bl.rce.filter fun e => inPt 16 e.1).map fun e => (e.1 % 16, e.2.v.toNat)
  let s := s.mapMet fun m => { m with acc := stepAcc k f p regs m.acc }
  let s := s.mapLs fun l => { l with uvAcc := stepAcc k f p uv l.uvAcc, uve := stepTab k f (16 * p) (16 * p + 16) l.uve
                                     uveW2 := stepTab k f (16 * p) (16 * p + 16) l.uveW2 }
  s.mapBl fun b =>
    { b with w1 := stepTab k f (96 * p) (96 * p + 96) b.w1, w2 := stepTab k f (96 * p) (96 * p + 96) b.w2,
             md := stepTab k f (32 * p) (32 * p + 32) b.md, mdW2 := stepTab k f (32 * p) (32 * p + 32) b.mdW2, rcAcc := stepAcc k f p rc b.rcAcc,
             rce := stepTab k f (16 * p) (16 * p + 16) b.rce,
             iv := b.iv.map fun e => if e.1 = p then (p, { e.2 with e := e.2.e.map (stepReg k f),
                                                                    subs := e.2.subs.map fun l => l.map (stepReg k f) }) else e }

/-- QUANTUM_RESCALE: re-express every point that changes. -/
def rescale (s : State) (cs : List (Nat × Int × Int)) : State := forEach cs rescalePoint s

/-! ## The tick of N−1 (R121) -/

/-- The code of the first failing check; 0 when all pass. -/
def selectorCode (s : State) (new : PlanDef) : Nat :=
  if s.tp.locked then 0x57
  else if s.pl.legalchg && !s.sealOpen then 0x51
  else if rescaleOver s (qexpChanges ((activePlan s).getD {}) new) then 0x56
  else 0

/-- Commit the bank selector to both MRAM banks. -/
def commitSelector (s : State) : State :=
  let p := selOf (shadowBank s) s.pl.n
  commitGroup (s.mapNv fun n => { n with sel := p, selValid := true, selPend := true }) .sel [p]

/-- The points that the coming plan puts in scale fault, found at the tick of N−1 with their event; the state follows with the plan
(06 R132). -/
def scaleAhead (s : State) (new : PlanDef) : State :=
  let ps := points.filter fun p => (pointDef new p).type != 0 && scaleCause s new p != 0
  (forEach (ps.filter fun p => !(ptAt s p).scalef) (fun s p => raise s 0x65 p (some (scaleCause s new p : Nat))) s).mapPl fun l =>
    { l with scaleAnn := ps }

/-- Scale faults under the plan that takes effect. -/
def scaleFollow (s : State) (new : PlanDef) : State :=
  let ann := s.pl.scaleAnn
  let s := forEach ann (fun s p => s.setPt p { ptAt s p with scalef := true }) s
  (scaleEval s new).mapPl fun l => { l with scaleAnn := [] }

/-- The selector commit at the tick of N−1, or at a jump tick that skips it. -/
def execSelectorCommit (s : State) : Out :=
  match s.pl.st, s.pl.shadow with
  | .pending, some new =>
    if !serving s || s.pl.locked || decide (s.fnum + 1 < s.pl.n.toNat) then .next s
    else
      match selectorCode s new with
      | 0 => .next (scaleAhead ((commitSelector s).mapPl fun l => { l with locked := true, lockFrame := s.tb.frame }) new)
      | c => .next (endActivation s c)
  | _, _ => .next s

/-! ## Hand-over at the tick of N (R120) -/

/-- Clear the filter history of the channels of a changed coefficient set and flag their streams (04 R91). -/
def coefChange (s : State) (main : Bool) : State :=
  let t := if firRuns s then firFill s.plan main else sincSettle s.cv.sinc
  forEach (channels.filter fun c => isMain c == main) (fun s c =>
    let x := pathAt s c
    s.setPath c { x with hist := if firRuns s then [] else x.hist, y1 := [], settle := max x.settle t }) s

/-- A channel whose gain or sensor type changes is flagged; with these or its window its probe result in progress goes, with these or its
injection its live window, and with the gain its live baseline (03 R69; 04 R91; 07 R181, R182). No channel has a result under the new plan
yet (03 Table 3.10), and one without a sensor has stream 0 (04 R80). Where PRBEN goes off the declared state becomes 0, none: the rules do
not say what it is (DESIGN CHOICE, log 127). -/
def feChange (old new : PlanDef) (s : State) (c : Nat) : State :=
  let a := feSet old c
  let b := feSet new c
  let gs := a.gain != b.gain || a.sensor != b.sensor
  let t := if firRuns s then firFill s.plan (isMain c) else sincSettle s.cv.sinc
  let s := if gs then s.setPath c { pathAt s c with settle := max (pathAt s c).settle t } else s
  let s := if b.sensor = 0 ∧ a.sensor ≠ 0 then s.setPath c {} else s
  let x := feAt s c
  let s :=
    if gs || a.prblow != b.prblow || a.prbhigh != b.prbhigh || a.prben != b.prben then
      s.setFe c { x with resValid := false, prbN := 0, prbCand := 0, prbSpoil := false, prbst := if b.prben then x.prbst else 0 }
    else if x.resValid then s.setFe c { x with resValid := false }
    else s
  let s := if gs || a.injen != b.injen then s.setLive c { liveAt s c with ticks := 0, ovl := 0 } else s
  if a.gain != b.gain then clearBase s c else s

/-- Comparators return to INIT where their band, HYST, DWELL or SRC changes (04 R95); the events of each are counted from the activation
(Table 4.20). -/
def cmpChange (old new : PlanDef) (s : State) : State :=
  let ne (a b : CmpDef) : Bool := a.low != b.low || a.high != b.high || a.hyst != b.hyst || a.dwell != b.dwell || a.src != b.src
  let go (a b : List CmpDef) (t : Tab Comparator) : Tab Comparator :=
    (t.filter fun e => !ne (a.getD e.1 {}) (b.getD e.1 {})).map fun e => (e.1, { e.2 with cnt := 0 })
  s.mapCv fun v => { v with cmps := go old.cmpStream new.cmpStream v.cmps, cmpp := go old.cmpPoint new.cmpPoint v.cmpp }

/-- Queues whose depth, reader or routing changes are emptied (04 R104). -/
def queueFlush (old new : PlanDef) (s : State) (q : Nat) : State :=
  if routeRec old q = routeRec new q then s
  else
    let x := queueAt s q
    s.setQueue q { x with ents := [], lost := satAdd x.lost x.ents.length, flushed := true, refused := 0 }

/-- Gates close where a point's members change (06 R136). -/
def gateChange (old new : PlanDef) (s : State) (p : Nat) : State :=
  if chMap old p = chMap new p then s
  else
    let x := ptAt s p
    s.setPt p { x with e := x.e.map fun e => (e.1, { e.2 with gate := false }) }

/-- The evaluated channels of a bus under its LL setting: of its differences, the point that forms them too. -/
def evalChs (s : State) (pl : PlanDef) (b : Nat) : List (Nat × Option Nat) :=
  let ll := wbit (pqBus s b).udin 24
  (pqChans pl b ll).map fun e => (e.ch, if ll then some e.pt else none)

/-- The harmonic block of a channel goes with its membership of a point (07 R163, Table 7.10). -/
def harmChange (old new : PlanDef) (s : State) : State :=
  s.mapPq fun q => { q with harm := q.harm.filter fun e => (chPoint new e.1).isSome && chPoint old e.1 == chPoint new e.1 }

/-- Points whose demand-interval settings change (R120 step 5); a point that goes on or off is one. -/
def mdChanges (old new : PlanDef) (p : Nat) : Bool :=
  let a := pointDef old p
  let b := pointDef new p
  a.sliding != b.sliding || a.mdcode != b.mdcode || a.mdsub != b.mdsub || (a.type == 0) != (b.type == 0)

/-- The outputs whose point or quantity changes: their residues retire (step 6). -/
def pulseChanges (old new : PlanDef) : List Nat :=
  (List.range 8).filter fun o =>
    let a := old.pulses.getD o {}
    let b := new.pulses.getD o {}
    a.point != b.point || a.qty != b.qty

/-- The residues of outputs, and every one of them from zero. -/
def retired (s : State) (os : List Nat) : List (Nat × Pair 96) := os.map fun o => (o, (tget {} o s.met.pulse).res)
def zeroRes (s : State) (os : List Nat) : State :=
  forEach os (fun s o => s.mapMet fun m =>
    { m with pulse := tmod {} o (fun x => { x with res := Pair.zero 96, crossAt := 0 }) m.pulse }) s

/-- The newest plan-change record takes the residues that its activation retired: from the due entry, or from part 0 as stored (step 6,
log 134). -/
def recordResidues (s : State) (l : List (Nat × Pair 96)) : State :=
  if l.isEmpty then s
  else s.mapEr fun r =>
    let put (d : List PrivDue) : List PrivDue := (d.foldr (fun (e : PrivDue) (a : List PrivDue × Bool) =>
      if e.ptype = 5 ∧ !a.2 then ({ e with residues := l } :: a.1, true) else (e :: a.1, a.2)) ([], false)).1
    let top := ((r.parts.filter fun e => e.2.ptype == 5 && e.2.part == 0).map fun e => e.2.seq).max?
    if r.due.any fun e => e.ptype == 5 then { r with due := put r.due }
    else { r with parts := r.parts.map fun e =>
      if e.2.ptype = 5 ∧ e.2.part = 0 ∧ some e.2.seq = top then (e.1, { e.2 with residues := l }) else e }

/-- Mask of points, bit p for point p. -/
def pointMask (cs : List (Nat × Int × Int)) : Nat := (cs.map fun c => 2 ^ c.1).sum

/-- The plan-change record (12 Table 12.6, type 0x05); a legal change has its parts reserved. -/
def planRecord (s : State) (old new : PlanDef) (n : Frame) (owner : Nat) (restored : Bool) (res : List (Nat × Pair 96)) : State :=
  let body := leBytes 4 old.planid.toNat ++ leBytes 4 old.planrev.toNat ++ leBytes 4 new.planid.toNat ++
    leBytes 4 new.planrev.toNat ++ leBytes 8 n.toNat ++ leBytes 1 owner ++ leBytes 3 0 ++ digBytes old.legalDigest ++
    digBytes new.legalDigest ++ leBytes 16 (pointMask (qexpChanges old new))
  let held := s.pl.resv != 0
  (s.mapEr fun r => { r with due := r.due ++ [{ ptype := 5, parts := 3, refusable := held, payload := body, residues := res, restored := restored }] }).mapPl fun l =>
    { l with resv := 0 }

/-- The legal digest in force, as a pair and in MRAM (R110). -/
def setDigest (s : State) (d : BitVec 256) : State :=
  commitDigest (s.mapPl fun l => { l with ldg := d, ldgN := ~~~d })

/-- Measurements, legal digest and legal check value of the plan that takes effect (R110; 14 R328, R331). -/
def measurePlan (s : State) (old new : PlanDef) : State :=
  let s := extendPlan (setDigest s new.legalDigest) 2 new
  if old.legalDigest = new.legalDigest then s else legalCheck s

/-- Open demand intervals of changed points close as short with PLANCHG and others start (step 5); `flags` adds OUTAGE at a
restore. The close is made under the definitions the interval ran with. -/
def mdHandOver (old new : PlanDef) (flags : Nat) (s : State) : State :=
  if !billing s then s
  else
    let ps := points.filter (mdChanges old new)
    let s := forEach (ps.filter fun p => (pointDef old p).type != 0) (shortClose (fPLANCHG + flags) 4 false) s
    forEach (ps.filter fun p => (pointDef new p).type != 0 && !faulted s p) (fun s p => openIv s p true false)
      (s.mapPl fun l => { l with act := new })

/-- The slices and slots of N where an old PREV entry stands and a new entry that is none: the new entry is not executed (step 1). -/
def blockedSlots (old new : PlanDef) : List (Nat × Nat) :=
  (List.range 64).flatMap fun n => [0, 1].filterMap fun k =>
    let w := slotEntry new n k
    if slotPrev (slotEntry old n k) && slotUse w != 0 && !slotPrev w then some (n, k) else none

/-- The converter's and front ends' part of the hand-over, under the new plan. -/
def converterHandOver (old new : PlanDef) (s : State) : State :=
  let s := s.mapCv fun v => { v with blocked := blockedSlots old new }
  let s := if old.coefM1 ≠ new.coefM1 ∨ old.coefM2 ≠ new.coefM2 then coefChange s true else s
  let s := if old.coefA1 ≠ new.coefA1 ∨ old.coefA2 ≠ new.coefA2 then coefChange s false else s
  let s := if s.sup.st = .test ∧ old.testSinc ≠ new.testSinc then filterChange s false new.testSinc else s
  let s := forEach channels (feChange old new) s
  forEach (List.range 32) (queueFlush old new) (cmpChange old new s)

/-- The metrology's part: gates, voltage events, scale faults, and the rescale and retired residues due at N+2. The filter states and the window
sums of a point whose members change run on: the rules give no restart (DESIGN CHOICE, log 136). -/
def metrologyHandOver (old new : PlanDef) (s : State) : State :=
  let s := forEach points (gateChange old new) s
  let s := forEach buses (fun s b => if evalChs s old b = evalChs s new b then s else evCloseAll s b) s
  (scaleFollow (harmChange old new s) new).mapPl fun l =>
    { l with rescale := qexpChanges old new, retire := pulseChanges old new, rescaleIn := 2 }

/-- The re-expression and the retirement at the tick of N+2, before the first new increments (steps 4, 6). -/
def rescaleNow (s : State) : State :=
  let l := s.pl.retire
  zeroRes (recordResidues (rescale (s.mapPl fun x => { x with rescale := [], retire := [], rescaleIn := 0 }) s.pl.rescale) (retired s l)) l

/-- The loader after an activation: EMPTY, DONE, no owner; the banks have exchanged roles. -/
def loaderDone (s : State) : State :=
  let s := (setMark s none).mapNv fun n => { n with selPend := false }
  (s.mapPl fun l => { l with st := .empty, done := true, owner := none, locked := false, shadow := none, partialImg := false,
                             legalchg := false, armHdr := none }).irq 4

/-- A point that the activation switches on takes its tariff: the fallback's, the calendar's, or its default without the clock (09 R219 to
R221). -/
def newPoint (s : State) (p : Nat) : State :=
  if s.tp.fallbk then
    (setTariff s p (defTariff s p) 2).mapBl fun b => { b with fallbk := b.fallbk.filter (· != p) ++ [p] }
  else if s.rtc.valid then setTariff s p (tariffAt s.plan.calendar s.rtc.sec) 0
  else (setTariff s p (defTariff s p) 1).mapBl fun b => { b with deflt := b.deflt.filter (· != p) ++ [p] }

/-- A changed calendar applies as a tariff switch (step 5); so do the tariffs of points switched on, and a changed default tariff where it is in
force. -/
def calendarHandOver (old new : PlanDef) (s : State) : State :=
  let s := if old.calendar ≠ new.calendar ∧ calendarRuns s then tariffEval s else s
  let s := forEach ((livePts s).filter fun p => (pointDef old p).type == 0) newPoint s
  forEach (livePts s) (fun s p => if srcOf s p = 1 ∨ srcOf s p = 2 then setTariff s p (defTariff s p) (srcOf s p) else s) s

/-- The hand-over of R120 in RUN, CALIBRATE and TEST. -/
def handOver (s : State) (new : PlanDef) : State :=
  let old := s.plan
  let owner := ownerCode s.pl.owner
  let n := s.pl.n
  let s := mdHandOver old new 0 s
  let s := s.mapPl fun l => { l with act := new }
  let s := converterHandOver old new s
  let s := metrologyHandOver old new s
  let s := calendarHandOver old new s
  let s := planRecord s old new n owner false []
  loaderDone (measurePlan s old new)

/-- The activation at the first tick at or after N, one tick at least after the selector commit (02 R36; 16 Table 16.12). In
RECOVERY the device makes a commit and reset. -/
def execPlanActivation (s : State) : Out :=
  match s.pl.st, s.pl.shadow with
  | .pending, some new =>
    if !s.pl.locked || decide (s.fnum < s.pl.n.toNat) || decide (s.fnum ≤ s.pl.lockFrame.toNat) then .next s
    else
      match s.sup.st with
      | .run | .calibrate | .test => .next (handOver s new)
      | .recovery => .next (orderReset s 7)
      | _ => .next s
  | _, _ => .next s

/-! ## Activation at a restore (R123) -/

/-- The billing steps of an activation that a reset found committed, before any increment is applied: re-expression at once,
short closes with PLANCHG and OUTAGE (the next intervals start with the restore's, 09 R233), tariff switch, pulse residues, the record. Steps
of an activation before the loss that were due at its N+2 are taken here too. -/
def restoreActivation (s : State) : State :=
  let s := if s.pl.rescaleIn = 0 then s else rescaleNow s
  if !s.nv.selRest then s
  else
    let old := ((bankAt s (1 - s.nv.selBank)).plan).getD {}
    let new := ((bankAt s s.nv.selBank).plan).getD {}
    let owner := (s.nv.mark.map (·.2)).getD 3
    let cur := s.plan
    let s := mdHandOver old new fOUTAGE (s.mapPl fun l => { l with act := old })
    let s := s.mapPl fun l => { l with act := cur }
    let s := forEach (points.filter (mdChanges old new)) (fun s p => s.setIv p { ivAt s p with isOpen := false, subs := [] }) s
    let s := rescale s (qexpChanges old new)
    let s := calendarHandOver old new s
    let os := pulseChanges old new
    let s := planRecord s old new s.nv.selN owner true (retired s os)
    let s := zeroRes s os
    let b := shadowBank s
    ((setMark s none).setBank b { bankAt s b with plan := s.pl.shadow }).mapNv fun n => { n with selRest := false }

end Sys2Proof.Machine
end

