-- ==== Sys2Proof/Machine/Cobalt.lean ====
section
/-! DEFINITION. The Cobalt link (15 R356 to R366): port transitions, acknowledgement and resending, renumbering, commands, responses
and aggregates. -/

namespace Sys2Proof.Machine

/-! ## Ports (R361, Table 15.7) -/

/-- A change of STATE: CHG and the interrupt cause. -/
def portState (s : State) (p st : Nat) : State :=
  let x := portAt s p
  (s.setPort p { x with st := st, chg := true }).irq 12

/-- A port is refused: 1 depth, 2 addresses. -/
def refusePort (s : State) (p reason : Nat) : State :=
  let s := portState s p 3
  let s := s.setPort p { portAt s p with refTicks := 0, out := [], wait := [] }
  raise s 0xF9 p (some (reason : Nat))

/-! ## Renumbering (R362) -/

/-- Finish the renumbering of this device's subtree: a follower answers ENUM-DONE with the highest address used. -/
def enumFinish (s : State) : State :=
  let s := s.mapCb fun c => { c with enumRun := false, enumPort := 0 }
  if noUpstream s then s
  else sendPort s 0 { type := 0x21, dst := 0, src := s.cb.addr, data := leBytes 2 (s.cb.enumNext - 1) }

/-- Offer the next free address to the UP ports of a list, the first one first; a port for which no address is left is refused. -/
def enumStep : List Nat → State → State
  | [], s => enumFinish s
  | p :: t, s =>
    if !portUp s p then enumStep t s
    else if 0xFFFF < s.cb.enumNext then enumStep t (refusePort s p 2)
    else
      let s := s.mapCb fun c => { c with enumPort := p }
      sendPort s p { type := 0x20, dst := 0, src := ownAddr s, data := leBytes 2 s.cb.enumNext }

/-- Start numbering below this device, from the address after its own. -/
def enumStart (s : State) : State :=
  enumStep cdPorts (s.mapCb fun c => { c with enumRun := true, enumNext := ownAddr s + 1, rng := [] })

/-- The chain master renumbers when a port of its own changes. -/
def enumIfMaster (s : State) (p : Nat) : State := if p ≠ 0 ∧ noUpstream s then enumStart s else s

/-! ## Commands from the master's queues (R363, R365) -/

/-- The record that a CMD of the master ends with when no RSP comes: STATUS only. -/
def statusRecord (s : State) (dst op tag addr status : Nat) : State := rspRecord s dst op tag addr status []

/-- An OP of Table 15.9. -/
def knownOp (op : Nat) : Bool := decide (1 ≤ op) && decide (op ≤ 6)

/-- Take a CMD at its destination: the row of its OP follows, an unknown OP is answered with 0x2. -/
def takeCmd (s : State) (h : CobaltHdr) (op addr : Nat) : State :=
  if knownOp op then s.mapCb fun c => { c with rx := some (h, op, addr) } else sendRsp s h op addr 2 []

/-- A route down a port is open. -/
def routeOpen (s : State) (p : Nat) : Bool := p != 0 && portUp s p && decide (s.sup.tstep < 3)

/-- Send one CMD of the master. -/
def masterSend (s : State) (dst op tag addr len : Nat) (data : List Byte) : State :=
  match hopOf s dst with
  | .self => takeCmd s { dst := dst, src := 0, hseq := 0, tag := tag } op addr
  | .port p =>
    if routeOpen s p then
      let s := s.mapCb fun c => { c with waiting := c.waiting ++ [(dst, tag, op, addr, 0)] }
      sendPort s p { type := 1, dst := dst, tag := tag, op := op, addr := addr, len := len, data := data }
    else statusRecord s dst op tag addr 9

/-- Entries of a kind 0x9 record: READ carries no data. -/
def cmdEntries (e : QEntry) : Nat := 1 + (if wbits e.w1 23 16 = 1 then 0 else dataCount (wbits e.w3 15 0))

/-- The data bytes of the entries that follow a first entry. -/
def entryData (l : List QEntry) (n : Nat) : List Byte := (l.flatMap fun e => bytesOfWords [e.w1, e.w2, e.w3]).take n

/-- Send the complete kind 0x9 record at the head of a queue of the link engine; none while a renumbering runs. -/
def pumpCmd (q : Nat) (s : State) : State :=
  match (queueAt s q).ents with
  | [] => s
  | e :: t =>
    let n := cmdEntries e
    if wbits e.tag 23 20 ≠ 9 ∨ s.cb.enumRun ∨ (e :: t).length < n then s
    else
      let len := wbits e.w3 15 0
      let data := if wbits e.w1 23 16 = 1 then [] else entryData (t.take (n - 1)) len
      masterSend (s.setQueue q { queueAt s q with ents := (e :: t).drop n })
        (wbits e.w1 15 0) (wbits e.w1 23 16) (wbits e.w1 31 24) e.w2.toNat len data

/-- Forward the complete kind 0xA or 0xB record at the head of a queue of the link engine upward, unchanged; the legal or the application
core pushed it. -/
def pumpUp (q : Nat) (s : State) : State :=
  match (queueAt s q).ents with
  | [] => s
  | e :: t =>
    let k := wbits e.tag 23 20
    let n := if k = 10 then 1 + dataCount (wbits e.w3 15 0) else 3
    if (k ≠ 10 ∧ k ≠ 11) ∨ (wbits e.tag 31 24 ≠ 1 ∧ wbits e.tag 31 24 ≠ 2) ∨ (e :: t).length < n then s
    else
      let s := s.setQueue q { queueAt s q with ents := (e :: t).drop n }
      if k = 10 then
        let len := wbits e.w3 15 0
        sendPort s 0 { type := 2, dst := 0, src := wbits e.w1 15 0, tag := wbits e.w1 31 24, op := wbits e.w1 23 16,
                       addr := e.w2.toNat, status := wbits e.w3 23 16, len := len, data := entryData t len }
      else
        sendPort s 0 { type := 3, dst := 0, src := wbits e.w1 15 0, tag := wbits e.w1 23 16, op := wbits e.w1 31 24,
                       addr := wbits e.w3 23 16,
                       data := leBytes 4 e.w2.toNat ++ leBytes 2 (wbits e.w3 15 0) ++ entryData t 8 }

/-- The queues whose reader is the Cobalt port. -/
def linkQueues (s : State) : List Nat := (List.range 32).filter fun q => (routeRec s.plan q).reader == 3 && (routeRec s.plan q).depth != 0

/-- The link engine takes what its queues hold: one record of each queue for every entry it could hold at most. -/
def linkPump (s : State) : State :=
  forEach (linkQueues s) (fun s q =>
    forEach (queueAt s q).ents (fun s _ => if noUpstream s then pumpCmd q s else pumpUp q s) s) s

/-- End of a renumbering at the master: the held CMDs go out. -/
def pumpIfDone (s : State) : State := if s.cb.enumRun then s else linkPump s

/-! ## Port rows -/

/-- A port goes DOWN, with the cause of 0xF2 where it was UP. The messages of the port are lost; what lay below it has no
address. -/
def downPort (s : State) (p cause : Nat) : State :=
  let x := portAt s p
  let s := portState s p 0
  let s := s.setPort p { portAt s p with out := [], wait := [], drops := 0, downTicks := 0 }
  let s := s.mapCb fun c => if p = 0 then { c with addrValid := false } else { c with rng := tdel (p - 1) c.rng }
  let s := if x.st = 2 then raise s 0xF2 p (some (cause : Nat)) else s
  pumpIfDone (enumIfMaster s p)

/-- 64 commas in alignment on an enabled port that is DOWN. -/
def execCommaAlign (port : Nat) (s : State) : Out :=
  if !isPort port then .fault .noSuchUnit
  else if (portAt s port).st = 0 ∧ s.cb.en.getLsbD port then .next (portState s port 1)
  else .next s

/-- A peer that is a follower makes a free-running device the master of its tree (02 Table 2.4). -/
def masterRole (s : State) (p role : Nat) : State :=
  if p ≠ 0 ∧ role = 2 ∧ s.tb.role = 0 ∧ s.tb.st = .free then setRole s 1 else s

/-- A HELLO: depth, address and role of the peer. -/
def execHello (port depth : Nat) (_hasAddr : Bool) (role : Nat) (s : State) : Out :=
  if !isPort port then .fault .noSuchUnit
  else
    let x := portAt s port
    if !serving s || (x.st != 1 && x.st != 2) then .next s
    else
      let s := s.setPort port { x with pdepth := depth % 32, silent := 0 }
      if port = 0 ∧ 16 ≤ depth then .next (refusePort s 0 1)
      else
        let s := masterRole s port role
        if x.st = 2 then .next s
        else
          let s := portState s port 2
          let s := raise s 0xF3 port (some ((x.downTicks / 16000 : Nat) : Int))
          .next (pumpIfDone (enumIfMaster s port))

/-- Bins of 0xF2. -/
def downBin : DownCause → Nat
  | .violations => 1 | .silence => 2 | .drops => 3

/-- The cause holds on a port: 4 violations counted, 16 frames without a HELLO or marker, or 4 consecutive drops. -/
def mayFail (x : CbPort) : DownCause → Bool
  | .violations => decide (4 ≤ x.viol)
  | .silence => decide (16 ≤ x.silent)
  | .drops => decide (4 ≤ x.drops)

/-- A port that is UP fails. -/
def execPortDown (port : Nat) (cause : DownCause) (s : State) : Out :=
  if !isPort port then .fault .noSuchUnit
  else if !serving s ∨ (portAt s port).st ≠ 2 ∨ !mayFail (portAt s port) cause then .next s
  else .next (downPort s port (downBin cause))

/-- 160,000 ticks after a refusal the port starts again from DOWN. -/
def execPortRefusedRetry (port : Nat) (s : State) : Out :=
  if !isPort port then .fault .noSuchUnit
  else if (portAt s port).st = 3 ∧ 160000 ≤ (portAt s port).refTicks then .next (portState s port 0)
  else .next s

/-- Write `CBCTL`. -/
def writeCbctl (s : State) (w : Word) : State :=
  let s := s.mapCb fun c => { c with en := w.setWidth 4 }
  forEach [0, 1, 2, 3] (fun s p => if !wbit w p && (portAt s p).st != 0 then downPort s p 4 else s) s

def execCbctlWrite (_req : Requester) (w : Word) (s : State) : Out := .next (if serving s then writeCbctl s w else s)

/-- ENUM on CU: the address of this device; it numbers what lies below. -/
def execEnum (addr : Nat) (s : State) : Out :=
  if !portUp s 0 || !serving s then .next s
  else .next (enumStart (s.mapCb fun c => { c with addr := addr % 65536, addrValid := true }))

/-- ENUM-DONE on the port that is being numbered: its range, then the next port. -/
def execEnumDone (port hi : Nat) (s : State) : Out :=
  if !s.cb.enumRun || s.cb.enumPort != port || !cdPorts.contains port then .next s
  else
    let s := s.mapCb fun c => { c with rng := tset (port - 1) (c.enumNext, hi) c.rng, enumNext := hi + 1 }
    .next (pumpIfDone (enumStep (cdPorts.filter fun p => decide (port < p)) s))

/-! ## Acknowledgement (R360) -/

/-- An ACK frees the message's place. -/
def execAck (port hseq : Nat) (s : State) : Out :=
  if !isPort port then .fault .noSuchUnit
  else
    let x := portAt s port
    if x.out.any fun m => m.hseq == hseq then
      .next (refill (s.setPort port { x with out := x.out.filter fun m => m.hseq != hseq, drops := 0 }) port)
    else .next s

/-- Bins of 0xF8. -/
def dropBin (type : Nat) : Nat := match type with | 1 => 1 | 2 => 2 | 3 => 3 | 0x30 => 4 | _ => 5

/-- Send a message again, or drop it after 4 sends. -/
def resend (s : State) (p hseq : Nat) : State :=
  let x := portAt s p
  match x.out.find? fun m => m.hseq == hseq with
  | none => s
  | some m =>
    if m.sends < 4 then
      s.setPort p { x with out := x.out.map (fun k => if k.hseq = hseq then { k with sends := k.sends + 1 } else k),
                           rtx := satAdd x.rtx 1 }
    else
      let s := s.setPort p { x with out := x.out.filter fun k => k.hseq != hseq, drops := x.drops + 1, err := true,
                                    crcDrops := min 65535 (x.crcDrops + 1) }
      raise (refill s p) 0xF8 p (some (dropBin m.type : Nat))

def execNak (port hseq : Nat) (s : State) : Out := if !isPort port then .fault .noSuchUnit else .next (resend s port hseq)

/-- 2 µs have passed without ACK. -/
def execResendTimeout (port hseq : Nat) (s : State) : Out :=
  if !isPort port then .fault .noSuchUnit else .next (resend s port hseq)

/-- A message with a wrong CRC, or without buffer space, is answered NAK. -/
def execMessageCrcError (port : Nat) (s : State) : Out :=
  if !isPort port then .fault .noSuchUnit
  else
    let x := portAt s port
    .next (s.setPort port { x with crcDrops := min 65535 (x.crcDrops + 1), err := true })

/-- A character that is no valid code group. -/
def execCodeViolation (port : Nat) (s : State) : Out :=
  if !isPort port then .fault .noSuchUnit
  else
    let x := portAt s port
    .next (s.setPort port { x with viol := min 65535 (x.viol + 1), err := true })

/-! ## Commands and responses (R363 to R365) -/

/-- A CMD that arrives: discarded unless the master sent it, executed here, or routed. Without an address the device answers only
hop-local messages. -/
def execCmd (hdr : CobaltHdr) (op addr len : Nat) (data : List Byte) (s : State) : Out :=
  if hdr.src ≠ 0 ∨ !hasAddr s ∨ !serving s then .next s
  else
    match hopOf s hdr.dst with
    | .self => .next (takeCmd s hdr op addr)
    | .port p =>
      if p ≠ 0 ∧ 3 ≤ s.sup.tstep then .next (sendRsp s hdr op addr 9 [])
      else .next (sendPort s p { type := 1, dst := hdr.dst, src := hdr.src, tag := hdr.tag, op := op, addr := addr, len := len,
                                 data := data })

/-- The awaited CMD that a DST and TAG name. -/
def awaited (s : State) (dst tag : Nat) : Option (Nat × Nat × Nat × Nat × Nat) :=
  s.cb.waiting.find? fun e => e.1 == dst && e.2.1 == tag

/-- Forget an awaited CMD. -/
def unwait (s : State) (dst tag : Nat) : State :=
  s.mapCb fun c => { c with waiting := c.waiting.filter fun e => !(e.1 == dst && e.2.1 == tag) }

/-- An RSP: recorded at the master, late when nothing awaits it, forwarded by a follower. The three parts of a quote answer one
CMD. -/
def execRsp (hdr : CobaltHdr) (op addr status : Nat) (data : List Byte) (s : State) : Out :=
  if !serving s then .next s
  else if noUpstream s then
    match awaited s hdr.src hdr.tag with
    | none => .next (s.mapCb fun c => { c with late := satAdd c.late 1 })
    | some _ =>
      let s := if op = 5 ∧ status = 0 ∧ addr ≠ 360 then s else unwait s hdr.src hdr.tag
      .next (rspRecord s hdr.src op hdr.tag addr status data)
  else
    .next (sendPort s 0 { type := 2, dst := hdr.dst, src := hdr.src, tag := hdr.tag, op := op, addr := addr, status := status,
                          len := data.length, data := data })

/-- No RSP has come within `CBRSPTO` ticks. -/
def execChainResponseTimeout (dst tag : Nat) (s : State) : Out :=
  match awaited s dst tag with
  | none => .next s
  | some e =>
    if e.2.2.2.2 ≤ s.cb.rspto ∨ !serving s then .next s
    else .next (raise (statusRecord (unwait s dst tag) dst e.2.2.1 tag e.2.2.2.1 8) 0xF7 0xFF none)

/-- QUOTE. -/
def execOpQuote (hdr : CobaltHdr) (nonce : List Byte) (s : State) : Out :=
  .next (if serving s then quoteAsk (takeRx s) .chain nonce (some hdr) else s)

/-! ## Aggregates (R364, R366) -/

/-- ID, quantity, tariff and PERIOD of an AGGDEF are in range. -/
def aggOk (arg : Word) (mask : List Byte) : Bool :=
  decide (wbits arg 7 0 ≤ 15) && decide (1 ≤ wbits arg 11 8) && decide (wbits arg 11 8 ≤ 12) && decide (wbits arg 15 12 ≤ 8) &&
  decide (wbits arg 31 16 ≤ 3600) && mask.length == 16

/-- Define an aggregate, or delete it with PERIOD 0. -/
def aggSet (s : State) (arg : Word) (mask : List Byte) : State :=
  let i := wbits arg 7 0
  let d : AggDef := { qty := wbits arg 11 8, tariff := wbits arg 15 12, period := wbits arg 31 16, mask := mask }
  s.mapCb fun c => { c with aggs := if wbits arg 31 16 = 0 then tdel i c.aggs else tset i d c.aggs }

def execAggdef (hdr : CobaltHdr) (arg : Word) (mask : List Byte) (s : State) : Out :=
  if !serving s then .next s
  else
  let s := takeRx s
  if aggOk arg mask then .next (sendRsp (aggSet s arg mask) hdr 6 arg.toNat 0 []) else .next (sendRsp s hdr 6 arg.toNat 3 [])

/-- The masked points of type 1–3. -/
def aggPts (s : State) (d : AggDef) : List Nat :=
  (livePts s).filter fun p => (d.mask.getD (p / 8) 0).getLsbD (p % 8)

/-- A register of a point in 10^-6 Wh. -/
def regMicro (s : State) (p t q : Nat) : Nat :=
  let v := (tget (Pair.zero 64) (regIx p t q) s.bl.w1).v.toNat
  let e := (pointDef s.plan p).qexp + 6
  if 0 ≤ e then v * 10 ^ e.toNat else v / 10 ^ (-e).toNat

/-- The sum of an aggregate. -/
def aggSum (s : State) (d : AggDef) : Nat :=
  ((aggPts s d).flatMap fun p =>
    ((List.range 8).filter fun i => d.tariff == 0 || d.tariff == i + 1).map fun i => regMicro s p (i + 1) d.qty).sum

/-- Aligned to the common grid (02 R43). -/
def aligned (s : State) : Bool := decide (s.tb.role ≤ 1) || (s.tb.st == .locked && !s.tb.uphold)

/-- FLAGS of Table 15.10. -/
def aggFlags (s : State) (d : AggDef) : Nat :=
  flagAt (!aligned s) 0 + flagAt ((aggPts s d).any fun p => faulted s p) 1 + flagAt s.nowSec.2 2 +
  flagAt (decide (2 ^ 64 ≤ aggSum s d)) 3 + flagAt ((aggPts s d).any fun p => srcOf s p != 0) 4

/-- Send one aggregate: at the master it is recorded. -/
def aggSend (s : State) (aid : Nat) (d : AggDef) : State :=
  let v := BitVec.ofNat 64 (min (aggSum s d) (2 ^ 64 - 1))
  let n := (aggPts s d).length
  if noUpstream s then aggRecord s (ownAddr s) aid (aggFlags s d) n s.tb.frame v
  else sendPort s 0 { type := 3, dst := 0, src := s.cb.addr, tag := aid, op := aggFlags s d, addr := n,
                      data := leBytes 6 s.fnum ++ leBytes 8 v.toNat }

/-- AGGREGATE_SUM at the frame number in use: every aggregate a multiple of whose period was reached or passed since the last
frame number. -/
def aggTick (s : State) : State :=
  let a := s.cb.aggFrame
  let s := s.mapCb fun c => { c with aggFrame := s.fnum }
  forEach s.cb.aggs (fun s e => if a / (e.2.period * 16000) < s.fnum / (e.2.period * 16000) then aggSend s e.1 e.2 else s) s

/-- An AGG: recorded at the master, forwarded by a follower. -/
def execAgg (hdr : CobaltHdr) (aid flags points : Nat) (frame : Frame) (value : BitVec 64) (s : State) : Out :=
  if !serving s then .next s
  else if noUpstream s then .next (aggRecord s hdr.src aid flags points frame value)
  else .next (sendPort s 0 { type := 3, dst := hdr.dst, src := hdr.src, tag := aid, op := flags, addr := points,
                             data := leBytes 6 frame.toNat ++ leBytes 8 value.toNat })

/-! ## Queue pushes (R343; 04 R102, Table 17.3) -/

/-- The tag as the queue writes it: requester and frame; kind and sub-index as given. -/
def pushTag (s : State) (req : Requester) (w : Word) : Word := tagOf (reqNum req) (wbits w 23 20) s.tb.frame (wbits w 3 0)

/-- Whether a push of the requester into a queue is refused with 0x4: the pusher is the queue's reader, or the queue is full. -/
def pushRefused (s : State) (req : Requester) (q : Nat) : Bool :=
  let x := queueAt s q
  let mark := if x.refused = 0 then 0 else 1
  isReader (routeRec s.plan q) req || decide ((routeRec s.plan q).depth < x.ents.length + mark + 1)

/-- Push one entry into Q24–Q31: the new state and the status code. -/
def qpushWords (s : State) (req : Requester) (q : Nat) (w0 w1 w2 w3 : Word) : State × Nat :=
  let e : QEntry := { tag := pushTag s req w0, w1 := w1, w2 := w2, w3 := w3 }
  if isReader (routeRec s.plan q) req then (s, 4)
  else
    let bad := pushRefused s req q
    let r := pushTo s q [e]
    let s := if r.opened then raise r.s 0x49 q none else r.s
    (linkPump s, if bad then 4 else 0)

def execQpush (req : Requester) (q : Nat) (w0 w1 w2 w3 : Word) (s : State) : Out :=
  if !isPushQueue q then .fault .noSuchUnit
  else if !serving s then .next s
  else
    let r := qpushWords s req q w0 w1 w2 w3
    .next (if req = .host then r.1.mapHp fun h => { h with code := if r.2 = 0 then h.code else r.2, status := some (r.2, irqN h, false) }
      else r.1)

end Sys2Proof.Machine
end

