-- ==== Sys2Proof/Machine/Recorder.lean ====
section
/-! DEFINITION. The event recorder's own commands (12): summary windows, token refills, privileged entries, export
acknowledgement, clearing and the reading cursor. -/

namespace Sys2Proof.Machine

/-! ## Summaries -/

/-- Raise an event from outside the other commands (12 R287). -/
def execEventRaise (code chan : Nat) (v : Option Int) (s : State) : Out := .next (if s.powered then raise s code chan v else s)

/-- Close the open summary at an index with the flags given, and store it (12 R283, R285). -/
def closeAt (s : State) (i : Nat) (f : Summary → Summary) : State :=
  match s.er.work[i]? with
  | some m => (s.mapEr fun r => { r with work := r.work.eraseIdx i }).storeSum (f m)
  | none => s

/-- Close and store the open summary of a key once the operating-second has reached o + AGW (12 R283, R286). -/
def execSummaryWindowClose (code chan : Nat) (s : State) : Out :=
  match keyIx s.er.work code chan with
  | some i =>
    match s.er.work[i]? with
    | some m => if s.powered && windowPast s.er m then .next (closeAt s i id) else .next s
    | none => .next s
  | none => .next s

/-- Close every open summary, with CUT, at the power-fail commit (12 R285). -/
def cutAll (s : State) : State :=
  let t := s.mapEr fun r => { r with work := [], waitS := [], clrbusy := false }
  forEach s.er.work (fun s m => s.storeSum { m with cut := true }) (forEach s.er.waitS (fun s m => s.storeSum m) t)

/-- One token of a code's bucket, when its refill instant has come (12 R287). -/
def execTokenRefill (code : Nat) (s : State) : Out :=
  let b := tget (bucketReset code) code s.er.rl
  if b.period ≠ 0 ∧ b.next ≤ s.sup.startTicks then
    .next (s.setBucket code { b with tokens := min b.burst (b.tokens + 1), next := b.next + b.period * 16 })
  else .next s

/-! ## Privileged entries -/

/-- The parts of an entry as stored: 36 payload bytes each (12 R289, Table 12.5). -/
def partsOf (s : State) (e : PrivDue) : List PrivPart :=
  (List.range e.parts).map fun i =>
    { seq := s.er.pseq + i, ptype := e.ptype, part := i, count := e.parts,
      flg := flagAt e.restored 0 + flagAt e.cell 1, frame := s.tb.frame, time := s.stamp 0,
      payload := let p := bytesAt e.payload (36 * i) 36; p ++ List.replicate (36 - p.length) 0#8
      residues := if i = 0 then e.residues else [] }

/-- Write the parts of an entry into the ring and release its reservation (12 R290, R292). -/
def writeEntry (s : State) (e : PrivDue) : State :=
  let t := s.mapEr fun r =>
    { r with parts := (partsOf s e).foldl (fun t p => tset (p.seq % 4096) p t) r.parts
             pseq := r.pseq + e.parts
             pres := if e.refusable then r.pres - e.parts else r.pres }
  fullIrq s t

/-- An entry may be written: its parts are reserved, or F covers them (12 R292). -/
def writable (r : Recorder) (e : PrivDue) : Bool := e.refusable || decide ((e.parts : Int) ≤ freeParts r)

/-- Count the parts of an entry that cannot be written, once (12 R292). -/
def countLost (s : State) (e : PrivDue) : State :=
  if e.lost then s
  else
    let t := s.mapEr fun r => { r with plostN := satAdd r.plostN e.parts, plost := true }
    if s.er.plost then t else t.irq 10

/-- Write the first due entry that space allows; those passed over are counted lost and stay due (12 R291, R292). -/
def writeFirst : List PrivDue → List PrivDue → State → State
  | _, [], s => s
  | pre, e :: rest, s =>
    if writable s.er e then writeEntry (s.mapEr fun r => { r with due := pre ++ rest }) e
    else
      let s := countLost s e
      writeFirst (pre ++ [{ e with lost := true }]) rest (s.mapEr fun r => { r with due := pre ++ { e with lost := true } :: rest })

/-- Write one privileged entry that is due (12 R289). -/
def execPrivilegedEntryWrite (s : State) : Out := .next (if s.powered then writeFirst [] s.er.due s else s)

/-! ## Stored records as bytes -/

/-- A summary in the layout of Table 12.3, with the mark word given. -/
def summaryBytes (m : Summary) (mark : Nat) : List Byte :=
  leBytes 1 m.code ++ leBytes 1 m.chan ++
  leBytes 1 (m.sev + flagAt m.endonly 2 + flagAt m.early 3 + flagAt m.cut 4 + flagAt m.xvalid 5) ++ leBytes 1 0 ++
  leBytes 4 m.sseq.toNat ++ leBytes 4 m.count ++ leBytes 4 m.supp ++ leBytes 4 m.fops ++ leBytes 4 m.lops ++
  leBytes 4 m.fpwc ++ leBytes 4 m.lpwc ++ leBytes 4 (toField 32 m.xmin) ++ leBytes 4 (toField 32 m.xmax) ++
  (m.hist.flatMap fun n => leBytes 2 n) ++ leBytes 4 0 ++ leBytes 4 mark

/-- The mark word of a valid record (12 R281). -/
def markValid : Nat := 0xA53C5AC3

/-- A privileged part in the layout of Table 12.5. -/
def partBytes (p : PrivPart) : List Byte :=
  leBytes 4 p.seq ++ leBytes 1 p.ptype ++ leBytes 1 (p.part + 16 * p.count) ++ leBytes 1 p.flg ++ leBytes 1 0 ++
  leBytes 8 p.frame.toNat ++ leBytes 8 p.time.toNat ++ bytesAt p.payload 0 36 ++ leBytes 4 (if p.ok then markValid else 0)

/-- The valid part with a sequence number, if the ring still holds it. -/
def partAt (r : Recorder) (seq : Nat) : Option PrivPart :=
  (r.parts.find? fun e => e.1 == seq % 4096 && e.2.seq == seq).map (·.2)

/-! ## Export acknowledgement (12 R293) -/

/-- A request of the host or the application core reaches the legal core under 01 R17; other requesters only read
(Table 17.3). -/
def execErpack (req : Requester) (ack d0 d1 : Option Word) (s : State) : Out :=
  match req with
  | .host | .app => .next (if serving s then s.mapHp fun h => { h with legal := h.legal ++ [.ack req ack d0 d1] } else s)
  | _ => .next s

/-- The digest bytes 0–7 that an acknowledgement up to `a` must give. -/
def ackDigest (r : Recorder) (a : Nat) : Nat :=
  leNat ((Sha.digestBytes ((List.range (a - r.wm)).flatMap fun i =>
    match partAt r (r.wm + i) with
    | some p => partBytes p
    | none => List.replicate 64 0#8)).take 8)

/-- The conditions of 12 R293. -/
def ackOk (r : Recorder) (a d0 d1 : Word) : Bool :=
  decide (r.wm < a.toNat) && decide (a.toNat ≤ r.pseq) &&
  (a.toNat == r.pseq || (partAt r a.toNat).any fun p => p.part == 0) &&
  ackDigest r a.toNat == d0.toNat + d1.toNat * 2 ^ 32

/-- An acknowledgement with all its words, under those conditions. -/
def ackAsked (r : Recorder) : Option Word → Option Word → Option Word → Bool
  | some a, some d0, some d1 => ackOk r a d0 d1
  | _, _, _ => false

/-- The legal core's answer to an acknowledgement: the watermark moves and a 0x0E entry falls due, or ACKREF is set. -/
def answerAck (s : State) (req : Requester) (a d0 d1 : Option Word) : State :=
  match a, d0, d1 with
  | some a, some d0, some d1 =>
    if ackOk s.er a d0 d1 then
      privDue (s.mapEr fun r => { r with wm := a.toNat }) 0x0E
        (leBytes 4 s.er.wm ++ leBytes 4 a.toNat ++ leBytes 1 (reqNum req))
    else s.mapEr fun r => { r with ackref := true }
  | _, _, _ => s.mapEr fun r => { r with ackref := true }

/-! ## Clearing the summary area (12 R295, R296) -/

/-- ERSCLR.GO of the host or the application core reaches the legal core; other requesters only read (Table 17.3). -/
def execErsclr (req : Requester) (s : State) : Out :=
  match req with
  | .host | .app => .next (if serving s then s.mapHp fun h => { h with legal := h.legal ++ [.clear req] } else s)
  | _ => .next s

/-- The GMAC authority: the tag under the recorder key over the factory ID and the challenge; none while the key RAM holds no
recorder key (12 R295). -/
def gmacOk (s : State) : Bool :=
  match s.tp.keys.find? fun e => e.1 == 0 with
  | some (_, key) => Config.gmac64 key (s.nv.fid ++ leBytes 8 s.er.chal.toNat) == s.er.auth
  | none => false

/-- A new challenge (12 R295). -/
def newChallenge (s : State) : State :=
  let d := s.draw
  d.2.mapEr fun r => { r with chal := BitVec.ofNat 64 d.1 }

/-- The highest SSEQ of the stored summaries under the comparison of 08 R204; 0 with none. -/
def highestSseq (t : Tab Summary) : Word :=
  match t with
  | [] => 0
  | (_, m) :: t => t.foldl (fun w e => if older w e.2.sseq then e.2.sseq else w) m.sseq

/-- A clear is accepted: the privileged area takes its entry, and the seal is open or the tag holds (12 R295). -/
def clearOk (s : State) : Bool := !privFull s.er && (s.sealOpen || gmacOk s)

/-- The legal core's answer to a clear request. An accepted clear reserves and dues its 0x0D entry and starts the pass. -/
def answerClear (s : State) (req : Requester) : State :=
  let ok := clearOk s
  let auth := if s.sealOpen then 0 else 1
  let s := newChallenge s
  if ok then
    let s := reserve s 1
    let l := s.er.area0.filter (·.2.ok)
    let s := privDue s 0x0D (leBytes 1 (reqNum req) ++ leBytes 1 auth ++ leBytes 2 0 ++ leBytes 4 l.length ++ leBytes 4 (highestSseq l).toNat)
    s.mapEr fun r => { r with clrbusy := true, clrPos := 0 }
  else s.mapEr fun r => { r with clrref := true }

/-- The part of the clear pass that one tick does: the mark words of 16 records in ascending order (12 R296); the rest of a record stays as
stored (R297). -/
def clearTick (s : State) : State :=
  if s.er.clrbusy then
    s.mapEr fun r => { r with area0 := r.area0.map fun e => if e.1 < r.clrPos + 16 then (e.1, { e.2 with ok := false }) else e
                              clrPos := r.clrPos + 16 }
  else s

/-- The pass has covered the 12,272 records: CLRBUSY clears and the waiting summaries are written (12 R296). -/
def execSummaryClearPassEnd (s : State) : Out :=
  if s.powered ∧ s.er.clrbusy ∧ 12272 ≤ s.er.clrPos then
    .next (forEach s.er.waitS (fun s m => s.storeSum m) (s.mapEr fun r => { r with clrbusy := false, waitS := [] }))
  else .next s

/-! ## The reading cursor (12 R297) -/

/-- The highest cursor position of an area; none for AREA 3. -/
def areaLimit (r : Recorder) : Option Nat :=
  match r.area with
  | 0 => some 12271
  | 1 => some r.pseq
  | 2 => some 511
  | _ => none

/-- The least element above a bound. -/
def nextAbove (i : Nat) (l : List Nat) : Option Nat := (l.filter fun j => decide (i < j)).min?

/-- The next position that holds a valid record. -/
def nextValid (r : Recorder) : Option Nat :=
  match r.area with
  | 0 => nextAbove r.cidx ((r.area0.filter (·.2.ok)).map (·.1))
  | 1 => nextAbove r.cidx ((r.parts.filter fun e => e.2.ok).map fun e => e.2.seq)
  | 2 => if r.cidx + 1 < r.work.length then some (r.cidx + 1) else none
  | _ => none

/-- The cursor after a completed transaction that reads `ERWIN15`. -/
def cursorMove (r : Recorder) : Recorder :=
  match areaLimit r with
  | none => r
  | some lim =>
    match r.mode with
    | 1 => if r.cidx + 1 ≤ lim then { r with cidx := r.cidx + 1 } else { r with atEnd := true }
    | 2 =>
      match nextValid r with
      | some i => { r with cidx := i }
      | none => { r with atEnd := true }
    | _ => r

/-- Any requester's completed read of `ERWIN15` moves the cursor. -/
def execErwin15Read (_req : Requester) (s : State) : Out := .next (if serving s then s.mapEr cursorMove else s)

/-- The record shown in the window, in bytes, and `ERRSTS` VALID, MISS, OPEN (12 R297). -/
def windowOf (r : Recorder) : List Byte × Bool × Bool × Bool :=
  let blank := List.replicate 64 0#8
  match r.area with
  | 0 =>
    match r.area0.find? fun e => e.1 == r.cidx with
    | some (_, m) => (summaryBytes m (if m.ok then markValid else 0), m.ok, false, false)
    | none => (blank, false, false, false)
  | 1 =>
    match r.parts.find? fun e => e.1 == r.cidx % 4096 with
    | some (_, p) =>
      if p.seq = r.cidx then (partBytes p, p.ok, false, false)
      else if p.ok then (blank, false, true, false)
      else (partBytes p, false, false, false)
    | none => (blank, false, false, false)
  | 2 =>
    match r.work[r.cidx]? with
    | some m => (summaryBytes m 0, true, false, true)
    | none => (blank, false, false, false)
  | _ => (blank, false, false, false)

end Sys2Proof.Machine
end

