-- ==== Sys2Proof/Machine/Profile.lean ====
section
/-! DEFINITION. The drive profile of the display (13 R306 to R311): its layout, its checks, and what a phase drives. -/

namespace Sys2Proof.Machine

/-! ## Layout (Table 13.5) -/

/-- The profile in use. -/
def profileOfDisplay (s : State) : List Byte := if s.dp.profile.isEmpty then Config.factoryProfile else s.dp.profile

def pfTsrc (b : List Byte) : Nat := leAt b 6 1
def pfTslp (b : List Byte) : Int := fromField 32 (leAt b 8 4)
def pfTofs (b : List Byte) : Int := fromField 16 (leAt b 0xC 2)
def pfVcom (b : List Byte) : Nat := leAt b 0xE 2
def pfEdges (b : List Byte) : List Int := (List.range 7).map fun i => fromField 8 (leAt b (0x10 + i) 1)
def pfRebthr (b : List Byte) : Nat := leAt b 0x18 4
def pfRebstop (b : List Byte) : Nat := leAt b 0x1C 4
def pfDclim (b : List Byte) : Nat := leAt b 0x20 4

/-- AGE entries: threshold in switches, lengthening. -/
def pfAge (b : List Byte) : List (Nat × Nat) :=
  (List.range 8).map fun i => (leAt b (0x24 + 4 * i) 3 * 1000, leAt b (0x27 + 4 * i) 1)

/-- The levels of a phase: 0 end, 1 VPOS, 2 VNEG, 3 hold; and its steps. -/
structure WavePhase where
  level : Nat
  steps : Nat
deriving DecidableEq, Repr

/-- Phases of waveform w (0 dark, 1 light, 2 clear) of a band. -/
def pfWave (b : List Byte) (band w : Nat) : List WavePhase :=
  (List.range 8).map fun i => ⟨leAt b (0x44 + 48 * band + 16 * w + 2 * i) 1, leAt b (0x45 + 48 * band + 16 * w + 2 * i) 1⟩

/-- The phases before the first end code. -/
def livePhases (l : List WavePhase) : List WavePhase := l.takeWhile fun p => p.level != 0

/-! ## Checks (R307) -/

/-- A list rises strictly. -/
def risingI : List Int → Bool
  | a :: b :: t => decide (a < b) && risingI (b :: t)
  | _ => true

/-- A waveform's live phases are valid and drive at least once. -/
def waveOk (l : List WavePhase) : Bool :=
  (l.all fun p => decide (p.level ≤ 3)) && ((livePhases l).all fun p => decide (1 ≤ p.steps)) &&
  (livePhases l).any fun p => p.level == 1 || p.level == 2

/-- Every field lies within its range. -/
def profileFields (b : List Byte) : Bool :=
  ((decide (160 ≤ pfTsrc b) && decide (pfTsrc b ≤ 167)) || pfTsrc b == 0xFF) && decide (pfVcom b ≤ 250) && risingI (pfEdges b) &&
  decide (1 ≤ pfRebthr b) && decide (pfRebthr b < 2 ^ 31) && decide (4 * pfVcom b ≤ pfRebstop b) &&
  decide (pfRebstop b < pfRebthr b) && decide (pfRebthr b < pfDclim b) && risingI ((pfAge b).map fun e => (e.1 : Int)) &&
  ((List.range 24).all fun i => waveOk (pfWave b (i / 3) (i % 3)))

/-- Why a profile is refused: 1 MAGIC or VER, 2 CRC, 3 field; 0 accepted. -/
def profileCheck (b : List Byte) : Nat :=
  if leAt b 0 4 ≠ 0x46525044 ∨ leAt b 4 2 ≠ 1 then 1
  else if (crc32 (b.take 0x3FC)).toNat ≠ leAt b 0x3FC 4 then 2
  else if !profileFields b then 3
  else 0

/-! ## Temperature and band (R308) -/

/-- T in 0.01 °C from an auxiliary stream value. -/
def auxTemp (b : List Byte) (v : Int) : Int := satS 32 (pfTofs b + pfTslp b * v * 100 / 2 ^ 24)

/-- The band of a temperature. -/
def bandOf (b : List Byte) (t : Int) : Nat := ((pfEdges b).filter fun e => decide (e * 100 ≤ t)).length

/-! ## Charges (R299, R310, R311) -/

/-- The four levels of a segment output (R299). -/
inductive OutLevel where
  | vpos | vneg | vcom | zero
deriving DecidableEq, Repr

/-- A level in millivolts, under a VCOM code (R302). -/
def levelMv (vcom : Nat) : OutLevel → Int
  | .vpos => 15000 | .vneg => -15000 | .vcom => -(10 * (vcom : Int)) | .zero => 0

/-- Charge of one step in V·frames: round(ΔV × 320), ΔV being the segment's level less that of TOPCOM. -/
def stepCharge (vcom : Nat) (seg top : OutLevel) : Int := rndDiv ((levelMv vcom seg - levelMv vcom top) * 320) 1000

/-- The output level of a phase's level code. -/
def phaseLevel (level : Nat) : OutLevel := match level with | 1 => .vpos | 2 => .vneg | _ => .vcom

/-- TOPCOM, and a driven and an undriven segment, in a positive or negative rebalance step (R312). -/
def rebTop (pos : Bool) : OutLevel := if pos then .vcom else .zero
def rebLevel (pos drives : Bool) : OutLevel := if drives = pos then .zero else .vcom

/-- Charge of a step of a phase. -/
def chargeOf (vcom level : Nat) : Int := stepCharge vcom (phaseLevel level) .vcom

/-- Charge that a rebalance step leaves on a segment it drives. -/
def rebCharge (vcom : Nat) (pos : Bool) : Int := stepCharge vcom (rebLevel pos true) (rebTop pos)

/-- Lengthening of a switch count. -/
def ageOf (b : List Byte) (swc : Nat) : Nat := (((pfAge b).filter fun e => decide (e.1 ≤ swc)).getLast?.map (·.2)).getD 0

/-- The largest lengthening. -/
def ageMax (b : List Byte) : Nat := ((pfAge b).map (·.2)).foldl max 0

/-- Steps of a phase under a lengthening; holds are not lengthened. -/
def phaseSteps (p : WavePhase) (a : Nat) : Nat := if p.level = 3 then p.steps else (p.steps * (256 + a) + 255) / 256

end Sys2Proof.Machine
end

