-- ==== Sys2Proof/Machine/Panel.lean ====
section
/-! DEFINITION. The panel drive of the display (13 R299 to R318): rails, step grid, regions and their journals, segment faults,
rebalance. -/

namespace Sys2Proof.Machine

/-! ## Layout (Table 13.1) -/

/-- First segment and number of segments of a region. -/
def rgnSegs (r : Nat) : Nat × Nat :=
  if r < 8 then (8 * r, 8) else if r = 8 then (64, 24) else if r < 12 then (88 + 16 * (r - 9), 16) else (136 + 14 * (r - 12), 14)

def regions : List Nat := List.range 16

/-- The segments of a region. -/
def segsOf (r : Nat) : List Nat := (List.range (rgnSegs r).2).map fun i => (rgnSegs r).1 + i

/-- The region of a segment. -/
def rgnOf (sg : Nat) : Nat := (regions.find? fun r => decide ((rgnSegs r).1 ≤ sg) && decide (sg < (rgnSegs r).1 + (rgnSegs r).2)).getD 0

def segAt (s : State) (n : Nat) : Segment := tget {} n s.dp.seg
def State.setSeg (s : State) (n : Nat) (x : Segment) : State := s.mapDp fun d => { d with seg := tset n x d.seg }
def rgnAt (s : State) (r : Nat) : Region := tget {} r s.dp.rgn
def State.setRgn (s : State) (r : Nat) (x : Region) : State := s.mapDp fun d => { d with rgn := tset r x d.rgn }

/-- Two-bit code of a state (R317). -/
def opticCode : Optic → Nat
  | .light => 0 | .dark => 1 | .inter => 2 | .unknown => 3

/-- First 32 bits of the digest of a region's state vector, segment 0 in the lowest bits (log 38). -/
def vecDigest (s : State) (r : Nat) : Word :=
  let v := (segsOf r).foldr (fun n a => a * 4 + opticCode (segAt s n).opt) 0
  BitVec.ofNat 32 (Sha.beNat ((Sha.digestBytes (leBytes (((rgnSegs r).2 + 3) / 4) v)).take 4))

/-- Commit the state vector of a region with its digest, and close its journal (R317). -/
def closeJournal (s : State) (r : Nat) : State := s.setRgn r { rgnAt s r with sdig := some (vecDigest s r), jopen := false }

/-! ## Rails and conditions (R302 to R305) -/

/-- All rails are good. -/
def railsOk (d : Display) : Bool := d.vneg == .good && d.vpos == .good && d.vcom == .good

def railsOff (d : Display) : Bool := d.vneg == .off && d.vpos == .off && d.vcom == .off

/-- A segment of regions 0 to 11 has a segment fault. -/
def legalSegFault (d : Display) : Bool := d.seg.any fun e => decide (e.1 < 136) && e.2.fault

/-- `DPSTS.COND`: 0 off, 1 on, 2 degraded (R304). -/
def dispCond (d : Display) : Nat :=
  if !d.en then 0 else if d.railBad || legalSegFault d then 2 else if railsOk d then 1 else 0

/-- The display drives: rails good and no power-down. -/
def dispOn (s : State) : Bool := railsOk s.dp && !s.dp.poweringDown

/-- The region is in a clear. -/
def clearing (s : State) : Bool := regions.any fun r => (rgnAt s r).clear != 0

/-! ## Requests (R313) -/

/-- The target bit of a segment. -/
def wantsDark (t : BitVec 24) (r n : Nat) : Bool := t.getLsbD (n - (rgnSegs r).1)

/-- A segment shows its target. -/
def segShows (x : Segment) (dark : Bool) : Bool := x.opt == (if dark then Optic.dark else Optic.light)

/-- A request for a region. -/
def request (s : State) (r : Nat) (t : BitVec 24) : State :=
  let x := rgnAt s r
  match x.st with
  | .idle => if (segsOf r).all fun n => segShows (segAt s n) (wantsDark t r n) then s.setRgn r { x with target := t }
      else s.setRgn r { x with st := .pending, target := t }
  | .pending => s.setRgn r { x with target := t }
  | .driving => s.setRgn r { x with pend := some t }

/-- The target last asked of a region. -/
def lastTarget (s : State) (r : Nat) : BitVec 24 := (rgnAt s r).pend.getD (rgnAt s r).target

/-- Write `DPFREE`: a request of the host or the application core. -/
def writeFree (s : State) (req : Requester) (r : Nat) (w : Word) : State :=
  if req = .host ∨ req = .app then
    request (s.mapDp fun d => { d with free := tset (r - 12) (w &&& 0x3FFF) d.free }) r ((w &&& 0x3FFF).setWidth 24)
  else s

def execDpfree (req : Requester) (r : Nat) (w : Word) (s : State) : Out :=
  if !isFreeRegion r then .fault .noSuchUnit else .next (if serving s then writeFree s req r w else s)

/-! ## Phases (R309 to R311, R314) -/

/-- Number of the waveform of Table 13.5 that a segment's `wave` names: 1 dark, 2 light, 3 clear. -/
def waveNo (w : Nat) : Nat := w - 1

/-- Live phases of a segment's waveform in a band. -/
def segPhases (b : List Byte) (band : Nat) (x : Segment) : List WavePhase :=
  if x.wave = 0 then [] else livePhases (pfWave b band (waveNo x.wave))

/-- Steps for which a segment is driven in phase i of its waveform; none without such a phase. -/
def ownLen (s : State) (r i n : Nat) : Option (WavePhase × Nat) :=
  let b := profileOfDisplay s
  let x := segAt s n
  (segPhases b (rgnAt s r).band x)[i]?.map fun p => (p, phaseSteps p (ageOf b x.swc))

/-- The length of phase i of a region: the longest lengthened phase i of its segments. -/
def phaseLen (s : State) (r i : Nat) : Nat := ((segsOf r).map fun n => ((ownLen s r i n).map (·.2)).getD 0).foldl max 0

/-- Change the imbalance of a segment; 0xE5 when |imbalance| first reaches DCLIM (R310). -/
def addCharge (s : State) (n : Nat) (c : Int) : State :=
  let x := segAt s n
  let v := satS 32 (x.dci + c)
  let lim := pfDclim (profileOfDisplay s)
  let s := s.setSeg n { x with dci := v }
  if x.dci.natAbs < lim ∧ lim ≤ v.natAbs then raise s 0xE5 n (some ((v.natAbs * 1000 / lim : Nat) : Int)) else s

/-- What a waveform leaves: dark, else light. -/
def waveEnd (w : Nat) : Optic := if w = 1 then .dark else .light

/-- The end of phase i for one segment: its charge, and the end of its waveform when no phase follows. -/
def segPhaseEnd (r i : Nat) (s : State) (n : Nat) : State :=
  let x := segAt s n
  if x.wave = 0 || x.fault then s
  else
    let b := profileOfDisplay s
    let ps := segPhases b (rgnAt s r).band x
    match ps[i]? with
    | none => s
    | some p =>
      let s := addCharge s n (phaseSteps p (ageOf b x.swc) * chargeOf (pfVcom b) p.level)
      if ps.length ≤ i + 1 then
        let y := segAt s n
        s.setSeg n { y with swc := satAdd y.swc 1, opt := waveEnd x.wave, wave := 0 }
      else s

/-- Start phase i of a region; the journal's PHASE is rewritten (R317). -/
def startPhase (s : State) (r i : Nat) : State :=
  let s := s.setRgn r { rgnAt s r with phase := i }
  s.setRgn r { rgnAt s r with steps := phaseLen s r i }

/-- T and the band of the updates that start now (R308). The die sensor's reading is none of the commands': a free value
(log 39). -/
def updateTemp (s : State) : State :=
  let b := profileOfDisplay s
  if pfTsrc b = 0xFF ∨ (s.plan.safe ∧ sectBody s.plan 2 = []) then
    let d := s.draw
    d.2.mapDp fun x => { x with temp := fromField 32 d.1, band := bandOf b (fromField 32 d.1) }
  else
    let t := auxTemp b (streamOf s (pfTsrc b))
    s.mapDp fun x => { x with temp := t, band := bandOf b t }

/-- Give each segment of a region its waveform for a target (R309). -/
def takeWaves (s : State) (r : Nat) (t : BitVec 24) : State :=
  forEach (segsOf r) (fun s n =>
    let x := segAt s n
    let dark := wantsDark t r n
    s.setSeg n { x with wave := if x.fault || segShows x dark then 0 else if dark then 1 else 2 }) s

/-- Start the update of a PENDING region: band, waveforms, journal, phase 0 (R314). -/
def startUpdate (s : State) (r : Nat) : State :=
  let x := rgnAt s r
  let s := takeWaves s r x.target
  if (segsOf r).all fun n => (segAt s n).wave == 0 then s.setRgn r { x with st := .idle }
  else
    startPhase (s.setRgn r { x with st := .driving, band := s.dp.band, jopen := true, jframe := s.tb.frame,
                                    sdig := some (vecDigest s r) }) r 0

/-- Start the clear waveforms of a region: the dark part on every segment for an UNKNOWN region, else the clear part (R318). -/
def startClear (s : State) (r part : Nat) : State :=
  let s := forEach (segsOf r) (fun s n =>
    let x := segAt s n
    s.setSeg n { x with wave := if x.fault then 0 else if part = 1 then 1 else 3 }) s
  startPhase (s.setRgn r { rgnAt s r with st := .driving, clear := part, band := s.dp.band }) r 0

/-- The clear of a region has ended. -/
def endClear (s : State) (r : Nat) : State :=
  let s := closeJournal s r
  let x := rgnAt s r
  let s := s.setRgn r { x with st := .idle, clear := 0, target := 0, pend := none, phase := 0, steps := 0 }
  match x.pend with
  | some t => request s r t
  | none => s

/-- Segments whose waveform has not ended become INTER. -/
def stopWaves (s : State) (r : Nat) : State :=
  forEach (segsOf r) (fun s n =>
    let x := segAt s n
    if x.wave = 0 then s else s.setSeg n { x with wave := 0, opt := .inter }) s

/-- No segment of a region has a waveform left. -/
def wavesDone (s : State) (r : Nat) : Bool := (segsOf r).all fun n => (segAt s n).wave == 0 || (segAt s n).fault

/-- A start is permitted: the display on, the ladder below step 2, no rebalance (R315). While it is not, a running update goes to its end
and a pending request waits for it (R305, R315; log 137). -/
def startOk (s : State) : Bool := dispOn s && decide (s.sup.tstep < 2) && !s.dp.rebal

/-- The end of a region's phase (Table 13.6). -/
def phaseEnd (s : State) (r : Nat) : State :=
  let i := (rgnAt s r).phase
  let s := forEach (segsOf r) (segPhaseEnd r i) s
  let x := rgnAt s r
  if x.clear ≠ 0 then
    if !wavesDone s r then startPhase s r (i + 1)
    else if x.clear = 1 then startClear s r 2
    else endClear s r
  else
    match (if !startOk s && !wavesDone s r then none else x.pend) with
    | some t =>
      let s := closeJournal (stopWaves s r) r
      s.setRgn r { rgnAt s r with st := .pending, target := t, pend := none, phase := 0, steps := 0 }
    | none =>
      if wavesDone s r then
        let s := closeJournal s r
        s.setRgn r { rgnAt s r with st := .idle, phase := 0, steps := 0 }
      else startPhase s r (i + 1)

/-- A step of a DRIVING region has passed. -/
def regionStep (s : State) (r : Nat) : State :=
  let x := rgnAt s r
  if x.st ≠ .driving then s
  else if x.steps ≤ 1 then phaseEnd s r
  else s.setRgn r { x with steps := x.steps - 1 }

/-! ## Output checks (R304) -/

/-- One output in the step that ended. -/
def outputCheck (missed : List Nat) (s : State) (n : Nat) : State :=
  let x := segAt s n
  if x.fault then s
  else if missed.contains n then
    if x.miss = 0 then s.setSeg n { x with miss := 1 }
    else
      let s := s.setSeg n { x with miss := 0, fault := true, opt := .unknown, wave := 0 }
      let r := rgnOf n
      let s := if (rgnAt s r).st = .driving then s else closeJournal s r
      let k := ((segsOf r).filter fun m => (segAt s m).fault).length
      raise (s.mapDp fun d => { d with sfault := true }) 0xE7 n (some (k : Nat))
  else if x.miss = 0 then s
  else s.setSeg n { x with miss := 0 }

/-! ## Rebalance (R312) -/

def allSegs : List Nat := List.range 192

/-- The segments that a kind of step drives: below −REBSTOP in a positive step, above it in a negative one. -/
def rebDrives (s : State) (pos : Bool) : List Nat :=
  let stop : Int := pfRebstop (profileOfDisplay s)
  allSegs.filter fun n => !(segAt s n).fault && if pos then decide ((segAt s n).dci < -stop) else decide (stop < (segAt s n).dci)

/-- TOPCOM in the running step (R299). -/
def topcomOut (s : State) : OutLevel :=
  if s.dp.grid.isNone then .zero else if s.dp.rebal then rebTop s.dp.rebKind else .vcom

/-- The level of a segment output in the running step (R299, R304, R309, R312). -/
def segOut (s : State) (n : Nat) : OutLevel :=
  let r := rgnOf n
  let x := rgnAt s r
  if s.dp.grid.isNone || (segAt s n).fault then .zero
  else if s.dp.rebal then rebLevel s.dp.rebKind ((rebDrives s s.dp.rebKind).contains n)
  else if x.st ≠ .driving then .vcom
  else
    match ownLen s r x.phase n with
    | some (p, l) => if phaseLen s r x.phase - x.steps < l then phaseLevel p.level else .vcom
    | none => .vcom

/-- The step that ended charges each segment with a fault, which is held at 0 V (R304, R310; log 137). -/
def faultCharges (s : State) : State :=
  let c := stepCharge (pfVcom (profileOfDisplay s)) .zero (topcomOut s)
  forEach (allSegs.filter fun n => (segAt s n).fault) (fun s n => addCharge s n c) s

/-- Charge the rebalance step that ended. -/
def rebStepDone (s : State) : State :=
  let c := rebCharge (pfVcom (profileOfDisplay s)) s.dp.rebKind
  let s := forEach (rebDrives s s.dp.rebKind) (fun s n => addCharge s n c) s
  s.mapDp fun d => { d with rebSteps := d.rebSteps + 1 }

/-- A request waits in some region. -/
def anyPending (s : State) : Bool := regions.any fun r => (rgnAt s r).st == .pending

def allIdle (s : State) : Bool := regions.all fun r => (rgnAt s r).st == .idle

/-- End the run: its charges are committed. -/
def rebEnd (s : State) : State :=
  raise (s.mapDp fun d => { d with rebal := false, rebSaved := [] }) 0xE3 0xFF (some (s.dp.rebSteps : Nat))

/-- The kind of the next step: the other one, or the same when the other has nothing to drive. -/
def rebNext (s : State) (pos : Bool) : Bool := if (rebDrives s pos).isEmpty then !pos else pos

/-- The boundary after a rebalance step. -/
def rebBoundary (s : State) : State :=
  if !s.dp.rebal then s
  else
    let s := rebStepDone s
    if anyPending s || ((rebDrives s true).isEmpty && (rebDrives s false).isEmpty) then rebEnd s
    else s.mapDp fun d => { d with rebKind := rebNext s (!d.rebKind) }

/-- Start a run when R312 allows it. -/
def rebStart (s : State) : State :=
  let b := profileOfDisplay s
  if dispOn s && !s.dp.rebal && allIdle s && decide (s.sup.tstep < 2) && pfVcom b != 0 &&
      (allSegs.any fun n => !(segAt s n).fault && decide (pfRebthr b < (segAt s n).dci.natAbs)) then
    s.mapDp fun d => { d with rebal := true, rebSteps := 0, rebKind := rebNext s true, rebSaved := d.seg.map fun e => (e.1, e.2.dci) }
  else s

/-! ## The step boundary (R300, R315) -/

/-- Deferral of starts by thermal step 2: 0xE2 at the first deferred start, its duration when starts are free again. -/
def deferCheck (s : State) : State :=
  if decide (2 ≤ s.sup.tstep) && anyPending s then
    if s.dp.defer then s else raise (s.mapDp fun d => { d with defer := true, deferTicks := 0 }) 0xE2 0xFF none
  else if s.dp.defer ∧ s.sup.tstep < 2 then
    endSample (s.mapDp fun d => { d with defer := false }) 0xE2 0xFF ((s.dp.deferTicks / 16000 : Nat) : Int)
  else s

/-- A PENDING region has a segment to drive. -/
def hasUpdate (s : State) (r : Nat) : Bool :=
  (rgnAt s r).st == .pending && (segsOf r).any fun n => !(segAt s n).fault && !segShows (segAt s n) (wantsDark (rgnAt s r).target r n)

/-- Start the updates that may start; T is read once for them all. -/
def startAll (s : State) : State :=
  if startOk s then
    let s := if regions.any (hasUpdate s) then updateTemp s else s
    forEach regions (fun s r => if (rgnAt s r).st = .pending then startUpdate s r else s) s
  else s

/-- An accepted profile takes effect when every region is IDLE and no rebalance runs (R307). -/
def takeProfile (s : State) : State :=
  match s.dp.profNext with
  | some b => if allIdle s && !s.dp.rebal then s.mapDp fun d => { d with profile := b, prof := true, profNext := none } else s
  | none => s

/-- After the last clear the frontlight may light and the first item is due at the next tick (Table 13.4). -/
def clearsEnded (was : Bool) (s : State) : State :=
  if was && !clearing s then s.mapDp fun d => { d with lit := true, firstDraw := true } else s

/-- Outputs and TOPCOM to 0 V, VCOM disabled: the boundary at which a power-down has no running update left (R305). -/
def downBoundary (s : State) : State :=
  if s.dp.poweringDown && !(regions.any fun r => (rgnAt s r).st == .driving) then
    let s := if s.dp.rebal then rebEnd s else s
    s.mapDp fun d => { d with vcom := .off, grid := none }
  else s

/-- The step boundary: outputs checked, phases end, updates and rebalance steps start. -/
def stepBoundary (s : State) (missed : List Nat) : State :=
  let was := clearing s
  let s := faultCharges s
  let s := forEach allSegs (outputCheck missed) s
  let s := rebBoundary s
  let s := forEach regions regionStep s
  let s := clearsEnded was s
  let s := takeProfile s
  let s := downBoundary s
  let s := deferCheck s
  rebStart (startAll s)

def execDriveStep (missed : List Nat) (s : State) : Out :=
  match s.dp.grid with
  | none => .next s
  | some n => if n < 320 ∨ !s.powered then .next s else .next (stepBoundary (s.mapDp fun d => { d with grid := some 0 }) missed)

/-! ## Power-up and power-down (R303 to R305, R318) -/

/-- Charge the phase that an open journal names, at worst-case length (R318). -/
def chargeOpen (s : State) (r : Nat) : State :=
  let b := profileOfDisplay s
  let x := rgnAt s r
  forEach (segsOf r) (fun s n =>
    let y := segAt s n
    match (segPhases b x.band y)[x.phase]? with
    | some p =>
      let s := addCharge s n (phaseSteps p (ageMax b) * chargeOf (pfVcom b) p.level)
      let y := segAt s n
      s.setSeg n { y with swc := satAdd y.swc 1 }
    | none => s) s

/-- The region's committed vector matches its digest. -/
def vecOk (s : State) (r : Nat) : Bool :=
  match (rgnAt s r).sdig with
  | some d => d == vecDigest s r
  | none => true

/-- Regions whose journal is open, or whose vector fails, are charged and read UNKNOWN; 0xE1 counts them. -/
def journalCheck (s : State) : State :=
  let bad := regions.filter fun r => (rgnAt s r).jopen || !vecOk s r
  let s := forEach bad (fun s r =>
    let s := if (rgnAt s r).jopen then chargeOpen s r else s
    closeJournal (forEach (segsOf r) (fun s n => s.setSeg n { segAt s n with opt := .unknown, wave := 0 }) s) r) s
  if bad.isEmpty then s else raise s 0xE1 0xFF (some (bad.length : Nat))

/-- Power-up begins: faults of segments end, regions wait for their clear, VNEG is enabled. -/
def powerUp (s : State) : State :=
  let s := journalCheck s
  let s := s.mapDp fun d =>
    { d with vneg := .enabled, railTicks := 0, poweringUp := true, poweringDown := false, lit := false, firstDraw := false, retry := 0, rebal := false,
             seg := d.seg.map fun e => (e.1, { e.2 with fault := false, miss := 0, wave := 0 }) }
  forEach regions (fun s r => let x := rgnAt s r
    s.setRgn r { x with st := if x.st = .driving then .idle else x.st, clear := 0, phase := 0, steps := 0 }) s

/-- The states in which the display is powered (Table 16.5). -/
def displayPowered (s : State) : Bool :=
  s.sup.commit == .none &&
  match s.sup.st with
  | .off | .backup | .boot => false
  | _ => true

def execDisplayPowerUp (s : State) : Out :=
  if displayPowered s && s.dp.en && !s.dp.railBad && railsOff s.dp && !s.dp.poweringDown then .next (powerUp s) else .next s

/-- 160,000 ticks after a rail fault power-up is tried again. -/
def execRailRetry (s : State) : Out :=
  if displayPowered s && s.dp.en && s.dp.railBad && decide (160000 ≤ s.dp.retry) && railsOff s.dp then .next (powerUp s) else .next s

/-- The step grid begins: every region is cleared, an UNKNOWN one with the full sequence. -/
def startClears (s : State) : State :=
  let s := updateTemp s
  forEach regions (fun s r =>
    let x := rgnAt s r
    let s := if x.st = .pending then s.setRgn r { x with pend := some x.target } else s
    startClear s r (if (segsOf r).any fun n => (segAt s n).opt == .unknown then 1 else 2)) s

/-- A rail reaches its good band: 0 VNEG, 1 VPOS, 2 VCOM. -/
def execRailGood (rail : Nat) (s : State) : Out :=
  let d := s.dp
  if !isRail rail then .fault .noSuchUnit
  else if !s.powered then .next s
  else
  match rail with
  | 0 => .next (if d.poweringUp && d.vneg == .enabled then s.mapDp fun d => { d with vneg := .good, vpos := .enabled, railTicks := 0 } else s)
  | 1 => .next (if d.poweringUp && d.vpos == .enabled then s.mapDp fun d => { d with vpos := .good, vcom := .enabled, railTicks := 0 } else s)
  | 2 => .next (
      if d.poweringUp && d.vcom == .enabled then
        startClears (s.mapDp fun d => { d with vcom := .good, poweringUp := false, railBad := false, grid := some 0 })
      else s)
  | _ => .next s

/-- Drive stops at once: outputs to 0 V, frontlight off, VCOM disabled, open journals stay open. -/
def cutDrive (s : State) : State :=
  let saved := s.dp.rebSaved
  let s := forEach (if s.dp.rebal then saved else []) (fun s e => s.setSeg e.1 { segAt s e.1 with dci := e.2 }) s
  s.mapDp fun d => { d with lit := false, flkEff := 0, firstDraw := false, rebal := false, rebSaved := [], poweringUp := false,
                            poweringDown := !railsOff d, vcom := .off, grid := none }

/-- Rail of a number. -/
def railAt (d : Display) (rail : Nat) : Rail := match rail with | 0 => d.vneg | 1 => d.vpos | _ => d.vcom

/-- Latest time of a rail after its enable, in frames (Table 13.4). -/
def railLatest (rail : Nat) : Nat := if rail = 2 then 16 else 48

/-- The rail may be found at fault: it is late, or was good. -/
def railMayFault (d : Display) (rail : Nat) : Bool :=
  match railAt d rail with
  | .off => false
  | .enabled => decide (railLatest rail ≤ d.railTicks)
  | .good => true

/-- A rail is late or leaves its good band while the display is on (R304). A rebalance run ends with the steps it has made. -/
def execRailFault (rail : Nat) (s : State) : Out :=
  if !isRail rail then .fault .noSuchUnit
  else if !railMayFault s.dp rail || s.dp.poweringDown || !s.powered then .next s
  else
    let s := if s.dp.rebal then rebEnd s else s
    let s := (cutDrive s).mapDp fun d => { d with rfault := true, railBad := true, retry := 0 }
    .next (raise s 0xE0 0xFF (some (rail + 1 : Nat)))

/-- The display powers down: forced by a commit at once, else after `DPCTL.EN` = 0 once running updates have ended. -/
def execDisplayPowerDown (forced : Bool) (s : State) : Out :=
  if railsOff s.dp then .next s
  else if forced then .next (if s.sup.commit = .none then s else cutDrive s)
  else if s.dp.en then .next s
  else if s.dp.vcom = .good then .next (s.mapDp fun d => { d with lit := false, flkEff := 0, poweringDown := true })
  else .next (cutDrive s)

/-- VCOM below 100 mV lets VPOS be disabled, VPOS below 1.5 V VNEG. -/
def execRailDischarged (rail : Nat) (s : State) : Out :=
  if !isRail rail then .fault .noSuchUnit
  else if !s.dp.poweringDown then .next s
  else if rail = 2 ∧ s.dp.vcom = .off then .next (s.mapDp fun d => { d with vpos := .off })
  else if rail = 1 ∧ s.dp.vpos = .off then .next (s.mapDp fun d => { d with vneg := .off, poweringDown := false })
  else .next s

/-! ## Profile load (R307) -/

def stageBytes (s : State) : List Byte := bytesOfWords ((List.range 256).map fun i => tget 0 i s.dp.stage)

/-- `DPCTL.PLOAD`: check the staged profile, commit it or refuse it. -/
def loadProfile (s : State) : State :=
  let b := stageBytes s
  match profileCheck b with
  | 0 =>
    raise (s.mapDp fun d => { d with profNext := some b, pcrc := word (leAt b 0x3FC 4) }) 0xE6 0xFF (some 1)
  | r => raise (s.mapDp fun d => { d with profref := true, prsn := r }) 0xE6 0xFF (some (r + 1 : Nat))

def execPload (_req : Requester) (s : State) : Out := .next (if serving s then loadProfile s else s)

end Sys2Proof.Machine
end

