-- ==== Sys2Proof/Machine/Scroll.lean ====
section
/-! DEFINITION. What the legal display shows (13 R319 to R323): items and indicators, the scroll, the button, the frontlight; and
the counting and repair of a pair that a reader finds failed (08 R202, R203). -/

namespace Sys2Proof.Machine

/-! ## Readers of pairs (08 R203) -/

/-- A reader found a pair failed: counted, event 0x76 at the first of an episode, and the transfer check on its source, over the path of
Table 8.6. A pair of no value of Table 8.2 is a storage fault (R202). -/
def pairFailed (path : Nat) (s : State) (c : Option Crit) : State :=
  let first := s.ls.pairRun == 0
  let s := s.mapLs fun l => { l with pairerr := satAdd l.pairerr 1, rdpair := true, pairRun := l.pairRun + 1 }
  let s := if first then raise s 0x76 ((c.map (critChan s)).getD 0xFF) none else s
  match c with
  | some c => transferFailed s c path
  | none => raise s 0x74 0xFF (some 1)

/-- A good pair ends the episode of 0x76. -/
def pairGood (s : State) : State :=
  if s.ls.pairRun = 0 then s else endSample (s.mapLs fun l => { l with pairRun := 0 }) 0x76 0xFF (s.ls.pairRun : Nat)

/-- The paths of Table 8.6 to the readers. -/
def pathMailbox : Nat := 5
def pathDisplay : Nat := 6
def pathDlms : Nat := 7
def pathOther : Nat := 8

/-! ## Glyphs and digits (Tables 13.2, 13.3) -/

def glyphs : List Nat :=
  [0x3F, 0x06, 0x5B, 0x4F, 0x66, 0x6D, 0x7D, 0x07, 0x7F, 0x6F, 0x77, 0x7C, 0x39, 0x5E, 0x79, 0x71]

def gDash : Nat := 0x40
def gR : Nat := 0x50

/-- A hexadecimal or decimal digit. -/
def glyph (d : Nat) : Nat := glyphs.getD d 0

/-- DP on a digit. -/
def withDp (g : Nat) : Nat := g + 0x80

/-- A value item's number D (R321). -/
def shownValue (n : Nat) (qexp : Int) (it : ScrollItem) : Nat :=
  let e : Int := qexp - 3 - (if it.mega then 3 else 0) + it.dec
  if 0 ≤ e then n * 10 ^ e.toNat else n / 10 ^ (-e).toNat

/-- The digits of a value item. -/
def valueDigits (n : Nat) (it : ScrollItem) : List Nat :=
  (List.range 8).map fun i =>
    let k := 7 - i
    let g := if !it.lz && decide (it.dec < k) && decide (n % 10 ^ 8 < 10 ^ k) then 0 else glyph (n / 10 ^ k % 10)
    if 0 < it.dec ∧ k = it.dec then withDp g else g

/-- Digits of a local date: YYYYMMDD, DP on digits 3 and 5. -/
def dateDigits (l : Int) : List Nat :=
  let d := dateOf (l / 86400)
  let n := d.y.toNat * 10000 + d.m * 100 + d.d
  (List.range 8).map fun i => let g := glyph (n / 10 ^ (7 - i) % 10); if i = 3 ∨ i = 5 then withDp g else g

/-- Digits of a local time: HHMMSS on digits 2 to 7, DP on digits 3 and 5. -/
def timeDigits (l : Int) : List Nat :=
  let t := (l % 86400).toNat
  let n := t / 3600 * 10000 + t / 60 % 60 * 100 + t % 60
  (List.range 8).map fun i => if i < 2 then 0 else
    let g := glyph (n / 10 ^ (7 - i) % 10)
    if i = 3 ∨ i = 5 then withDp g else g

/-- The legal check value in hexadecimal, most significant digit left. -/
def hexDigits (w : Nat) : List Nat := (List.range 8).map fun i => glyph (w / 16 ^ (7 - i) % 16)

/-- "rEC" and the reason. -/
def recDigits (reason : Nat) : List Nat := [gR, glyph 0xE, glyph 0xC, 0, 0, 0, glyph (reason / 16 % 16), glyph (reason % 16)]

/-- The point field: three decimal digits. -/
def pointField (p : Nat) : Nat := glyph (p / 100 % 10) + glyph (p / 10 % 10) * 2 ^ 8 + glyph (p % 10) * 2 ^ 16

/-- Region 9: 0 k, 1 M, 2 W, 3 var, 4 VA, 5 h, 9 import, 10 export, 11 MD, 12 Σ. Reactive quantities have an arrow by their
quadrant's direction (Table 6.5). -/
def unitField (q : Nat) (mega energy md sigma : Bool) : Nat :=
  flagAt (!mega) 0 + flagAt mega 1 +
  (if 3 ≤ q ∧ q ≤ 6 then 2 ^ 3 else if q = 7 ∨ q = 8 then 2 ^ 4 else 2 ^ 2) + flagAt energy 5 +
  flagAt ([1, 3, 6, 7, 9, 0xB].contains q) 9 + flagAt ([2, 4, 5, 8, 0xA, 0xC].contains q) 10 + flagAt md 11 + flagAt sigma 12

/-- Region 10: the tariff T1 to T8, the quadrant Q1 to Q4. -/
def tariffField (t q : Nat) : Nat := (if 1 ≤ t ∧ t ≤ 8 then 2 ^ (t - 1) else 0) + (if 3 ≤ q ∧ q ≤ 6 then 2 ^ (5 + q) else 0)

/-! ## Items (R320, Table 13.7) -/

/-- What an item needs: each pair it reads is good, or is named for repair. -/
structure Shown where
  digits : List Nat
  r8 : Nat := 0
  r9 : Nat := 0
  r10 : Nat := 0
  bad : List (Option Crit) := []

/-- Working copy of a billing register as the controller receives it. -/
def regPair (s : State) (p t q : Nat) : Pair 64 := tget (Pair.zero 64) (regIx p t q) s.bl.w1

/-- The values whose pairs fail. -/
def badOf (l : List (Crit × Bool)) : List (Option Crit) := (l.filter fun e => !e.2).map fun e => some e.1

def mdPair (s : State) (i : Nat) : Pair 64 := tget (Pair.zero 64) i s.bl.md
def mdtsPair (s : State) (i : Nat) : Pair 64 := tget (Pair.zero 64) i s.bl.mdts

/-- MD quantity 0x1, 0x2, 0x7, 0x8 as m (09 R225). -/
def mdNo (q : Nat) : Nat := match q with | 1 => 0 | 2 => 1 | 7 => 2 | _ => 3

/-- Content of an item. -/
def itemShown (s : State) (it : ScrollItem) : Shown :=
  let c := s.plan.calendar
  let p := it.point
  let qx := (pointDef s.plan p).qexp
  let now := localOf c s.nowSec.1
  match it.code with
  | 0x00 => { digits := hexDigits s.tr.lcv.v.toNat, bad := if s.tr.lcv.ok then [] else [none] }
  | 0x01 =>
    let x := regPair s p it.tariff it.qty
    { digits := valueDigits (shownValue x.v.toNat qx it) it, r8 := pointField p, r9 := unitField it.qty it.mega true false false
      r10 := tariffField it.tariff it.qty, bad := badOf [(Crit.reg (regIx p it.tariff it.qty), x.ok)] }
  | 0x02 =>
    let xs := (List.range 8).map fun i => (Crit.reg (regIx p (i + 1) it.qty), regPair s p (i + 1) it.qty)
    { digits := valueDigits (shownValue ((xs.map fun e => e.2.v.toNat).sum) qx it) it, r8 := pointField p
      r9 := unitField it.qty it.mega true false true, r10 := tariffField 0 it.qty, bad := badOf (xs.map fun e => (e.1, e.2.ok)) }
  | 0x03 =>
    let i := mdIx p it.tariff (mdNo it.qty)
    let x := mdPair s i
    { digits := valueDigits (shownValue x.v.toNat qx it) it, r8 := pointField p, r9 := unitField it.qty it.mega false true false
      r10 := tariffField it.tariff 0, bad := badOf [(Crit.md i, x.ok)] }
  | 0x04 | 0x05 =>
    let i := mdIx p it.tariff (mdNo it.qty)
    let x := mdtsPair s i
    let l := localOf c (stampSec x.v)
    { digits := if it.code = 4 then dateDigits l else timeDigits l, r8 := pointField p, r9 := 2 ^ 11
      r10 := tariffField it.tariff 0, bad := badOf [(Crit.mdts i, x.ok)] }
  | 0x06 => { digits := dateDigits now }
  | 0x07 => { digits := timeDigits now }
  | _ => { digits := recDigits s.sup.rreason }

/-- Targets of regions 0 to 10 of what is shown: "--------" when a pair fails. -/
def shownTargets (x : Shown) : List Nat := (if x.bad.isEmpty then x.digits else List.replicate 8 gDash) ++ [x.r8, x.r9, x.r10]

/-- The item shown. -/
def scrollItem (s : State) : ScrollItem := s.plan.scroll.getD s.dp.item {}

/-- Bin of 0xE4 for an item code. -/
def itemBin (c : Nat) : Nat :=
  match c with
  | 0 => 1 | 1 => 2 | 2 => 3 | 3 => 4 | 4 | 5 => 5 | 6 | 7 => 6 | _ => 7

/-- The regions an item requests: those of RMASK; item 0x00 all of 0 to 10. -/
def itemRegions (it : ScrollItem) : List Nat := (List.range 11).filter fun r => it.code == 0 || bitN it.rmask r

/-! ## Indicators (Table 13.2, region 11) -/

/-- A condition of the item's point, or of any point when it has none. -/
def ofPoint (s : State) (it : ScrollItem) (f : Nat → Bool) : Bool :=
  if 1 ≤ it.code ∧ it.code ≤ 5 then f it.point else (livePts s).any f

/-- A dip, swell or interruption runs. -/
def pqRunning (s : State) : Bool := buses.any fun b => let q := pqBus s b; q.dip.on || q.swl.on || q.int.on

/-- The target of region 11. -/
def indicators (s : State) : Nat :=
  let it := scrollItem s
  flagAt (ofPoint s it fun p => srcOf s p == 1) 0 + flagAt (ofPoint s it fun p => srcOf s p == 2) 1 +
  flagAt ((ofPoint s it fun p => srcOf s p == 3) || s.sup.st == .recovery) 2 + flagAt (ofPoint s it (faulted s)) 3 +
  flagAt s.dp.err 4 + flagAt s.sealOpen 5 + flagAt (s.nowSec.2 || !s.rtc.valid) 6 + flagAt s.tp.locked 7 +
  flagAt (sources.any fun n => (srcAt s n).sticky) 8 + flagAt (privFull s.er) 9 + flagAt (pqRunning s) 10

/-- The tariff indices that the indicators show and that fail their check (09 R235). -/
def indicatorBad (s : State) : List (Option Crit) :=
  let it := scrollItem s
  let ps := if 1 ≤ it.code ∧ it.code ≤ 5 then [it.point] else livePts s
  badOf (ps.map fun p => (Crit.tidx p, (tget (Pair.zero 32) p s.bl.tidx).ok))

/-- Request region 11 when an indicator has changed; the tariff index behind it is checked. -/
def drawIndicators (s : State) : State :=
  let s := forEach (indicatorBad s) (pairFailed pathDisplay) s
  let t : BitVec 24 := BitVec.ofNat 24 (indicators s)
  if lastTarget s 11 = t then s else request s 11 t

/-! ## Drawing (R323) -/

/-- Draw the shown item: its requests, and the integrity error of a failed pair. -/
def drawItem (s : State) : State :=
  let it := scrollItem s
  let x := itemShown s it
  let ts := shownTargets x
  let s := forEach (itemRegions it) (fun s r => request s r (BitVec.ofNat 24 (ts.getD r 0))) s
  let s := s.mapDp fun d => { d with drawn := ts, sinceDraw := 0, err := !x.bad.isEmpty }
  let s := if x.bad.isEmpty then s else raise (forEach x.bad (pairFailed pathDisplay) s) 0xE4 0xFF (some (itemBin it.code : Nat))
  drawIndicators s

/-- Show item i from now. -/
def showItem (s : State) (i : Nat) : State := drawItem (s.mapDp fun d => { d with item := i, shown := 0 })

/-- The item after the one shown. -/
def nextItem (s : State) : State := showItem s (if s.dp.item + 1 < s.plan.scroll.length then s.dp.item + 1 else 0)

/-- The shown item is redrawn when its content changed and 80,000 ticks have passed; indicators on every change. -/
def execItemRedraw (s : State) : Out :=
  if !s.dp.lit || !serving s then .next s
  else if shownTargets (itemShown s (scrollItem s)) ≠ s.dp.drawn ∧ 80000 ≤ s.dp.sinceDraw then .next (drawItem s)
  else .next (drawIndicators s)

/-! ## The scroll (R322, Table 13.8) -/

/-- The item has been shown for its dwell and auto-advance is not suspended. -/
def execScrollDwellExpiry (s : State) : Out :=
  if s.dp.lit && serving s && s.plan.scrollMode != 1 && s.dp.suspend.isNone && decide (s.plan.scrollDwell * 16000 ≤ s.dp.shown) then .next (nextItem s)
  else .next s

/-- A low level of DBTN for 320 ticks. -/
def execButtonPress (s : State) : Out :=
  if !s.dp.lit || s.plan.scrollMode == 0 || !serving s then .next s
  else .next (nextItem (if s.plan.scrollMode = 2 then s.mapDp fun d => { d with suspend := some 0 } else s))

/-- A press held for 32,000 ticks. -/
def execButtonLongPress (s : State) : Out := if !s.dp.lit || s.plan.scrollMode == 0 || !serving s then .next s else .next (showItem s 0)

/-- 960,000 ticks after the press. -/
def execAutoScrollResume (s : State) : Out :=
  match s.dp.suspend with
  | some n => if 960000 ≤ n then .next (s.mapDp fun d => { d with suspend := none }) else .next s
  | none => .next s

/-! ## The tick's part -/

/-- LEVEL in effect (R319). -/
def flkLevel (s : State) : Nat :=
  if !s.dp.lit then 0 else let l := min s.dp.flk 240; if 1 ≤ s.sup.tstep then l / 4 else l

/-- Counters, the frontlight and the first item after a power-up. -/
def displayTick (s : State) : State :=
  let s := s.mapDp fun d =>
    { d with grid := d.grid.map (· + 1), shown := d.shown + 1, suspend := d.suspend.map (· + 1), railTicks := d.railTicks + 1, sinceDraw := d.sinceDraw + 1,
             retry := if d.railBad then d.retry + 1 else 0, deferTicks := if d.defer then d.deferTicks + 1 else 0 }
  let s := s.mapDp fun d => { d with flkEff := flkLevel s }
  if s.dp.firstDraw then showItem (s.mapDp fun d => { d with firstDraw := false, suspend := none }) 0 else s

end Sys2Proof.Machine
end

