-- ==== Sys2Proof/Machine/Timebase.lean ====
section
/-! DEFINITION. The chain timebase (02 R39 to R50): markers, probes, the states of Table 2.4, renumbering and jumps. Phases and
delays are in 12.5 ps. -/

namespace Sys2Proof.Machine

/-! ## States (R44, Table 2.4) -/

/-- ±0.25 ns. -/
def phaseIn (s : State) : Bool := decide (s.tb.phe.natAbs ≤ 20)

/-- Enter RELOCK: the hop delay is measured by a burst of 16 probes before the pairing (R49). -/
def enterRelock (s : State) : State :=
  s.mapTb fun t => { t with st := .relock, paired := false, burst := 16, probeTicks := 16, probes := [], inRange := 0, missed := 0 }

/-- The mean of a list, 0 when empty. -/
def meanI (l : List Int) : Int := if l.isEmpty then 0 else l.sum / l.length

/-- Enter HOLDOVER with the steering value averaged over the last frames (R47). -/
def enterHoldover (s : State) : State :=
  let s := s.mapTb fun t => { t with st := .holdover, hold := 0, slew := meanI t.steer, slewing := false, df := 2 ^ 23, inRange := 0,
                                     paired := false }
  raise (setRole s 3) 0xF4 0xFF none

/-! ## Jumps and renumbering (R34, R49) -/

/-- This device will change number at a jump. -/
def jumpChanges (j : Frame × Frame) : Bool := decide (j.1.toNat < j.2.toNat)

/-- Take a jump announced for frame `ann`, M in the own count, committing the new number where this device will change. -/
def armJump (s : State) (ann : Frame) (j : Frame × Frame) : State :=
  if s.tb.jump = some j then s
  else
    let s := s.mapTb fun t => { t with jump := some j, jumpAnn := ann }
    if jumpChanges j then commitFrame s j.2 else s

/-- The number has changed by n: JUMPED, the amount and 0xF6. -/
def noteJump (s : State) (m : Frame) (n : Nat) : State :=
  raise (s.mapTb fun t => { t with jumped := true, jmpAmt := min n max32, jmpFrame := m }) 0xF6 0xFF (some (n : Nat))

/-- The master announces a jump that brings its number `n` higher, at its tick 17 frames on, so that the markers of 16 frames
carry it. -/
def announceJump (s : State) (n : Nat) : State :=
  let m := s.tb.frame + 17
  armJump s m (m, m + BitVec.ofNat 48 n)

/-- The frame number at the next tick: one more, or the new number at the tick of a jump. -/
def nextNumber (s : State) : State :=
  let f := s.tb.frame + 1
  match s.tb.jump with
  | some (m, n) =>
    if f.toNat < m.toNat then s.mapTb fun t => { t with frame := f }
    else
      let d := n.toNat - f.toNat
      let s := s.mapTb fun t => { t with frame := if 0 < d then n else f, jump := none }
      let s := if 0 < d then noteJump s s.tb.jumpAnn d else s
      match s.tb.nextReport with
      | some e =>
        let s := s.mapTb fun t => { t with nextReport := none }
        if d < e then announceJump s (e - d) else s
      | none => s
  | none => s.mapTb fun t => { t with frame := f }

/-- A report of a number higher than the master's (R49). -/
def takeReport (s : State) (number : Frame) : State :=
  let d := number.toNat - s.fnum
  if d = 0 then s
  else
    match s.tb.jump with
    | none => announceJump s d
    | some _ => s.mapTb fun t => { t with nextReport := some (max d (t.nextReport.getD 0)) }

/-- Send or forward a report to the master: the difference of the numbers. -/
def sendReport (s : State) (src d : Nat) : State := sendPort s 0 { type := 0x30, dst := 0, src := src, data := leBytes 6 d }

/-- A REPORT arrives with the number the reporter counts at this frame. -/
def execReport (src : Nat) (number : Frame) (s : State) : Out :=
  .next (if !serving s then s else if noUpstream s then takeReport s number else sendReport s src (number.toNat - s.fnum))

/-- The pairing of a relocking follower after its burst: its number against the parent's for the paired tick. -/
def execRelockPairing (parent : Frame) (phase : Int) (s : State) : Out :=
  if !s.powered ∨ s.tb.st ≠ .relock ∨ s.tb.paired ∨ s.tb.burst ≠ 0 then .next s
  else
    let s := s.mapTb fun t => { t with paired := true, phe := phase }
    let own := s.fnum
    .next (
      if own < parent.toNat then
        let d := parent - s.tb.frame
        (commitFrame s parent).mapTb fun t => { t with renumber := some d }
      else if parent.toNat < own then sendReport s (ownAddr s) (own - parent.toNat)
      else s)

/-- The committed number is taken, with the ticks that passed meanwhile counted in. -/
def execFrameRenumber (s : State) : Out :=
  match s.tb.renumber with
  | none => .next s
  | some d =>
    if !s.powered then .next s
    else
    let m := s.tb.frame
    let s := s.mapTb fun t => { t with frame := t.frame + d, renumber := none }
    .next (aggTick (noteJump s m d.toNat))

/-! ## Markers (R39, R42) -/

/-- The upstream tick that a marker implies, relative to the tick of the running frame (R42). -/
def implied (s : State) (m : Marker) : Int := m.arrive - m.ofs - s.tb.hop

/-- The own tick nearest to an instant, in frames from the tick of the running frame (R49). -/
def nearTick (x : Int) : Int := (x + 2500000) / 5000000

/-- The phase of an instant against the nearest own tick, within ±31.25 µs (R49). -/
def nearPhase (x : Int) : Int := x - 5000000 * nearTick x

/-- The upstream tick lies within ±1.0 µs of the one that the phase error predicts, whichever frame the marker came in. -/
def nearPredicted (s : State) (m : Marker) : Bool := decide ((nearPhase (implied s m - s.tb.phe)).natAbs ≤ 80000)

/-- A marker is valid (R44). -/
def markerValid (s : State) (m : Marker) : Bool :=
  m.crcOk &&
  match s.tb.st with
  | .locked => nearPredicted s m
  | .relock => !s.tb.paired || nearPredicted s m
  | _ => true

/-- The steering value, 0.01 ppm, within ±250 ppm; the loop's arithmetic is not given (log 35). -/
def steerValue (n : Nat) : Int := clampI (-25000) 25000 ((n : Int) - 25000)

/-- What every valid marker sets: phase, depth, upstream holdover, jump, steering. A jump is taken into the own count over the own
tick that the marker's tick is paired with; its M stays as announced for `TBJMPL`, `TBJMPH` (log 119). -/
def applyMarker (s : State) (m : Marker) : State :=
  let d := s.draw
  let s := d.2
  let v := steerValue (d.1 % 50001)
  let x := implied s m
  let own := s.tb.frame + BitVec.ofInt 48 (nearTick x)
  let s := s.mapTb fun t => { t with markerSeen := true, phe := nearPhase x, uphold := m.hold, depth := min 16 (m.depth + 1),
                                     lastMarker := some m, slew := v }
  let s := s.setPort 0 { portAt s 0 with silent := 0 }
  match m.jump with
  | some (j, n) => armJump s j (j + own - m.frame, n)
  | none => s

/-- A marker on CU. Until the end of BOOT it only shows that markers come; a free-running or held device becomes a follower in
RELOCK. -/
def execMarkerReceive (m : Marker) (s : State) : Out :=
  if !markerValid s m || !s.powered then .next s
  else if s.sup.st = .boot ∧ !s.sup.recmon then .next (s.mapTb fun t => { t with markerSeen := true })
  else
    match s.tb.st with
    | .free => .next (setRole (enterRelock (applyMarker s m)) 2)
    | .holdover =>
      let h : Nat := s.tb.hold / 16000
      .next (raise (setRole (enterRelock (applyMarker s m)) 2) 0xF5 0xFF (some (h : Nat)))
    | _ => .next (applyMarker s m)

/-- 256 frames in a row within ±0.25 ns. -/
def execTimebaseLock (s : State) : Out :=
  if (s.tb.st = .acquire ∨ (s.tb.st = .relock ∧ s.tb.paired)) ∧ 256 ≤ s.tb.inRange then
    .next (s.mapTb fun t => { t with st := .locked, probeTicks := 0 })
  else .next s

/-- 65,536 frames in ACQUIRE, and START is over: stepping ends. -/
def execAcquireTimeout (s : State) : Out :=
  if s.tb.st = .acquire ∧ 65536 ≤ s.tb.acqFrames ∧ serving s ∧ s.sup.st ≠ .start then .next (enterRelock s) else .next s

/-- 4 frames in a row without a valid marker; one that arrives in the window of the expiry wins (R50). -/
def execMissingMarkerTimeout (s : State) : Out :=
  if (s.tb.st = .locked ∨ s.tb.st = .relock) ∧ 4 ≤ s.tb.missed ∧ !s.tb.markerSeen ∧ s.powered then .next (enterHoldover s) else .next s

/-! ## Probes (R41) -/

/-- `TBCTL.PROBE`: a burst of 16, without upstream link ignored. -/
def startBurst (s : State) : State :=
  if portUp s 0 then s.mapTb fun t => { t with burst := 16, probeTicks := max t.probeTicks 16 } else s

def execProbeBurst (s : State) : Out := .next (startBurst s)

/-- The spacing of probes now, none when none run. -/
def probeSpacing (t : Timebase) : Option Nat :=
  if 0 < t.burst then some 16
  else match t.st with
    | .acquire | .relock => some 16
    | .locked => some 1024
    | _ => none

/-- The spacing has passed: a PROBE on CU. -/
def execProbeTimer (s : State) : Out :=
  match probeSpacing s.tb with
  | none => .next s
  | some n =>
    if s.tb.probeTicks < n ∨ !portUp s 0 then .next s
    else
      let s := s.mapTb fun t => { t with burst := t.burst - 1, probeTicks := 0 }
      .next (sendPort s 0 { type := 0x10, dst := 0, src := ownAddr s })

/-- A PROBE on a downstream port, stamped t2 and answered at t3. -/
def execProbe (port t2 t3 : Nat) (s : State) : Out :=
  if !cdPorts.contains port then .fault .noSuchUnit
  else .next (sendPort s port { type := 0x11, dst := 0, src := ownAddr s, data := leBytes 8 t2 ++ leBytes 8 t3 })

/-- Insert into a rising list. -/
def insertI (x : Int) : List Int → List Int
  | [] => [x]
  | y :: t => if x ≤ y then x :: y :: t else y :: insertI x t

def sortI (l : List Int) : List Int := l.foldl (fun a x => insertI x a) []

/-- Twice the median of 16 values. -/
def median2 (l : List Int) : Int := let r := sortI l; r.getD 7 0 + r.getD 8 0

/-- Discard the probes of 16 that lie more than 2.0 ns from their median. -/
def dropOutliers (l : List Int) : List Int :=
  if l.length < 16 then l else l.filter fun x => decide ((2 * x - median2 l).natAbs ≤ 320)

/-- d_down of an exchange. -/
def downDelay (s : State) (t1 t2 t3 t4 : Int) : Int :=
  ((t4 - t1) - (t3 - t2) + (if s.tb.asymen then s.tb.asym.toInt else 0)) / 2

/-- A PROBE-REPLY: the average of the last 16 valid probes. -/
def execProbeReply (t1 t2 t3 t4 : Int) (s : State) : Out :=
  let l := dropOutliers ((downDelay s t1 t2 t3 t4 :: s.tb.probes).take 16)
  .next (s.mapTb fun t => { t with probes := l, hop := (clampI 0 65535 (meanI l)).toNat })

/-! ## The tick's part -/

/-- Phase closed by slew in the coming frame: at most 6.25 ns (R45, R49). -/
def slewOf (s : State) : Int :=
  if ((s.tb.st = .relock ∧ s.tb.paired) ∨ s.tb.st = .locked) ∧ !phaseIn s then clampI (-500) 500 s.tb.phe else 0

/-- The holdover flag of this device's markers (R48). -/
def holdFlag (s : State) : Bool := s.tb.st == .holdover || s.tb.uphold

/-- The marker of a tick on an UP downstream port (R39); the time to its character boundary is a free value (log 119). -/
def sendMarker (s : State) (p : Nat) : State :=
  if portUp s p then
    let d := s.draw
    d.2.mapTb fun t => { t with sent := t.sent ++ [{ port := p, frame := t.frame, ofs := d.1 % 640, hold := holdFlag s, jump := t.jump }] }
  else s

/-- The markers of a tick. -/
def sendMarkers (s : State) : State := forEach cdPorts sendMarker (s.mapTb fun t => { t with sent := [] })

/-- Count markers, phase and timers at a tick, before the number advances. -/
def markerTick (s : State) : State :=
  let inr := phaseIn s
  s.mapTb fun t =>
    { t with inRange := if t.markerSeen && inr then t.inRange + 1 else 0, missed := if t.markerSeen then 0 else t.missed + 1,
             markerSeen := false, acqFrames := if t.st = .acquire then t.acqFrames + 1 else 0,
             hold := if t.st = .holdover then satAdd t.hold 1 else t.hold, probeTicks := t.probeTicks + 1,
             secTicks := t.secTicks + 1, ticks := t.ticks + 1, steer := (t.slew :: t.steer).take 16384 }

/-- The duration factor of the frame that begins (R46). -/
def slewTick (s : State) : State :=
  let d := slewOf s
  s.mapTb fun t => { t with slewing := d != 0, df := ((2 ^ 23 * (5000000 + d)) / 5000000).toNat }

/-- The timebase at a tick: counts, the number of the new frame, its duration factor and its markers. -/
def timebaseTick (s : State) : State := sendMarkers (slewTick (nextNumber (markerTick s)))

end Sys2Proof.Machine
end

