-- ==== Sys2Proof/Machine/RegRead.lean ====
section
/-! DEFINITION. What every register reads (17 R393 to R402 and the register tables of each chapter). An offset is a multiple of 4
within its block; reserved words and write-only fields read 0 (00 R7, Table 0.2). -/

namespace Sys2Proof.Machine

/-! ## Word helpers -/

/-- Word 0 or 1 of a 48-bit frame number. -/
def frameWord (f : Frame) (i : Nat) : Word := wordOf f.toNat i

/-- Word i of a pair: the value's words, then the complement's (00 R5, 08 R199). -/
def pairWord {w : Nat} (p : Pair w) (i : Nat) : Word := if i < w / 32 then wordOf p.v.toNat i else wordOf p.n.toNat (i - w / 32)

/-- Word i of a 48-bit value sign-extended to 64 bits (06 R153). -/
def wide48 (x : Int) (i : Nat) : Word := wordOf (toField 64 x) i

/-- A signed value as a word. -/
def sword (x : Int) : Word := word (toField 32 x)

/-- A mask of the indices below n that satisfy a condition. -/
def maskOf (n : Nat) (f : Nat → Bool) : Nat := ((List.range n).map fun i => flagAt (f i) i).sum

/-! ## 0x0000_0000: identity and supervisor (Tables 17.6 to 17.9) -/

def supSts (s : State) : Word :=
  word (flagAt s.hp.unmap 0 + flagAt s.hp.rwlcls 1 + flagAt (!s.hp.rwl.isEmpty) 2 + flagAt s.hp.rwlref 3 +
    flagAt s.sup.legrun 4 + flagAt s.sup.apprun 5 + flagAt s.sup.recmon 6)

def rdIdent (s : State) (o : Nat) : Word :=
  if o = 0 then 0x50428128
  else if o = 4 then 0xC1
  else if o = 8 then 0x00010003
  else if o = 0xC then 0x00143F7F
  else if o < 0x20 then word (leAt s.nv.fid (o - 0x10) 4)
  else if o = 0x40 then supSts s
  else if o = 0x44 then word s.hp.una
  else if o = 0x48 then word s.hp.unr
  else if o = 0x4C then word s.hp.rwlr
  else if o = 0x50 then word s.sup.suprst
  else if o = 0x54 then frameWord s.sup.bfr 0
  else if o = 0x58 then frameWord s.sup.bfr 1
  else if 0x60 ≤ o ∧ o < 0x70 then tget 0 ((o - 0x60) / 4) s.hp.scr
  else 0

/-! ## 0x0001_0000: timebase (Tables 2.6 to 2.8) -/

def tbStateNum : TbState → Nat
  | .free => 0 | .acquire => 1 | .locked => 2 | .holdover => 3 | .relock => 4

def tbSts (s : State) : Word :=
  let t := s.tb
  word (tbStateNum t.st + t.role * 2 ^ 3 + flagAt t.uphold 5 + flagAt t.xsrc 6 + flagAt t.clkoor 7 + flagAt (aligned s) 8 +
    flagAt t.jumped 9 + flagAt t.slewing 10 + t.depth * 2 ^ 16)

def rdTb (s : State) (o : Nat) : Word :=
  let t := s.tb
  match o with
  | 0x00 => word (flagAt t.asymen 1)
  | 0x04 => tbSts s
  | 0x08 => frameWord t.frame 0
  | 0x0C => frameWord t.frame 1
  | 0x10 => frameWord t.secFrame 0
  | 0x14 => frameWord t.secFrame 1
  | 0x18 => word t.secCyc
  | 0x1C => sword t.ppm
  | 0x20 => word (t.hop % 65536 + t.probes.length * 2 ^ 16)
  | 0x24 => word t.asym.toNat
  | 0x28 => word (toField 16 (satS 16 t.phe))
  | 0x2C => word (toField 16 t.slew)
  | 0x30 => word t.hold
  | 0x34 => word t.jmpAmt
  | 0x38 => frameWord t.jmpFrame 0
  | 0x3C => frameWord t.jmpFrame 1
  | _ => 0

/-! ## 0x0002_0000: front ends (Tables 3.7 to 3.10) -/

def feCfg (s : State) (c : Nat) : Word :=
  let d := feSet s.plan c
  word (d.gain + d.sensor * 2 ^ 4 + flagAt d.prben 7 + flagAt d.injen 8 + flagAt d.exc 9 +
    ((chPoint s.plan c).map (·.1)).getD 0xFF * 2 ^ 16)

def feSts (x : FeChan) : Word :=
  word (flagAt x.ovl 0 + flagAt x.ovlnow 1 + flagAt x.cmnow 2 + flagAt x.cmev 3 + x.prbst * 2 ^ 4 + flagAt x.prbchg 6)

def rdFe (s : State) (o : Nat) : Word :=
  if o < 0x40 * 168 then
    let c := o / 0x40
    let x := feAt s c
    match o % 0x40 with
    | 0x00 => feCfg s c
    | 0x04 => feSts x
    | 0x08 => word (x.res + flagAt x.resValid 31)
    | 0x0C => word ((feSet s.plan c).prblow + (feSet s.plan c).prbhigh * 2 ^ 16)
    | 0x10 => word x.ovc
    | _ => 0
  else if o = 0x3000 then word (s.fe.refok.toNat + s.fe.refev.toNat * 2 ^ 4)
  else if 0x3004 ≤ o ∧ o < 0x3014 then word (toField 16 (tget 0 ((o - 0x3004) / 4) s.fe.refd))
  else 0

/-! ## 0x0003_0000: converter fabric (Tables 4.15 to 4.20) -/

def cvSts (s : State) : Word :=
  let c := s.cv
  word (flagAt c.filt 0 + flagAt (c.setl != 0) 1 + flagAt c.cap.isSome 2 + flagAt c.fcdone 3 + flagAt c.fcmissF 4 +
    flagAt c.slflt 5 + flagAt c.callim 6 + flagAt c.substF 7)

def slSts (s : State) (n : Nat) : Word :=
  let x := sliceAt s n
  word (flagAt (s.cv.flt.getLsbD n) 0 + flagAt (s.plan.dirMask.getLsbD n) 1 + flagAt (s.plan.oosMask.getLsbD n) 2 +
    x.upd % 256 * 2 ^ 8 + min x.age 65535 * 2 ^ 16)

def cmpWord (x : Comparator) (en : Bool) : Word := word (x.st + x.pend * 2 ^ 2 + flagAt en 4 + x.dwc * 2 ^ 16)

def rdCvHead (s : State) (o : Nat) : Word :=
  let c := s.cv
  match o with
  | 0x00 => word (flagAt c.fcen 0 + c.fcch * 2 ^ 8)
  | 0x04 => cvSts s
  | 0x08 => wordOf s.plan.dirMask.toNat 0
  | 0x0C => wordOf s.plan.dirMask.toNat 1
  | 0x10 => wordOf c.flt.toNat 0
  | 0x14 => wordOf c.flt.toNat 1
  | 0x18 => wordOf s.plan.oosMask.toNat 0
  | 0x1C => wordOf s.plan.oosMask.toNat 1
  | 0x20 => word (c.sinc.k + c.sinc.notch * 2 ^ 4 + c.sinc.l * 2 ^ 16)
  | 0x24 => word c.setl
  | 0x28 => word (c.fcsCh + c.fcsK * 2 ^ 8 + flagAt c.cap.isSome 14 + flagAt c.fcsLost 15 + c.fcsLen * 2 ^ 16)
  | 0x2C => frameWord c.fcFrame 0
  | 0x30 => frameWord c.fcFrame 1
  | 0x34 => word c.fcmiss
  | 0x38 => word c.subc
  | _ => 0

def rdSlice (s : State) (n o : Nat) : Word :=
  let x := sliceAt s n
  match o with
  | 0x00 => word (toField 24 x.off)
  | 0x04 => word (x.gain % 2 ^ 24)
  | 0x08 => slSts s n
  | 0x0C => word x.lim
  | 0x10 => word x.sub
  | _ => 0

def rdCv (s : State) (o : Nat) : Word :=
  if o < 0x1000 then rdCvHead s o
  else if o < 0x1800 then rdSlice s ((o - 0x1000) / 0x20) (o % 0x20)
  else if 0x2000 ≤ o ∧ o < 0x3000 then
    let inl := (sliceAt s ((o - 0x2000) / 0x40)).inl
    let i := o % 0x40 / 4
    word (toField 16 (inl.getD (2 * i) 0) + toField 16 (inl.getD (2 * i + 1) 0) * 2 ^ 16)
  else if 0x4000 ≤ o ∧ o < 0x4000 + 0x10 * 168 then
    let c := (o - 0x4000) / 0x10
    match o % 0x10 with
    | 0 => cmpWord (cmpAt s false c) (s.plan.cmpStream.getD c {}).en
    | 4 => word (cmpAt s false c).cnt
    | _ => 0
  else if 0x5000 ≤ o ∧ o < 0x7000 then
    let i := (o - 0x5000) / 8
    if o % 8 = 0 then cmpWord (cmpAt s true i) (s.plan.cmpPoint.getD i {}).en else word (cmpAt s true i).cnt
  else if 0x8000 ≤ o ∧ o < 0x8000 + 4 * 168 then sword (streamOf s ((o - 0x8000) / 4))
  else 0

/-! ## 0x0004_0000: queues (Tables 4.16, 4.21) -/

/-- `QSTS.THR`. -/
def thrOf (x : Queue) : Bool := x.thr != 0 && decide (x.thr ≤ x.ents.length)

/-- `QSTS` (Table 4.21). A queue that the plan leaves out is never full (log 117). -/
def qSts (s : State) (q : Nat) : Word :=
  let x := queueAt s q
  let d := (routeRec s.plan q).depth
  word (flagAt x.ents.isEmpty 0 + flagAt (d != 0 && x.ents.length == d) 1 + flagAt (thrOf x) 2 + flagAt x.ovf 3 +
    flagAt x.rderr 4 + flagAt x.flushed 5 + flagAt (x.refused != 0) 6)

def rdQueue (s : State) (req : Requester) (o : Nat) : Word :=
  if o < 0x800 then
    let q := o / 0x40
    let x := queueAt s q
    match o % 0x40 with
    | 0x00 => word ((routeRec s.plan q).depth + (routeRec s.plan q).reader * 2 ^ 16)
    | 0x04 => qSts s q
    | 0x08 => word x.ents.length
    | 0x0C => word x.lost
    | 0x10 => word x.thr
    | 0x20 => (popWords s req q).getD 0 0
    | 0x24 => (popWords s req q).getD 1 0
    | 0x28 => (popWords s req q).getD 2 0
    | 0x2C => (popWords s req q).getD 3 0
    | 0x30 => (headEntry s q).tag
    | 0x34 => (headEntry s q).w1
    | 0x38 => (headEntry s q).w2
    | 0x3C => (headEntry s q).w3
    | _ => 0
  else
    match o with
    | 0xF00 => word (maskOf 32 fun q => !(queueAt s q).ents.isEmpty)
    | 0xF04 => word (maskOf 32 fun q => thrOf (queueAt s q))
    | 0xF08 => word s.qu.unrt
    | _ => 0

/-! ## 0x0005_0000: plan loader (Tables 5.14 to 5.16) -/

def plStateNum : PlState → Nat
  | .empty => 0 | .loading => 1 | .verifying => 2 | .ready => 3 | .armed => 4 | .pending => 5 | .rejected => 6

def plSts (s : State) : Word :=
  let l := s.pl
  word (plStateNum l.st + flagAt l.partialImg 3 + flagAt l.legalchg 4 + flagAt l.locked 5 + flagAt l.done 6 + flagAt l.actref 7 +
    flagAt l.ownerr 8 + ownerCode l.owner * 2 ^ 9)

def rdPlan (s : State) (o : Nat) : Word :=
  let l := s.pl
  match o with
  | 0x04 => plSts s
  | 0x08 => word (l.rsn + l.sect * 2 ^ 8)
  | 0x0C => word l.wptr
  | 0x10 => l.afl
  | 0x14 => word l.afh.toNat
  | 0x18 => l.act.planid
  | 0x1C => l.act.planrev
  | 0x20 => (l.shadow.map (·.planid)).getD 0
  | 0x24 => (l.shadow.map (·.planrev)).getD 0
  | 0x28 => word (cycleCount l.act % 65536 + longestSeg l.act % 65536 * 2 ^ 16)
  | 0x2C => word (activeBank s)
  | _ =>
    if 0x40 ≤ o ∧ o < 0x80 then
      let i := (o - 0x40) / 8
      if o % 8 = 0 then wordOf l.ldg.toNat i else wordOf l.ldgN.toNat i
    else if 0x80 ≤ o ∧ o < 0xA0 then wordOf l.act.nonLegalDigest.toNat ((o - 0x80) / 4)
    else 0

/-! ## 0x0008_0000: point results, as published at the last tick (Tables 6.10, 6.11) -/

/-- RMS results of a published point: 10/12-cycle and half-cycle. -/
def pubRms (x : Point) (k : Option Nat) (half : Bool) : Int :=
  match k with
  | some k => let r := tget {} k x.seg.rms; ((if half then r.rH else r.r10 : Nat) : Int)
  | none => 0

/-- The RMS quantities of the voltage and current of element k; none beyond the point's type. -/
def elemRms (s : State) (p k : Nat) : Option Nat × Option Nat :=
  let d := pointDef s.plan p
  if elemCount d ≤ k then (none, none)
  else
    let e := elemOf d (chMap s.plan p) k
    (some (if d.type = 2 then 8 + k else e.1), some e.2.2)

/-- `PTSTS.QUAD` from the totals (Table 6.5). -/
def quadOf (x : Point) : Nat :=
  match decide (0 ≤ x.pTot), decide (0 ≤ x.qTot) with
  | true, true => 0 | false, true => 1 | false, false => 2 | true, false => 3

def ptSts (s : State) (p : Nat) (x : Point) : Word :=
  word (flagAt x.fvalid 0 + flagAt (tget {} 0 x.e).gate 1 + flagAt (tget {} 1 x.e).gate 2 + flagAt (tget {} 2 x.e).gate 3 +
    flagAt (decide (x.pTot < 0)) 4 + quadOf x * 2 ^ 5 + flagAt x.scalef 7 + x.sfcause * 2 ^ 8 + flagAt x.seqrev 11 +
    flagAt x.hrqstale 12 + flagAt (faulted s p) 13 + flagAt x.slew 14 + flagAt x.sat 15 + x.wcnt % 256 * 2 ^ 16)

/-- The 64-bit result registers: number n of Table 6.10. -/
def pointWide (s : State) (p : Nat) (x : Point) (n : Nat) : Int :=
  if n < 24 then
    let k := n / 8
    let e := tget {} k x.e
    match n % 8 with
    | 0 => e.pm | 1 => e.p1 | 2 => e.q | 3 => e.s
    | 4 => pubRms x (elemRms s p k).1 false
    | 5 => pubRms x (elemRms s p k).2 false
    | 6 => pubRms x (elemRms s p k).1 true
    | _ => pubRms x (elemRms s p k).2 true
  else
    match n with
    | 24 => x.pTot | 25 => x.p1Tot | 26 => x.qTot | 27 => x.sTot
    | 28 => pubRms x (some 3) false
    | 29 => pubRms x (some 3) true
    | 30 => pubRms x (some 11) false
    | 31 => pubRms x (some 12) false
    | 32 => pubRms x (some 8) false
    | 33 => pubRms x (some 9) false
    | 34 => pubRms x (some 10) false
    | 35 => pubRms x (some 7) false
    | _ => 0

def rdPoint (s : State) (o : Nat) : Word :=
  let p := o / 0x200
  let x := tget {} p s.met.pub
  let i := o % 0x200
  if i < 0x120 then wide48 (pointWide s p x (i / 8)) (i % 8 / 4)
  else
    match i with
    | 0x120 => word x.freq
    | 0x124 => word (toField 16 x.pf)
    | 0x128 => word (x.u2 % 65536 + x.u0 % 65536 * 2 ^ 16)
    | 0x12C => word (x.i2 % 65536)
    | 0x130 => ptSts s p x
    | 0x134 => frameWord x.frame 0
    | 0x138 => frameWord x.frame 1
    | 0x13C => frameWord x.wframe 0
    | 0x140 => frameWord x.wframe 1
    | _ => 0

/-! ## 0x0009_0000: pulse outputs (Tables 6.17, 6.18) -/

/-- Pending pulses: the whole pulses of the residue. -/
def pendingPulses (x : Pulse) : Nat := (asr x.res.int 48).toNat

def rdPulse (s : State) (o : Nat) : Word :=
  if 0x100 ≤ o then 0
  else
    let n := o / 0x20
    let x := tget {} n s.met.pulse
    match o % 0x20 with
    | 0x00 => word x.cnt
    | 0x04 => word (pendingPulses x % 65536)
    | 0x08 => word x.lost
    | 0x0C => word (flagAt x.active 0 + flagAt x.ovr 1 + flagAt x.scale 2 + flagAt (decide (128 ≤ ((s.plan.pulses[n]?).map (·.point)).getD 0)) 3)
    | _ => 0

/-! ## 0x000A_0000: power quality, live verification, sprint (Tables 7.9 to 7.13) -/

def rdPqBus (s : State) (b o : Nat) : Word :=
  let x := pqBus s b
  match o with
  | 0x00 => x.udin
  | 0x04 => x.thr1
  | 0x08 => x.thr2
  | 0x0C => word (flagAt x.dip.on 0 + flagAt x.swl.on 1 + flagAt x.int.on 2 + flagAt x.flag 3 + flagAt (udinOf x != 0) 4)
  | 0x10 => word (x.ext % 65536)
  | 0x14 => word x.dur
  | 0x18 => word x.flg10
  | 0x1C => word x.flg10s
  | _ => if 0x20 ≤ o ∧ o < 0xA0 then word (tget 0 ((o - 0x20) / 4) x.hist) else 0

def rdLive (s : State) (c o : Nat) : Word :=
  let x := liveAt s c
  match o with
  | 0x00 => word (liveState x + flagAt x.gdrift 2 + flagAt x.pdrift 3 + flagAt x.base 4 + flagAt x.chg 5 + flagAt x.inval 6 +
      flagAt (liveRuns s c) 7)
  | 0x04 => sword x.gain
  | 0x08 => sword x.phs
  | 0x0C => sword x.gbase
  | 0x10 => sword x.pbase
  | 0x14 => word x.win
  | 0x18 => frameWord x.frame 0
  | _ => frameWord x.frame 1

def spStateNum : SpState → Nat
  | .idle => 0 | .waiting => 1 | .capturing => 2 | .unread => 3

def rdSprint (s : State) (o : Nat) : Word :=
  let q := s.pq
  let e := entryWords (q.buf.headD noEntry)
  match o with
  | 0x00 => word (q.shift * 2 ^ 8)
  | 0x04 => word (spStateNum q.st + flagAt q.done 2 + flagAt q.ref 3 + q.rcode * 2 ^ 4 + flagAt q.trunc 7 + flagAt q.lostrd 8)
  | 0x08 => word q.len
  | 0x0C => q.sfl
  | 0x10 => word q.sfh.toNat
  | 0x14 => q.spch.getD 0 0
  | 0x18 => q.spch.getD 1 0
  | 0x1C => q.spch.getD 2 0
  | 0x20 => q.spch.getD 3 0
  | 0x24 => frameWord q.saf 0
  | 0x28 => frameWord q.saf 1
  | 0x2C => word q.buf.length
  | 0x30 => word q.next
  | 0x34 => word q.lost
  | 0x40 => e.getD 0 0
  | 0x44 => e.getD 1 0
  | 0x48 => e.getD 2 0
  | 0x4C => e.getD 3 0
  | _ => 0

def rdPq (s : State) (o : Nat) : Word :=
  let q := s.pq
  if o < 0x100 then
    match o with
    | 0x00 => word (flagAt q.banden 0 + flagAt q.bandrr 1)
    | 0x04 => word (flagAt (buses.any fun b => (pqBus s b).dip.on) 0 + flagAt (buses.any fun b => (pqBus s b).swl.on) 1 +
        flagAt (buses.any fun b => (pqBus s b).int.on) 2 + flagAt q.evt 3)
    | 0x10 => q.bsel
    | 0x14 => q.bcur
    | _ => 0
  else if o < 0x900 then rdPqBus s (o / 0x100 - 1) (o % 0x100)
  else if 0x1000 ≤ o ∧ o < 0x1000 + 0x20 * 160 then rdLive s ((o - 0x1000) / 0x20) (o % 0x20)
  else if 0x3000 ≤ o then rdSprint s (o - 0x3000)
  else 0

/-! ## 0x000B_0000: lockstep and pair integrity (Tables 8.7 to 8.9) -/

def lsSts (s : State) : Word :=
  let l := s.ls
  word (flagAt l.katok 0 + flagAt l.retry 1 + flagAt (!(faultPts s).isEmpty) 2 + flagAt l.prolmm 3 + flagAt l.xfer 4 +
    flagAt l.repair 5 + flagAt l.lost 6 + flagAt l.rdpair 7 + flagAt l.reinref 8 + l.injres * 2 ^ 9)

def rdLsHead (s : State) (o : Nat) : Word :=
  let l := s.ls
  match o with
  | 0x00 => lsSts s
  | 0x04 => word l.rtc
  | 0x08 => word (l.rlPoint + l.rlPoints * 2 ^ 8 + l.rlCyc * 2 ^ 16)
  | 0x20 => l.inj
  | 0x24 => l.rein
  | 0x30 => word l.mrrep
  | 0x34 => word l.mrlost
  | 0x38 => word l.worn.length
  | 0x3C => word (l.scrub % 2 ^ 24 + l.passes % 256 * 2 ^ 24)
  | 0x40 => word l.pairerr
  | _ => if 0x10 ≤ o ∧ o < 0x20 then word (maskOf 32 fun i => faulted s (8 * (o - 0x10) + i)) else 0

def rdLs (s : State) (o : Nat) : Word :=
  if o < 0x1000 then rdLsHead s o
  else if 0x1000 + 0x100 * 128 ≤ o then 0
  else
    let p := o / 0x100 - 0x10
    let i := o % 0x100
    if i < 0xC0 then pairWord (tget (Pair.zero 64) (16 * p + i / 0x10 + 1) s.ls.uve) (i % 0x10 / 4)
    else
      match i with
      | 0xC0 => (tget (Pair.zero 32) p s.ls.fault).v
      | 0xC4 => frameWord (tget 0 p s.ls.uvFrame) 0
      | 0xC8 => frameWord (tget 0 p s.ls.uvFrame) 1
      | _ => 0

/-! ## 0x000C_0000: harmonic blocks (Table 7.10) -/

def harmHead (h : Harm) (o : Nat) : Word :=
  match o with
  | 0x00 => frameWord h.frame 0
  | 0x04 => word (h.frame.toNat / 2 ^ 32 + flagAt h.valid 16 + flagAt h.fsync 17 + flagAt h.flag 18 + flagAt h.tvalid 19 +
      h.n * 2 ^ 20 + h.wins % 256 * 2 ^ 24)
  | 0x08 => word h.thd40
  | 0x0C => word h.thd63
  | 0x10 => word h.freq
  | 0x14 => word h.b29
  | 0x18 => frameWord h.bframe 0
  | _ => word (h.bframe.toNat / 2 ^ 32 + flagAt h.bvalid 16)

def rdHarm (s : State) (a : Nat) : Word :=
  let o := a - 0xC0000
  if 0x400 * 160 ≤ o then 0
  else if (chPoint s.plan (o / 0x400)).isNone then 0
  else
    let h := tget {} (o / 0x400) s.pq.harm
    let i := o % 0x400
    if i < 0x20 then harmHead h i
    else if i < 0x218 then
      if i % 8 = 0 then word (h.mag.getD ((i - 0x20) / 8) 0) else word (toField 16 (h.phs.getD ((i - 0x20) / 8) 0))
    else if i < 0x314 then word (h.ih.getD ((i - 0x218) / 4) 0)
    else if i < 0x3A0 then word (h.bnd.getD ((i - 0x314) / 4) 0)
    else 0

/-! ## 0x0010_0000: billing (Tables 9.5, 9.8 to 9.11) -/

/-- Register (t − 1, q − 1) of an offset below 0x600, as 12 (t − 1) + (q − 1). -/
def regSlot (o : Nat) : Nat := o / 0xC0 * 12 + o % 0xC0 / 0x10

/-- Maximum-demand index 4 (t − 1) + m of an offset in 0x600 to 0x9FF. -/
def mdSlot (o : Nat) : Nat := (o - 0x600) / 0x80 * 4 + o % 0x80 / 0x20

def bSts (s : State) (p : Nat) : Word :=
  let v := ivAt s p
  word (flagAt (srcOf s p == 1) 0 + flagAt (srcOf s p == 2) 1 + flagAt (faulted s p) 2 + flagAt v.isOpen 3 +
    flagAt (v.isOpen && v.short) 4 + flagAt (v.isOpen && v.tinv) 5 + flagAt (v.isOpen && v.outage) 6 +
    flagAt (tget false p s.bl.revimp) 7 + min v.subs.length 15 * 2 ^ 8 + flagAt (tget false p s.bl.newmd) 12 +
    flagAt (tget false p s.bl.tswev) 13)

def rdBill (s : State) (a : Nat) : Word :=
  let p := (a - 0x100000) / 0x1000
  let o := a % 0x1000
  let v := ivAt s p
  if o < 0x600 then pairWord (tget (Pair.zero 64) (96 * p + regSlot o) s.bl.w1) (o % 0x10 / 4)
  else if o < 0xA00 then
    let t := if o % 0x20 < 0x10 then s.bl.md else s.bl.mdts
    pairWord (tget (Pair.zero 64) (32 * p + mdSlot o) t) (o % 0x10 / 4)
  else if o < 0xA08 then pairWord (tget (Pair.zero 32) p s.bl.tidx) (o % 8 / 4)
  else if o = 0xA08 then bSts s p
  else if o = 0xA10 ∨ o = 0xA14 then (if v.isOpen then wordOf v.start.toNat (o % 8 / 4) else 0)
  else if 0xA20 ≤ o ∧ o < 0xA40 then
    wordOf (if v.isOpen then v.e.getD ((o - 0xA20) / 8) 0 * 60 / mdMinutes (pointDef s.plan p).mdcode else 0) (o % 8 / 4)
  else if 0xA40 ≤ o ∧ o < 0xA60 then wordOf (v.last.getD ((o - 0xA40) / 8) 0) (o % 8 / 4)
  else if o = 0xA60 ∨ o = 0xA64 then wordOf v.lastTs.toNat (o % 8 / 4)
  else 0

/-- The set selected by `BLSSEL`. -/
def shownSet (s : State) : Option BillingSet :=
  if s.bl.selAge = 0 then none else (tget [] s.bl.selPoint s.bl.sets)[s.bl.selAge - 1]?

/-- A window word of a set: its pairs as stored. -/
def setWord (b : BillingSet) (o : Nat) : Word :=
  let z := Pair.zero 64
  if o < 0x600 then pairWord (tget z (regSlot o) b.reg) (o % 0x10 / 4)
  else if o < 0xA00 then pairWord (tget z (mdSlot o) (if o % 0x20 < 0x10 then b.md else b.mdts)) (o % 0x10 / 4)
  else if o < 0xA08 then pairWord b.tariff (o % 8 / 4)
  else if o < 0xC00 then 0
  else if o < 0xC08 then pairWord b.hseq (o % 8 / 4)
  else if o < 0xC18 then pairWord b.hclose ((o - 0xC08) / 4)
  else if o < 0xC28 then pairWord b.hstart ((o - 0xC18) / 4)
  else if o < 0xC30 then pairWord b.hinfo (o % 8 / 4)
  else if o < 0xC38 then pairWord b.hplan (o % 8 / 4)
  else if o < 0xC48 then pairWord b.hframe ((o - 0xC38) / 4)
  else 0

/-- The next rule boundary; 0 without a calendar day. -/
def nextClose (s : State) : Nat := ((nextBoundary s.plan.calendar s.nowSec.1).map Int.toNat).getD 0

def rdDevBill (s : State) (o : Nat) : Word :=
  let b := s.bl
  if 0x1000 ≤ o then
    match shownSet s with
    | some x => setWord x (o - 0x1000)
    | none => 0
  else
    match o with
    | 0x00 => word (flagAt (!s.rtc.valid) 0 + flagAt (decide (s.nowSec.1 ≤ b.lcb.v.toNat)) 1 + flagAt b.closed 2 + flagAt b.cref 3 +
        flagAt b.drop 4 + flagAt b.catchup 5)
    | 0x08 => pairWord b.lcb 0
    | 0x0C => pairWord b.lcb 1
    | 0x10 => pairWord b.lcb 2
    | 0x14 => pairWord b.lcb 3
    | 0x18 => wordOf (nextClose s) 0
    | 0x1C => wordOf (nextClose s) 1
    | 0x20 => word (b.selPoint + b.selAge * 2 ^ 8)
    | 0x24 => word (if b.selAge = 0 ∨ 13 < b.selAge then 0 else (tget [] b.selPoint b.sets).length)
    | 0x28 =>
      let u : Int := s.nowSec.1
      word (toField 16 ((localOf s.plan.calendar u - u) / 60) + flagAt (dstAt s.plan.calendar u != 0) 16)
    | _ => 0

/-! ## 0x0020_0000: RTC and Slate (Tables 10.5 to 10.8) -/

/-- `RTCDATE` of a second. -/
def dateWord (sec : Nat) : Word :=
  let n : Int := ((sec / 86400 : Nat) : Int)
  let d := dateOf n
  word (d.y.toNat % 4096 + d.m * 2 ^ 12 + d.d * 2 ^ 16 + weekday n * 2 ^ 24)

/-- `RTCTIME` of a second. -/
def timeWord (sec : Nat) : Word := word (sec % 86400 / 3600 + sec / 60 % 60 * 2 ^ 8 + sec % 60 * 2 ^ 16)

/-- The counter as it reads: under HALT, what has been written. -/
def rtcNow (r : Rtc) : Nat := if r.halt then r.newSec else r.sec

def rtcSts (r : Rtc) : Word :=
  word (flagAt r.valid 0 + r.invcause * 2 + flagAt r.werr 4 + flagAt r.href 5 + flagAt r.hto 6 + flagAt r.cold 7 +
    flagAt r.oscstop 8 + flagAt r.vbatlow 9 + flagAt r.cellrun 10)

def rdAlarm (a : Alarm) (o : Nat) : Word :=
  match o with
  | 0 => wordOf a.time 0
  | 4 => wordOf a.time 1
  | 8 => word a.per
  | _ => word (flagAt a.en 0 + flagAt a.skip 1 + flagAt a.notify 2 + flagAt a.log 3)

def alSts (s : State) : Word :=
  word (maskOf 8 (fun n => (alarmAt s n).fired) + maskOf 8 (fun n => (alarmAt s n).late) * 2 ^ 8 +
    maskOf 8 (fun n => (alarmAt s n).drop) * 2 ^ 16)

def rdRtcHead (s : State) (o : Nat) : Word :=
  let r := s.rtc
  match o with
  | 0x00 => word (flagAt r.halt 0 + flagAt r.relpps 1)
  | 0x04 => rtcSts r
  | 0x08 => wordOf (rtcNow r) 0
  | 0x0C => wordOf (rtcNow r) 1
  | 0x10 => word r.sub
  | 0x14 => dateWord (rtcNow r)
  | 0x18 => timeWord (rtcNow r)
  | 0x20 => word (flagAt r.cap.done 1 + flagAt r.cap.halted 2 + flagAt r.cap.invalid 3)
  | 0x24 => wordOf r.cap.sec 0
  | 0x28 => wordOf r.cap.sec 1
  | 0x2C => word r.cap.sub
  | 0x30 => if r.cap.done then dateWord r.cap.sec else 0
  | 0x34 => if r.cap.done then timeWord r.cap.sec else 0
  | 0x38 => frameWord r.cap.frame 0
  | 0x3C => frameWord r.cap.frame 1
  | 0x40 => word r.cap.cyc
  | 0x50 => word (toField 9 r.trim)
  | 0x54 => word (r.ppsMode + flagAt r.ppsValid 4 + flagAt r.ppsLoss 5 + flagAt r.phbig 6)
  | 0x58 => word (toField 16 r.ppse)
  | 0x5C => sword r.ppsf
  | 0x70 => word (r.vbat + flagAt r.vbatOk 16)
  | _ => 0

def rdRtc (s : State) (o : Nat) : Word :=
  if o < 0x80 then rdRtcHead s o
  else if o < 0x100 then rdAlarm (alarmAt s ((o - 0x80) / 0x10)) (o % 0x10)
  else if o = 0x100 then alSts s
  else if 0x140 ≤ o ∧ o < 0x180 then
    let a := alarmAt s ((o - 0x140) / 8)
    if o % 8 = 0 then wordOf a.latSec 0 else word (a.latSec / 2 ^ 32 % 256 + a.latCnt * 2 ^ 8 + flagAt a.latSet 16)
  else if 0x200 ≤ o ∧ o < 0x280 then tget 0 ((o - 0x200) / 4) s.rtc.bk
  else 0

/-! ## 0x0021_0000: tamper and seal (Tables 11.6 to 11.10) -/

def sealSts (t : Tamper) : Word :=
  word ((if t.sealSt = 2 ∧ t.sealst ≠ sealOpenPair then 0 else t.sealSt) + flagAt t.rearm 2 + flagAt t.deny 3 + flagAt t.pin 4 + flagAt t.pendcell 5)

def tpSts (t : Tamper) : Word :=
  word (flagAt t.locked 0 + flagAt t.fallbk 1 + flagAt t.erased 2 + flagAt t.dddis 3 + flagAt (!t.latches.isEmpty) 4)

/-- The mask of sticky flags. -/
def stickyMask (s : State) : Nat := maskOf 16 fun n => (srcAt s n).sticky

def rdTamperHead (s : State) (o : Nat) : Word :=
  let t := s.tp
  match o with
  | 0x00 => sealSts t
  | 0x04 => word t.sealcnt
  | 0x08 => t.sealst.v
  | 0x0C => t.sealst.n
  | 0x10 => word (stickyMask s)
  | 0x14 => word (maskOf 16 (fun n => (srcAt s n).isOpen) + maskOf 8 (fun n => (srcAt s n).active) * 2 ^ 16)
  | 0x18 => word t.disag.toNat
  | 0x1C => tpSts t
  | 0x20 => t.clr
  | 0x24 => word (t.clrFlags + t.clrRes * 2 ^ 16)
  | 0x28 => t.ddsts
  | 0x30 => word t.erac
  | 0x34 => wordOf t.esec 0
  | 0x38 => word (t.esec / 2 ^ 32 % 256 + flagAt t.etinv 8 + t.emask * 2 ^ 16)
  | _ => 0

def rdSource (x : Source) (o : Nat) : Word :=
  match o with
  | 0 => x.cfg
  | 4 => word x.win
  | 8 => word (x.cnt + flagAt x.isOpen 8 + flagAt x.declared 9 + x.dsec / 2 ^ 32 % 256 * 2 ^ 16 + flagAt x.dtinv 24)
  | _ => wordOf x.dsec 0

def mtSts (s : State) (p : Nat) : Word :=
  let m (k : Nat) := tget (false, 0, 0) (4 * p + k) s.tp.mt
  word (maskOf 4 (fun k => (m k).1) + flagAt (mtHolds s p) 4 +
    min 255 (((List.range 4).map fun k => (m k).2.1).foldl max 0) * 2 ^ 8)

def rdTamper (s : State) (o : Nat) : Word :=
  if o < 0x100 then rdTamperHead s o
  else if o < 0x200 then rdSource (srcAt s ((o - 0x100) / 0x10)) (o % 0x10)
  else if o = 0x300 then s.tp.mtcfg
  else if o = 0x304 then s.tp.mtthr1
  else if o = 0x308 then s.tp.mtthr2
  else if 0x400 ≤ o ∧ o < 0x600 then mtSts s ((o - 0x400) / 4)
  else 0

/-! ## 0x0022_0000: event recorder (Tables 12.7 to 12.11) -/

def erSts (r : Recorder) : Word :=
  word (flagAt r.sdrop 0 + flagAt (privFull r) 1 + flagAt r.plost 2 + flagAt r.clrbusy 3 + flagAt r.ackref 4 + flagAt r.clrref 5 +
    flagAt r.early 6)

def erlWord (b : Bucket) : Word := word (b.burst + b.period * 2 ^ 8 + b.tokens * 2 ^ 24)

def rdRec (s : State) (o : Nat) : Word :=
  let r := s.er
  let w := windowOf r
  if 0x100 ≤ o ∧ o < 0x140 then word (leAt w.1 (o - 0x100) 4)
  else if 0x400 ≤ o ∧ o < 0x800 then erlWord (bucketAt s ((o - 0x400) / 4))
  else
    match o with
    | 0x00 => erSts r
    | 0x04 => word (r.area + r.mode * 2 ^ 2)
    | 0x08 => word r.cidx
    | 0x0C => word (flagAt w.2.1 0 + flagAt w.2.2.1 1 + flagAt w.2.2.2 2 + flagAt r.atEnd 3)
    | 0x10 => word r.ops
    | 0x14 => word r.pwc
    | 0x18 => r.snext
    | 0x1C => word r.pseq
    | 0x20 => word r.wm
    | 0x24 => word (freeParts r).toNat
    | 0x28 => word r.pres
    | 0x2C => word r.plostN
    | 0x40 => word r.wrap.toNat
    | 0x70 => wordOf r.chal.toNat 0
    | 0x74 => wordOf r.chal.toNat 1
    | _ =>
      if 0x30 ≤ o ∧ o < 0x40 then word (tget 0 ((o - 0x30) / 4) r.sdropN)
      else if 0x44 ≤ o ∧ o < 0x54 then word (r.agw.getD ((o - 0x44) / 4) 0)
      else 0

/-! ## 0x0023_0000: display (Tables 13.10 to 13.13) -/

/-- `DPSTS`; DEFER is 1 while the ladder is at step 2 or higher (R315). -/
def dpSts (s : State) : Word :=
  let d := s.dp
  word (dispCond d + flagAt (railsOk d) 2 + flagAt d.prof 3 + flagAt d.profref 4 + d.prsn * 2 ^ 5 + flagAt (decide (2 ≤ s.sup.tstep)) 7 +
    flagAt d.rebal 8 + flagAt d.rfault 9 + flagAt d.sfault 10 + d.band * 2 ^ 11 + d.item * 2 ^ 16)

def rgNum : RgState → Nat
  | .idle => 0 | .pending => 1 | .driving => 2

def dpRgn (s : State) (r : Nat) : Word :=
  let x := rgnAt s r
  let on := x.st == .driving
  word (rgNum x.st + (if on then x.phase else 0) * 2 ^ 2 + flagAt x.jopen 5 + flagAt ((segsOf r).any fun n => (segAt s n).opt == .unknown) 6 +
    flagAt ((segsOf r).any fun n => (segAt s n).opt == .inter) 7 + (if on then min x.steps 255 else 0) * 2 ^ 8)

def rdDisp (s : State) (o : Nat) : Word :=
  let d := s.dp
  match o with
  | 0x00 => word (flagAt d.en 0)
  | 0x04 => dpSts s
  | 0x08 => word (d.flk + d.flkEff * 2 ^ 8)
  | 0x0C => word (pfVcom (profileOfDisplay s) % 256)
  | 0x10 => sword d.temp
  | 0x14 => d.pcrc
  | _ =>
    if 0x40 ≤ o ∧ o < 0x58 then word (maskOf 32 fun i => (segAt s (8 * (o - 0x40) + i)).fault)
    else if 0x80 ≤ o ∧ o < 0xC0 then dpRgn s ((o - 0x80) / 4)
    else if 0xC0 ≤ o ∧ o < 0xD0 then tget 0 ((o - 0xC0) / 4 + 12) d.free
    else if 0x400 ≤ o ∧ o < 0xA00 then
      let x := segAt s ((o - 0x400) / 8)
      if o % 8 = 0 then sword x.dci else word x.swc
    else if 0x1000 ≤ o ∧ o < 0x1400 then tget 0 ((o - 0x1000) / 4) d.stage
    else 0

/-! ## 0x0024_0000: trust (Tables 14.3, 14.8 to 14.11) -/

def fwStateNum : FwState → Nat
  | .empty => 0 | .loading => 1 | .valid => 2 | .rejected => 3 | .accepted => 4

/-- The bytes of a measurement-log entry (Table 14.3). -/
def logBytes (e : MLog) : List Byte :=
  leBytes 4 e.lseq ++ leBytes 1 e.reg ++ leBytes 1 e.kind ++ leBytes 2 0 ++ leBytes 8 e.frame.toNat ++ digBytes e.digest

def trSlot (s : State) : Word :=
  let t := s.tr
  word (flagAt t.runL 0 + flagAt t.nextL 1 + flagAt t.runA 2 + flagAt t.nextA 3 + flagAt (slotAt s (loadSlot s false)).failed 4 +
    flagAt (slotAt s (loadSlot s true)).failed 5)

def rdTrustHead (s : State) (o : Nat) : Word :=
  let t := s.tr
  match o with
  | 0x00 => word (flagAt t.keyok 0 + flagAt t.fwown 1 + flagAt t.fallback 2 + flagAt t.chkpt 3 + flagAt t.keyref 4)
  | 0x08 => word (fwStateNum t.fst + flagAt t.fcore 3 + t.fcode * 2 ^ 4)
  | 0x10 => word t.fptr
  | 0x18 => t.svnL.v
  | 0x1C => t.svnL.n
  | 0x20 => t.svnA.v
  | 0x24 => t.svnA.n
  | 0x28 => trSlot s
  | 0x30 => t.lcv.v
  | 0x34 => t.lcv.n
  | 0x84 => word (flagAt (quoteBusy t) 0 + flagAt t.qdone 1 + flagAt t.qref 2 + t.qreason * 2 ^ 3)
  | _ =>
    if 0x40 ≤ o ∧ o < 0x60 then tget 0 ((o - 0x40) / 4) t.ckhL
    else if 0x60 ≤ o ∧ o < 0x80 then tget 0 ((o - 0x60) / 4) t.ckhA
    else if 0xA0 ≤ o ∧ o < 0xC0 then tget 0 ((o - 0xA0) / 4) t.nonce
    else 0

def rdTrust (s : State) (o : Nat) : Word :=
  let t := s.tr
  if o < 0x200 then rdTrustHead s o
  else if o < 0x240 then word (leAt t.pub (o - 0x200) 4)
  else if o < 0x280 then word (leAt s.nv.endo (o - 0x240) 4)
  else if o = 0x280 then word t.lidx
  else if o = 0x284 then word (t.log.length + t.ckpts % 65536 * 2 ^ 16)
  else if 0x2C0 ≤ o ∧ o < 0x2F0 then
    match t.log[t.lidx]? with
    | some e => word (leAt (logBytes e) (o - 0x2C0) 4)
    | none => 0
  else if 0x300 ≤ o ∧ o < 0x400 then wordOf (measOf t ((o - 0x300) / 0x20)).toNat (o % 0x20 / 4)
  else if o = 0x404 then word (t.kres + t.kreason * 2 ^ 2)
  else if 0x600 ≤ o ∧ o < 0x7B0 then word (leAt t.quote (o - 0x600) 4)
  else if 0x800 ≤ o ∧ o < 0xA00 then tget 0 ((o - 0x800) / 4) t.tag
  else if 0xA00 ≤ o ∧ o < 0xA20 then wordOf t.tagd.toNat ((o - 0xA00) / 4)
  else 0

/-! ## 0x0025_0000: interfaces and Cobalt (Tables 15.5, 15.12, 15.13) -/

/-- `IRQSUM` (Table 15.12). -/
def irqSum (h : Port) : Word :=
  let ev := h.irqev &&& h.irqen
  let low := ((List.range 256).find? fun i => ev.getLsbD i).getD 0
  word (flagAt (ev != 0) 0 + flagAt (h.irqsts &&& h.irqmsk != 0) 1 + low * 2 ^ 8)

/-- `DLSTS.KEYS`: both security keys are loaded. -/
def keysLoaded (s : State) : Bool := (s.tp.keys.any fun e => e.1 == 2) && s.tp.keys.any fun e => e.1 == 3

def cbpSts (x : CbPort) : Word := word (x.st + x.pdepth * 2 ^ 2 + flagAt x.chg 7 + flagAt x.err 8)

def rdHostPort (s : State) (o : Nat) : Word :=
  let h := s.hp
  match o with
  | 0x00 => word (h.code + flagAt h.crcerr 4 + flagAt h.abort 5 + flagAt h.tmo 6 + flagAt h.noeff 7)
  | 0x04 => word h.hto
  | 0x08 => word h.crcc
  | 0x10 => word h.irqsts.toNat
  | 0x14 => word h.irqmsk.toNat
  | 0x18 => irqSum h
  | 0x60 => word h.irqtamp.toNat
  | _ =>
    if 0x20 ≤ o ∧ o < 0x40 then wordOf h.irqev.toNat ((o - 0x20) / 4)
    else if 0x40 ≤ o ∧ o < 0x60 then wordOf h.irqen.toNat ((o - 0x40) / 4)
    else 0

/-- Serial ports (Table 15.12). UART0 is off while no application core serves it (log 117). -/
def rdSerial (s : State) (o : Nat) : Word :=
  let x := s.ser
  match o with
  | 0x100 => word (x.zmax + flagAt x.en0 8)
  | 0x104 => word ((if x.en0 && s.sup.apprun then (if x.st0 = 2 then 2 else 1) else 0) + x.z * 2 ^ 4)
  | 0x120 => word (x.baud + flagAt x.en1 8 + flagAt x.push 9)
  | 0x124 => word x.phys
  | 0x128 => word (x.assoc.length + flagAt (keysLoaded s) 16)
  | 0x12C => word x.inact
  | _ => 0

def rdCobalt (s : State) (o : Nat) : Word :=
  let c := s.cb
  match o with
  | 0x200 => word c.en.toNat
  | 0x204 => word (c.addr + flagAt c.addrValid 16 + flagAt c.enumRun 17)
  | 0x208 => word c.rspto
  | 0x20C => word c.late
  | 0x300 => word (flagAt c.pfwPin 0 + flagAt c.pfwCmp 1 + flagAt c.warn 2 + flagAt c.warnSrc 3)
  | _ =>
    if 0x210 ≤ o ∧ o < 0x220 then cbpSts (portAt s ((o - 0x210) / 4))
    else if 0x220 ≤ o ∧ o < 0x22C then
      let r := rangeOf s ((o - 0x220) / 4 + 1)
      word (r.1 + r.2 * 2 ^ 16)
    else if 0x230 ≤ o ∧ o < 0x240 then
      let x := portAt s ((o - 0x230) / 4)
      word (x.viol + x.crcDrops * 2 ^ 16)
    else if 0x240 ≤ o ∧ o < 0x250 then word (portAt s ((o - 0x240) / 4)).rtx
    else 0

/-! ## 0x0026_0000: modes and power (Tables 16.9 to 16.11) -/

/-- `MDSTS.SETTLE`: a member stream carries kind 0x1. -/
def settling (s : State) : Bool := (memberChs s.plan).any fun c => (pathAt s c).settling

def mdSts (s : State) : Word :=
  let x := s.sup
  word (x.st.num + flagAt s.sealOpen 4 + flagAt (!s.rtc.valid) 5 + s.tb.role * 2 ^ 6 + dispCond s.dp * 2 ^ 8 + x.tstep * 2 ^ 10 +
    flagAt (x.commit == .due) 13 + flagAt (settling s) 14 + (if x.st = .recovery then x.rreason else 0) * 2 ^ 16 +
    (if x.st = .start then x.sphase else 0) * 2 ^ 24)

def mdEvt (x : Supervisor) : Word :=
  word (flagAt x.reqref 0 + flagAt x.caldisc 1 + flagAt x.lwdog 2 + flagAt x.awdog 3 + flagAt x.tstepE 4 + flagAt x.pfdone 5 +
    flagAt x.pfinc 6 + flagAt x.slcrst 7)

/-- Legal expiries in the window of 3,600 operating-seconds (16 R389). -/
def wdlCount (s : State) : Nat := (s.sup.wdlExp.filter fun t => decide (s.er.ops < t + 3600)).length

def rdMode (s : State) (o : Nat) : Word :=
  let x := s.sup
  if 0x1000 ≤ o ∧ o < 0x9000 then
    if o % 0x100 < 0xC0 then pairWord (tget (Pair.zero 64) (16 * (o / 0x100 - 0x10) + o % 0x100 / 0x10 + 1) s.bl.rce) (o % 0x10 / 4) else 0
  else
    match o with
    | 0x00 => mdSts s
    | 0x04 => x.mdctl
    | 0x08 => mdEvt x
    | 0x0C => word x.stime
    | 0x10 => word s.met.setf
    | 0x14 => word x.pwcDur
    | 0x18 => frameWord x.pwcFrame 0
    | 0x1C => frameWord x.pwcFrame 1
    | 0x20 => word (toField 16 x.tj + toField 16 x.tjPeak * 2 ^ 16)
    | 0x24 => word x.wdlPeriod
    | 0x2C => word x.wdaPeriod
    | 0x34 => word (min 3 (wdlCount s))
    | _ => 0

/-! ## 0x0030_0000: calibration set (Table 6.13) -/

/-- The working set as it reads: an accepted coefficient at once (06 R156, 01 R18). -/
def workingCal (s : State) : CalSet := s.met.calNext.getD s.met.cal

/-- `CALSTS.DIRTY`. -/
def calDirty (s : State) : Bool := calVals (workingCal s) != calVals s.nv.cal

/-- Coefficient k of a channel: gain, delay, full scale, active and reactive offset. -/
def calPair (c : Cal) (k : Nat) : Pair 32 :=
  match k with
  | 0 => c.gain | 1 => c.dly | 2 => c.fsq | 3 => c.pofs | _ => c.qofs

def rdCal (s : State) (o : Nat) : Word :=
  if 0x100 ≤ o ∧ o < 0x100 + 0x40 * 168 then
    if o % 0x40 < 0x28 then pairWord (calPair (tget {} ((o - 0x100) / 0x40) (workingCal s).ch) (o % 0x40 / 8)) (o % 8 / 4) else 0
  else if 0x10 ≤ o ∧ o < 0x30 then pairWord (tget (Pair.zero 32) ((o - 0x10) / 8) (workingCal s).ref) (o % 8 / 4)
  else
    match o with
    | 0x00 => s.met.calctl
    | 0x04 => word (flagAt (calDirty s) 0 + flagAt s.met.calRef 1)
    | 0x08 => s.met.calseq.v
    | 0x0C => s.met.calseq.n
    | _ => 0

/-! ## The address space (Table 17.1) -/

/-- The Carmine blocks that the application core reads through the mailbox (R393). -/
def carmine (a : Nat) : Bool := a / 0x10000 == 8 || a / 0x10000 == 0xB || (decide (0x100000 ≤ a) && decide (a < 0x182000)) || a / 0x10000 == 0x30

/-- The state as the mailbox of the last tick shows it. -/
def mboxView (s : State) : State :=
  let b := s.hp.mbox
  { s with met := { s.met with pub := b.pub, cal := b.cal, calNext := none, calRef := b.calRef, calseq := b.calseq, calctl := b.calctl }
           ls := b.ls, bl := b.bl, pl := { s.pl with act := b.plan }, rtc := b.rtc, nv := { s.nv with cal := b.nvCal } }

/-- Registers of the Stored class (Table 17.4). -/
def storedAddr (a : Nat) : Bool :=
  let o := a % 0x10000
  let within (lo hi : Nat) : Bool := decide (lo ≤ o) && decide (o < hi)
  if 0x100000 ≤ a ∧ a < 0x180000 then decide (a % 0x1000 < 0xA08)
  else if 0x180000 ≤ a ∧ a < 0x182000 then within 0x08 0x18 || within 0x1000 0x2000
  else
    match a / 0x10000 with
    | 0x05 => within 0x18 0x20 || within 0x2C 0x30 || within 0x40 0xA0
    | 0x0A => within 0x1000 0x2400 && (o % 0x20 == 0x0C || o % 0x20 == 0x10)
    | 0x0B => within 0x30 0x3C || within 0x1000 0x9000
    | 0x21 => within 0x300 0x30C
    | 0x22 => within 0x10 0x24 || within 0x2C 0x30 || within 0x40 0x54 || within 0x400 0x800
    | 0x23 => within 0x14 0x18 || within 0x400 0xA00
    | 0x24 => within 0x18 0x2C || within 0x40 0x80 || within 0x800 0xA20
    | 0x26 => within 0x1000 0x9000
    | 0x30 => within 0x08 0x2900
    | _ => false

/-- The committed values have not been restored yet: a Stored register reads its reset value (R395). -/
def notRestored (s : State) : Bool := s.sup.st == .start && decide (s.sup.sphase < 2)

/-- The word at an address from the state of its block. -/
def readRaw (s0 : State) (req : Requester) (a : Nat) : Word :=
  let s := if req = .app ∧ carmine a then mboxView s0 else s0
  let o := a % 0x10000
  if 0x100000 ≤ a ∧ a < 0x180000 then rdBill s a
  else if 0x180000 ≤ a ∧ a < 0x182000 then rdDevBill s (a - 0x180000)
  else if 0xC0000 ≤ a ∧ a < 0xE8000 then rdHarm s a
  else
    match a / 0x10000 with
    | 0x00 => rdIdent s o
    | 0x01 => rdTb s o
    | 0x02 => rdFe s o
    | 0x03 => rdCv s o
    | 0x04 => rdQueue s req o
    | 0x05 => rdPlan s o
    | 0x08 => rdPoint s o
    | 0x09 => rdPulse s o
    | 0x0A => rdPq s o
    | 0x0B => rdLs s o
    | 0x20 => rdRtc s o
    | 0x21 => rdTamper s o
    | 0x22 => rdRec s o
    | 0x23 => rdDisp s o
    | 0x24 => rdTrust s o
    | 0x25 => if o < 0x100 then rdHostPort s o else if o < 0x200 then rdSerial s o else rdCobalt s o
    | 0x26 => rdMode s o
    | 0x30 => rdCal s o
    | _ => 0

/-- The word at an address as a requester reads it. -/
def readWord (s : State) (req : Requester) (a : Nat) : Word :=
  readRaw (if notRestored s && storedAddr a then State.reset else s) req a

/-- The words of a range, captured together (15 R348). -/
def readWords (s : State) (req : Requester) (a n : Nat) : List Word := (List.range n).map fun i => readWord s req (a + 4 * i)

end Sys2Proof.Machine
end

