-- ==== Sys2Proof/Machine/Modes.lean ====
section
/-! DEFINITION. The device supervisor (16): states, mode requests, the thermal ladder, the watchdogs and the resets they order. -/

namespace Sys2Proof.Machine

/-! ## States (R371, Table 16.8) -/

/-- Bin of event 0x00. -/
def stateBin : OpState → Option Int
  | .boot => some 1 | .start => some 2 | .run => some 3 | .calibrate => some 4 | .test => some 5 | .recovery => some 6
  | _ => none

/-- Enter a state, with event 0x00. -/
def enterState (s : State) (st : OpState) : State := raise (s.mapSup fun u => { u with st := st }) 0x00 0xFF (stateBin st)

/-- The legal core, or in RECOVERY the recovery monitor, serves requests from the first tick of START (R371, R379). -/
def monitorRuns (s : State) : Bool := s.sup.st == .recovery && s.sup.rreason == 1

/-- A request without effect sets NOEFF for the host (Table 17.3). -/
def noEff (s : State) (req : Requester) : State := if req = .host then s.mapHp fun h => { h with noeff := true } else s

/-! ## CALIBRATE and TEST (R380, R381) -/

/-- Coefficients that differ between two sets. -/
def calDiff (a b : CalSet) : Nat := ((List.zip (calVals a) (calVals b)).filter fun e => e.1 != e.2).length

/-- CALIBRATION_REVERT: an uncommitted working set reverts (R381). -/
def calRevert (s : State) : State :=
  if calDirty s then
    let n := calDiff (workingCal s) s.nv.cal
    let s := s.mapMet fun m => { m with cal := s.nv.cal, calNext := none }
    raise (s.mapSup fun u => { u with caldisc := true }) 0x02 0xFF (some (n : Nat))
  else s

/-- TEST_ENTRY_BILLING and the change to the plan's TEST filter (R380, R93). -/
def testEntry (s : State) : State :=
  let s := forEach (livePts s) (shortClose 0 2 false) s
  filterChange (enterState (clearRecovery s) .test) false s.plan.testSinc

/-- The return from TEST: FIR decimation, a new interval of each point, no injection (Table 16.2, R380). -/
def testExit (s : State) : State :=
  let s := (enterState s .run).mapLs fun l => { l with injDue := none, injAct := none }
  let s := filterChange s true {}
  forEach (livePts s) (fun s p => if faulted s p then s else openIv s p true false) s

/-- RUN again, from CALIBRATE or TEST. -/
def returnToRun (s : State) : State :=
  match s.sup.st with
  | .calibrate => enterState (calRevert s) .run
  | .test => testExit s
  | _ => s

/-- What Table 16.2 makes of a tick, in the order of R373: a commit and reset, a closing seal, a faulty-slice reset, a mode
request. -/
def modeTick (s : State) : State :=
  let r := s.sup.modeReq
  let s := s.mapSup fun u => { u with modeReq := none }
  if s.sup.commit ≠ .none then s
  else if (s.sup.st = .calibrate ∨ s.sup.st = .test) ∧ !s.sealOpen then returnToRun s
  else if s.cv.fourFaulty ∧ (s.sup.st = .run ∨ s.sup.st = .calibrate ∨ s.sup.st = .test) then s
  else
    match r with
    | some .calibrate => if s.sup.st = .run then enterState s .calibrate else s
    | some .test => if s.sup.st = .run then testEntry s else s
    | some .run => returnToRun s
    | _ => s

/-! ## Mode requests (R374, R379) -/

def mdReq (w : Word) : Nat := wbits w 1 0
def mdRecov (w : Word) : Bool := wbit w 4

/-- The reason of event 0x01 when an `MDCTL` write is refused at its answer; none when it is accepted or asks for nothing. -/
def mdReason (s : State) (w : Word) : Option Nat :=
  if mdReq w ≠ 0 ∧ mdRecov w then some 5
  else if mdReq w = 0 ∧ !mdRecov w then none
  else if s.sup.sealNow then some 4
  else if !s.sealOpen then some 1
  else if 2 ≤ mdReq w ∧ s.tp.locked then some 2
  else
    let ok :=
      if mdRecov w then s.sup.st == .run
      else if mdReq w = 1 then s.sup.st == .calibrate || s.sup.st == .test || (s.sup.st == .recovery && s.sup.rreason == 5)
      else s.sup.st == .run
    if ok then none else some 3

/-- A refused mode request. -/
def mdRefuse (s : State) (reason : Nat) : State :=
  raise (s.mapSup fun u => { u with reqref := true }) 0x01 0xFF (some (reason : Nat))

/-- Perform an accepted `MDCTL` write: a state change at the next tick, or a recovery order or its release with its commit and
reset. -/
def mdApply (s : State) (w : Word) : State :=
  let s := s.mapSup fun u => { u with mdctl := w }
  if mdRecov w then orderReset (s.mapSup fun u => { u with order := true }) 6
  else
    match mdReq w with
    | 0 => s
    | 1 => if s.sup.st = .recovery then orderReset (s.mapSup fun u => { u with order := false }) 6
        else s.mapSup fun u => { u with modeReq := some .run }
    | 2 => s.mapSup fun u => { u with modeReq := some .calibrate }
    | _ => s.mapSup fun u => { u with modeReq := some .test }

/-- The seal has closed: a request accepted for this tick's end is refused (R373). -/
def dropModeReq (s : State) : State :=
  if s.sup.modeReq.isSome then mdRefuse (s.mapSup fun u => { u with modeReq := none }) 4 else s

/-! ## Resets (R383, R335, R367) -/

/-- The tick after the faulty-slice count reached 4 (R383). -/
def execFaultySliceReset (s : State) : Out :=
  if s.cv.fourFaulty ∧ (s.sup.st = .run ∨ s.sup.st = .calibrate ∨ s.sup.st = .test) ∧ s.sup.commit = .none then
    let s := (s.mapSup fun u => { u with slcrst := true }).mapCv fun c => { c with fourFaulty := false }
    .next (orderReset (raise s 0x0A 0xFF none) 8)
  else .next s

/-- `TRFWCTL.RESET` of a requester that loads firmware. -/
def fwReset (s : State) (req : Requester) : State :=
  if fwReq req && serving s then orderReset s 5 else noEff s req

def execReset (req : Requester) (s : State) : Out := .next (if serving s then fwReset s req else s)

/-- 64,000 ticks without CONFIRM of a core's image: the next BOOT marks its slot failed (R335 step 3). -/
def execConfirmTimeout (app : Bool) (s : State) : Out :=
  if (if app then s.tr.confA else s.tr.confL) ∧ 64000 ≤ s.tr.confTicks ∧ s.sup.commit = .none then
    let s := s.mapTr fun t => { t with confOut := t.confOut ++ [app], confL := t.confL && app, confA := t.confA && !app }
    .next (orderReset s 9)
  else .next s

/-- The power-fail warning: PFW_N low (`pin`), or VIO below 3.00 V for 1.0 µs (R367). -/
def execPowerFailWarning (pin : Bool) (s : State) : Out :=
  if !s.powered then .next s
  else
    let s := s.mapCb fun c => { c with pfwPin := c.pfwPin || pin, pfwCmp := c.pfwCmp || !pin,
                                       warnSrc := if c.warn then c.warnSrc else !pin, warn := true }
    .next (orderReset (s.irq 13) 2)

/-! ## Thermal ladder (R387, Table 16.7) -/

/-- Thresholds of steps 1 to 4, 0.01 °C. -/
def stepThr : List Int := [11500, 11800, 12200, 13000]

/-- The highest step whose threshold a temperature exceeds. -/
def stepOf (t : Int) : Nat := (stepThr.filter fun h => decide (h < t)).length

/-- Leave steps from the top whose 1,000 samples have passed. -/
def leaveSteps : Nat → List Nat → Nat
  | 0, _ => 0
  | k + 1, below => if 1000 ≤ below.getD k 0 then leaveSteps k below else k + 1

/-- The action on entry to step k. -/
def enterStep (t : Int) (s : State) (k : Nat) : State :=
  let s := s.mapSup fun u => { u with tstepE := true }
  if k = 4 then orderReset (raise s 0x09 0xFF (some t)) 3 else raise s 0x08 0xFF (some (k : Nat))

/-- Give the downstream ports their window back when step 3 ends. -/
def releasePorts (was : Nat) (s : State) : State :=
  if 3 ≤ was ∧ s.sup.tstep < 3 then forEach cdPorts refill s else s

/-- A sample of Tj, 0.01 °C. In the reset hold only the reading changes. -/
def execThermalSample (t : Int) (s : State) : Out :=
  if s.sup.st = .off ∨ s.sup.st = .backup then .next s
  else
    let s := s.mapSup fun u => { u with tj := satS 16 t, tjPeak := max u.tjPeak (satS 16 t) }
    if s.sup.commit = .held then .next s
    else
      let was := s.sup.tstep
      let below := List.zipWith (fun h n => if t < h - 500 then n + 1 else 0) stepThr s.sup.below
      let up := max was (stepOf t)
      let s := s.mapSup fun u => { u with below := below, tstep := leaveSteps up below }
      let s := forEach ((List.range (up - was)).map fun i => was + i + 1) (enterStep t) s
      .next (releasePorts was s)

/-! ## Watchdogs (R389, R390) -/

/-- The legal watchdog runs from the first tick of START. -/
def wdRuns (s : State) : Bool := serving s && s.sup.commit == .none

/-- A legal-watchdog expiry: at the third within 3,600 operating-seconds the next BOOT marks the running slot failed. -/
def legalExpiry (s : State) : State :=
  let l := (s.sup.wdlExp.filter fun t => decide (s.er.ops < t + 3600)) ++ [s.er.ops]
  let s := s.mapSup fun u => { u with lwdog := true, wdlExp := l, wdlTicks := 0, wdlMark := u.wdlMark || decide (3 ≤ l.length) }
  orderReset (raise s 0x06 0xFF (some ((min 3 l.length : Nat) : Int))) 4

/-- A whole PERIOD of ticks without a kick. -/
def execLegalWatchdogExpiry (s : State) : Out :=
  if wdRuns s && decide (s.sup.wdlPeriod ≤ s.sup.wdlTicks) then .next (legalExpiry s) else .next s

/-- A write of `WDLKICK`: by the legal core only. -/
def kickLegal (s : State) (req : Requester) (w : Word) : State :=
  if req = .legal then
    if w = 0xA5 then s.mapSup fun u => { u with wdlTicks := 0 } else if wdRuns s then legalExpiry s else s
  else noEff s req

def execWdlkick (req : Requester) (w : Word) (s : State) : Out := .next (if serving s then kickLegal s req w else s)

/-- A plan load of the application core is abandoned as a reset abandons it (R123). -/
def abandonPlan (s : State) : State :=
  if s.pl.owner ≠ some .app ∨ s.pl.locked then s
  else
    match s.pl.st with
    | .loading => (s.setBank (shadowBank s) {}).mapPl fun l => { l with st := .empty, owner := none }
    | .armed | .pending => (endActivation s 0x55).mapPl fun l => { l with owner := none }
    | _ => s.mapPl fun l => { l with owner := none }

/-- A firmware load of the application core is abandoned. -/
def abandonFw (s : State) : State :=
  if s.tr.fowner = some .app then s.mapTr fun t => { t with fst := .empty, fcode := 0, fowner := none, fptr := 0 } else s

/-- An expiry of the application watchdog resets the application core alone. -/
def appExpiry (s : State) : State :=
  let s := (abandonFw (abandonPlan s)).mapSer fun x => { x with assoc := [] }
  raise (s.mapSup fun u => { u with awdog := true, wdaTicks := 0 }) 0x07 0xFF none

def execAppWatchdogExpiry (s : State) : Out :=
  if wdRuns s && s.sup.apprun && decide (s.sup.wdaPeriod ≤ s.sup.wdaTicks) then .next (appExpiry s) else .next s

/-- A write of `WDAKICK`: by the application core only. -/
def kickApp (s : State) (req : Requester) (w : Word) : State :=
  if req = .app then
    if w = 0xA5 then s.mapSup fun u => { u with wdaTicks := 0 } else if wdRuns s && s.sup.apprun then appExpiry s else s
  else noEff s req

def execWdakick (req : Requester) (w : Word) (s : State) : Out := .next (if serving s then kickApp s req w else s)

end Sys2Proof.Machine
end

