-- ==== Sys2Proof/Machine/Power.lean ====
section
/-! DEFINITION. Power and start-up (16 R377 to R386, 14 R327 to R335): the commit and reset, the boot stages, the start-up sequence,
and the entries into RUN and RECOVERY. -/

namespace Sys2Proof.Machine

/-! ## The power-fail commit (R384) -/

/-- Step 1: boundaries at or before W, in the order of Table 9.6; none after a legal-watchdog expiry. -/
def commitBounds (s : State) : State :=
  if s.sup.cause = 4 then s
  else
    let s := if billing s then demandEnds s else s
    let s := ruleClose s
    if calendarRuns s then tariffEval s else s

/-- Steps 2 and 3: pulse outputs, display drive, sprint and voltage events stop; the working calibration set reverts (R381). -/
def commitStops (s : State) : State :=
  let s := s.mapMet fun m => { m with pulse := m.pulse.map fun e => (e.1, { e.2 with active := false }) }
  let s := cutDrive s
  let s := if s.pq.st == .waiting || s.pq.st == .capturing then endSprint s true else s
  let s := forEach buses evCloseAll s
  if s.sup.st = .calibrate then calRevert s else s

/-- The states whose commit writes the frame number only. -/
def frameOnly (s : State) : Bool := s.sup.st == .boot || s.sup.st == .start

/-- Step 4: the values of Table 8.2 in the order of the rule; the open intervals and the record-due marks are held in the state itself. -/
def powerFailList (s : State) : List Crit :=
  (s.ls.fault.map fun e => Crit.fault e.1) ++ (s.bl.tidx.map fun e => Crit.tidx e.1) ++ criticals s ++ onChange s

/-- Step 5: the commit-done pair and its registers; the reset is then held (R386). -/
def commitDone (s : State) (dur : Nat) : State :=
  let w := s.sup.commitW
  let s := s.mapNv fun n => { n with done := { w := w, cause := s.sup.cause, dur := dur, valid := true, factory := false } }
  s.mapSup fun u => { u with pfdone := true, pwcDur := min 65535 dur, pwcFrame := w, st := .boot, commit := .held, sphase := 0,
                             boot := none, recmon := false }

/-- The commit engine, from W: it lasts `dur` µs to its last step. In BOOT and START it writes the frame number only. -/
def execPowerFailCommit (dur : Nat) (s : State) : Out :=
  if s.sup.commit = .due ∧ s.sup.commitW.toNat ≤ s.fnum then
    let s := if frameOnly s then commitFrame s s.sup.commitW
      else
        let s := commitFrame (cutAll (commitStops (finAll (commitBounds s)))) s.sup.commitW
        commitList (powerFailList s) s
    .next (commitDone s dur)
  else .next s

/-! ## Rails -/

/-- The main rails fall: the device enters BACKUP, the Slate runs on. A commit that has not ended is lost. -/
def execMainPowerLoss (s : State) : Out :=
  if s.sup.st = .off ∨ s.sup.st = .backup then .next s
  else
    .next (s.mapSup fun u => { u with st := .backup, main := false, commit := .none, boot := none, restored := true, sphase := 0,
                                      recmon := false })

/-- The Slate supply falls below 1.60 V: its state is lost (R372, 10 R243). -/
def execSlatePowerLoss (s : State) : Out :=
  if s.sup.st = .backup then
    let s := s.mapRtc fun r => { lastValid := r.lastValid, invTicks := r.invTicks, onCell := r.onCell }
    let s := s.mapTp fun t => { mtcfg := t.mtcfg, mtthr1 := t.mtthr1, mtthr2 := t.mtthr2 }
    .next ((dropSlateMarks s).mapSup fun u => { u with st := .off })
  else .next s

/-! ## BOOT (14 R327 to R335; 17 R395) -/

/-- The number a BOOT starts at over the committed one (02 R34). -/
def bootNumber (f : Nat) : Frame := BitVec.ofNat 48 ((f / 2 ^ 20 + 2) * 2 ^ 20)

/-- Restore the frame number and commit the one in use. -/
def bootFrame (s : State) : State :=
  let r := checkGroup s .frame
  let f := match r.2 with
    | .good l _ _ => bootNumber ((l.headD (Pair.zero 64)).v.toNat % 2 ^ 48)
    | _ => bootNumber 0
  commitFrame (r.1.mapTb fun t => { t with frame := f }) f

/-- The recorder after a BOOT: what MRAM keeps, with the token buckets full (12 R287). -/
def bootRecorder (r : Recorder) : Recorder :=
  { ops := r.ops, pwc := r.pwc + 1, snext := r.snext, pseq := r.pseq, wm := r.wm, plostN := r.plostN, wrap := r.wrap, agw := r.agw
    rl := r.rl.map fun e => (e.1, { e.2 with tokens := e.2.burst, next := e.2.period * 16 })
    area0 := r.area0, parts := r.parts, due := r.due.map fun e => { e with restored := true } }

/-- The display after a BOOT: MRAM keeps the segments, the journals and the profile (13 R317). -/
def bootDisplay (d : Display) : Display :=
  let profile := d.profNext.getD d.profile
  { seg := d.seg.map (fun e => (e.1, { e.2 with dci := if d.rebal then tget 0 e.1 d.rebSaved else e.2.dci, fault := false, miss := 0 }))
    rgn := d.rgn.map (fun e => (e.1, { e.2 with st := .idle, pend := none, steps := 0, clear := 0 }))
    pcrc := d.pcrc, profile, prof := !profile.isEmpty }

/-- The firmware store after a BOOT. -/
def bootTrust (t : Trust) : Trust :=
  { slots := t.slots, runL := t.runL, nextL := t.nextL, runA := t.runA, nextA := t.nextA, svnL := t.svnL, svnA := t.svnA,
    ckhL := t.ckhL, ckhA := t.ckhA, tag := t.tag, pubHash := t.pubHash, qcnt := t.qcnt, confOut := t.confOut
    tagd := if t.tagDue.isEmpty then t.tagd else Sha.digest (tagBytes t) }

/-- Decisions under way that a reset discards: the granting ones (17 R399). -/
def bootTamper (t : Tamper) : Tamper :=
  { t with dd := t.dd.filter fun d => d.dec.protecting, mt := [] }

/-- Every part at its Main-class reset value, with what MRAM and the Slate keep. Open intervals live in MRAM only when the commit
ended. -/
def bootParts (s : State) (ok : Bool) : State :=
  { s with
    sup := { st := .boot, order := s.sup.order, wdlExp := s.sup.wdlExp, wdlMark := s.sup.wdlMark }
    tb := { xsrc := s.tb.xsrc, missed := 4 }
    fe := {}, cv := {}, qu := {}
    pl := { rescale := s.pl.rescale, retire := s.pl.retire, rescaleIn := s.pl.rescaleIn }
    met := { calseq := s.met.calseq }
    pq := { live := s.pq.live.map fun e =>
              (e.1, { gbase := e.2.gbase, pbase := e.2.pbase, base := e.2.base }) }
    ls := { mrrep := s.ls.mrrep, mrlost := s.ls.mrlost, bankA := s.ls.bankA, bankB := s.ls.bankB, worn := s.ls.worn,
            stuckA := s.ls.stuckA, stuckB := s.ls.stuckB, uvFrame := s.ls.uvFrame }
    bl := { iv := if ok then s.bl.iv.map fun e => (e.1, { e.2 with last := [0, 0, 0, 0], lastTs := 0 }) else [] }
    tp := bootTamper s.tp, er := bootRecorder s.er, dp := bootDisplay s.dp, tr := bootTrust s.tr
    hp := {}, ser := { invE := s.ser.invE, invA := s.ser.invA }, cb := {} }

/-- The selector and the legal digest as the banks hold them, read before the selection of START repairs them; a selector committed before
the reset is in force, and its digest with it (05 R123). -/
def bootSelector (s : State) : State :=
  let put (s : State) (c : Crit) : State :=
    match selectGroup c.base (tget [] c.base s.ls.bankA) (tget [] c.base s.ls.bankB) with
    | .good l _ _ => putWork s c l
    | .blank => s
    | .lost => if c = .sel then s.mapNv fun n => { n with selValid := false } else s
  let s := put (put s .sel) .digest
  if s.nv.selPend then
    let s := s.mapNv fun n => { n with selPend := false, selRest := true }
    match (bankAt s s.nv.selBank).plan with
    | some p => setDigest s p.legalDigest
    | none => s
  else s

/-- The plan in force from a BOOT: the active plan, or the safe plan without one (05 R124). -/
def bootPlan (s : State) : State :=
  s.mapPl fun l => { l with act := (activePlan s).getD (safePlanOf s) }

/-- Every BOOT begins: from a power-on or from the reset hold. -/
def bootReset (s : State) : State :=
  let ok := s.nv.done.valid && decide (s.nv.frame.v.toNat ≤ s.nv.done.w.toNat)
  let s := if s.pl.st = .loading then s.setBank (shadowBank s) {} else s
  let s := subUnknown (bootFrame (bootParts s ok))
  let s := s.mapNv fun n => { n with done := { n.done with valid := ok } }
  let s := s.mapCb fun c => { c with aggFrame := s.fnum }
  raise (bootPlan (bootSelector s)) 0x00 0xFF (stateBin .boot)

/-- The main rails are good and the master clock has run for 1 ms; CLKSEL is latched (R372, 02 R26). -/
def execPowerOn (clksel : Bool) (s : State) : Out :=
  if s.sup.st = .off ∨ s.sup.st = .backup then .next (bootReset (s.mapTb fun t => { t with xsrc := clksel })) else .next s

/-- The conditions of R386 hold: the reset is released. -/
def execResetRelease (s : State) : Out :=
  if s.sup.commit = .held ∧ s.sup.main ∧ (s.sup.cause = 3 → s.sup.tj < 11000) then .next (bootReset s) else .next s

/-! ## Boot stages (14 Table 14.1) -/

/-- Stage 1: the identity key (14 R332). -/
def bootKey (s : State) (keyOk : Bool) (pub : List Byte) : State :=
  let entry (s : State) (k : Nat) (d : List Byte) : State := privDue s 0x09 (leBytes 1 k ++ leBytes 3 0 ++ d)
  let h := Sha.digest pub
  if !keyOk then
    let d := s.draw
    raise (entry d.2 2 (leBytes 32 d.1)) 0xE9 0xFF (some 1)
  else
    let s := s.mapTr fun t => { t with pub := pub }
    match s.tr.pubHash with
    | none => entry (s.mapTr fun t => { t with keyok := true, pubHash := some h }) 1 (digBytes h)
    | some g => if g = h then s.mapTr fun t => { t with keyok := true } else raise (entry s 3 (digBytes h)) 0xE9 0xFF (some 2)

/-- An image of a slot can be started: it verifies again under R333 and its SVN is not below the rollback counter. -/
def bootable (s : State) (app : Bool) (n : Nat) : Bool :=
  let x := slotAt s n
  let b := imgOf s n
  !x.failed && (if x.factory then decide (svnOf s app ≤ fwSvn b) else !b.isEmpty && fwCheck s b b.length app == 0)

/-- Mark a slot failed and record the fall back with its cause (R335 steps 2 and 3). -/
def failSlot (s : State) (n : Nat) (bin : Option Int) : State :=
  raise (s.setSlot n { slotAt s n with failed := true }) 0xEB 0xFF bin

/-- Marks that the last run left on the running slot: a missing CONFIRM, or the third watchdog expiry of the legal core. -/
def bootMark (s : State) (app : Bool) : State :=
  let n := fwSlotNo app (runningB s app)
  if s.tr.confOut.contains app then failSlot s n (some (if app then 4 else 2))
  else if !app && s.sup.wdlMark then failSlot s n none
  else s

/-- Try a slot of a core: a slot that does not start is marked failed, with 0xEB, unless it was failed already. -/
def tryBoot (s : State) (app b : Bool) : State × Bool :=
  let n := fwSlotNo app b
  if bootable s app n then (s, true)
  else if (slotAt s n).failed then (s, false)
  else (failSlot s n (some (if app then 3 else 1)), false)

/-- The slot a core runs from: the next boot slot, or the other. -/
def selectBoot (s : State) (app : Bool) : State × Bool :=
  let s := bootMark s app
  let b := if app then s.tr.nextA else s.tr.nextL
  let put (s : State) (b fell : Bool) : State := s.mapTr fun t =>
    if app then { t with runA := b, nextA := b, fallback := t.fallback || fell }
    else { t with runL := b, nextL := b, fallback := t.fallback || fell }
  match tryBoot s app b with
  | (s, true) => (put s b false, true)
  | (s, false) =>
    match tryBoot s app (!b) with
    | (s, true) => (put s (!b) true, true)
    | (s, false) => (s, false)

/-- SHA-256 of a calibration set's value words (06 R156). -/
def calDigest (c : CalSet) : BitVec 256 := Sha.digest ((calVals c).flatMap fun v => leBytes 4 v.toNat)

/-- The legal check value of a BOOT, with the recovery monitor where no legal image starts. -/
def bootCheck (s : State) (legalOk : Bool) : State :=
  if legalOk then legalCheck s
  else s.mapTr fun t => { t with lcv := Pair.of (checkValue Config.recoveryMonitor (legalStream s.plan)) }

/-- Stages 2 to 8: each digest is extended before its stage takes effect. -/
def bootMeasure (s : State) (legalOk appOk : Bool) : State :=
  let s :=
    if legalOk then
      let b := runningImg s false
      extendMeas (extendMeas s 0 1 (Sha.digest (fwLoader b))) 1 1 (Sha.digest (fwRegion b))
    else s
  let s := if appOk then extendMeas s 2 1 (Sha.digest (fwRegion (runningImg s true))) else s
  let s := extendPlan s 1 s.plan
  let s := extendMeas s 5 1 (calDigest s.nv.cal)
  extendMeas s 6 1 (Sha.digest (tagBytes s.tr))

/-- The boot ROM runs its stages. -/
def execBootStages (keyOk : Bool) (pub : List Byte) (s : State) : Out :=
  if s.sup.st = .boot ∧ s.sup.commit = .none ∧ s.sup.boot = none ∧ !s.sup.recmon then
    let s := bootKey s keyOk pub
    let l := selectBoot s false
    let a := selectBoot l.1 true
    let s := bootCheck (bootMeasure a.1 l.2 a.2) l.2
    let s := s.mapTr fun t => { t with confOut := [] }
    .next (s.mapSup fun u => { u with wdlMark := false, boot := some (l.2, a.2) })
  else .next s

/-- The timebase at the end of BOOT: FREE, or ACQUIRE as a follower when markers come on CU: one in the last 4 frames (02 R44,
log 119). -/
def startTimebase (s : State) : State :=
  if s.tb.markerSeen || decide (s.tb.missed < 4) then
    setRole (s.mapTb fun t => { t with st := .acquire, burst := 16, probeTicks := 16, acqFrames := 0, inRange := 0, missed := 0,
                                       markerSeen := false }) 2
  else s.mapTb fun t => { t with st := .free }

/-- The safe plan takes effect (05 R124): front ends, queues, comparators, gates and events follow it. -/
def safeInForce (s : State) : State :=
  let old := s.plan
  if old.safe then s
  else
    let new := safePlanOf s
    let s := converterHandOver old new (s.mapPl fun l => { l with act := new })
    let s := forEach points (gateChange old new) s
    forEach buses evCloseAll s

/-- The boot stages are complete: START, or the steps of R379 in BOOT when no legal image started. -/
def execBootComplete (s : State) : Out :=
  match s.sup.st, s.sup.boot with
  | .boot, some (legal, app) =>
    if s.sup.commit ≠ .none then .next s
    else
      let s := startTimebase s
      let s := s.mapSup fun u => { u with sphase := 1, startTicks := 0, bfr := s.tb.frame, legrun := legal, apprun := app, boot := none,
                                          recmon := !legal, wdlTicks := 0, wdaTicks := 0, startDone := false, recDue := none }
      let s := s.mapTr fun t => { t with confL := legal, confA := app, confTicks := 0 }
      .next (if legal then enterState s .start else safeInForce s)
  | _, _ => .next s

/-! ## The start-up sequence (R377, Table 16.6) -/

/-- Shadow content of the last run is verified again; a plan whose billing steps are due stays as its activation left it (05 R123). `PLWPTR`
being 0, the size check compares IMGLEN with the stored image's length (DESIGN CHOICE, log 135). -/
def shadowReverify (s : State) : State :=
  let b := shadowBank s
  let x := bankAt s b
  if x.img.isEmpty then s
  else
    let s := takeVerdict s (verifyImage x.img x.img.length (activePlan s))
    if s.nv.selRest then s.setBank b x else s

/-- The mark of an activation that a reset discarded is cleared, and reported with 0x55. -/
def discardReport (s : State) : State :=
  if s.nv.mark.isSome && !s.nv.selRest then
    ((setMark s none).mapPl fun l => { l with rsn := 0x55, sect := 0xF, actref := true }).irq 4
  else s

/-- The commit-done pair is read (R386): a completed commit, an interrupted one, or the pair of manufacture. -/
def commitReport (s : State) : State :=
  let d := s.nv.done
  if !d.valid then raise (s.mapSup fun u => { u with pfinc := true, suprst := 1 }) 0x04 0xFF none
  else if d.factory then s
  else
    let s := s.mapSup fun u => { u with suprst := d.cause, pwcDur := min 65535 d.dur, pwcFrame := d.w, pfdone := true,
                                        lwdog := u.lwdog || d.cause == 4, slcrst := u.slcrst || d.cause == 8 }
    raise s 0x03 0xFF (some (d.dur / 1000 : Nat))

/-- Parts reserved again for entries that are due and for a clock set under way (12 R292). -/
def reserveAgain (s : State) : State :=
  let n := ((s.er.due.filter (·.refusable)).map (·.parts)).sum
  s.mapEr fun r => { r with pres := n + (if s.rtc.halt then 1 else 0) + s.rtc.setDue.length }

/-- Seeds of the injection generators (07 R179). -/
def drawSeeds (s : State) : State :=
  let d := s.draw
  d.2.mapPq fun q => { q with seeds := channels.map fun c => (c, d.1 / 2 ^ (31 * c) % 2 ^ 31) }

/-- Step 1: committed values, shadow bank, commit-done pair; the counters that a restore advances. -/
def startStep1 (s : State) : State :=
  let s := restoreBanks s
  let s := s.mapMet fun m => { m with cal := s.nv.cal, calNext := none }
  let s := commitReport (discardReport (shadowReverify s))
  let s := drawSeeds (refreshPool (newChallenge (reserveAgain s)))
  let s := s.mapSer fun x => { x with invE := (x.invE / 256 * 256 + 256) % 2 ^ 32, invA := (x.invA / 256 * 256 + 256) % 2 ^ 32 }
  let s := s.mapSup fun u => { u with sphase := 2 }
  let s := if s.sup.recmon then s
    else if (activePlan s).isNone then s.mapSup fun u => { u with recDue := some 4 }
    else if s.sup.order then safeInForce s
    else s
  scaleEval s s.plan

/-- Step 2 at G+70, the start-up calibration having ended: the known-answer test and the slices; then the sinc^k filter of START. -/
def startStep2 (s : State) (failA failB : Bool) : State :=
  let s := katResult s failA failB
  let bad := if !s.ls.katok then some 2 else if 4 ≤ faultySlices s then some 3 else none
  match bad with
  | some r => if s.sup.recmon then startSinc s else s.mapSup fun u => { u with recDue := some r }
  | none => startSinc s
where
  startSinc (s : State) : State := filterChange (s.mapSup fun u => { u with sphase := 3 }) false s.plan.startSinc

/-- The end of step 3: RECOVERY by order or without legal firmware, else the FIR decimator. -/
def startStep3 (s : State) : State :=
  if s.sup.recmon then s.mapSup fun u => { u with recDue := some 1 }
  else if s.sup.order then s.mapSup fun u => { u with recDue := some 5 }
  else filterChange (s.mapSup fun u => { u with sphase := 4 }) true {}

/-- The step of START that is due. -/
def execStartSequence (katA katB : Bool) (s : State) : Out :=
  if !s.starting || s.sup.commit != .none || s.sup.recDue.isSome || s.sup.startDone then .next s
  else
    match s.sup.sphase with
    | 0 | 1 => .next (startStep1 s)
    | 2 => if 70 ≤ s.sup.startTicks ∧ s.cv.calDone then .next (startStep2 s katA katB) else .next s
    | 3 => if s.cv.setl = 0 then .next (startStep3 s) else .next s
    | 4 => if s.cv.setl = 0 then .next (s.mapSup fun u => { u with startDone := true, sphase := 5 }) else .next s
    | _ => .next s

/-! ## RUN and RECOVERY (R377 to R379) -/

/-- Payload of the clock-set record (12 Table 12.6, type 0x03). -/
def clockSetBytes (d : Nat × Nat × Nat × Requester × Bool × Bool) : List Byte :=
  leBytes 8 d.1 ++ leBytes 2 d.2.1 ++ leBytes 2 0 ++ leBytes 8 d.2.2.1 ++ leBytes 1 (reqNum d.2.2.2.1) ++
  leBytes 1 (flagAt d.2.2.2.2.1 0 + flagAt d.2.2.2.2.2 1)

/-- |t1 − t0| of a clock set in whole seconds, the quantity of 0xC0 (10 Table 10.4). -/
def setSpan (d : Nat × Nat × Nat × Requester × Bool × Bool) : Option Int :=
  some (((d.2.2.1 * 32768 : Nat) - (d.1 * 32768 + d.2.1 : Nat) : Int).natAbs / 32768 : Nat)

/-- Clock sets that a loss of main power overtook, or that fell in START: their entries are written with RESTORED (12 R291). -/
def restoreClockSet (s : State) : State :=
  forEach s.rtc.setDue (fun s d =>
    let s := s.mapEr fun r =>
      { r with due := r.due ++ [{ ptype := 3, parts := 1, refusable := true, payload := clockSetBytes d, restored := true }] }
    raise s 0xC0 0xFF (setSpan d)) s

/-- Step 1 of Table 9.6 at the entry tick: events of the Slate acts, the latches in time order, a seal request held on the cell. -/
def restoreLatches (s : State) : State :=
  let s := forEach s.rtc.evDue (fun s e => raise s e.1 e.2.1 e.2.2) s
  let s := processLatches (s.mapRtc fun r => { r with evDue := [] })
  let s := restoreClockSet s
  (s.mapSup fun u => { u with restored := false }).mapTp fun t => { t with pendcell := false }

/-- START has ended: its length, and no phase. -/
def leaveStart (s : State) : State :=
  s.mapSup fun u => { u with stime := min 65535 u.startTicks, sphase := 0, startDone := false, recDue := none }

/-- While the Slate orders the fallback, all points are in it, those whose index RECOVERY has overwritten too; without the order, those that
the index shows in it are released (09 R221). A fallback of the latches just processed applies at the next tick. -/
def restoreFallback (s : State) : State :=
  let ps := (livePts s).filter fun p => srcOf s p == 2
  if s.tp.fallbk && s.bl.fbDue.isEmpty then
    (forEach ((livePts s).filter fun p => srcOf s p != 2) (fun s p => setIndex s p (defTariff s p) 2) s).mapBl fun b =>
      { b with fallbk := livePts s }
  else
    let s := s.mapBl fun b => { b with fallbk := ps }
    if s.tp.fallbk then s else releaseFallback s ps

/-- The first tick of RUN (Table 9.6, 05 R123, 09 R233). -/
def execRunEntry (s : State) : Out :=
  if s.sup.st = .start ∧ s.sup.startDone ∧ s.sup.recDue = none ∧ s.sup.commit = .none then
    let s := restoreLatches (leaveStart (enterState s .run))
    let s := restoreFallback (restoreActivation s)
    let s := if s.rtc.setDue.isEmpty then restoreBilling s else pqClockSet (restoreBilling s)
    let s := if s.rtc.valid then pqIntervals s s.rtc.sec else s
    .next (bandStart (s.mapPq fun q => { q with bandTicks := 0 }))
  else .next s

/-- The tariff of every point is T1 with SRC = 3, and its recovery-energy pairs restart from zero (R379). -/
def recoveryTariff (s : State) : State :=
  (forEach points (fun s p => s.putTidx p (Pair.of 0x31#32)) (clearRecovery s)).mapBl fun b =>
    { b with fallbk := [], deflt := [], waiting := [], fbDue := [], relDue := [], defDue := false }

/-- The safe plan at the entry tick: measured, checked, metering under sinc^3. -/
def recoveryPlan (s : State) : State :=
  let s := if s.plan.safe then s else let s := safeInForce s; scaleEval s s.plan
  let s := s.mapPl fun l => { l with ldg := s.plan.legalDigest, ldgN := ~~~s.plan.legalDigest }
  let s := legalCheck (extendPlan s 3 s.plan)
  if s.cv.filt && s.cv.sinc == { ({} : SincSet) with l := sincL {} } then s else filterChange s false {}

/-- The entry tick of RECOVERY. -/
def execRecoveryEntry (s : State) : Out :=
  match s.sup.recDue with
  | none => .next s
  | some r =>
    if s.sup.commit ≠ .none then .next s
    else
      let s := enterState (leaveStart s) .recovery
      let s := raise (s.mapSup fun u => { u with rreason := r }) 0x05 0xFF (some (r : Nat))
      let s := (restoreLatches s).mapRtc fun r => { r with setDue := [] }
      let s := if s.nv.selRest then (restoreActivation (s.mapSup fun u => { u with st := .run })).mapSup fun u => { u with st := .recovery }
        else s
      let s := finAll (forEach points (closeNow 0 2) s)
      .next (recoveryPlan (recoveryTariff s))

end Sys2Proof.Machine
end

