-- ==== Sys2Proof/Machine/Requests.lean ====
section
/-! DEFINITION. Requests to the legal core (01 R17, R18; 17 R399) and the double decisions that answer them (11 R268 to R276): forwarded
RWL writes, calibration, reinstatement, sticky flags, the seal, and the clock-set record. -/

namespace Sys2Proof.Machine

/-! ## The RWL registers -/

/-- A register with RWL access. `cal` is a word of a calibration pair, by its address. -/
inductive RwlReg where
  | rein | tpclr | tpcfg (n : Nat) | tpwin (n : Nat) | mtcfg | mtthr1 | mtthr2
  | ercfg | eragw (v : Nat) | errl (code : Nat) | dpctl | ckh (app : Bool) (i : Nat) | mdctl | calctl | cal (a : Nat)
deriving DecidableEq, Repr

/-- A calibration pair word: `CALREF` or a coefficient of a channel (06 Table 6.13). -/
def calAddr (o : Nat) : Bool :=
  (decide (0x10 ≤ o) && decide (o < 0x30)) || (decide (0x100 ≤ o) && decide (o < 0x100 + 0x40 * 168) && decide (o % 0x40 < 0x28))

/-- The RWL register at an address (Tables 6.13, 8.7, 11.6, 12.7, 13.10, 14.8, 16.9). -/
def rwlReg (a : Nat) : Option RwlReg :=
  let o := a % 0x10000
  match a / 0x10000 with
  | 0x0B => if o = 0x24 then some .rein else none
  | 0x21 =>
    if o = 0x20 then some .tpclr
    else if o = 0x300 then some .mtcfg
    else if o = 0x304 then some .mtthr1
    else if o = 0x308 then some .mtthr2
    else if 0x100 ≤ o ∧ o < 0x200 then
      if o % 0x10 = 0 then some (.tpcfg (o / 0x10 - 0x10)) else if o % 0x10 = 4 then some (.tpwin (o / 0x10 - 0x10)) else none
    else none
  | 0x22 =>
    if o = 0x40 then some .ercfg
    else if 0x44 ≤ o ∧ o < 0x54 then some (.eragw ((o - 0x44) / 4))
    else if 0x400 ≤ o ∧ o < 0x800 ∧ (severity ((o - 0x400) / 4)).isSome then some (.errl ((o - 0x400) / 4))
    else none
  | 0x23 => if o = 0 then some .dpctl else none
  | 0x24 =>
    if 0x40 ≤ o ∧ o < 0x60 then some (.ckh false ((o - 0x40) / 4))
    else if 0x60 ≤ o ∧ o < 0x80 then some (.ckh true ((o - 0x60) / 4))
    else none
  | 0x26 => if o = 4 then some .mdctl else none
  | 0x30 => if o = 0 then some .calctl else if calAddr o then some (.cal a) else none
  | _ => none

/-! ## Acceptance of each word -/

/-- Words of a request must be able to reserve their privileged parts (12 R292): each of the 0x0C configuration entries one. -/
def rwlParts (w : Word) : RwlReg → Nat
  | .mtcfg | .mtthr1 | .mtthr2 | .ercfg | .eragw _ | .errl _ => 1
  | .rein => 3
  | .tpclr => if wbit w 31 then 1 else 0
  | .calctl => if wbit w 0 then 2 else 0
  | _ => 0

/-- GO and CLRUV of `LSREIN`. -/
def reinGo (w : Word) : Bool := wbit w 8
def reinClr (w : Word) : Bool := wbit w 9
def reinPoint (w : Word) : Nat := wbits w 6 0

/-- Steps 1 and 2 of R197, but for the seal and the reservation: form, fault state, lock. -/
def reinOk (s : State) (w : Word) : Bool :=
  (reinGo w || reinClr w) && !wbit w 7 && wbits w 31 10 == 0 && faulted s (reinPoint w) == reinGo w && !s.tp.locked

/-- The flags of a `TPCLR` mask. -/
def clrMask (w : Word) : List Nat := sources.filter fun n => wbit w n

/-- Every masked source has no open window and, for pins, no active static level (11 R276). -/
def clrQuiet (s : State) (mask : List Nat) : Bool :=
  mask.all fun n => (!(srcAt s n).isOpen || windowOver s n) && (decide (8 ≤ n) || !(srcAt s n).active)

/-- A calibration word is part of a whole pair, value and complement, in the same transaction (06 R155). -/
def calWhole (ws : List (Nat × Word)) (a : Nat) : Bool :=
  let b := a - a % 8
  match ws.find? fun e => e.1 == b, ws.find? fun e => e.1 == b + 4 with
  | some v, some n => n.2 == ~~~v.2
  | _, _ => false

/-- Calibration writes and commits are accepted in CALIBRATE, while not locked (06 R155, 11 R272). -/
def calOpen (s : State) : Bool := s.sup.st == .calibrate && !s.tp.locked

/-- A `CALDLY` value lies within ±262,143 (06 R129). -/
def dlyOk (a : Nat) (w : Word) : Bool :=
  let o := a % 0x10000
  o < 0x100 || o % 0x40 != 8 || decide (w.toInt.natAbs ≤ 262143)

/-- The legal core accepts a word of a request, the seal being open. -/
def rwlWordOk (s : State) (ws : List (Nat × Word)) (a : Nat) (w : Word) : Bool :=
  match rwlReg a with
  | none => true
  | some r =>
    (!monitorRuns s || r == .tpclr) &&
    match r with
    | .rein => reinOk s w
    | .tpclr => !wbit w 31 || clrQuiet s (clrMask w)
    | .tpcfg _ => wbits w 15 8 != 0
    | .tpwin _ => decide (1 ≤ wbits w 26 0) && decide (wbits w 26 0 ≤ 86400000)
    | .mtcfg => wbits w 31 24 != 0
    | .eragw _ => decide (1 ≤ wbits w 16 0) && decide (wbits w 16 0 ≤ 86400)
    | .errl _ => wbits w 7 0 != 0 && wbits w 23 8 != 0
    | .mdctl => (mdReason s w).isNone
    | .calctl => calOpen s
    | .cal a => calOpen s && calWhole ws a && dlyOk a w
    | _ => true

/-- Parts that a request must be able to reserve. -/
def rwlNeed (ws : List (Nat × Word)) : Nat := (ws.map fun e => ((rwlReg e.1).map (rwlParts e.2)).getD 0).sum

/-- The privileged area takes the parts of a request. -/
def rwlRoom (s : State) (n : Nat) : Bool := n == 0 || (!privFull s.er && decide ((n : Int) ≤ freeParts s.er))

/-- Parts that the requests accepted in this tick are about to reserve. -/
def accNeed (s : State) : Nat := (s.hp.rwlAcc.map fun r => rwlNeed r.words).sum

/-- A request is accepted as a whole (17 R399): the seal is open and did not close in the tick of the answer (16 R373). -/
def rwlOk (s : State) (ws : List (Nat × Word)) : Bool :=
  s.sealOpen && !s.sup.sealNow && ws.all (fun e => rwlWordOk s ws e.1 e.2) && rwlRoom s (rwlNeed ws + accNeed s)

/-! ## What an accepted word does -/

/-- The 0x0C entry of an accepted configuration change: address, old and new value (11 R279, 12 Table 12.6). -/
def cfgEntry (s : State) (a : Nat) (old new : Word) : State :=
  privDue (reserve s 1) 0x0C (leBytes 4 a ++ leBytes 4 old.toNat ++ leBytes 4 new.toNat)

/-- Change a coefficient pair of a channel. -/
def modCoef (c : Cal) (k : Nat) (f : Pair 32 → Pair 32) : Cal :=
  match k with
  | 0 => { c with gain := f c.gain } | 1 => { c with dly := f c.dly } | 2 => { c with fsq := f c.fsq }
  | 3 => { c with pofs := f c.pofs } | _ => { c with qofs := f c.qofs }

/-- An accepted word, value or complement, enters the working set from the next tick (06 R155, R156): each as it was written. -/
def calPut (s : State) (a : Nat) (w : Word) : State :=
  let o := a % 0x10000
  let c := workingCal s
  let f (p : Pair 32) : Pair 32 := if o % 8 = 0 then { p with v := w } else { p with n := w }
  let c :=
    if o < 0x100 then { c with ref := tmod (Pair.of 0x40000000#32) ((o - 0x10) / 8) f c.ref }
    else { c with ch := tmod {} ((o - 0x100) / 0x40) (fun x => modCoef x (o % 0x40 / 8) f) c.ch }
  s.mapMet fun m => { m with calNext := some c }

/-- `CALCTL`: COMMIT goes to its double decision, DISCARD restores the committed set at the next tick (06 R156). -/
def calCtl (s : State) (w : Word) : State :=
  let s := s.mapMet fun m => { m with calctl := w &&& 3 }
  let s := if wbit w 0 then pendDec (reserve s 2) .calCommit true else s
  if wbit w 1 then s.mapMet fun m => { m with calNext := some s.nv.cal } else s

/-- `LSREIN`: with GO the known-answer test comes first, with CLRUV alone the decision (08 R197, R198). -/
def reinApply (s : State) (w : Word) : State :=
  let s := reserve s 3
  if reinGo w then s.mapLs fun l => { l with katReq := some w, katChunks := 0 } else pendDec s (.reinstate w) true

/-- `TPCLR`: with GO the decision (11 R276); the register takes its value when the request is granted (01 R18). -/
def clrApply (s : State) (w : Word) : State :=
  if wbit w 31 then pendDec (reserve s 1) (.stickyClear (wbits w 15 0)) true
  else s.mapTp fun t => { t with clr := w &&& 0xFFFF }

/-- `ERRL` of a code: the bucket keeps its tokens, at most BURST (12 R287). -/
def erlApply (s : State) (code : Nat) (w : Word) : State :=
  let b := bucketAt s code
  s.setBucket code { b with burst := wbits w 7 0, period := wbits w 23 8, tokens := min b.tokens (wbits w 7 0) }

/-- An accepted word takes its value. -/
def rwlApply (s : State) (a : Nat) (w : Word) : State :=
  let old := readRaw s .legal a
  match rwlReg a with
  | none => s
  | some .rein => reinApply s w
  | some .tpclr => clrApply s w
  | some (.tpcfg n) => releaseChecks (s.setSrc n { srcAt s n with cfg := w &&& 0x001FFF37 })
  | some (.tpwin n) => s.setSrc n { srcAt s n with win := wbits w 26 0 }
  | some .mtcfg => cfgEntry (s.mapTp fun t => { t with mtcfg := w &&& 0xFF77770F }) a old (w &&& 0xFF77770F)
  | some .mtthr1 => cfgEntry (s.mapTp fun t => { t with mtthr1 := w }) a old w
  | some .mtthr2 => cfgEntry (s.mapTp fun t => { t with mtthr2 := w }) a old w
  | some .ercfg => cfgEntry (s.mapEr fun r => { r with wrap := w.setWidth 4 }) a old (w &&& 0xF)
  | some (.eragw v) =>
    cfgEntry (s.mapEr fun r => { r with agw := r.agw.mapIdx fun i x => if i = v then wbits w 16 0 else x }) a old (w &&& 0x1FFFF)
  | some (.errl c) => cfgEntry (erlApply s c w) a (old &&& 0xFFFFFF) (w &&& 0xFFFFFF)
  | some .dpctl => s.mapDp fun d => { d with en := wbit w 0 }
  | some (.ckh app i) => s.mapTr fun t => if app then { t with ckhA := tset i w t.ckhA } else { t with ckhL := tset i w t.ckhL }
  | some .mdctl => mdApply s (w &&& 0x13)
  | some .calctl => calCtl s w
  | some (.cal a) => calPut s a w

/-- A refused sticky clear (11 R276): 0xD7, and `TPCLRR` with the flags as they are (log 43). -/
def clrRefused (s : State) (bin : Option Int) : State :=
  raise (s.mapTp fun t => { t with clrFlags := stickyMask s, clrRes := 2 }) 0xD7 0xFF bin

/-- The refusal indication of a word's block (17 R399): `LSSTS.REINREF`, 0xD7 with `TPCLRR`, `CALSTS.REFUSED`, or the refusal of a
mode request. -/
def rwlRefuse (s : State) (a : Nat) (w : Word) : State :=
  match rwlReg a with
  | some .rein => reinRefuse s
  | some .tpclr =>
    if wbit w 31 then
      let bin : Option Int := if !s.sealOpen then some 1 else if !clrQuiet s (clrMask w) then some 2 else none
      clrRefused s bin
    else s
  | some .calctl | some (.cal _) => s.mapMet fun m => { m with calRef := true }
  | some .mdctl =>
    match mdReason s w with
    | some r => mdRefuse s r
    | none => s
  | _ => s

/-! ## Posting and answering (01 R17, R18; 17 R399) -/

/-- A request is refused as a whole. -/
def refuseRwl (s : State) (r : RwlReq) : State :=
  (forEach r.words (fun s e => rwlRefuse s e.1 e.2) s).mapHp fun h => { h with rwlref := true }

/-- The legal core's answer to the RWL words of one transaction. An accepted request takes its values at the next tick, since a seal
that closes in the tick of the answer still refuses it (01 R18, 16 R373; log 76). -/
def answerRwl (s : State) (r : RwlReq) : State :=
  if rwlOk s r.words then s.mapHp fun h => { h with rwlAcc := h.rwlAcc ++ [r] } else refuseRwl s r

/-- The requests accepted in the tick that ends take their values. -/
def applyRwl (s : State) : State :=
  let l := s.hp.rwlAcc
  forEach l (fun s r => forEach r.words (fun s e => rwlApply s e.1 e.2) s) (s.mapHp fun h => { h with rwlAcc := [] })

/-- The seal has closed in the tick of their answer: the accepted requests are refused. -/
def dropRwl (s : State) : State :=
  let l := s.hp.rwlAcc
  forEach l refuseRwl (s.mapHp fun h => { h with rwlAcc := [] })

/-- The RWL words of one WRITE: refused with the seal closed, otherwise forwarded; the legal core's own apply at once. -/
def postRwl (s : State) (req : Requester) (ws : List (Nat × Word)) : State :=
  if ws.isEmpty then s
  else if !s.sealOpen then noEff (s.mapHp fun h => { h with rwlcls := true, rwlr := satAdd h.rwlr 1 }) req
  else if req = .legal then answerRwl s { req := req, words := ws }
  else s.mapHp fun h => { h with rwl := h.rwl ++ [{ req := req, words := ws }] }

/-- A direct command of one of these registers: its words are one WRITE. -/
def postOne (s : State) (req : Requester) (ws : List (Nat × Word)) : Out := .next (if serving s then postRwl s req ws else s)

/-- A reinstatement runs, or is about to. -/
def katBusy (s : State) : Bool :=
  s.ls.katReq.isSome || s.hp.rwlAcc.any fun r => r.words.any fun e => rwlReg e.1 == some .rein

/-- The legal core, or the recovery monitor, answers the oldest forwarded request; one that needs the known-answer test waits while
another runs. -/
def execRwlRequestAnswer (s : State) : Out :=
  match s.hp.rwl with
  | [] => .next s
  | r :: rest =>
    if !serving s || (katBusy s && r.words.any fun e => rwlReg e.1 == some .rein) then .next s
    else .next (answerRwl (s.mapHp fun h => { h with rwl := rest }) r)

def execReinstate (req : Requester) (w : Word) (s : State) : Out := postOne s req [(0xB0024, w ||| 0x100)]

def execClruv (req : Requester) (w : Word) (s : State) : Out := postOne s req [(0xB0024, (w &&& ~~~0x100#32) ||| 0x200)]

def execTpclr (req : Requester) (w : Word) (s : State) : Out := postOne s req [(0x210020, w)]

def execMdctlReqRun (req : Requester) (s : State) : Out := postOne s req [(0x260004, 1)]

def execMdctlReqCalibrate (req : Requester) (s : State) : Out := postOne s req [(0x260004, 2)]

def execMdctlReqTest (req : Requester) (s : State) : Out := postOne s req [(0x260004, 3)]

def execRecov (req : Requester) (s : State) : Out := postOne s req [(0x260004, 0x10)]

/-- A write of a calibration pair: the word at its address and the next. -/
def execCalibrationWrite (req : Requester) (addr : Nat) (v n : Word) (s : State) : Out :=
  let a := 0x300000 + addr % 0x10000
  postOne s req ([(a, v), (a + 4, n)].filter fun e => (rwlReg e.1).isSome)

def execCalctlCommit (req : Requester) (s : State) : Out := postOne s req [(0x300000, 1)]

def execCalctlDiscard (req : Requester) (s : State) : Out := postOne s req [(0x300000, 2)]

/-! ## The effects of granted decisions -/

/-- The seal opens (Table 11.1): its record and 0xD0, whose value is the time since the last close where there was one. -/
def sealOpens (s : State) : State :=
  let s := s.mapTp fun t => { t with sealSt := 2, sealst := sealOpenPair, sealcnt := satAdd t.sealcnt 1, openAt := s.rtc.edges }
  let s := privDue s 0x01 (leBytes 4 s.tp.ddsts.toNat ++ leBytes 4 s.tp.sealcnt)
  raise s 0xD0 0xFF (s.tp.closeAt.map fun t => ((s.rtc.edges - t : Nat) : Int))

/-- An opening is denied: 1 disagreement, 2 privileged area full. -/
def sealDenied (s : State) (bin : Nat) : State :=
  raise (s.mapTp fun t => { t with sealSt := 0, rearm := false, deny := true }) 0xD2 0xFF (some (bin : Nat))

/-- The working set is committed (06 R156): MRAM, `CALSEQ`, the record, MEAS5 and the live baselines (07 R182). -/
def calCommit (s : State) : State :=
  let c := workingCal s
  let n := calDiff c s.nv.cal
  let s := commitGroup (s.mapNv fun v => { v with cal := c }) .cal ((calPairs c).map Pair.ext)
  let s := s.mapMet fun m => { m with calseq := Pair.of (m.calseq.v + 1) }
  let s := privDue s 0x06 (leBytes 4 s.met.calseq.v.toNat ++ leBytes 4 n ++ digBytes (calDigest c))
  forEach channels clearBase (extendMeas s 5 4 (calDigest c))

/-- The masked flags clear together (11 R276); the lock and the fallback they held are released. -/
def stickyCleared (s : State) (mask : Nat) : State :=
  let ns := sources.filter fun n => bitN mask n
  let count := (ns.filter fun n => (srcAt s n).sticky).length
  let s := forEach ns (fun s n => s.setSrc n { srcAt s n with sticky := false }) s
  let left := stickyMask s
  let s := s.mapTp fun t => { t with clr := word (2 ^ 31 + mask), clrFlags := left, clrRes := 1 }
  let s := privDue s 0x07 (leBytes 2 mask ++ leBytes 2 left)
  releaseChecks (raise s 0xD6 0xFF (some (count : Nat)))

/-- The 12 unverified values of a point. -/
def uveBytes (s : State) (p : Nat) : List Byte :=
  (List.range 12).flatMap fun q => leBytes 8 (tget (Pair.zero 64) (16 * p + q + 1) s.ls.uve).v.toNat

/-- Payload of types 0x0A and 0x0B. -/
def reinBytes (s : State) (w : Word) : List Byte :=
  let p := reinPoint w
  leBytes 1 (p + flagAt (reinClr w) 7) ++ leBytes 1 (tget (Pair.zero 32) p s.ls.fault).v.toNat ++ leBytes 2 0 ++
  leBytes 8 (tget 0 p s.ls.uvFrame).toNat ++ uveBytes s p

/-- At the tick after its grant, between two lane frames: a point is reinstated, or its unverified registers are cleared (08 R197, R198; 09
R234). -/
def reinstated (s : State) (w : Word) : State :=
  let p := reinPoint w
  let s := s.mapLs fun l => { l with rein := w }
  let s := privDue s (if reinGo w then 0x0A else 0x0B) (reinBytes s w)
  let s := if reinClr w then clearUv s p else s
  if reinGo w then
    let t := tget 0 p s.ls.faultTicks
    let s := s.mapLs fun l => { l with fault := tset p (Pair.zero 32) l.fault, faultTicks := tset p 0 l.faultTicks }
    let s := if billing s && (pointDef s.plan p).type != 0 then openIv s p true false else s
    raise s 0x79 p (some (t / 16000 : Nat))
  else s

/-- The granted reinstatements and clears of the tick (01 R21). -/
def reinTick (s : State) : State := forEach s.ls.reinDue reinstated (s.mapLs fun l => { l with reinDue := [] })

/-! ## The second evaluator (11 R268 to R270) -/

/-- Unit B, or the checker, sees a source that declares with a response bit. -/
def declaredB (s : State) (b : Nat) : Bool := sources.any fun n => (srcAt s n).declB && wbit (srcAt s n).cfg b

/-- What the second evaluator reads for a decision. -/
def secondReads (s : State) : Decision → Bool
  | .sealOpen => s.tp.sealSt == 1 && s.tp.pin
  | .firmware => s.tr.fst == .valid && s.sealOpen && !s.tp.locked
  | .plan _ _ => s.sealOpen && !s.tp.locked
  | .calCommit => s.sup.st == .calibrate && s.sealOpen && !s.tp.locked
  | .stickyClear m => s.sealOpen && clrQuiet s (sources.filter fun n => bitN m n)
  | .reinstate w => s.sealOpen && !s.tp.locked && (!reinGo w || s.ls.katok)
  | .erase => declaredB s 16
  | .lock => declaredB s 17
  | .fallback => declaredB s 18 || !s.rtc.valid || points.any (mtHolds s)

/-- Parts that a granting decision holds reserved. -/
def Decision.parts : Decision → Nat
  | .sealOpen | .stickyClear _ => 1
  | .firmware | .calCommit => 2
  | .reinstate _ => 3
  | _ => 0

/-- The request is still there for its decision. -/
def stillAsked (s : State) : Decision → Bool
  | .sealOpen => s.tp.sealSt == 1
  | .firmware => s.tr.fst == .valid && !s.tr.fcore
  | .plan _ req =>
    (s.pl.st == .ready || (s.pl.st == .pending && !s.pl.locked)) && s.pl.legalchg &&
      (if req = .chain then s.pl.armHdr.isSome || s.pl.st == .ready else s.pl.owner == some req)
  | _ => true

/-- A granted decision takes effect. -/
def granted (s : State) : Decision → State
  | .sealOpen => sealOpens s
  | .firmware => fwAccept s
  | .plan n req =>
    if req = .chain then
      let h := s.pl.armHdr
      loaderAnswer ((setArmed s n).mapPl fun l => { l with armHdr := none }) h 3 (n.toNat % 2 ^ 32) none
    else setPending s n
  | .calCommit => calCommit s
  | .stickyClear m => stickyCleared s m
  | .reinstate w => s.mapLs fun l => { l with reinDue := l.reinDue ++ [w] }
  | _ => s

/-- The refusal that the owning chapter gives a decision that is not granted. -/
def refused (s : State) : Decision → State
  | .sealOpen => sealDenied s 1
  | .firmware => fwReject s 0x13
  | .plan n req =>
    let h := s.pl.armHdr
    let held := s.pl.st != .pending
    let s := actRefuse s 0x52
    let s := if held then releaseResv s else s
    if req = .chain then loaderAnswer (s.mapPl fun l => { l with armHdr := none }) h 3 (n.toNat % 2 ^ 32) (some 0x52) else s
  | .calCommit => s.mapMet fun m => { m with calRef := true }
  | .stickyClear _ => clrRefused s (some 3)
  | .reinstate _ => reinRefuse s
  | _ => s

/-- The outcome of a decision: `DDSTS`, a disagreement with 0xDD, and the effect or the refusal. A protecting action has started
with the first evaluator and stands. -/
def decide2 (s : State) (d : PendDec) (second : Bool) : State :=
  let r := poolNext s
  let s := r.2.mapTp fun t => { t with ddsts := ddWord d.dec d.first second r.1 }
  let s := if d.first != second then
      slateEvent (s.mapTp fun t => { t with dddis := true }) 0xDD 0xFF (some (if d.dec.protecting then 2 else 1))
    else s
  if d.dec.protecting then s
  else if d.first && second then granted s d.dec
  else refused (release s d.dec.parts) d.dec

/-- The second evaluator finishes the oldest decision; `upset` says that its reading was disturbed. A granting decision needs the
Carmine domain; a request that was withdrawn meanwhile is dropped. -/
def execSecondEvaluator (upset : Bool) (s : State) : Out :=
  match s.tp.dd with
  | [] => .next s
  | d :: rest =>
    if !d.dec.protecting && !serving s then .next s
    else
      let s := s.mapTp fun t => { t with dd := rest }
      if !d.dec.protecting && !stillAsked s d.dec then .next (release s d.dec.parts)
      else .next (decide2 s d (secondReads s d.dec != upset))

/-! ## The seal (11 R260 to R262, Table 11.1) -/

/-- The seal closes: a protecting decision of the Slate alone, with its record and 0xD1; the requests accepted in this tick are
refused. -/
def sealCloses (s : State) : State :=
  let dur := s.rtc.edges - s.tp.openAt
  let s := s.mapTp fun t => { t with sealSt := 0, sealst := sealClosedPair, closeAt := some s.rtc.edges }
  let s := privDue s 0x02 (leBytes 4 dur ++ leBytes 1 (flagAt s.rtc.onCell 0)) s.rtc.onCell
  let s := slateEvent s 0xD1 0xFF (some (dur : Nat))
  dropRwl (dropModeReq (s.mapSup fun u => { u with sealNow := true }))

/-- A level has held for 3,277 Slate cycles: the transition of Table 11.1. -/
def execSealDebounceComplete (s : State) : Out :=
  match s.tp.deb with
  | none => .next s
  | some low =>
    let s := s.mapTp fun t => { t with deb := none, pin := low }
    .next (
      if low then
        if s.tp.sealSt = 0 ∧ s.tp.rearm then s.mapTp fun t => { t with sealSt := 1, pendcell := s.rtc.onCell } else s
      else
        match s.tp.sealSt with
        | 1 => s.mapTp fun t => { t with sealSt := 0, pendcell := false }
        | 2 => sealCloses s
        | _ => s.mapTp fun t => { t with rearm := true })

/-- The legal core, or the recovery monitor, takes the first evaluation of an opening. -/
def execSealOpenDecision (s : State) : Out :=
  if s.tp.sealSt = 1 ∧ !s.tp.pendcell ∧ serving s ∧ !s.tp.dd.any fun d => d.dec == .sealOpen then
    if privFull s.er then .next (sealDenied s 2) else .next (pendDec (reserve s 1) .sealOpen true)
  else .next s

/-! ## The clock-set record (10 R246) -/

/-- The first tick after an accepted set. -/
def execClockSetRecord (s : State) : Out :=
  match s.rtc.setDue with
  | [] => .next s
  | d :: l =>
    if !serving s || s.sup.restored then .next s
    else
      let s := privDue (s.mapRtc fun r => { r with setDue := l }) 0x03 (clockSetBytes d)
      let s := raise s 0xC0 0xFF (setSpan d)
      .next (pqClockSet (clockSetBilling s d.1 d.2.2.1 d.2.2.2.2.2))

end Sys2Proof.Machine
end

