-- ==== Sys2Proof/Machine/RegWrite.lean ====
section
/-! DEFINITION. Register writes (17 R393 to R401; 15 R346, R347, R349): the access of every address, what a written word does, the
words of one WRITE, and the legal request queue's answers (01 R17). -/

namespace Sys2Proof.Machine

/-! ## Access codes -/

/-- The access of a word: reserved address, all fields read-only, writable at once, RWL, RWH; with the mask of its reserved bits. -/
inductive Acc where
  | unmap
  | ro
  | free (rsv : Word)
  | rwl (rsv : Word)
  | rwh (rsv : Word)
deriving DecidableEq, Repr

/-- The access of an offset from the ranges of a register table: first and last offset, access. -/
def inRanges (l : List (Nat × Nat × Acc)) (o : Nat) : Acc := ((l.find? fun r => decide (r.1 ≤ o) && decide (o ≤ r.2.1)).map (·.2.2)).getD .unmap

/-- Table 17.6. -/
def accIdent : Nat → Acc := inRanges [(0, 0x1C, .ro), (0x40, 0x40, .free 0xFFFFFF80), (0x44, 0x58, .ro), (0x60, 0x6C, .free 0)]

/-- Table 2.6. -/
def accTb : Nat → Acc :=
  inRanges [(0, 0, .free 0xFFFFFFFC), (4, 4, .free 0xFFE0F800), (8, 0x20, .ro), (0x24, 0x24, .free 0xFFFF0000), (0x28, 0x3C, .ro)]

/-- Table 3.7. -/
def accFe (o : Nat) : Acc :=
  if o < 0x2A00 then inRanges [(0, 0, .ro), (4, 4, .free 0xFFFFFF80), (8, 0x10, .ro)] (o % 0x40)
  else inRanges [(0x3000, 0x3000, .free 0xFFFFFF00), (0x3004, 0x3010, .ro)] o

/-- Table 4.15. -/
def accCv (o : Nat) : Acc :=
  if 0x1000 ≤ o ∧ o < 0x1800 then (if o % 0x20 ≤ 0x10 then .ro else .unmap)
  else if 0x4000 ≤ o ∧ o < 0x4A80 then (if o % 0x10 ≤ 4 then .ro else .unmap)
  else inRanges [(0, 0, .free 0xFFFF00FC), (4, 4, .free 0xFFFFFF00), (8, 0x38, .ro), (0x2000, 0x2FFC, .ro), (0x5000, 0x6FFC, .ro),
    (0x8000, 0x829C, .ro)] o

/-- Table 4.16. -/
def accQueue (o : Nat) : Acc :=
  if o < 0x800 then
    inRanges [(0, 0, .ro), (4, 4, .free 0xFFFFFF80), (8, 0xC, .ro), (0x10, 0x10, .free 0xFFFFC000), (0x20, 0x3C, .ro)] (o % 0x40)
  else inRanges [(0x800, 0x87C, .free 0), (0xF00, 0xF08, .ro)] o

/-- Table 5.14. -/
def accPlan : Nat → Acc :=
  inRanges [(0, 0, .free 0xFFFFFFF0), (4, 4, .free 0xFFFFF800), (8, 0xC, .ro), (0x10, 0x10, .free 0), (0x14, 0x14, .free 0xFFFF0000),
    (0x18, 0x2C, .ro), (0x40, 0x9C, .ro), (0x100, 0x100, .free 0)]

/-- Table 6.10. -/
def accPoint (o : Nat) : Acc := inRanges [(0x130, 0x130, .free 0xFF000000), (0, 0x140, .ro)] (o % 0x200)

/-- Table 6.17. -/
def accPulse (o : Nat) : Acc := if o < 0x100 then inRanges [(0, 8, .ro), (0xC, 0xC, .free 0xFFFFFFF0)] (o % 0x20) else .unmap

/-- Table 7.9. -/
def accPq (o : Nat) : Acc :=
  if 0x100 ≤ o ∧ o < 0x900 then inRanges [(0, 0, .free 0xFE000000), (4, 8, .free 0), (0xC, 0x9C, .ro)] (o % 0x100)
  else if 0x1000 ≤ o ∧ o < 0x2400 then inRanges [(0, 0, .free 0xFFFFFF00), (4, 0x1C, .ro)] (o % 0x20)
  else inRanges [(0, 0, .free 0xFFFFFFF8), (4, 4, .free 0xFFFFFFF0), (0x10, 0x10, .free 0), (0x14, 0x14, .ro),
    (0x3000, 0x3000, .free 0xFFFFF0FC), (0x3004, 0x3004, .free 0xFFFFFE00), (0x3008, 0x3008, .free 0xFFFF0000), (0x300C, 0x300C, .free 0),
    (0x3010, 0x3010, .free 0xFFFF0000), (0x3014, 0x3020, .free 0), (0x3024, 0x3034, .ro), (0x3040, 0x304C, .ro)] o

/-- Table 8.7. -/
def accLs (o : Nat) : Acc :=
  if 0x1000 ≤ o ∧ o < 0x9000 then (if o % 0x100 ≤ 0xC8 then .ro else .unmap)
  else inRanges [(0, 0, .free 0xFFFFF000), (4, 8, .ro), (0x10, 0x1C, .ro), (0x20, 0x20, .free 0x7F000000), (0x24, 0x24, .rwl 0xFFFFFC80),
    (0x30, 0x40, .ro)] o

/-- Table 9.8. -/
def accBill (o : Nat) : Acc :=
  inRanges [(0, 0xA04, .ro), (0xA08, 0xA08, .free 0xFFFFC000), (0xA10, 0xA14, .ro), (0xA20, 0xA64, .ro)] (o % 0x1000)

/-- Table 9.9. -/
def accDevBill : Nat → Acc :=
  inRanges [(0, 0, .free 0xFFFFFFC0), (4, 4, .free 0xFFFFFE00), (8, 0x1C, .ro), (0x20, 0x20, .free 0xFFFFF080), (0x24, 0x28, .ro),
    (0x1000, 0x1FFC, .ro)]

/-- Table 10.5. -/
def accRtc (o : Nat) : Acc :=
  if 0x80 ≤ o ∧ o < 0x100 then inRanges [(4, 4, .free 0xFFFFFF00), (0xC, 0xC, .free 0xFFFFFFF0), (0, 8, .free 0)] (o % 0x10)
  else inRanges [(0, 0, .free 0xFFFFFFFC), (4, 4, .free 0xFFFFF800), (8, 8, .rwh 0), (0xC, 0xC, .rwh 0xFFFFFF00), (0x10, 0x18, .ro),
    (0x20, 0x20, .free 0xFFFFFFF0), (0x24, 0x40, .ro), (0x50, 0x50, .free 0xFFFFFE00), (0x54, 0x54, .free 0xFFFFFF8C), (0x58, 0x5C, .ro),
    (0x70, 0x70, .ro), (0x100, 0x100, .free 0xFF000000), (0x140, 0x17C, .ro), (0x200, 0x27C, .free 0)] o

/-- Table 11.6. -/
def accTamper (o : Nat) : Acc :=
  if 0x100 ≤ o ∧ o < 0x200 then inRanges [(0, 0, .rwl 0xFFE000C8), (4, 4, .rwl 0xF8000000), (8, 0xC, .ro)] (o % 0x10)
  else inRanges [(0, 0, .free 0xFFFFFFC0), (4, 0x14, .ro), (0x18, 0x18, .free 0xFFFF0000), (0x1C, 0x1C, .free 0xFFFFFFE0),
    (0x20, 0x20, .rwl 0x7FFF0000), (0x24, 0x28, .ro), (0x30, 0x38, .ro), (0x300, 0x300, .rwl 0x008888F0), (0x304, 0x308, .rwl 0),
    (0x400, 0x5FC, .ro)] o

/-- Table 12.7; of `ERRL`, the codes of a chapter's event table. -/
def accRec (o : Nat) : Acc :=
  if 0x400 ≤ o ∧ o < 0x800 then (if (severity ((o - 0x400) / 4)).isSome then .rwl 0 else .ro)
  else inRanges [(0, 0, .free 0xFFFFFF80), (4, 4, .free 0xFFFFFFF0), (8, 8, .free 0), (0xC, 0x3C, .ro), (0x40, 0x40, .rwl 0xFFFFFFF0),
    (0x44, 0x50, .rwl 0xFFFE0000), (0x60, 0x68, .free 0), (0x70, 0x74, .ro), (0x78, 0x7C, .free 0), (0x80, 0x80, .free 0xFFFFFFFE),
    (0x100, 0x13C, .ro)] o

/-- Table 13.10. -/
def accDisp : Nat → Acc :=
  inRanges [(0, 0, .rwl 0xFFFFFFFC), (4, 4, .free 0xFFC0C000), (8, 8, .free 0xFFFF0000), (0xC, 0x14, .ro), (0x40, 0x54, .ro),
    (0x80, 0xBC, .ro), (0xC0, 0xCC, .free 0xFFFFC000), (0x400, 0x9FC, .ro), (0x1000, 0x13FC, .free 0)]

/-- Table 14.8. -/
def accTrust : Nat → Acc :=
  inRanges [(0, 0, .free 0xFFFFFFE0), (4, 4, .free 0xFFFFFFC0), (8, 8, .ro), (0xC, 0xC, .free 0), (0x10, 0x10, .ro), (0x18, 0x28, .ro),
    (0x30, 0x34, .ro), (0x40, 0x7C, .rwl 0), (0x80, 0x80, .free 0xFFFFFFFE), (0x84, 0x84, .free 0xFFFFFFE0), (0xA0, 0xBC, .free 0),
    (0x200, 0x27C, .ro), (0x280, 0x280, .free 0xFFFFFF00), (0x284, 0x284, .ro), (0x2C0, 0x2EC, .ro), (0x300, 0x3FC, .ro),
    (0x400, 0x400, .free 0x7FFFFEC0), (0x404, 0x404, .ro), (0x440, 0x47C, .free 0), (0x600, 0x7AC, .ro), (0x800, 0x9FC, .free 0),
    (0xA00, 0xA1C, .ro)]

/-- Tables 15.12, 15.5, 15.13. -/
def accIf : Nat → Acc :=
  inRanges [(0, 4, .free 0xFFFFFF00), (8, 8, .ro), (0x10, 0x14, .free 0xFFFF8000), (0x18, 0x18, .ro), (0x20, 0x5C, .free 0),
    (0x60, 0x60, .free 0xFFFF0000), (0x100, 0x100, .free 0xFFFFFEF8), (0x104, 0x104, .ro), (0x120, 0x120, .free 0xFFFFFCF8),
    (0x124, 0x124, .free 0xFFFFC000), (0x128, 0x128, .ro), (0x12C, 0x12C, .free 0xFFFFFC00), (0x200, 0x200, .free 0xFFFFFFF0),
    (0x204, 0x204, .ro), (0x208, 0x208, .free 0xFFFF0000), (0x20C, 0x20C, .ro), (0x210, 0x21C, .free 0xFFFFFE00), (0x220, 0x228, .ro),
    (0x230, 0x24C, .ro), (0x300, 0x300, .free 0xFFFFFFF0)]

/-- Table 16.9. -/
def accMode (o : Nat) : Acc :=
  if 0x1000 ≤ o ∧ o < 0x9000 then (if o % 0x100 < 0xC0 then .ro else .unmap)
  else inRanges [(0, 0, .ro), (4, 4, .rwl 0xFFFFFFEC), (8, 8, .free 0xFFFFFF00), (0xC, 0x20, .ro), (0x24, 0x24, .free 0xFFFF0000),
    (0x28, 0x28, .free 0), (0x2C, 0x2C, .free 0xFFFF0000), (0x30, 0x30, .free 0), (0x34, 0x34, .ro)] o

/-- Table 6.13. -/
def accCal (o : Nat) : Acc :=
  if 0x100 ≤ o ∧ o < 0x100 + 0x40 * 168 then (if o % 0x40 < 0x28 then .rwl 0 else .unmap)
  else inRanges [(0, 0, .rwl 0xFFFFFFFC), (4, 4, .free 0xFFFFFFFC), (8, 0xC, .ro), (0x10, 0x2C, .rwl 0)] o

/-- The access of an address (Table 17.1). -/
def access (a : Nat) : Acc :=
  let o := a % 0x10000
  if 0x100000 ≤ a ∧ a < 0x180000 then accBill a
  else if 0x180000 ≤ a ∧ a < 0x182000 then accDevBill o
  else if 0xC0000 ≤ a ∧ a < 0xE8000 then (if a % 0x400 < 0x3A0 then .ro else .unmap)
  else
    match a / 0x10000 with
    | 0x00 => accIdent o | 0x01 => accTb o | 0x02 => accFe o | 0x03 => accCv o | 0x04 => accQueue o | 0x05 => accPlan o
    | 0x08 => accPoint o | 0x09 => accPulse o | 0x0A => accPq o | 0x0B => accLs o | 0x20 => accRtc o | 0x21 => accTamper o
    | 0x22 => accRec o | 0x23 => accDisp o | 0x24 => accTrust o | 0x25 => accIf o | 0x26 => accMode o | 0x30 => accCal o
    | _ => .unmap

/-! ## Requester differences (Table 17.3) -/

/-- Requests that only the host and the application core make. -/
def hostOrApp (a : Nat) : Bool :=
  let o := a % 0x10000
  match a / 0x10000 with
  | 0x20 => decide (0x200 ≤ o) && decide (o < 0x280)
  | 0x22 => (decide (0x60 ≤ o) && decide (o ≤ 0x68)) || (decide (0x78 ≤ o) && decide (o ≤ 0x80))
  | 0x23 => decide (0xC0 ≤ o) && decide (o ≤ 0xCC)
  | 0x24 => o == 0x400 || (decide (0x440 ≤ o) && decide (o ≤ 0x47C)) || (decide (0x800 ≤ o) && decide (o ≤ 0x9FC))
  | _ => false

/-- `PLCTL`, `PLDATA`, `TRFWCTL` without CONFIRM, `TRFWDATA`: not for the legal core. -/
def loaderPort (a : Nat) : Bool := a == 0x50000 || a == 0x50100 || a == 0x240004 || a == 0x24000C

/-- A word that Table 17.3 gives no effect for its requester. -/
def noAccess (req : Requester) (a : Nat) (w : Word) : Bool :=
  (hostOrApp a && (req == .legal || req == .chain)) ||
  (loaderPort a && req == .legal && !(a == 0x240004 && wbit w 5)) ||
  (a == 0x240004 && wbit w 5 && (req == .host || req == .chain) && wbits w 4 0 == 0) ||
  (decide (0x2000C0 ≤ a) && decide (a < 0x200100) && req != .legal) ||
  ((a == 0x260024 || a == 0x260028) && req != .legal) ||
  ((a == 0x26002C || a == 0x260030) && req != .app) ||
  ((a == 0x240080 || (decide (0x2400A0 ≤ a) && decide (a < 0x2400C0))) && req != .host)

/-! ## What a word does at once -/

/-- `SUPSTS` and the scratch words. -/
def wrIdent (s : State) (o : Nat) (w : Word) : State :=
  if o = 0x40 then
    s.mapHp fun h => { h with unmap := w1c h.unmap w 0, rwlcls := w1c h.rwlcls w 1, rwlr := if wbit w 1 then 0 else h.rwlr,
                              rwlref := w1c h.rwlref w 3 }
  else s.mapHp fun h => { h with scr := tset ((o - 0x60) / 4) w h.scr }

/-- `TBCTL`, `TBSTS`, `TBASYM`. -/
def wrTb (s : State) (o : Nat) (w : Word) : State :=
  match o with
  | 0 =>
    let s := s.mapTb fun t => { t with asymen := wbit w 1 }
    if wbit w 0 then startBurst s else s
  | 4 => s.mapTb fun t => { t with jumped := w1c t.jumped w 9 }
  | _ => s.mapTb fun t => { t with asym := w.setWidth 16 }

/-- `FESTS`, `FEREFS`. -/
def wrFe (s : State) (o : Nat) (w : Word) : State :=
  if o < 0x2A00 then
    let c := o / 0x40
    let x := feAt s c
    s.setFe c { x with ovl := w1c x.ovl w 0, ovc := if wbit w 0 then 0 else x.ovc, cmev := w1c x.cmev w 3, prbchg := w1c x.prbchg w 6 }
  else s.mapFe fun f => { f with refev := f.refev &&& ~~~((w >>> 4).setWidth 4) }

/-- `CVCTL`, `CVSTS`. The aperture of a manual capture is that of the write (log 40). -/
def wrCv (s : State) (o : Nat) (w : Word) : State :=
  if o = 0 then
    let s := s.mapCv fun v => { v with fcen := wbit w 0, fcch := wbits w 15 8 }
    if wbit w 1 && decide (wbits w 15 8 < 168) then
      let r := s.draw
      manualCapture r.2 (wbits w 15 8) (r.1 % 48)
    else s
  else
    s.mapCv fun v => { v with fcdone := w1c v.fcdone w 3, fcmissF := w1c v.fcmissF w 4, fcmiss := if wbit w 4 then 0 else v.fcmiss,
                              slflt := w1c v.slflt w 5, callim := w1c v.callim w 6, substF := w1c v.substF w 7 }

/-- `QSTS`, `QTHR`. -/
def wrQueue (s : State) (o : Nat) (w : Word) : State :=
  let q := o / 0x40
  let x := queueAt s q
  if o % 0x40 = 4 then
    s.setQueue q { x with ovf := w1c x.ovf w 3, lost := if wbit w 3 then 0 else x.lost, rderr := w1c x.rderr w 4, flushed := w1c x.flushed w 5 }
  else s.setQueue q { x with thr := wbits w 13 0 }

/-- `PLCTL` by a requester: a word with more than one command is refused. -/
def writePlctl (s : State) (req : Requester) (w : Word) : State :=
  match wbits w 3 0 with
  | 0 => s
  | 1 => plBegin s req
  | 2 => plVerify s req
  | 4 => plActivate s req
  | 8 => plCancel s req
  | _ => s.mapPl fun l => { l with ownerr := true }

/-- `PLCTL`, `PLSTS`, `PLAFL`, `PLAFH`. -/
def wrPlan (s : State) (req : Requester) (o : Nat) (w : Word) : State :=
  match o with
  | 0 => writePlctl s req w
  | 4 => s.mapPl fun l => { l with done := w1c l.done w 6, actref := w1c l.actref w 7, ownerr := w1c l.ownerr w 8 }
  | 0x10 => s.mapPl fun l => { l with afl := w }
  | 0x14 => s.mapPl fun l => { l with afh := w.setWidth 16 }
  | _ => s

/-- `PTSTS.SAT`. -/
def wrPoint (s : State) (o : Nat) (w : Word) : State :=
  let p := o / 0x200
  if wbit w 15 then
    s.mapMet fun m => { m with pt := tset p { tget {} p m.pt with sat := false } m.pt, pub := tset p { tget {} p m.pub with sat := false } m.pub }
  else s

/-- `PLSSTS.OVR`. -/
def wrPulse (s : State) (o : Nat) (w : Word) : State :=
  if wbit w 1 then s.mapMet fun m => { m with pulse := tmod {} (o / 0x20) (fun x => { x with ovr := false, lost := 0 }) m.pulse } else s

/-- `SPCTL`: SHIFT first, then GO and ABORT. -/
def writeSpctl (s : State) (w : Word) : State :=
  let s := s.mapPq fun q => { q with shift := wbits w 11 8 }
  let s := if wbit w 0 then sprintGo s else s
  if wbit w 1 then sprintAbort s else s

/-- Power quality, live verification and sprint words. -/
def wrPq (s : State) (o : Nat) (w : Word) : State :=
  if 0x100 ≤ o ∧ o < 0x900 then
    let b := o / 0x100 - 1
    let x := pqBus s b
    s.setPqBus b (match o % 0x100 with
      | 0 => { x with udin := w &&& 0x01FFFFFF, rewrite := true }
      | 4 => { x with thr1 := w, rewrite := true }
      | _ => { x with thr2 := w, rewrite := true })
  else if 0x1000 ≤ o ∧ o < 0x2400 then
    let c := (o - 0x1000) / 0x20
    s.setLive c { liveAt s c with chg := w1c (liveAt s c).chg w 5 }
  else
    match o with
    | 0 => s.mapPq fun q => { q with banden := wbit w 0, bandrr := wbit w 1, hclr := q.hclr || wbit w 2 }
    | 4 => s.mapPq fun q => { q with evt := w1c q.evt w 3 }
    | 0x10 => s.mapPq fun q => { q with bsel := w }
    | 0x3000 => writeSpctl s w
    | 0x3004 => s.mapPq fun q => { q with done := w1c q.done w 2, ref := w1c q.ref w 3, trunc := w1c q.trunc w 7, lostrd := w1c q.lostrd w 8,
                                          lost := if wbit w 8 then 0 else q.lost }
    | 0x3008 => s.mapPq fun q => { q with len := wbits w 15 0 }
    | 0x300C => s.mapPq fun q => { q with sfl := w }
    | 0x3010 => s.mapPq fun q => { q with sfh := w.setWidth 16 }
    | _ => s.mapPq fun q => { q with spch := q.spch.mapIdx fun i x => if 0x3014 + 4 * i = o then w else x }

/-- `LSSTS`, `LSINJ`. -/
def wrLs (s : State) (o : Nat) (w : Word) : State :=
  if o = 0x20 then writeLsinj s w
  else
    s.mapLs fun l => { l with retry := w1c l.retry w 1, prolmm := w1c l.prolmm w 3, xfer := w1c l.xfer w 4, repair := w1c l.repair w 5,
                              lost := w1c l.lost w 6, rdpair := w1c l.rdpair w 7, pairerr := if wbit w 7 then 0 else l.pairerr,
                              reinref := w1c l.reinref w 8 }

/-- `BSTS` of a point. -/
def wrBill (s : State) (a : Nat) (w : Word) : State :=
  let p := a / 0x1000 % 128
  s.mapBl fun b => { b with newmd := tset p (w1c (tget false p b.newmd) w 12) b.newmd, tswev := tset p (w1c (tget false p b.tswev) w 13) b.tswev }

/-- `BLSTS`, `BLCMD`, `BLSSEL`. -/
def wrDevBill (s : State) (req : Requester) (o : Nat) (w : Word) : State :=
  match o with
  | 0 => s.mapBl fun b => { b with closed := w1c b.closed w 2, cref := w1c b.cref w 3, drop := w1c b.drop w 4 }
  | 4 => if wbit w 8 then s.mapHp fun h => { h with legal := h.legal ++ [.close req w] } else s
  | _ => s.mapBl fun b => { b with selPoint := wbits w 6 0, selAge := wbits w 11 8 }

/-- A cleared HALT of `RTCCTL`: the halt has lasted its ticks; with RELPPS it waits for the PPS edge (log 40). -/
def writeRtcctl (s : State) (req : Requester) (w : Word) : State :=
  if wbit w 0 then setHalt s req s.rtc.sub (wbit w 1)
  else
    let s := s.mapRtc fun r => { r with relpps := wbit w 1 }
    if !s.rtc.halt then s
    else if s.rtc.relpps then s.mapRtc fun r => { r with relWait := true }
    else clearHalt s (s.rtc.haltTicks * 256 / 125)

/-- An alarm word of a slot. -/
def wrAlarm (a : Alarm) (o : Nat) (w : Word) : Alarm :=
  match o with
  | 0 => { a with time := a.time / 2 ^ 32 * 2 ^ 32 + w.toNat }
  | 4 => { a with time := a.time % 2 ^ 32 + wbits w 7 0 * 2 ^ 32 }
  | 8 => { a with per := w.toNat }
  | _ => { a with en := wbit w 0, skip := wbit w 1, notify := wbit w 2, log := wbit w 3 }

/-- RTC and Slate words but the time. -/
def wrRtc (s : State) (req : Requester) (o : Nat) (w : Word) : State :=
  if 0x80 ≤ o ∧ o < 0x100 then
    let n := o / 0x10 - 8
    s.setAlarm n (wrAlarm (alarmAt s n) (o % 0x10) w)
  else if 0x200 ≤ o then s.mapRtc fun r => { r with bk := tset ((o - 0x200) / 4) w r.bk }
  else
    match o with
    | 0 => writeRtcctl s req w
    | 4 => s.mapRtc fun r => { r with werr := w1c r.werr w 4, href := w1c r.href w 5, hto := w1c r.hto w 6, cold := w1c r.cold w 7,
                                      cellrun := w1c r.cellrun w 10 }
    | 0x20 =>
      if wbit w 0 then
        let r := s.draw
        capture r.2 s.rtc.sub (r.1 % 30720)
      else s
    | 0x50 => s.mapRtc fun r => { r with trim := fromField 9 (wbits w 8 0) }
    | 0x54 => s.mapRtc fun r => { r with ppsMode := wbits w 1 0, ppsLoss := w1c r.ppsLoss w 5, phbig := w1c r.phbig w 6 }
    | _ =>
      forEach alarms (fun s n =>
        let a := alarmAt s n
        s.setAlarm n { a with fired := w1c a.fired w n, late := w1c a.late w (8 + n), drop := w1c a.drop w (16 + n) }) s

/-- `SEALSTS`, `TPDISAG`, `TPSTS`. -/
def wrTamper (s : State) (o : Nat) (w : Word) : State :=
  match o with
  | 0 => s.mapTp fun t => { t with deny := w1c t.deny w 3 }
  | 0x18 => s.mapTp fun t => { t with disag := t.disag &&& ~~~(w.setWidth 16) }
  | _ => s.mapTp fun t => { t with erased := w1c t.erased w 2, dddis := w1c t.dddis w 3 }

/-- `ERSTS`, the cursor, `ERAUTH`, `ERSCLR`. A cursor write ends END. -/
def wrRec (s : State) (req : Requester) (o : Nat) (w : Word) : State :=
  match o with
  | 0 =>
    s.mapEr fun r => { r with sdrop := w1c r.sdrop w 0, sdropN := if wbit w 0 then [] else r.sdropN, plost := w1c r.plost w 2,
                              plostN := if wbit w 2 then 0 else r.plostN, ackref := w1c r.ackref w 4, clrref := w1c r.clrref w 5,
                              early := w1c r.early w 6 }
  | 4 => s.mapEr fun r => { r with area := wbits w 1 0, mode := if wbits w 3 2 = 3 then r.mode else wbits w 3 2, atEnd := false }
  | 8 => s.mapEr fun r => { r with cidx := w.toNat, atEnd := false }
  | 0x78 => s.mapEr fun r => { r with auth := r.auth &&& ~~~(0xFFFFFFFF#64) ||| w.setWidth 64 }
  | 0x7C => s.mapEr fun r => { r with auth := r.auth &&& 0xFFFFFFFF#64 ||| w.setWidth 64 <<< 32 }
  | 0x80 => if wbit w 0 then s.mapHp fun h => { h with legal := h.legal ++ [.clear req] } else s
  | _ => s

/-- Display words but `DPCTL`. -/
def wrDisp (s : State) (req : Requester) (o : Nat) (w : Word) : State :=
  if 0x1000 ≤ o then s.mapDp fun d => { d with stage := tset ((o - 0x1000) / 4) w d.stage }
  else
    match o with
    | 4 => s.mapDp fun d => { d with profref := w1c d.profref w 4, rfault := w1c d.rfault w 9, sfault := w1c d.sfault w 10 }
    | 8 => s.mapDp fun d => { d with flk := wbits w 7 0 }
    | _ => writeFree s req ((o - 0xC0) / 4 + 12) w

/-- `TRFWCTL`: its commands in bit order. -/
def writeTrfwctl (s : State) (req : Requester) (w : Word) : State :=
  let s := if wbit w 0 then fwBegin s req (wbit w 1) else s
  let s := if wbit w 2 then fwVerify s req else s
  let s := if wbit w 3 then fwAcceptReq s req else s
  let s := if wbit w 4 && req != .legal then fwReset s req else s
  if wbit w 5 then fwConfirm s req else s

/-- Trust words but the tag area. -/
def wrTrust (s : State) (req : Requester) (o : Nat) (w : Word) : State :=
  if 0xA0 ≤ o ∧ o < 0xC0 then s.mapTr fun t => { t with nonce := tset ((o - 0xA0) / 4) w t.nonce }
  else if 0x440 ≤ o then s.mapTr fun t => { t with kbuf := tset ((o - 0x440) / 4) w t.kbuf }
  else
    match o with
    | 0 => s.mapTr fun t => { t with fwown := w1c t.fwown w 1, fallback := w1c t.fallback w 2, chkpt := w1c t.chkpt w 3,
                                     keyref := w1c t.keyref w 4 }
    | 4 => writeTrfwctl s req w
    | 0x80 => if wbit w 0 then quoteAsk s .host [] none else s
    | 0x84 => s.mapTr fun t => { t with qdone := w1c t.qdone w 1, qref := w1c t.qref w 2 }
    | 0x280 => s.mapTr fun t => { t with lidx := wbits w 7 0 }
    | _ => keyGo s req w

/-- Replace word i of a 256-bit register. -/
def putWord256 (x : BitVec 256) (i : Nat) (w : Word) : BitVec 256 :=
  (x &&& ~~~((0xFFFFFFFF#256) <<< (32 * i))) ||| (w.setWidth 256 <<< (32 * i))

/-- Host port and interrupt words. -/
def wrHostPort (s : State) (o : Nat) (w : Word) : State :=
  if 0x20 ≤ o ∧ o < 0x40 then s.mapHp fun h => { h with irqev := h.irqev &&& ~~~(w.setWidth 256 <<< (8 * (o - 0x20))) }
  else if 0x40 ≤ o ∧ o < 0x60 then s.mapHp fun h => { h with irqen := putWord256 h.irqen ((o - 0x40) / 4) w }
  else
    match o with
    | 0 => s.mapHp fun h => { h with crcerr := w1c h.crcerr w 4, crcc := if wbit w 4 then 0 else h.crcc, abort := w1c h.abort w 5,
                                     tmo := w1c h.tmo w 6, noeff := w1c h.noeff w 7 }
    | 4 => s.mapHp fun h => { h with hto := if wbits w 7 0 = 0 then h.hto else wbits w 7 0 }
    | 0x10 => s.mapHp fun h => { h with irqsts := h.irqsts &&& ~~~(w.setWidth 15) }
    | 0x14 => s.mapHp fun h => { h with irqmsk := w.setWidth 15 }
    | _ => s.mapHp fun h => { h with irqtamp := h.irqtamp &&& ~~~(w.setWidth 16) }

/-- Serial words. A port that is switched off leaves its session. -/
def wrSerial (s : State) (o : Nat) (w : Word) : State :=
  match o with
  | 0x100 =>
    let s := s.mapSer fun x => { x with zmax := wbits w 2 0, en0 := wbit w 8 }
    if wbit w 8 then s else s.mapSer fun x => { x with st0 := 0, z := 0, awaitOpt := false, optOk := false }
  | 0x120 => s.mapSer fun x => { x with baud := wbits w 2 0, en1 := wbit w 8, push := wbit w 9 }
  | 0x124 => s.mapSer fun x => { x with phys := wbits w 13 0 }
  | _ => s.mapSer fun x => { x with inact := wbits w 9 0 }

/-- Cobalt words and `IFPFW`. -/
def wrCobalt (s : State) (o : Nat) (w : Word) : State :=
  match o with
  | 0x200 => writeCbctl s w
  | 0x208 => s.mapCb fun c => { c with rspto := wbits w 15 0 }
  | 0x300 => s.mapCb fun c => { c with warn := w1c c.warn w 2 }
  | _ =>
    let p := (o - 0x210) / 4
    let x := portAt s p
    s.setPort p { x with chg := w1c x.chg w 7, err := w1c x.err w 8, viol := if wbit w 8 then 0 else x.viol,
                         crcDrops := if wbit w 8 then 0 else x.crcDrops }

/-- A watchdog period, 16 to 65,535; another value leaves it. -/
def wdPeriod (old : Nat) (w : Word) : Nat := if wbits w 15 0 < 16 then old else wbits w 15 0

/-- Mode words but `MDCTL`. -/
def wrMode (s : State) (req : Requester) (o : Nat) (w : Word) : State :=
  match o with
  | 8 =>
    s.mapSup fun u => { u with reqref := w1c u.reqref w 0, caldisc := w1c u.caldisc w 1, lwdog := w1c u.lwdog w 2, awdog := w1c u.awdog w 3,
                               tstepE := w1c u.tstepE w 4, pfdone := w1c u.pfdone w 5, pfinc := w1c u.pfinc w 6, slcrst := w1c u.slcrst w 7 }
  | 0x24 => s.mapSup fun u => { u with wdlPeriod := wdPeriod u.wdlPeriod w }
  | 0x28 => kickLegal s req w
  | 0x2C => s.mapSup fun u => { u with wdaPeriod := wdPeriod u.wdaPeriod w }
  | _ => kickApp s req w

/-- A word at an address of access `free`, by a requester for whom Table 17.3 gives it an effect. -/
def freeWord (s : State) (req : Requester) (a : Nat) (w : Word) : State :=
  let o := a % 0x10000
  if 0x100000 ≤ a ∧ a < 0x180000 then wrBill s a w
  else if 0x180000 ≤ a ∧ a < 0x182000 then wrDevBill s req o w
  else
    match a / 0x10000 with
    | 0x00 => wrIdent s o w | 0x01 => wrTb s o w | 0x02 => wrFe s o w | 0x03 => wrCv s o w | 0x04 => wrQueue s o w
    | 0x05 => wrPlan s req o w | 0x08 => wrPoint s o w | 0x09 => wrPulse s o w | 0x0A => wrPq s o w | 0x0B => wrLs s o w
    | 0x20 => wrRtc s req o w | 0x21 => wrTamper s o w | 0x22 => wrRec s req o w | 0x23 => wrDisp s req o w | 0x24 => wrTrust s req o w
    | 0x25 => if o < 0x100 then wrHostPort s o w else if o < 0x200 then wrSerial s o w else wrCobalt s o w
    | 0x26 => wrMode s req o w
    | 0x30 => s.mapMet fun m => { m with calRef := w1c m.calRef w 1 }
    | _ => s

/-! ## The words of one WRITE (R346, R349, R397, R399) -/

/-- Words that act together with others of their transaction: the queue push, the RTC time, the tag area, the acknowledgement. -/
def grouped (a : Nat) : Bool :=
  (decide (0x40800 ≤ a) && decide (a < 0x40880)) || a == 0x200008 || a == 0x20000C || (decide (0x240800 ≤ a) && decide (a < 0x240A00)) ||
  (decide (0x220060 ≤ a) && decide (a ≤ 0x220068)) || a == 0x50100 || a == 0x24000C

/-- Where the bytes of a WRITE from an address become an append: the port, and the words before it. -/
def appendPort (a n : Nat) : Option (Nat × Nat) :=
  if a ≤ 0x50100 ∧ 0x50100 < a + 4 * n then some (0x50100, (0x50100 - a) / 4)
  else if a ≤ 0x24000C ∧ 0x24000C < a + 4 * n then some (0x24000C, (0x24000C - a) / 4)
  else none

/-- The (address, word) list of the words that are no append. -/
def wordList (a : Nat) (bs : List Byte) : List (Nat × Word) :=
  let n := bs.length / 4
  let k := match appendPort a n with
    | some p => p.2
    | none => n
  (wordsOf k bs).mapIdx fun i w => (a + 4 * i, w)

/-- The bytes appended, and their port. -/
def appended (a : Nat) (bs : List Byte) : Option (Nat × List Byte) :=
  (appendPort a (bs.length / 4)).map fun p => (p.1, bs.drop (4 * p.2))

/-- The first word at a reserved address: `SUPSTS.UNMAP`, `SUPUNA`, `SUPUNR` (R397). -/
def noteUnmap (s : State) (req : Requester) (a : Nat) : State :=
  if s.hp.unmap then s else s.mapHp fun h => { h with unmap := true, una := a, unr := reqNum req }

/-- A word of the application core for a Carmine block goes to the legal core (R393). -/
def viaLegal (req : Requester) (a : Nat) : Bool := req == .app && carmine a

/-- NOEFF of one word (R347), `rwl` words apart from the seal's. -/
def wordNoEff (s : State) (req : Requester) (a : Nat) (w : Word) : Bool :=
  match access a with
  | .unmap | .ro => true
  | .free m => w &&& m != 0 || noAccess req a w
  | .rwl m => w &&& m != 0 || !s.sealOpen
  | .rwh m => w &&& m != 0

/-- One word of a WRITE that is no part of a group. -/
def applyWord (req : Requester) (s : State) (e : Nat × Word) : State :=
  match access e.1 with
  | .unmap => noteUnmap s req e.1
  | .free m =>
    if noAccess req e.1 e.2 || grouped e.1 then s
    else if viaLegal req e.1 && e.1 != 0x180004 then
      s.mapHp fun h => { h with legal := h.legal ++ [.carmine req e.1 (e.2 &&& ~~~m)] }
    else freeWord s req e.1 (e.2 &&& ~~~m)
  | .rwl _ => if e.1 = 0x230000 ∧ wbit e.2 1 then loadProfile s else s
  | _ => s

/-- A value of a transaction's words. -/
def wordAt (ws : List (Nat × Word)) (a : Nat) : Option Word := (ws.find? fun e => e.1 == a).map (·.2)

/-- The time words of a transaction. -/
def timeWords (s : State) (ws : List (Nat × Word)) : State :=
  match wordAt ws 0x200008, wordAt ws 0x20000C with
  | none, none => s
  | lo, hi => writeTime s lo hi

/-- The acknowledgement words of a transaction. -/
def ackWords (s : State) (req : Requester) (ws : List (Nat × Word)) : State :=
  if req = .legal ∨ req = .chain then s
  else
    match wordAt ws 0x220060, wordAt ws 0x220064, wordAt ws 0x220068 with
    | none, none, none => s
    | a, d0, d1 => s.mapHp fun h => { h with legal := h.legal ++ [.ack req a d0 d1] }

/-- The tag words of a transaction: one write of consecutive bytes. -/
def tagWords (s : State) (req : Requester) (ws : List (Nat × Word)) : State :=
  match ws.filter fun e => decide (0x240800 ≤ e.1) && decide (e.1 < 0x240A00) with
  | [] => s
  | e :: t => tagWrite s req e.1 (bytesOfWords ((e :: t).map (·.2)))

/-- The pushes of a transaction, queue by queue, each with all four words; the last refusal is the code. -/
def pushWords (s : State) (req : Requester) (ws : List (Nat × Word)) : State × Nat :=
  (List.range 8).foldl (fun r i =>
    let b := 0x40800 + 0x10 * i
    match wordAt ws b, wordAt ws (b + 4), wordAt ws (b + 8), wordAt ws (b + 12) with
    | some w0, some w1, some w2, some w3 =>
      let p := qpushWords r.1 req (24 + i) w0 w1 w2 w3
      (p.1, if p.2 = 0 then r.2 else p.2)
    | _, _, _, _ => r) (s, 0)

/-- The appended bytes of a transaction. -/
def appendBytes (s : State) (req : Requester) : Option (Nat × List Byte) → State
  | none => s
  | some (p, bs) => if req = .legal then s else if p = 0x50100 then plData s req bs else fwData s req bs

/-- The RWL words of a transaction (R399). -/
def rwlWords (ws : List (Nat × Word)) : List (Nat × Word) := ws.filter fun e => (rwlReg e.1).isSome

/-- NOEFF of a transaction. -/
def writeNoEff (s : State) (req : Requester) (a : Nat) (bs : List Byte) : Bool :=
  (wordList a bs).any (fun e => wordNoEff s req e.1 e.2) || ((appended a bs).isSome && req == .legal)

/-- A transaction writes the time. -/
def hasTime (ws : List (Nat × Word)) : Bool := (wordAt ws 0x200008).isSome || (wordAt ws 0x20000C).isSome

/-- The outcome of a WRITE: state, push code, NOEFF. -/
structure Written where
  s : State
  code : Nat
  noeff : Bool

/-- A WRITE applied at its completion: its words in ascending address order, in one core cycle. -/
def applyWrite (s : State) (req : Requester) (a : Nat) (bs : List Byte) : Written :=
  let ws := wordList a bs
  let ne := writeNoEff s req a bs
  let s := postRwl s req (rwlWords ws)
  let s := forEach ws (applyWord req) s
  let ne := ne || (hasTime ws && !s.rtc.halt)
  let s := tagWords (ackWords (timeWords s ws) req ws) req ws
  let r := pushWords s req ws
  let s := appendBytes r.1 req (appended a bs)
  { s := if ne then noEff s req else s, code := r.2, noeff := ne }

/-- One register write by a requester: an aligned word. -/
def execRegisterWrite (req : Requester) (addr : Nat) (w : Word) (s : State) : Out :=
  .next (if serving s then (applyWrite s req (addr - addr % 4) (leBytes 4 w.toNat)).s else s)

/-! ## The legal request queue (01 R17) -/

/-- A closed-off close request under the recovery monitor, which answers with a refusal. -/
def refuseClose (s : State) : State := raise (s.mapBl fun b => { b with cref := true }) 0xA2 0xFF none

/-- Whether the legal core performs a request: its own conditions; of another Carmine word, that it names writable fields and Table 17.3 gives it
an effect. The recovery monitor acknowledges and refuses the rest (16 R379). -/
def legalOk (s : State) : LegalReq → Bool
  | .ack _ a d0 d1 => ackAsked s.er a d0 d1
  | .clear _ => !monitorRuns s && clearOk s
  | .close _ w => !monitorRuns s && closeOk s w
  | .carmine req a w => !monitorRuns s && !noAccess req a w && (match access a with
    | .free m => w &&& m == 0
    | _ => false)

/-- The requester and kind of a request. -/
def legalKind : LegalReq → Requester × Nat
  | .ack req _ _ _ => (req, 0)
  | .clear req => (req, 1)
  | .close req _ => (req, 2)
  | .carmine req _ _ => (req, 3)

/-- The answer on the queue; the last 32 are kept (log 123). -/
def noteAnswer (r : LegalReq) (ok : Bool) (s : State) : State :=
  s.mapHp fun h => { h with legalAns := ((h.legalAns ++ [({ req := (legalKind r).1, kind := (legalKind r).2, done := ok } : LegalAns)]).reverse.take 32).reverse }

/-- What one request does when it is answered. -/
def answerLegal (s : State) : LegalReq → State
  | .ack req a d0 d1 => answerAck s req a d0 d1
  | .clear req => if monitorRuns s then (newChallenge s).mapEr fun r => { r with clrref := true } else answerClear s req
  | .close _ w => if monitorRuns s then refuseClose s else answerClose s w
  | r@(.carmine req a w) => if legalOk s r then freeWord s req a w else s

/-- The legal core, or the recovery monitor, answers the oldest request. -/
def execLegalRequest (s : State) : Out :=
  match s.hp.legal with
  | [] => .next s
  | r :: rest =>
    .next (if serving s then noteAnswer r (legalOk s r) (answerLegal (s.mapHp fun h => { h with legal := rest }) r) else s)

end Sys2Proof.Machine
end

