-- ==== Sys2Proof/Machine/HostPort.lean ====
section
/-! DEFINITION. The host port and the READ and WRITE OPs of the chain master (15 R344 to R350, R364, R369), and reads of pairs (08 R203,
17 R400). -/

namespace Sys2Proof.Machine

/-! ## Pairs in the address space (Table 17.5) -/

/-- The length in bytes of the pair that starts at an offset of the set window. -/
def winPair (o : Nat) : Option Nat :=
  if o < 0xA00 then (if o % 16 = 0 then some 16 else none)
  else if o = 0xA00 ∨ o = 0xC00 ∨ o = 0xC28 ∨ o = 0xC30 then some 8
  else if o = 0xC08 ∨ o = 0xC18 ∨ o = 0xC38 then some 16
  else none

/-- The length in bytes of the pair that starts at an address. -/
def pairLen (a : Nat) : Option Nat :=
  let o := a % 0x10000
  let at8 (lo hi : Nat) : Bool := decide (lo ≤ o) && decide (o < hi) && o % 8 == 0
  if 0x100000 ≤ a ∧ a < 0x180000 then
    let o := a % 0x1000
    if o < 0xA00 then (if o % 16 = 0 then some 16 else none) else if o = 0xA00 then some 8 else none
  else if 0x180000 ≤ a ∧ a < 0x182000 then
    if o = 8 then some 16 else if 0x1000 ≤ o then winPair (o - 0x1000) else none
  else
    match a / 0x10000 with
    | 0x05 => if at8 0x40 0x80 then some 8 else none
    | 0x0B => if 0x1000 ≤ o ∧ o < 0x9000 ∧ o % 0x100 < 0xC0 ∧ o % 16 = 0 then some 16 else none
    | 0x21 => if o = 8 then some 8 else none
    | 0x24 => if o = 0x18 ∨ o = 0x20 ∨ o = 0x30 then some 8 else none
    | 0x26 => if 0x1000 ≤ o ∧ o < 0x9000 ∧ o % 0x100 < 0xC0 ∧ o % 16 = 0 then some 16 else none
    | 0x30 =>
      if o = 8 ∨ at8 0x10 0x30 then some 8
      else if 0x100 ≤ o ∧ o < 0x2B00 ∧ o % 0x40 < 0x28 ∧ o % 8 = 0 then some 8
      else none
    | _ => none

/-- The halves as a requester reads them are complements. -/
def pairOk (s : State) (req : Requester) (a n : Nat) : Bool :=
  (List.range (n / 8)).all fun i => readWord s req (a + n / 2 + 4 * i) == ~~~(readWord s req (a + 4 * i))

/-- The value behind a pair of the address space; none for a pair of no value of Table 8.2. -/
def pairCrit (s : State) (a : Nat) : Option Crit :=
  let o := a % 0x10000
  if 0x100000 ≤ a ∧ a < 0x180000 then
    let p := a / 0x1000 % 128
    let x := a % 0x1000
    if x < 0x600 then some (.reg (96 * p + regSlot x))
    else if x = 0xA00 then some (.tidx p)
    else if x % 0x20 < 0x10 then some (.md (32 * p + mdSlot x))
    else some (.mdts (32 * p + mdSlot x))
  else if a = 0x180008 then some .lcb
  else if 0x181000 ≤ a ∧ a < 0x182000 then (shownSet s).map fun x => Crit.set (setNo s.bl.selPoint x)
  else
    match a / 0x10000 with
    | 0x05 => some .digest
    | 0x0B => some (.uve (16 * (o / 0x100 - 0x10) + o % 0x100 / 0x10 + 1))
    | 0x21 => some .seal
    | 0x26 => some (.rce (16 * (o / 0x100 - 0x10) + o % 0x100 / 0x10 + 1))
    | 0x30 => if 0x10 ≤ o then some .cal else none
    | _ => none

/-- A READ covers a whole pair: a failed one is counted and its source checked; a good one ends the episode of 0x76. -/
def checkPairOn (path : Nat) (req : Requester) (s : State) (e : Nat × Nat) : State :=
  if pairOk s req e.1 e.2 then pairGood s else pairFailed path s (pairCrit s e.1)

/-- The check of a READ: the application core's Carmine pairs come over the mailbox. -/
def checkPair (req : Requester) (s : State) (e : Nat × Nat) : State :=
  checkPairOn (if req = .app ∧ carmine e.1 then pathMailbox else pathOther) req s e

/-- The whole pairs in a range. -/
def pairsIn (a n : Nat) : List (Nat × Nat) :=
  (List.range n).filterMap fun i =>
    match pairLen (a + 4 * i) with
    | some k => if 4 * i + k ≤ 4 * n then some (a + 4 * i, k) else none
    | none => none

/-- A pair read by a requester: its words as stored, then the check. -/
def execPairRead (req : Requester) (addr : Nat) (s : State) : Out :=
  match pairLen addr with
  | none => .next s
  | some n =>
    if serving s then
      .next (checkPair req (s.mapHp fun h => { h with data := readWords s req addr (n / 4) }) (addr, n))
    else .next s

/-! ## A completed READ (R348) -/

/-- The side effects of a completed READ: pops, the sprint entry, the cursor, the pair checks. -/
def readEffects (s : State) (req : Requester) (a n : Nat) : State :=
  let s := forEach (List.range 32) (fun s q => if inRange a n (0x40020 + 0x40 * q) then popQueue s req q else s) s
  let s := if inRange a n 0xA3040 then popSprint s else s
  let s := if inRange a n 0x22013C then s.mapEr cursorMove else s
  forEach (pairsIn a n) (checkPair req) s

/-- A READ of n words: what was captured, then its side effects. -/
def runRead (s : State) (req : Requester) (a n : Nat) : State × List Word := (readEffects s req a n, readWords s req a n)

/-! ## The wire (R344, R345, Table 15.2) -/

/-- One bit, and one byte, of CRC-16/CCITT: polynomial 0x1021, not reflected. -/
def crc16Bit (c : BitVec 16) : BitVec 16 := if c.msb then (c <<< 1) ^^^ 0x1021 else c <<< 1
def crc16Byte (c : BitVec 16) (b : Byte) : BitVec 16 := Nat.repeat crc16Bit 8 (c ^^^ (b.setWidth 16 <<< 8))

/-- CRC-16 from 0xFFFF, without a final XOR. -/
def crc16 (l : List Byte) : BitVec 16 := l.foldl crc16Byte 0xFFFF

/-- A header field, most significant byte first. -/
def beBytes (n w : Nat) : List Byte := (leBytes n w).reverse

/-- What the host drives before its CRC: CMD, ADDR, LEN and the data of a WRITE. -/
def readSent (addr len : Nat) : List Byte := 0x0B :: beBytes 4 addr ++ beBytes 2 len
def writeSent (addr : Nat) (data : List Byte) : List Byte := 0x02 :: beBytes 4 addr ++ beBytes 2 data.length ++ data
def pollSent : List Byte := [0x05]

/-- A completed transaction with the CRC over what the host drove. -/
def goodWire (sent : List Byte) : Wire := { crc := crc16 sent }

/-- STATUS: CODE in [3:0], IRQ in [4], NOEFF in [5] (R347). -/
def statusByte (x : Nat × Bool × Bool) : Byte := BitVec.ofNat 8 (x.1 % 16 + flagAt x.2.1 4 + flagAt x.2.2 5)

/-- What the device drives for the last transaction: STATUS, the data in ascending address order, and its CRC; nothing after an abort. -/
def deviceSent (h : Port) : List Byte :=
  match h.status with
  | none => []
  | some x => let l := statusByte x :: bytesOfWords h.data; l ++ beBytes 2 (crc16 l).toNat

/-! ## Transactions of the host (R345 to R349) -/

/-- A transaction answers: STATUS with CODE, IRQ and NOEFF, and its data. -/
def answerHost (s : State) (code : Nat) (ne : Bool) (data : List Word) : State :=
  s.mapHp fun h => { h with idle := 0, code := if code = 0 then h.code else code, status := some (code, irqN h, ne), data := data, ignoring := false }

/-- A transaction that does not end with CODE 0x1 ends the run of 0xF0; its end sample waits for a correct CRC (R369). -/
def crcBreak (s : State) : State :=
  if s.hp.crcRun = 0 then s else s.mapHp fun h => { h with crcRun := 0, crcDone := h.crcDone ++ [h.crcRun] }

/-- SCS_N ends a transaction early: nothing is applied, captured or popped. -/
def abortHost (s : State) : State :=
  raise ((crcBreak s).mapHp fun h => { h with idle := 0, abort := true, status := none, data := [], ignoring := false }) 0xF1 0xFF (some 1)

/-- A wrong CRC: the first of an episode raises 0xF0. -/
def crcError (s : State) : State :=
  let first := s.hp.crcRun == 0
  let s := s.mapHp fun h => { h with crcerr := true, crcc := satAdd h.crcc 1, crcRun := h.crcRun + 1 }
  if first then raise s 0xF0 0xFF none else s

/-- A correct CRC ends the episodes with their lengths. -/
def crcGood (s : State) : State :=
  let s := crcBreak s
  forEach s.hp.crcDone (fun s n => endSample s 0xF0 0xFF (n : Nat)) (s.mapHp fun h => { h with crcDone := [] })

/-- A transaction of the host that drove `sent`: not served in the states without a port, ended early, or with a wrong CRC; else as
given. -/
def hostTransaction (s : State) (wire : Wire) (sent : List Byte) (bad : List Word) (go : State → State) : State :=
  if !serving s then s
  else if !wire.complete then abortHost s
  else if wire.crc ≠ crc16 sent then answerHost (crcError s) 1 false bad
  else go (crcGood s)

/-- Read data of a refused READ are 0x00. -/
def zeroWords (len : Nat) : List Word := List.replicate (len / 4) 0

def execRead (req : Requester) (addr len : Nat) (wire : Wire) (s : State) : Out :=
  if req = .host then
    .next (hostTransaction s wire (readSent addr len) (zeroWords len) fun s =>
      if lenAddrOk addr len 4096 then
        let r := runRead s .host addr (len / 4)
        answerHost r.1 0 false r.2
      else answerHost s 3 false (zeroWords len))
  else if serving s && lenAddrOk addr len 4096 then
    let r := runRead s req addr (len / 4)
    .next (r.1.mapHp fun h => { h with data := r.2 })
  else .next s

def execWrite (req : Requester) (addr : Nat) (bytes : List Byte) (wire : Wire) (s : State) : Out :=
  if req = .host then
    .next (hostTransaction s wire (writeSent addr bytes) [] fun s =>
      if lenAddrOk addr bytes.length 65532 then
        let r := applyWrite s .host addr bytes
        answerHost r.s r.code r.noeff []
      else answerHost s 3 false [])
  else if serving s && lenAddrOk addr bytes.length 65532 then .next (applyWrite s req addr bytes).s
  else .next s

/-- STATUS and `IRQSUM`. -/
def execPoll (wire : Wire) (s : State) : Out :=
  .next (hostTransaction s wire pollSent [0] fun s => answerHost s 0 false [irqSum s.hp])

/-- A first byte that is no command: CODE 0x2, framed as a POLL without `IRQSUM`. -/
def execUnknownCommand (byte : Byte) (s : State) : Out :=
  if byte = 0x0B ∨ byte = 0x02 ∨ byte = 0x05 ∨ !serving s then .next s else .next (answerHost (crcBreak s) 2 false [])

/-- SCS_N rises before the transaction completes; after a timeout it only ends the ignored rest. -/
def execScsAbort (s : State) : Out :=
  if !serving s then .next s
  else if s.hp.ignoring then .next (s.mapHp fun h => { h with ignoring := false })
  else .next (abortHost s)

/-- `HCFG.HTO` ticks without an SCLK edge (R350); what arrives before the timeout acts wins (02 R50). -/
def execHostTimeout (s : State) : Out :=
  if !serving s || s.hp.ignoring || decide (s.hp.idle < s.hp.hto) then .next s
  else .next (raise ((crcBreak s).mapHp fun h => { h with idle := 0, tmo := true, status := none, data := [], ignoring := true }) 0xF1 0xFF (some 2))

/-! ## The READ and WRITE OPs (R364) -/

/-- READ of the chain master: LEN at most 180. -/
def execOpRead (hdr : CobaltHdr) (addr len : Nat) (s : State) : Out :=
  if !serving s then .next s
  else
    let s := takeRx s
    if lenAddrOk addr len 180 then
      let r := runRead s .chain addr (len / 4)
      .next (sendRsp r.1 hdr 1 addr 0 (bytesOfWords r.2))
    else .next (sendRsp s hdr 1 addr 3 [])

/-- WRITE of the chain master. -/
def execOpWrite (hdr : CobaltHdr) (addr : Nat) (data : List Byte) (s : State) : Out :=
  if !serving s then .next s
  else
    let s := takeRx s
    if lenAddrOk addr data.length 180 then
      let r := applyWrite s .chain addr data
      .next (sendRsp r.s hdr 2 addr r.code [])
    else .next (sendRsp s hdr 2 addr 3 [])

end Sys2Proof.Machine
end

