-- ==== Sys2Proof/Machine/Serial.lean ====
section
/-! DEFINITION. The serial ports (15 R352 to R355): optical sign-on, HDLC connections, DLMS associations, their services and
notifications. The application core serves both ports. -/

namespace Sys2Proof.Machine

/-- The application core runs and serves its ports. -/
def serialServed (s : State) : Bool := serving s && s.sup.apprun

/-- A port carries HDLC: UART0 after its hand-over, UART1 while enabled. -/
def hdlcOpen (s : State) (port : Nat) : Bool :=
  serialServed s && (if port = 0 then s.ser.en0 && s.ser.st0 == 2 else port == 1 && s.ser.en1)

/-! ## The optical port (R352) -/

/-- UART0 listens in sign-on. -/
def signOnOpen (s : State) : Bool := serialServed s && s.ser.en0 && s.ser.st0 != 2

/-- Back to sign-on at 300 Bd. -/
def toSignOn (s : State) : State := s.mapSer fun x => { x with st0 := 0, z := 0, awaitOpt := false, optOk := false }

/-- "/?!", or the request with the device's own physical address: the identification with Z. -/
def execSignOn (phys : Option Nat) (s : State) : Out :=
  if signOnOpen s && (phys.isNone || phys == some s.ser.phys) then
    .next (s.mapSer fun x => { x with awaitOpt := true, optOk := false, optTicks := 0, answer := [x.zmax] })
  else .next s

/-- ACK, protocol control character, Z′, Y, each a decimal digit: "2", Z′ ≤ Z and "2" select HDLC. -/
def execOptionSelect (proto y z : Nat) (s : State) : Out :=
  if !(signOnOpen s && s.ser.awaitOpt) then .next s
  else if proto = 2 ∧ y = 2 ∧ z ≤ s.ser.zmax then .next (s.mapSer fun x => { x with awaitOpt := false, optOk := true, optTicks := 0, z := z })
  else .next (toSignOn s)

/-- 2 s, 32,000 ticks, without an option select. -/
def execOptionSelectTimeout (s : State) : Out := if s.ser.awaitOpt ∧ 32000 ≤ s.ser.optTicks then .next (toSignOn s) else .next s

/-- 300 ms, 4,800 ticks, after the option select both directions run at Z′. -/
def execHdlcStart (s : State) : Out :=
  if signOnOpen s && s.ser.optOk && decide (4800 ≤ s.ser.optTicks) then
    .next (s.mapSer fun x => { x with st0 := 2, optOk := false, quiet0 := 0 })
  else .next s

/-! ## HDLC (R353, Table 15.4) -/

/-- The upper address names the management logical device or a point of type 1–3. -/
def logicalDevice (s : State) (upper : Nat) : Bool :=
  upper == 1 || (decide (0x10 ≤ upper) && (livePts s).contains (upper - 0x10))

/-- What a frame is answered with: UA or data, or DM. -/
def ansOk : Nat := 0x73
def ansDm : Nat := 0x1F

def State.answer (s : State) (l : List Nat) : State := s.mapSer fun x => { x with answer := l }

/-- A frame on a port, and an exchange of an association, end a silence (Table 15.4). -/
def heard (s : State) (port : Nat) : State := s.mapSer fun x => { x with quiet0 := if port = 0 then 0 else x.quiet0 }

/-- A frame to this device's physical address: DM for an unknown logical device. -/
def execHdlcFrame (port upper lower : Nat) (s : State) : Out :=
  if !hdlcOpen s port || lower != s.ser.phys then .next s
  else .next ((heard s port).answer [if logicalDevice s upper then ansOk else ansDm])

/-- The association of a client with a logical device on a port. -/
def isAssoc (port client upper : Nat) (a : Assoc) : Bool := a.port == port && a.client == client && a.upper == upper

def assocOf (s : State) (port client upper : Nat) : Option Assoc := s.ser.assoc.find? (isAssoc port client upper)

/-- Release it. -/
def dropAssoc (s : State) (port client upper : Nat) : State :=
  s.mapSer fun x => { x with assoc := x.assoc.filter fun a => !isAssoc port client upper a }

/-- An HDLC connection ends; UART0 returns to sign-on, and with it all its associations end. -/
def endConnection (s : State) (port client upper : Nat) : State :=
  let s := dropAssoc s port client upper
  if port = 0 then toSignOn (s.mapSer fun x => { x with assoc := x.assoc.filter fun a => a.port != 0 }) else s

def execDisc (port client upper : Nat) (s : State) : Out :=
  if hdlcOpen s port then .next ((endConnection s port client upper).answer [ansOk]) else .next s

/-- `DLINACT` seconds have passed since the last exchange of the association; without one, since the last frame on UART0. -/
def silentFor (s : State) (port client upper : Nat) : Bool :=
  decide (s.ser.inact * 16000 ≤
    match assocOf s port client upper with
    | some a => a.idle
    | none => if port = 0 then s.ser.quiet0 else 0)

/-- `DLINACT` without traffic. -/
def execInactivityTimeout (port client upper : Nat) (s : State) : Out :=
  if hdlcOpen s port && silentFor s port client upper then .next (endConnection s port client upper) else .next s

/-! ## Associations (R354) -/

/-- The public client uses the lowest level, every other client LLS or HLS mechanism 5. -/
def authAllowed (client : Nat) (auth : DlmsAuth) : Bool :=
  match auth with
  | .lowest => client == 0x10
  | .lls | .hlsGmac => decide (1 ≤ client) && decide (client ≤ 0x7F) && client != 0x10
  | .other => false

/-- Association results: accepted, rejected-permanent, rejected-transient. -/
def resAccepted : Nat := 0
def resPermanent : Nat := 1
def resTransient : Nat := 2

/-- The answer to an AARQ and the events it raises. A new AARQ of an open association replaces it. -/
def aarqAnswer (s : State) (port client upper : Nat) (auth : DlmsAuth) (ciphered authOk : Bool) : State :=
  let keyed := auth == .hlsGmac || ciphered
  let t := dropAssoc s port client upper
  if 32 ≤ t.ser.assoc.length then s.answer [resTransient]
  else if !authAllowed client auth then s.answer [resPermanent]
  else if keyed && !keysLoaded s then raise (s.answer [resPermanent]) 0xFA 0xFF none
  else if auth != .lowest && !authOk then raise (s.answer [resPermanent]) 0xFB 0xFF (some (if auth = .lls then 1 else 2))
  else (t.mapSer fun x => { x with assoc := x.assoc ++ [{ port := port, client := client, upper := upper, keyed := keyed, ciph := ciphered }] }).answer [resAccepted]

def execAarq (port client upper : Nat) (auth : DlmsAuth) (ciphered authOk : Bool) (s : State) : Out :=
  if !hdlcOpen s port then .next s
  else if !logicalDevice s upper then .next ((heard s port).answer [ansDm])
  else .next (aarqAnswer (heard s port) port client upper auth ciphered authOk)

/-- The tick after an erase: every association that uses a key is released. -/
def execKeyAssociationRelease (s : State) : Out :=
  if s.ser.relDue ∧ s.ser.relAt < s.tb.ticks then .next (s.mapSer fun x => { x with relDue := false, assoc := x.assoc.filter fun a => !a.keyed }) else .next s

/-! ## Services (R353) -/

/-- An exchange of an association: its silence ends, and a ciphered APDU takes the next invocation counter of each key. -/
def countApdu (s : State) (a : Assoc) : State :=
  let s := (heard s a.port).mapSer fun x =>
    { x with assoc := x.assoc.map fun b => if isAssoc a.port a.client a.upper b then { b with idle := 0 } else b }
  if a.ciph then s.mapSer fun x => { x with invE := (x.invE + 1) % 2 ^ 32, invA := (x.invA + 1) % 2 ^ 32 } else s

/-- The object that holds the events not sent: it has no register, and takes the first number above the address space. -/
def eventStatus : Nat := 2 ^ 32

/-- GET: the register behind the object as the application core reads it, of a pair its value once the pair is checked (08 R203); the event status gives up what it holds. -/
def execGet (port client upper addr : Nat) (s : State) : Out :=
  match assocOf s port client upper with
  | none => .next s
  | some a =>
    if !hdlcOpen s port then .next s
    else
      let s := countApdu s a
      if addr = eventStatus then
        if upper = 1 then .next ((s.answer s.ser.notify).mapSer fun x => { x with notify := [] }) else .next (s.answer [])
      else
        let a := addr - addr % 4
        match pairLen a with
        | some n => .next ((checkPairOn pathDlms .app s (a, n)).answer ((readWords s .app a (n / 8)).map (·.toNat)))
        | none => let r := runRead s .app a 1; .next (r.1.answer (r.2.map (·.toNat)))

/-- A write service of an association: not for the public client. -/
def dlmsWrite (s : State) (port client upper addr : Nat) (w : Word) : State :=
  match assocOf s port client upper with
  | none => s
  | some a =>
    if !hdlcOpen s port || client == 0x10 then s
    else
      let r := applyWrite (countApdu s a) .app (addr - addr % 4) (leBytes 4 w.toNat)
      r.s.answer [r.code]

def execSet (port client upper addr : Nat) (w : Word) (s : State) : Out := .next (dlmsWrite s port client upper addr w)

/-- A method is a command word written to its register. -/
def execDlmsAction (port client upper addr : Nat) (w : Word) (s : State) : Out := .next (dlmsWrite s port client upper addr w)

/-! ## Notifications (R355) -/

/-- The oldest held notification goes out on UART1. -/
def execDataNotification (s : State) : Out :=
  match s.ser.notify with
  | [] => .next s
  | n :: rest =>
    if hdlcOpen s 1 && s.ser.push then .next (s.mapSer fun x => { x with notify := rest, sent := x.sent ++ [n] }) else .next s

end Sys2Proof.Machine
end

