-- ==== Sys2Proof/Machine/Tick.lean ====
section
/-! DEFINITION. The frame tick (02 R32 and spec/95): what ends with the frame that runs, what the new frame begins with, and every
count that a tick advances. -/

namespace Sys2Proof.Machine

/-! ## The frame that ends -/

/-- The static level of a pin as its static detector sees it (11 R264, `TPACT`). -/
def pinActive (s : State) (inp : TickInput) (n : Nat) : Bool := hasStatic s n && activeLevel s n (inp.tamp.contains n)

/-- The static levels of the tamper pins and the input clamps, as the frame leaves them (11 Table 11.2). -/
def tickPins (s : State) (inp : TickInput) : State :=
  let s := s.mapFe fun f => { f with clamp := inp.clamp }
  forEach (List.range 8) (fun s n =>
    if (srcAt s n).active == pinActive s inp n then s else s.setSrc n { srcAt s n with active := pinActive s inp n }) s

/-- The auxiliary channel with MAGSNS reaches MAGTHR in the frame (11 Table 11.2, source 13). -/
def magnetic (s : State) : Bool :=
  channels.any fun c =>
    let d := feSet s.plan c
    d.magsns && d.sensor != 0 && decide (d.magthr ≤ (streamOf s c).natAbs)

/-- Analog inputs, decimation, comparators, captures and the sprint take the frame that ends; the entries that an activation blocked in it run
again after it (05 R120 step 1). -/
def endFrame (s : State) (inp : TickInput) : State :=
  let s := analogFrame (tickPins s inp) inp
  let s := sprintTick s
  let s := (settleTick (forEach channels streamOutput s)).mapCv fun c => { c with blocked := [] }
  let s := forEach channels streamCompare s
  let s := sourceEvents s ((if magnetic s then [13] else []) ++ (if inp.clamp then [15] else [])) false false
  captureFrame (captureTriggers s inp)

/-- QUANTUM_RESCALE falls due at the second tick after an activation, before the first new increments (05 R120 steps 4, 6); one that a reset
found due waits for the restore (R123). -/
def rescaleTick (s : State) : State :=
  match s.pl.rescaleIn with
  | 0 => s
  | 1 => if s.sup.restored then s else rescaleNow s
  | n + 1 => s.mapPl fun l => { l with rescaleIn := n }

/-- The lane frame that runs ends: its windows, increments, pulses, records and harmonic blocks; the boundary steps that waited for
its energy, with the pairs they copy checked; the results published (01 R23, 06 R134, R140, R153, R154; 07 R168; 08 R201). -/
def endLaneFrame (s : State) : State :=
  let s := rescaleTick (closeDue s)
  let run := s.met.laneRun
  let pl := s.met.lanePlan
  let s := applyFrame s
  let s := match run with
    | none => s
    | some f =>
      let ps := points.filter fun p => (pointDef pl p).type != 0
      forEach ps (hrqTick f) (forEach ps (pointRecord pl) (applyPulses s f))
  let s := harmPublish (finAll (checkDue s))
  s.mapMet fun m => { m with pub := m.pt }

/-! ## The frame that begins -/

/-- Accepted coefficients become effective (06 R156); a changed set is judged for scale faults (06 R132). -/
def calTick (s : State) : State :=
  match s.met.calNext with
  | none => s
  | some c => scaleEval (s.mapMet fun m => { m with cal := c, calNext := none }) s.plan

/-- States change at the tick; a reverted set is judged as well. -/
def statesTick (s : State) : State :=
  let c := s.met.cal
  let s := modeTick s
  calTick (if s.met.cal = c then s else scaleEval s s.plan)

/-- The lanes begin to compute the frame that has ended, in the state and with the duration factor it had; its samples enter the spectral
windows (07 R163). -/
def beginLaneFrame (s : State) (f : Frame) (st : OpState) (df : Nat) : State :=
  let s := atFrame s f fun s => pqCollect (laneFrame s s.plan df) s.plan
  s.mapMet fun m => { m with laneSt := st }

/-! ## Counts -/

/-- OPERATING_SECOND: every 16,000th tick outside OFF and BACKUP (12 R283). -/
def opsTick (s : State) : State :=
  s.mapEr fun r => if 15999 ≤ r.opsTicks then { r with ops := r.ops + 1, opsTicks := 0 } else { r with opsTicks := r.opsTicks + 1 }

/-- The clock's marks: the last valid second, the ticks since, the sub-second, the halt (10 R238, R245; 09 Table 9.4). -/
def rtcTick (s : State) : State :=
  let keep := s.sup.restored
  (subTick s).mapRtc fun r =>
    { r with lastValid := if r.valid && !keep then r.sec else r.lastValid,
             invTicks := if !r.valid then r.invTicks + 1 else if keep then r.invTicks else 0,
             haltTicks := if r.halt then r.haltTicks + 1 else 0 }

/-- Billing durations and the ticks of the open intervals. -/
def billTick (s : State) : State :=
  s.mapBl fun b =>
    { b with defTicks := if b.deflt.isEmpty then b.defTicks else b.defTicks + 1, waiting := b.waiting.map fun e => (e.1, e.2 + 1),
             iv := b.iv.map fun e => (e.1, if e.2.isOpen then { e.2 with ticks := e.2.ticks + 1 } else e.2) }

/-- Durations of points in metrology-fault state (08 Table 8.6). -/
def faultTick (s : State) : State :=
  forEach (faultPts s) (fun s p => s.mapLs fun l => { l with faultTicks := tmod 0 p (· + 1) l.faultTicks }) s

/-- Ports that are not UP, refused ports, and the CMDs that wait for their RSP (15 R361, R365). -/
def linkTick (s : State) : State :=
  s.mapCb fun c =>
    let count (x : CbPort) : CbPort :=
      { x with downTicks := if x.st = 2 then 0 else x.downTicks + 1, refTicks := if x.st = 3 then x.refTicks + 1 else 0, silent := x.silent + 1 }
    { c with ports := (List.range 4).map fun p => (p, count (tget {} p c.ports))
             waiting := c.waiting.map fun e => (e.1, e.2.1, e.2.2.1, e.2.2.2.1, e.2.2.2.2 + 1) }

/-- Times of the serial ports: the option select, UART0's silence, each association's (15 R352, Table 15.4). -/
def serialTick (s : State) : State :=
  s.mapSer fun x => { x with optTicks := x.optTicks + 1, quiet0 := x.quiet0 + 1, assoc := x.assoc.map fun a => { a with idle := a.idle + 1 } }

/-- A HELLO goes out on each port in ALIGN and UP every 16 frames: sender depth, whether it has an address, its role (15 R358, R361). -/
def helloTick (s : State) : State :=
  if s.fnum % 16 ≠ 0 then s
  else
    let a := s.tb.depth % 32 + flagAt (hasAddr s) 5 + s.tb.role % 4 * 2 ^ 6
    s.mapCb fun c => { c with ports := c.ports.map fun e => (e.1, if e.2.st = 1 ∨ e.2.st = 2 then { e.2 with hello := some a } else e.2) }

/-- Excursions of the comparators, the slices and the probes. -/
def convTick (s : State) : State :=
  let run (e : Nat × Comparator) : Nat × Comparator := (e.1, { e.2 with run := if e.2.st = 2 ∨ e.2.st = 3 then e.2.run + 1 else 0 })
  probeTick (sliceTick (s.mapCv fun c => { c with cmps := c.cmps.map run, cmpp := c.cmpp.map run }))

/-- An overflow episode of a queue ends with the first frame without loss: its end sample (04 R106). -/
def queueTick (s : State) : State :=
  forEach (List.range 32) (fun s q =>
    let x := queueAt s q
    if x.ovfNow then s.setQueue q { x with ovfNow := false, ovfPrev := true }
    else if x.ovfPrev then
      endSample (s.setQueue q { x with ovfPrev := false, epis := 0 }) (if q < 16 then 0x48 else 0x49) q (x.epis : Nat)
    else s) s

/-- Counts of the supervisor: confirmation, watchdogs, the host port's silence, the scrub's rate (16 R377, R389; 14
R335; 15 R350; 08 R207). -/
def supTick (s : State) : State :=
  let wd := wdRuns s
  let s := s.mapSup fun u => { u with sealNow := false, wdlTicks := if wd then u.wdlTicks + 1 else u.wdlTicks,
                                      wdaTicks := if wd && u.apprun then u.wdaTicks + 1 else u.wdaTicks }
  let s := (s.mapHp fun h => { h with idle := h.idle + 1 }).mapLs fun l =>
    { l with scrubTicks := l.scrubTicks + 1, passWait := l.passWait - 1 }
  s.mapTr fun t => { t with confTicks := if t.confL || t.confA then t.confTicks + 1 else t.confTicks }

/-! ## Commits -/

/-- FRAME_NUMBER_COMMIT when counting has changed bits [47:20] (02 R34). A higher number committed ahead of a jump or a renumbering
stays. -/
def frameCommitTick (s : State) : State :=
  if s.fnum / 2 ^ 20 ≤ s.nv.frame.v.toNat / 2 ^ 20 then s else commitFrame s s.tb.frame

/-- The commits of a tick (08 Table 8.2): on change, and each second with the registers. None before the committed values are back. The seal
state is judged at every tick (11 R261). -/
def commitTick (s : State) : State :=
  let s := sealCheck (frameCommitTick s)
  if s.starting || s.sup.restored || s.sup.commit != .none then s
  else
    let s := commitList (onChange s) s
    if s.tb.ticks % 16000 = 0 then commitList (criticals s) s else s

/-- MAILBOX_SWAP: the buffer served to the application core (01 R22). -/
def mailboxTick (s : State) : State :=
  s.mapHp fun h => { h with mbox := { pub := s.met.pub, cal := workingCal s, calRef := s.met.calRef, calseq := s.met.calseq,
                                      calctl := s.met.calctl, nvCal := s.nv.cal, ls := s.ls, bl := s.bl, plan := s.plan, rtc := s.rtc } }

/-- All the counts, and the parts of the recorder, billing and display that a tick moves on. -/
def countTick (s : State) : State :=
  let s := queueTick (convTick (serialTick (helloTick (linkTick (faultTick (billTick (rtcTick (opsTick (supTick s)))))))))
  let s := tariffTick (if closesRun s then cmdCloseTick s else s)
  displayTick (clearTick s)

/-! ## The tick -/

/-- In BOOT the number, the counts of ticks, the operating time, the sub-second and the number's commit move (02 R28, R34, R37;
10 R238; 12 R283). -/
def bootTick (s : State) : State :=
  let s := s.mapTb fun t =>
    { t with frame := t.frame + 1, ticks := t.ticks + 1, secTicks := t.secTicks + 1
             missed := if t.markerSeen then 0 else t.missed + 1, markerSeen := false }
  frameCommitTick (subTick (opsTick s))

/-- The tick that ends the running frame and begins the next; START and token time count first, since refills come before the events of their
tick (16 R377, 12 R287). -/
def frameTick (s : State) (inp : TickInput) : State :=
  let s := applyRwl (s.mapSup fun u => { u with startTicks := u.startTicks + 1 })
  let f := s.tb.frame
  let st := s.sup.st
  let df := s.tb.df
  let s := endLaneFrame (endFrame s inp)
  let s := statesTick (aggTick (timebaseTick s))
  let s := injectionAct (beginLaneFrame (reinTick s) f st df)
  let s := metTick (liveTick (pqTick s))
  mailboxTick (commitTick (countTick s))

/-- A frame tick: none in OFF, BACKUP and in the reset hold. -/
def execFrameTick (inp : TickInput) (s : State) : Out :=
  if !s.powered then .next s
  else if s.sup.st = .boot ∧ !s.sup.recmon then .next (bootTick s)
  else .next (frameTick s inp)

end Sys2Proof.Machine
end

