-- ==== Sys2Proof/Machine/Dispatch.lean ====
section
/-! DEFINITION. The dispatch of the commands: one arm per row of the opcode table. -/

namespace Sys2Proof.Machine

def exec (i : Instr) (s : State) : Host.Outcome State Fault Refusal :=
  match i with
  | .frameTick inp => Sys2Proof.Machine.execFrameTick inp s
  | .rtcSecondEdge cyc => Sys2Proof.Machine.execRtcSecondEdge cyc s
  | .markerReceive m => Sys2Proof.Machine.execMarkerReceive m s
  | .probeTimer => Sys2Proof.Machine.execProbeTimer s
  | .probeBurst => Sys2Proof.Machine.execProbeBurst s
  | .probe port t2 t3 => Sys2Proof.Machine.execProbe port t2 t3 s
  | .probeReply t1 t2 t3 t4 => Sys2Proof.Machine.execProbeReply t1 t2 t3 t4 s
  | .timebaseLock => Sys2Proof.Machine.execTimebaseLock s
  | .acquireTimeout => Sys2Proof.Machine.execAcquireTimeout s
  | .missingMarkerTimeout => Sys2Proof.Machine.execMissingMarkerTimeout s
  | .relockPairing parent phase => Sys2Proof.Machine.execRelockPairing parent phase s
  | .frameRenumber => Sys2Proof.Machine.execFrameRenumber s
  | .report src number => Sys2Proof.Machine.execReport src number s
  | .conversionComplete slice slot taken raw => Sys2Proof.Machine.execConversionComplete slice slot taken raw s
  | .probeResult ch res => Sys2Proof.Machine.execProbeResult ch res s
  | .referenceCheck m0 m1 m2 m3 => Sys2Proof.Machine.execReferenceCheck m0 m1 m2 m3 s
  | .sliceCalUpdate slice cycle => Sys2Proof.Machine.execSliceCalUpdate slice cycle s
  | .startupCalibrationDone cycle => Sys2Proof.Machine.execStartupCalibrationDone cycle s
  | .settlingEnd => Sys2Proof.Machine.execSettlingEnd s
  | .comparatorDwellComplete point idx => Sys2Proof.Machine.execComparatorDwellComplete point idx s
  | .faultCaptureManual ch ap => Sys2Proof.Machine.execFaultCaptureManual ch ap s
  | .faultCapturePush => Sys2Proof.Machine.execFaultCapturePush s
  | .queueMarkerAppend q => Sys2Proof.Machine.execQueueMarkerAppend q s
  | .qpop0 req q => Sys2Proof.Machine.execQpop0 req q s
  | .qpush req q w0 w1 w2 w3 => Sys2Proof.Machine.execQpush req q w0 w1 w2 w3 s
  | .begin req => Sys2Proof.Machine.execBegin req s
  | .pldata req bytes => Sys2Proof.Machine.execPldata req bytes s
  | .verify req => Sys2Proof.Machine.execVerify req s
  | .verificationDone => Sys2Proof.Machine.execVerificationDone s
  | .activate req => Sys2Proof.Machine.execActivate req s
  | .cancel req => Sys2Proof.Machine.execCancel req s
  | .arm n => Sys2Proof.Machine.execArm n s
  | .commit => Sys2Proof.Machine.execCommit s
  | .commitDeadline => Sys2Proof.Machine.execCommitDeadline s
  | .selectorCommit => Sys2Proof.Machine.execSelectorCommit s
  | .planActivation => Sys2Proof.Machine.execPlanActivation s
  | .lockstepCompare upsets => Sys2Proof.Machine.execLockstepCompare upsets s
  | .rmsWindowClose bus half => Sys2Proof.Machine.execRmsWindowClose bus half s
  | .pulseStart out => Sys2Proof.Machine.execPulseStart out s
  | .pulseEnd out => Sys2Proof.Machine.execPulseEnd out s
  | .bandWindowEnd => Sys2Proof.Machine.execBandWindowEnd s
  | .bandPublish => Sys2Proof.Machine.execBandPublish s
  | .pqIntervalEnd tenMin => Sys2Proof.Machine.execPqIntervalEnd tenMin s
  | .hclr => Sys2Proof.Machine.execHclr s
  | .liveWindowEnd ch gain phs noisy => Sys2Proof.Machine.execLiveWindowEnd ch gain phs noisy s
  | .go req => Sys2Proof.Machine.execGo req s
  | .sprintStart => Sys2Proof.Machine.execSprintStart s
  | .sprintEnd => Sys2Proof.Machine.execSprintEnd s
  | .abort => Sys2Proof.Machine.execAbort s
  | .sprd0 req => Sys2Proof.Machine.execSprd0 req s
  | .pairRead req addr => Sys2Proof.Machine.execPairRead req addr s
  | .scrubSlot => Sys2Proof.Machine.execScrubSlot s
  | .reinstate req w => Sys2Proof.Machine.execReinstate req w s
  | .clruv req w => Sys2Proof.Machine.execClruv req w s
  | .knownAnswerTestDone failA failB => Sys2Proof.Machine.execKnownAnswerTestDone failA failB s
  | .lsinj w => Sys2Proof.Machine.execLsinj w s
  | .tariffSwitch => Sys2Proof.Machine.execTariffSwitch s
  | .demandIntervalEnd => Sys2Proof.Machine.execDemandIntervalEnd s
  | .billingCloseRule => Sys2Proof.Machine.execBillingCloseRule s
  | .blcmd req w => Sys2Proof.Machine.execBlcmd req w s
  | .tariffFallbackApply => Sys2Proof.Machine.execTariffFallbackApply s
  | .crystalStop => Sys2Proof.Machine.execCrystalStop s
  | .crystalRestore => Sys2Proof.Machine.execCrystalRestore s
  | .slateSupplySwitch cell => Sys2Proof.Machine.execSlateSupplySwitch cell s
  | .vbatLow mv => Sys2Proof.Machine.execVbatLow mv s
  | .slateColdStart => Sys2Proof.Machine.execSlateColdStart s
  | .halt req sub relpps => Sys2Proof.Machine.execHalt req sub relpps s
  | .rtcTimeWrite req lo hi => Sys2Proof.Machine.execRtcTimeWrite req lo hi s
  | .clockSet req dur => Sys2Proof.Machine.execClockSet req dur s
  | .haltTimeout => Sys2Proof.Machine.execHaltTimeout s
  | .clockSetRecord => Sys2Proof.Machine.execClockSetRecord s
  | .rtccapGo sub cyc => Sys2Proof.Machine.execRtccapGo sub cyc s
  | .ppsEdge interval offset dur => Sys2Proof.Machine.execPpsEdge interval offset dur s
  | .ppsLoss => Sys2Proof.Machine.execPpsLoss s
  | .sealPinChange low => Sys2Proof.Machine.execSealPinChange low s
  | .sealDebounceComplete => Sys2Proof.Machine.execSealDebounceComplete s
  | .sealOpenDecision => Sys2Proof.Machine.execSealOpenDecision s
  | .tamperStaticEvent held => Sys2Proof.Machine.execTamperStaticEvent held s
  | .loopBurst missing => Sys2Proof.Machine.execLoopBurst missing s
  | .tamperWindowClose src => Sys2Proof.Machine.execTamperWindowClose src s
  | .secondEvaluator upset => Sys2Proof.Machine.execSecondEvaluator upset s
  | .dieTempSample t => Sys2Proof.Machine.execDieTempSample t s
  | .supplyGlitch => Sys2Proof.Machine.execSupplyGlitch s
  | .tpclr req w => Sys2Proof.Machine.execTpclr req w s
  | .rwlRequestAnswer => Sys2Proof.Machine.execRwlRequestAnswer s
  | .legalRequest => Sys2Proof.Machine.execLegalRequest s
  | .eventRaise code chan v => Sys2Proof.Machine.execEventRaise code chan v s
  | .summaryWindowClose code chan => Sys2Proof.Machine.execSummaryWindowClose code chan s
  | .tokenRefill code => Sys2Proof.Machine.execTokenRefill code s
  | .privilegedEntryWrite => Sys2Proof.Machine.execPrivilegedEntryWrite s
  | .erpack req ack d0 d1 => Sys2Proof.Machine.execErpack req ack d0 d1 s
  | .ersclr req => Sys2Proof.Machine.execErsclr req s
  | .summaryClearPassEnd => Sys2Proof.Machine.execSummaryClearPassEnd s
  | .erwin15Read req => Sys2Proof.Machine.execErwin15Read req s
  | .displayPowerUp => Sys2Proof.Machine.execDisplayPowerUp s
  | .railGood rail => Sys2Proof.Machine.execRailGood rail s
  | .railFault rail => Sys2Proof.Machine.execRailFault rail s
  | .railRetry => Sys2Proof.Machine.execRailRetry s
  | .displayPowerDown forced => Sys2Proof.Machine.execDisplayPowerDown forced s
  | .driveStep missed => Sys2Proof.Machine.execDriveStep missed s
  | .pload req => Sys2Proof.Machine.execPload req s
  | .dpfree req r w => Sys2Proof.Machine.execDpfree req r w s
  | .scrollDwellExpiry => Sys2Proof.Machine.execScrollDwellExpiry s
  | .buttonPress => Sys2Proof.Machine.execButtonPress s
  | .buttonLongPress => Sys2Proof.Machine.execButtonLongPress s
  | .autoScrollResume => Sys2Proof.Machine.execAutoScrollResume s
  | .itemRedraw => Sys2Proof.Machine.execItemRedraw s
  | .bootStages keyOk pub => Sys2Proof.Machine.execBootStages keyOk pub s
  | .trfwctlBegin req app => Sys2Proof.Machine.execTrfwctlBegin req app s
  | .trfwdata req bytes => Sys2Proof.Machine.execTrfwdata req bytes s
  | .trfwctlVerify req => Sys2Proof.Machine.execTrfwctlVerify req s
  | .accept req => Sys2Proof.Machine.execAccept req s
  | .reset req => Sys2Proof.Machine.execReset req s
  | .confirm req => Sys2Proof.Machine.execConfirm req s
  | .confirmTimeout app => Sys2Proof.Machine.execConfirmTimeout app s
  | .quoteRequest path nonce => Sys2Proof.Machine.execQuoteRequest path nonce s
  | .quoteGenerate => Sys2Proof.Machine.execQuoteGenerate s
  | .quoteComplete => Sys2Proof.Machine.execQuoteComplete s
  | .trkctlGo req w => Sys2Proof.Machine.execTrkctlGo req w s
  | .userTagWrite req addr bytes => Sys2Proof.Machine.execUserTagWrite req addr bytes s
  | .tagDigestUpdate => Sys2Proof.Machine.execTagDigestUpdate s
  | .read req addr len wire => Sys2Proof.Machine.execRead req addr len wire s
  | .write req addr bytes wire => Sys2Proof.Machine.execWrite req addr bytes wire s
  | .poll wire => Sys2Proof.Machine.execPoll wire s
  | .unknownCommand byte => Sys2Proof.Machine.execUnknownCommand byte s
  | .scsAbort => Sys2Proof.Machine.execScsAbort s
  | .hostTimeout => Sys2Proof.Machine.execHostTimeout s
  | .registerWrite req addr w => Sys2Proof.Machine.execRegisterWrite req addr w s
  | .signOn phys => Sys2Proof.Machine.execSignOn phys s
  | .optionSelect proto y z => Sys2Proof.Machine.execOptionSelect proto y z s
  | .optionSelectTimeout => Sys2Proof.Machine.execOptionSelectTimeout s
  | .hdlcStart => Sys2Proof.Machine.execHdlcStart s
  | .hdlcFrame port upper lower => Sys2Proof.Machine.execHdlcFrame port upper lower s
  | .disc port client upper => Sys2Proof.Machine.execDisc port client upper s
  | .aarq port client upper auth ciphered authOk => Sys2Proof.Machine.execAarq port client upper auth ciphered authOk s
  | .get port client upper addr => Sys2Proof.Machine.execGet port client upper addr s
  | .set port client upper addr w => Sys2Proof.Machine.execSet port client upper addr w s
  | .dlmsAction port client upper addr w => Sys2Proof.Machine.execDlmsAction port client upper addr w s
  | .inactivityTimeout port client upper => Sys2Proof.Machine.execInactivityTimeout port client upper s
  | .dataNotification => Sys2Proof.Machine.execDataNotification s
  | .keyAssociationRelease => Sys2Proof.Machine.execKeyAssociationRelease s
  | .commaAlign port => Sys2Proof.Machine.execCommaAlign port s
  | .hello port depth hasAddr role => Sys2Proof.Machine.execHello port depth hasAddr role s
  | .portDown port cause => Sys2Proof.Machine.execPortDown port cause s
  | .portRefusedRetry port => Sys2Proof.Machine.execPortRefusedRetry port s
  | .cbctlWrite req w => Sys2Proof.Machine.execCbctlWrite req w s
  | .enum addr => Sys2Proof.Machine.execEnum addr s
  | .enumDone port hi => Sys2Proof.Machine.execEnumDone port hi s
  | .ack port hseq => Sys2Proof.Machine.execAck port hseq s
  | .nak port hseq => Sys2Proof.Machine.execNak port hseq s
  | .resendTimeout port hseq => Sys2Proof.Machine.execResendTimeout port hseq s
  | .cmd hdr op addr len data => Sys2Proof.Machine.execCmd hdr op addr len data s
  | .opRead hdr addr len => Sys2Proof.Machine.execOpRead hdr addr len s
  | .opWrite hdr addr data => Sys2Proof.Machine.execOpWrite hdr addr data s
  | .opQuote hdr nonce => Sys2Proof.Machine.execOpQuote hdr nonce s
  | .aggdef hdr arg mask => Sys2Proof.Machine.execAggdef hdr arg mask s
  | .rsp hdr op addr status data => Sys2Proof.Machine.execRsp hdr op addr status data s
  | .chainResponseTimeout dst tag => Sys2Proof.Machine.execChainResponseTimeout dst tag s
  | .agg hdr aid flags points frame value => Sys2Proof.Machine.execAgg hdr aid flags points frame value s
  | .powerFailWarning pin => Sys2Proof.Machine.execPowerFailWarning pin s
  | .powerOn clksel => Sys2Proof.Machine.execPowerOn clksel s
  | .mainPowerLoss => Sys2Proof.Machine.execMainPowerLoss s
  | .slatePowerLoss => Sys2Proof.Machine.execSlatePowerLoss s
  | .bootComplete => Sys2Proof.Machine.execBootComplete s
  | .startSequence katA katB => Sys2Proof.Machine.execStartSequence katA katB s
  | .runEntry => Sys2Proof.Machine.execRunEntry s
  | .recoveryEntry => Sys2Proof.Machine.execRecoveryEntry s
  | .mdctlReqRun req => Sys2Proof.Machine.execMdctlReqRun req s
  | .mdctlReqCalibrate req => Sys2Proof.Machine.execMdctlReqCalibrate req s
  | .mdctlReqTest req => Sys2Proof.Machine.execMdctlReqTest req s
  | .recov req => Sys2Proof.Machine.execRecov req s
  | .faultySliceReset => Sys2Proof.Machine.execFaultySliceReset s
  | .powerFailCommit dur => Sys2Proof.Machine.execPowerFailCommit dur s
  | .resetRelease => Sys2Proof.Machine.execResetRelease s
  | .thermalSample t => Sys2Proof.Machine.execThermalSample t s
  | .wdlkick req w => Sys2Proof.Machine.execWdlkick req w s
  | .legalWatchdogExpiry => Sys2Proof.Machine.execLegalWatchdogExpiry s
  | .wdakick req w => Sys2Proof.Machine.execWdakick req w s
  | .appWatchdogExpiry => Sys2Proof.Machine.execAppWatchdogExpiry s
  | .calibrationWrite req addr v n => Sys2Proof.Machine.execCalibrationWrite req addr v n s
  | .calctlCommit req => Sys2Proof.Machine.execCalctlCommit req s
  | .calctlDiscard req => Sys2Proof.Machine.execCalctlDiscard req s
  | .messageCrcError port => Sys2Proof.Machine.execMessageCrcError port s
  | .codeViolation port => Sys2Proof.Machine.execCodeViolation port s
  | .vbatlowClear => Sys2Proof.Machine.execVbatlowClear s
  | .railDischarged rail => Sys2Proof.Machine.execRailDischarged rail s

end Sys2Proof.Machine
end

