-- ==== Sys2Proof/WellFormed.lean ====
section
/-! DEFINITION. Well-formed commands: every operand that names a unit of the device names one it has. -/

namespace Sys2Proof

open Machine

/-- Every unit the command names exists (01 R14 and the index ranges of the register tables). A command without such an operand is
well-formed. -/
def Instr.wf : Instr → Bool
  | .conversionComplete slice slot taken _ => isSlice slice && isSlot slot && taken.all isChannel
  | .probeResult ch _ => isMainChannel ch
  | .sliceCalUpdate slice _ => isSlice slice
  | .comparatorDwellComplete point idx => isComparator point idx
  | .faultCaptureManual ch ap => isChannel ch && isAperture ap
  | .queueMarkerAppend q => isQueue q
  | .qpop0 _ q => isQueue q
  | .qpush _ q _ _ _ _ => isPushQueue q
  | .probe port _ _ => isPort port && port != 0
  | .rmsWindowClose bus _ => isBus bus
  | .pulseStart out => isOutput out
  | .pulseEnd out => isOutput out
  | .liveWindowEnd ch _ _ _ => isLiveChannel ch
  | .tamperStaticEvent held => isPin held.pin
  | .tamperWindowClose src => isSource src
  | .railGood rail => isRail rail
  | .railFault rail => isRail rail
  | .railDischarged rail => isRail rail
  | .dpfree _ r _ => isFreeRegion r
  | .commaAlign port => isPort port
  | .hello port _ _ _ => isPort port
  | .portDown port _ => isPort port
  | .portRefusedRetry port => isPort port
  | .ack port _ => isPort port
  | .nak port _ => isPort port
  | .resendTimeout port _ => isPort port
  | .messageCrcError port => isPort port
  | .codeViolation port => isPort port
  | .frameTick _ | .rtcSecondEdge _ | .markerReceive _ | .probeTimer | .probeBurst | .probeReply _ _ _ _ |
    .timebaseLock | .acquireTimeout | .missingMarkerTimeout | .relockPairing _ _ | .frameRenumber | .report _ _ |
    .referenceCheck _ _ _ _ | .startupCalibrationDone _ | .settlingEnd | .faultCapturePush | .begin _ | .pldata _ _ |
    .verify _ | .verificationDone | .activate _ | .cancel _ | .arm _ | .commit | .commitDeadline | .selectorCommit |
    .planActivation | .lockstepCompare _ | .bandWindowEnd | .bandPublish | .pqIntervalEnd _ | .hclr | .go _ |
    .sprintStart | .sprintEnd | .abort | .sprd0 _ | .pairRead _ _ | .scrubSlot | .reinstate _ _ | .clruv _ _ |
    .knownAnswerTestDone _ _ | .lsinj _ | .tariffSwitch | .demandIntervalEnd | .billingCloseRule | .blcmd _ _ |
    .tariffFallbackApply | .crystalStop | .crystalRestore | .slateSupplySwitch _ | .vbatLow _ | .slateColdStart |
    .halt _ _ _ | .rtcTimeWrite _ _ _ | .clockSet _ _ | .haltTimeout | .clockSetRecord | .rtccapGo _ _ |
    .ppsEdge _ _ _ | .ppsLoss | .sealPinChange _ | .sealDebounceComplete | .sealOpenDecision | .loopBurst _ |
    .secondEvaluator _ | .dieTempSample _ | .supplyGlitch | .tpclr _ _ | .rwlRequestAnswer | .legalRequest |
    .eventRaise _ _ _ | .summaryWindowClose _ _ | .tokenRefill _ | .privilegedEntryWrite | .erpack _ _ _ _ |
    .ersclr _ | .summaryClearPassEnd | .erwin15Read _ | .displayPowerUp | .railRetry | .displayPowerDown _ |
    .driveStep _ | .pload _ | .scrollDwellExpiry | .buttonPress | .buttonLongPress | .autoScrollResume | .itemRedraw |
    .bootStages _ _ | .trfwctlBegin _ _ | .trfwdata _ _ | .trfwctlVerify _ | .accept _ | .reset _ | .confirm _ |
    .confirmTimeout _ | .quoteRequest _ _ | .quoteGenerate | .quoteComplete | .trkctlGo _ _ | .userTagWrite _ _ _ |
    .tagDigestUpdate | .read _ _ _ _ | .write _ _ _ _ | .poll _ | .unknownCommand _ | .scsAbort | .hostTimeout |
    .registerWrite _ _ _ | .signOn _ | .optionSelect _ _ _ | .optionSelectTimeout | .hdlcStart | .hdlcFrame _ _ _ |
    .disc _ _ _ | .aarq _ _ _ _ _ _ | .get _ _ _ _ | .set _ _ _ _ _ | .dlmsAction _ _ _ _ _ |
    .inactivityTimeout _ _ _ | .dataNotification | .keyAssociationRelease | .cbctlWrite _ _ | .enum _ |
    .enumDone _ _ | .cmd _ _ _ _ _ | .opRead _ _ _ | .opWrite _ _ _ | .opQuote _ _ | .aggdef _ _ _ | .rsp _ _ _ _ _ |
    .chainResponseTimeout _ _ | .agg _ _ _ _ _ _ | .powerFailWarning _ | .powerOn _ | .mainPowerLoss |
    .slatePowerLoss | .bootComplete | .startSequence _ _ | .runEntry | .recoveryEntry | .mdctlReqRun _ |
    .mdctlReqCalibrate _ | .mdctlReqTest _ | .recov _ | .faultySliceReset | .powerFailCommit _ | .resetRelease |
    .thermalSample _ | .wdlkick _ _ | .legalWatchdogExpiry | .wdakick _ _ | .appWatchdogExpiry |
    .calibrationWrite _ _ _ _ | .calctlCommit _ | .calctlDiscard _ | .vbatlowClear => true

end Sys2Proof
end

