-- ==== Sys2Proof/Safety.lean ====
section
/-! DEFINITION. What a run is and what counts as a safe one, the parts of the state that a frame statement names, and the invariants
that every command keeps. -/

namespace Sys2Proof

open Machine

/-! ## Runs -/

/-- n steps, stopping at the first fault or refusal. -/
def runSteps : Nat → State → Out
  | 0, s => .next s
  | n + 1, s =>
    match step s with
    | .next t => runSteps n t
    | .fault r => .fault r
    | .refused r => .refused r

/-- Every waiting command is well-formed: it names only units the device has. -/
def CommandsWf (s : State) : Prop := ∀ c ∈ s.pending, c.wf = true

/-- A safe run: n steps that stop at no fault and no refusal. -/
def SafeFor (n : Nat) (s : State) : Prop := ∃ t, runSteps n s = .next t

/-! ## Parts of the state -/

/-- The parts of the state: the queue of commands, one part per chapter group, the counter of free values, and five single values
inside their groups: the frame number, the operating state, the seal's state, the plan in force, and the clock's second and
sub-second. -/
inductive Part where
  | pending | sup | tb | fe | cv | qu | pl | met | pq | ls | bl | rtc | tp | er | dp | tr | hp | ser | cb | nv | fresh
  | frame | mode | seal | plan | clock
deriving DecidableEq, Repr

/-- A part reads the same in two states. -/
def same (s t : State) : Part → Prop
  | .pending => t.pending = s.pending
  | .sup => t.sup = s.sup
  | .tb => t.tb = s.tb
  | .fe => t.fe = s.fe
  | .cv => t.cv = s.cv
  | .qu => t.qu = s.qu
  | .pl => t.pl = s.pl
  | .met => t.met = s.met
  | .pq => t.pq = s.pq
  | .ls => t.ls = s.ls
  | .bl => t.bl = s.bl
  | .rtc => t.rtc = s.rtc
  | .tp => t.tp = s.tp
  | .er => t.er = s.er
  | .dp => t.dp = s.dp
  | .tr => t.tr = s.tr
  | .hp => t.hp = s.hp
  | .ser => t.ser = s.ser
  | .cb => t.cb = s.cb
  | .nv => t.nv = s.nv
  | .fresh => t.fresh = s.fresh
  | .frame => t.tb.frame = s.tb.frame
  | .mode => t.sup.st = s.sup.st
  | .seal => t.tp.sealSt = s.tp.sealSt
  | .plan => t.pl.act = s.pl.act
  | .clock => (t.rtc.sec, t.rtc.sub) = (s.rtc.sec, s.rtc.sub)

/-- Every part outside `ps` is unchanged. A group that is listed may change, but not a single value of it that is not listed. -/
def Only (ps : List Part) (s t : State) : Prop := ∀ p, ps.contains p = false → same s t p

/-! ## What each command can change -/

/-- The parts of the state that a command can change; every other part it leaves as it is. -/
def partsOf : Instr → List Part
  | .frameTick _ => [.sup, .tb, .fe, .cv, .qu, .pl, .met, .pq, .ls, .bl, .rtc, .tp, .er, .dp, .tr, .hp, .ser, .cb, .nv, .fresh, .frame, .mode, .seal, .clock]
  | .rtcSecondEdge _ => [.tb, .qu, .bl, .rtc, .tp, .er, .hp, .ser, .fresh, .clock]
  | .markerReceive _ => [.tb, .qu, .ls, .er, .hp, .cb, .nv, .fresh]
  | .probeTimer => [.tb, .cb]
  | .probeBurst => [.tb]
  | .probe _ _ _ => [.cb]
  | .probeReply _ _ _ _ => [.tb]
  | .timebaseLock => [.tb]
  | .acquireTimeout => [.tb]
  | .missingMarkerTimeout => [.tb, .qu, .er, .hp]
  | .relockPairing _ _ => [.tb, .qu, .ls, .er, .hp, .cb, .nv]
  | .frameRenumber => [.tb, .qu, .er, .hp, .cb, .frame]
  | .report _ _ => [.tb, .qu, .ls, .er, .hp, .cb, .nv]
  | .conversionComplete _ _ _ _ => [.cv]
  | .probeResult _ _ => [.fe, .qu, .er, .hp]
  | .referenceCheck _ _ _ _ => [.fe, .qu, .er, .hp]
  | .sliceCalUpdate _ _ => [.cv, .qu, .er, .hp]
  | .startupCalibrationDone _ => [.cv, .qu, .er, .hp]
  | .settlingEnd => [.cv]
  | .comparatorDwellComplete _ _ => [.cv, .qu, .er, .hp]
  | .faultCaptureManual _ _ => [.cv, .qu, .er, .hp]
  | .faultCapturePush => [.cv, .qu, .er, .hp]
  | .queueMarkerAppend _ => [.qu, .hp]
  | .qpop0 _ _ => [.qu, .hp]
  | .qpush _ _ _ _ _ _ => [.qu, .er, .hp, .cb]
  | .begin _ => [.qu, .pl, .met, .ls, .bl, .tp, .er, .hp, .nv, .seal]
  | .pldata _ _ => [.pl, .nv]
  | .verify _ => [.pl]
  | .verificationDone => [.pl, .hp, .nv]
  | .activate _ => [.qu, .pl, .met, .ls, .bl, .tp, .er, .hp, .nv, .seal]
  | .cancel _ => [.qu, .pl, .met, .ls, .bl, .tp, .er, .hp, .nv, .seal]
  | .arm _ => [.qu, .pl, .met, .ls, .bl, .tp, .er, .hp, .cb, .nv, .seal]
  | .commit => [.qu, .pl, .met, .ls, .bl, .tp, .er, .hp, .cb, .nv, .seal]
  | .commitDeadline => [.qu, .pl, .met, .ls, .bl, .tp, .er, .hp, .nv, .seal]
  | .selectorCommit => [.qu, .pl, .met, .ls, .bl, .tp, .er, .hp, .nv, .seal]
  | .planActivation => [.sup, .fe, .cv, .qu, .pl, .met, .pq, .ls, .bl, .tp, .er, .tr, .hp, .nv, .seal, .plan]
  | .lockstepCompare _ => [.qu, .met, .ls, .er, .hp]
  | .rmsWindowClose _ _ => [.cv, .qu, .met, .pq, .bl, .tp, .er, .hp, .ser, .fresh]
  | .pulseStart _ => [.qu, .pl, .met, .ls, .bl, .tp, .er, .hp, .nv, .seal]
  | .pulseEnd _ => [.met]
  | .bandWindowEnd => [.pq]
  | .bandPublish => [.pq, .fresh]
  | .pqIntervalEnd _ => [.qu, .pq, .er, .hp]
  | .hclr => [.pq]
  | .liveWindowEnd _ _ _ _ => [.qu, .pq, .er, .hp]
  | .go _ => [.pq]
  | .sprintStart => [.pq]
  | .sprintEnd => [.qu, .pq, .er, .hp]
  | .abort => [.pq]
  | .sprd0 _ => [.pq, .hp]
  | .pairRead _ _ => [.qu, .pl, .met, .ls, .bl, .tp, .er, .hp, .nv, .seal]
  | .scrubSlot => [.qu, .ls, .bl, .er, .hp, .nv]
  | .reinstate _ _ => [.sup, .qu, .met, .ls, .tp, .er, .hp]
  | .clruv _ _ => [.sup, .qu, .met, .ls, .tp, .er, .hp]
  | .knownAnswerTestDone _ _ => [.qu, .ls, .tp, .er, .hp]
  | .lsinj _ => [.qu, .ls, .er, .hp]
  | .tariffSwitch => [.qu, .bl, .er, .hp]
  | .demandIntervalEnd => [.qu, .bl, .er, .hp]
  | .billingCloseRule => [.qu, .bl, .er, .hp]
  | .blcmd _ _ => [.hp]
  | .tariffFallbackApply => [.qu, .bl, .er, .hp]
  | .crystalStop => [.tb, .qu, .bl, .rtc, .tp, .er, .hp, .ser]
  | .crystalRestore => [.rtc]
  | .slateSupplySwitch _ => [.tb, .qu, .bl, .rtc, .tp, .er, .hp]
  | .vbatLow _ => [.tb, .qu, .bl, .rtc, .tp, .er, .hp, .ser]
  | .slateColdStart => [.sup, .rtc, .tp, .er, .mode, .seal, .clock]
  | .halt _ _ _ => [.tb, .rtc, .er, .hp, .clock]
  | .rtcTimeWrite _ _ _ => [.qu, .rtc, .er, .hp]
  | .clockSet _ _ => [.tb, .qu, .bl, .rtc, .tp, .er, .hp, .clock]
  | .haltTimeout => [.tb, .qu, .bl, .rtc, .tp, .er, .hp, .clock]
  | .clockSetRecord => [.qu, .pq, .bl, .rtc, .er, .hp]
  | .rtccapGo _ _ => [.rtc]
  | .ppsEdge _ _ _ => [.tb, .qu, .bl, .rtc, .tp, .er, .hp, .clock]
  | .ppsLoss => [.qu, .rtc, .er, .hp]
  | .sealPinChange _ => [.qu, .bl, .rtc, .tp, .er, .hp, .ser]
  | .sealDebounceComplete => [.sup, .qu, .met, .ls, .rtc, .tp, .er, .hp, .seal]
  | .sealOpenDecision => [.qu, .tp, .er, .hp, .seal]
  | .tamperStaticEvent _ => [.qu, .bl, .rtc, .tp, .er, .hp, .ser]
  | .loopBurst _ => [.qu, .bl, .rtc, .tp, .er, .hp, .ser]
  | .tamperWindowClose _ => [.qu, .rtc, .tp, .er, .hp]
  | .secondEvaluator _ => [.qu, .pl, .met, .pq, .ls, .bl, .rtc, .tp, .er, .tr, .hp, .cb, .nv, .fresh, .seal]
  | .dieTempSample _ => [.qu, .bl, .rtc, .tp, .er, .hp, .ser]
  | .supplyGlitch => [.qu, .bl, .rtc, .tp, .er, .hp, .ser]
  | .tpclr _ _ => [.sup, .qu, .met, .ls, .tp, .er, .hp]
  | .rwlRequestAnswer => [.sup, .qu, .met, .ls, .tp, .er, .hp]
  | .legalRequest => [.sup, .tb, .fe, .cv, .qu, .pl, .met, .pq, .ls, .bl, .rtc, .tp, .er, .dp, .tr, .hp, .ser, .cb, .nv, .fresh, .seal, .clock]
  | .eventRaise _ _ _ => [.qu, .er, .hp]
  | .summaryWindowClose _ _ => [.er, .hp]
  | .tokenRefill _ => [.er]
  | .privilegedEntryWrite => [.er, .hp]
  | .erpack _ _ _ _ => [.hp]
  | .ersclr _ => [.hp]
  | .summaryClearPassEnd => [.er, .hp]
  | .erwin15Read _ => [.er]
  | .displayPowerUp => [.qu, .er, .dp, .hp]
  | .railGood _ => [.dp, .fresh]
  | .railFault _ => [.qu, .er, .dp, .hp]
  | .railRetry => [.qu, .er, .dp, .hp]
  | .displayPowerDown _ => [.dp]
  | .driveStep _ => [.qu, .er, .dp, .hp, .fresh]
  | .pload _ => [.qu, .er, .dp, .hp]
  | .dpfree _ _ _ => [.dp]
  | .scrollDwellExpiry => [.qu, .pl, .met, .ls, .bl, .tp, .er, .dp, .hp, .nv, .seal]
  | .buttonPress => [.qu, .pl, .met, .ls, .bl, .tp, .er, .dp, .hp, .nv, .seal]
  | .buttonLongPress => [.qu, .pl, .met, .ls, .bl, .tp, .er, .dp, .hp, .nv, .seal]
  | .autoScrollResume => [.dp]
  | .itemRedraw => [.qu, .pl, .met, .ls, .bl, .tp, .er, .dp, .hp, .nv, .seal]
  | .bootStages _ _ => [.sup, .qu, .er, .tr, .hp, .fresh]
  | .trfwctlBegin _ _ => [.tr]
  | .trfwdata _ _ => [.tr]
  | .trfwctlVerify _ => [.qu, .er, .tr, .hp]
  | .accept _ => [.qu, .tp, .er, .tr, .hp]
  | .reset _ => [.sup, .hp]
  | .confirm _ => [.tr]
  | .confirmTimeout _ => [.sup, .tr]
  | .quoteRequest _ _ => [.qu, .er, .tr, .hp, .cb]
  | .quoteGenerate => [.tr]
  | .quoteComplete => [.qu, .er, .tr, .hp, .cb]
  | .trkctlGo _ _ => [.qu, .tp, .er, .tr, .hp]
  | .userTagWrite _ _ _ => [.tr]
  | .tagDigestUpdate => [.qu, .er, .tr, .hp]
  | .read _ _ _ _ => [.qu, .pl, .met, .pq, .ls, .bl, .tp, .er, .hp, .nv, .seal]
  | .write _ _ _ _ => [.sup, .tb, .fe, .cv, .qu, .pl, .met, .pq, .ls, .bl, .rtc, .tp, .er, .dp, .tr, .hp, .ser, .cb, .nv, .fresh, .seal, .clock]
  | .poll _ => [.qu, .er, .hp]
  | .unknownCommand _ => [.hp]
  | .scsAbort => [.qu, .er, .hp]
  | .hostTimeout => [.qu, .er, .hp]
  | .registerWrite _ _ _ => [.sup, .tb, .fe, .cv, .qu, .pl, .met, .pq, .ls, .bl, .rtc, .tp, .er, .dp, .tr, .hp, .ser, .cb, .nv, .fresh, .seal, .clock]
  | .signOn _ => [.ser]
  | .optionSelect _ _ _ => [.ser]
  | .optionSelectTimeout => [.ser]
  | .hdlcStart => [.ser]
  | .hdlcFrame _ _ _ => [.ser]
  | .disc _ _ _ => [.ser]
  | .aarq _ _ _ _ _ _ => [.qu, .er, .hp, .ser]
  | .get _ _ _ _ => [.qu, .pl, .met, .pq, .ls, .bl, .tp, .er, .hp, .ser, .nv, .seal]
  | .set _ _ _ _ _ => [.sup, .tb, .fe, .cv, .qu, .pl, .met, .pq, .ls, .bl, .rtc, .tp, .er, .dp, .tr, .hp, .ser, .cb, .nv, .fresh, .seal, .clock]
  | .dlmsAction _ _ _ _ _ => [.sup, .tb, .fe, .cv, .qu, .pl, .met, .pq, .ls, .bl, .rtc, .tp, .er, .dp, .tr, .hp, .ser, .cb, .nv, .fresh, .seal, .clock]
  | .inactivityTimeout _ _ _ => [.ser]
  | .dataNotification => [.ser]
  | .keyAssociationRelease => [.ser]
  | .commaAlign _ => [.hp, .cb]
  | .hello _ _ _ _ => [.tb, .qu, .er, .hp, .cb]
  | .portDown _ _ => [.qu, .er, .hp, .cb]
  | .portRefusedRetry _ => [.hp, .cb]
  | .cbctlWrite _ _ => [.qu, .er, .hp, .cb]
  | .enum _ => [.qu, .er, .hp, .cb]
  | .enumDone _ _ => [.qu, .er, .hp, .cb]
  | .ack _ _ => [.cb]
  | .nak _ _ => [.qu, .er, .hp, .cb]
  | .resendTimeout _ _ => [.qu, .er, .hp, .cb]
  | .cmd _ _ _ _ _ => [.qu, .er, .hp, .cb]
  | .opRead _ _ _ => [.qu, .pl, .met, .pq, .ls, .bl, .tp, .er, .hp, .cb, .nv, .seal]
  | .opWrite _ _ _ => [.sup, .tb, .fe, .cv, .qu, .pl, .met, .pq, .ls, .bl, .rtc, .tp, .er, .dp, .tr, .hp, .ser, .cb, .nv, .fresh, .seal, .clock]
  | .opQuote _ _ => [.qu, .er, .tr, .hp, .cb]
  | .aggdef _ _ _ => [.qu, .er, .hp, .cb]
  | .rsp _ _ _ _ _ => [.qu, .er, .hp, .cb]
  | .chainResponseTimeout _ _ => [.qu, .er, .hp, .cb]
  | .agg _ _ _ _ _ _ => [.qu, .er, .hp, .cb]
  | .powerFailWarning _ => [.sup, .hp, .cb]
  | .powerOn _ => [.sup, .tb, .fe, .cv, .qu, .pl, .met, .pq, .ls, .bl, .rtc, .tp, .er, .dp, .tr, .hp, .ser, .cb, .nv, .fresh, .frame, .mode, .seal, .plan, .clock]
  | .mainPowerLoss => [.sup, .mode]
  | .slatePowerLoss => [.sup, .rtc, .tp, .er, .mode, .seal, .clock]
  | .bootComplete => [.sup, .tb, .fe, .cv, .qu, .pl, .met, .pq, .er, .tr, .hp, .mode, .plan]
  | .startSequence _ _ => [.sup, .fe, .cv, .qu, .pl, .met, .pq, .ls, .bl, .tp, .er, .hp, .ser, .nv, .fresh, .seal, .plan]
  | .runEntry => [.sup, .qu, .pl, .met, .pq, .ls, .bl, .rtc, .tp, .er, .hp, .ser, .nv, .mode, .seal, .plan]
  | .recoveryEntry => [.sup, .fe, .cv, .qu, .pl, .met, .pq, .ls, .bl, .rtc, .tp, .er, .tr, .hp, .ser, .nv, .mode, .seal, .plan]
  | .mdctlReqRun _ => [.sup, .qu, .met, .ls, .tp, .er, .hp]
  | .mdctlReqCalibrate _ => [.sup, .qu, .met, .ls, .tp, .er, .hp]
  | .mdctlReqTest _ => [.sup, .qu, .met, .ls, .tp, .er, .hp]
  | .recov _ => [.sup, .qu, .met, .ls, .tp, .er, .hp]
  | .faultySliceReset => [.sup, .cv, .qu, .er, .hp]
  | .powerFailCommit _ => [.sup, .qu, .pl, .met, .pq, .ls, .bl, .tp, .er, .dp, .hp, .nv, .mode, .seal]
  | .resetRelease => [.sup, .tb, .fe, .cv, .qu, .pl, .met, .pq, .ls, .bl, .rtc, .tp, .er, .dp, .tr, .hp, .ser, .cb, .nv, .fresh, .frame, .mode, .seal, .plan, .clock]
  | .thermalSample _ => [.sup, .qu, .er, .hp, .cb]
  | .wdlkick _ _ => [.sup, .qu, .er, .hp]
  | .legalWatchdogExpiry => [.sup, .qu, .er, .hp]
  | .wdakick _ _ => [.sup, .qu, .pl, .met, .ls, .bl, .tp, .er, .tr, .hp, .ser, .nv, .seal]
  | .appWatchdogExpiry => [.sup, .qu, .pl, .met, .ls, .bl, .tp, .er, .tr, .hp, .ser, .nv, .seal]
  | .calibrationWrite _ _ _ _ => [.sup, .qu, .met, .ls, .tp, .er, .hp]
  | .calctlCommit _ => [.sup, .qu, .met, .ls, .tp, .er, .hp]
  | .calctlDiscard _ => [.sup, .qu, .met, .ls, .tp, .er, .hp]
  | .messageCrcError _ => [.cb]
  | .codeViolation _ => [.cb]
  | .vbatlowClear => [.rtc, .fresh]
  | .railDischarged _ => [.dp]

/-! ## Invariants -/

/-- The clock reads a second of its range and a sub-second of 15 bits (10 R238). -/
def ClockInRange (s : State) : Prop := s.rtc.sec ≤ rtcMax ∧ s.rtc.sub < 32768

/-- At the last second of its range the clock is invalid (10 R240). -/
def ClockEndInvalid (s : State) : Prop := s.rtc.sec = rtcMax → s.rtc.valid = false

end Sys2Proof
end

