-- ==== Sys2Proof/Certificates/Slice0/Obligations.lean ====
section
/-! DEFINITION. The statements about the model: what its queue, its commands and its invariants do, by the rules of the spec. A docstring
names the rules a statement follows, and the log entries where a clause is the model's own choice. -/

open Sys2Proof Sys2Proof.Machine

/-! ## The queue of commands -/

/-- Log 1 (DESIGN CHOICE): the command at the front runs on the state with the rest of the queue. Log 1 (DESIGN CHOICE): an empty queue
idles. The model's choices in it: log 1. -/
def Obligations.StepTakesTheFrontCommand : Prop :=
  (∀ (c : Instr) (rest : List Instr) (s : State),
    step { s with pending := c :: rest } = exec c { s with pending := rest }) ∧
  (∀ s : State, s.pending = [] → step s = .next s)

/-- No command stops the block but one that names a unit the device does not have, and no command touches the queue. The stop of such a
command is the model's (log 19): the spec gives those operands no meaning. The model's choices in it: log 19. -/
def Obligations.WellFormedCommandsComplete : Prop :=
  ∀ (c : Instr) (s : State),
    (c.wf = true → ∃ t, exec c s = .next t ∧ t.pending = s.pending) ∧
    (c.wf = false → exec c s = .fault .noSuchUnit)

/-- Every step keeps the waiting commands well-formed and takes exactly one of them, first in, first out. The model's choices in it:
log 1, 19. -/
def Obligations.StepKeepsCommandsWellFormed : Prop :=
  ∀ s : State, CommandsWf s → ∃ t, step s = .next t ∧ CommandsWf t ∧ t.pending = s.pending.tail

/-- A queue of well-formed commands runs to its end, whatever the state. The model's choices in it: log 1, 19. -/
def Obligations.WellFormedQueueRunsToItsEnd : Prop :=
  ∀ s : State, CommandsWf s → SafeFor s.pending.length s ∧ ∀ t, runSteps s.pending.length s = .next t → t.pending = []

/-! ## Invariants and rules over all commands -/

/-- A command changes no part of the state but those listed for it: each group of registers, buffers and counters of a chapter is one
part, and so are the frame number, the operating state, the seal, the plan in force and the clock's second inside their groups. The
model's choices in it: log 18. -/
def Obligations.CommandsKeepTheOtherParts : Prop :=
  ∀ (c : Instr) (s t : State), exec c s = .next t → Only (partsOf c) s t

/-- The clock never leaves its range of 40-bit seconds, and its sub-second never its 15 bits. The model's choices in it: log 18. -/
def Obligations.ClockStaysInRange : Prop :=
  ∀ s t : State, ClockInRange s → step s = .next t → ClockInRange t

/-- R240: the second edge to the end of the range stops the clock there, invalid with cause 4, with event 0xCB; no other command moves
the second from there but the end of a halt and the loss of the Slate domain; at that second the clock stays invalid over every step;
and an invalid clock becomes valid only where a halt ends with a set to a lower second. -/
def Obligations.ClockStopsAtTheEndOfItsRange : Prop :=
  (∀ (cyc : Nat) (s : State), s.rtc.halt = false → s.rtc.sec + 1 = rtcMax → ∃ x, exec (.rtcSecondEdge cyc) s = .next (slateEvent x 0xCB 0xFF none) ∧
    x.rtc.sec = rtcMax ∧ x.rtc.valid = false ∧ x.rtc.invcause = 4) ∧
  (∀ (c : Instr) (s t : State), exec c s = .next t → s.rtc.sec = rtcMax → t.rtc.sec ≠ rtcMax →
    s.rtc.halt = true ∨ c = .slateColdStart ∨ c = .slatePowerLoss) ∧
  (∀ s t : State, ClockInRange s → ClockEndInvalid s → step s = .next t → ClockEndInvalid t) ∧
  (∀ (c : Instr) (s t : State), exec c s = .next t → s.rtc.valid = false → t.rtc.valid = true →
    s.rtc.halt = true ∧ t.rtc.halt = false ∧ t.rtc.sec < rtcMax)

/-- R275: an event of a source that is on and runs on the present supply, in a window that is not over, sets the source's sticky flag
where it is the one that declares it; `TPSTICKY` shows the flags; no command clears a sticky flag but the granted clear of R276, the
cold start of the Slate domain and the loss of its supply. -/
def Obligations.StickyFlagsAreKept : Prop :=
  (∀ (l : List Nat) (stat loop : Bool) (n : Nat) (s : State), n ∈ l → srcMode s n ≠ 0 → runsOnCell n = true ∨ s.rtc.onCell = false →
    windowOver s n = false → (countEvent (srcAt s n) s.tp.slate stat loop).2 = true → (srcAt (sourceEvents s l stat loop) n).sticky = true) ∧
  (∀ (n : Nat) (s : State), n < 16 → (readWord s .host 0x210010).getLsbD n = (srcAt s n).sticky) ∧
  (∀ (n : Nat) (c : Instr) (s t : State), exec c s = .next t → (srcAt s n).sticky = true → (srcAt t n).sticky = false →
    c = .slateColdStart ∨ c = .slatePowerLoss ∨
    ∃ upset d rest m, c = .secondEvaluator upset ∧ s.tp.dd = d :: rest ∧ d.dec = .stickyClear m ∧ d.first = true ∧ bitN m n = true)

/-- The frame number moves at a frame tick, at a renumbering and at BOOT's restore, and at no other command. The plan in force changes
at an activation and where START and RECOVERY put one in force, and at no other command. The seal opens only at the second evaluator of
a double decision to open it. The operating state changes at the ticks and entries of Table 16.1, and at no other command. The model's
choices in it: log 18, 64, 74, 98. -/
def Obligations.SingleValuesMoveOnlyByTheirCommands : Prop :=
  (∀ (c : Instr) (s t : State), exec c s = .next t → t.tb.frame ≠ s.tb.frame →
    (∃ inp, c = .frameTick inp) ∨ c = .frameRenumber ∨ (∃ b, c = .powerOn b) ∨ c = .resetRelease) ∧
  (∀ (c : Instr) (s t : State), exec c s = .next t → t.pl.act ≠ s.pl.act →
    c = .planActivation ∨ (∃ b, c = .powerOn b) ∨ c = .resetRelease ∨ c = .bootComplete ∨
    (∃ a b, c = .startSequence a b) ∨ c = .runEntry ∨ c = .recoveryEntry) ∧
  (∀ (c : Instr) (s t : State), exec c s = .next t → t.tp.sealSt = 2 → s.tp.sealSt ≠ 2 →
    ∃ upset d rest, c = .secondEvaluator upset ∧ s.tp.dd = d :: rest ∧ d.dec = .sealOpen ∧ d.first = true) ∧
  (∀ (c : Instr) (s t : State), exec c s = .next t → t.sup.st ≠ s.sup.st →
    (∃ inp, c = .frameTick inp) ∨ (∃ d, c = .powerFailCommit d) ∨ c = .mainPowerLoss ∨ c = .slatePowerLoss ∨ c = .slateColdStart ∨
    (∃ b, c = .powerOn b) ∨ c = .resetRelease ∨ c = .bootComplete ∨ c = .runEntry ∨ c = .recoveryEntry)

/-- What reset leaves, by the Reset columns of the register tables: the frame number, the clock without a time, its cold-start mark,
the closed seal with its re-arm, START, the shut loader, no interrupt and no commit. -/
def Obligations.ResetValues : Prop :=
  State.reset.tb.frame = 0 ∧ State.reset.tb.st = .free ∧ State.reset.rtc.sec = 0 ∧ State.reset.rtc.valid = false ∧
  State.reset.rtc.invcause = 1 ∧ State.reset.rtc.cold = true ∧ State.reset.tp.sealSt = 0 ∧ State.reset.tp.sealst = Pair.of 0xC5 ∧
  State.reset.tp.rearm = true ∧ State.reset.sup.st = .start ∧ State.reset.pl.st = .empty ∧ State.reset.hp.irqsts = 0 ∧
  State.reset.hp.irqev = 0 ∧ State.reset.er.wrap = 7 ∧ State.reset.dp.en = true ∧ State.reset.pending = [] ∧ ClockInRange State.reset

/-! ## Timebase (02) -/

/-- R32, R49: a block without power or held in reset has no ticks. A frame tick of a powered block numbers the new frame one higher in
BOOT without the recovery monitor, without an announced jump, before the jump's tick and where the jump's number N is not above the
next one; at or after the jump's tick it takes N where N is above the next number. The model's choices in it: log 18, 98. -/
def Obligations.FrameTickNumbersTheFrame : Prop :=
  ∀ (inp : TickInput) (s : State),
    (s.powered = false → exec (.frameTick inp) s = .next s) ∧
    (s.powered = true → ∃ t, exec (.frameTick inp) s = .next t ∧
      (s.sup.st = .boot ∧ s.sup.recmon = false ∨ s.tb.jump = none → t.tb.frame = s.tb.frame + 1) ∧
      (¬(s.sup.st = .boot ∧ s.sup.recmon = false) → ∀ m n, s.tb.jump = some (m, n) →
        ((s.tb.frame + 1).toNat < m.toNat → t.tb.frame = s.tb.frame + 1) ∧
        (m.toNat ≤ (s.tb.frame + 1).toNat → (s.tb.frame + 1).toNat < n.toNat → t.tb.frame = n) ∧
        (m.toNat ≤ (s.tb.frame + 1).toNat → n.toNat ≤ (s.tb.frame + 1).toNat → t.tb.frame = s.tb.frame + 1)))

/-- R39, R42, R44, R48: an invalid marker, and any marker without power, changes nothing; one in BOOT without the recovery monitor only
marks that a marker has come. Any other valid marker sets the phase of the implied upstream tick against the nearest own tick, the
depth, the upstream holdover and the announced jump in the own count, ends the silence of CU, and takes a free-running or held device
into RELOCK as a follower with a burst of 16 probes; a device in another state keeps its state. The model's choices in it: log 18, 119. -/
def Obligations.MarkersAreTaken : Prop :=
  ∀ (m : Marker) (s : State),
    (markerValid s m = false ∨ s.powered = false → exec (.markerReceive m) s = .next s) ∧
    (markerValid s m = true → s.powered = true → s.sup.st = .boot → s.sup.recmon = false →
      exec (.markerReceive m) s = .next { s with tb := { s.tb with markerSeen := true } }) ∧
    (markerValid s m = true → s.powered = true → s.sup.st ≠ .boot ∨ s.sup.recmon = true → ∃ t, exec (.markerReceive m) s = .next t ∧
      t.tb.markerSeen = true ∧ t.tb.lastMarker = some m ∧ t.tb.phe = nearPhase (m.arrive - m.ofs - s.tb.hop) ∧ t.tb.uphold = m.hold ∧
      t.tb.depth = min 16 (m.depth + 1) ∧ (portAt t 0).silent = 0 ∧ t.tb.frame = s.tb.frame ∧
      (m.jump = none → t.tb.jump = s.tb.jump) ∧
      (∀ j n, m.jump = some (j, n) →
        t.tb.jump = some (j + (s.tb.frame + BitVec.ofInt 48 (nearTick (m.arrive - m.ofs - s.tb.hop))) - m.frame, n)) ∧
      (if s.tb.st = .free ∨ s.tb.st = .holdover then t.tb.st = .relock ∧ t.tb.role = 2 ∧ t.tb.burst = 16 ∧ t.tb.paired = false
        else t.tb.st = s.tb.st) ∧
      Only [.tb, .fresh, .ls, .cb, .nv, .er, .hp, .qu] s t)

/-- R44, R47: 256 frames in range lock a device in ACQUIRE or a paired one in RELOCK; 65,536 frames of ACQUIRE lead to RELOCK, with a
new burst, once the device serves and START is over; 4 frames without a marker, none arriving meanwhile, put a locked or relocking
device into HOLDOVER with its phase slew ended and role 3, the frame number unchanged. Without these conditions the three commands
change nothing. The model's choices in it: log 18, 119. -/
def Obligations.TimebaseStatesMove : Prop :=
  (∀ s : State, s.tb.st = .acquire ∨ (s.tb.st = .relock ∧ s.tb.paired = true) → 256 ≤ s.tb.inRange →
    exec .timebaseLock s = .next { s with tb := { s.tb with st := .locked, probeTicks := 0 } }) ∧
  (∀ s : State, s.tb.inRange < 256 ∨ (s.tb.st ≠ .acquire ∧ s.tb.st ≠ .relock) ∨ (s.tb.st = .relock ∧ s.tb.paired = false) →
    exec .timebaseLock s = .next s) ∧
  (∀ s : State, s.tb.st = .acquire → 65536 ≤ s.tb.acqFrames → serving s = true → s.sup.st ≠ .start →
    exec .acquireTimeout s =
      .next { s with tb := { s.tb with st := .relock, paired := false, burst := 16, probeTicks := 16, probes := [], inRange := 0, missed := 0 } }) ∧
  (∀ s : State, s.tb.st ≠ .acquire ∨ s.tb.acqFrames < 65536 ∨ serving s = false ∨ s.sup.st = .start → exec .acquireTimeout s = .next s) ∧
  (∀ s : State, s.tb.st = .locked ∨ s.tb.st = .relock → 4 ≤ s.tb.missed → s.tb.markerSeen = false → s.powered = true → ∃ t,
    exec .missingMarkerTimeout s = .next t ∧ t.tb.st = .holdover ∧ t.tb.hold = 0 ∧ t.tb.role = 3 ∧ t.tb.slewing = false ∧
    t.tb.slew = meanI s.tb.steer ∧ t.tb.frame = s.tb.frame ∧ Only [.tb, .er, .hp, .qu] s t) ∧
  (∀ s : State, s.tb.missed < 4 ∨ s.tb.markerSeen = true ∨ s.powered = false → exec .missingMarkerTimeout s = .next s)

/-- R41: TBCTL.PROBE asks for 16 probes while CU is UP, and is nothing otherwise. When the spacing of the state has passed, CU being
UP, a PROBE goes out on CU and the count starts again; before that nothing happens. A PROBE on an UP downstream port is answered there
with its two instants, at once while the window has a free place, else behind the waiting messages; on a port that is not UP nothing
goes out. An exchange gives half of (T4 − T1) − (T3 − T2), with ASYM added where it is enabled; up to 16 of them, the newest first,
give the hop delay as their mean within 16 bits. The model's choices in it: log 18, 66. -/
def Obligations.ProbesMeasureTheHop : Prop :=
  (∀ s : State, portUp s 0 = true →
    exec .probeBurst s = .next { s with tb := { s.tb with burst := 16, probeTicks := max s.tb.probeTicks 16 } }) ∧
  (∀ s : State, portUp s 0 = false → exec .probeBurst s = .next s) ∧
  (∀ (s : State) (n : Nat), probeSpacing s.tb = some n → n ≤ s.tb.probeTicks → portUp s 0 = true → (portAt s 0).out.length < 4 → ∃ t,
    exec .probeTimer s = .next t ∧ t.tb = { s.tb with burst := s.tb.burst - 1, probeTicks := 0 } ∧
    (portAt t 0).out = (portAt s 0).out ++ [{ type := 0x10, dst := 0, src := s.cb.addr, hseq := (portAt s 0).nextSeq, sends := 1 }] ∧
    (∀ k, k ≠ 0 → portAt t k = portAt s k) ∧ Only [.tb, .cb] s t) ∧
  (∀ (s : State) (n : Nat), probeSpacing s.tb = some n → s.tb.probeTicks < n → exec .probeTimer s = .next s) ∧
  (∀ s : State, probeSpacing s.tb = none ∨ portUp s 0 = false → exec .probeTimer s = .next s) ∧
  (∀ (s : State) (p t2 t3 : Nat), p = 1 ∨ p = 2 ∨ p = 3 → portUp s p = true → (portAt s p).out.length < 4 → ∃ t,
    exec (.probe p t2 t3) s = .next t ∧ Only [.cb] s t ∧ (∀ k, k ≠ p → portAt t k = portAt s k) ∧
    (portAt t p).out = (portAt s p).out ++
      [{ type := 0x11, dst := 0, src := ownAddr s, hseq := (portAt s p).nextSeq, sends := 1, data := leBytes 8 t2 ++ leBytes 8 t3 }]) ∧
  (∀ (s : State) (p t2 t3 : Nat), p = 1 ∨ p = 2 ∨ p = 3 → portUp s p = true → 4 ≤ (portAt s p).out.length → ∃ t,
    exec (.probe p t2 t3) s = .next t ∧ Only [.cb] s t ∧ (portAt t p).out = (portAt s p).out ∧
    (portAt t p).wait = (portAt s p).wait ++ [{ type := 0x11, dst := 0, src := ownAddr s, data := leBytes 8 t2 ++ leBytes 8 t3 }]) ∧
  (∀ (s : State) (p t2 t3 : Nat), p = 1 ∨ p = 2 ∨ p = 3 → portUp s p = false → exec (.probe p t2 t3) s = .next s) ∧
  (∀ (s : State) (t1 t2 t3 t4 d : Int), d = (t4 - t1 - (t3 - t2) + (if s.tb.asymen then s.tb.asym.toInt else 0)) / 2 →
    s.tb.probes.length < 15 → exec (.probeReply t1 t2 t3 t4) s =
      .next { s with tb := { s.tb with probes := d :: s.tb.probes,
                                       hop := (clampI 0 65535 ((d :: s.tb.probes).sum / ((s.tb.probes.length + 1 : Nat) : Int))).toNat } }) ∧
  (∀ (s : State) (t1 t2 t3 t4 : Int), ∃ t, exec (.probeReply t1 t2 t3 t4) s = .next t ∧ Only [.tb] s t ∧ t.tb.probes.length ≤ 16 ∧
    t.tb.hop = (clampI 0 65535 (meanI t.tb.probes)).toNat ∧
    ∀ x, x ∈ t.tb.probes → x = (t4 - t1 - (t3 - t2) + (if s.tb.asymen then s.tb.asym.toInt else 0)) / 2 ∨ x ∈ s.tb.probes)

/-- R49: the pairing of a relocking, unpaired device whose burst is over takes the phase. Where the parent's number is higher, that
number is committed and the difference waits for the renumbering; where it is lower, a REPORT with the difference goes out on CU; where
it is equal, nothing else happens. The renumbering adds the difference to the number, with JUMPED, the frame before and the amount. A
REPORT at a device without upstream link announces a jump 17 frames on by the difference, when none is announced, or waits for the end
of the announced one; a number not above the own changes nothing; a device with an upstream link passes the report to CU. The model's
choices in it: log 18, 64. -/
def Obligations.FollowersTakeTheNumber : Prop :=
  (∀ (s : State) (p : Frame) (ph : Int), s.powered = true → s.tb.st = .relock → s.tb.paired = false → s.tb.burst = 0 → ∃ t,
    exec (.relockPairing p ph) s = .next t ∧ t.tb.paired = true ∧ t.tb.phe = ph ∧ t.tb.frame = s.tb.frame ∧
    (s.tb.frame.toNat < p.toNat → t.tb.renumber = some (p - s.tb.frame) ∧ t.nv.frame = Pair.of p) ∧
    (p.toNat < s.tb.frame.toNat → portUp s 0 = true → (portAt s 0).out.length < 4 → t.tb.renumber = s.tb.renumber ∧ t.nv = s.nv ∧
      (portAt t 0).out = (portAt s 0).out ++ [{ type := 0x30, dst := 0, src := s.cb.addr, hseq := (portAt s 0).nextSeq, sends := 1,
                                                data := leBytes 6 (s.tb.frame.toNat - p.toNat) }]) ∧
    (p = s.tb.frame → t = { s with tb := { s.tb with paired := true, phe := ph } }) ∧ Only [.tb, .cb, .ls, .nv, .er, .hp, .qu] s t) ∧
  (∀ (s : State) (p : Frame) (ph : Int), s.powered = false ∨ s.tb.st ≠ .relock ∨ s.tb.paired = true ∨ s.tb.burst ≠ 0 →
    exec (.relockPairing p ph) s = .next s) ∧
  (∀ (s : State) (d : Frame), s.tb.renumber = some d → s.powered = true → ∃ t, exec .frameRenumber s = .next t ∧
    t.tb.frame = s.tb.frame + d ∧ t.tb.renumber = none ∧ t.tb.jumped = true ∧ t.tb.jmpFrame = s.tb.frame ∧
    t.tb.jmpAmt = min d.toNat 0xFFFFFFFF) ∧
  (∀ s : State, s.tb.renumber = none ∨ s.powered = false → exec .frameRenumber s = .next s) ∧
  (∀ (s : State) (a : Nat) (n : Frame), serving s = true → portUp s 0 = false → s.tb.jump = none → s.tb.frame.toNat < n.toNat → ∃ t,
    exec (.report a n) s = .next t ∧
    t.tb.jump = some (s.tb.frame + 17, s.tb.frame + 17 + (n - s.tb.frame)) ∧ t.tb.frame = s.tb.frame ∧ Only [.tb, .ls, .nv, .er, .hp, .qu] s t) ∧
  (∀ (s : State) (a : Nat) (n : Frame) (j : Frame × Frame), serving s = true → portUp s 0 = false → s.tb.jump = some j →
    s.tb.frame.toNat < n.toNat → exec (.report a n) s =
      .next { s with tb := { s.tb with nextReport := some (max (n.toNat - s.tb.frame.toNat) (s.tb.nextReport.getD 0)) } }) ∧
  (∀ (s : State) (a : Nat) (n : Frame), serving s = true → portUp s 0 = false → n.toNat ≤ s.tb.frame.toNat →
    exec (.report a n) s = .next s) ∧
  (∀ (s : State) (a : Nat) (n : Frame), serving s = true → portUp s 0 = true → (portAt s 0).out.length < 4 → ∃ t,
    exec (.report a n) s = .next t ∧ Only [.cb] s t ∧
    (portAt t 0).out = (portAt s 0).out ++ [{ type := 0x30, dst := 0, src := a, hseq := (portAt s 0).nextSeq, sends := 1,
                                              data := leBytes 6 (n.toNat - s.tb.frame.toNat) }])

/-! ## Events, queues, front ends and converter fabric (12, 04, 03) -/

/-- R282, R287: an event of a reserved code, and any event of a block without power, is not taken in. An event with a token sets its
`IRQEV` bit; one without a token is counted as suppressed in the open summary of its key, with no interrupt bit and no notice. The
model's choices in it: log 18, 19. -/
def Obligations.EventsAreTakenIn : Prop :=
  ∀ (code chan : Nat) (v : Option Int) (s : State),
    (severity code = none ∨ s.powered = false → exec (.eventRaise code chan v) s = .next s) ∧
    (severity code ≠ none → s.powered = true → (bucketAt s code).tokens ≠ 0 → code < 256 → ∃ t,
      exec (.eventRaise code chan v) s = .next t ∧ t.hp.irqev.getLsbD code = true ∧ Only [.er, .hp, .qu] s t) ∧
    (severity code ≠ none → s.powered = true → (bucketAt s code).tokens = 0 → ∃ t, exec (.eventRaise code chan v) s = .next t ∧
      t.hp.irqev = s.hp.irqev ∧ t.qu = s.qu ∧ t = updKey (openKey s code chan false) code chan suppressIn)

/-- R102: a record that fits behind what a queue without a waiting marker holds is appended. One that does not fit a queue 0–15 drops
oldest entries and goes in, with OVF; one that does not fit a queue 16–31 is refused whole, its entries lost and waiting for the
marker, with OVF. With a marker waiting, a queue 16–31 appends it before a record that fits with it. R102 to R104: of a serving device
a pop by the queue's reader drives the head entry and removes it, and drives the no-entry tag from an empty queue; a pop by another
requester removes nothing, sets RDERR and drives the no-entry tag. A push of the legal or the application core into a queue that it
does not read goes through the queue's policy under the tag of the pusher and the frame; the queue's reader pushes nothing; a push of
the host that fits is answered with status code 0. The waiting marker of a refusing queue is appended once two entries are free, and
none without refused entries. A device that does not serve changes nothing. The model's choices in it: log 20. -/
def Obligations.QueuesAppendPopAndMark : Prop :=
  (∀ (s : State) (q : Nat) (es : List QEntry),
    ((queueAt s q).refused = 0 ∨ q < 16 → (queueAt s q).ents.length + es.length ≤ (routeRec s.plan q).depth →
      (queueAt (pushTo s q es).s q).ents = (queueAt s q).ents ++ es ∧ (pushTo s q es).ok = true ∧
      (queueAt (pushTo s q es).s q).lost = (queueAt s q).lost) ∧
    ((routeRec s.plan q).depth < (queueAt s q).ents.length + es.length → q < 16 → 0 < es.length → es.length ≤ (routeRec s.plan q).depth →
      (∃ n, (queueAt (pushTo s q es).s q).ents = (queueAt s q).ents.drop n ++ es) ∧ (pushTo s q es).ok = true ∧
      (queueAt (pushTo s q es).s q).ents.length ≤ (routeRec s.plan q).depth ∧ (queueAt (pushTo s q es).s q).ovf = true) ∧
    ((routeRec s.plan q).depth < (queueAt s q).ents.length + es.length → 16 ≤ q →
      (queueAt (pushTo s q es).s q).ents = (queueAt s q).ents ∧ (pushTo s q es).ok = false ∧
      (queueAt (pushTo s q es).s q).lost = satAdd (queueAt s q).lost es.length ∧
      (queueAt (pushTo s q es).s q).refused = (queueAt s q).refused + es.length ∧ (queueAt (pushTo s q es).s q).ovf = true) ∧
    ((queueAt s q).refused ≠ 0 → 16 ≤ q → (queueAt s q).ents.length + 1 + es.length ≤ (routeRec s.plan q).depth →
      (queueAt (pushTo s q es).s q).ents = (queueAt s q).ents ++ [markerEntry q s.tb.frame (queueAt s q).refused] ++ es ∧
      (queueAt (pushTo s q es).s q).refused = 0 ∧ (pushTo s q es).ok = true)) ∧
  ((∀ (req : Requester) (q : Nat) (e : QEntry) (l : List QEntry) (s : State), q < 32 → serving s = true → isReader (routeRec s.plan q) req = true →
    (queueAt s q).ents = e :: l → ∃ t, exec (.qpop0 req q) s = .next t ∧ Only [.qu, .hp] s t ∧ (queueAt t q).ents = l ∧
      t.hp = { s.hp with data := [e.tag, e.w1, e.w2, e.w3] } ∧ (∀ k, k ≠ q → queueAt t k = queueAt s k)) ∧
  (∀ (req : Requester) (q : Nat) (s : State), q < 32 → serving s = true → isReader (routeRec s.plan q) req = true → (queueAt s q).ents = [] → ∃ t,
    exec (.qpop0 req q) s = .next t ∧ Only [.qu, .hp] s t ∧ queueAt t q = queueAt s q ∧ t.hp = { s.hp with data := [0x00F00000, 0, 0, 0] }) ∧
  (∀ (req : Requester) (q : Nat) (s : State), q < 32 → serving s = true → isReader (routeRec s.plan q) req = false → ∃ t,
    exec (.qpop0 req q) s = .next t ∧ Only [.qu, .hp] s t ∧ queueAt t q = { queueAt s q with rderr := true } ∧
    t.hp = { s.hp with data := [0x00F00000, 0, 0, 0] } ∧ (∀ k, k ≠ q → queueAt t k = queueAt s k)) ∧
  (∀ (req : Requester) (q : Nat) (w0 w1 w2 w3 : Word) (s : State), req = .legal ∨ req = .app → 24 ≤ q → q < 32 → serving s = true →
    isReader (routeRec s.plan q) req = false →
    (pushTo s q [{ tag := pushTag s req w0, w1 := w1, w2 := w2, w3 := w3 }]).opened = false →
    exec (.qpush req q w0 w1 w2 w3) s = .next (linkPump (pushTo s q [{ tag := pushTag s req w0, w1 := w1, w2 := w2, w3 := w3 }]).s)) ∧
  (∀ (req : Requester) (q : Nat) (w0 w1 w2 w3 : Word) (s : State), req = .legal ∨ req = .app → 24 ≤ q → q < 32 → serving s = true →
    isReader (routeRec s.plan q) req = true → exec (.qpush req q w0 w1 w2 w3) s = .next s) ∧
  (∀ (q : Nat) (w0 w1 w2 w3 : Word) (s : State), 24 ≤ q → q < 32 → serving s = true → (routeRec s.plan q).reader = 1 →
    (queueAt s q).ents.length + 2 ≤ (routeRec s.plan q).depth → linkQueues s = [] → ∃ t b,
    exec (.qpush .host q w0 w1 w2 w3) s = .next t ∧ Only [.qu, .hp] s t ∧ t.hp.status = some (0, b, false) ∧
    (∃ l, (queueAt t q).ents = l ++ [{ tag := pushTag s .host w0, w1 := w1, w2 := w2, w3 := w3 }])) ∧
  (∀ (q : Nat) (s : State), q < 32 → serving s = true → (queueAt s q).refused ≠ 0 → (queueAt s q).ents.length + 2 ≤ (routeRec s.plan q).depth → ∃ t,
    exec (.queueMarkerAppend q) s = .next t ∧ Only [.qu, .hp] s t ∧ (queueAt t q).refused = 0 ∧
    (queueAt t q).ents = (queueAt s q).ents ++ [{ tag := tagOf q 0xC s.tb.frame 0, w1 := word (queueAt s q).refused }]) ∧
  (∀ (q : Nat) (s : State), q < 32 → (queueAt s q).refused = 0 → exec (.queueMarkerAppend q) s = .next s) ∧
  (∀ (req : Requester) (q : Nat) (w0 w1 w2 w3 : Word) (s : State), q < 32 → serving s = false → exec (.qpop0 req q) s = .next s ∧
    exec (.queueMarkerAppend q) s = .next s ∧ (24 ≤ q → exec (.qpush req q w0 w1 w2 w3) s = .next s)))

/-- R65 to R69: where the probe of a channel runs and its 1,024 ticks are over, a result spoilt by an overload is discarded; any other
result is shown, as OVER above its limit or in saturation, and declares its class when the result before had the same class and the
declared state another; the first result of another class only waits. Without the probe or before its ticks nothing happens. R72: the
evaluation of the references of a serving device, due after 16,000 ticks, shows each quarter's deviation in 0.1 ppm, saturated to 16
bits. The second one in a row beyond 200 ppm clears REFOK of the quarter and sets REFEV, the second one in a row within it sets REFOK.
Before it is due nothing happens. The model's choices in it: log 18, 127, 128, 129. -/
def Obligations.InputProbesAndReferences : Prop :=
  ((∀ (ch r : Nat) (res : Option Nat) (s : State), ch < 128 → (feSet s.plan ch).prben = true → probeRuns s = true → 1024 ≤ (feAt s ch).prbN →
    r = (match res with
      | some x => if x ≤ probeLimit (feSet s.plan ch) then x else 0x0FFFFFFF
      | none => 0x0FFFFFFF) →
    ((feAt s ch).prbSpoil = true → ∃ t, exec (.probeResult ch res) s = .next t ∧ Only [.fe] s t ∧
      feAt t ch = { feAt s ch with prbN := (feAt s ch).prbN - 1024, prbSpoil := false, prbCand := 0 }) ∧
    ((feAt s ch).prbSpoil = false → ∃ t, exec (.probeResult ch res) s = .next t ∧ Only [.fe, .er, .hp, .qu] s t ∧
      (feAt t ch).res = r ∧ (feAt t ch).resValid = true ∧ (feAt t ch).prbN = (feAt s ch).prbN - 1024 ∧
      (probeClass (feSet s.plan ch) r = (feAt s ch).prbst → (feAt t ch).prbst = (feAt s ch).prbst ∧ (feAt t ch).prbCand = 0) ∧
      (probeClass (feSet s.plan ch) r ≠ (feAt s ch).prbst → (feAt s ch).prbCand = probeClass (feSet s.plan ch) r →
        (feAt t ch).prbst = probeClass (feSet s.plan ch) r ∧ (feAt t ch).prbchg = true) ∧
      (probeClass (feSet s.plan ch) r ≠ (feAt s ch).prbst → (feAt s ch).prbCand ≠ probeClass (feSet s.plan ch) r →
        (feAt t ch).prbst = (feAt s ch).prbst ∧ (feAt t ch).prbCand = probeClass (feSet s.plan ch) r))) ∧
  (∀ (ch : Nat) (res : Option Nat) (s : State), ch < 128 → (feSet s.plan ch).prben = false ∨ probeRuns s = false ∨ (feAt s ch).prbN < 1024 →
    exec (.probeResult ch res) s = .next s)) ∧
  ((∀ (m0 m1 m2 m3 : Nat) (s : State), 16000 ≤ s.fe.refTicks → serving s = true → ∃ t, exec (.referenceCheck m0 m1 m2 m3) s = .next t ∧
    Only [.fe, .er, .hp, .qu] s t ∧ t.fe.refTicks = s.fe.refTicks - 16000 ∧
    ∀ q m, (q, m) ∈ [(0, m0), (1, m1), (2, m2), (3, m3)] → tget 0 q t.fe.refd = satS 16 (refDev s q m) ∧
      (2000 < (refDev s q m).natAbs → tget 0 q s.fe.refBad = 1 → t.fe.refok.getLsbD q = false ∧ t.fe.refev.getLsbD q = true) ∧
      ((refDev s q m).natAbs ≤ 2000 → tget 0 q s.fe.refGood = 1 → t.fe.refok.getLsbD q = true) ∧
      (tget 0 q s.fe.refBad = 0 → tget 0 q s.fe.refGood = 0 →
        t.fe.refok.getLsbD q = s.fe.refok.getLsbD q ∧ t.fe.refev.getLsbD q = s.fe.refev.getLsbD q)) ∧
  (∀ (m0 m1 m2 m3 : Nat) (s : State), s.fe.refTicks < 16000 ∨ serving s = false → exec (.referenceCheck m0 m1 m2 m3) s = .next s))

/-- R83, R84, R86, R87, R97, 05 R113: while the schedule runs, a conversion in a slot of a working slice gives the corrected sample of
the entry's channel and aperture, one of a faulty slice leaves the aperture missing, one of a calibration entry or of the start-up
calibration counts as a calibration conversion, the last of 8,960 yielding new coefficients, and one that fault capture takes from a
YIELD entry is kept for it while the entry's channel repeats. An idle entry converts nothing. R93: SETTLING_END ends the settling count
where its last frame has ended. R85 to R87: the coefficients that a completed cycle of a working slice has yielded move its offset by
at most 64, its gain by at most 167 and each INL point by at most 16 units; the second cycle in a row beyond the limits declares the
slice faulty, one within them declares none. After the 70 frames of the start-up calibration every slice with a completed cycle takes
its coefficients whole, earlier declarations end, and the slices beyond the limits are declared. Otherwise the two commands change
nothing. The model's choices in it: log 18, 84, 130. -/
def Obligations.ConversionsAndSliceCalibration : Prop :=
  ((∀ (n slot : Nat) (raw : Int) (w : Word) (s : State), n < 64 → slot < 130 → startCal s = false → schedRuns s = true →
    s.cv.blocked.contains (n, slot) = false → w = slotEntry s.plan n slot → slotPrev w = decide (128 ≤ slot) →
    (slotUse w = 1 → (sliceAt s n).faulty = false → ∃ t, exec (.conversionComplete n slot none raw) s = .next t ∧ Only [.cv] s t ∧
      tget none (slotAp w) (pathAt t (slotCh w)).cur =
        some { y := if s.plan.dirMask.getLsbD n then correctDirect (sliceAt s n) raw else correctNs (sliceAt s n) raw, sub := false } ∧
      (∀ b, b ≠ slotAp w → tget none b (pathAt t (slotCh w)).cur = tget none b (pathAt s (slotCh w)).cur) ∧
      ∀ c, c ≠ slotCh w → pathAt t c = pathAt s c) ∧
    (slotUse w = 1 → (sliceAt s n).faulty = true → ∃ t, exec (.conversionComplete n slot none raw) s = .next t ∧ Only [.cv] s t ∧
      tget none (slotAp w) (pathAt t (slotCh w)).cur = none ∧ ∀ c, c ≠ slotCh w → pathAt t c = pathAt s c) ∧
    (slotUse w = 2 → (sliceAt s n).calN + 1 < 8960 → ∃ t, exec (.conversionComplete n slot none raw) s = .next t ∧ Only [.cv] s t ∧
      (sliceAt t n).calN = (sliceAt s n).calN + 1 ∧ (sliceAt t n).ready = (sliceAt s n).ready ∧ ∀ k, k ≠ n → sliceAt t k = sliceAt s k) ∧
    (∀ c, slotUse w = 1 → slotYield w = true → s.cv.fcen = true → c < 168 → (sliceAt s n).faulty = false → ∃ t,
      exec (.conversionComplete n slot (some c) raw) s = .next t ∧ Only [.cv] s t ∧
      t.cv.got = s.cv.got ++ [(c, slotAp w, clampI (-2047) 2047 (direct12 (sliceAt s n) raw))] ∧ (pathAt t (slotCh w)).yielded = true) ∧
    (slotUse w = 0 → exec (.conversionComplete n slot none raw) s = .next s)) ∧
  (∀ (n slot : Nat) (raw : Int) (s : State), n < 64 → slot < 130 → startCal s = true → 8959 ≤ (sliceAt s n).calN → ∃ t,
    exec (.conversionComplete n slot none raw) s = .next t ∧ Only [.cv] s t ∧ (sliceAt t n).calN = 0 ∧ (sliceAt t n).ready.isSome = true) ∧
  (∀ s : State, s.cv.setlEnd = true → exec .settlingEnd s = .next { s with cv := { s.cv with setl := 0, setlEnd := false } }) ∧
  (∀ s : State, s.cv.setlEnd = false → exec .settlingEnd s = .next s)) ∧
  ((∀ (n : Nat) (cal : SliceCal) (s : State), n < 64 → s.cv.flt.getLsbD n = false → s.plan.oosMask.getLsbD n = false → startCal s = false →
    (sliceAt s n).calDue = true → (sliceAt s n).ready = some cal → ∃ t,
    exec (.sliceCalUpdate n .whole) s = .next t ∧ Only [.cv, .er, .hp, .qu] s t ∧ (sliceAt t n).ready = none ∧
    (sliceAt t n).off = max ((sliceAt s n).off - 64) (min ((sliceAt s n).off + 64) cal.off) ∧
    (sliceAt t n).gain = (max (((sliceAt s n).gain : Int) - 167) (min ((sliceAt s n).gain + 167) cal.gain)).toNat ∧
    (s.plan.dirMask.getLsbD n = false →
      (sliceAt t n).inl = List.zipWith (fun a b => max (a - 16) (min (a + 16) b)) (sliceAt s n).inl cal.inl) ∧
    (sliceAt t n).upd = ((sliceAt s n).upd + 1) % 256 ∧ (sliceAt t n).age = 0 ∧
    (calBad cal = true → 1 ≤ (sliceAt s n).bad → t.cv.flt.getLsbD n = true ∧ t.cv.slflt = true) ∧
    (calBad cal = true → (sliceAt s n).bad = 0 → t.cv.flt = s.cv.flt ∧ (sliceAt t n).bad = 1) ∧
    (calBad cal = false → t.cv.flt = s.cv.flt ∧ (sliceAt t n).bad = 0)) ∧
  (∀ (n : Nat) (s : State), n < 64 → s.cv.flt.getLsbD n = true ∨ s.plan.oosMask.getLsbD n = true ∨ (sliceAt s n).calDue = false ∨
    (sliceAt s n).ready = none → exec (.sliceCalUpdate n .whole) s = .next s) ∧
  (∀ s : State, startCal s = true → 70 ≤ s.sup.startTicks → ∃ t, exec (.startupCalibrationDone .whole) s = .next t ∧ Only [.cv, .er, .hp, .qu] s t ∧
    t.cv.calDone = true ∧
    ∀ n, n < 64 → (∀ c, (sliceAt s n).ready = some c → (sliceAt t n).off = c.off ∧ (sliceAt t n).gain = c.gain ∧
        (sliceAt t n).inl = (if s.plan.dirMask.getLsbD n then (sliceAt s n).inl else c.inl) ∧ t.cv.flt.getLsbD n = calBad c) ∧
      ((sliceAt s n).ready = none → sliceAt t n = sliceAt s n ∧ t.cv.flt.getLsbD n = false)) ∧
  (∀ s : State, startCal s = false ∨ s.sup.startTicks < 70 → exec (.startupCalibrationDone .whole) s = .next s))

/-- R94, R95: a comparator of a serving device whose dwell is complete takes the state it has been waiting for and counts an excursion
above or below; another one stays as it is. R96 to R99: a manual capture of a serving device names its channel in FCCH; it starts after
its aperture when captures are enabled and none runs, is counted as missed while one runs, and does nothing more while captures are
off. A captured record ends the capture, shows its channel, aperture, frame and length, and sets FCDONE and its interrupt cause;
without a complete capture nothing happens. The model's choices in it: log 18, 107. -/
def Obligations.ComparatorsAndFaultCaptures : Prop :=
  ((∀ (pt : Bool) (i : Nat) (s : State), i < (if pt then 1024 else 168) → serving s = true → (cmpAt s pt i).due = true → ∃ t,
    exec (.comparatorDwellComplete pt i) s = .next t ∧ Only [.cv, .er, .hp, .qu] s t ∧ (cmpAt t pt i).st = (cmpAt s pt i).pend ∧
    (cmpAt t pt i).due = false ∧
    (cmpAt t pt i).cnt = if (cmpAt s pt i).pend = 2 ∨ (cmpAt s pt i).pend = 3 then satAdd (cmpAt s pt i).cnt 1 else (cmpAt s pt i).cnt) ∧
  (∀ (pt : Bool) (i : Nat) (s : State), i < (if pt then 1024 else 168) → (cmpAt s pt i).due = false ∨ serving s = false →
    exec (.comparatorDwellComplete pt i) s = .next s)) ∧
  ((∀ (ch ap : Nat) (s : State), ch < 168 → ap < 48 → serving s = true → s.cv.fcen = true → s.cv.cap = none → ∃ t x,
    exec (.faultCaptureManual ch ap) s = .next t ∧
    t.cv.cap = some x ∧ x.ch = ch ∧ x.k = ap ∧ x.manual = true ∧ x.frame = s.tb.frame ∧ x.total = s.plan.caplen ∧ x.wait = ap + 1 ∧
    x.samples = [] ∧ t.cv.fcch = ch ∧ Only [.cv] s t) ∧
  (∀ (ch ap : Nat) (x : Capture) (s : State), ch < 168 → ap < 48 → serving s = true → s.cv.fcen = true → s.cv.cap = some x → ∃ t,
    exec (.faultCaptureManual ch ap) s = .next t ∧ t.cv.cap = some { x with misses := x.misses + 1 } ∧ t.cv.fcch = ch ∧
    t.cv.fcmiss = satAdd s.cv.fcmiss 1 ∧ t.cv.fcmissF = true ∧ Only [.cv, .er, .hp, .qu] s t) ∧
  (∀ (ch ap : Nat) (s : State), ch < 168 → ap < 48 → serving s = true → s.cv.fcen = false →
    exec (.faultCaptureManual ch ap) s = .next { s with cv := { s.cv with fcch := ch } }) ∧
  (∀ (ch ap : Nat) (s : State), ch < 168 → ap < 48 → serving s = false → exec (.faultCaptureManual ch ap) s = .next s) ∧
  (∀ (x : Capture) (s : State), s.cv.cap = some x → x.due = true → s.cv.fcen = true → serving s = true → ∃ t,
    exec .faultCapturePush s = .next t ∧ t.cv.cap = none ∧
    t.cv.fcdone = true ∧ t.cv.fcsCh = x.ch ∧ t.cv.fcsK = x.k ∧ t.cv.fcFrame = x.frame ∧ t.cv.fcsLen = x.total ∧
    t.hp.irqsts.getLsbD 8 = true ∧ Only [.cv, .er, .hp, .qu] s t) ∧
  (∀ s : State, s.cv.cap = none ∨ s.cv.fcen = false ∨ serving s = false → exec .faultCapturePush s = .next s))

/-! ## Plan loader (05) -/

/-- R117, R118: in a serving device BEGIN by a requester that loads empties the shadow bank and owns the load, from EMPTY, READY,
REJECTED or the own LOADING; from ARMED or an unlocked PENDING it first ends the activation with code 0x53. The owner's data goes
behind what the bank holds, up to 512 KiB; VERIFY starts and its end gives READY with the verified plan, or REJECTED with the code, its
section and the loader interrupt. Data or a VERIFY of another requester, and a BEGIN during VERIFYING or a locked PENDING, change
nothing but OWNERR. The legal core's commands and those to a device that does not serve change nothing, as the end of a verification
that does not run. The model's choices in it: log 62. -/
def Obligations.LoaderTakesAnImage : Prop :=
  (∀ (req : Requester) (s : State), serving s = true → req ≠ .legal →
    s.pl.st = .empty ∨ s.pl.st = .ready ∨ s.pl.st = .rejected ∨ (s.pl.st = .loading ∧ s.pl.owner = some req) → ∃ t,
    exec (.begin req) s = .next t ∧ t.pl.st = .loading ∧ t.pl.owner = some req ∧ t.pl.wptr = 0 ∧ t.pl.shadow = none ∧
    (bankAt t (shadowBank s)).img = [] ∧ bankAt t (activeBank s) = bankAt s (activeBank s) ∧ t.pl.act = s.pl.act ∧ Only [.pl, .nv, .er] s t) ∧
  (∀ (req : Requester) (s : State), serving s = true → req ≠ .legal → s.pl.st = .armed ∨ (s.pl.st = .pending ∧ s.pl.locked = false) → ∃ t,
    exec (.begin req) s = .next t ∧ t.pl.st = .loading ∧ t.pl.owner = some req ∧ t.pl.wptr = 0 ∧ t.pl.actref = true ∧ t.pl.rsn = 0x53 ∧
    t.nv.mark = none ∧ (bankAt t (shadowBank s)).img = [] ∧ t.pl.act = s.pl.act) ∧
  (∀ (req : Requester) (s : State), serving s = true → req ≠ .legal →
    s.pl.st = .verifying ∨ (s.pl.st = .pending ∧ s.pl.locked = true) ∨ (s.pl.st = .loading ∧ s.pl.owner ≠ some req) →
    exec (.begin req) s = .next { s with pl := { s.pl with ownerr := true } }) ∧
  (∀ (req : Requester) (bs : List Byte) (s : State), serving s = true → s.pl.st = .loading → s.pl.owner = some req → ∃ t,
    exec (.pldata req bs) s = .next t ∧ (bankAt t (shadowBank s)).img = ((bankAt s (shadowBank s)).img ++ bs).take 524288 ∧
    t.pl = { s.pl with wptr := min (s.pl.wptr + bs.length) 0xFFFFFFFF } ∧ bankAt t (activeBank s) = bankAt s (activeBank s) ∧
    Only [.pl, .nv] s t) ∧
  (∀ (req : Requester) (s : State), serving s = true → s.pl.st = .loading → s.pl.owner = some req →
    exec (.verify req) s = .next { s with pl := { s.pl with st := .verifying } }) ∧
  (∀ (req : Requester) (bs : List Byte) (s : State), serving s = true → s.pl.st ≠ .loading ∨ s.pl.owner ≠ some req → req ≠ .legal →
    exec (.pldata req bs) s = .next { s with pl := { s.pl with ownerr := true } } ∧
    exec (.verify req) s = .next { s with pl := { s.pl with ownerr := true } }) ∧
  (∀ (req : Requester) (bs : List Byte) (s : State), serving s = false ∨ (req = .legal ∧ s.pl.owner ≠ some .legal) →
    exec (.begin req) s = .next s ∧ exec (.pldata req bs) s = .next s ∧ exec (.verify req) s = .next s) ∧
  (∀ s : State, serving s = true → s.pl.st = .verifying → ∃ t, exec .verificationDone s = .next t ∧ t.pl.act = s.pl.act ∧
    Only [.pl, .nv, .hp] s t ∧
    match shadowVerdict s with
    | .bad c i => t.pl.st = .rejected ∧ t.pl.rsn = c ∧ t.pl.sect = i ∧ t.pl.shadow = none ∧ t.hp.irqsts.getLsbD 4 = true
    | .good p legal => t.pl.st = .ready ∧ t.pl.shadow = some p ∧ t.pl.legalchg = legal) ∧
  (∀ s : State, serving s = false ∨ s.pl.st ≠ .verifying → exec .verificationDone s = .next s)

/-- R119, R122: an ACTIVATE of the owner in a serving device, with an image READY or PENDING and not locked, makes the activation
PENDING at the frame number of `PLAFL` and `PLAFH` and marks it in MRAM when no check fails; the first failing check refuses it with
its code and the loader interrupt and nothing else; a legal change reserves its 3 parts once and waits for its double decision. CANCEL
by the owner of an ARMED or unlocked PENDING activation ends it with code 0x53. In other states, and by another requester, both change
nothing but OWNERR. The model's choices in it: log 18, 62. -/
def Obligations.ActivationIsRequested : Prop :=
  (∀ (req : Requester) (s : State), serving s = true → s.pl.st = .ready ∨ (s.pl.st = .pending ∧ s.pl.locked = false) → s.pl.owner = some req →
    (activateCode s (plafN s) = 0 → s.pl.legalchg = false → ∃ t, exec (.activate req) s = .next t ∧ t.pl.st = .pending ∧ t.pl.n = plafN s ∧
      t.pl.locked = false ∧ t.pl.act = s.pl.act ∧ t.nv.mark = some (plafN s, ownerCode (some req))) ∧
    (activateCode s (plafN s) ≠ 0 → ∃ t, exec (.activate req) s = .next t ∧
      t.pl = { s.pl with actref := true, rsn := activateCode s (plafN s), sect := 0xF } ∧ t.hp.irqsts.getLsbD 4 = true ∧ Only [.pl, .hp] s t) ∧
    (activateCode s (plafN s) = 0 → s.pl.legalchg = true → ∃ t, exec (.activate req) s = .next t ∧
      t.tp.dd = s.tp.dd ++ [{ dec := .plan (plafN s) req, first := true }] ∧ t.pl.st = s.pl.st ∧ t.nv = s.nv ∧
      t.er.pres = s.er.pres + (if s.pl.resv = 0 then 3 else 0) ∧ (s.pl.resv = 0 → t.pl.resv = 3) ∧ Only [.tp, .pl, .er, .hp] s t)) ∧
  (∀ (req : Requester) (s : State), serving s = true → s.pl.st = .armed ∨ s.pl.st = .pending ∧ s.pl.locked = false → s.pl.owner = some req → ∃ t,
    exec (.cancel req) s = .next t ∧ t.pl.st = .ready ∧ t.pl.actref = true ∧ t.pl.rsn = 0x53 ∧ t.nv.mark = none ∧ t.pl.act = s.pl.act) ∧
  (∀ (req : Requester) (s : State), serving s = true → req ≠ .legal →
    s.pl.owner ≠ some req ∨ (s.pl.st = .pending ∧ s.pl.locked = true) ∨ (s.pl.st ≠ .pending ∧ s.pl.st ≠ .ready ∧ s.pl.st ≠ .armed) →
    exec (.activate req) s = .next { s with pl := { s.pl with ownerr := true } } ∧
    exec (.cancel req) s = .next { s with pl := { s.pl with ownerr := true } }) ∧
  (∀ (req : Requester) (s : State), serving s = false → exec (.activate req) s = .next s ∧ exec (.cancel req) s = .next s) ∧
  (∀ s : State, (activateCode s (plafN s) = 0x58 ↔ ¬(s.sup.st = .run ∨ s.sup.st = .calibrate ∨ s.sup.st = .test ∨ s.sup.st = .recovery)) ∧
    (activateCode s (plafN s) = 0 → s.tp.locked = false ∧ s.fnum + 64 ≤ (plafN s).toNat ∧ (plafN s).toNat ≤ s.fnum + 2 ^ 31 ∧
      (s.pl.legalchg = true → s.sealOpen = true)))

/-- R122: in a serving device ARM from the chain master arms a READY image at N when no check fails and no legal change waits for its
decision, is refused with the code of the first failing check, and changes nothing but OWNERR where the image is not READY; COMMIT
makes an ARMED activation PENDING and changes nothing but OWNERR otherwise. An activation still ARMED after frame N−16, in which a
COMMIT still wins, ends with code 0x54; earlier, or not ARMED, nothing happens. The model's choices in it: log 18, 63. -/
def Obligations.ChainArmsAndCommits : Prop :=
  (∀ (n : Frame) (s : State), serving s = true → s.pl.st = .ready →
    (activateCode s n = 0 → s.pl.legalchg = false → ∃ t, exec (.arm n) s = .next t ∧ t.pl.st = .armed ∧ t.pl.n = n ∧ t.cb.rx = none ∧
      t.nv.mark = some (n, ownerCode s.pl.owner) ∧ t.pl.act = s.pl.act) ∧
    (activateCode s n ≠ 0 → ∃ t, exec (.arm n) s = .next t ∧ t.pl = { s.pl with actref := true, rsn := activateCode s n, sect := 0xF } ∧
      t.cb.rx = none ∧ t.nv = s.nv)) ∧
  (∀ (n : Frame) (s : State), serving s = true → s.pl.st ≠ .ready → ∃ t, exec (.arm n) s = .next t ∧ t.pl = { s.pl with ownerr := true } ∧
    t.cb.rx = none ∧ t.nv = s.nv) ∧
  (∀ s : State, serving s = true → s.pl.st = .armed → ∃ t, exec .commit s = .next t ∧ t.pl.st = .pending ∧ t.pl.n = s.pl.n ∧
    t.pl.locked = false ∧ t.pl.act = s.pl.act ∧ t.nv.mark = some (s.pl.n, ownerCode s.pl.owner) ∧ t.cb.rx = none) ∧
  (∀ s : State, serving s = true → s.pl.st ≠ .armed → ∃ t, exec .commit s = .next t ∧ t.pl = { s.pl with ownerr := true } ∧ t.nv = s.nv ∧
    t.cb.rx = none) ∧
  (∀ (n : Frame) (s : State), serving s = false → exec (.arm n) s = .next s ∧ exec .commit s = .next s ∧ exec .commitDeadline s = .next s) ∧
  (∀ s : State, serving s = true → s.pl.st = .armed → s.pl.n.toNat < s.tb.frame.toNat + 16 → ∃ t, exec .commitDeadline s = .next t ∧
    t.pl.st = .ready ∧ t.pl.actref = true ∧ t.pl.rsn = 0x54 ∧ t.nv.mark = none ∧ t.pl.act = s.pl.act) ∧
  (∀ s : State, s.pl.st ≠ .armed ∨ s.tb.frame.toNat + 16 ≤ s.pl.n.toNat → exec .commitDeadline s = .next s)

/-- R120, R121, 02 R36: in a serving device, from the tick of N−1 on, the bank selector of a PENDING activation is committed with N and
the activation is locked, or it ends with the code of the check that fails. At the first tick at or after N, one frame at least after
that commit, the new plan is in force in RUN, CALIBRATE and TEST, with its rescale and its retired outputs due at N+2 and the loader
EMPTY with DONE; in RECOVERY a commit and reset of cause 7 is due with the next frame. Before these ticks, and where nothing is
pending, the two commands change nothing. The model's choices in it: log 18. -/
def Obligations.ActivationAtItsFrame : Prop :=
  (∀ (new : PlanDef) (s : State), serving s = true → s.pl.st = .pending → s.pl.shadow = some new → s.pl.locked = false →
    s.pl.n.toNat ≤ s.tb.frame.toNat + 1 →
    (selectorCode s new = 0 → ∃ t, exec .selectorCommit s = .next t ∧ t.pl.locked = true ∧ t.pl.lockFrame = s.tb.frame ∧ t.pl.st = .pending ∧
      t.nv.sel = selOf (shadowBank s) s.pl.n ∧ t.nv.selPend = true ∧ t.pl.act = s.pl.act) ∧
    (selectorCode s new ≠ 0 → ∃ t, exec .selectorCommit s = .next t ∧ t.pl.st = .ready ∧ t.pl.rsn = selectorCode s new ∧ t.pl.actref = true ∧
      t.nv.mark = none ∧ t.nv.sel = s.nv.sel ∧ t.pl.act = s.pl.act)) ∧
  (∀ s : State, serving s = false ∨ s.pl.st ≠ .pending ∨ s.pl.locked = true ∨ s.tb.frame.toNat + 1 < s.pl.n.toNat →
    exec .selectorCommit s = .next s) ∧
  (∀ (new : PlanDef) (s : State), s.pl.st = .pending → s.pl.shadow = some new → s.pl.locked = true → s.pl.n.toNat ≤ s.tb.frame.toNat →
    s.pl.lockFrame.toNat < s.tb.frame.toNat →
    (s.sup.st = .run ∨ s.sup.st = .calibrate ∨ s.sup.st = .test → ∃ t, exec .planActivation s = .next t ∧ t.pl.act = new ∧ t.pl.st = .empty ∧
      t.pl.done = true ∧ t.pl.owner = none ∧ t.nv.mark = none ∧ t.pl.rescale = qexpChanges s.pl.act new ∧ t.pl.retire = pulseChanges s.pl.act new ∧
      t.pl.rescaleIn = 2 ∧ t.hp.irqsts.getLsbD 4 = true) ∧
    (s.sup.st = .recovery → s.sup.commit = .none → exec .planActivation s =
      .next { s with sup := { s.sup with commit := .due, cause := 7, commitW := s.tb.frame + 1 } })) ∧
  (∀ s : State, s.pl.st ≠ .pending ∨ s.pl.locked = false ∨ s.tb.frame.toNat < s.pl.n.toNat ∨ s.tb.frame.toNat ≤ s.pl.lockFrame.toNat →
    exec .planActivation s = .next s)

/-! ## Lanes, windows and pulses (06, 08), power quality and the sprint (07) -/

/-- 08 R190, Table 8.1: on complements lane B's forms give the complements of lane A's: the sum, difference, product, arithmetic shift,
sign test, absolute value, saturation to 48 bits and rounding, and what is built of them: increments, the low-pass and the high-pass
stage, the integrator. R191, R193: the comparison of a running lane frame of a powered device is made once and applies no increment;
with no difference of the lanes no point disagrees and no retry is counted, a prologue that does not agree sets PROLMM, and one that
does not agree after its retry either makes every point that differs disagree. Without a lane frame, after its comparison and without
power nothing happens. R142 to R145: a window that is due in a powered device closes at its position of the frame: a half-cycle window
hands its weight on and starts the next with the rest of the frame; a 10/12-cycle window gives the frequency of its cycles over the
time between its first and last crossing, and starts the next with the rest of the frame and no cycles; an invalid frequency leaves the
NCO's. Without one due nothing changes. The model's choices in it: log 18, 52. -/
def Obligations.LanesCompareAndWindowsClose : Prop :=
  (∀ (a b c : Int) (n df : Nat) (x : Scale),
    lAdd true (compl a) (compl b) = compl (lAdd false a b) ∧ lSub true (compl a) (compl b) = compl (lSub false a b) ∧
    lMul true (compl a) (compl b) = compl (lMul false a b) ∧ asr (compl a) n = compl (asr a n) ∧
    lNonneg true (compl a) = lNonneg false a ∧ lAbs true (compl a) = compl (lAbs false a) ∧
    lSat48 true (compl a) = compl (lSat48 false a) ∧ lRnd true (compl a) (n + 1) = compl (lRnd false a (n + 1)) ∧
    lInc true (compl a) df x = compl (lInc false a df x) ∧ lLpf true (compl a) (compl b) n = compl (lLpf false a b n) ∧
    lHpf true (compl a) (compl b) (compl c) = compl (lHpf false a b c) ∧
    lRin true (compl a) (compl b) (compl c) n = compl (lRin false a b c n)) ∧
  ((∀ (us : List Upset) (s : State), s.met.laneRun = none ∨ s.met.compared = true ∨ s.powered = false →
    exec (.lockstepCompare us) s = .next s) ∧
  (∀ (us : List Upset) (s : State), s.powered = true → s.met.laneRun ≠ none → s.met.compared = false → ∃ t,
    exec (.lockstepCompare us) s = .next t ∧ t.met.compared = true ∧ t.met.acc = s.met.acc ∧ Only [.met, .ls, .er, .hp, .qu] s t ∧
    ((∀ p, p < 128 → mismatch s (upsetsOf s us) p = false) → prolMismatch s (upsetsOf s us) = false →
      t.met.disagreed = [] ∧ t.met.prolBad = false ∧ t.ls.rtc = s.ls.rtc ∧ t.ls.prolmm = s.ls.prolmm) ∧
    (prolMismatch s (upsetsOf s us) = true → t.ls.prolmm = true) ∧
    (prolMismatch s (upsetsOf s us) = true → prolMismatch s ((upsetsOf s us).filter (·.persistent)) = true →
      t.met.prolBad = true ∧ ∀ p, p < 128 → (pointDef s.met.lanePlan p).type ≠ 0 → faulted s p = false →
        mismatch s (upsetsOf s us) p = true → (p, 4) ∈ t.met.disagreed))) ∧
  ((∀ (b : Nat) (half : Bool) (s : State), b < 8 → s.powered = false ∨ (half = true ∧ (busAt s b).dueH = none) ∨
    (half = false ∧ (busAt s b).due10 = none) → exec (.rmsWindowClose b half) s = .next s) ∧
  (∀ (b pos : Nat) (s : State), b < 8 → s.powered = true → (busAt s b).dueH = some pos → ∃ t,
    exec (.rmsWindowClose b true) s = .next t ∧ busAt t b = { busAt s b with
      dueH := none, prevHalf := (busAt s b).halfPos - postW pos, halfPos := postW pos,
      halfN := if (busAt s b).valid = true ∧ (busAt s b).halfN = 0 then 1 else min 2 (max 1 (busAt s b).halfN + 1) } ∧
    ∀ k, k ≠ b → busAt t k = busAt s k) ∧
  (∀ (b pos : Nat) (s : State), b < 8 → s.powered = true → (busAt s b).due10 = some pos → ∃ t, exec (.rmsWindowClose b false) s = .next t ∧
    (busAt t b).due10 = none ∧ (busAt t b).winPos = postW pos ∧ (busAt t b).cycles = 0 ∧
    (busAt t b).freq = (if (busAt s b).cycles = 0 ∨ (busAt s b).lastX - (busAt s b).firstX.getD 0 = 0 then 0
      else (busAt s b).cycles * 16000 * 2 ^ 32 / ((busAt s b).lastX - (busAt s b).firstX.getD 0)) ∧
    ((busAt t b).valid = true → (busAt t b).nco = (busAt t b).freq) ∧ ((busAt t b).valid = false → (busAt t b).nco = (busAt s b).nco) ∧
    ∀ k, k ≠ b → busAt t k = busAt s k))

/-- R148, R149: in a serving device without a commit, an inactive output of a point that is neither faulted nor in scale fault, whose
residue pair agrees and holds a whole pulse quantum and does not retire, starts its pulse in the frame of its aperture, takes the
quantum from both halves of the residue and counts. Before its aperture, without a whole quantum, while active, in scale fault, in a
commit or not serving it starts none. The pulse ends in the frame of its last aperture and not before. The model's choices in it: log
18. -/
def Obligations.PulsesStartAndEnd : Prop :=
  (∀ (o : Nat) (s : State), o < 8 → (s.plan.pulses.getD o {}).point < 128 → (tget {} o s.met.pulse).scale = false →
    (ptAt s (s.plan.pulses.getD o {}).point).scalef = false → (tget {} o s.met.pulse).active = false →
    2 ^ 48 ≤ (tget {} o s.met.pulse).res.v.toInt → (tget {} o s.met.pulse).res.ok = true → faulted s (s.plan.pulses.getD o {}).point = false →
    s.pl.retire.contains o = false → serving s = true → s.sup.commit = .none → pulseAt s o < 48 * (s.tb.ticks + 1) → ∃ t,
      exec (.pulseStart o) s = .next t ∧ Only [.met] s t ∧
      tget {} o t.met.pulse = { tget {} o s.met.pulse with
        active := true, cnt := ((tget {} o s.met.pulse).cnt + 1) % 2 ^ 32, endAt := pulseAt s o + widthAp (s.plan.pulses.getD o {}).width,
        res := (tget {} o s.met.pulse).res.add (-(2 ^ 48)) (compl (-(2 ^ 48))) } ∧
      (tget {} o t.met.pulse).res.v = (tget {} o s.met.pulse).res.v - BitVec.ofNat 96 (2 ^ 48) ∧ (tget {} o t.met.pulse).res.ok = true ∧
      ∀ k, k ≠ o → tget {} k t.met.pulse = tget {} k s.met.pulse) ∧
  (∀ (o : Nat) (s : State), o < 8 → (tget {} o s.met.pulse).res.v.toInt < 2 ^ 48 ∨ (tget {} o s.met.pulse).active = true ∨
    (tget {} o s.met.pulse).scale = true ∨ serving s = false ∨ s.sup.commit ≠ .none ∨ 48 * (s.tb.ticks + 1) ≤ pulseAt s o →
    exec (.pulseStart o) s = .next s) ∧
  (∀ (o : Nat) (s : State), o < 8 → (tget {} o s.met.pulse).active = true → (tget {} o s.met.pulse).endAt < 48 * (s.tb.ticks + 1) → ∃ t,
    exec (.pulseEnd o) s = .next t ∧ Only [.met] s t ∧
    tget {} o t.met.pulse = { tget {} o s.met.pulse with active := false, lastEnd := some (tget {} o s.met.pulse).endAt } ∧
    ∀ k, k ≠ o → tget {} k t.met.pulse = tget {} k s.met.pulse) ∧
  (∀ (o : Nat) (s : State), o < 8 → (tget {} o s.met.pulse).active = false ∨ 48 * (s.tb.ticks + 1) ≤ (tget {} o s.met.pulse).endAt →
    exec (.pulseEnd o) s = .next s)

/-- R170, R171: a band window of 3,200 ticks hands its channels, if any, to publication with the number of its last frame and the
samples it took, and the next one starts with the channels chosen for it; earlier its end changes nothing. The publication comes 1,600
ticks after the window's last tick, with 35 bands for each of its channels that is a member still, and nothing for the others; earlier
it changes nothing. R177, R178: an aggregation interval that is due ends with its count and the sums of every bus with a declared
voltage back at zero, the other interval running on; one that is not due changes nothing. HCLR to a serving device waits for the next
tick. The model's choices in it: log 15, 18. -/
def Obligations.BandWindowsAndAggregation : Prop :=
  ((∀ s : State, s.pq.bandTicks < 3200 → exec .bandWindowEnd s = .next s) ∧
  (∀ s : State, 3200 ≤ s.pq.bandTicks → ∃ t, exec .bandWindowEnd s = .next t ∧ t.pq.bandTicks = 0 ∧ t.pq.bandHist = [] ∧ Only [.pq] s t ∧
    (((chWord s.pq.bcur).filter fun c => c != 0xFF) ≠ [] →
      t.pq.bandDue = some { chans := (chWord s.pq.bcur).filter fun c => c != 0xFF, frame := s.tb.frame - 1, ticks := 1, hist := s.pq.bandHist }) ∧
    (((chWord s.pq.bcur).filter fun c => c != 0xFF) = [] → t.pq.bandDue = s.pq.bandDue) ∧
    (s.pq.banden = false → t.pq.bcur = 0xFFFFFFFF)) ∧
  (∀ (d : BandDue) (s : State), s.pq.bandDue = some d → 1600 ≤ d.ticks → ∃ t, exec .bandPublish s = .next t ∧ t.pq.bandDue = none ∧
    Only [.pq, .fresh] s t ∧ (∀ c, c ∈ d.chans → (memberChs s.plan).contains c = true →
      (tget {} c t.pq.harm).bvalid = true ∧ (tget {} c t.pq.harm).bframe = d.frame ∧ (tget {} c t.pq.harm).bnd.length = 35) ∧
    ∀ c, c ∉ d.chans ∨ (memberChs s.plan).contains c = false → tget {} c t.pq.harm = tget {} c s.pq.harm) ∧
  (∀ s : State, s.pq.bandDue = none ∨ (∃ d, s.pq.bandDue = some d ∧ d.ticks < 1600) → exec .bandPublish s = .next s)) ∧
  ((∀ s : State, pqIntervalDue s true = true → ∃ t, exec (.pqIntervalEnd true) s = .next t ∧ t.pq.agg10m = 0 ∧ t.pq.agg10s = s.pq.agg10s ∧
    t.pq.num10m = s.rtc.lastValid / 600 ∧
    (∀ b, b < 8 → udinOf (pqBus s b) ≠ 0 → (pqBus t b).aggN = 0 ∧ (pqBus t b).aggV = []) ∧ Only [.pq, .er, .hp, .qu] s t) ∧
  (∀ s : State, pqIntervalDue s false = true → ∃ t, exec (.pqIntervalEnd false) s = .next t ∧ t.pq.agg10s = 0 ∧ t.pq.agg10m = s.pq.agg10m ∧
    t.pq.num10s = s.rtc.lastValid / 10 ∧
    (∀ b, b < 8 → udinOf (pqBus s b) ≠ 0 → (pqBus t b).cyc10s = 0 ∧ (pqBus t b).first10s = none) ∧ Only [.pq, .er, .hp, .qu] s t) ∧
  (∀ (long : Bool) (s : State), pqIntervalDue s long = false → exec (.pqIntervalEnd long) s = .next s) ∧
  (∀ s : State, s.rtc.valid = false → (pqIntervalDue s true = true ↔ 9600000 ≤ s.pq.agg10m) ∧ (pqIntervalDue s false = true ↔ 160000 ≤ s.pq.agg10s)) ∧
  (∀ s : State, serving s = true → exec .hclr s = .next { s with pq := { s.pq with hclr := true } }) ∧
  (∀ s : State, serving s = false → exec .hclr s = .next s))

/-- R180 to R182: the end of a live-verification window of 163,840 ticks is noisy, or overloaded in more than 1,638 frames, and then
marked, its values standing; or it is quiet, shows gain and phase within 32 bits and counts, and with no baseline and no baseline of
the next window asked for, is the baseline. Before its ticks, or where no live verification runs on the channel, nothing happens. The
model's choices in it: log 18. -/
def Obligations.LiveWindowsEnd : Prop :=
  (∀ (ch : Nat) (g p : Int) (noisy : Bool) (s : State), ch < 160 → liveRuns s ch = true → 163840 ≤ (liveAt s ch).ticks →
    (noisy = true ∨ 1638 < (liveAt s ch).ovl → ∃ t, exec (.liveWindowEnd ch g p noisy) s = .next t ∧ (liveAt t ch).inval = true ∧
      (liveAt t ch).ticks = 0 ∧ (liveAt t ch).ovl = 0 ∧ (liveAt t ch).gain = (liveAt s ch).gain ∧ (liveAt t ch).phs = (liveAt s ch).phs ∧
      (liveAt t ch).win = (liveAt s ch).win ∧ (liveAt t ch).base = (liveAt s ch).base ∧ Only [.pq, .er, .hp, .qu] s t) ∧
    (noisy = false → (liveAt s ch).ovl ≤ 1638 → ∃ t, exec (.liveWindowEnd ch g p noisy) s = .next t ∧ (liveAt t ch).inval = false ∧
      (liveAt t ch).ticks = 0 ∧ (liveAt t ch).ovl = 0 ∧ (liveAt t ch).gain = satS 32 g ∧ (liveAt t ch).phs = satS 32 p ∧
      (liveAt t ch).win = satAdd (liveAt s ch).win 1 ∧ (liveAt t ch).frame = s.tb.frame - 1 ∧
      ((liveAt s ch).base = false → (liveAt s ch).baseWait = false →
        (liveAt t ch).base = true ∧ (liveAt t ch).gbase = satS 32 g ∧ (liveAt t ch).pbase = satS 32 p) ∧
      ((liveAt s ch).base = true → (liveAt t ch).base = true ∧ (liveAt t ch).gbase = (liveAt s ch).gbase ∧
        (liveAt t ch).pbase = (liveAt s ch).pbase) ∧ Only [.pq, .er, .hp, .qu] s t)) ∧
  (∀ (ch : Nat) (g p : Int) (noisy : Bool) (s : State), ch < 160 → liveRuns s ch = false ∨ (liveAt s ch).ticks < 163840 →
    exec (.liveWindowEnd ch g p noisy) s = .next s)

/-- R185 to R187: in a serving device an accepted GO waits with the written channels, length and shift and drops entries not yet read,
a refused one shows its code. The sprint starts at its frame, or after the tick that follows GO where none is named, and not before; an
ABORT of a waiting or capturing one is noted and ends it truncated once a tick has passed since, its length ends it otherwise, with
DONE and the sprint interrupt. A read takes the oldest entry, and the last one of an ended sprint leaves IDLE; an empty buffer gives
the no-entry words. A device that does not serve takes no GO, ABORT or read. The model's choices in it: log 18, 54, 109. -/
def Obligations.SprintRuns : Prop :=
  (∀ (req : Requester) (s : State), serving s = true → goCode s = 0 → exec (.go req) s = .next { s with pq := { s.pq with
    st := .waiting, buf := [], lost := satAdd s.pq.lost s.pq.buf.length, lostrd := s.pq.lostrd || decide (0 < s.pq.buf.length), rCh := sprintChs s,
    rShift := s.pq.shift, rLen := s.pq.len, rDone := 0, abort := false, goAt := s.tb.ticks } }) ∧
  (∀ (req : Requester) (s : State), serving s = true → goCode s ≠ 0 →
    exec (.go req) s = .next { s with pq := { s.pq with ref := true, rcode := goCode s } }) ∧
  (∀ s : State, s.pq.st = .waiting → s.pq.abort = false → (sprintFrameOf s = 0 ∧ s.pq.goAt < s.tb.ticks) ∨
    (sprintFrameOf s ≠ 0 ∧ (sprintFrameOf s).toNat ≤ s.tb.frame.toNat) →
    exec .sprintStart s = .next { s with pq := { s.pq with st := .capturing, saf := s.tb.frame, next := 32000, rDone := 0 } }) ∧
  (∀ s : State, s.pq.st ≠ .waiting ∨ s.pq.abort = true ∨ (sprintFrameOf s = 0 ∧ s.tb.ticks ≤ s.pq.goAt) ∨
    (sprintFrameOf s ≠ 0 ∧ s.tb.frame.toNat < (sprintFrameOf s).toNat) → exec .sprintStart s = .next s) ∧
  (∀ s : State, serving s = true → s.pq.st = .waiting ∨ s.pq.st = .capturing → exec .abort s =
    .next { s with pq := { s.pq with abort := true, abortAt := if s.pq.abort then s.pq.abortAt else s.tb.ticks } }) ∧
  (∀ s : State, serving s = false ∨ s.pq.st = .idle ∨ s.pq.st = .unread → exec .abort s = .next s) ∧
  (∀ s : State, serving s = true → (s.pq.abort = true ∧ s.pq.abortAt < s.tb.ticks ∧ (s.pq.st = .waiting ∨ s.pq.st = .capturing)) ∨
    (s.pq.abort = false ∧ s.pq.st = .capturing ∧ s.pq.rLen ≤ s.pq.rDone) → ∃ t, exec .sprintEnd s = .next t ∧
    t.pq.st = (if s.pq.buf = [] then .idle else .unread) ∧ t.pq.done = true ∧ t.pq.abort = false ∧ t.pq.buf = s.pq.buf ∧
    t.pq.trunc = (s.pq.trunc || s.pq.abort) ∧ t.hp.irqsts.getLsbD 7 = true ∧ Only [.pq, .hp, .er, .qu] s t) ∧
  (∀ s : State, serving s = false ∨ s.pq.st = .idle ∨ s.pq.st = .unread ∨
    ((s.pq.abort = false ∨ s.tb.ticks ≤ s.pq.abortAt) ∧ (s.pq.st = .waiting ∨ s.pq.rDone < s.pq.rLen)) → exec .sprintEnd s = .next s) ∧
  (∀ (req : Requester) (e : QEntry) (l : List QEntry) (s : State), serving s = true → s.pq.buf = e :: l → ∃ t, exec (.sprd0 req) s = .next t ∧
    t.pq.buf = l ∧ t.hp = { s.hp with data := [e.tag, e.w1, e.w2, e.w3] } ∧
    t.pq.st = (if s.pq.st = .unread ∧ l = [] then .idle else s.pq.st) ∧ Only [.pq, .hp] s t) ∧
  (∀ (req : Requester) (s : State), serving s = true → s.pq.buf = [] → ∃ t, exec (.sprd0 req) s = .next t ∧ t.pq.buf = [] ∧
    t.hp = { s.hp with data := [0x00F00000, 0, 0, 0] } ∧ Only [.pq, .hp] s t) ∧
  (∀ (req : Requester) (s : State), serving s = false → exec (.go req) s = .next s ∧ exec (.sprd0 req) s = .next s)

/-! ## Requests of writable-legal registers (01 R17, R18; 17 R399) -/

/-- R18, R399: in a serving device with the seal open, a command of any requester but the legal core that writes a legal register is
forwarded to the legal core as one request with the words it writes, and changes nothing else; with the seal closed it is discarded
with RWLCLS, its count and, for the host, NOEFF. The legal core's own command, where its words are accepted, waits for the tick with
the accepted requests. A device that does not serve takes none, and a calibration command that names no coefficient writes nothing.
R18, R373, R399: no request is accepted while the seal is closed or after it closed in this tick, whatever it writes; and the requests
accepted in the tick in which the seal closes are refused. The model's choices in it: log 97, 101. -/
def Obligations.LegalWritesNeedTheSeal : Prop :=
  ((∀ (req : Requester) (w v n : Word) (k : Nat) (s : State), req ≠ .legal → serving s = true → s.sealOpen = true →
    let sent (ws : List (Nat × Word)) : State := { s with hp := { s.hp with rwl := s.hp.rwl ++ [{ req := req, words := ws }] } }
    exec (.mdctlReqRun req) s = .next (sent [(0x260004, 1)]) ∧ exec (.mdctlReqCalibrate req) s = .next (sent [(0x260004, 2)]) ∧
    exec (.mdctlReqTest req) s = .next (sent [(0x260004, 3)]) ∧ exec (.recov req) s = .next (sent [(0x260004, 0x10)]) ∧
    exec (.calctlCommit req) s = .next (sent [(0x300000, 1)]) ∧ exec (.calctlDiscard req) s = .next (sent [(0x300000, 2)]) ∧
    exec (.tpclr req w) s = .next (sent [(0x210020, w)]) ∧ exec (.reinstate req w) s = .next (sent [(0xB0024, w ||| 0x100)]) ∧
    exec (.clruv req w) s = .next (sent [(0xB0024, w &&& ~~~0x100#32 ||| 0x200)]) ∧
    ((rwlReg (0x300000 + k % 0x10000)).isSome = true → (rwlReg (0x300000 + k % 0x10000 + 4)).isSome = true →
      exec (.calibrationWrite req k v n) s = .next (sent [(0x300000 + k % 0x10000, v), (0x300000 + k % 0x10000 + 4, n)]))) ∧
  (∀ (req : Requester) (w v n : Word) (k : Nat) (s : State), serving s = true → s.sealOpen = false →
    let shut : State := { s with hp := { s.hp with rwlcls := true, rwlr := min (s.hp.rwlr + 1) 0xFFFFFFFF,
                                                   noeff := s.hp.noeff || decide (req = .host) } }
    exec (.mdctlReqRun req) s = .next shut ∧ exec (.mdctlReqCalibrate req) s = .next shut ∧ exec (.mdctlReqTest req) s = .next shut ∧
    exec (.recov req) s = .next shut ∧ exec (.calctlCommit req) s = .next shut ∧ exec (.calctlDiscard req) s = .next shut ∧
    exec (.tpclr req w) s = .next shut ∧ exec (.reinstate req w) s = .next shut ∧ exec (.clruv req w) s = .next shut ∧
    ((rwlReg (0x300000 + k % 0x10000)).isSome = true → exec (.calibrationWrite req k v n) s = .next shut)) ∧
  (∀ (w v n : Word) (k : Nat) (s : State), serving s = true → s.sealOpen = true →
    let taken (ws : List (Nat × Word)) : State := { s with hp := { s.hp with rwlAcc := s.hp.rwlAcc ++ [{ req := .legal, words := ws }] } }
    (rwlOk s [(0x260004, 1)] = true → exec (.mdctlReqRun .legal) s = .next (taken [(0x260004, 1)])) ∧
    (rwlOk s [(0x260004, 2)] = true → exec (.mdctlReqCalibrate .legal) s = .next (taken [(0x260004, 2)])) ∧
    (rwlOk s [(0x260004, 3)] = true → exec (.mdctlReqTest .legal) s = .next (taken [(0x260004, 3)])) ∧
    (rwlOk s [(0x260004, 0x10)] = true → exec (.recov .legal) s = .next (taken [(0x260004, 0x10)])) ∧
    (rwlOk s [(0x300000, 1)] = true → exec (.calctlCommit .legal) s = .next (taken [(0x300000, 1)])) ∧
    (rwlOk s [(0x300000, 2)] = true → exec (.calctlDiscard .legal) s = .next (taken [(0x300000, 2)])) ∧
    (rwlOk s [(0x210020, w)] = true → exec (.tpclr .legal w) s = .next (taken [(0x210020, w)])) ∧
    (rwlOk s [(0xB0024, w ||| 0x100)] = true → exec (.reinstate .legal w) s = .next (taken [(0xB0024, w ||| 0x100)])) ∧
    (rwlOk s [(0xB0024, w &&& ~~~0x100#32 ||| 0x200)] = true →
      exec (.clruv .legal w) s = .next (taken [(0xB0024, w &&& ~~~0x100#32 ||| 0x200)])) ∧
    ((rwlReg (0x300000 + k % 0x10000)).isSome = true → (rwlReg (0x300000 + k % 0x10000 + 4)).isSome = true →
      rwlOk s [(0x300000 + k % 0x10000, v), (0x300000 + k % 0x10000 + 4, n)] = true →
      exec (.calibrationWrite .legal k v n) s = .next (taken [(0x300000 + k % 0x10000, v), (0x300000 + k % 0x10000 + 4, n)]))) ∧
  (∀ (req : Requester) (w v n : Word) (k : Nat) (s : State),
    (serving s = false → exec (.mdctlReqRun req) s = .next s ∧ exec (.mdctlReqCalibrate req) s = .next s ∧ exec (.mdctlReqTest req) s = .next s ∧
      exec (.recov req) s = .next s ∧ exec (.calctlCommit req) s = .next s ∧ exec (.calctlDiscard req) s = .next s ∧
      exec (.tpclr req w) s = .next s ∧ exec (.reinstate req w) s = .next s ∧ exec (.clruv req w) s = .next s ∧
      exec (.calibrationWrite req k v n) s = .next s) ∧
    (rwlReg (0x300000 + k % 0x10000) = none → rwlReg (0x300000 + k % 0x10000 + 4) = none → exec (.calibrationWrite req k v n) s = .next s))) ∧
  ((∀ (s : State) (ws : List (Nat × Word)), s.sealOpen = false ∨ s.sup.sealNow = true → rwlOk s ws = false) ∧
  (∀ s : State, s.tp.deb = some false → s.tp.sealSt = 2 → ∃ t, exec .sealDebounceComplete s = .next t ∧ t.hp.rwlAcc = [] ∧
    (s.hp.rwlAcc ≠ [] → t.hp.rwlref = true)))

/-- R18, R399: a serving device answers the oldest forwarded request whole, at once unless it writes `LSREIN` while another
reinstatement runs. An accepted request waits for the tick (log 76) and changes nothing else; a refused one sets RWLREF, with REINREF
for a word of `LSREIN` and REFUSED for one of `CALCTL`. At the tick an accepted `MDCTL` orders the state, or the RECOVERY commit and
reset; COMMIT goes to its double decision with two parts reserved, DISCARD restores the committed set; a GO of `LSREIN` starts the
known-answer test and one of `TPCLR` its decision. The model's choices in it: log 76, 82, 83, 94, 110, 123. -/
def Obligations.LegalRequestsAreAnswered : Prop :=
  (∀ (r : RwlReq) (rest : List RwlReq) (s : State), s.hp.rwl = r :: rest → serving s = true →
    katBusy s = false ∨ (∀ e, e ∈ r.words → rwlReg e.1 ≠ some .rein) →
    (rwlOk { s with hp := { s.hp with rwl := rest } } r.words = true →
      exec .rwlRequestAnswer s = .next { s with hp := { s.hp with rwl := rest, rwlAcc := s.hp.rwlAcc ++ [r] } }) ∧
    (rwlOk { s with hp := { s.hp with rwl := rest } } r.words = false → ∃ t, exec .rwlRequestAnswer s = .next t ∧
      t.hp.rwl = rest ∧ t.hp.rwlAcc = s.hp.rwlAcc ∧ t.hp.rwlref = true ∧
      ∀ e, e ∈ r.words → (rwlReg e.1 = some .rein → t.ls.reinref = true) ∧ (rwlReg e.1 = some .calctl → t.met.calRef = true))) ∧
  (∀ s : State, serving s = false ∨ s.hp.rwl = [] → exec .rwlRequestAnswer s = .next s) ∧
  (∀ (r : RwlReq) (rest : List RwlReq) (s : State), s.hp.rwl = r :: rest → katBusy s = true → (∃ e, e ∈ r.words ∧ rwlReg e.1 = some .rein) →
    exec .rwlRequestAnswer s = .next s) ∧
  (∀ (req : Requester) (w : Word) (s : State),
    (s.hp.rwlAcc = [{ req := req, words := [(0x260004, w)] }] →
      (w = 2 → (applyRwl s).sup.modeReq = some .calibrate) ∧ (w = 3 → (applyRwl s).sup.modeReq = some .test) ∧
      (w = 1 → s.sup.st ≠ .recovery → (applyRwl s).sup.modeReq = some .run) ∧
      (w = 0x10 → s.sup.commit = .none → (applyRwl s).sup.order = true ∧ (applyRwl s).sup.commit = .due ∧ (applyRwl s).sup.cause = 6 ∧
        (applyRwl s).sup.commitW = s.tb.frame + 1)) ∧
    (s.hp.rwlAcc = [{ req := req, words := [(0x300000, 1)] }] →
      (applyRwl s).tp.dd = s.tp.dd ++ [{ dec := .calCommit, first := true }] ∧ (applyRwl s).er.pres = s.er.pres + 2) ∧
    (s.hp.rwlAcc = [{ req := req, words := [(0x300000, 2)] }] → (applyRwl s).met.calNext = some s.nv.cal ∧ (applyRwl s).tp.dd = s.tp.dd) ∧
    (w.getLsbD 8 = true → s.hp.rwlAcc = [{ req := req, words := [(0xB0024, w)] }] →
      (applyRwl s).ls.katReq = some w ∧ (applyRwl s).er.pres = s.er.pres + 3) ∧
    (w.getLsbD 31 = true → s.hp.rwlAcc = [{ req := req, words := [(0x210020, w)] }] →
      (applyRwl s).tp.dd = s.tp.dd ++ [{ dec := .stickyClear (w.toNat % 2 ^ 16), first := true }] ∧ (applyRwl s).er.pres = s.er.pres + 1))

/-! ## Integrity (08) and billing (09) -/

/-- R203: in a serving device a read of a whole pair drives its words; halves that are complements change nothing else while no run of
bad reads is open, and halves that are not set RDPAIR and count in `PAIRERR`. An address of no pair, and a device that does not serve,
drive nothing. R207: once 64 ticks have passed since the last slot, and at a pass's start its 24 hours since the last pass's, the scrub
of a serving device that has restored its values reads the next slot; it goes to the one after it, and after the last one ends its
pass. A slot at which no group begins, and one while a commit runs, change nothing else. Otherwise the scrub waits. The model's choices
in it: log 104, 122. -/
def Obligations.PairsAreCheckedAndScrubbed : Prop :=
  ((∀ (req : Requester) (a n : Nat) (s : State), pairLen a = some n → serving s = true →
    (pairOk { s with hp := { s.hp with data := readWords s req a (n / 4) } } req a n = true → s.ls.pairRun = 0 →
      exec (.pairRead req a) s = .next { s with hp := { s.hp with data := readWords s req a (n / 4) } }) ∧
    (pairOk { s with hp := { s.hp with data := readWords s req a (n / 4) } } req a n = false → ∃ t, exec (.pairRead req a) s = .next t ∧
      t.ls.rdpair = true ∧ t.ls.pairerr = min (s.ls.pairerr + 1) 0xFFFFFFFF ∧ t.hp.data = readWords s req a (n / 4))) ∧
  (∀ (req : Requester) (a : Nat) (s : State), pairLen a = none ∨ serving s = false → exec (.pairRead req a) s = .next s)) ∧
  ((∀ s : State, 64 ≤ s.ls.scrubTicks → s.ls.scrub ≠ 0 ∨ s.ls.passWait = 0 → serving s = true → s.sup.restored = false → ∃ t,
    exec .scrubSlot s = .next t ∧ t.ls.scrubTicks = 0 ∧
    (s.ls.scrub + 1 < legalSlots → t.ls.scrub = s.ls.scrub + 1 ∧ t.ls.passes = s.ls.passes) ∧
    (legalSlots ≤ s.ls.scrub + 1 → t.ls.scrub = 0 ∧ t.ls.passes = (s.ls.passes + 1) % 256 ∧ t.ls.passRep = 0) ∧
    (s.ls.scrub = 0 → t.ls.passWait = scrubPeriod) ∧ (critAt s.ls.scrub = none ∨ s.sup.commit ≠ .none → Only [.ls] s t)) ∧
  (∀ s : State, s.ls.scrubTicks < 64 ∨ (s.ls.scrub = 0 ∧ 0 < s.ls.passWait) ∨ serving s = false ∨ s.sup.restored = true →
    exec .scrubSlot s = .next s))

/-- R197, R208, R209: in a serving device, a known-answer test whose 64 chunks have run and that fails refuses the reinstatement and
releases its three parts, one that passes sends it to the double decision; without a test, or before its chunks, nothing happens. An
accepted injection is due at the next tick, a refused one shows result 4, and a write without GO only keeps the fields. The model's
choices in it: log 18, 82. -/
def Obligations.KnownAnswerTestsAndInjections : Prop :=
  (∀ (a b : Bool) (w : Word) (s : State), s.ls.katReq = some w → 64 ≤ s.ls.katChunks → serving s = true →
    (a = true ∨ b = true → ∃ t, exec (.knownAnswerTestDone a b) s = .next t ∧ t.ls.katok = false ∧ t.ls.reinref = true ∧ t.ls.katReq = none ∧
      t.er.pres = s.er.pres - 3 ∧ t.tp = s.tp ∧ Only [.ls, .er, .hp, .qu] s t) ∧
    (a = false → b = false → ∃ t, exec (.knownAnswerTestDone a b) s = .next t ∧ t.ls.katok = true ∧ t.ls.katReq = none ∧
      t.tp.dd = s.tp.dd ++ [{ dec := .reinstate w, first := s.sealOpen && !s.tp.locked }] ∧ Only [.ls, .tp] s t)) ∧
  (∀ (a b : Bool) (s : State), s.ls.katReq = none ∨ s.ls.katChunks < 64 ∨ serving s = false → exec (.knownAnswerTestDone a b) s = .next s) ∧
  (∀ (w : Word) (s : State), serving s = true → w.getLsbD 31 = false →
    exec (.lsinj w) s = .next { s with ls := { s.ls with inj := w &&& 0x00FFFFFF } }) ∧
  (∀ (w : Word) (s : State), serving s = true → w.getLsbD 31 = true → injOk s w = true → ∃ t, exec (.lsinj w) s = .next t ∧
    t.ls = { s.ls with inj := w &&& 0x00FFFFFF, injDue := some w, injres := 0 } ∧ Only [.ls, .er, .hp, .qu] s t) ∧
  (∀ (w : Word) (s : State), serving s = true → w.getLsbD 31 = true → injOk s w = false →
    exec (.lsinj w) s = .next { s with ls := { s.ls with inj := w &&& 0x00FFFFFF, injres := 4 } }) ∧
  (∀ (w : Word) (s : State), serving s = false → exec (.lsinj w) s = .next s)

/-- R214, R219, R220: at a calendar switch in a state that follows the calendar, with the clock valid, every point of SRC 0 takes its
tariff of now, the points in a default tariff or a fallback keep their index unless they wait for the calendar, and no register
changes; waiting points take the tariff of now with SRC 0 when a switch instant has come since the time last ran on, and wait on
otherwise. In other states nothing happens. R221: outside RECOVERY the live points ordered into fallback take their default tariff with
SRC 2, once, and no other point's index changes; without an order nothing happens, and in RECOVERY the order is dropped. The model's
choices in it: log 18, 23. -/
def Obligations.TariffsSwitchAndFallBack : Prop :=
  ((∀ s : State, calendarRuns s = true → ∃ t, exec .tariffSwitch s = .next t ∧ t.bl.w1 = s.bl.w1 ∧ t.bl.w2 = s.bl.w2 ∧ t.bl.md = s.bl.md ∧
    Only [.bl, .er, .hp, .qu] s t ∧
    (s.bl.waiting = [] → (∀ p, p ∈ livePts s → srcOf s p = 0 → tariffOf t p = tariffAt s.plan.calendar s.rtc.sec % 16 ∧ srcOf t p = 0) ∧
      ∀ p, p ∉ livePts s ∨ srcOf s p ≠ 0 → tidx t p = tidx s p) ∧
    (switchIn s.plan.calendar s.bl.evalSec s.rtc.sec = true → t.bl.waiting = [] ∧
      ∀ e, e ∈ s.bl.waiting → tariffOf t e.1 = tariffAt s.plan.calendar s.rtc.sec % 16 ∧ srcOf t e.1 = 0) ∧
    (switchIn s.plan.calendar s.bl.evalSec s.rtc.sec = false → t.bl.waiting = s.bl.waiting)) ∧
  (∀ s : State, calendarRuns s = false → exec .tariffSwitch s = .next s)) ∧
  ((∀ s : State, s.sup.st ≠ .recovery → (s.bl.fbDue.filter fun p => (livePts s).contains p) ≠ [] → ∃ t,
    exec .tariffFallbackApply s = .next t ∧ t.bl.fbDue = [] ∧
    (∀ p, p ∈ s.bl.fbDue → p ∈ livePts s → tariffOf t p = defTariff s p % 16 ∧ srcOf t p = 2 ∧ p ∈ t.bl.fallbk) ∧
    (∀ p, p ∉ s.bl.fbDue → tidx t p = tidx s p) ∧ t.bl.w1 = s.bl.w1 ∧ Only [.bl, .er, .hp, .qu] s t) ∧
  (∀ s : State, s.sup.st = .recovery → exec .tariffFallbackApply s = .next { s with bl := { s.bl with fbDue := [] } }) ∧
  (∀ s : State, s.bl.fbDue = [] → exec .tariffFallbackApply s = .next s))

/-- R223, R224: where billing runs after its restore, an interval whose end has come closes and the next one opens empty; what the
closing ones held waits for the energy of the frame before, in point order, and with no point waiting for the calendar no other
register of a point changes. Otherwise nothing happens. R227, R228: where closes take place with the clock valid, a boundary of the
billing rule that has come while the time ran on and is later than the last closed one closes every point there, with its snapshot
waiting for the last energy, and becomes the last closed boundary; a boundary already closed closes nothing, and without one, or in
other states, nothing happens. A close by command waits in the legal request queue of a serving device. The model's choices in it: log
18, 23, 42, 111. -/
def Obligations.IntervalsAndPeriodsClose : Prop :=
  ((∀ s : State, billing s = true → s.sup.restored = false → s.bl.waiting = [] → ∃ t, exec .demandIntervalEnd s = .next t ∧
    t.bl.fin = s.bl.fin ++ ((livePts s).filter (endDue s)).map
      (fun p => .iv (ivRecord s p (ivAt s p) false (s.stamp (ivFlags s p (ivAt s p))))) ∧
    (∀ p, p ∈ livePts s → endDue s p = true → (ivAt t p).isOpen = true ∧ (ivAt t p).e = [0, 0, 0, 0] ∧ (ivAt t p).ticks = 0) ∧
    (∀ p, endDue s p = false → ivAt t p = ivAt s p) ∧ t.bl.w1 = s.bl.w1 ∧ t.bl.md = s.bl.md ∧ t.bl.tidx = s.bl.tidx ∧
    Only [.bl, .er, .hp, .qu] s t) ∧
  (∀ s : State, billing s = false ∨ s.sup.restored = true → exec .demandIntervalEnd s = .next s)) ∧
  ((∀ (b : Int) (s : State), lastBoundary s.plan.calendar s.rtc.sec = some b → closesRun s = true → s.rtc.valid = true → s.bl.waiting = [] →
    (s.bl.lcb.v.toNat : Int) < b → (s.bl.evalSec : Int) ≤ b → ∃ t l, exec .billingCloseRule s = .next t ∧
      t.bl.lcb = Pair.of (BitVec.ofNat 64 b.toNat) ∧
      t.bl.fin = s.bl.fin ++ l ++ [.set { pts := (livePts s).map (setHead s), stamp := stampAt b false 0, cause := 1, missed := 0,
                                          plan := s.plan.planid, frame := s.tb.frame }] ∧
      t.bl.w1 = s.bl.w1 ∧ Only [.bl, .er, .hp, .qu] s t) ∧
  (∀ (b : Int) (s : State), lastBoundary s.plan.calendar s.rtc.sec = some b → b ≤ (s.bl.lcb.v.toNat : Int) → s.bl.waiting = [] →
    exec .billingCloseRule s = .next s) ∧
  (∀ s : State, lastBoundary s.plan.calendar s.rtc.sec = none ∨ closesRun s = false ∨ s.rtc.valid = false →
    exec .billingCloseRule s = .next s) ∧
  (∀ (req : Requester) (w : Word) (s : State), serving s = true →
    exec (.blcmd req w) s = .next { s with hp := { s.hp with legal := s.hp.legal ++ [.close req w] } }) ∧
  (∀ (req : Requester) (w : Word) (s : State), serving s = false → exec (.blcmd req w) s = .next s))

/-! ## Real-time clock and the Slate domain (10) -/

/-- R238, R240, R241, R248, R252: a second edge moves the clock to the next second at sub-second 0, where each alarm of that second
fires, or sets its latch while latches are in use, and on main power latches the frame and the cycle of the edge; a halted clock has
none, the edge to the last second of the range makes the clock invalid with cause 4, and there the counter stops. The model's choices
in it: log 18, 120, 121. -/
def Obligations.SecondEdges : Prop :=
  ∀ (cyc : Nat) (s : State),
    (s.rtc.halt = true → exec (.rtcSecondEdge cyc) s = .next s) ∧
    (s.rtc.halt = false → s.rtc.sec + 1 < rtcMax → ∃ t, exec (.rtcSecondEdge cyc) s = .next t ∧ t.rtc.sec = s.rtc.sec + 1 ∧ t.rtc.sub = 0 ∧
      t.rtc.valid = s.rtc.valid ∧ t.tb.frame = s.tb.frame ∧
      (s.powered = true → t.tb.secFrame = s.tb.frame ∧ t.tb.secCyc = min cyc 30719 ∧ t.tb.secTicks = 0) ∧
      (∀ n, n < 8 → s.rtc.valid = true → (alarmAt s n).en = true → (alarmAt s n).time = s.rtc.sec + 1 →
        (latchMode s = false → (alarmAt t n).fired = true) ∧ (latchMode s = true → (alarmAt t n).latSet = true))) ∧
    (s.rtc.halt = false → s.rtc.sec + 1 = rtcMax → ∃ t, exec (.rtcSecondEdge cyc) s = .next t ∧ t.rtc.sec = rtcMax ∧ t.rtc.valid = false ∧
      t.rtc.invcause = 4) ∧
    (s.rtc.halt = false → s.rtc.sec = rtcMax → s.powered = true →
      exec (.rtcSecondEdge cyc) s = .next { s with rtc := { s.rtc with edges := s.rtc.edges + 1 } }) ∧
    (s.rtc.halt = false → s.rtc.sec = rtcMax → s.powered = false → exec (.rtcSecondEdge cyc) s =
      .next { s with rtc := { s.rtc with edges := s.rtc.edges + 1 }, tp := { s.tp with slate := s.tp.slate + 4096000 } })

/-- R242, R243: a stopped crystal makes the clock invalid with cause 2, its return clears OSCSTOP only; the supply switch shows in the
supply state and CELLRUN, and the clock becomes invalid with cause 3 when the cell is known below 1.80 V. A falling VBAT shows its 50
mV step on main power, VBATLOW below 2.20 V, and below 1.80 V on the cell the clock is invalid with cause 3. VBATLOW clears above 2.20
V, with a step from there up on main power. R243: a cold start of the Slate domain leaves its registers at their reset values, the keys
erased and the clock invalid with cause 1, drops the record-due marks of Slate acts, and holds 0xC1 and 0xC3 for the restore; a device
that was off is in BACKUP, the frame number and the plan stay. The model's choices in it: log 18. -/
def Obligations.CrystalSupplyAndColdStart : Prop :=
  ((∀ s : State, ∃ t, exec .crystalStop s = .next t ∧ t.rtc.oscstop = true ∧ t.rtc.valid = false ∧ t.rtc.invcause = 2 ∧ t.rtc.sec = s.rtc.sec) ∧
  (∀ s : State, exec .crystalRestore s = .next { s with rtc := { s.rtc with oscstop := false } }) ∧
  (∀ (cell : Bool) (s : State), cell = false ∨ s.rtc.vbatlow = false ∨ s.rtc.vbatOk = false ∨ 1800 ≤ s.rtc.vbat →
    exec (.slateSupplySwitch cell) s = .next { s with rtc := { s.rtc with onCell := cell, cellrun := s.rtc.cellrun || cell } }) ∧
  (∀ s : State, s.rtc.vbatlow = true → s.rtc.vbatOk = true → s.rtc.vbat < 1800 → ∃ t, exec (.slateSupplySwitch true) s = .next t ∧
    t.rtc.onCell = true ∧ t.rtc.cellrun = true ∧ t.rtc.valid = false ∧ t.rtc.invcause = 3 ∧ t.rtc.sec = s.rtc.sec) ∧
  (∀ (mv : Nat) (s : State), ∃ t, exec (.vbatLow mv) s = .next t ∧ t.rtc.sec = s.rtc.sec ∧ t.rtc.vbatlow = (s.rtc.vbatlow || decide (mv < 2200)) ∧
    (s.powered = true → t.rtc.vbat = min 4050 (mv / 50 * 50) ∧ t.rtc.vbatOk = true) ∧ (s.powered = false → t.rtc.vbat = s.rtc.vbat) ∧
    (mv < 1800 → s.rtc.onCell = true → t.rtc.valid = false ∧ t.rtc.invcause = 3) ∧
    (1800 ≤ mv ∨ s.rtc.onCell = false → t.rtc.valid = s.rtc.valid)) ∧
  (∀ s : State, s.powered = false → exec .vbatlowClear s = .next { s with rtc := { s.rtc with vbatlow := false } }) ∧
  (∀ s : State, s.powered = true → ∃ t k, exec .vbatlowClear s = .next t ∧ k < 38 ∧
    t.rtc = { s.rtc with vbatlow := false, vbat := 2200 + 50 * k, vbatOk := true } ∧ Only [.rtc, .fresh] s t)) ∧
  (∀ s : State, ∃ t, exec .slateColdStart s = .next t ∧ t.rtc.valid = false ∧ t.rtc.invcause = 1 ∧ t.rtc.cold = true ∧ t.rtc.sec = 0 ∧
    t.rtc.al = [] ∧ t.rtc.bk = [] ∧ t.rtc.evDue = [(0xC1, 0xFF, some 1), (0xC3, 0xFF, none)] ∧ t.tp.keys = [] ∧ t.tp.src = [] ∧ t.tp.sealSt = 0 ∧
    t.er.due = (s.er.due.filter fun e => !(e.cell || slateAct e.ptype)) ∧ (s.sup.st ≠ .off → t.sup = s.sup) ∧
    (s.sup.st = .off → t.sup = { s.sup with st := .backup }) ∧ Only [.rtc, .clock, .tp, .seal, .sup, .mode, .er] s t)

/-- R244, 01 R20: to a serving device a write of 1 to HALT holds the second and the sub-second and reserves its record, or is refused
with HREF when the privileged area is full or the device locked; under HALT it changes only RELPPS. The time registers take a new
second under HALT, else WERR is set. A device that does not serve takes neither. R240, R245: in a serving device the clear of HALT puts
the written second in force, valid, and hands it to the legal core; the last second of the range makes the clock invalid at once; under
RELPPS the clear waits for the PPS edge; a second beyond the range, or a locked device, resumes the clock where it would be, with WERR
and no set, and so does the time-out, with HTO. Without HALT, or not serving, the clear is nothing, and the time-out without HALT. The
model's choices in it: log 18, 97. -/
def Obligations.ClockHaltsAndIsSet : Prop :=
  ((∀ (req : Requester) (sub : Nat) (pps : Bool) (s : State), serving s = true → s.rtc.halt = false → privFull s.er = false →
    s.tp.locked = false → ∃ t,
    exec (.halt req sub pps) s = .next t ∧ t.rtc.halt = true ∧ t.rtc.haltSec = s.rtc.sec ∧ t.rtc.haltSub = sub % 32768 ∧ t.rtc.haltReq = req ∧
    t.rtc.newSec = s.rtc.sec ∧ t.rtc.relpps = pps ∧ t.er.pres = s.er.pres + 1 ∧ t.rtc.sec = s.rtc.sec ∧ Only [.rtc, .clock, .tb, .er, .hp] s t) ∧
  (∀ (req : Requester) (sub : Nat) (pps : Bool) (s : State), serving s = true → s.rtc.halt = false →
    privFull s.er = true ∨ s.tp.locked = true → exec (.halt req sub pps) s = .next { s with rtc := { s.rtc with href := true, relpps := pps } }) ∧
  (∀ (req : Requester) (sub : Nat) (pps : Bool) (s : State), serving s = true → s.rtc.halt = true →
    exec (.halt req sub pps) s = .next { s with rtc := { s.rtc with relpps := pps } }) ∧
  (∀ (req : Requester) (lo hi : Word) (s : State), serving s = true → s.rtc.halt = true →
    exec (.rtcTimeWrite req (some lo) (some hi)) s =
      .next { s with rtc := { s.rtc with newSec := hi.toNat % 256 * 2 ^ 32 + lo.toNat } }) ∧
  (∀ (req : Requester) (lo hi : Option Word) (s : State), serving s = true → s.rtc.halt = false → ∃ t,
    exec (.rtcTimeWrite req lo hi) s = .next t ∧ t.rtc = { s.rtc with werr := true } ∧ Only [.rtc, .er, .hp, .qu] s t) ∧
  (∀ (req : Requester) (sub : Nat) (pps : Bool) (lo hi : Option Word) (s : State), serving s = false →
    exec (.halt req sub pps) s = .next s ∧ exec (.rtcTimeWrite req lo hi) s = .next s)) ∧
  ((∀ (req : Requester) (dur : Nat) (s : State), serving s = true → s.rtc.halt = true → s.rtc.relpps = false → s.rtc.newSec ≤ rtcMax →
    s.tp.locked = false → ∃ t,
    exec (.clockSet req dur) s = .next t ∧ t.rtc.halt = false ∧ t.rtc.sec = s.rtc.newSec ∧ t.rtc.sub = 0 ∧
    (s.rtc.newSec < rtcMax → t.rtc.valid = true) ∧ (s.rtc.newSec = rtcMax → t.rtc.valid = false ∧ t.rtc.invcause = 4) ∧
    t.rtc.setDue = s.rtc.setDue ++ [((s.rtc.haltSec * 32768 + s.rtc.haltSub + dur) / 32768,
      (s.rtc.haltSec * 32768 + s.rtc.haltSub + dur) % 32768, s.rtc.newSec, s.rtc.haltReq, false, !s.rtc.valid)] ∧
    t.hp.irqsts.getLsbD 11 = true) ∧
  (∀ (req : Requester) (dur : Nat) (s : State), serving s = true → s.rtc.halt = true → s.rtc.relpps = true →
    exec (.clockSet req dur) s = .next { s with rtc := { s.rtc with relWait := true } }) ∧
  (∀ (req : Requester) (dur : Nat) (s : State), serving s = false ∨ s.rtc.halt = false → exec (.clockSet req dur) s = .next s) ∧
  (∀ (req : Requester) (dur : Nat) (s : State), serving s = true → s.rtc.halt = true → s.rtc.relpps = false →
    rtcMax < s.rtc.newSec ∨ s.tp.locked = true → ∃ t,
    exec (.clockSet req dur) s = .next t ∧ t.rtc.halt = false ∧ t.rtc.werr = true ∧ t.rtc.setDue = s.rtc.setDue ∧
    ((s.rtc.haltSec * 32768 + s.rtc.haltSub + dur) / 32768 < rtcMax → t.rtc.valid = s.rtc.valid) ∧
    t.rtc.sec = min rtcMax ((s.rtc.haltSec * 32768 + s.rtc.haltSub + dur) / 32768)) ∧
  (∀ s : State, s.rtc.halt = true → ∃ t, exec .haltTimeout s = .next t ∧ t.rtc.halt = false ∧ t.rtc.hto = true ∧ t.er.pres = s.er.pres - 1 ∧
    t.rtc.sec = min rtcMax ((s.rtc.haltSec * 32768 + s.rtc.haltSub + 327680) / 32768) ∧ Only [.rtc, .clock, .tb, .tp, .bl, .er, .hp, .qu] s t) ∧
  (∀ s : State, s.rtc.halt = false → exec .haltTimeout s = .next s))

/-- R246, R247, R255: in a serving device whose restore is done, the oldest accepted set leaves its 0x03 entry and waits no longer; a
capture shows second, sub-second, frame and cycle of one edge, or the held sub-second under HALT; neither happens in a device that does
not serve. Without a valid edge for 4 s VALID clears and LOSS is set. R254: an edge is valid as the first one or with an interval
within 32,752 to 32,784 cycles; in modes 1 to 3 it shows its offset and, as the 64th in mode 2 or 3, steps TRIM against the frequency
error; a halt that waits for it ends there. Any other edge, and one without power, changes nothing. The model's choices in it: log 18,
97, 107. -/
def Obligations.ClockSetRecordAndPps : Prop :=
  (∀ (d : Nat × Nat × Nat × Requester × Bool × Bool) (l : List (Nat × Nat × Nat × Requester × Bool × Bool)) (s : State),
    s.rtc.setDue = d :: l → serving s = true → s.sup.restored = false → ∃ t, exec .clockSetRecord s = .next t ∧ t.rtc.setDue = l ∧
    { ptype := 0x03, parts := 1, refusable := true, payload := clockSetBytes d } ∈ t.er.due ∧ t.rtc.sec = s.rtc.sec) ∧
  (∀ s : State, s.rtc.setDue = [] ∨ serving s = false ∨ s.sup.restored = true → exec .clockSetRecord s = .next s) ∧
  (∀ (sub cyc : Nat) (s : State), serving s = true → exec (.rtccapGo sub cyc) s =
    .next { s with rtc := { s.rtc with cap := { done := true, halted := s.rtc.halt, invalid := !s.rtc.valid, sec := s.rtc.sec,
                                                sub := if s.rtc.halt then s.rtc.haltSub else sub % 32768, frame := s.tb.frame,
                                                cyc := min cyc 30719 } } }) ∧
  (∀ (sub cyc : Nat) (s : State), serving s = false → exec (.rtccapGo sub cyc) s = .next s) ∧
  (∀ s : State, s.powered = true → s.rtc.ppsValid = true → ∃ t, exec .ppsLoss s = .next t ∧ t.rtc.ppsValid = false ∧ t.rtc.ppsLoss = true ∧
    t.rtc.ppsSeen = false ∧ t.rtc.slew = 0 ∧ Only [.rtc, .er, .hp, .qu] s t) ∧
  (∀ s : State, s.powered = true → s.rtc.ppsValid = false → exec .ppsLoss s = .next { s with rtc := { s.rtc with ppsSeen := false } }) ∧
  (∀ s : State, s.powered = false → exec .ppsLoss s = .next s) ∧
  (∀ (iv dur : Nat) (ofs : Int) (s : State), s.powered = true → s.rtc.ppsSeen = false ∨ (32752 ≤ iv ∧ iv ≤ 32784) →
    (s.rtc.halt = false ∨ s.rtc.relWait = false → s.rtc.ppsMode = 0 →
      exec (.ppsEdge iv ofs dur) s = .next { s with rtc := { s.rtc with ppsSeen := true } }) ∧
    (s.rtc.halt = false ∨ s.rtc.relWait = false → s.rtc.ppsMode ≠ 0 → ∃ t, exec (.ppsEdge iv ofs dur) s = .next t ∧ t.rtc.ppsSeen = true ∧
      t.rtc.ppsValid = true ∧ t.rtc.ppse = satS 16 ofs ∧
      t.rtc.trim = (if 2 ≤ s.rtc.ppsMode ∧ s.rtc.ppsN = 63 then
        trimStep s.rtc.trim (ppsFreq s.rtc.trim (if s.rtc.ppsValid then (iv :: s.rtc.ppsIv).take 64 else [])) else s.rtc.trim) ∧
      Only [.rtc, .er, .hp, .qu] s t) ∧
    (s.rtc.halt = true → s.rtc.relWait = true → s.rtc.newSec < rtcMax → s.tp.locked = false → ∃ t, exec (.ppsEdge iv ofs dur) s = .next t ∧
      t.rtc.halt = false ∧ t.rtc.sec = s.rtc.newSec ∧ t.rtc.valid = true ∧ t.rtc.sub = 0)) ∧
  (∀ (iv dur : Nat) (ofs : Int) (s : State), s.powered = false ∨ (s.rtc.ppsSeen = true ∧ (iv < 32752 ∨ 32784 < iv)) →
    exec (.ppsEdge iv ofs dur) s = .next s)

/-! ## Seal and tamper (11) -/

/-- R260, R261: a level change of SEAL_N starts the debounce, which a further change restarts. A level counts once its debounce is
complete: low requests an opening when the seal is closed and re-armed, high withdraws a request, closes an open seal with its record,
or re-arms a closed one. Without a debounce nothing happens. The model's choices in it: log 8, 18. -/
def Obligations.SealPinMovesTheSeal : Prop :=
  (∀ (low : Bool) (s : State), s.tp.deb = none → exec (.sealPinChange low) s = .next { s with tp := { s.tp with deb := some low } }) ∧
  (∀ (low : Bool) (s : State), s.tp.deb ≠ none → ∃ t, exec (.sealPinChange low) s = .next t ∧ t.tp.deb = some low ∧ t.tp.sealSt = s.tp.sealSt ∧
    t.tp.pin = s.tp.pin) ∧
  (∀ s : State, s.tp.deb = none → exec .sealDebounceComplete s = .next s) ∧
  (∀ s : State, s.tp.deb = some true → s.tp.sealSt = 0 → s.tp.rearm = true → exec .sealDebounceComplete s =
    .next { s with tp := { s.tp with deb := none, pin := true, sealSt := 1, pendcell := s.rtc.onCell } }) ∧
  (∀ s : State, s.tp.deb = some true → s.tp.rearm = false ∨ s.tp.sealSt ≠ 0 → exec .sealDebounceComplete s =
    .next { s with tp := { s.tp with deb := none, pin := true } }) ∧
  (∀ s : State, s.tp.deb = some false → s.tp.sealSt = 1 → exec .sealDebounceComplete s =
    .next { s with tp := { s.tp with deb := none, pin := false, sealSt := 0, pendcell := false } }) ∧
  (∀ s : State, s.tp.deb = some false → s.tp.sealSt = 0 → exec .sealDebounceComplete s =
    .next { s with tp := { s.tp with deb := none, pin := false, rearm := true } }) ∧
  (∀ s : State, s.tp.deb = some false → s.tp.sealSt = 2 → ∃ t, exec .sealDebounceComplete s = .next t ∧ t.tp.sealSt = 0 ∧
    t.tp.sealst = Pair.of 0xC5 ∧ t.sealOpen = false ∧ t.sup.sealNow = true ∧ t.sup.modeReq = none ∧
    (∃ e, e ∈ t.er.due ∧ e.ptype = 0x02) ∧ Only [.sup, .qu, .met, .ls, .rtc, .tp, .er, .hp, .seal] s t)

/-- R261, R268, R269: in a serving device the first evaluation of a requested opening reserves its record and waits for the second, or
denies it when the privileged area is full; the second one, undisturbed and reading the pin low, opens the seal with its record;
disturbed, it denies; a request withdrawn meanwhile releases its record. A granting decision waits while the device does not serve. A
protecting one only shows its outcome: its action has started and stands. Without a request, or with its evaluation under way, nothing
happens. The model's choices in it: log 95, 110. -/
def Obligations.SealOpensByTwoEvaluations : Prop :=
  (∀ s : State, s.tp.sealSt = 1 → s.tp.pendcell = false → serving s = true → (s.tp.dd.any fun d => d.dec == .sealOpen) = false →
    (privFull s.er = false → ∃ t, exec .sealOpenDecision s = .next t ∧
      t.tp = { s.tp with dd := s.tp.dd ++ [{ dec := .sealOpen, first := true }] } ∧ t.er.pres = s.er.pres + 1 ∧ Only [.tp, .er, .hp] s t) ∧
    (privFull s.er = true → ∃ t, exec .sealOpenDecision s = .next t ∧ t.tp.sealSt = 0 ∧ t.tp.deny = true ∧ t.tp.rearm = false ∧
      Only [.tp, .seal, .er, .hp, .qu] s t)) ∧
  (∀ s : State, s.tp.sealSt ≠ 1 ∨ s.tp.pendcell = true ∨ serving s = false ∨ (s.tp.dd.any fun d => d.dec == .sealOpen) = true →
    exec .sealOpenDecision s = .next s) ∧
  (∀ (rest : List PendDec) (s : State), s.tp.dd = { dec := .sealOpen, first := true } :: rest → serving s = true →
    (s.tp.sealSt = 1 → s.tp.pin = true → ∃ t, exec (.secondEvaluator false) s = .next t ∧ t.tp.sealSt = 2 ∧ t.sealOpen = true ∧
      t.tp.sealcnt = min (s.tp.sealcnt + 1) 0xFFFFFFFF ∧ t.tp.dd = rest ∧ (∃ e, e ∈ t.er.due ∧ e.ptype = 0x01)) ∧
    (s.tp.sealSt = 1 → s.tp.pin = true → ∃ t, exec (.secondEvaluator true) s = .next t ∧ t.tp.sealSt = 0 ∧ t.tp.deny = true ∧
      t.tp.dddis = true ∧ t.sealOpen = false ∧ t.tp.dd = rest ∧ t.er.pres = s.er.pres - 1) ∧
    (s.tp.sealSt ≠ 1 → ∀ upset, exec (.secondEvaluator upset) s =
      .next { s with tp := { s.tp with dd := rest }, er := { s.er with pres := s.er.pres - 1 } })) ∧
  (∀ (upset : Bool) (d : PendDec) (rest : List PendDec) (s : State), s.tp.dd = d :: rest →
    (d.dec.protecting = false → serving s = false → exec (.secondEvaluator upset) s = .next s) ∧
    (d.dec.protecting = true → ∃ t, exec (.secondEvaluator upset) s = .next t ∧ t.tp.dd = rest ∧ t.tp.keys = s.tp.keys ∧
      t.tp.locked = s.tp.locked ∧ t.tp.fallbk = s.tp.fallbk ∧ t.bl = s.bl)) ∧
  (∀ (upset : Bool) (s : State), s.tp.dd = [] → exec (.secondEvaluator upset) s = .next s)

/-- R264 to R266, R271: the active level of a pin whose static detector runs, a supply glitch on main power, and a die temperature that
leaves −50 °C to 135 °C are events of their enabled sources: the first opens the window and counts 1, a later one in it counts on. The
event that reaches N declares the source, which sets its sticky flag with the second of the declaration and, where its configuration
says so, erases the keys and locks. An inactive level only ends the active mark, a temperature within the range only re-arms its
source, a disabled glitch source has no event. The window's end clears the count. A burst multiple advances the burst phase and takes
written modes where their period divides it; a missing bit is an event of a pin that bursts, and no other pin counts. The model's
choices in it: log 9, 18, 121. -/
def Obligations.TamperSourcesCount : Prop :=
  let counts (n : Nat) (s t : State) : Prop := (srcAt t n).isOpen = true ∧
    ((srcAt s n).isOpen = false → (srcAt t n).cnt = 1 ∧
      (2 ≤ srcN (srcAt s n) → (srcAt t n).sticky = (srcAt s n).sticky ∧ t.tp.locked = s.tp.locked ∧ t.tp.keys = s.tp.keys) ∧
      (srcN (srcAt s n) ≤ 1 → (srcAt t n).sticky = true ∧ (srcAt t n).dsec = s.rtc.sec ∧
        (wbit (srcAt s n).cfg 16 = true → t.tp.keys = [] ∧ t.tp.erased = true) ∧ (wbit (srcAt s n).cfg 17 = true → t.tp.locked = true))) ∧
    ((srcAt s n).isOpen = true → windowOver s n = false → (srcAt t n).cnt = min 255 ((srcAt s n).cnt + 1))
  (∀ (n : Nat) (high : Bool) (s : State), n < 8 → srcMode s n = 1 ∨ srcMode s n = 3 → activeLevel s n high = true → ∃ t,
    exec (.tamperStaticEvent ⟨n, high⟩) s = .next t ∧ counts n s t ∧ (srcAt t n).active = true) ∧
  (∀ (n : Nat) (high : Bool) (s : State), n < 8 → (srcMode s n ≠ 1 ∧ srcMode s n ≠ 3) ∨ activeLevel s n high = false → ∃ t,
    exec (.tamperStaticEvent ⟨n, high⟩) s = .next t ∧ srcAt t n = { srcAt s n with active := false } ∧ (∀ k, k ≠ n → srcAt t k = srcAt s k) ∧
    Only [.tp] s t) ∧
  (∀ s : State, srcMode s 11 ≠ 0 → s.rtc.onCell = false → ∃ t, exec .supplyGlitch s = .next t ∧ counts 11 s t) ∧
  (∀ s : State, srcMode s 11 = 0 ∨ s.rtc.onCell = true → exec .supplyGlitch s = .next s) ∧
  (∀ (x : Int) (s : State), x < -50 ∨ 135 < x → s.tp.tempOk = true → srcMode s 10 ≠ 0 → ∃ t, exec (.dieTempSample x) s = .next t ∧
    counts 10 s t ∧ t.tp.tempOk = false) ∧
  (∀ (x : Int) (s : State), -50 ≤ x → x ≤ 135 → exec (.dieTempSample x) s = .next { s with tp := { s.tp with tempOk := true } }) ∧
  (∀ (x : Int) (s : State), x < -50 ∨ 135 < x → s.tp.tempOk = false ∨ srcMode s 10 = 0 →
    exec (.dieTempSample x) s = .next { s with tp := { s.tp with tempOk := false } }) ∧
  (∀ (n : Nat) (s : State), n < 16 → (srcAt s n).isOpen = true → ∃ t, exec (.tamperWindowClose n) s = .next t ∧ (srcAt t n).isOpen = false ∧
    (srcAt t n).cnt = 0 ∧ (srcAt t n).sticky = (srcAt s n).sticky ∧ Only [.tp, .er, .hp, .qu, .rtc] s t) ∧
  (∀ (n : Nat) (s : State), n < 16 → (srcAt s n).isOpen = false → exec (.tamperWindowClose n) s = .next s) ∧
  (∀ (missing : List Nat) (s : State), ∃ t, exec (.loopBurst missing) s = .next t ∧ t.tp.burst = (s.tp.burst + 1024) % 32768 ∧
    ∀ n, n < 8 →
      (srcAt t n).mode = (if t.tp.burst % burstPeriod (wbits (srcAt s n).cfg 5 4) = 0 then wbits (srcAt s n).cfg 1 0 else (srcAt s n).mode) ∧
      (n ∉ missing → (srcAt t n).cnt = (srcAt s n).cnt ∧ (srcAt t n).sticky = (srcAt s n).sticky) ∧
      (n ∈ missing → bursts t n = true → (srcAt s n).isOpen = false → (srcAt t n).isOpen = true ∧ (srcAt t n).cnt = 1))

/-! ## Event recorder (12) -/

/-- R283, R285, R286, R296: of a powered device, a summary whose window has ended leaves the working set for the area, at the place
that R286 gives, or waits while a clear pass runs; before its window's end, for a key without a summary and without power nothing
happens. R287: a token comes back at the refill instant, up to BURST, and the next instant is one period on; before it, or with period
0, none does. R289 to R292: of a powered device, the oldest due entry whose parts are reserved or find room is written as its parts,
numbered on, and its reservation ends; a single part takes its position of the ring and moves nothing else there. An entry alone that
finds no room stays due and is counted lost once. Without a due entry, and without power, nothing happens. The model's choices in it:
log 18, 21, 112. -/
def Obligations.RecordsAreWritten : Prop :=
  ((∀ (code chan i : Nat) (m : Summary) (s : State), keyIx s.er.work code chan = some i → s.er.work[i]? = some m → s.powered = true →
    m.fops + agwOf s.er m.sev ≤ s.er.ops → ∃ t, exec (.summaryWindowClose code chan) s = .next t ∧ t.er.work = s.er.work.eraseIdx i ∧
    (s.er.clrbusy = true → t.er.waitS = s.er.waitS ++ [m] ∧ t.er.area0 = s.er.area0) ∧
    (s.er.clrbusy = false → ∀ k, placeOf s.er m.sev = some k →
      (∀ d, tget d k t.er.area0 = { m with sseq := s.er.snext }) ∧ t.er.snext = s.er.snext + 1) ∧ Only [.er, .hp] s t) ∧
  (∀ (code chan i : Nat) (m : Summary) (s : State), keyIx s.er.work code chan = some i → s.er.work[i]? = some m →
    s.er.ops < m.fops + agwOf s.er m.sev ∨ s.powered = false → exec (.summaryWindowClose code chan) s = .next s) ∧
  (∀ (code chan : Nat) (s : State), keyIx s.er.work code chan = none → exec (.summaryWindowClose code chan) s = .next s) ∧
  (∀ (code : Nat) (b : Bucket) (s : State), tget (bucketReset code) code s.er.rl = b →
    (b.period ≠ 0 → b.next ≤ s.sup.startTicks → ∃ t, exec (.tokenRefill code) s = .next t ∧ Only [.er] s t ∧
      tget (bucketReset code) code t.er.rl = { b with tokens := min b.burst (b.tokens + 1), next := b.next + b.period * 16 } ∧
      ∀ k d, k ≠ code → tget d k t.er.rl = tget d k s.er.rl) ∧
    (b.period = 0 ∨ s.sup.startTicks < b.next → exec (.tokenRefill code) s = .next s))) ∧
  ((∀ (e : PrivDue) (rest : List PrivDue) (s : State), s.er.due = e :: rest → s.powered = true → writable s.er e = true → ∃ t,
    exec .privilegedEntryWrite s = .next t ∧ t.er.due = rest ∧ t.er.pseq = s.er.pseq + e.parts ∧
    t.er.pres = (if e.refusable = true then s.er.pres - e.parts else s.er.pres) ∧ t.er.wm = s.er.wm ∧ Only [.er, .hp] s t ∧
    (e.parts = 1 → ∃ p : PrivPart, (∀ d, tget d (s.er.pseq % 4096) t.er.parts = p) ∧ p.seq = s.er.pseq ∧ p.ptype = e.ptype ∧ p.count = 1 ∧
      p.frame = s.tb.frame ∧ ∀ (d : PrivPart) k, k ≠ s.er.pseq % 4096 → tget d k t.er.parts = tget d k s.er.parts)) ∧
  (∀ (e : PrivDue) (s : State), s.er.due = [e] → s.powered = true → writable s.er e = false → ∃ t, exec .privilegedEntryWrite s = .next t ∧
    t.er.due = [{ e with lost := true }] ∧ t.er.pseq = s.er.pseq ∧ t.er.parts = s.er.parts ∧
    t.er.plostN = (if e.lost = true then s.er.plostN else satAdd s.er.plostN e.parts) ∧ Only [.er, .hp] s t) ∧
  (∀ s : State, s.er.due = [] ∨ s.powered = false → exec .privilegedEntryWrite s = .next s))

/-- R17, R293, R295: an acknowledgement and a clear of the host and the application core wait for the legal core of a serving device,
those of the others do nothing. R296: the clear pass of a powered device ends once it has covered the 12,272 records, and the summaries
that waited are written. R297: of a serving device, a completed read of `ERWIN15` moves the cursor by one in mode 1, to the next valid
record in mode 2, and not in mode 0 or in area 3; at the end it sets END. R17, R18, R293, R295, 09 R228: the legal core of a serving
device answers the oldest waiting request and leaves its answer on the queue: an acknowledgement moves the watermark with its entry or
sets ACKREF; a clear that the seal or the tag authorises, with the area not full, starts the pass with its entry, another one sets
CLRREF; a close by command waits for the next tick or sets CREF. Under the recovery monitor clears and closes are refused. Without a
request, or not serving, nothing happens. The model's choices in it: log 18, 111, 123. -/
def Obligations.RecorderRequestsAreAnswered : Prop :=
  ((∀ (req : Requester) (a d0 d1 : Option Word) (s : State), req = .host ∨ req = .app → serving s = true →
    exec (.erpack req a d0 d1) s = .next { s with hp := { s.hp with legal := s.hp.legal ++ [.ack req a d0 d1] } } ∧
    exec (.ersclr req) s = .next { s with hp := { s.hp with legal := s.hp.legal ++ [.clear req] } }) ∧
  (∀ (req : Requester) (a d0 d1 : Option Word) (s : State), req = .legal ∨ req = .chain ∨ serving s = false →
    exec (.erpack req a d0 d1) s = .next s ∧ exec (.ersclr req) s = .next s) ∧
  (∀ s : State, s.powered = true → s.er.clrbusy = true → 12272 ≤ s.er.clrPos → ∃ t, exec .summaryClearPassEnd s = .next t ∧
    t.er.clrbusy = false ∧ t.er.waitS = [] ∧ t.er.work = s.er.work ∧ Only [.er, .hp] s t) ∧
  (∀ s : State, s.powered = false ∨ s.er.clrbusy = false ∨ s.er.clrPos < 12272 → exec .summaryClearPassEnd s = .next s) ∧
  (∀ (req : Requester) (lim : Nat) (s : State), serving s = true → areaLimit s.er = some lim →
    (s.er.mode = 1 → s.er.cidx + 1 ≤ lim → exec (.erwin15Read req) s = .next { s with er := { s.er with cidx := s.er.cidx + 1 } }) ∧
    (s.er.mode = 1 → lim < s.er.cidx + 1 → exec (.erwin15Read req) s = .next { s with er := { s.er with atEnd := true } }) ∧
    (∀ i, s.er.mode = 2 → nextValid s.er = some i → exec (.erwin15Read req) s = .next { s with er := { s.er with cidx := i } }) ∧
    (s.er.mode = 2 → nextValid s.er = none → exec (.erwin15Read req) s = .next { s with er := { s.er with atEnd := true } })) ∧
  (∀ (req : Requester) (s : State), s.er.mode = 0 ∨ 2 < s.er.area ∨ serving s = false → exec (.erwin15Read req) s = .next s)) ∧
  ((∀ (req : Requester) (a d0 d1 : Word) (rest : List LegalReq) (s : State), serving s = true →
    s.hp.legal = .ack req (some a) (some d0) (some d1) :: rest →
    (ackOk s.er a d0 d1 = true → ∃ t, exec .legalRequest s = .next t ∧ t.hp.legal = rest ∧ t.er.wm = a.toNat ∧
      (∃ e, e ∈ t.er.due ∧ e.ptype = 0x0E) ∧ t.hp.legalAns.getLast? = some { req := req, kind := 0, done := true } ∧ Only [.er, .hp] s t) ∧
    (ackOk s.er a d0 d1 = false → ∃ t, exec .legalRequest s = .next t ∧ t.hp.legal = rest ∧ t.er = { s.er with ackref := true } ∧
      t.hp.legalAns.getLast? = some { req := req, kind := 0, done := false } ∧ Only [.er, .hp] s t)) ∧
  (∀ (req : Requester) (rest : List LegalReq) (s : State), serving s = true → s.hp.legal = .clear req :: rest →
    (monitorRuns s = true ∨ privFull s.er = true ∨ (s.sealOpen = false ∧ gmacOk s = false) → ∃ t, exec .legalRequest s = .next t ∧
      t.hp.legal = rest ∧ t.er.clrref = true ∧ t.er.clrbusy = s.er.clrbusy ∧ t.er.area0 = s.er.area0 ∧
      t.hp.legalAns.getLast? = some { req := req, kind := 1, done := false }) ∧
    (monitorRuns s = false → privFull s.er = false → s.sealOpen = true ∨ gmacOk s = true → ∃ t, exec .legalRequest s = .next t ∧
      t.hp.legal = rest ∧ t.er.clrbusy = true ∧ t.er.clrPos = 0 ∧ (∃ e, e ∈ t.er.due ∧ e.ptype = 0x0D) ∧
      t.hp.legalAns.getLast? = some { req := req, kind := 1, done := true })) ∧
  (∀ (req : Requester) (w : Word) (rest : List LegalReq) (s : State), serving s = true → s.hp.legal = .close req w :: rest → monitorRuns s = false →
    (closeOk s w = true → ∃ t, exec .legalRequest s = .next t ∧ t.hp.legal = rest ∧ t.bl = { s.bl with cmdDue := some w } ∧
      t.hp.legalAns.getLast? = some { req := req, kind := 2, done := true }) ∧
    (w.getLsbD 8 = true → closeOk s w = false → ∃ t, exec .legalRequest s = .next t ∧ t.hp.legal = rest ∧ t.bl = { s.bl with cref := true } ∧
      t.hp.legalAns.getLast? = some { req := req, kind := 2, done := false })) ∧
  (∀ s : State, serving s = false ∨ s.hp.legal = [] → exec .legalRequest s = .next s))

/-! ## Display (13) -/

/-- R302 to R305: a display that is to be on, with all rails off, starts its power-up with VNEG, after a rail fault once 160,000 ticks
have passed; each good rail enables the next, VCOM starting the step grid; a rail that was good, or is late, may fault, which cuts the
drive. Power-down darkens first, or cuts the drive where VCOM is not good or a commit forces it, and the discharged rails go off in
turn. Where these conditions fail nothing happens. The model's choices in it: log 18, 69, 137. -/
def Obligations.DisplayRails : Prop :=
  (∀ s : State, displayPowered s = true → s.dp.en = true → s.dp.railBad = false → railsOff s.dp = true → s.dp.poweringDown = false → ∃ t,
    exec .displayPowerUp s = .next t ∧ t.dp.vneg = .enabled ∧ t.dp.vpos = .off ∧ t.dp.vcom = .off ∧ t.dp.poweringUp = true ∧ t.dp.lit = false ∧
    t.dp.railTicks = 0 ∧ Only [.dp, .er, .hp, .qu] s t) ∧
  (∀ s : State, displayPowered s = false ∨ s.dp.en = false ∨ s.dp.railBad = true ∨ railsOff s.dp = false ∨ s.dp.poweringDown = true →
    exec .displayPowerUp s = .next s) ∧
  (∀ s : State, displayPowered s = true → s.dp.en = true → s.dp.railBad = true → 160000 ≤ s.dp.retry → railsOff s.dp = true → ∃ t,
    exec .railRetry s = .next t ∧ t.dp.vneg = .enabled ∧ t.dp.poweringUp = true ∧ t.dp.retry = 0 ∧ Only [.dp, .er, .hp, .qu] s t) ∧
  (∀ s : State, displayPowered s = false ∨ s.dp.en = false ∨ s.dp.railBad = false ∨ s.dp.retry < 160000 ∨ railsOff s.dp = false →
    exec .railRetry s = .next s) ∧
  (∀ s : State, s.powered = true → s.dp.poweringUp = true →
    (s.dp.vneg = .enabled → exec (.railGood 0) s = .next { s with dp := { s.dp with vneg := .good, vpos := .enabled, railTicks := 0 } }) ∧
    (s.dp.vpos = .enabled → exec (.railGood 1) s = .next { s with dp := { s.dp with vpos := .good, vcom := .enabled, railTicks := 0 } }) ∧
    (s.dp.vcom = .enabled → ∃ t, exec (.railGood 2) s = .next t ∧ t.dp.vcom = .good ∧ t.dp.poweringUp = false ∧ t.dp.railBad = false ∧
      t.dp.grid = some 0 ∧ Only [.dp, .fresh] s t)) ∧
  (∀ (r : Nat) (s : State), r < 3 → s.powered = false ∨ s.dp.poweringUp = false ∨ railAt s.dp r ≠ .enabled → exec (.railGood r) s = .next s) ∧
  (∀ (r : Nat) (s : State), r < 3 → railMayFault s.dp r = true → s.dp.poweringDown = false → s.powered = true → ∃ t,
    exec (.railFault r) s = .next t ∧ t.dp.rfault = true ∧ t.dp.railBad = true ∧ t.dp.vcom = .off ∧ t.dp.lit = false ∧ t.dp.grid = none ∧
    t.dp.retry = 0 ∧ dispCond t.dp = (if s.dp.en then 2 else 0) ∧ Only [.dp, .er, .hp, .qu] s t) ∧
  (∀ (r : Nat) (s : State), r < 3 → railMayFault s.dp r = false ∨ s.dp.poweringDown = true ∨ s.powered = false → exec (.railFault r) s = .next s) ∧
  (∀ s : State, railsOff s.dp = false →
    (s.dp.en = false → s.dp.vcom = .good →
      exec (.displayPowerDown false) s = .next { s with dp := { s.dp with lit := false, flkEff := 0, poweringDown := true } }) ∧
    (s.dp.en = false → s.dp.vcom ≠ .good → ∃ t, exec (.displayPowerDown false) s = .next t ∧ t.dp.lit = false ∧ t.dp.vcom = .off ∧
      t.dp.grid = none ∧ t.dp.poweringUp = false ∧ t.dp.poweringDown = true ∧ Only [.dp] s t) ∧
    (s.sup.commit ≠ .none → ∃ t, exec (.displayPowerDown true) s = .next t ∧ t.dp.lit = false ∧ t.dp.vcom = .off ∧ t.dp.grid = none ∧
      t.dp.poweringUp = false ∧ t.dp.poweringDown = true ∧ Only [.dp] s t) ∧
    (s.dp.en = true → exec (.displayPowerDown false) s = .next s) ∧ (s.sup.commit = .none → exec (.displayPowerDown true) s = .next s)) ∧
  (∀ (f : Bool) (s : State), railsOff s.dp = true → exec (.displayPowerDown f) s = .next s) ∧
  (∀ s : State, s.dp.poweringDown = true →
    (s.dp.vcom = .off → exec (.railDischarged 2) s = .next { s with dp := { s.dp with vpos := .off } }) ∧
    (s.dp.vpos = .off → exec (.railDischarged 1) s = .next { s with dp := { s.dp with vneg := .off, poweringDown := false } })) ∧
  (∀ (r : Nat) (s : State), r < 3 → s.dp.poweringDown = false ∨ r = 0 ∨ (r = 2 ∧ s.dp.vcom ≠ .off) ∨ (r = 1 ∧ s.dp.vpos ≠ .off) →
    exec (.railDischarged r) s = .next s)

/-- R300, R307, R313: a step boundary comes with the 320th tick of the grid of a powered device, where the profile in force stays or
the accepted one takes effect; before it, and without a grid, nothing happens. To a serving device an accepted profile waits, a refused
one shows its reason; a write of a free region by the host or the application core is a request for it: a PENDING region takes the
target, a DRIVING one keeps it for its end, an IDLE one becomes PENDING unless it shows it; other requesters only read. The model's
choices in it: log 18, 137. -/
def Obligations.DisplayDrive : Prop :=
  (∀ (l : List Nat) (s : State), s.dp.grid = none ∨ s.powered = false ∨ (∃ n, s.dp.grid = some n ∧ n < 320) → exec (.driveStep l) s = .next s) ∧
  (∀ (l : List Nat) (n : Nat) (s : State), s.dp.grid = some n → 320 ≤ n → s.powered = true → ∃ t, exec (.driveStep l) s = .next t ∧
    Only [.dp, .fresh, .er, .hp, .qu] s t ∧ (t.dp.grid = some 0 ∨ t.dp.grid = none) ∧
    ((t.dp.profile = s.dp.profile ∧ t.dp.profNext = s.dp.profNext) ∨ (some t.dp.profile = s.dp.profNext ∧ t.dp.profNext = none))) ∧
  (∀ (req : Requester) (s : State), serving s = true → ∃ t, exec (.pload req) s = .next t ∧ Only [.dp, .er, .hp, .qu] s t ∧
    (profileCheck (stageBytes s) = 0 → t.dp = { s.dp with profNext := some (stageBytes s), pcrc := word (leAt (stageBytes s) 0x3FC 4) }) ∧
    (profileCheck (stageBytes s) ≠ 0 → t.dp = { s.dp with profref := true, prsn := profileCheck (stageBytes s) })) ∧
  (∀ (req : Requester) (s : State), serving s = false → exec (.pload req) s = .next s) ∧
  (∀ (req : Requester) (r : Nat) (w : Word) (s : State), 12 ≤ r → r < 16 → req = .host ∨ req = .app → serving s = true → ∃ t,
    exec (.dpfree req r w) s = .next t ∧ tget 0 (r - 12) t.dp.free = w &&& 0x3FFF ∧ Only [.dp] s t ∧ (∀ k, k ≠ r → rgnAt t k = rgnAt s k) ∧
    rgnAt t r = (match (rgnAt s r).st with
      | .pending => { rgnAt s r with target := (w &&& 0x3FFF).setWidth 24 }
      | .driving => { rgnAt s r with pend := some ((w &&& 0x3FFF).setWidth 24) }
      | .idle => { rgnAt s r with target := (w &&& 0x3FFF).setWidth 24,
                                  st := if (segsOf r).all (fun n => segShows (segAt s n) (wantsDark ((w &&& 0x3FFF).setWidth 24) r n)) then .idle
                                    else .pending })) ∧
  (∀ (req : Requester) (r : Nat) (w : Word) (s : State), 12 ≤ r → r < 16 → req = .legal ∨ req = .chain ∨ serving s = false →
    exec (.dpfree req r w) s = .next s)

/-- R322, R323: of a serving device with the frontlight on, the scroll advances at the end of the dwell and at a button press, a long
press shows the first item; a press in mode 2 suspends the automatic advance, which comes back after 960,000 ticks; the shown item is
redrawn when its content has changed and 80,000 ticks have passed since it was drawn, and stays else. Not serving, without the
frontlight, with the buttons off in mode 0, with no automatic advance or before the dwell, nothing happens. The model's choices in it:
log 18, 137. -/
def Obligations.ScrollAdvances : Prop :=
  (∀ s : State, s.dp.lit = true → serving s = true → s.plan.scrollMode ≠ 1 → s.dp.suspend = none → s.plan.scrollDwell * 16000 ≤ s.dp.shown → ∃ t,
    exec .scrollDwellExpiry s = .next t ∧ t.dp.item = (if s.dp.item + 1 < s.plan.scroll.length then s.dp.item + 1 else 0) ∧ t.dp.shown = 0 ∧
    t.dp.sinceDraw = 0) ∧
  (∀ s : State, s.dp.lit = false ∨ serving s = false ∨ s.plan.scrollMode = 1 ∨ s.dp.suspend ≠ none ∨ s.dp.shown < s.plan.scrollDwell * 16000 →
    exec .scrollDwellExpiry s = .next s) ∧
  (∀ s : State, s.dp.lit = true → serving s = true → s.plan.scrollMode ≠ 0 → ∃ t, exec .buttonPress s = .next t ∧
    t.dp.item = (if s.dp.item + 1 < s.plan.scroll.length then s.dp.item + 1 else 0) ∧ t.dp.shown = 0 ∧
    t.dp.suspend = (if s.plan.scrollMode = 2 then some 0 else s.dp.suspend)) ∧
  (∀ s : State, s.dp.lit = true → serving s = true → s.plan.scrollMode ≠ 0 → ∃ t, exec .buttonLongPress s = .next t ∧ t.dp.item = 0 ∧
    t.dp.shown = 0 ∧ t.dp.suspend = s.dp.suspend) ∧
  (∀ s : State, s.dp.lit = false ∨ serving s = false ∨ s.plan.scrollMode = 0 → exec .buttonPress s = .next s ∧ exec .buttonLongPress s = .next s) ∧
  (∀ (n : Nat) (s : State), s.dp.suspend = some n → 960000 ≤ n →
    exec .autoScrollResume s = .next { s with dp := { s.dp with suspend := none } }) ∧
  (∀ s : State, s.dp.suspend = none ∨ (∃ n, s.dp.suspend = some n ∧ n < 960000) → exec .autoScrollResume s = .next s) ∧
  (∀ s : State, s.dp.lit = true → serving s = true → shownTargets (itemShown s (scrollItem s)) ≠ s.dp.drawn → 80000 ≤ s.dp.sinceDraw → ∃ t,
    exec .itemRedraw s = .next t ∧ t.dp.sinceDraw = 0 ∧ t.dp.drawn = shownTargets (itemShown s (scrollItem s)) ∧ t.dp.item = s.dp.item) ∧
  (∀ s : State, s.dp.lit = true → serving s = true → shownTargets (itemShown s (scrollItem s)) = s.dp.drawn ∨ s.dp.sinceDraw < 80000 → ∃ t,
    exec .itemRedraw s = .next t ∧ t.dp.sinceDraw = s.dp.sinceDraw ∧ t.dp.drawn = s.dp.drawn ∧ t.dp.item = s.dp.item) ∧
  (∀ s : State, s.dp.lit = false ∨ serving s = false → exec .itemRedraw s = .next s)

/-! ## Trust (14) -/

/-- R327 to R332: in BOOT, before a commit, the boot stages run once; with a working device key they keep the public key, whose hash
the first BOOT enrols and a later one compares; they say which cores have an image and leave no mark of an expired confirmation.
Elsewhere nothing happens. The model's choices in it: log 18, 87. -/
def Obligations.BootStagesRunOnce : Prop :=
  (∀ (k : Bool) (pub : List Byte) (s : State), s.sup.st = .boot → s.sup.commit = .none → s.sup.boot = none → s.sup.recmon = false → ∃ t l a,
    exec (.bootStages k pub) s = .next t ∧ t.sup.boot = some (l, a) ∧ t.sup.st = .boot ∧ t.tr.confOut = [] ∧ (k = true → t.tr.pub = pub) ∧
    (k = true → s.tr.pubHash = none → t.tr.keyok = true ∧ t.tr.pubHash = some (Sha.digest pub)) ∧
    (k = true → s.tr.pubHash = some (Sha.digest pub) → t.tr.keyok = true ∧ t.tr.pubHash = s.tr.pubHash) ∧
    Only [.er, .hp, .qu, .tr, .sup, .fresh] s t) ∧
  (∀ (k : Bool) (pub : List Byte) (s : State), s.sup.st ≠ .boot ∨ s.sup.boot ≠ none ∨ s.sup.commit ≠ .none ∨ s.sup.recmon = true →
    exec (.bootStages k pub) s = .next s)

/-- R333, R334: in a serving device BEGIN of a requester that loads empties the load slot and owns the load, from any state but
another's LOADING, where it only sets the owner error; the owner's bytes go in up to 1 MiB, VERIFY gives VALID or REJECTED with the
failing check's code; an accepted application image is the next to boot, a legal one waits for its double decision, each with two parts
reserved; a failed authority check rejects the image. Data, VERIFY and ACCEPT of another requester or in another state do nothing, as
all of them in a device that does not serve. R335: a RESET of a requester outside the legal core to a serving device without a commit
orders a commit and reset with cause 5 for the next tick; while a commit is due it orders nothing; the legal core has none. The core
whose image waits for its confirmation confirms it in a serving device, which raises its rollback counter to the image's SVN; without
it within 64,000 ticks the reset of cause 9 follows and the slot is marked. Otherwise nothing happens. The model's choices in it: log
18, 62, 87, 101. -/
def Obligations.FirmwareIsLoadedAndConfirmed : Prop :=
  ((∀ (req : Requester) (app : Bool) (s : State), serving s = true → req ≠ .legal → s.tr.fst ≠ .loading ∨ s.tr.fowner = some req → ∃ t,
    exec (.trfwctlBegin req app) s = .next t ∧ t.tr.fst = .loading ∧ t.tr.fcore = app ∧ t.tr.fowner = some req ∧ t.tr.fptr = 0 ∧
    (slotAt t (loadSlot s app)).img = [] ∧ (slotAt t (loadSlot s app)).factory = false ∧
    (∀ k, k ≠ loadSlot s app → slotAt t k = slotAt s k) ∧ Only [.tr] s t) ∧
  (∀ (req : Requester) (app : Bool) (s : State), serving s = true → req ≠ .legal → s.tr.fst = .loading → s.tr.fowner ≠ some req →
    exec (.trfwctlBegin req app) s = .next { s with tr := { s.tr with fwown := true } }) ∧
  (∀ (req : Requester) (bs : List Byte) (s : State), serving s = true → s.tr.fst = .loading → s.tr.fowner = some req → ∃ t,
    exec (.trfwdata req bs) s = .next t ∧
    (slotAt t (loadSlot s s.tr.fcore)).img = ((slotAt s (loadSlot s s.tr.fcore)).img ++ bs).take 1048576 ∧
    t.tr.fptr = min (s.tr.fptr + bs.length) 0xFFFFFFFF ∧ (∀ k, k ≠ loadSlot s s.tr.fcore → slotAt t k = slotAt s k) ∧ Only [.tr] s t) ∧
  (∀ (req : Requester) (s : State), serving s = true → s.tr.fst = .loading → s.tr.fowner = some req → ∃ t, exec (.trfwctlVerify req) s = .next t ∧
    t.tr.fst = (if fwCheck s (imgOf s (loadSlot s s.tr.fcore)) s.tr.fptr s.tr.fcore = 0 then .valid else .rejected) ∧
    t.tr.fcode = fwCheck s (imgOf s (loadSlot s s.tr.fcore)) s.tr.fptr s.tr.fcore ∧ t.hp.irqsts.getLsbD 5 = true ∧ Only [.tr, .er, .hp, .qu] s t) ∧
  (∀ (req : Requester) (bs : List Byte) (s : State), serving s = false ∨ s.tr.fst ≠ .loading ∨ s.tr.fowner ≠ some req →
    exec (.trfwdata req bs) s = .next s ∧ exec (.trfwctlVerify req) s = .next s) ∧
  (∀ (req : Requester) (s : State), serving s = true → s.tr.fst = .valid → s.tr.fowner = some req →
    (fwAuth s = 0 → s.tr.fcore = true → ∃ t, exec (.accept req) s = .next t ∧ t.tr.fst = .accepted ∧ t.tr.nextA = !runningB s true ∧
      t.tr.nextL = s.tr.nextL ∧ (∃ e, e ∈ t.er.due ∧ e.ptype = 0x04) ∧ t.er.pres = s.er.pres + 2) ∧
    (fwAuth s = 0 → s.tr.fcore = false → ∃ t, exec (.accept req) s = .next t ∧ t.tp.dd = s.tp.dd ++ [{ dec := .firmware, first := true }] ∧
      t.er.pres = s.er.pres + 2 ∧ t.tr = s.tr) ∧
    (fwAuth s ≠ 0 → ∃ t, exec (.accept req) s = .next t ∧ t.tr = { s.tr with fst := .rejected, fcode := fwAuth s } ∧
      t.hp.irqsts.getLsbD 5 = true ∧ Only [.tr, .er, .hp, .qu] s t)) ∧
  (∀ (req : Requester) (s : State), serving s = false ∨ s.tr.fst ≠ .valid ∨ s.tr.fowner ≠ some req → exec (.accept req) s = .next s) ∧
  (∀ (req : Requester) (app : Bool) (s : State), serving s = false ∨ req = .legal → exec (.trfwctlBegin req app) s = .next s)) ∧
  ((∀ (req : Requester) (s : State), req ≠ .legal → serving s = true → s.sup.commit = .none →
    exec (.reset req) s = .next { s with sup := { s.sup with commit := .due, cause := 5, commitW := s.tb.frame + 1 } }) ∧
  (∀ (req : Requester) (s : State), req = .legal ∨ serving s = false ∨ s.sup.commit ≠ .none → exec (.reset req) s = .next s) ∧
  (∀ s : State, serving s = true → s.tr.confL = true → exec (.confirm .legal) s =
    .next { s with tr := { s.tr with confL := false, svnL := Pair.of (word (max (svnOf s false) (fwSvn (runningImg s false)))) } }) ∧
  (∀ s : State, serving s = true → s.tr.confA = true → exec (.confirm .app) s =
    .next { s with tr := { s.tr with confA := false, svnA := Pair.of (word (max (svnOf s true) (fwSvn (runningImg s true)))) } }) ∧
  (∀ (req : Requester) (s : State), serving s = false ∨ req = .host ∨ req = .chain ∨ (req = .legal ∧ s.tr.confL = false) ∨
    (req = .app ∧ s.tr.confA = false) → exec (.confirm req) s = .next s) ∧
  (∀ s : State, s.tr.confL = true → 64000 ≤ s.tr.confTicks → s.sup.commit = .none → exec (.confirmTimeout false) s =
    .next { s with tr := { s.tr with confOut := s.tr.confOut ++ [false], confL := false }
                   sup := { s.sup with commit := .due, cause := 9, commitW := s.tb.frame + 1 } }) ∧
  (∀ s : State, s.tr.confA = true → 64000 ≤ s.tr.confTicks → s.sup.commit = .none → exec (.confirmTimeout true) s =
    .next { s with tr := { s.tr with confOut := s.tr.confOut ++ [true], confA := false }
                   sup := { s.sup with commit := .due, cause := 9, commitW := s.tb.frame + 1 } }) ∧
  (∀ (app : Bool) (s : State), s.tr.confTicks < 64000 ∨ s.sup.commit ≠ .none ∨ (if app then s.tr.confA else s.tr.confL) = false →
    exec (.confirmTimeout app) s = .next s))

/-- R336, R337: in a serving device a quote request with room in the queue of four and a working device key joins it at the place of
its tick and path, else it is refused with its reason; the oldest one is captured when none runs, and the end of its generation issues
the 432 bytes, signed, counts them and delivers the host's in its registers, another's on its path. Without a quote in hand, or not
serving, nothing happens. R328, R339, R340: of a powered device, a tag write of the host or the application core within the area takes
its place there and its digest follows after a tick, extending MEAS6; other writes do nothing. In a serving device a key load of the
host or the application core with the seal open stores the blob in its slot, one of slot 32 or above, or with the seal closed, only
shows its reason; without GO, from other requesters or not serving nothing happens. The model's choices in it: log 16, 17, 18, 138. -/
def Obligations.QuotesTagsAndKeys : Prop :=
  ((∀ (path : Requester) (n : List Byte) (s : State), serving s = true → s.tr.quotes.length < 4 → s.tr.keyok = true → exec (.quoteRequest path n) s =
    .next { s with tr := { s.tr with
      quotes := quoteInsert { path := path, nonce := nonceOf s path n, tick := s.tb.ticks, hdr := none } s.tr.quotes } }) ∧
  (∀ (path : Requester) (n : List Byte) (s : State), serving s = true → 4 ≤ s.tr.quotes.length ∨ s.tr.keyok = false → ∃ t,
    exec (.quoteRequest path n) s = .next t ∧ t.tr.quotes = s.tr.quotes ∧
    (path = .host → t.tr.qref = true ∧ t.tr.qreason = (if 4 ≤ s.tr.quotes.length then 1 else 2) ∧ t.hp.irqsts.getLsbD 6 = true) ∧
    (path ≠ .host → t.tr = s.tr)) ∧
  (∀ (q : QuoteReq) (rest : List QuoteReq) (s : State), serving s = true → s.tr.quoteRun = none → s.tr.quotes = q :: rest →
    exec .quoteGenerate s = .next { s with tr := { s.tr with quotes := rest, quoteRun := some (q, quoteBody s q.nonce) } }) ∧
  (∀ s : State, serving s = false ∨ s.tr.quoteRun ≠ none ∨ s.tr.quotes = [] → exec .quoteGenerate s = .next s) ∧
  (∀ (q : QuoteReq) (b : List Byte) (s : State), serving s = true → s.tr.quoteRun = some (q, b) → ∃ t, exec .quoteComplete s = .next t ∧
    t.tr.quoteRun = none ∧ t.tr.qcnt = s.tr.qcnt + 1 ∧ Only [.tr, .er, .hp, .qu, .cb] s t ∧
    (q.path = .host → t.tr.quote = b ++ leBytes 64 (Config.sign b) ∧ t.tr.qdone = true ∧ t.hp.irqsts.getLsbD 6 = true) ∧
    (q.path ≠ .host → t.tr.quote = s.tr.quote ∧ t.tr.issued = s.tr.issued ++ [(q.path, b ++ leBytes 64 (Config.sign b))])) ∧
  (∀ s : State, serving s = false ∨ s.tr.quoteRun = none → exec .quoteComplete s = .next s) ∧
  (∀ (path : Requester) (n : List Byte) (s : State), serving s = false → exec (.quoteRequest path n) s = .next s)) ∧
  ((∀ (req : Requester) (bs : List Byte) (o : Nat) (s : State), s.powered = true → req = .host ∨ req = .app → bs ≠ [] → o + bs.length ≤ 512 → ∃ t,
    exec (.userTagWrite req (0x240800 + o) bs) s = .next t ∧ t.tr.tagDue = s.tr.tagDue ++ [(bs.length, s.tb.ticks)] ∧ t.tr.tagd = s.tr.tagd ∧
    tagBytes t.tr = (tagBytes s.tr).take o ++ bs ++ (tagBytes s.tr).drop (o + bs.length) ∧ Only [.tr] s t) ∧
  (∀ (req : Requester) (a : Nat) (bs : List Byte) (s : State), s.powered = false ∨ req = .legal ∨ req = .chain ∨ bs = [] ∨ a < 0x240800 ∨
    0x240A00 < a + bs.length → exec (.userTagWrite req a bs) s = .next s) ∧
  (∀ (n k : Nat) (rest : List (Nat × Nat)) (s : State), s.tr.tagDue = (n, k) :: rest → s.powered = true → k < s.tb.ticks → ∃ t,
    exec .tagDigestUpdate s = .next t ∧ t.tr.tagDue = rest ∧ t.tr.tagd = Sha.digest (tagBytes s.tr) ∧
    measOf t.tr 6 = extendOf (measOf s.tr 6) (Sha.digest (tagBytes s.tr)) ∧ Only [.tr, .er, .hp, .qu] s t) ∧
  (∀ s : State, s.tr.tagDue = [] ∨ s.powered = false ∨ (∃ n k rest, s.tr.tagDue = (n, k) :: rest ∧ s.tb.ticks ≤ k) →
    exec .tagDigestUpdate s = .next s) ∧
  (∀ (req : Requester) (w : Word) (s : State), serving s = true → req = .host ∨ req = .app → w.getLsbD 31 = true → w.getLsbD 8 = false →
    (s.sealOpen = true → w.toNat % 64 < 32 → ∃ t, exec (.trkctlGo req w) s = .next t ∧ tget [] (w.toNat % 64) t.tp.keys = keyBlob s.tr ∧
      t.tp.keysErased = false ∧ t.tr = { s.tr with kres := 1, kreason := 0 } ∧ Only [.tp, .tr] s t) ∧
    (s.sealOpen = true → 32 ≤ w.toNat % 64 → ∃ t, exec (.trkctlGo req w) s = .next t ∧ t.tp = s.tp ∧
      t.tr = { s.tr with kres := 2, kreason := 3, keyref := true }) ∧
    (s.sealOpen = false → ∃ t, exec (.trkctlGo req w) s = .next t ∧ t.tp = s.tp ∧ t.tr = { s.tr with kres := 2, kreason := 0, keyref := true })) ∧
  (∀ (req : Requester) (w : Word) (s : State), serving s = false ∨ req = .legal ∨ req = .chain ∨ w.getLsbD 31 = false →
    exec (.trkctlGo req w) s = .next s))

/-! ## Interfaces (15, 17) -/

/-- 15 R345 to R350, of a serving device with no run of CRC errors open: a complete READ of the host with its CRC drives the words it
covers and code 0; one outside LEN, alignment or range gives code 3 and zeros, a WRITE such code 3; a WRITE of a scratch word stores
it; a POLL reads `IRQSUM`; an unknown first byte gives code 2. In any serving device a wrong CRC gives code 1 and counts, and of the
state changes the port, its event and the queues alone; a transaction ended early sets the abort mark and drives nothing; `HCFG.HTO`
ticks without an edge set the time-out mark, after which the end of the ignored rest only clears it. READ and WRITE of another
requester reach the same words. Without a port, nothing happens. The model's choices in it: log 18, 103. -/
def Obligations.HostTransactionsAreAnswered : Prop :=
  (∀ (a n : Nat) (s : State), serving s = true → s.hp.crcRun = 0 → s.hp.crcDone = [] → lenAddrOk a n 4096 = true → ∃ t b,
    exec (.read .host a n (goodWire (readSent a n))) s = .next t ∧ t.hp.data = readWords s .host a (n / 4) ∧ t.hp.status = some (0, b, false) ∧
    t.hp.code = s.hp.code ∧ t.hp.ignoring = false ∧ t.hp.idle = 0) ∧
  (∀ (a n : Nat) (s : State), serving s = true → s.hp.crcRun = 0 → s.hp.crcDone = [] → lenAddrOk a n 4096 = false →
    exec (.read .host a n (goodWire (readSent a n))) s = .next { s with hp := { s.hp with
      idle := 0, code := 3, status := some (3, irqN s.hp, false), data := List.replicate (n / 4) 0, ignoring := false } }) ∧
  (∀ (a : Nat) (bs : List Byte) (s : State), serving s = true → s.hp.crcRun = 0 → s.hp.crcDone = [] → lenAddrOk a bs.length 65532 = false →
    exec (.write .host a bs (goodWire (writeSent a bs))) s = .next { s with hp := { s.hp with
      idle := 0, code := 3, status := some (3, irqN s.hp, false), data := [], ignoring := false } }) ∧
  (∀ (i : Nat) (w : Word) (s : State), i < 4 → serving s = true → s.hp.crcRun = 0 → s.hp.crcDone = [] → ∃ t,
    exec (.write .host (0x60 + 4 * i) (leBytes 4 w.toNat) (goodWire (writeSent (0x60 + 4 * i) (leBytes 4 w.toNat)))) s = .next t ∧
    tget 0 i t.hp.scr = w ∧ t.hp.status = some (0, irqN s.hp, false) ∧ t.hp.irqsts = s.hp.irqsts ∧ t.hp.irqmsk = s.hp.irqmsk ∧
    t.hp.noeff = s.hp.noeff ∧ Only [.hp] s t) ∧
  (∀ (a : Nat) (bs : List Byte) (w : Wire) (s : State), serving s = true → w.complete = true → w.crc ≠ crc16 (writeSent a bs) → ∃ t,
    exec (.write .host a bs w) s = .next t ∧ t.hp.crcerr = true ∧ t.hp.crcRun = s.hp.crcRun + 1 ∧ t.hp.crcc = satAdd s.hp.crcc 1 ∧
    t.hp.code = 1 ∧ t.hp.status = some (1, irqN t.hp, false) ∧ t.hp.data = [] ∧ Only [.hp, .er, .qu] s t) ∧
  (∀ (a n : Nat) (w : Wire) (s : State), serving s = true → w.complete = true → w.crc ≠ crc16 (readSent a n) → ∃ t,
    exec (.read .host a n w) s = .next t ∧ t.hp.crcerr = true ∧ t.hp.crcRun = s.hp.crcRun + 1 ∧ t.hp.code = 1 ∧
    t.hp.data = List.replicate (n / 4) 0 ∧ Only [.hp, .er, .qu] s t) ∧
  (∀ (w : Wire) (s : State), serving s = true → w.complete = true → w.crc ≠ crc16 pollSent → ∃ t, exec (.poll w) s = .next t ∧
    t.hp.crcerr = true ∧ t.hp.crcRun = s.hp.crcRun + 1 ∧ t.hp.code = 1 ∧ t.hp.data = [0] ∧ Only [.hp, .er, .qu] s t) ∧
  (∀ s : State, serving s = true → s.hp.crcRun = 0 → s.hp.crcDone = [] → exec (.poll (goodWire pollSent)) s = .next { s with hp := { s.hp with
    idle := 0, status := some (0, irqN s.hp, false), data := [irqSum s.hp], ignoring := false } }) ∧
  (∀ (b : Byte) (s : State), b ≠ 0x0B → b ≠ 0x02 → b ≠ 0x05 → serving s = true → s.hp.crcRun = 0 → exec (.unknownCommand b) s =
    .next { s with hp := { s.hp with idle := 0, code := 2, status := some (2, irqN s.hp, false), data := [], ignoring := false } }) ∧
  (∀ (b : Byte) (s : State), b = 0x0B ∨ b = 0x02 ∨ b = 0x05 ∨ serving s = false → exec (.unknownCommand b) s = .next s) ∧
  (∀ (a n : Nat) (bs : List Byte) (w : Wire) (s : State), serving s = true → w.complete = false → ∃ t, exec (.read .host a n w) s = .next t ∧
    exec (.write .host a bs w) s = .next t ∧ exec (.poll w) s = .next t ∧ t.hp.abort = true ∧ t.hp.status = none ∧ t.hp.data = [] ∧
    Only [.hp, .er, .qu] s t) ∧
  (∀ s : State, serving s = true → s.hp.ignoring = false → ∃ t, exec .scsAbort s = .next t ∧ t.hp.abort = true ∧ t.hp.status = none ∧
    t.hp.data = [] ∧ t.hp.idle = 0 ∧ Only [.hp, .er, .qu] s t) ∧
  (∀ s : State, serving s = true → s.hp.ignoring = true → exec .scsAbort s = .next { s with hp := { s.hp with ignoring := false } }) ∧
  (∀ s : State, serving s = true → s.hp.ignoring = false → s.hp.hto ≤ s.hp.idle → ∃ t, exec .hostTimeout s = .next t ∧ t.hp.tmo = true ∧
    t.hp.ignoring = true ∧ t.hp.status = none ∧ t.hp.data = [] ∧ t.hp.idle = 0 ∧ Only [.hp, .er, .qu] s t) ∧
  (∀ s : State, serving s = false ∨ s.hp.ignoring = true ∨ s.hp.idle < s.hp.hto → exec .hostTimeout s = .next s) ∧
  (∀ (req : Requester) (a n : Nat) (bs : List Byte) (w : Wire) (s : State), req ≠ .host → serving s = true →
    (lenAddrOk a n 4096 = true → ∃ t, exec (.read req a n w) s = .next t ∧ t.hp.data = readWords s req a (n / 4)) ∧
    (lenAddrOk a n 4096 = false → exec (.read req a n w) s = .next s) ∧
    (lenAddrOk a bs.length 65532 = true → exec (.write req a bs w) s = .next (applyWrite s req a bs).s) ∧
    (lenAddrOk a bs.length 65532 = false → exec (.write req a bs w) s = .next s)) ∧
  (∀ (req : Requester) (w : Wire) (a n : Nat) (bs : List Byte) (s : State), serving s = false → exec .scsAbort s = .next s ∧
    exec (.poll w) s = .next s ∧ exec (.read req a n w) s = .next s ∧ exec (.write req a bs w) s = .next s)

/-- 17 R395 to R397, 15 R347, R351: in a serving device a register write of any requester changes the register it names: `IRQMSK` takes
the word's 15 bits, a 1 clears its bit of `IRQSTS`, a scratch word is stored; the first reserved address is kept with its requester in
`SUPUNA` and `SUPUNR`; a read-only word stays; both of these set NOEFF for the host. In a device that serves none, nothing happens. The
model's choices in it: log 40. -/
def Obligations.RegisterWritesTakeEffect : Prop :=
  (∀ (req : Requester) (w : Word) (s : State), serving s = true →
    (req ≠ .host ∨ w.toNat < 2 ^ 15 → exec (.registerWrite req 0x250014 w) s =
      .next { s with hp := { s.hp with irqmsk := w.setWidth 15 } }) ∧
    (req ≠ .host ∨ w.toNat < 2 ^ 15 → exec (.registerWrite req 0x250010 w) s =
      .next { s with hp := { s.hp with irqsts := s.hp.irqsts &&& ~~~(w.setWidth 15) } }) ∧
    (req ≠ .host → ∀ i, i < 4 → exec (.registerWrite req (0x60 + 4 * i) w) s = .next { s with hp := { s.hp with scr := tset i w s.hp.scr } }) ∧
    (s.hp.unmap = false → exec (.registerWrite req 0xFF0000 w) s =
      .next { s with hp := { s.hp with unmap := true, una := 0xFF0000, unr := reqNum req, noeff := s.hp.noeff || decide (req = .host) } }) ∧
    (exec (.registerWrite req 0 w) s = .next { s with hp := { s.hp with noeff := s.hp.noeff || decide (req = .host) } })) ∧
  (∀ (req : Requester) (a : Nat) (w : Word) (s : State), serving s = false → exec (.registerWrite req a w) s = .next s)

/-- R352: in sign-on the optical port answers a request message, without an address or with its own, with its identification, and
ignores another's; an awaited option select of protocol 2, mode 2 and a rate of at most the offered one is accepted, any other one
leads back to sign-on, as do 32,000 ticks without one; 4,800 ticks after the accepted one the port carries HDLC. Where the condition of
a row does not hold, nothing happens. The model's choices in it: log 18, 102. -/
def Obligations.OpticalSignOn : Prop :=
  (∀ (p : Option Nat) (s : State), signOnOpen s = true → p = none ∨ p = some s.ser.phys → exec (.signOn p) s =
    .next { s with ser := { s.ser with awaitOpt := true, optOk := false, optTicks := 0, answer := [s.ser.zmax] } }) ∧
  (∀ (p : Option Nat) (s : State), signOnOpen s = false ∨ (p ≠ none ∧ p ≠ some s.ser.phys) → exec (.signOn p) s = .next s) ∧
  (∀ (z : Nat) (s : State), signOnOpen s = true → s.ser.awaitOpt = true → z ≤ s.ser.zmax → exec (.optionSelect 2 2 z) s =
    .next { s with ser := { s.ser with awaitOpt := false, optOk := true, optTicks := 0, z := z } }) ∧
  (∀ (p y z : Nat) (s : State), signOnOpen s = true → s.ser.awaitOpt = true → p ≠ 2 ∨ y ≠ 2 ∨ s.ser.zmax < z → exec (.optionSelect p y z) s =
    .next { s with ser := { s.ser with st0 := 0, z := 0, awaitOpt := false, optOk := false } }) ∧
  (∀ (p y z : Nat) (s : State), signOnOpen s = false ∨ s.ser.awaitOpt = false → exec (.optionSelect p y z) s = .next s) ∧
  (∀ s : State, s.ser.awaitOpt = true → 32000 ≤ s.ser.optTicks → exec .optionSelectTimeout s =
    .next { s with ser := { s.ser with st0 := 0, z := 0, awaitOpt := false, optOk := false } }) ∧
  (∀ s : State, s.ser.awaitOpt = false ∨ s.ser.optTicks < 32000 → exec .optionSelectTimeout s = .next s) ∧
  (∀ s : State, signOnOpen s = true → s.ser.optOk = true → 4800 ≤ s.ser.optTicks → exec .hdlcStart s =
    .next { s with ser := { s.ser with st0 := 2, optOk := false, quiet0 := 0 } }) ∧
  (∀ s : State, signOnOpen s = false ∨ s.ser.optOk = false ∨ s.ser.optTicks < 4800 → exec .hdlcStart s = .next s)

/-- R353 to R355, on an open port: a frame to this device is answered, for an unknown logical device with DM; the end of a connection,
by DISC or by silence, ends its association, and on the optical port all of them and HDLC. An association request is answered 0 and
opens one by the level its client may use, with the keys it needs and a right proof; with 32 open it is answered 2, else 1. The
services of an association read registers and pairs, take the events held, and write and command registers, not for the public client.
The tick after an erasure ends the associations that use a key; the oldest notification goes out on UART1 where pushed. On a closed
port and where a condition does not hold nothing happens. The model's choices in it: log 18, 105, 106. -/
def Obligations.AssociationsServe : Prop :=
  (∀ (p u : Nat) (s : State), hdlcOpen s p = true → exec (.hdlcFrame p u s.ser.phys) s = .next { s with ser := { s.ser with
    quiet0 := if p = 0 then 0 else s.ser.quiet0, answer := [if logicalDevice s u then 0x73 else 0x1F] } }) ∧
  (∀ (p u l : Nat) (s : State), hdlcOpen s p = false ∨ l ≠ s.ser.phys → exec (.hdlcFrame p u l) s = .next s) ∧
  (∀ (p c u : Nat) (s : State), hdlcOpen s p = true → ∃ t, exec (.disc p c u) s = .next t ∧ assocOf t p c u = none ∧ t.ser.answer = [0x73] ∧
    (p = 0 → t.ser.st0 = 0 ∧ ∀ a, a ∈ t.ser.assoc → a.port ≠ 0) ∧
    (p ≠ 0 → ∀ c' u', (c', u') ≠ (c, u) → assocOf t p c' u' = assocOf s p c' u') ∧ Only [.ser] s t) ∧
  (∀ (p c u : Nat) (s : State), hdlcOpen s p = false → exec (.disc p c u) s = .next s) ∧
  (∀ (p c u : Nat) (s : State), hdlcOpen s p = true → silentFor s p c u = true → ∃ t, exec (.inactivityTimeout p c u) s = .next t ∧
    assocOf t p c u = none ∧ (p = 0 → t.ser.st0 = 0 ∧ ∀ a, a ∈ t.ser.assoc → a.port ≠ 0) ∧ Only [.ser] s t) ∧
  (∀ (p c u : Nat) (s : State), hdlcOpen s p = false ∨ silentFor s p c u = false → exec (.inactivityTimeout p c u) s = .next s) ∧
  (∀ (p u : Nat) (s : State), hdlcOpen s p = true → logicalDevice s u = true → s.ser.assoc = [] → ∃ t,
    exec (.aarq p 0x10 u .lowest false false) s = .next t ∧ t.ser.answer = [0] ∧
    t.ser.assoc = [{ port := p, client := 0x10, upper := u, keyed := false }] ∧ Only [.ser] s t) ∧
  (∀ (p c u : Nat) (s : State), hdlcOpen s p = true → logicalDevice s u = true → s.ser.assoc.length < 32 → 1 ≤ c → c ≤ 0x7F → c ≠ 0x10 →
    keysLoaded s = true → ∃ t, exec (.aarq p c u .hlsGmac true true) s = .next t ∧ t.ser.answer = [0] ∧
    { port := p, client := c, upper := u, keyed := true, ciph := true } ∈ t.ser.assoc ∧ Only [.ser] s t) ∧
  (∀ (p c u : Nat) (auth : DlmsAuth) (ciph ok : Bool) (s : State), hdlcOpen s p = true → logicalDevice s u = true →
    assocOf s p c u = none → 32 ≤ s.ser.assoc.length → ∃ t, exec (.aarq p c u auth ciph ok) s = .next t ∧ t.ser.answer = [2] ∧
    t.ser.assoc = s.ser.assoc ∧ Only [.ser] s t) ∧
  (∀ (p c u : Nat) (ciph ok : Bool) (s : State), hdlcOpen s p = true → logicalDevice s u = true → s.ser.assoc.length < 32 → c ≠ 0x10 → ∃ t,
    exec (.aarq p c u .lowest ciph ok) s = .next t ∧ t.ser.answer = [1] ∧ t.ser.assoc = s.ser.assoc ∧ Only [.ser] s t) ∧
  (∀ (p c u : Nat) (ciph ok : Bool) (s : State), hdlcOpen s p = true → logicalDevice s u = true → s.ser.assoc.length < 32 → 1 ≤ c →
    c ≤ 0x7F → c ≠ 0x10 → keysLoaded s = false → ∃ t, exec (.aarq p c u .hlsGmac ciph ok) s = .next t ∧ t.ser.answer = [1] ∧
    t.ser.assoc = s.ser.assoc ∧ Only [.ser, .er, .hp, .qu] s t) ∧
  (∀ (p c u : Nat) (s : State), hdlcOpen s p = true → logicalDevice s u = true → s.ser.assoc.length < 32 → 1 ≤ c → c ≤ 0x7F → c ≠ 0x10 → ∃ t,
    exec (.aarq p c u .lls false false) s = .next t ∧ t.ser.answer = [1] ∧ t.ser.assoc = s.ser.assoc ∧ Only [.ser, .er, .hp, .qu] s t) ∧
  (∀ (p c u : Nat) (auth : DlmsAuth) (ciph ok : Bool) (s : State),
    (hdlcOpen s p = true → logicalDevice s u = false → exec (.aarq p c u auth ciph ok) s = .next { s with ser := { s.ser with
      quiet0 := if p = 0 then 0 else s.ser.quiet0, answer := [0x1F] } }) ∧
    (hdlcOpen s p = false → exec (.aarq p c u auth ciph ok) s = .next s)) ∧
  (∀ (p c u : Nat) (x : Assoc) (s : State), assocOf s p c u = some x → hdlcOpen s p = true → ∃ t,
    exec (.get p c u 0x250014) s = .next t ∧ t.ser.answer = [s.hp.irqmsk.toNat] ∧
    t.ser.invE = (if x.ciph = true then (s.ser.invE + 1) % 2 ^ 32 else s.ser.invE) ∧ Only [.ser] s t) ∧
  (∀ (p c u a n : Nat) (x : Assoc) (s : State), assocOf s p c u = some x → hdlcOpen s p = true → a % 4 = 0 → a < 2 ^ 32 → pairLen a = some n →
    ∃ t, exec (.get p c u a) s = .next t ∧ t.ser.answer = (readWords (countApdu s x) .app a (n / 8)).map (·.toNat)) ∧
  (∀ (p c : Nat) (x : Assoc) (s : State), assocOf s p c 1 = some x → hdlcOpen s p = true → ∃ t, exec (.get p c 1 (2 ^ 32)) s = .next t ∧
    t.ser.answer = s.ser.notify ∧ t.ser.notify = [] ∧ Only [.ser] s t) ∧
  (∀ (p c u : Nat) (w : Word) (x : Assoc) (s : State), assocOf s p c u = some x → hdlcOpen s p = true → c ≠ 0x10 → ∃ t,
    exec (.set p c u 0x250014 w) s = .next t ∧ t.hp.irqmsk = w.setWidth 15 ∧ t.ser.answer = [0] ∧ Only [.ser, .hp] s t) ∧
  (∀ (p c u : Nat) (x : Assoc) (s : State), assocOf s p c u = some x → hdlcOpen s p = true → c ≠ 0x10 → ∃ t,
    exec (.dlmsAction p c u 0x250010 0x7FFF) s = .next t ∧ t.hp.irqsts = 0 ∧ t.ser.answer = [0] ∧ Only [.ser, .hp] s t) ∧
  (∀ (p c u a : Nat) (w : Word) (s : State), c = 0x10 ∨ assocOf s p c u = none ∨ hdlcOpen s p = false →
    exec (.set p c u a w) s = .next s ∧ exec (.dlmsAction p c u a w) s = .next s) ∧
  (∀ (p c u a : Nat) (s : State), assocOf s p c u = none ∨ hdlcOpen s p = false → exec (.get p c u a) s = .next s) ∧
  (∀ s : State, s.ser.relDue = true → s.ser.relAt < s.tb.ticks → ∃ t, exec .keyAssociationRelease s = .next t ∧ t.ser.relDue = false ∧
    (∀ a, a ∈ t.ser.assoc ↔ a ∈ s.ser.assoc ∧ a.keyed = false) ∧ Only [.ser] s t) ∧
  (∀ s : State, s.ser.relDue = false ∨ s.tb.ticks ≤ s.ser.relAt → exec .keyAssociationRelease s = .next s) ∧
  (∀ (n : Nat) (rest : List Nat) (s : State), s.ser.notify = n :: rest → hdlcOpen s 1 = true → s.ser.push = true → exec .dataNotification s =
    .next { s with ser := { s.ser with notify := rest, sent := s.ser.sent ++ [n] } }) ∧
  (∀ s : State, s.ser.notify = [] ∨ hdlcOpen s 1 = false ∨ s.ser.push = false → exec .dataNotification s = .next s)

/-- R361, R362: an enabled port that is DOWN goes to ALIGN in alignment; a HELLO there brings it UP, at the master with a renumbering,
and on a port that is UP is taken with its depth; a depth of 16 or more refuses CU, which starts again after 160,000 ticks. A port that
is UP and meets a cause of failure goes DOWN, loses its messages and the addresses above or below it, and at the master leads to a
renumbering. A write of `CBCTL` enables ports and takes down those it disables; characters of no code group and messages of a wrong CRC
count. Where the condition of a row does not hold, nothing happens. The three clauses on CU, a master and `CBCTL` that take a port UP
or DOWN are those of no queue of the link engine. The model's choices in it: log 18, 67. -/
def Obligations.PortsComeUpAndGoDown : Prop :=
  (∀ (p : Nat) (s : State), p < 4 → (portAt s p).st = 0 → s.cb.en.getLsbD p = true → ∃ t, exec (.commaAlign p) s = .next t ∧
    (portAt t p).st = 1 ∧ (portAt t p).chg = true ∧ t.hp.irqsts.getLsbD 12 = true ∧ (∀ k, k ≠ p → portAt t k = portAt s k) ∧
    Only [.cb, .hp] s t) ∧
  (∀ (p : Nat) (s : State), p < 4 → (portAt s p).st ≠ 0 ∨ s.cb.en.getLsbD p = false → exec (.commaAlign p) s = .next s) ∧
  (∀ (p d role : Nat) (h : Bool) (s : State), p < 4 → serving s = true → (portAt s p).st = 1 → p = 0 ∧ d < 16 ∨ p ≠ 0 ∧ portUp s 0 = true →
    linkQueues s = [] → ∃ t, exec (.hello p d h role) s = .next t ∧ (portAt t p).st = 2 ∧ (portAt t p).pdepth = d % 32 ∧
    (portAt t p).silent = 0 ∧ (portAt t p).chg = true ∧ (∀ k, k ≠ p → portAt t k = portAt s k) ∧
    t.tb.role = (if p ≠ 0 ∧ role = 2 ∧ s.tb.role = 0 ∧ s.tb.st = .free then 1 else s.tb.role) ∧ Only [.cb, .tb, .hp, .er, .qu] s t) ∧
  (∀ (d role : Nat) (h : Bool) (s : State), serving s = true → (portAt s 1).st = 1 → portUp s 0 = false → ∃ t,
    exec (.hello 1 d h role) s = .next t ∧ (portAt t 1).st = 2 ∧ t.cb.enumRun = true ∧ t.cb.enumPort = 1 ∧ t.cb.enumNext = 1 ∧
    Only [.cb, .tb, .hp, .er, .qu] s t) ∧
  (∀ (p d role : Nat) (h : Bool) (s : State), p < 4 → serving s = true → (portAt s p).st = 2 → p = 0 → d < 16 → ∃ t,
    exec (.hello p d h role) s = .next t ∧ portAt t p = { portAt s p with pdepth := d % 32, silent := 0 } ∧
    (∀ k, k ≠ p → portAt t k = portAt s k) ∧ Only [.cb] s t) ∧
  (∀ (p d role : Nat) (h : Bool) (s : State), p < 4 → p ≠ 0 → serving s = true → (portAt s p).st = 2 → ∃ t,
    exec (.hello p d h role) s = .next t ∧ portAt t p = { portAt s p with pdepth := d % 32, silent := 0 } ∧
    (∀ k, k ≠ p → portAt t k = portAt s k) ∧ Only [.cb, .tb, .hp] s t) ∧
  (∀ (d role : Nat) (h : Bool) (s : State), serving s = true → (portAt s 0).st = 1 ∨ (portAt s 0).st = 2 → 16 ≤ d → ∃ t,
    exec (.hello 0 d h role) s = .next t ∧ (portAt t 0).st = 3 ∧ (portAt t 0).refTicks = 0 ∧ (portAt t 0).out = [] ∧
    Only [.cb, .hp, .er, .qu] s t) ∧
  (∀ (p d role : Nat) (h : Bool) (s : State), p < 4 → serving s = false ∨ ((portAt s p).st ≠ 1 ∧ (portAt s p).st ≠ 2) →
    exec (.hello p d h role) s = .next s) ∧
  (∀ (p : Nat) (s : State), p < 4 → (portAt s p).st = 3 → 160000 ≤ (portAt s p).refTicks → ∃ t, exec (.portRefusedRetry p) s = .next t ∧
    (portAt t p).st = 0 ∧ (∀ k, k ≠ p → portAt t k = portAt s k) ∧ Only [.cb, .hp] s t) ∧
  (∀ (p : Nat) (s : State), p < 4 → (portAt s p).st ≠ 3 ∨ (portAt s p).refTicks < 160000 → exec (.portRefusedRetry p) s = .next s) ∧
  (∀ (p : Nat) (c : DownCause) (s : State), p < 4 → serving s = true → (portAt s p).st = 2 → mayFail (portAt s p) c = true →
    p = 0 ∨ portUp s 0 = true → linkQueues s = [] → ∃ t, exec (.portDown p c) s = .next t ∧ (portAt t p).st = 0 ∧ (portAt t p).out = [] ∧
    (portAt t p).wait = [] ∧ (∀ k, k ≠ p → portAt t k = portAt s k) ∧ (p = 0 → t.cb.addrValid = false) ∧
    (p ≠ 0 → rangeOf t p = (0xFFFF, 0)) ∧ Only [.cb, .hp, .er, .qu] s t) ∧
  (∀ (p : Nat) (c : DownCause) (s : State), 1 ≤ p → p < 4 → serving s = true → (portAt s p).st = 2 → mayFail (portAt s p) c = true →
    (∀ k, k < 4 → k ≠ p → portUp s k = false) → linkQueues s = [] → ∃ t, exec (.portDown p c) s = .next t ∧ (portAt t p).st = 0 ∧
    t.cb.rng = [] ∧ t.cb.enumRun = false ∧ Only [.cb, .hp, .er, .qu] s t) ∧
  (∀ (p : Nat) (c : DownCause) (s : State), p < 4 → serving s = false ∨ (portAt s p).st ≠ 2 ∨ mayFail (portAt s p) c = false →
    exec (.portDown p c) s = .next s) ∧
  (∀ (req : Requester) (w : Word) (s : State), serving s = true → (∀ p, p < 4 → (portAt s p).st = 0) → exec (.cbctlWrite req w) s =
    .next { s with cb := { s.cb with en := w.setWidth 4 } }) ∧
  (∀ (req : Requester) (w : Word) (s : State), serving s = true → (portAt s 0).st = 2 → w.getLsbD 0 = false →
    (∀ p, 1 ≤ p → p < 4 → (portAt s p).st = 0) → linkQueues s = [] → ∃ t, exec (.cbctlWrite req w) s = .next t ∧ (portAt t 0).st = 0 ∧
    t.cb.en = w.setWidth 4 ∧ Only [.cb, .hp, .er, .qu] s t) ∧
  (∀ (req : Requester) (w : Word) (s : State), serving s = false → exec (.cbctlWrite req w) s = .next s) ∧
  (∀ (p : Nat) (s : State), p < 4 → ∃ t, exec (.codeViolation p) s = .next t ∧
    portAt t p = { portAt s p with viol := min 65535 ((portAt s p).viol + 1), err := true } ∧ (∀ k, k ≠ p → portAt t k = portAt s k) ∧
    Only [.cb] s t) ∧
  (∀ (p : Nat) (s : State), p < 4 → ∃ t, exec (.messageCrcError p) s = .next t ∧
    portAt t p = { portAt s p with crcDrops := min 65535 ((portAt s p).crcDrops + 1), err := true } ∧ (∀ k, k ≠ p → portAt t k = portAt s k) ∧
    Only [.cb] s t)

/-- R360, R362: of a port with one message unacknowledged, its ACK frees the place, which the oldest message that waits takes; its NAK
and its time-out send it again up to 4 sends, after which it is dropped and counted; for a message the port does not hold nothing
happens. On a serving device ENUM on CU gives it its address and numbers what is below, or ends where no CD port is UP; the ENUM-DONE
of the port in hand gives that its range and goes on to the next port that is UP, or ends. Otherwise nothing happens. The model's
choices in it: log 18, 67, 68. -/
def Obligations.MessagesAreAcknowledged : Prop :=
  (∀ (p h : Nat) (m : OutMsg) (s : State), p < 4 → (portAt s p).out = [m] → m.hseq = h → (portAt s p).wait = [] → ∃ t,
    exec (.ack p h) s = .next t ∧ (portAt t p).out = [] ∧ (portAt t p).drops = 0 ∧ (∀ k, k ≠ p → portAt t k = portAt s k) ∧ Only [.cb] s t) ∧
  (∀ (p h : Nat) (m m' : OutMsg) (s : State), p < 4 → s.sup.tstep < 3 → (portAt s p).out = [m] → m.hseq = h → (portAt s p).wait = [m'] → ∃ t,
    exec (.ack p h) s = .next t ∧ (portAt t p).out = [{ m' with hseq := (portAt s p).nextSeq, sends := 1 }] ∧ (portAt t p).wait = [] ∧
    (∀ k, k ≠ p → portAt t k = portAt s k) ∧ Only [.cb] s t) ∧
  (∀ (p h : Nat) (s : State), p < 4 → (∀ m, m ∈ (portAt s p).out → m.hseq ≠ h) →
    exec (.ack p h) s = .next s ∧ exec (.nak p h) s = .next s ∧ exec (.resendTimeout p h) s = .next s) ∧
  (∀ (p h : Nat) (m : OutMsg) (s : State), p < 4 → (portAt s p).out = [m] → m.hseq = h → m.sends < 4 → ∃ t, exec (.nak p h) s = .next t ∧
    exec (.resendTimeout p h) s = .next t ∧ (portAt t p).out = [{ m with sends := m.sends + 1 }] ∧ (portAt t p).rtx = satAdd (portAt s p).rtx 1 ∧
    (∀ k, k ≠ p → portAt t k = portAt s k) ∧ Only [.cb] s t) ∧
  (∀ (p h : Nat) (m : OutMsg) (s : State), p < 4 → (portAt s p).out = [m] → m.hseq = h → 4 ≤ m.sends → (portAt s p).wait = [] → ∃ t,
    exec (.nak p h) s = .next t ∧ exec (.resendTimeout p h) s = .next t ∧ (portAt t p).out = [] ∧ (portAt t p).drops = (portAt s p).drops + 1 ∧
    (portAt t p).crcDrops = min 65535 ((portAt s p).crcDrops + 1) ∧ (∀ k, k ≠ p → portAt t k = portAt s k) ∧ Only [.cb, .er, .hp, .qu] s t) ∧
  (∀ (a : Nat) (s : State), portUp s 0 = true → serving s = true → (∀ p, 1 ≤ p → p < 4 → portUp s p = false) → ∃ t,
    exec (.enum a) s = .next t ∧ t.cb.addr = a % 65536 ∧ t.cb.addrValid = true ∧ t.cb.rng = [] ∧ t.cb.enumRun = false ∧ Only [.cb] s t) ∧
  (∀ (a : Nat) (s : State), portUp s 0 = true → serving s = true → portUp s 1 = true → a < 65535 → ∃ t, exec (.enum a) s = .next t ∧
    t.cb.addr = a ∧ t.cb.addrValid = true ∧ t.cb.rng = [] ∧ t.cb.enumRun = true ∧ t.cb.enumPort = 1 ∧ t.cb.enumNext = a + 1 ∧ Only [.cb] s t) ∧
  (∀ (a : Nat) (s : State), portUp s 0 = false ∨ serving s = false → exec (.enum a) s = .next s) ∧
  (∀ (hi : Nat) (s : State), s.cb.enumRun = true → s.cb.enumPort = 3 → linkQueues s = [] → ∃ t, exec (.enumDone 3 hi) s = .next t ∧
    rangeOf t 3 = (s.cb.enumNext, hi) ∧ t.cb.enumRun = false ∧ Only [.cb] s t) ∧
  (∀ (hi : Nat) (s : State), s.cb.enumRun = true → s.cb.enumPort = 1 → portUp s 2 = true → hi < 65535 → ∃ t, exec (.enumDone 1 hi) s = .next t ∧
    rangeOf t 1 = (s.cb.enumNext, hi) ∧ t.cb.enumRun = true ∧ t.cb.enumPort = 2 ∧ t.cb.enumNext = hi + 1 ∧ Only [.cb] s t) ∧
  (∀ (p hi : Nat) (s : State), s.cb.enumRun = false ∨ s.cb.enumPort ≠ p ∨ p = 0 ∨ 4 ≤ p → exec (.enumDone p hi) s = .next s)

/-- R363 to R366, of a serving device: a command of the master for this device with a known OP is taken for it, with an unknown OP it
is answered 2, and for another device it goes down the port that leads there, or from thermal step 3 on is answered 9; a command of
another source and one to a device without an address do nothing. READ outside LEN, alignment or range is answered 3, and READ of the
device code and WRITE of `IRQMSK` as the host's are; QUOTE queues a request; an aggregate is defined, deleted with PERIOD 0, or refused
with 3. The master records the response it awaits, the first two parts of a quote with the command still awaited, counts a late one,
and ends the wait after more than `CBRSPTO` ticks; it records an aggregate; a follower passes both up. In a device that serves none,
nothing happens. The model's choices in it: log 18, 36, 68, 138. -/
def Obligations.ChainCommandsAreAnswered : Prop :=
  (∀ (h : CobaltHdr) (op a n : Nat) (d : List Byte) (s : State), h.src = 0 → serving s = true → hasAddr s = true → h.dst = ownAddr s →
    (1 ≤ op → op ≤ 6 → exec (.cmd h op a n d) s = .next { s with cb := { s.cb with rx := some (h, op, a) } }) ∧
    (op = 0 ∨ 6 < op → exec (.cmd h op a n d) s = .next (sendRsp s h op a 2 []))) ∧
  (∀ (h : CobaltHdr) (op a n p : Nat) (d : List Byte) (s : State), h.src = 0 → serving s = true → hasAddr s = true → hopOf s h.dst = .port p →
    (p ≠ 0 → 3 ≤ s.sup.tstep → exec (.cmd h op a n d) s = .next (sendRsp s h op a 9 [])) ∧
    (p = 0 ∨ s.sup.tstep < 3 → exec (.cmd h op a n d) s =
      .next (sendPort s p { type := 1, dst := h.dst, src := 0, tag := h.tag, op := op, addr := a, len := n, data := d }))) ∧
  (∀ (h : CobaltHdr) (op a n : Nat) (d : List Byte) (s : State), h.src ≠ 0 ∨ hasAddr s = false ∨ serving s = false →
    exec (.cmd h op a n d) s = .next s) ∧
  (∀ (h : CobaltHdr) (a n : Nat) (s : State), serving s = true → lenAddrOk a n 180 = false → exec (.opRead h a n) s =
    .next (sendRsp { s with cb := { s.cb with rx := none } } h 1 a 3 [])) ∧
  (∀ (h : CobaltHdr) (s : State), serving s = true → exec (.opRead h 0 4) s =
    .next (sendRsp { s with cb := { s.cb with rx := none } } h 1 0 0 [0x28, 0x81, 0x42, 0x50])) ∧
  (∀ (h : CobaltHdr) (w : Word) (s : State), serving s = true → exec (.opWrite h 0x250014 (leBytes 4 w.toNat)) s =
    .next (sendRsp { s with cb := { s.cb with rx := none }, hp := { s.hp with irqmsk := w.setWidth 15 } } h 2 0x250014 0 [])) ∧
  (∀ (h : CobaltHdr) (a : Nat) (bs : List Byte) (s : State), serving s = true → lenAddrOk a bs.length 180 = false → exec (.opWrite h a bs) s =
    .next (sendRsp { s with cb := { s.cb with rx := none } } h 2 a 3 [])) ∧
  (∀ (h : CobaltHdr) (n : List Byte) (s : State), serving s = true → s.tr.quotes.length < 4 → s.tr.keyok = true → exec (.opQuote h n) s =
    .next { s with cb := { s.cb with rx := none }, tr := { s.tr with quotes :=
      (quoteInsert { path := .chain, nonce := nonceOf s .chain n, tick := s.tb.ticks, hdr := some h } s.tr.quotes) } }) ∧
  (∀ (h : CobaltHdr) (w : Word) (m : List Byte) (s : State), serving s = true → aggOk w m = true → exec (.aggdef h w m) s =
    .next (sendRsp { s with cb := { s.cb with rx := none, aggs := (aggSet s w m).cb.aggs } } h 6 w.toNat 0 [])) ∧
  (∀ (w : Word) (m : List Byte) (s : State), wbits w 31 16 = 0 → (aggSet s w m).cb.aggs = tdel (wbits w 7 0) s.cb.aggs) ∧
  (∀ (h : CobaltHdr) (w : Word) (m : List Byte) (s : State), serving s = true → aggOk w m = false → exec (.aggdef h w m) s =
    .next (sendRsp { s with cb := { s.cb with rx := none } } h 6 w.toNat 3 [])) ∧
  (∀ (h : CobaltHdr) (op a st : Nat) (d : List Byte) (s : State), serving s = true → noUpstream s = true → awaited s h.src h.tag = none →
    exec (.rsp h op a st d) s = .next { s with cb := { s.cb with late := satAdd s.cb.late 1 } }) ∧
  (∀ (h : CobaltHdr) (op a st : Nat) (d : List Byte) (e : Nat × Nat × Nat × Nat × Nat) (s : State), serving s = true → noUpstream s = true →
    awaited s h.src h.tag = some e →
    (op ≠ 5 ∨ st ≠ 0 ∨ a = 360 → exec (.rsp h op a st d) s = .next (rspRecord (unwait s h.src h.tag) h.src op h.tag a st d)) ∧
    (op = 5 ∧ st = 0 ∧ a ≠ 360 → exec (.rsp h op a st d) s = .next (rspRecord s h.src op h.tag a st d))) ∧
  (∀ (h : CobaltHdr) (op a st : Nat) (d : List Byte) (s : State), serving s = true → noUpstream s = false → exec (.rsp h op a st d) s =
    .next (sendPort s 0 { type := 2, dst := h.dst, src := h.src, tag := h.tag, op := op, addr := a, status := st, len := d.length, data := d })) ∧
  (∀ (dst tag : Nat) (e : Nat × Nat × Nat × Nat × Nat) (s : State), serving s = true → awaited s dst tag = some e → s.cb.rspto < e.2.2.2.2 → ∃ t,
    exec (.chainResponseTimeout dst tag) s = .next t ∧ awaited t dst tag = none ∧ Only [.cb, .er, .hp, .qu] s t) ∧
  (∀ (dst tag : Nat) (s : State), awaited s dst tag = none ∨ serving s = false ∨
      (∀ e, awaited s dst tag = some e → e.2.2.2.2 ≤ s.cb.rspto) → exec (.chainResponseTimeout dst tag) s = .next s) ∧
  (∀ (h : CobaltHdr) (aid fl pts : Nat) (f : Frame) (v : BitVec 64) (s : State), serving s = true → noUpstream s = true →
    exec (.agg h aid fl pts f v) s = .next (aggRecord s h.src aid fl pts f v)) ∧
  (∀ (h : CobaltHdr) (aid fl pts : Nat) (f : Frame) (v : BitVec 64) (s : State), serving s = true → noUpstream s = false →
    exec (.agg h aid fl pts f v) s = .next (sendPort s 0
      { type := 3, dst := h.dst, src := h.src, tag := aid, op := fl, addr := pts, data := leBytes 6 f.toNat ++ leBytes 8 v.toNat })) ∧
  (∀ (h : CobaltHdr) (op a n st aid fl pts : Nat) (d : List Byte) (w : Word) (f : Frame) (v : BitVec 64) (s : State), serving s = false →
    exec (.opRead h a n) s = .next s ∧ exec (.opWrite h a d) s = .next s ∧ exec (.opQuote h d) s = .next s ∧ exec (.aggdef h w d) s = .next s ∧
    exec (.rsp h op a st d) s = .next s ∧ exec (.agg h aid fl pts f v) s = .next s)

/-! ## Device states (16) -/

/-- R367, R372, R383, R384, R386: of a powered device a power-fail warning orders a commit for the frame after it with cause 2 and sets
its marks, and keeps one that is ordered; four faulty slices order one with cause 8. The commit, due at its frame W, commits W as the
frame number, marks its end with its cause and duration and holds the device in BOOT. The loss of the main rails leads to BACKUP, the
loss of the Slate's supply from there to OFF with its state lost, and a power-on, or the release of the reset with the rails good and
the die cool after cause 3, to BOOT at a committed multiple of 2^20. Otherwise nothing happens. The model's choices in it: log 18, 74,
86. -/
def Obligations.PowerFailsAndReturns : Prop :=
  (∀ (pin : Bool) (s : State), s.powered = true → s.sup.commit = .none → ∃ t, exec (.powerFailWarning pin) s = .next t ∧
    t.sup = { s.sup with commit := .due, cause := 2, commitW := s.tb.frame + 1 } ∧ t.hp.irqsts.getLsbD 13 = true ∧ t.cb.warn = true ∧
    t.cb.pfwPin = (s.cb.pfwPin || pin) ∧ t.cb.pfwCmp = (s.cb.pfwCmp || !pin) ∧ Only [.sup, .cb, .hp] s t) ∧
  (∀ (pin : Bool) (s : State), s.powered = true → s.sup.commit ≠ .none → ∃ t, exec (.powerFailWarning pin) s = .next t ∧
    t.hp.irqsts.getLsbD 13 = true ∧ t.cb.warn = true ∧ Only [.cb, .hp] s t) ∧
  (∀ (pin : Bool) (s : State), s.powered = false → exec (.powerFailWarning pin) s = .next s) ∧
  (∀ s : State, s.cv.fourFaulty = true → s.sup.st = .run ∨ s.sup.st = .calibrate ∨ s.sup.st = .test → s.sup.commit = .none → ∃ t,
    exec .faultySliceReset s = .next t ∧ t.sup.commit = .due ∧ t.sup.cause = 8 ∧ t.sup.slcrst = true ∧ t.cv.fourFaulty = false ∧
    t.sup.commitW = s.tb.frame + 1 ∧ Only [.sup, .cv, .er, .hp, .qu] s t) ∧
  (∀ s : State, s.cv.fourFaulty = false ∨ (s.sup.st ≠ .run ∧ s.sup.st ≠ .calibrate ∧ s.sup.st ≠ .test) ∨ s.sup.commit ≠ .none →
    exec .faultySliceReset s = .next s) ∧
  (∀ (dur : Nat) (s : State), s.sup.commit = .due → s.sup.commitW.toNat ≤ s.tb.frame.toNat → ∃ t, exec (.powerFailCommit dur) s = .next t ∧
    t.sup.st = .boot ∧ t.sup.commit = .held ∧ t.powered = false ∧ t.tb.frame = s.tb.frame ∧ t.nv.frame = Pair.of s.sup.commitW ∧
    t.nv.done = { w := s.sup.commitW, cause := s.sup.cause, dur := dur, valid := true, factory := false }) ∧
  (∀ (dur : Nat) (s : State), s.sup.commit ≠ .due ∨ s.tb.frame.toNat < s.sup.commitW.toNat → exec (.powerFailCommit dur) s = .next s) ∧
  (∀ s : State, s.sup.st ≠ .off → s.sup.st ≠ .backup → ∃ t, exec .mainPowerLoss s = .next t ∧ t.sup.st = .backup ∧ t.sup.main = false ∧
    t.sup.commit = .none ∧ Only [.sup, .mode] s t) ∧
  (∀ s : State, s.sup.st = .off ∨ s.sup.st = .backup → exec .mainPowerLoss s = .next s) ∧
  (∀ s : State, s.sup.st = .backup → ∃ t, exec .slatePowerLoss s = .next t ∧ t.sup.st = .off ∧ t.rtc.valid = false ∧ t.rtc.sec = 0 ∧
    t.tp.sealSt = 0 ∧ t.tp.keys = [] ∧ Only [.sup, .mode, .rtc, .clock, .tp, .seal, .er] s t) ∧
  (∀ s : State, s.sup.st ≠ .backup → exec .slatePowerLoss s = .next s) ∧
  (∀ (ck : Bool) (s : State), s.sup.st = .off ∨ s.sup.st = .backup → ∃ t, exec (.powerOn ck) s = .next t ∧ t.sup.st = .boot ∧ t.tb.xsrc = ck ∧
    t.hp.rwl = [] ∧ t.hp.legal = [] ∧ t.rtc.sec = s.rtc.sec ∧ t.tp.sealSt = s.tp.sealSt ∧ t.tb.frame.toNat % 2 ^ 20 = 0 ∧
    t.nv.frame = Pair.of t.tb.frame) ∧
  (∀ (ck : Bool) (s : State), s.sup.st ≠ .off → s.sup.st ≠ .backup → exec (.powerOn ck) s = .next s) ∧
  (∀ s : State, s.sup.commit = .held → s.sup.main = true → s.sup.cause ≠ 3 ∨ s.sup.tj < 11000 → ∃ t, exec .resetRelease s = .next t ∧
    t.sup.st = .boot ∧ t.sup.commit = .none ∧ t.tb.xsrc = s.tb.xsrc ∧ t.tb.frame.toNat % 2 ^ 20 = 0 ∧ t.nv.frame = Pair.of t.tb.frame) ∧
  (∀ s : State, s.sup.commit ≠ .held ∨ s.sup.main = false ∨ (s.sup.cause = 3 ∧ 11000 ≤ s.sup.tj) → exec .resetRelease s = .next s)

/-- R377 to R379: with the boot stages complete the device starts, in ACQUIRE with a marker of the last 4 frames, else FREE, and both
images await their confirmation; without a legal image it stays in BOOT with the recovery monitor under the safe plan. While the device
starts, the first step runs at once; the second at the 70th tick with the start-up calibration done, where a failed known-answer test
of a device with a legal image orders RECOVERY with reason 2; the third with the settled filter, which orders RECOVERY without legal
firmware, with reason 1, or by order, with reason 5; the fourth ends START. Then RUN is entered with the length of START, or RECOVERY
with its reason, the safe plan and every point in T1 with SRC 3. Otherwise nothing happens. The model's choices in it: log 18, 78, 82,
119. -/
def Obligations.StartsAndEnters : Prop :=
  (∀ (a : Bool) (s : State), s.sup.st = .boot → s.sup.boot = some (true, a) → s.sup.commit = .none → ∃ t, exec .bootComplete s = .next t ∧
    t.sup.st = .start ∧ t.sup.sphase = 1 ∧ t.sup.startTicks = 0 ∧ t.sup.bfr = s.tb.frame ∧ t.sup.legrun = true ∧ t.sup.apprun = a ∧
    t.tr.confL = true ∧ t.tr.confA = a ∧ t.tb.frame = s.tb.frame ∧ t.pl = s.pl ∧
    (s.tb.markerSeen = true ∨ s.tb.missed < 4 → t.tb.st = .acquire ∧ t.tb.role = 2) ∧
    (s.tb.markerSeen = false → 4 ≤ s.tb.missed → t.tb.st = .free)) ∧
  (∀ (a : Bool) (s : State), s.sup.st = .boot → s.sup.boot = some (false, a) → s.sup.commit = .none → ∃ t, exec .bootComplete s = .next t ∧
    t.sup.st = .boot ∧ t.sup.recmon = true ∧ t.sup.legrun = false ∧ t.sup.apprun = a ∧ t.pl.act.safe = true ∧ t.starting = true) ∧
  (∀ s : State, s.sup.st ≠ .boot ∨ s.sup.boot = none ∨ s.sup.commit ≠ .none → exec .bootComplete s = .next s) ∧
  (∀ (a b : Bool) (s : State), s.starting = true → s.sup.commit = .none → s.sup.recDue = none → s.sup.startDone = false →
    (s.sup.sphase = 0 ∨ s.sup.sphase = 1 → ∃ t, exec (.startSequence a b) s = .next t ∧ t.sup.sphase = 2 ∧ t.met.calNext = none) ∧
    (s.sup.sphase = 2 → s.sup.startTicks < 70 ∨ s.cv.calDone = false → exec (.startSequence a b) s = .next s) ∧
    (s.sup.sphase = 2 → 70 ≤ s.sup.startTicks → s.cv.calDone = true →
      (a = true ∨ b = true → s.sup.recmon = false → ∃ t, exec (.startSequence a b) s = .next t ∧ t.sup.recDue = some 2 ∧ t.ls.katok = false) ∧
      (a = false → b = false → faultySlices s < 4 → ∃ t, exec (.startSequence a b) s = .next t ∧ t.sup.recDue = none ∧ t.sup.sphase = 3 ∧
        t.ls.katok = true ∧ t.cv.filt = true)) ∧
    (s.sup.sphase = 3 ∨ s.sup.sphase = 4 → s.cv.setl ≠ 0 → exec (.startSequence a b) s = .next s) ∧
    (s.sup.sphase = 3 → s.cv.setl = 0 →
      (s.sup.recmon = true → exec (.startSequence a b) s = .next { s with sup := { s.sup with recDue := some 1 } }) ∧
      (s.sup.recmon = false → s.sup.order = true → exec (.startSequence a b) s = .next { s with sup := { s.sup with recDue := some 5 } }) ∧
      (s.sup.recmon = false → s.sup.order = false → ∃ t, exec (.startSequence a b) s = .next t ∧ t.sup.sphase = 4 ∧ t.cv.filt = false ∧
        Only [.sup, .cv] s t)) ∧
    (s.sup.sphase = 4 → s.cv.setl = 0 → exec (.startSequence a b) s =
      .next { s with sup := { s.sup with startDone := true, sphase := 5 } })) ∧
  (∀ (a b : Bool) (s : State), s.starting = false ∨ s.sup.commit ≠ .none ∨ s.sup.recDue ≠ none ∨ s.sup.startDone = true →
    exec (.startSequence a b) s = .next s) ∧
  (∀ s : State, s.sup.st = .start → s.sup.startDone = true → s.sup.recDue = none → s.sup.commit = .none → ∃ t, exec .runEntry s = .next t ∧
    t.sup.st = .run ∧ t.sup.sphase = 0 ∧ t.sup.stime = min 65535 s.sup.startTicks ∧ t.tb.frame = s.tb.frame) ∧
  (∀ s : State, s.sup.st ≠ .start ∨ s.sup.startDone = false ∨ s.sup.recDue ≠ none ∨ s.sup.commit ≠ .none → exec .runEntry s = .next s) ∧
  (∀ (r : Nat) (s : State), s.sup.recDue = some r → s.sup.commit = .none → ∃ t, exec .recoveryEntry s = .next t ∧ t.sup.st = .recovery ∧
    t.sup.rreason = r ∧ t.pl.act.safe = true ∧ (∀ p, p < 128 → tariffOf t p = 1 ∧ srcOf t p = 3) ∧ t.tb.frame = s.tb.frame) ∧
  (∀ s : State, s.sup.recDue = none ∨ s.sup.commit ≠ .none → exec .recoveryEntry s = .next s)

/-- R387, R389, R390: a die temperature sample of a device with main power is shown with its peak, in the reset hold no more; above a
threshold it enters its step at once, above 130 °C with a commit and reset of cause 3, and the 1,000th sample in a row 5 °C below the
threshold leaves the step. In a serving device the kick 0xA5 of the core concerned restarts its watchdog, and one of another requester
sets NOEFF for the host alone; with no commit ordered, a wrong kick and a whole PERIOD without one expire it: the legal one with a
commit and reset of cause 4, the application's with a reset of that core alone. Otherwise nothing happens. The model's choices in it:
log 18. -/
def Obligations.ThermalLadderAndWatchdogs : Prop :=
  (∀ (x : Int) (s : State), s.powered = true → -32768 ≤ x → x ≤ 11500 → s.sup.tstep = 0 → ∃ t, exec (.thermalSample x) s = .next t ∧
    t.sup.tj = x ∧ t.sup.tstep = 0 ∧ t.sup.tjPeak = max s.sup.tjPeak x ∧ t.sup.commit = s.sup.commit ∧ Only [.sup] s t) ∧
  (∀ (x : Int) (s : State), s.powered = true → s.sup.tstep = 0 → 11500 < x → x ≤ 11800 → ∃ t, exec (.thermalSample x) s = .next t ∧
    t.sup.tj = x ∧ t.sup.tstep = 1 ∧ t.sup.tstepE = true ∧ t.sup.commit = s.sup.commit ∧ Only [.sup, .er, .hp, .qu] s t) ∧
  (∀ (x : Int) (s : State), s.powered = true → s.sup.tstep = 3 → 13000 < x → x ≤ 32767 → s.sup.commit = .none → ∃ t,
    exec (.thermalSample x) s = .next t ∧ t.sup.tstep = 4 ∧ t.sup.commit = .due ∧ t.sup.cause = 3 ∧ t.sup.commitW = s.tb.frame + 1 ∧
    Only [.sup, .er, .hp, .qu] s t) ∧
  (∀ (x : Int) (b c d : Nat) (s : State), s.powered = true → s.sup.tstep = 1 → s.sup.below = [999, b, c, d] → -32768 ≤ x → x < 11000 → ∃ t,
    exec (.thermalSample x) s = .next t ∧ t.sup.tj = x ∧ t.sup.tstep = 0 ∧ Only [.sup] s t) ∧
  (∀ (x : Int) (a b d : Nat) (s : State), s.powered = true → s.sup.tstep = 3 → s.sup.below = [a, b, 999, d] → 11300 ≤ x → x < 11700 → ∃ t,
    exec (.thermalSample x) s = .next t ∧ t.sup.tj = x ∧ t.sup.tstep = 2 ∧ Only [.sup, .cb] s t) ∧
  (∀ (x : Int) (s : State), s.sup.st ≠ .off → s.sup.st ≠ .backup → s.sup.commit = .held → exec (.thermalSample x) s =
    .next { s with sup := { s.sup with tj := satS 16 x, tjPeak := max s.sup.tjPeak (satS 16 x) } }) ∧
  (∀ (x : Int) (s : State), s.sup.st = .off ∨ s.sup.st = .backup → exec (.thermalSample x) s = .next s) ∧
  (∀ s : State, serving s = true → exec (.wdlkick .legal 0xA5) s = .next { s with sup := { s.sup with wdlTicks := 0 } } ∧
    exec (.wdakick .app 0xA5) s = .next { s with sup := { s.sup with wdaTicks := 0 } }) ∧
  (∀ (req : Requester) (w : Word) (s : State), serving s = true → (req ≠ .legal → exec (.wdlkick req w) s =
      .next { s with hp := { s.hp with noeff := s.hp.noeff || decide (req = .host) } }) ∧
    (req ≠ Requester.app → exec (.wdakick req w) s = .next { s with hp := { s.hp with noeff := s.hp.noeff || decide (req = .host) } })) ∧
  (∀ (req : Requester) (w : Word) (s : State), serving s = false → exec (.wdlkick req w) s = .next s ∧ exec (.wdakick req w) s = .next s) ∧
  (∀ (w : Word) (s : State), wdRuns s = true → w ≠ 0xA5 → ∃ t, exec (.wdlkick .legal w) s = .next t ∧ t.sup.lwdog = true ∧ t.sup.wdlTicks = 0 ∧
    t.sup.commit = .due ∧ t.sup.cause = 4 ∧ t.sup.commitW = s.tb.frame + 1 ∧ Only [.sup, .er, .hp, .qu] s t) ∧
  (∀ s : State, wdRuns s = true → s.sup.wdlPeriod ≤ s.sup.wdlTicks → ∃ t, exec .legalWatchdogExpiry s = .next t ∧ t.sup.lwdog = true ∧
    t.sup.wdlTicks = 0 ∧ t.sup.commit = .due ∧ t.sup.cause = 4 ∧ t.sup.commitW = s.tb.frame + 1 ∧ Only [.sup, .er, .hp, .qu] s t) ∧
  (∀ s : State, wdRuns s = false ∨ s.sup.wdlTicks < s.sup.wdlPeriod → exec .legalWatchdogExpiry s = .next s) ∧
  (∀ (w : Word) (s : State), wdRuns s = true → s.sup.apprun = true → w ≠ 0xA5 → ∃ t, exec (.wdakick .app w) s = .next t ∧ t.sup.awdog = true ∧
    t.sup.wdaTicks = 0 ∧ t.sup.commit = .none ∧ t.ser.assoc = [] ∧ t.pl.act = s.pl.act) ∧
  (∀ s : State, wdRuns s = true → s.sup.apprun = true → s.sup.wdaPeriod ≤ s.sup.wdaTicks → ∃ t, exec .appWatchdogExpiry s = .next t ∧
    t.sup.awdog = true ∧ t.sup.wdaTicks = 0 ∧ t.sup.commit = .none ∧ t.ser.assoc = [] ∧ t.pl.act = s.pl.act) ∧
  (∀ s : State, wdRuns s = false ∨ s.sup.apprun = false ∨ s.sup.wdaTicks < s.sup.wdaPeriod → exec .appWatchdogExpiry s = .next s)
end

