-- ==== Sys2Proof/Laws/Footprint.lean ====
section
/-! SUPPORT. Footprints: which parts of the state an operation can change. Each operation of the machine has one lemma `<operation>_only` with its parts. -/

namespace Sys2Proof.Laws

open Sys2Proof.Machine

/-- The parts `qs` are among `ps`. -/
@[simp] def within (qs ps : List Part) : Bool := qs.all fun q => ps.contains q

theorem same_refl (s : State) (p : Part) : same s s p := by cases p <;> rfl

theorem same_trans {s x t : State} {p : Part} (h : same s x p) (k : same x t p) : same s t p := by
  cases p <;> exact Eq.trans k h

theorem same_symm {s t : State} {p : Part} (h : same s t p) : same t s p := by
  cases p <;> exact Eq.symm h

@[simp] theorem only_refl (ps : List Part) (s : State) : Only ps s s := fun p _ => same_refl s p

theorem only_trans {ps : List Part} {s x t : State} (h : Only ps s x) (k : Only ps x t) : Only ps s t :=
  fun p hp => same_trans (h p hp) (k p hp)

theorem only_mono {qs ps : List Part} {s t : State} (w : within qs ps = true) (h : Only qs s t) : Only ps s t := by
  intro p hp
  apply h p
  cases hq : qs.contains p with
  | false => rfl
  | true =>
    have := List.all_eq_true.mp w p (List.contains_iff_mem.mp hq)
    rw [this] at hp; cases hp

/-- An operation within `ps` neither adds to nor takes from the difference. -/
theorem only_iff {qs ps : List Part} {s x t : State} (h : Only qs x t) (w : within qs ps = true) : Only ps s t = Only ps s x :=
  propext ⟨fun k p hp => same_trans (k p hp) (same_symm (only_mono w h p hp)), fun k => only_trans k (only_mono w h)⟩

@[simp] theorem only_ite {ps : List Part} {s a b : State} {c : Prop} [Decidable c] :
    Only ps s (if c then a else b) = if c then Only ps s a else Only ps s b := by split <;> rfl

theorem forEach_base {α : Type} {ps : List Part} (l : List α) (g : State → α → State)
    (h : ∀ y a, Only ps y (g y a)) (x : State) : Only ps x (forEach l g x) := by
  induction l generalizing x with
  | nil => exact only_refl ps x
  | cons a l ih => exact only_trans (h x a) (ih (g x a))

@[simp] theorem forEach_only {α : Type} {ps : List Part} {s x : State} {l : List α} {g : State → α → State}
    (h : ∀ y a, Only ps y (g y a)) : Only ps s (forEach l g x) = Only ps s x :=
  propext ⟨fun k p hp => same_trans (k p hp) (same_symm (forEach_base l g h x p hp)), fun k => only_trans k (forEach_base l g h x)⟩

theorem foldFst_base {α β : Type} {ps : List Part} (l : List α) (g : State × β → α → State × β)
    (h : ∀ y a, Only ps y.1 (g y a).1) (x : State × β) : Only ps x.1 (l.foldl g x).1 := by
  induction l generalizing x with
  | nil => exact only_refl ps x.1
  | cons a l ih => exact only_trans (h x a) (ih (g x a))

@[simp] theorem foldFst_only {α β : Type} {ps : List Part} {z : State} {x : State × β} {l : List α} {g : State × β → α → State × β}
    (h : ∀ y a, Only ps y.1 (g y a).1) : Only ps z (l.foldl g x).1 = Only ps z x.1 :=
  propext ⟨fun k p hp => same_trans (k p hp) (same_symm (foldFst_base l g h x p hp)), fun k => only_trans k (foldFst_base l g h x)⟩

@[simp] theorem ite_tb_frame {c : Prop} [Decidable c] (a b : Timebase) : (if c then a else b).frame = if c then a.frame else b.frame := by
  split <;> rfl
@[simp] theorem ite_sup_st {c : Prop} [Decidable c] (a b : Supervisor) : (if c then a else b).st = if c then a.st else b.st := by
  split <;> rfl
@[simp] theorem ite_tp_sealSt {c : Prop} [Decidable c] (a b : Tamper) : (if c then a else b).sealSt = if c then a.sealSt else b.sealSt := by
  split <;> rfl
@[simp] theorem ite_pl_act {c : Prop} [Decidable c] (a b : Loader) : (if c then a else b).act = if c then a.act else b.act := by
  split <;> rfl
@[simp] theorem ite_rtc_sec {c : Prop} [Decidable c] (a b : Rtc) : (if c then a else b).sec = if c then a.sec else b.sec := by
  split <;> rfl
@[simp] theorem ite_rtc_sub {c : Prop} [Decidable c] (a b : Rtc) : (if c then a else b).sub = if c then a.sub else b.sub := by
  split <;> rfl
theorem mapSup_base (x : State) (f) : Only [.sup, .mode] x (x.mapSup f) := by
  intro p hp; cases p <;> first | rfl | cases hp
theorem mapSup_keep (x : State) (f) (h : ∀ y, (f y).st = y.st) : Only [.sup] x (x.mapSup f) := by
  intro p hp; cases p <;> first | rfl | exact h _ | cases hp
theorem mapTb_base (x : State) (f) : Only [.tb, .frame] x (x.mapTb f) := by
  intro p hp; cases p <;> first | rfl | cases hp
theorem mapTb_keep (x : State) (f) (h : ∀ y, (f y).frame = y.frame) : Only [.tb] x (x.mapTb f) := by
  intro p hp; cases p <;> first | rfl | exact h _ | cases hp
theorem mapFe_base (x : State) (f) : Only [.fe] x (x.mapFe f) := by
  intro p hp; cases p <;> first | rfl | cases hp
theorem mapCv_base (x : State) (f) : Only [.cv] x (x.mapCv f) := by
  intro p hp; cases p <;> first | rfl | cases hp
theorem mapQu_base (x : State) (f) : Only [.qu] x (x.mapQu f) := by
  intro p hp; cases p <;> first | rfl | cases hp
theorem mapPl_base (x : State) (f) : Only [.pl, .plan] x (x.mapPl f) := by
  intro p hp; cases p <;> first | rfl | cases hp
theorem mapPl_keep (x : State) (f) (h : ∀ y, (f y).act = y.act) : Only [.pl] x (x.mapPl f) := by
  intro p hp; cases p <;> first | rfl | exact h _ | cases hp
theorem mapMet_base (x : State) (f) : Only [.met] x (x.mapMet f) := by
  intro p hp; cases p <;> first | rfl | cases hp
theorem mapPq_base (x : State) (f) : Only [.pq] x (x.mapPq f) := by
  intro p hp; cases p <;> first | rfl | cases hp
theorem mapLs_base (x : State) (f) : Only [.ls] x (x.mapLs f) := by
  intro p hp; cases p <;> first | rfl | cases hp
theorem mapBl_base (x : State) (f) : Only [.bl] x (x.mapBl f) := by
  intro p hp; cases p <;> first | rfl | cases hp
theorem mapRtc_base (x : State) (f) : Only [.rtc, .clock] x (x.mapRtc f) := by
  intro p hp; cases p <;> first | rfl | cases hp
theorem mapRtc_keep (x : State) (f) (h : ∀ y, ((f y).sec, (f y).sub) = (y.sec, y.sub)) : Only [.rtc] x (x.mapRtc f) := by
  intro p hp; cases p <;> first | rfl | exact h _ | cases hp
theorem mapTp_base (x : State) (f) : Only [.tp, .seal] x (x.mapTp f) := by
  intro p hp; cases p <;> first | rfl | cases hp
theorem mapTp_keep (x : State) (f) (h : ∀ y, (f y).sealSt = y.sealSt) : Only [.tp] x (x.mapTp f) := by
  intro p hp; cases p <;> first | rfl | exact h _ | cases hp
theorem mapEr_base (x : State) (f) : Only [.er] x (x.mapEr f) := by
  intro p hp; cases p <;> first | rfl | cases hp
theorem mapDp_base (x : State) (f) : Only [.dp] x (x.mapDp f) := by
  intro p hp; cases p <;> first | rfl | cases hp
theorem mapTr_base (x : State) (f) : Only [.tr] x (x.mapTr f) := by
  intro p hp; cases p <;> first | rfl | cases hp
theorem mapHp_base (x : State) (f) : Only [.hp] x (x.mapHp f) := by
  intro p hp; cases p <;> first | rfl | cases hp
theorem mapSer_base (x : State) (f) : Only [.ser] x (x.mapSer f) := by
  intro p hp; cases p <;> first | rfl | cases hp
theorem mapCb_base (x : State) (f) : Only [.cb] x (x.mapCb f) := by
  intro p hp; cases p <;> first | rfl | cases hp
theorem mapNv_base (x : State) (f) : Only [.nv] x (x.mapNv f) := by
  intro p hp; cases p <;> first | rfl | cases hp
theorem nextFresh_base (x : State) : Only [.fresh] x x.nextFresh := by
  intro p hp; cases p <;> first | rfl | cases hp

@[simp] theorem mapSup_only (ps s x f) (h : within [.sup] ps = true) (k : ps.contains .mode = true ∨ ∀ y, (f y).st = y.st) :
    Only ps s (State.mapSup x f) = Only ps s x :=
  k.elim (fun k => only_iff (mapSup_base x f) (by simp at h k ⊢; exact ⟨h, k⟩)) fun k => only_iff (mapSup_keep x f k) h
@[simp] theorem mapTb_only (ps s x f) (h : within [.tb] ps = true) (k : ps.contains .frame = true ∨ ∀ y, (f y).frame = y.frame) :
    Only ps s (State.mapTb x f) = Only ps s x :=
  k.elim (fun k => only_iff (mapTb_base x f) (by simp at h k ⊢; exact ⟨h, k⟩)) fun k => only_iff (mapTb_keep x f k) h
@[simp] theorem mapFe_only (ps s x f) (h : within [.fe] ps = true) : Only ps s (State.mapFe x f) = Only ps s x :=
  only_iff (mapFe_base x f) h
@[simp] theorem mapCv_only (ps s x f) (h : within [.cv] ps = true) : Only ps s (State.mapCv x f) = Only ps s x :=
  only_iff (mapCv_base x f) h
@[simp] theorem mapQu_only (ps s x f) (h : within [.qu] ps = true) : Only ps s (State.mapQu x f) = Only ps s x :=
  only_iff (mapQu_base x f) h
@[simp] theorem mapPl_only (ps s x f) (h : within [.pl] ps = true) (k : ps.contains .plan = true ∨ ∀ y, (f y).act = y.act) :
    Only ps s (State.mapPl x f) = Only ps s x :=
  k.elim (fun k => only_iff (mapPl_base x f) (by simp at h k ⊢; exact ⟨h, k⟩)) fun k => only_iff (mapPl_keep x f k) h
@[simp] theorem mapMet_only (ps s x f) (h : within [.met] ps = true) : Only ps s (State.mapMet x f) = Only ps s x :=
  only_iff (mapMet_base x f) h
@[simp] theorem mapPq_only (ps s x f) (h : within [.pq] ps = true) : Only ps s (State.mapPq x f) = Only ps s x :=
  only_iff (mapPq_base x f) h
@[simp] theorem mapLs_only (ps s x f) (h : within [.ls] ps = true) : Only ps s (State.mapLs x f) = Only ps s x :=
  only_iff (mapLs_base x f) h
@[simp] theorem mapBl_only (ps s x f) (h : within [.bl] ps = true) : Only ps s (State.mapBl x f) = Only ps s x :=
  only_iff (mapBl_base x f) h
@[simp] theorem mapRtc_only (ps s x f) (h : within [.rtc] ps = true) (k : ps.contains .clock = true ∨ ∀ y, ((f y).sec, (f y).sub) = (y.sec, y.sub)) :
    Only ps s (State.mapRtc x f) = Only ps s x :=
  k.elim (fun k => only_iff (mapRtc_base x f) (by simp at h k ⊢; exact ⟨h, k⟩)) fun k => only_iff (mapRtc_keep x f k) h
@[simp] theorem mapTp_only (ps s x f) (h : within [.tp] ps = true) (k : ps.contains .seal = true ∨ ∀ y, (f y).sealSt = y.sealSt) :
    Only ps s (State.mapTp x f) = Only ps s x :=
  k.elim (fun k => only_iff (mapTp_base x f) (by simp at h k ⊢; exact ⟨h, k⟩)) fun k => only_iff (mapTp_keep x f k) h
@[simp] theorem mapEr_only (ps s x f) (h : within [.er] ps = true) : Only ps s (State.mapEr x f) = Only ps s x :=
  only_iff (mapEr_base x f) h
@[simp] theorem mapDp_only (ps s x f) (h : within [.dp] ps = true) : Only ps s (State.mapDp x f) = Only ps s x :=
  only_iff (mapDp_base x f) h
@[simp] theorem mapTr_only (ps s x f) (h : within [.tr] ps = true) : Only ps s (State.mapTr x f) = Only ps s x :=
  only_iff (mapTr_base x f) h
@[simp] theorem mapHp_only (ps s x f) (h : within [.hp] ps = true) : Only ps s (State.mapHp x f) = Only ps s x :=
  only_iff (mapHp_base x f) h
@[simp] theorem mapSer_only (ps s x f) (h : within [.ser] ps = true) : Only ps s (State.mapSer x f) = Only ps s x :=
  only_iff (mapSer_base x f) h
@[simp] theorem mapCb_only (ps s x f) (h : within [.cb] ps = true) : Only ps s (State.mapCb x f) = Only ps s x :=
  only_iff (mapCb_base x f) h
@[simp] theorem mapNv_only (ps s x f) (h : within [.nv] ps = true) : Only ps s (State.mapNv x f) = Only ps s x :=
  only_iff (mapNv_base x f) h
@[simp] theorem nextFresh_only (ps s x) (h : within [.fresh] ps = true) : Only ps s (State.nextFresh x) = Only ps s x :=
  only_iff (nextFresh_base x) h
@[simp] theorem draw_only (ps s x) (h : within [.fresh] ps = true) : Only ps s (State.draw x).2 = Only ps s x :=
  nextFresh_only ps s x h

end Sys2Proof.Laws
end

