-- ==== Sys2Proof/Laws/OnlyQueue.lean ====
section
/-! SUPPORT. What each operation of Machine/Queue.lean can change. -/

namespace Sys2Proof.Laws

open Sys2Proof.Machine

@[simp] theorem irq_only (s : State) (b : Nat) {pp : List Part} {z : State} (hw : within [.hp] pp = true) :
    Only pp z (State.irq s b) = Only pp z s :=
  only_iff (by simp [State.irq]) hw
@[simp] theorem irqEvent_only (s : State) (code : Nat) {pp : List Part} {z : State} (hw : within [.hp] pp = true) :
    Only pp z (State.irqEvent s code) = Only pp z s :=
  only_iff (by simp [State.irqEvent]) hw
@[simp] theorem setQueue_only (s : State) (q : Nat) (x : Queue) {pp : List Part} {z : State} (hw : within [.qu] pp = true) :
    Only pp z (State.setQueue s q x) = Only pp z s :=
  only_iff (by simp [State.setQueue]) hw
@[simp] theorem fillIrq_only (s : State) (q a b : Nat) {pp : List Part} {z : State} (hw : within [.hp] pp = true) :
    Only pp z (fillIrq s q a b) = Only pp z s :=
  only_iff (by simp [fillIrq]) hw
@[simp] theorem pushTo_only (s : State) (q : Nat) (es : List QEntry) {pp : List Part} {z : State} (hw : within [.qu, .hp] pp = true) :
    Only pp z (pushTo s q es).s = Only pp z s :=
  only_iff (by unfold pushTo; dsimp only; (repeat' split) <;> simp [within]) hw
@[simp] theorem pushRaw_only (s : State) (kind num : Nat) (es : List QEntry) {pp : List Part} {z : State} (hw : within [.qu, .hp] pp = true) :
    Only pp z (pushRaw s kind num es).1 = Only pp z s :=
  only_iff (by unfold pushRaw; split <;> simp) hw
@[simp] theorem storeSum_only (s : State) (m : Summary) {pp : List Part} {z : State} (hw : within [.er, .hp] pp = true) :
    Only pp z (State.storeSum s m) = Only pp z s :=
  only_iff (by simp [State.storeSum]) hw
@[simp] theorem closePast_only (s : State) (code chan : Nat) {pp : List Part} {z : State} (hw : within [.er, .hp] pp = true) :
    Only pp z (closePast s code chan) = Only pp z s :=
  only_iff (by unfold closePast; split <;> simp) hw
@[simp] theorem openKey_only (s : State) (code chan : Nat) (endonly : Bool) {pp : List Part} {z : State} (hw : within [.er, .hp] pp = true) :
    Only pp z (openKey s code chan endonly) = Only pp z s :=
  only_iff (by unfold openKey; dsimp only; (repeat' split) <;> simp) hw
@[simp] theorem updKey_only (s : State) (code chan : Nat) (f : Recorder → Summary → Summary) {pp : List Part} {z : State} (hw : within [.er] pp = true) :
    Only pp z (updKey s code chan f) = Only pp z s :=
  only_iff (by simp [updKey]) hw
@[simp] theorem setBucket_only (s : State) (code : Nat) (b : Bucket) {pp : List Part} {z : State} (hw : within [.er] pp = true) :
    Only pp z (State.setBucket s code b) = Only pp z s :=
  only_iff (by simp [State.setBucket]) hw
theorem raiseFuel_base : ∀ (k : Nat) (s : State) (code chan : Nat) (v : Option Int), Only [.qu, .er, .hp] s (raiseFuel k s code chan v)
  | 0, s, _, _, _ => only_refl _ s
  | k + 1, s, code, chan, v => by
    unfold raiseFuel
    split
    · exact only_refl _ s
    · split
      · dsimp only
        split
        · simp [within]
        · split
          · rename_i _ h; have e := congrArg Prod.fst h; simp only at e; simp [within, ← e]
          · rename_i _ h; have e := congrArg Prod.fst h; simp only at e
            refine only_trans ?_ (raiseFuel_base k _ _ _ _); simp [within, ← e]
      · exact only_refl _ s
@[simp] theorem raiseFuel_only (k : Nat) (s : State) (code chan : Nat) (v : Option Int) {ps : List Part} {z : State} (w : within [.qu, .er, .hp] ps = true) :
    Only ps z (raiseFuel k s code chan v) = Only ps z s :=
  only_iff (raiseFuel_base k s code chan v) w
@[simp] theorem raise_only (s : State) (code chan : Nat) (v : Option Int) {pp : List Part} {z : State} (hw : within [.qu, .er, .hp] pp = true) :
    Only pp z (raise s code chan v) = Only pp z s :=
  only_iff (by simp [raise]) hw
@[simp] theorem endSample_only (s : State) (code chan : Nat) (v : Int) {pp : List Part} {z : State} (hw : within [.er, .hp] pp = true) :
    Only pp z (endSample s code chan v) = Only pp z s :=
  only_iff (by unfold endSample; split <;> simp) hw
@[simp] theorem push_only (s : State) (kind num : Nat) (es : List QEntry) {ps : List Part} {z : State} (w : within [.qu, .er, .hp] ps = true) :
    Only ps z (push s kind num es) = Only ps z s :=
  only_iff (by
    unfold push; split <;> (rename_i _ h; have e := congrArg Prod.fst h; simp only at e; simp [within, ← e])) w
@[simp] theorem fullIrq_only (a b : State) {pp : List Part} {z : State} (hw : within [.hp] pp = true) :
    Only pp z (fullIrq a b) = Only pp z b :=
  only_iff (by simp [fullIrq]) hw
@[simp] theorem reserve_only (s : State) (n : Nat) {pp : List Part} {z : State} (hw : within [.er, .hp] pp = true) :
    Only pp z (reserve s n) = Only pp z s :=
  only_iff (by simp [reserve]) hw
@[simp] theorem release_only (s : State) (n : Nat) {pp : List Part} {z : State} (hw : within [.er] pp = true) :
    Only pp z (release s n) = Only pp z s :=
  only_iff (by simp [release]) hw
@[simp] theorem privDue_only (s : State) (ptype : Nat) (payload : List Byte) (cell : Bool) {pp : List Part} {z : State} (hw : within [.er] pp = true) :
    Only pp z (privDue s ptype payload cell) = Only pp z s :=
  only_iff (by simp [privDue]) hw

end Sys2Proof.Laws
end

