-- ==== Sys2Proof/Laws/OnlyBilling.lean ====
section
/-! SUPPORT. What each operation of Machine/Billing.lean can change. -/

namespace Sys2Proof.Laws

open Sys2Proof.Machine

@[simp] theorem putTidx_only (s : State) (p : Nat) (v : Pair 32) {pp : List Part} {z : State} (hw : within [.bl] pp = true) :
    Only pp z (State.putTidx s p v) = Only pp z s :=
  only_iff (by simp [State.putTidx]) hw
@[simp] theorem putLcb_only (s : State) (v : Pair 64) {pp : List Part} {z : State} (hw : within [.bl] pp = true) :
    Only pp z (State.putLcb s v) = Only pp z s :=
  only_iff (by simp [State.putLcb]) hw
@[simp] theorem setIv_only (s : State) (p : Nat) (v : Interval) {pp : List Part} {z : State} (hw : within [.bl] pp = true) :
    Only pp z (State.setIv s p v) = Only pp z s :=
  only_iff (by simp [State.setIv]) hw
@[simp] theorem openIv_only (s : State) (p : Nat) (short outage : Bool) {pp : List Part} {z : State} (hw : within [.bl] pp = true) :
    Only pp z (openIv s p short outage) = Only pp z s :=
  only_iff (by simp [openIv]) hw
@[simp] theorem updMd_only (c : IvClose) (s : State) (m : Nat) (d : Nat) {pp : List Part} {z : State} (hw : within [.qu, .bl, .er, .hp] pp = true) :
    Only pp z (updMd c s m d) = Only pp z s :=
  only_iff (by simp [updMd]) hw
@[simp] theorem finIv_only (s : State) (c : IvClose) {pp : List Part} {z : State} (hw : within [.qu, .bl, .er, .hp] pp = true) :
    Only pp z (finIv s c) = Only pp z s :=
  only_iff (by simp [finIv]) hw
@[simp] theorem closePoint_only (c : SetDue) (s : State) (h : SetHead) {pp : List Part} {z : State} (hw : within [.bl] pp = true) :
    Only pp z (closePoint c s h) = Only pp z s :=
  only_iff (by simp [closePoint]) hw
@[simp] theorem finSet_only (s : State) (c : SetDue) {pp : List Part} {z : State} (hw : within [.bl] pp = true) :
    Only pp z (finSet s c) = Only pp z s :=
  only_iff (by simp [finSet]) hw
@[simp] theorem finOne_only (s : State) (b : BndDue) {pp : List Part} {z : State} (w : within [.qu, .bl, .er, .hp] pp = true) :
    Only pp z (finOne s b) = Only pp z s :=
  only_iff (by cases b <;> simp [finOne, within]) w
@[simp] theorem finAll_only (s : State) {pp : List Part} {z : State} (hw : within [.qu, .bl, .er, .hp] pp = true) :
    Only pp z (finAll s) = Only pp z s :=
  only_iff (by simp [finAll]) hw
@[simp] theorem addFin_only (s : State) (d : BndDue) {pp : List Part} {z : State} (hw : within [.bl] pp = true) :
    Only pp z (State.addFin s d) = Only pp z s :=
  only_iff (by simp [State.addFin]) hw
@[simp] theorem leaveDefault_only (a b : State) {pp : List Part} {z : State} (hw : within [.er, .hp] pp = true) :
    Only pp z (leaveDefault a b) = Only pp z b :=
  only_iff (by simp [leaveDefault]) hw
theorem resumeCalendar_base {setT : State → Nat → Nat → Nat → State} (hT : ∀ s p t c, Only [.qu, .bl, .er, .hp] s (setT s p t c)) (s : State) (p : Nat) :
    Only [.qu, .bl, .er, .hp] s (resumeCalendar setT s p) := by
  unfold resumeCalendar; split
  · exact only_refl _ s
  · simp [within]; exact only_trans (by simp [within]) (hT _ _ _ _)
@[simp] theorem resumeCalendar_only {setT : State → Nat → Nat → Nat → State} (s : State) (p : Nat) {pp : List Part} {z : State}
    (hT : ∀ s p t c, Only [.qu, .bl, .er, .hp] s (setT s p t c)) (w : within [.qu, .bl, .er, .hp] pp = true) : Only pp z (resumeCalendar setT s p) = Only pp z s :=
  only_iff (resumeCalendar_base hT s p) w
@[simp] theorem regularEnd_only (s : State) (p : Nat) {pp : List Part} {z : State} (hw : within [.bl] pp = true) :
    Only pp z (regularEnd s p) = Only pp z s :=
  only_iff (by simp [regularEnd]) hw
@[simp] theorem closeShort_only (flag bin : Nat) (next : Bool) (s : State) (p : Nat) {pp : List Part} {z : State} (hw : within [.qu, .bl, .er, .hp] pp = true) :
    Only pp z (closeShort flag bin next s p) = Only pp z s :=
  only_iff (by simp [closeShort]) hw
@[simp] theorem shortClose_only (flag bin : Nat) (next : Bool) (s : State) (p : Nat) {pp : List Part} {z : State} (hw : within [.qu, .bl, .er, .hp] pp = true) :
    Only pp z (shortClose flag bin next s p) = Only pp z s :=
  only_iff (by simp [shortClose]) hw
@[simp] theorem setIndex_only (s : State) (p t src : Nat) {pp : List Part} {z : State} (hw : within [.bl] pp = true) :
    Only pp z (setIndex s p t src) = Only pp z s :=
  only_iff (by simp [setIndex]) hw
@[simp] theorem setTariff_only (s : State) (p t src : Nat) {pp : List Part} {z : State} (hw : within [.qu, .bl, .er, .hp] pp = true) :
    Only pp z (setTariff s p t src) = Only pp z s :=
  only_iff (by simp [setTariff]) hw
@[simp] theorem resumeTariff_only (s : State) (p : Nat) {pp : List Part} {z : State} (w : within [.qu, .bl, .er, .hp] pp = true) :
    Only pp z (resumeCalendar setTariff s p) = Only pp z s := resumeCalendar_only s p (fun _ _ _ _ => by simp [within]) w
@[simp] theorem tariffEval_only (s : State) {pp : List Part} {z : State} (w : within [.qu, .bl, .er, .hp] pp = true) :
    Only pp z (tariffEval s) = Only pp z s :=
  only_iff (by unfold tariffEval; dsimp only; repeat' split
               all_goals simp (maxDischargeDepth := 9) [within, only_ite]) w
theorem execTariffSwitch_only (s : State) (u : State) (hx : execTariffSwitch s = .next u) : Only [.qu, .bl, .er, .hp] s u := by
  unfold execTariffSwitch at hx; rw [← Host.Outcome.next.inj hx]; simp
@[simp] theorem defaultTariff_only (s : State) {pp : List Part} {z : State} (hw : within [.qu, .bl, .er, .hp] pp = true) :
    Only pp z (defaultTariff s) = Only pp z s :=
  only_iff (by simp [defaultTariff]) hw
@[simp] theorem orderDefault_only (s : State) {pp : List Part} {z : State} (hw : within [.bl] pp = true) :
    Only pp z (orderDefault s) = Only pp z s :=
  only_iff (by simp [orderDefault]) hw
@[simp] theorem clockBack_only (s : State) {pp : List Part} {z : State} (hw : within [.bl] pp = true) :
    Only pp z (clockBack s) = Only pp z s :=
  only_iff (by simp [clockBack]) hw
@[simp] theorem orderFallback_only (s : State) (ps : List Nat) {pp : List Part} {z : State} (hw : within [.bl] pp = true) :
    Only pp z (orderFallback s ps) = Only pp z s :=
  only_iff (by simp [orderFallback]) hw
@[simp] theorem applyFallback_only (s : State) {pp : List Part} {z : State} (hw : within [.qu, .bl, .er, .hp] pp = true) :
    Only pp z (applyFallback s) = Only pp z s :=
  only_iff (by simp [applyFallback]) hw
theorem execTariffFallbackApply_only (s : State) (u : State) (hx : execTariffFallbackApply s = .next u) : Only [.qu, .bl, .er, .hp] s u := by
  unfold execTariffFallbackApply at hx; rw [← Host.Outcome.next.inj hx]; simp
@[simp] theorem releaseFallback_only (s : State) (ps : List Nat) {pp : List Part} {z : State} (hw : within [.qu, .bl, .er, .hp] pp = true) :
    Only pp z (releaseFallback s ps) = Only pp z s :=
  only_iff (by simp [releaseFallback]) hw
@[simp] theorem orderRelease_only (s : State) (ps : List Nat) {pp : List Part} {z : State} (hw : within [.bl] pp = true) :
    Only pp z (orderRelease s ps) = Only pp z s :=
  only_iff (by simp [orderRelease]) hw
@[simp] theorem tariffTick_only (s : State) {pp : List Part} {z : State} (hw : within [.qu, .bl, .er, .hp] pp = true) :
    Only pp z (tariffTick s) = Only pp z s :=
  only_iff (by simp [tariffTick]) hw
@[simp] theorem demandEnds_only (s : State) {pp : List Part} {z : State} (hw : within [.qu, .bl, .er, .hp] pp = true) :
    Only pp z (demandEnds s) = Only pp z s :=
  only_iff (by simp [demandEnds]) hw
theorem execDemandIntervalEnd_only (s : State) (u : State) (hx : execDemandIntervalEnd s = .next u) : Only [.qu, .bl, .er, .hp] s u := by
  unfold execDemandIntervalEnd at hx; rw [← Host.Outcome.next.inj hx]; simp
@[simp] theorem closePeriod_only (s : State) (ps : List Nat) (all : Bool) (b : Int) (cause missed flags : Nat) {pp : List Part} {z : State} (hw : within [.qu, .bl, .er, .hp] pp = true) :
    Only pp z (closePeriod s ps all b cause missed flags) = Only pp z s :=
  only_iff (by simp [closePeriod]) hw
@[simp] theorem ruleClose_only (s : State) {pp : List Part} {z : State} (hw : within [.qu, .bl, .er, .hp] pp = true) :
    Only pp z (ruleClose s) = Only pp z s :=
  only_iff (by unfold ruleClose; split <;> simp) hw
theorem execBillingCloseRule_only (s : State) (u : State) (hx : execBillingCloseRule s = .next u) : Only [.qu, .bl, .er, .hp] s u := by
  unfold execBillingCloseRule at hx; rw [← Host.Outcome.next.inj hx]; simp
theorem execBlcmd_only (req : Requester) (w : Word) (s : State) (u : State) (hx : execBlcmd req w s = .next u) : Only [.hp] s u := by
  unfold execBlcmd at hx; rw [← Host.Outcome.next.inj hx]; simp
@[simp] theorem answerClose_only (s : State) (w : Word) {pp : List Part} {z : State} (hw : within [.qu, .bl, .er, .hp] pp = true) :
    Only pp z (answerClose s w) = Only pp z s :=
  only_iff (by unfold answerClose; (try dsimp only); (repeat' (first | (simp (maxDischargeDepth := 9); done) | split))) hw
@[simp] theorem cmdCloseTick_only (s : State) {pp : List Part} {z : State} (hw : within [.qu, .bl, .er, .hp] pp = true) :
    Only pp z (cmdCloseTick s) = Only pp z s :=
  only_iff (by unfold cmdCloseTick; split <;> simp) hw
@[simp] theorem catchUp_only (s : State) (lo hi : Int) (cause flags : Nat) {pp : List Part} {z : State} (hw : within [.qu, .bl, .er, .hp] pp = true) :
    Only pp z (catchUp s lo hi cause flags) = Only pp z s :=
  only_iff (by simp [catchUp]) hw
@[simp] theorem resumeAtSet_only (s : State) (t : Nat) {pp : List Part} {z : State} (hw : within [.qu, .bl, .er, .hp] pp = true) :
    Only pp z (resumeAtSet s t) = Only pp z s :=
  only_iff (by simp [resumeAtSet]) hw
@[simp] theorem clockSetBilling_only (s : State) (t0 t1 : Nat) (wasInvalid : Bool) {pp : List Part} {z : State} (hw : within [.qu, .bl, .er, .hp] pp = true) :
    Only pp z (clockSetBilling s t0 t1 wasInvalid) = Only pp z s :=
  only_iff (by simp [clockSetBilling]) hw
@[simp] theorem restoreIv_only (now : Nat) (sets : Bool) (s : State) (p : Nat) {pp : List Part} {z : State} (hw : within [.qu, .bl, .er, .hp] pp = true) :
    Only pp z (restoreIv now sets s p) = Only pp z s :=
  only_iff (by simp [restoreIv]) hw
@[simp] theorem restoreSet_only (s : State) (d : Nat × Nat × Nat × Requester × Bool × Bool) {pp : List Part} {z : State} (hw : within [.qu, .bl, .er, .hp] pp = true) :
    Only pp z (restoreSet s d) = Only pp z s :=
  only_iff (by simp [restoreSet]) hw
@[simp] theorem restoreBilling_only (s : State) {pp : List Part} {z : State} (hw : within [.qu, .bl, .rtc, .er, .hp] pp = true) :
    Only pp z (restoreBilling s) = Only pp z s :=
  only_iff (by simp [restoreBilling]) hw

end Sys2Proof.Laws
end

