-- ==== Sys2Proof/Laws/OnlyTamper.lean ====
section
/-! SUPPORT. What each operation of Machine/Tamper.lean can change. -/

namespace Sys2Proof.Laws

open Sys2Proof.Machine

@[simp] theorem setSrc_only (s : State) (n : Nat) (x : Source) {pp : List Part} {z : State} (hw : within [.tp] pp = true) :
    Only pp z (State.setSrc s n x) = Only pp z s :=
  only_iff (by simp [State.setSrc]) hw
@[simp] theorem slateEvent_only (s : State) (code chan : Nat) (v : Option Int) {pp : List Part} {z : State} (hw : within [.qu, .rtc, .er, .hp] pp = true) :
    Only pp z (slateEvent s code chan v) = Only pp z s :=
  only_iff (by simp [slateEvent]) hw
@[simp] theorem pendDec_only (s : State) (d : Decision) (first : Bool) {pp : List Part} {z : State} (hw : within [.tp] pp = true) :
    Only pp z (pendDec s d first) = Only pp z s :=
  only_iff (by simp [pendDec]) hw
@[simp] theorem poolNext_only (s : State) {pp : List Part} {z : State} (hw : within [.tp, .fresh] pp = true) :
    Only pp z (poolNext s).2 = Only pp z s :=
  only_iff (by unfold poolNext; split <;> simp) hw
@[simp] theorem refreshPool_only (s : State) {pp : List Part} {z : State} (hw : within [.tp, .fresh] pp = true) :
    Only pp z (refreshPool s) = Only pp z s :=
  only_iff (by simp [refreshPool]) hw
@[simp] theorem eraseKeys_only (s : State) (mask : Nat) {pp : List Part} {z : State} (hw : within [.tp, .er, .ser] pp = true) :
    Only pp z (eraseKeys s mask) = Only pp z s :=
  only_iff (by simp [eraseKeys]) hw
@[simp] theorem notifySrc_only (s : State) (n : Nat) {pp : List Part} {z : State} (hw : within [.hp, .ser] pp = true) :
    Only pp z (notifySrc s n) = Only pp z s :=
  only_iff (by simp [notifySrc]) hw
@[simp] theorem logSrc_only (s : State) (n : Nat) {pp : List Part} {z : State} (hw : within [.qu, .er, .hp] pp = true) :
    Only pp z (logSrc s n) = Only pp z s :=
  only_iff (by simp [logSrc]) hw
@[simp] theorem declare_only (s : State) (l : List Nat) {pp : List Part} {z : State} (hw : within [.qu, .bl, .tp, .er, .hp, .ser] pp = true) :
    Only pp z (declare s l) = Only pp z s :=
  only_iff (by simp [declare]) hw
@[simp] theorem processLatch_only (s : State) (x : TamperLatch) {pp : List Part} {z : State} (hw : within [.qu, .bl, .er, .hp, .ser] pp = true) :
    Only pp z (processLatch s x) = Only pp z s :=
  only_iff (by simp [processLatch]) hw
@[simp] theorem releaseChecks_only (s : State) {pp : List Part} {z : State} (hw : within [.bl, .tp, .er, .hp] pp = true) :
    Only pp z (releaseChecks s) = Only pp z s :=
  only_iff (by simp [releaseChecks]) hw
@[simp] theorem windowEnds_only (s : State) (src : Nat) {pp : List Part} {z : State} (hw : within [.qu, .rtc, .tp, .er, .hp] pp = true) :
    Only pp z (windowEnds s src) = Only pp z s :=
  only_iff (by simp [windowEnds]) hw
@[simp] theorem sourceEvents_only (s : State) (l : List Nat) (stat loop : Bool) {pp : List Part} {z : State} (hw : within [.qu, .bl, .rtc, .tp, .er, .hp, .ser] pp = true) :
    Only pp z (sourceEvents s l stat loop) = Only pp z s :=
  only_iff (by simp [sourceEvents]) hw
@[simp] theorem sourceEvent_only (s : State) (n : Nat) {pp : List Part} {z : State} (hw : within [.qu, .bl, .rtc, .tp, .er, .hp, .ser] pp = true) :
    Only pp z (sourceEvent s n) = Only pp z s :=
  only_iff (by simp [sourceEvent]) hw
theorem execTamperStaticEvent_only (held : HeldLevel) (s : State) (u : State) (hx : execTamperStaticEvent held s = .next u) : Only [.qu, .bl, .rtc, .tp, .er, .hp, .ser] s u := by
  unfold execTamperStaticEvent at hx; (repeat' split at hx) <;> first | (rw [← Host.Outcome.next.inj hx]; simp; done) | cases hx
@[simp] theorem takeMode_only (s : State) (n : Nat) {pp : List Part} {z : State} (hw : within [.tp] pp = true) :
    Only pp z (takeMode s n) = Only pp z s :=
  only_iff (by simp [takeMode]) hw
theorem execLoopBurst_only (missing : List Nat) (s : State) (u : State) (hx : execLoopBurst missing s = .next u) : Only [.qu, .bl, .rtc, .tp, .er, .hp, .ser] s u := by
  unfold execLoopBurst at hx; rw [← Host.Outcome.next.inj hx]; simp
theorem execTamperWindowClose_only (src : Nat) (s : State) (u : State) (hx : execTamperWindowClose src s = .next u) : Only [.qu, .rtc, .tp, .er, .hp] s u := by
  unfold execTamperWindowClose at hx; (try dsimp only at hx); (repeat' split at hx) <;> first | (rw [← Host.Outcome.next.inj hx]; simp (maxDischargeDepth := 9); done) | cases hx
theorem execDieTempSample_only (t : Int) (s : State) (u : State) (hx : execDieTempSample t s = .next u) : Only [.qu, .bl, .rtc, .tp, .er, .hp, .ser] s u := by
  unfold execDieTempSample at hx; rw [← Host.Outcome.next.inj hx]; simp
theorem execSupplyGlitch_only (s : State) (u : State) (hx : execSupplyGlitch s = .next u) : Only [.qu, .bl, .rtc, .tp, .er, .hp, .ser] s u := by
  unfold execSupplyGlitch at hx; rw [← Host.Outcome.next.inj hx]; simp
theorem execSealPinChange_only (low : Bool) (s : State) (u : State) (hx : execSealPinChange low s = .next u) : Only [.qu, .bl, .rtc, .tp, .er, .hp, .ser] s u := by
  unfold execSealPinChange at hx; (repeat' split at hx) <;> first | (rw [← Host.Outcome.next.inj hx]; simp; done) | cases hx

end Sys2Proof.Laws
end

