-- ==== Sys2Proof/Laws/OnlyRtc.lean ====
section
/-! SUPPORT. What each operation of Machine/Rtc.lean can change. -/

namespace Sys2Proof.Laws

open Sys2Proof.Machine

@[simp] theorem clockInvalid_only (s : State) (cause : Nat) {pp : List Part} {z : State} (hw : within [.tb, .qu, .bl, .rtc, .tp, .er, .hp] pp = true) :
    Only pp z (clockInvalid s cause) = Only pp z s :=
  only_iff (by simp [clockInvalid]) hw
@[simp] theorem setAlarm_only (s : State) (n : Nat) (a : Alarm) {pp : List Part} {z : State} (hw : within [.rtc] pp = true) :
    Only pp z (State.setAlarm s n a) = Only pp z s :=
  only_iff (by simp [State.setAlarm]) hw
@[simp] theorem latchAlarm_only (s : State) (n : Nat) (a : Alarm) {pp : List Part} {z : State} (hw : within [.rtc] pp = true) :
    Only pp z (latchAlarm s n a) = Only pp z s :=
  only_iff (by simp [latchAlarm]) hw
@[simp] theorem fireAlarm_only (s : State) (n : Nat) {pp : List Part} {z : State} (hw : within [.qu, .rtc, .er, .hp] pp = true) :
    Only pp z (fireAlarm s n) = Only pp z s :=
  only_iff (by simp [fireAlarm]) hw
@[simp] theorem lateFire_only (s : State) (n lateness : Nat) {pp : List Part} {z : State} (hw : within [.qu, .rtc, .er, .hp] pp = true) :
    Only pp z (lateFire s n lateness) = Only pp z s :=
  only_iff (by simp [lateFire]) hw
@[simp] theorem fireDue_only (s : State) {pp : List Part} {z : State} (hw : within [.qu, .rtc, .er, .hp] pp = true) :
    Only pp z (fireDue s) = Only pp z s :=
  only_iff (by simp [fireDue]) hw
@[simp] theorem alarmsAtSet_only (s : State) (t0 t1 : Nat) {pp : List Part} {z : State} (hw : within [.qu, .rtc, .er, .hp] pp = true) :
    Only pp z (alarmsAtSet s t0 t1) = Only pp z s :=
  only_iff (by simp [alarmsAtSet]) hw
@[simp] theorem alarmLatch_only (s : State) (n : Nat) {pp : List Part} {z : State} (hw : within [.qu, .rtc, .er, .hp] pp = true) :
    Only pp z (alarmLatch s n) = Only pp z s :=
  only_iff (by simp [alarmLatch]) hw
@[simp] theorem processLatches_only (s : State) {pp : List Part} {z : State} (hw : within [.qu, .bl, .rtc, .tp, .er, .hp, .ser] pp = true) :
    Only pp z (processLatches s) = Only pp z s :=
  only_iff (by unfold processLatches; simp; exact forEach_base _ _ (fun y a => by (repeat' split) <;> simp) _) hw
@[simp] theorem subTick_only (s : State) {pp : List Part} {z : State} (hw : within [.rtc, .tp, .clock] pp = true) :
    Only pp z (subTick s) = Only pp z s :=
  only_iff (by unfold subTick; (try dsimp only); (repeat' (first | (simp (maxDischargeDepth := 9); done) | split))) hw
@[simp] theorem subUnknown_only (s : State) {pp : List Part} {z : State} (hw : within [.rtc, .fresh, .clock] pp = true) :
    Only pp z (subUnknown s) = Only pp z s :=
  only_iff (by simp [subUnknown]) hw
@[simp] theorem timebaseEdge_only (s : State) (cyc : Nat) {pp : List Part} {z : State} (hw : within [.tb, .qu, .bl, .rtc, .tp, .er, .hp, .ser] pp = true) :
    Only pp z (timebaseEdge s cyc) = Only pp z s :=
  only_iff (by simp [timebaseEdge]) hw
theorem execRtcSecondEdge_only (cyc : Nat) (s : State) (u : State) (hx : execRtcSecondEdge cyc s = .next u) : Only [.tb, .qu, .bl, .rtc, .tp, .er, .hp, .ser, .fresh, .clock] s u := by
  unfold execRtcSecondEdge at hx; (try dsimp only at hx); (repeat' split at hx) <;> first | (rw [← Host.Outcome.next.inj hx]; simp (maxDischargeDepth := 9); done) | cases hx
theorem execCrystalStop_only (s : State) (u : State) (hx : execCrystalStop s = .next u) : Only [.tb, .qu, .bl, .rtc, .tp, .er, .hp, .ser] s u := by
  unfold execCrystalStop at hx; rw [← Host.Outcome.next.inj hx]; simp
theorem execCrystalRestore_only (s : State) (u : State) (hx : execCrystalRestore s = .next u) : Only [.rtc] s u := by
  unfold execCrystalRestore at hx; rw [← Host.Outcome.next.inj hx]; simp
theorem execSlateSupplySwitch_only (cell : Bool) (s : State) (u : State) (hx : execSlateSupplySwitch cell s = .next u) : Only [.tb, .qu, .bl, .rtc, .tp, .er, .hp] s u := by
  unfold execSlateSupplySwitch at hx; rw [← Host.Outcome.next.inj hx]; simp
theorem execVbatLow_only (mv : Nat) (s : State) (u : State) (hx : execVbatLow mv s = .next u) : Only [.tb, .qu, .bl, .rtc, .tp, .er, .hp, .ser] s u := by
  unfold execVbatLow at hx; rw [← Host.Outcome.next.inj hx]; simp
theorem execVbatlowClear_only (s : State) (u : State) (hx : execVbatlowClear s = .next u) : Only [.rtc, .fresh] s u := by
  unfold execVbatlowClear at hx; (try dsimp only at hx); (repeat' split at hx) <;> first | (rw [← Host.Outcome.next.inj hx]; simp (maxDischargeDepth := 9); done) | cases hx
@[simp] theorem dropSlateMarks_only (s : State) {pp : List Part} {z : State} (hw : within [.er] pp = true) :
    Only pp z (dropSlateMarks s) = Only pp z s :=
  only_iff (by simp [dropSlateMarks]) hw
theorem execSlateColdStart_only (s : State) (u : State) (hx : execSlateColdStart s = .next u) : Only [.sup, .rtc, .tp, .er, .mode, .seal, .clock] s u := by
  unfold execSlateColdStart at hx; rw [← Host.Outcome.next.inj hx]; simp
@[simp] theorem setHalt_only (s : State) (req : Requester) (sub : Nat) (relpps : Bool) {pp : List Part} {z : State} (hw : within [.tb, .rtc, .er, .hp, .clock] pp = true) :
    Only pp z (setHalt s req sub relpps) = Only pp z s :=
  only_iff (by simp [setHalt]) hw
theorem execHalt_only (req : Requester) (sub : Nat) (relpps : Bool) (s : State) (u : State) (hx : execHalt req sub relpps s = .next u) : Only [.tb, .rtc, .er, .hp, .clock] s u := by
  unfold execHalt at hx; rw [← Host.Outcome.next.inj hx]; simp
@[simp] theorem writeTime_only (s : State) (lo hi : Option Word) {pp : List Part} {z : State} (hw : within [.qu, .rtc, .er, .hp] pp = true) :
    Only pp z (writeTime s lo hi) = Only pp z s :=
  only_iff (by simp [writeTime]) hw
theorem execRtcTimeWrite_only (_req : Requester) (lo hi : Option Word) (s : State) (u : State) (hx : execRtcTimeWrite _req lo hi s = .next u) : Only [.qu, .rtc, .er, .hp] s u := by
  unfold execRtcTimeWrite at hx; rw [← Host.Outcome.next.inj hx]; simp
@[simp] theorem resumeAt_only (s : State) (t0 : Nat) {pp : List Part} {z : State} (hw : within [.tb, .qu, .bl, .rtc, .tp, .er, .hp, .clock] pp = true) :
    Only pp z (resumeAt s t0) = Only pp z s :=
  only_iff (by simp [resumeAt]) hw
@[simp] theorem clearHalt_only (s : State) (dur : Nat) {pp : List Part} {z : State} (hw : within [.tb, .qu, .bl, .rtc, .tp, .er, .hp, .clock] pp = true) :
    Only pp z (clearHalt s dur) = Only pp z s :=
  only_iff (by simp [clearHalt]) hw
theorem execClockSet_only (_req : Requester) (dur : Nat) (s : State) (u : State) (hx : execClockSet _req dur s = .next u) : Only [.tb, .qu, .bl, .rtc, .tp, .er, .hp, .clock] s u := by
  unfold execClockSet at hx; (repeat' split at hx) <;> first | (rw [← Host.Outcome.next.inj hx]; simp; done) | cases hx
theorem execHaltTimeout_only (s : State) (u : State) (hx : execHaltTimeout s = .next u) : Only [.tb, .qu, .bl, .rtc, .tp, .er, .hp, .clock] s u := by
  unfold execHaltTimeout at hx; (repeat' split at hx) <;> first | (rw [← Host.Outcome.next.inj hx]; simp; done) | cases hx
@[simp] theorem capture_only (s : State) (sub cyc : Nat) {pp : List Part} {z : State} (hw : within [.rtc] pp = true) :
    Only pp z (capture s sub cyc) = Only pp z s :=
  only_iff (by simp [capture]) hw
theorem execRtccapGo_only (sub cyc : Nat) (s : State) (u : State) (hx : execRtccapGo sub cyc s = .next u) : Only [.rtc] s u := by
  unfold execRtccapGo at hx; rw [← Host.Outcome.next.inj hx]; simp
@[simp] theorem ppsMeasure_only (s : State) (interval : Nat) (offset : Int) {pp : List Part} {z : State} (hw : within [.qu, .rtc, .er, .hp] pp = true) :
    Only pp z (ppsMeasure s interval offset) = Only pp z s :=
  only_iff (by simp [ppsMeasure]) hw
theorem execPpsEdge_only (interval : Nat) (offset : Int) (dur : Nat) (s : State) (u : State) (hx : execPpsEdge interval offset dur s = .next u) : Only [.tb, .qu, .bl, .rtc, .tp, .er, .hp, .clock] s u := by
  unfold execPpsEdge at hx; (try dsimp only at hx); (repeat' split at hx) <;> first | (rw [← Host.Outcome.next.inj hx]; simp (maxDischargeDepth := 9); done) | cases hx
theorem execPpsLoss_only (s : State) (u : State) (hx : execPpsLoss s = .next u) : Only [.qu, .rtc, .er, .hp] s u := by
  unfold execPpsLoss at hx; (repeat' split at hx) <;> first | (rw [← Host.Outcome.next.inj hx]; simp; done) | cases hx

end Sys2Proof.Laws
end

