-- ==== Sys2Proof/Laws/OnlyIntegrity.lean ====
section
/-! SUPPORT. What each operation of Machine/Integrity.lean can change. -/

namespace Sys2Proof.Laws

open Sys2Proof.Machine

@[simp] theorem closeNow_only (flag bin : Nat) (s : State) (p : Nat) {pp : List Part} {z : State} (hw : within [.qu, .bl, .er, .hp] pp = true) :
    Only pp z (closeNow flag bin s p) = Only pp z s :=
  only_iff (by unfold closeNow; dsimp only; (repeat' split) <;> simp) hw
@[simp] theorem faultEntry_only (s : State) (p cause : Nat) (f : Frame) {pp : List Part} {z : State} (hw : within [.qu, .ls, .bl, .er, .hp] pp = true) :
    Only pp z (faultEntry s p cause f) = Only pp z s :=
  only_iff (by simp [faultEntry]) hw
@[simp] theorem clearUv_only (s : State) (p : Nat) {pp : List Part} {z : State} (hw : within [.ls] pp = true) :
    Only pp z (clearUv s p) = Only pp z s :=
  only_iff (by simp [clearUv]) hw
@[simp] theorem clearRecovery_only (s : State) {pp : List Part} {z : State} (hw : within [.bl] pp = true) :
    Only pp z (clearRecovery s) = Only pp z s :=
  only_iff (by simp [clearRecovery]) hw
@[simp] theorem storageFault_only (s : State) (p : Nat) {pp : List Part} {z : State} (hw : within [.qu, .ls, .bl, .er, .hp] pp = true) :
    Only pp z (storageFault s p) = Only pp z s :=
  only_iff (by simp [storageFault]) hw
@[simp] theorem putSet_only (s : State) (p : Nat) (x : BillingSet) {pp : List Part} {z : State} (hw : within [.bl] pp = true) :
    Only pp z (putSet s p x) = Only pp z s :=
  only_iff (by simp [putSet]) hw
@[simp] theorem putWork_only (s : State) (c : Crit) (l : List (Pair 64)) {pp : List Part} {z : State} (hw : within [.pl, .met, .ls, .bl, .nv] pp = true) :
    Only pp z (putWork s c l) = Only pp z s :=
  only_iff (by unfold putWork; split <;> simp) hw
@[simp] theorem markWorn_only (s : State) (c : Crit) (l : List Slot) {pp : List Part} {z : State} (hw : within [.qu, .ls, .er, .hp] pp = true) :
    Only pp z (markWorn s c l) = Only pp z s :=
  only_iff (by simp [markWorn]) hw
@[simp] theorem writeGroup_only (s : State) (c : Crit) (seq : Word) (l : List (Pair 64)) {pp : List Part} {z : State} (hw : within [.qu, .ls, .er, .hp] pp = true) :
    Only pp z (writeGroup s c seq l) = Only pp z s :=
  only_iff (by simp [writeGroup]) hw
@[simp] theorem commitGroup_only (s : State) (c : Crit) (l : List (Pair 64)) {pp : List Part} {z : State} (hw : within [.qu, .ls, .er, .hp] pp = true) :
    Only pp z (commitGroup s c l) = Only pp z s :=
  only_iff (by simp [commitGroup]) hw
@[simp] theorem noteRepair_only (s : State) (chan : Nat) {pp : List Part} {z : State} (hw : within [.qu, .ls, .er, .hp] pp = true) :
    Only pp z (noteRepair s chan) = Only pp z s :=
  only_iff (by simp [noteRepair]) hw
@[simp] theorem noteLost_only (s : State) (c : Crit) (slots : Nat) {pp : List Part} {z : State} (hw : within [.qu, .ls, .bl, .er, .hp, .nv] pp = true) :
    Only pp z (noteLost s c slots) = Only pp z s :=
  only_iff (by unfold noteLost; split <;> simp) hw
@[simp] theorem checkGroup_only (s : State) (c : Crit) {pp : List Part} {z : State} (hw : within [.qu, .ls, .bl, .er, .hp, .nv] pp = true) :
    Only pp z (checkGroup s c).1 = Only pp z s :=
  only_iff (by unfold checkGroup; dsimp only; (repeat' split) <;> simp) hw
@[simp] theorem restoreBanks_only (s : State) {pp : List Part} {z : State} (hw : within [.qu, .pl, .met, .ls, .bl, .er, .hp, .nv] pp = true) :
    Only pp z (restoreBanks s) = Only pp z s :=
  only_iff (by unfold restoreBanks; exact forEach_base _ _ (fun y a => by dsimp only; split <;> simp) _) hw
@[simp] theorem fetchWork_only (s : State) (c : Crit) {pp : List Part} {z : State} (hw : within [.qu, .pl, .met, .ls, .bl, .er, .hp, .nv] pp = true) :
    Only pp z (fetchWork s c) = Only pp z s :=
  only_iff (by unfold fetchWork; dsimp only; (repeat' split) <;> simp) hw
@[simp] theorem sealCheck_only (s : State) {pp : List Part} {z : State} (hw : within [.qu, .tp, .er, .hp, .seal] pp = true) :
    Only pp z (sealCheck s) = Only pp z s :=
  only_iff (by simp [sealCheck]) hw
@[simp] theorem mendCal_only (s : State) {pp : List Part} {z : State} (hw : within [.qu, .met, .ls, .er, .hp] pp = true) :
    Only pp z (mendCal s) = Only pp z s :=
  only_iff (by simp [mendCal]) hw
@[simp] theorem checkWork_only (s : State) (c : Crit) {pp : List Part} {z : State} (hw : within [.qu, .pl, .met, .ls, .bl, .tp, .er, .hp, .nv, .seal] pp = true) :
    Only pp z (checkWork s c) = Only pp z s :=
  only_iff (by unfold checkWork; dsimp only; (repeat' split) <;> simp) hw
@[simp] theorem transferFailed_only (s : State) (c : Crit) (path : Nat) {pp : List Part} {z : State} (hw : within [.qu, .pl, .met, .ls, .bl, .tp, .er, .hp, .nv, .seal] pp = true) :
    Only pp z (transferFailed s c path) = Only pp z s :=
  only_iff (by simp [transferFailed]) hw
@[simp] theorem commitCrit_only (s : State) (c : Crit) {pp : List Part} {z : State} (hw : within [.qu, .pl, .met, .ls, .bl, .tp, .er, .hp, .nv, .seal] pp = true) :
    Only pp z (commitCrit s c) = Only pp z s :=
  only_iff (by simp [commitCrit]) hw
@[simp] theorem commitList_only (l : List Crit) (s : State) {pp : List Part} {z : State} (hw : within [.qu, .pl, .met, .ls, .bl, .tp, .er, .hp, .nv, .seal] pp = true) :
    Only pp z (commitList l s) = Only pp z s :=
  only_iff (by simp [commitList]) hw
@[simp] theorem commitFrame_only (s : State) (f : Frame) {pp : List Part} {z : State} (hw : within [.qu, .ls, .er, .hp, .nv] pp = true) :
    Only pp z (commitFrame s f) = Only pp z s :=
  only_iff (by simp [commitFrame]) hw
@[simp] theorem commitDigest_only (s : State) {pp : List Part} {z : State} (hw : within [.qu, .ls, .er, .hp] pp = true) :
    Only pp z (commitDigest s) = Only pp z s :=
  only_iff (by simp [commitDigest]) hw
@[simp] theorem checkDue_only (s : State) {pp : List Part} {z : State} (hw : within [.qu, .pl, .met, .ls, .bl, .tp, .er, .hp, .nv, .seal] pp = true) :
    Only pp z (checkDue s) = Only pp z s :=
  only_iff (by unfold checkDue; exact forEach_base _ _ (fun y a => by cases a <;> simp (maxDischargeDepth := 9)) _) hw
theorem execScrubSlot_only (s : State) (u : State) (hx : execScrubSlot s = .next u) : Only [.qu, .ls, .bl, .er, .hp, .nv] s u := by
  unfold execScrubSlot at hx; (try dsimp only at hx); (repeat' split at hx) <;> first | (rw [← Host.Outcome.next.inj hx]; simp (maxDischargeDepth := 9); done) | cases hx
@[simp] theorem writeLsinj_only (s : State) (w : Word) {pp : List Part} {z : State} (hw : within [.qu, .ls, .er, .hp] pp = true) :
    Only pp z (writeLsinj s w) = Only pp z s :=
  only_iff (by simp [writeLsinj]) hw
theorem execLsinj_only (w : Word) (s : State) (u : State) (hx : execLsinj w s = .next u) : Only [.qu, .ls, .er, .hp] s u := by
  unfold execLsinj at hx; rw [← Host.Outcome.next.inj hx]; simp
@[simp] theorem storageInject_only (s : State) (w : Word) {pp : List Part} {z : State} (hw : within [.qu, .pl, .met, .ls, .bl, .tp, .er, .hp, .nv, .seal] pp = true) :
    Only pp z (storageInject s w) = Only pp z s :=
  only_iff (by simp [storageInject]) hw
@[simp] theorem injectionAct_only (s : State) {pp : List Part} {z : State} (hw : within [.qu, .pl, .met, .ls, .bl, .tp, .er, .hp, .nv, .seal] pp = true) :
    Only pp z (injectionAct s) = Only pp z s :=
  only_iff (by unfold injectionAct; split <;> simp) hw
@[simp] theorem katResult_only (s : State) (failA failB : Bool) {pp : List Part} {z : State} (hw : within [.qu, .ls, .er, .hp] pp = true) :
    Only pp z (katResult s failA failB) = Only pp z s :=
  only_iff (by simp [katResult]) hw
@[simp] theorem reinRefuse_only (s : State) {pp : List Part} {z : State} (hw : within [.ls] pp = true) :
    Only pp z (reinRefuse s) = Only pp z s :=
  only_iff (by simp [reinRefuse]) hw
@[simp] theorem katAdvance_only (s : State) (c : Nat) (clean : Bool) {pp : List Part} {z : State} (hw : within [.ls] pp = true) :
    Only pp z (katAdvance s c clean) = Only pp z s :=
  only_iff (by simp [katAdvance]) hw
@[simp] theorem katBegin_only (s : State) {pp : List Part} {z : State} (hw : within [.ls] pp = true) :
    Only pp z (katBegin s) = Only pp z s :=
  only_iff (by simp [katBegin]) hw
theorem execKnownAnswerTestDone_only (failA failB : Bool) (s : State) (u : State) (hx : execKnownAnswerTestDone failA failB s = .next u) : Only [.qu, .ls, .tp, .er, .hp] s u := by
  unfold execKnownAnswerTestDone at hx; (repeat' split at hx) <;> first | (rw [← Host.Outcome.next.inj hx]; simp; done) | cases hx

end Sys2Proof.Laws
end

