-- ==== Sys2Proof/Laws/OnlyFrontEnd.lean ====
section
/-! SUPPORT. What each operation of Machine/FrontEnd.lean can change. -/

namespace Sys2Proof.Laws

open Sys2Proof.Machine

@[simp] theorem setFe_only (s : State) (c : Nat) (x : FeChan) {pp : List Part} {z : State} (hw : within [.fe] pp = true) :
    Only pp z (State.setFe s c x) = Only pp z s :=
  only_iff (by simp [State.setFe]) hw
theorem raiseAt_base (s : State) (code chan : Nat) (v : Option Int) (f : Frame) : Only [.qu, .er, .hp] s (raiseAt s code chan v f) := by
  intro p hp
  have h : Only [.qu, .er, .hp] (s.mapTb fun t => { t with frame := f }) (raise (s.mapTb fun t => { t with frame := f }) code chan v) := by simp
  have g := h .tb rfl
  have h := h p hp
  cases p <;> try exact h
  · change { (raise (s.mapTb fun t => { t with frame := f }) code chan v).tb with frame := s.tb.frame } = s.tb
    rw [show (raise (s.mapTb fun t => { t with frame := f }) code chan v).tb = { s.tb with frame := f } from g]
  · rfl
@[simp] theorem raiseAt_only (s : State) (code chan : Nat) (v : Option Int) (f : Frame) {pp : List Part} {z : State} (hw : within [.qu, .er, .hp] pp = true) :
    Only pp z (raiseAt s code chan v f) = Only pp z s :=
  only_iff (raiseAt_base s code chan v f) hw
@[simp] theorem ovlFrame_only (s : State) (c : Nat) {pp : List Part} {z : State} (hw : within [.fe, .qu, .er, .hp] pp = true) :
    Only pp z (ovlFrame s c) = Only pp z s :=
  only_iff (by simp [ovlFrame]) hw
@[simp] theorem clearFrame_only (s : State) (c : Nat) {pp : List Part} {z : State} (hw : within [.fe, .er, .hp] pp = true) :
    Only pp z (clearFrame s c) = Only pp z s :=
  only_iff (by simp [clearFrame]) hw
@[simp] theorem cmFrame_only (out : Bool) (s : State) (c : Nat) {pp : List Part} {z : State} (hw : within [.fe, .qu, .er, .hp] pp = true) :
    Only pp z (cmFrame out s c) = Only pp z s :=
  only_iff (by simp [cmFrame]) hw
@[simp] theorem analogFrame_only (s : State) (inp : TickInput) {pp : List Part} {z : State} (hw : within [.fe, .qu, .er, .hp] pp = true) :
    Only pp z (analogFrame s inp) = Only pp z s :=
  only_iff (by simp [analogFrame]) hw
@[simp] theorem probeDeclare_only (s : State) (c new res : Nat) (f : Frame) {pp : List Part} {z : State} (hw : within [.fe, .qu, .er, .hp] pp = true) :
    Only pp z (probeDeclare s c new res f) = Only pp z s :=
  only_iff (by unfold probeDeclare; dsimp only; (repeat' split) <;> simp) hw
@[simp] theorem probeTick_only (s : State) {pp : List Part} {z : State} (hw : within [.fe] pp = true) :
    Only pp z (probeTick s) = Only pp z s :=
  only_iff (by simp [probeTick]) hw
theorem execProbeResult_only (ch : Nat) (res : Option Nat) (s : State) (u : State) (hx : execProbeResult ch res s = .next u) : Only [.fe, .qu, .er, .hp] s u := by
  unfold execProbeResult at hx; (try dsimp only at hx); (repeat' split at hx) <;> first | (rw [← Host.Outcome.next.inj hx]; simp (maxDischargeDepth := 9); done) | cases hx
@[simp] theorem refEval_only (s : State) (q : Nat) (d : Int) {pp : List Part} {z : State} (hw : within [.fe, .qu, .er, .hp] pp = true) :
    Only pp z (refEval s q d) = Only pp z s :=
  only_iff (by simp [refEval]) hw
theorem execReferenceCheck_only (m0 m1 m2 m3 : Nat) (s : State) (u : State) (hx : execReferenceCheck m0 m1 m2 m3 s = .next u) : Only [.fe, .qu, .er, .hp] s u := by
  unfold execReferenceCheck at hx; (repeat' split at hx) <;> first | (rw [← Host.Outcome.next.inj hx]; simp; done) | cases hx

end Sys2Proof.Laws
end

