-- ==== Sys2Proof/Laws/OnlyConverter.lean ====
section
/-! SUPPORT. What each operation of Machine/Converter.lean can change. -/

namespace Sys2Proof.Laws

open Sys2Proof.Machine

@[simp] theorem setSlice_only (s : State) (n : Nat) (x : Slice) {pp : List Part} {z : State} (hw : within [.cv] pp = true) :
    Only pp z (State.setSlice s n x) = Only pp z s :=
  only_iff (by simp [State.setSlice]) hw
@[simp] theorem setPath_only (s : State) (c : Nat) (x : ChanPath) {pp : List Part} {z : State} (hw : within [.cv] pp = true) :
    Only pp z (State.setPath s c x) = Only pp z s :=
  only_iff (by simp [State.setPath]) hw
@[simp] theorem setSample_only (s : State) (c ap : Nat) (v : Option Sample) (slice : Option Nat) {pp : List Part} {z : State} (hw : within [.cv] pp = true) :
    Only pp z (setSample s c ap v slice) = Only pp z s :=
  only_iff (by simp [setSample]) hw
@[simp] theorem calConversion_only (s : State) (n : Nat) (raw : Int) {pp : List Part} {z : State} (hw : within [.cv] pp = true) :
    Only pp z (calConversion s n raw) = Only pp z s :=
  only_iff (by simp [calConversion]) hw
@[simp] theorem yieldSample_only (s : State) (c ap : Nat) {pp : List Part} {z : State} (hw : within [.cv] pp = true) :
    Only pp z (yieldSample s c ap) = Only pp z s :=
  only_iff (by simp [yieldSample]) hw
theorem execConversionComplete_only (slice slot : Nat) (taken : Option Nat) (raw : Int) (s : State) (u : State) (hx : execConversionComplete slice slot taken raw s = .next u) : Only [.cv] s u := by
  unfold execConversionComplete at hx; (try dsimp only at hx); (repeat' split at hx) <;> first | (rw [← Host.Outcome.next.inj hx]; simp (maxDischargeDepth := 9); done) | cases hx
@[simp] theorem countSubs_only (s : State) (c : Nat) {pp : List Part} {z : State} (hw : within [.cv] pp = true) :
    Only pp z (countSubs s c) = Only pp z s :=
  only_iff (by simp [countSubs]) hw
@[simp] theorem streamOutput_only (s : State) (c : Nat) {pp : List Part} {z : State} (hw : within [.cv, .qu, .er, .hp] pp = true) :
    Only pp z (streamOutput s c) = Only pp z s :=
  only_iff (by simp [streamOutput]) hw
@[simp] theorem filterChange_only (s : State) (fir : Bool) (x : SincSet) {pp : List Part} {z : State} (hw : within [.cv] pp = true) :
    Only pp z (filterChange s fir x) = Only pp z s :=
  only_iff (by simp [filterChange]) hw
@[simp] theorem settleTick_only (s : State) {pp : List Part} {z : State} (hw : within [.cv] pp = true) :
    Only pp z (settleTick s) = Only pp z s :=
  only_iff (by simp [settleTick]) hw
theorem execSettlingEnd_only (s : State) (u : State) (hx : execSettlingEnd s = .next u) : Only [.cv] s u := by
  unfold execSettlingEnd at hx; rw [← Host.Outcome.next.inj hx]; simp
@[simp] theorem setCmp_only (s : State) (pt : Bool) (i : Nat) (x : Comparator) {pp : List Part} {z : State} (hw : within [.cv] pp = true) :
    Only pp z (State.setCmp s pt i x) = Only pp z s :=
  only_iff (by simp [State.setCmp]) hw
@[simp] theorem cmpTransition_only (s : State) (pt : Bool) (i : Nat) {pp : List Part} {z : State} (hw : within [.cv, .qu, .er, .hp] pp = true) :
    Only pp z (cmpTransition s pt i) = Only pp z s :=
  only_iff (by simp [cmpTransition]) hw
theorem execComparatorDwellComplete_only (point : Bool) (idx : Nat) (s : State) (u : State) (hx : execComparatorDwellComplete point idx s = .next u) : Only [.cv, .qu, .er, .hp] s u := by
  unfold execComparatorDwellComplete at hx; (repeat' split at hx) <;> first | (rw [← Host.Outcome.next.inj hx]; simp; done) | cases hx
@[simp] theorem cmpStep_only (s : State) (pt : Bool) (i : Nat) (d : CmpDef) (v : Int) {pp : List Part} {z : State} (hw : within [.cv, .qu, .er, .hp] pp = true) :
    Only pp z (cmpStep s pt i d v) = Only pp z s :=
  only_iff (by simp [cmpStep]) hw
@[simp] theorem streamCompare_only (s : State) (c : Nat) {pp : List Part} {z : State} (hw : within [.cv, .qu, .er, .hp] pp = true) :
    Only pp z (streamCompare s c) = Only pp z s :=
  only_iff (by simp [streamCompare]) hw
@[simp] theorem declareSlice_only (s : State) (n : Nat) {pp : List Part} {z : State} (hw : within [.cv, .qu, .er, .hp] pp = true) :
    Only pp z (declareSlice s n) = Only pp z s :=
  only_iff (by simp [declareSlice]) hw
theorem execSliceCalUpdate_only (slice : Nat) (cycle : CalCycle) (s : State) (u : State) (hx : execSliceCalUpdate slice cycle s = .next u) : Only [.cv, .qu, .er, .hp] s u := by
  unfold execSliceCalUpdate at hx; (repeat' split at hx) <;> first | (rw [← Host.Outcome.next.inj hx]; simp; done) | cases hx
@[simp] theorem startupSlice_only (s : State) (n : Nat) {pp : List Part} {z : State} (hw : within [.cv, .qu, .er, .hp] pp = true) :
    Only pp z (startupSlice s n) = Only pp z s :=
  only_iff (by unfold startupSlice; dsimp only; (repeat' split) <;> simp) hw
theorem execStartupCalibrationDone_only (cycle : CalCycle) (s : State) (u : State) (hx : execStartupCalibrationDone cycle s = .next u) : Only [.cv, .qu, .er, .hp] s u := by
  unfold execStartupCalibrationDone at hx; (repeat' split at hx) <;> first | (rw [← Host.Outcome.next.inj hx]; simp; done) | cases hx
@[simp] theorem sliceTick_only (s : State) {pp : List Part} {z : State} (hw : within [.cv] pp = true) :
    Only pp z (sliceTick s) = Only pp z s :=
  only_iff (by simp [sliceTick]) hw
@[simp] theorem missTrigger_only (s : State) (c : Nat) {pp : List Part} {z : State} (hw : within [.cv, .qu, .er, .hp] pp = true) :
    Only pp z (missTrigger s c) = Only pp z s :=
  only_iff (by simp [missTrigger]) hw
@[simp] theorem startCapture_only (s : State) (c k : Nat) (manual : Bool) {pp : List Part} {z : State} (hw : within [.cv] pp = true) :
    Only pp z (startCapture s c k manual) = Only pp z s :=
  only_iff (by simp [startCapture]) hw
@[simp] theorem captureTriggers_only (s : State) (inp : TickInput) {pp : List Part} {z : State} (hw : within [.fe, .cv, .qu, .er, .hp] pp = true) :
    Only pp z (captureTriggers s inp) = Only pp z s :=
  only_iff (by simp [captureTriggers]) hw
@[simp] theorem captureFrame_only (s : State) {pp : List Part} {z : State} (hw : within [.cv] pp = true) :
    Only pp z (captureFrame s) = Only pp z s :=
  only_iff (by simp [captureFrame]) hw
@[simp] theorem manualCapture_only (s : State) (c ap : Nat) {pp : List Part} {z : State} (hw : within [.cv, .qu, .er, .hp] pp = true) :
    Only pp z (manualCapture s c ap) = Only pp z s :=
  only_iff (by simp [manualCapture]) hw
theorem execFaultCaptureManual_only (ch ap : Nat) (s : State) (u : State) (hx : execFaultCaptureManual ch ap s = .next u) : Only [.cv, .qu, .er, .hp] s u := by
  unfold execFaultCaptureManual at hx; (repeat' split at hx) <;> first | (rw [← Host.Outcome.next.inj hx]; simp; done) | cases hx
theorem execFaultCapturePush_only (s : State) (u : State) (hx : execFaultCapturePush s = .next u) : Only [.cv, .qu, .er, .hp] s u := by
  unfold execFaultCapturePush at hx; (try dsimp only at hx); (repeat' split at hx) <;> first | (rw [← Host.Outcome.next.inj hx]; simp (maxDischargeDepth := 9); done) | cases hx
theorem execQueueMarkerAppend_only (q : Nat) (s : State) (u : State) (hx : execQueueMarkerAppend q s = .next u) : Only [.qu, .hp] s u := by
  unfold execQueueMarkerAppend at hx; (try dsimp only at hx); (repeat' split at hx) <;> first | (rw [← Host.Outcome.next.inj hx]; simp (maxDischargeDepth := 9); done) | cases hx
@[simp] theorem popQueue_only (s : State) (req : Requester) (q : Nat) {pp : List Part} {z : State} (hw : within [.qu] pp = true) :
    Only pp z (popQueue s req q) = Only pp z s :=
  only_iff (by simp [popQueue]) hw
theorem execQpop0_only (req : Requester) (q : Nat) (s : State) (u : State) (hx : execQpop0 req q s = .next u) : Only [.qu, .hp] s u := by
  unfold execQpop0 at hx; (repeat' split at hx) <;> first | (rw [← Host.Outcome.next.inj hx]; simp; done) | cases hx

end Sys2Proof.Laws
end

