-- ==== Sys2Proof/Laws/OnlyMetrology.lean ====
section
/-! SUPPORT. What each operation of Machine/Metrology.lean can change. -/

namespace Sys2Proof.Laws

open Sys2Proof.Machine

theorem atFrame_base {pp : List Part} (s : State) (f : Frame) (g : State → State) (hg : ∀ y, Only pp y (g y)) : Only pp s (atFrame s f g) := by
  intro p hp
  have h := hg (s.mapTb fun t => { t with frame := f }) p hp
  cases p <;> first | exact h | rfl | skip
  have h : (g (s.mapTb fun t => { t with frame := f })).tb = { s.tb with frame := f } := h
  change { (g (s.mapTb fun t => { t with frame := f })).tb with frame := s.tb.frame } = s.tb
  rw [h]
@[simp] theorem atFrame_only {pp : List Part} {z : State} (s : State) (f : Frame) (g : State → State) (hg : ∀ y, Only pp y (g y)) :
    Only pp z (atFrame s f g) = Only pp z s :=
  propext ⟨fun k p hp => same_trans (k p hp) (same_symm (atFrame_base s f g hg p hp)), fun k => only_trans k (atFrame_base s f g hg)⟩
@[simp] theorem setPt_only (s : State) (p : Nat) (x : Point) {pp : List Part} {z : State} (hw : within [.met] pp = true) :
    Only pp z (State.setPt s p x) = Only pp z s :=
  only_iff (by simp [State.setPt]) hw
@[simp] theorem setBus_only (s : State) (b : Nat) (x : Bus) {pp : List Part} {z : State} (hw : within [.met] pp = true) :
    Only pp z (State.setBus s b x) = Only pp z s :=
  only_iff (by simp [State.setBus]) hw
@[simp] theorem scalePoint_only (pl : PlanDef) (s : State) (p : Nat) {pp : List Part} {z : State} (hw : within [.qu, .met, .er, .hp] pp = true) :
    Only pp z (scalePoint pl s p) = Only pp z s :=
  only_iff (by simp [scalePoint]) hw
@[simp] theorem scalePulse_only (pl : PlanDef) (s : State) (o : Nat) {pp : List Part} {z : State} (hw : within [.met] pp = true) :
    Only pp z (scalePulse pl s o) = Only pp z s :=
  only_iff (by simp [scalePulse]) hw
@[simp] theorem scaleEval_only (s : State) (pl : PlanDef) {pp : List Part} {z : State} (hw : within [.qu, .met, .er, .hp] pp = true) :
    Only pp z (scaleEval s pl) = Only pp z s :=
  only_iff (by simp [scaleEval]) hw
@[simp] theorem restartSums_only (pl : PlanDef) (s : State) (b : Nat) {pp : List Part} {z : State} (hw : within [.met] pp = true) :
    Only pp z (restartSums pl s b) = Only pp z s :=
  only_iff (by simp [restartSums]) hw

end Sys2Proof.Laws
end

