-- ==== Sys2Proof/Laws/OnlyLanes.lean ====
section
/-! SUPPORT. What each operation of Machine/Lanes.lean can change. -/

namespace Sys2Proof.Laws

open Sys2Proof.Machine

@[simp] theorem lanePart_only (pl : PlanDef) (s : State) (part : Nat) {pp : List Part} {z : State} (hw : within [.met] pp = true) :
    Only pp z (lanePart pl s part) = Only pp z s :=
  only_iff (by simp [lanePart]) hw
@[simp] theorem prologue_only (pl : PlanDef) (s : State) {pp : List Part} {z : State} (hw : within [.met] pp = true) :
    Only pp z (prologue pl s) = Only pp z s :=
  only_iff (by simp [prologue]) hw
@[simp] theorem pointIncs_only (pl : PlanDef) (s : State) (p : Nat) {pp : List Part} {z : State} (hw : within [.met] pp = true) :
    Only pp z (pointIncs pl s p) = Only pp z s :=
  only_iff (by simp [pointIncs]) hw
@[simp] theorem pulseInc_only (pl : PlanDef) (s : State) (o : Nat) {pp : List Part} {z : State} (hw : within [.met] pp = true) :
    Only pp z (pulseInc pl s o) = Only pp z s :=
  only_iff (by simp [pulseInc]) hw
@[simp] theorem satEvents_only (s : State) (p : Nat) (was : Bool) (run : Nat) {pp : List Part} {z : State} (hw : within [.qu, .met, .er, .hp] pp = true) :
    Only pp z (satEvents s p was run) = Only pp z s :=
  only_iff (by simp [satEvents]) hw
@[simp] theorem segment_only (pl : PlanDef) (s : State) (p : Nat) {pp : List Part} {z : State} (hw : within [.qu, .met, .er, .hp] pp = true) :
    Only pp z (Machine.segment pl s p) = Only pp z s :=
  only_iff (by unfold Machine.segment; (try dsimp only); (repeat' (first | (simp (maxDischargeDepth := 9); done) | split))) hw
@[simp] theorem laneFrame_only (s : State) (pl : PlanDef) (df : Nat) {pp : List Part} {z : State} (hw : within [.qu, .met, .ls, .er, .hp] pp = true) :
    Only pp z (laneFrame s pl df) = Only pp z s :=
  only_iff (by simp [laneFrame]) hw
@[simp] theorem holdUpsets_only (s : State) (l : List Upset) (p : Nat) {pp : List Part} {z : State} (hw : within [.met] pp = true) :
    Only pp z (holdUpsets s l p) = Only pp z s :=
  only_iff (by simp [holdUpsets]) hw
@[simp] theorem injRetried_only (s : State) (l : List Nat) {pp : List Part} {z : State} (hw : within [.ls] pp = true) :
    Only pp z (injRetried s l) = Only pp z s :=
  only_iff (by unfold injRetried; split <;> simp) hw
@[simp] theorem lockstep_only (s : State) (upsets : List Upset) {pp : List Part} {z : State} (hw : within [.qu, .met, .ls, .er, .hp] pp = true) :
    Only pp z (lockstep s upsets) = Only pp z s :=
  only_iff (by unfold lockstep; split <;> simp) hw
theorem execLockstepCompare_only (upsets : List Upset) (s : State) (u : State) (hx : execLockstepCompare upsets s = .next u) : Only [.qu, .met, .ls, .er, .hp] s u := by
  unfold execLockstepCompare at hx; rw [← Host.Outcome.next.inj hx]; simp
@[simp] theorem ivEnergy_only (s : State) (p q n : Nat) {pp : List Part} {z : State} (hw : within [.bl] pp = true) :
    Only pp z (ivEnergy s p q n) = Only pp z s :=
  only_iff (by unfold ivEnergy; split <;> simp) hw
@[simp] theorem addQuanta_only (s : State) (p q : Nat) (n : Int × Int) {pp : List Part} {z : State} (hw : within [.qu, .pl, .met, .ls, .bl, .tp, .er, .hp, .nv, .seal] pp = true) :
    Only pp z (addQuanta s p q n) = Only pp z s :=
  only_iff (by simp [addQuanta]) hw
@[simp] theorem applyInc_only (s : State) (p q : Nat) (a b : Int) {pp : List Part} {z : State} (hw : within [.qu, .pl, .met, .ls, .bl, .tp, .er, .hp, .nv, .seal] pp = true) :
    Only pp z (applyInc s p q a b) = Only pp z s :=
  only_iff (by simp [applyInc]) hw
@[simp] theorem revImport_only (s : State) (p : Nat) {pp : List Part} {z : State} (hw : within [.qu, .bl, .er, .hp] pp = true) :
    Only pp z (revImport s p) = Only pp z s :=
  only_iff (by simp [revImport]) hw
@[simp] theorem commitStage_only (s : State) {pp : List Part} {z : State} (hw : within [.met] pp = true) :
    Only pp z (commitStage s) = Only pp z s :=
  only_iff (by simp [commitStage]) hw
@[simp] theorem applyFrame_only (s : State) {pp : List Part} {z : State} (hw : within [.qu, .pl, .met, .ls, .bl, .tp, .er, .hp, .nv, .seal] pp = true) :
    Only pp z (applyFrame s) = Only pp z s :=
  only_iff (by unfold applyFrame; (try dsimp only); (repeat' (first | (simp (maxDischargeDepth := 9); done) | split))) hw
@[simp] theorem applyPulse_only (f : Frame) (s : State) (o : Nat) {pp : List Part} {z : State} (hw : within [.qu, .pl, .met, .ls, .bl, .tp, .er, .hp, .nv, .seal] pp = true) :
    Only pp z (applyPulse f s o) = Only pp z s :=
  only_iff (by simp [applyPulse]) hw
@[simp] theorem applyPulses_only (s : State) (f : Frame) {pp : List Part} {z : State} (hw : within [.qu, .pl, .met, .ls, .bl, .tp, .er, .hp, .nv, .seal] pp = true) :
    Only pp z (applyPulses s f) = Only pp z s :=
  only_iff (by simp [applyPulses]) hw
theorem execPulseStart_only (out : Nat) (s : State) (u : State) (hx : execPulseStart out s = .next u) : Only [.qu, .pl, .met, .ls, .bl, .tp, .er, .hp, .nv, .seal] s u := by
  unfold execPulseStart at hx; (try dsimp only at hx); (repeat' split at hx) <;> first | (rw [← Host.Outcome.next.inj hx]; simp (maxDischargeDepth := 9); done) | cases hx
theorem execPulseEnd_only (out : Nat) (s : State) (u : State) (hx : execPulseEnd out s = .next u) : Only [.met] s u := by
  unfold execPulseEnd at hx; (try dsimp only at hx); (repeat' split at hx) <;> first | (rw [← Host.Outcome.next.inj hx]; simp (maxDischargeDepth := 9); done) | cases hx

end Sys2Proof.Laws
end

