-- ==== Sys2Proof/Laws/OnlyLink.lean ====
section
/-! SUPPORT. What each operation of Machine/Link.lean can change. -/

namespace Sys2Proof.Laws

open Sys2Proof.Machine

@[simp] theorem setPort_only (s : State) (p : Nat) (x : CbPort) {pp : List Part} {z : State} (hw : within [.cb] pp = true) :
    Only pp z (State.setPort s p x) = Only pp z s :=
  only_iff (by simp [State.setPort]) hw
@[simp] theorem sendPort_only (s : State) (p : Nat) (m : OutMsg) {pp : List Part} {z : State} (hw : within [.cb] pp = true) :
    Only pp z (sendPort s p m) = Only pp z s :=
  only_iff (by simp [sendPort]) hw
@[simp] theorem refill_only (s : State) (p : Nat) {pp : List Part} {z : State} (hw : within [.cb] pp = true) :
    Only pp z (refill s p) = Only pp z s :=
  only_iff (by simp [refill]) hw
@[simp] theorem setRole_only (s : State) (r : Nat) {pp : List Part} {z : State} (hw : within [.tb, .hp] pp = true) :
    Only pp z (setRole s r) = Only pp z s :=
  only_iff (by simp [setRole]) hw
@[simp] theorem rspRecord_only (s : State) (src op tag addr status : Nat) (data : List Byte) {pp : List Part} {z : State} (hw : within [.qu, .er, .hp] pp = true) :
    Only pp z (rspRecord s src op tag addr status data) = Only pp z s :=
  only_iff (by simp [rspRecord]) hw
@[simp] theorem sendRsp_only (s : State) (h : CobaltHdr) (op addr status : Nat) (data : List Byte) {pp : List Part} {z : State} (hw : within [.qu, .er, .hp, .cb] pp = true) :
    Only pp z (sendRsp s h op addr status data) = Only pp z s :=
  only_iff (by unfold sendRsp; split <;> simp) hw
@[simp] theorem takeRx_only (s : State) {pp : List Part} {z : State} (hw : within [.cb] pp = true) :
    Only pp z (takeRx s) = Only pp z s :=
  only_iff (by simp [takeRx]) hw
@[simp] theorem loaderAnswer_only (s : State) (h : Option CobaltHdr) (op addr : Nat) (code : Option Nat) {pp : List Part} {z : State} (hw : within [.qu, .er, .hp, .cb] pp = true) :
    Only pp z (loaderAnswer s h op addr code) = Only pp z s :=
  only_iff (by unfold loaderAnswer; split <;> simp) hw
@[simp] theorem aggRecord_only (s : State) (src aid flags pts : Nat) (f : Frame) (v : BitVec 64) {pp : List Part} {z : State} (hw : within [.qu, .er, .hp] pp = true) :
    Only pp z (aggRecord s src aid flags pts f v) = Only pp z s :=
  only_iff (by simp [aggRecord]) hw

end Sys2Proof.Laws
end

