-- ==== Sys2Proof/Laws/OnlyTrust.lean ====
section
/-! SUPPORT. What each operation of Machine/Trust.lean can change. -/

namespace Sys2Proof.Laws

open Sys2Proof.Machine

@[simp] theorem extendMeas_only (s : State) (reg kind : Nat) (d : BitVec 256) {pp : List Part} {z : State} (hw : within [.tr] pp = true) :
    Only pp z (extendMeas s reg kind d) = Only pp z s :=
  only_iff (by simp [extendMeas]) hw
@[simp] theorem extendPlan_only (s : State) (kind : Nat) (pl : PlanDef) {pp : List Part} {z : State} (hw : within [.tr] pp = true) :
    Only pp z (extendPlan s kind pl) = Only pp z s :=
  only_iff (by simp [extendPlan]) hw
@[simp] theorem setSlot_only (s : State) (n : Nat) (x : FwSlot) {pp : List Part} {z : State} (hw : within [.tr] pp = true) :
    Only pp z (State.setSlot s n x) = Only pp z s :=
  only_iff (by simp [State.setSlot]) hw
@[simp] theorem fwReject_only (s : State) (code : Nat) {pp : List Part} {z : State} (hw : within [.qu, .er, .tr, .hp] pp = true) :
    Only pp z (fwReject s code) = Only pp z s :=
  only_iff (by simp [fwReject]) hw
@[simp] theorem fwBegin_only (s : State) (req : Requester) (app : Bool) {pp : List Part} {z : State} (hw : within [.tr] pp = true) :
    Only pp z (fwBegin s req app) = Only pp z s :=
  only_iff (by simp [fwBegin]) hw
theorem execTrfwctlBegin_only (req : Requester) (app : Bool) (s : State) (u : State) (hx : execTrfwctlBegin req app s = .next u) : Only [.tr] s u := by
  unfold execTrfwctlBegin at hx; rw [← Host.Outcome.next.inj hx]; simp
@[simp] theorem fwData_only (s : State) (req : Requester) (bs : List Byte) {pp : List Part} {z : State} (hw : within [.tr] pp = true) :
    Only pp z (fwData s req bs) = Only pp z s :=
  only_iff (by simp [fwData]) hw
theorem execTrfwdata_only (req : Requester) (bytes : List Byte) (s : State) (u : State) (hx : execTrfwdata req bytes s = .next u) : Only [.tr] s u := by
  unfold execTrfwdata at hx; rw [← Host.Outcome.next.inj hx]; simp
@[simp] theorem fwVerify_only (s : State) (req : Requester) {pp : List Part} {z : State} (hw : within [.qu, .er, .tr, .hp] pp = true) :
    Only pp z (fwVerify s req) = Only pp z s :=
  only_iff (by unfold fwVerify; (try dsimp only); (repeat' (first | (simp (maxDischargeDepth := 9); done) | split))) hw
theorem execTrfwctlVerify_only (req : Requester) (s : State) (u : State) (hx : execTrfwctlVerify req s = .next u) : Only [.qu, .er, .tr, .hp] s u := by
  unfold execTrfwctlVerify at hx; rw [← Host.Outcome.next.inj hx]; simp
@[simp] theorem fwAccept_only (s : State) {pp : List Part} {z : State} (hw : within [.qu, .er, .tr, .hp] pp = true) :
    Only pp z (fwAccept s) = Only pp z s :=
  only_iff (by simp [fwAccept]) hw
@[simp] theorem fwAcceptReq_only (s : State) (req : Requester) {pp : List Part} {z : State} (hw : within [.qu, .tp, .er, .tr, .hp] pp = true) :
    Only pp z (fwAcceptReq s req) = Only pp z s :=
  only_iff (by unfold fwAcceptReq; dsimp only; (repeat' split) <;> simp) hw
theorem execAccept_only (req : Requester) (s : State) (u : State) (hx : execAccept req s = .next u) : Only [.qu, .tp, .er, .tr, .hp] s u := by
  unfold execAccept at hx; rw [← Host.Outcome.next.inj hx]; simp
@[simp] theorem fwConfirm_only (s : State) (req : Requester) {pp : List Part} {z : State} (hw : within [.tr] pp = true) :
    Only pp z (fwConfirm s req) = Only pp z s :=
  only_iff (by unfold fwConfirm; split <;> simp) hw
theorem execConfirm_only (req : Requester) (s : State) (u : State) (hx : execConfirm req s = .next u) : Only [.tr] s u := by
  unfold execConfirm at hx; rw [← Host.Outcome.next.inj hx]; simp
@[simp] theorem legalCheck_only (s : State) {pp : List Part} {z : State} (hw : within [.tr] pp = true) :
    Only pp z (legalCheck s) = Only pp z s :=
  only_iff (by simp [legalCheck]) hw
@[simp] theorem quoteAsk_only (s : State) (path : Requester) (nonce : List Byte) (hdr : Option CobaltHdr) {pp : List Part} {z : State} (hw : within [.qu, .er, .tr, .hp, .cb] pp = true) :
    Only pp z (quoteAsk s path nonce hdr) = Only pp z s :=
  only_iff (by unfold quoteAsk; dsimp only; (repeat' split) <;> simp) hw
theorem execQuoteRequest_only (path : Requester) (nonce : List Byte) (s : State) (u : State) (hx : execQuoteRequest path nonce s = .next u) : Only [.qu, .er, .tr, .hp, .cb] s u := by
  unfold execQuoteRequest at hx; rw [← Host.Outcome.next.inj hx]; simp
theorem execQuoteGenerate_only (s : State) (u : State) (hx : execQuoteGenerate s = .next u) : Only [.tr] s u := by
  unfold execQuoteGenerate at hx; (repeat' split at hx) <;> first | (rw [← Host.Outcome.next.inj hx]; simp; done) | cases hx
theorem execQuoteComplete_only (s : State) (u : State) (hx : execQuoteComplete s = .next u) : Only [.qu, .er, .tr, .hp, .cb] s u := by
  unfold execQuoteComplete at hx; (repeat' split at hx) <;> first | (rw [← Host.Outcome.next.inj hx]; simp; done) | cases hx
@[simp] theorem tagWrite_only (s : State) (req : Requester) (addr : Nat) (bs : List Byte) {pp : List Part} {z : State} (hw : within [.tr] pp = true) :
    Only pp z (tagWrite s req addr bs) = Only pp z s :=
  only_iff (by simp [tagWrite]) hw
theorem execUserTagWrite_only (req : Requester) (addr : Nat) (bytes : List Byte) (s : State) (u : State) (hx : execUserTagWrite req addr bytes s = .next u) : Only [.tr] s u := by
  unfold execUserTagWrite at hx; rw [← Host.Outcome.next.inj hx]; simp
theorem execTagDigestUpdate_only (s : State) (u : State) (hx : execTagDigestUpdate s = .next u) : Only [.qu, .er, .tr, .hp] s u := by
  unfold execTagDigestUpdate at hx; (repeat' split at hx) <;> first | (rw [← Host.Outcome.next.inj hx]; simp; done) | cases hx
@[simp] theorem keyGo_only (s : State) (req : Requester) (w : Word) {pp : List Part} {z : State} (hw : within [.qu, .tp, .er, .tr, .hp] pp = true) :
    Only pp z (keyGo s req w) = Only pp z s :=
  only_iff (by unfold keyGo; dsimp only; (repeat' split) <;> simp) hw
theorem execTrkctlGo_only (req : Requester) (w : Word) (s : State) (u : State) (hx : execTrkctlGo req w s = .next u) : Only [.qu, .tp, .er, .tr, .hp] s u := by
  unfold execTrkctlGo at hx; rw [← Host.Outcome.next.inj hx]; simp

end Sys2Proof.Laws
end

