-- ==== Sys2Proof/Laws/OnlyPowerQuality.lean ====
section
/-! SUPPORT. What each operation of Machine/PowerQuality.lean can change. -/

namespace Sys2Proof.Laws

open Sys2Proof.Machine

@[simp] theorem setPqBus_only (s : State) (b : Nat) (x : PqBus) {pp : List Part} {z : State} (hw : within [.pq] pp = true) :
    Only pp z (State.setPqBus s b x) = Only pp z s :=
  only_iff (by simp [State.setPqBus]) hw
@[simp] theorem pqRaise_only (s : State) (code chan : Nat) (v : Option Int) (f : Frame) {pp : List Part} {z : State} (hw : within [.qu, .pq, .er, .hp] pp = true) :
    Only pp z (pqRaise s code chan v f) = Only pp z s :=
  only_iff (by simp [pqRaise]) hw
@[simp] theorem evSummary_only (s : State) (code chan : Nat) (ms ext : Int) {pp : List Part} {z : State} (hw : within [.er, .hp] pp = true) :
    Only pp z (evSummary s code chan ms ext) = Only pp z s :=
  only_iff (by simp [evSummary]) hw
@[simp] theorem evEnd_only (s : State) (b k : Nat) {pp : List Part} {z : State} (hw : within [.pq, .er, .hp] pp = true) :
    Only pp z (evEnd s b k) = Only pp z s :=
  only_iff (by simp [evEnd]) hw
@[simp] theorem evCloseAll_only (s : State) (b : Nat) {pp : List Part} {z : State} (hw : within [.pq, .er, .hp] pp = true) :
    Only pp z (evCloseAll s b) = Only pp z s :=
  only_iff (by simp [evCloseAll]) hw
@[simp] theorem evStep_only (f : Frame) (b : Nat) (ls : List (Nat × Nat)) (s : State) (k : Nat) {pp : List Part} {z : State} (hw : within [.qu, .pq, .er, .hp] pp = true) :
    Only pp z (evStep f b ls s k) = Only pp z s :=
  only_iff (by simp [evStep]) hw
@[simp] theorem pqEvaluate_only (s : State) (pl : PlanDef) (b : Nat) (f : Frame) {pp : List Part} {z : State} (hw : within [.qu, .pq, .er, .hp] pp = true) :
    Only pp z (pqEvaluate s pl b f) = Only pp z s :=
  only_iff (by simp [pqEvaluate]) hw
@[simp] theorem pqCollect_only (s : State) (pl : PlanDef) {pp : List Part} {z : State} (hw : within [.pq] pp = true) :
    Only pp z (pqCollect s pl) = Only pp z s :=
  only_iff (by simp [pqCollect]) hw
@[simp] theorem winNext_only (s : State) (b : Nat) (cs : List Nat) (post : Nat) {pp : List Part} {z : State} (hw : within [.pq] pp = true) :
    Only pp z (winNext s b cs post) = Only pp z s :=
  only_iff (by simp [winNext]) hw
@[simp] theorem takeQh_only (f : Frame) (s : State) (p : Nat) {pp : List Part} {z : State} (hw : within [.met, .er, .hp] pp = true) :
    Only pp z (takeQh f s p) = Only pp z s :=
  only_iff (by simp [takeQh]) hw
@[simp] theorem harmWindow_only (s : State) (pl : PlanDef) (b post : Nat) (f : Frame) (sync flag : Bool) (freq : Nat) {pp : List Part} {z : State} (hw : within [.met, .pq, .er, .hp, .fresh] pp = true) :
    Only pp z (harmWindow s pl b post f sync flag freq) = Only pp z s :=
  only_iff (by unfold harmWindow; (try dsimp only); (repeat' (first | (simp (maxDischargeDepth := 9); done) | split))) hw
@[simp] theorem hrqTick_only (f : Frame) (s : State) (p : Nat) {pp : List Part} {z : State} (hw : within [.qu, .met, .er, .hp] pp = true) :
    Only pp z (hrqTick f s p) = Only pp z s :=
  only_iff (by simp [hrqTick]) hw
@[simp] theorem harmPublish_only (s : State) {pp : List Part} {z : State} (hw : within [.pq] pp = true) :
    Only pp z (harmPublish s) = Only pp z s :=
  only_iff (by simp [harmPublish]) hw
@[simp] theorem bandStart_only (s : State) {pp : List Part} {z : State} (hw : within [.pq] pp = true) :
    Only pp z (bandStart s) = Only pp z s :=
  only_iff (by simp [bandStart]) hw
@[simp] theorem bandCollect_only (s : State) {pp : List Part} {z : State} (hw : within [.pq] pp = true) :
    Only pp z (bandCollect s) = Only pp z s :=
  only_iff (by simp [bandCollect]) hw
theorem execBandWindowEnd_only (s : State) (u : State) (hx : execBandWindowEnd s = .next u) : Only [.pq] s u := by
  unfold execBandWindowEnd at hx; (repeat' split at hx) <;> first | (rw [← Host.Outcome.next.inj hx]; simp; done) | cases hx
theorem execBandPublish_only (s : State) (u : State) (hx : execBandPublish s = .next u) : Only [.pq, .fresh] s u := by
  unfold execBandPublish at hx; (repeat' split at hx) <;> first | (rw [← Host.Outcome.next.inj hx]; simp; done) | cases hx
@[simp] theorem pqWindow_only (s : State) (pl : PlanDef) (b : Nat) (flagged : Bool) {pp : List Part} {z : State} (hw : within [.pq] pp = true) :
    Only pp z (pqWindow s pl b flagged) = Only pp z s :=
  only_iff (by simp [pqWindow]) hw
@[simp] theorem bumpHist_only (s : State) (b j i : Nat) {pp : List Part} {z : State} (hw : within [.pq] pp = true) :
    Only pp z (bumpHist s b j i) = Only pp z s :=
  only_iff (by simp [bumpHist]) hw
@[simp] theorem tenMinute_only (s : State) (pl : PlanDef) (b : Nat) {pp : List Part} {z : State} (hw : within [.qu, .pq, .er, .hp] pp = true) :
    Only pp z (tenMinute s pl b) = Only pp z s :=
  only_iff (by simp [tenMinute]) hw
@[simp] theorem close10m_only (s : State) (b : Nat) (flagged : Bool) {pp : List Part} {z : State} (hw : within [.qu, .pq, .er, .hp] pp = true) :
    Only pp z (close10m s b flagged) = Only pp z s :=
  only_iff (by simp [close10m]) hw
@[simp] theorem close10s_only (s : State) (b : Nat) (flagged : Bool) {pp : List Part} {z : State} (hw : within [.pq] pp = true) :
    Only pp z (close10s s b flagged) = Only pp z s :=
  only_iff (by simp [close10s]) hw
@[simp] theorem pqIntervals_only (s : State) (sec : Nat) {pp : List Part} {z : State} (hw : within [.pq] pp = true) :
    Only pp z (pqIntervals s sec) = Only pp z s :=
  only_iff (by simp [pqIntervals]) hw
theorem execPqIntervalEnd_only (tenMin : Bool) (s : State) (u : State) (hx : execPqIntervalEnd tenMin s = .next u) : Only [.qu, .pq, .er, .hp] s u := by
  unfold execPqIntervalEnd at hx; (repeat' split at hx) <;> first | (rw [← Host.Outcome.next.inj hx]; simp; done) | cases hx
@[simp] theorem pqClockSet_only (s : State) {pp : List Part} {z : State} (hw : within [.qu, .pq, .er, .hp] pp = true) :
    Only pp z (pqClockSet s) = Only pp z s :=
  only_iff (by simp [pqClockSet]) hw
theorem execHclr_only (s : State) (u : State) (hx : execHclr s = .next u) : Only [.pq] s u := by
  unfold execHclr at hx; rw [← Host.Outcome.next.inj hx]; simp
@[simp] theorem pqTick_only (s : State) {pp : List Part} {z : State} (hw : within [.pq] pp = true) :
    Only pp z (pqTick s) = Only pp z s :=
  only_iff (by simp [pqTick]) hw
@[simp] theorem setLive_only (s : State) (c : Nat) (x : Live) {pp : List Part} {z : State} (hw : within [.pq] pp = true) :
    Only pp z (State.setLive s c x) = Only pp z s :=
  only_iff (by simp [State.setLive]) hw
@[simp] theorem clearBase_only (s : State) (c : Nat) {pp : List Part} {z : State} (hw : within [.pq] pp = true) :
    Only pp z (clearBase s c) = Only pp z s :=
  only_iff (by simp [clearBase]) hw
@[simp] theorem driftStep_only (s : State) (c : Nat) (phase : Bool) {pp : List Part} {z : State} (hw : within [.qu, .pq, .er, .hp] pp = true) :
    Only pp z (driftStep s c phase) = Only pp z s :=
  only_iff (by simp [driftStep]) hw
theorem execLiveWindowEnd_only (ch : Nat) (gain phs : Int) (noisy : Bool) (s : State) (u : State) (hx : execLiveWindowEnd ch gain phs noisy s = .next u) : Only [.qu, .pq, .er, .hp] s u := by
  unfold execLiveWindowEnd at hx; (try dsimp only at hx); (repeat' split at hx) <;> first | (rw [← Host.Outcome.next.inj hx]; simp (maxDischargeDepth := 9); done) | cases hx
@[simp] theorem liveTick_only (s : State) {pp : List Part} {z : State} (hw : within [.pq] pp = true) :
    Only pp z (liveTick s) = Only pp z s :=
  only_iff (by simp [liveTick]) hw
@[simp] theorem sprintGo_only (s : State) {pp : List Part} {z : State} (hw : within [.pq] pp = true) :
    Only pp z (sprintGo s) = Only pp z s :=
  only_iff (by unfold sprintGo; split <;> simp) hw
theorem execGo_only (_req : Requester) (s : State) (u : State) (hx : execGo _req s = .next u) : Only [.pq] s u := by
  unfold execGo at hx; rw [← Host.Outcome.next.inj hx]; simp
theorem execSprintStart_only (s : State) (u : State) (hx : execSprintStart s = .next u) : Only [.pq] s u := by
  unfold execSprintStart at hx; (try dsimp only at hx); (repeat' split at hx) <;> first | (rw [← Host.Outcome.next.inj hx]; simp (maxDischargeDepth := 9); done) | cases hx
@[simp] theorem sprintTick_only (s : State) {pp : List Part} {z : State} (hw : within [.pq] pp = true) :
    Only pp z (sprintTick s) = Only pp z s :=
  only_iff (by simp [sprintTick]) hw
@[simp] theorem endSprint_only (s : State) (trunc : Bool) {pp : List Part} {z : State} (hw : within [.qu, .pq, .er, .hp] pp = true) :
    Only pp z (endSprint s trunc) = Only pp z s :=
  only_iff (by simp [endSprint]) hw
theorem execSprintEnd_only (s : State) (u : State) (hx : execSprintEnd s = .next u) : Only [.qu, .pq, .er, .hp] s u := by
  unfold execSprintEnd at hx; (try dsimp only at hx); (repeat' split at hx) <;> first | (rw [← Host.Outcome.next.inj hx]; simp (maxDischargeDepth := 9); done) | cases hx
@[simp] theorem sprintAbort_only (s : State) {pp : List Part} {z : State} (hw : within [.pq] pp = true) :
    Only pp z (sprintAbort s) = Only pp z s :=
  only_iff (by simp [sprintAbort]) hw
theorem execAbort_only (s : State) (u : State) (hx : execAbort s = .next u) : Only [.pq] s u := by
  unfold execAbort at hx; rw [← Host.Outcome.next.inj hx]; simp
@[simp] theorem popSprint_only (s : State) {pp : List Part} {z : State} (hw : within [.pq] pp = true) :
    Only pp z (popSprint s) = Only pp z s :=
  only_iff (by simp [popSprint]) hw
theorem execSprd0_only (_req : Requester) (s : State) (u : State) (hx : execSprd0 _req s = .next u) : Only [.pq, .hp] s u := by
  unfold execSprd0 at hx; rw [← Host.Outcome.next.inj hx]; simp

end Sys2Proof.Laws
end

