-- ==== Sys2Proof/Laws/OnlyWindows.lean ====
section
/-! SUPPORT. What each operation of Machine/Windows.lean can change. -/

namespace Sys2Proof.Laws

open Sys2Proof.Machine

@[simp] theorem mapRms_only (f : Rms → Rms) (s : State) (p : Nat) {pp : List Part} {z : State} (hw : within [.met] pp = true) :
    Only pp z (mapRms f s p) = Only pp z s :=
  only_iff (by simp [mapRms]) hw
@[simp] theorem pointCompare_only (pl : PlanDef) (full : Bool) (f : Frame) (s : State) (p : Nat) {pp : List Part} {z : State} (hw : within [.cv, .qu, .er, .hp] pp = true) :
    Only pp z (pointCompare pl full f s p) = Only pp z s :=
  only_iff (by simp (maxDischargeDepth := 9) [pointCompare]) hw
@[simp] theorem gateUpdate_only (pl : PlanDef) (f : Frame) (s : State) (p : Nat) {pp : List Part} {z : State} (hw : within [.qu, .met, .er, .hp] pp = true) :
    Only pp z (gateUpdate pl f s p) = Only pp z s :=
  only_iff (by simp [gateUpdate]) hw
@[simp] theorem closeHalf_only (s : State) (b : Nat) {pp : List Part} {z : State} (hw : within [.cv, .qu, .met, .pq, .er, .hp] pp = true) :
    Only pp z (closeHalf s b) = Only pp z s :=
  only_iff (by unfold closeHalf; dsimp only; (repeat' split) <;> simp) hw
@[simp] theorem pointWindow_only (pl : PlanDef) (pos sumW : Nat) (freq : Nat) (valid : Bool) (f : Frame) (s : State) (p : Nat) {pp : List Part} {z : State} (hw : within [.qu, .met, .er, .hp] pp = true) :
    Only pp z (pointWindow pl pos sumW freq valid f s p) = Only pp z s :=
  only_iff (by simp [pointWindow]) hw
@[simp] theorem mtDeclare_only (s : State) (pl : PlanDef) (p m : Nat) (f : Frame) {pp : List Part} {z : State} (hw : within [.qu, .bl, .tp, .er, .hp, .ser] pp = true) :
    Only pp z (mtDeclare s pl p m f) = Only pp z s :=
  only_iff (by simp [mtDeclare]) hw
@[simp] theorem mtEnd_only (s : State) (p m ticks : Nat) {pp : List Part} {z : State} (hw : within [.bl, .tp, .er, .hp] pp = true) :
    Only pp z (mtEnd s p m ticks) = Only pp z s :=
  only_iff (by simp [mtEnd]) hw
@[simp] theorem mtStep_only (pl : PlanDef) (f : Frame) (p : Nat) (s : State) (m : Nat) {pp : List Part} {z : State} (hw : within [.qu, .bl, .tp, .er, .hp, .ser] pp = true) :
    Only pp z (mtStep pl f p s m) = Only pp z s :=
  only_iff (by simp [mtStep]) hw
@[simp] theorem mtEval_only (pl : PlanDef) (f : Frame) (s : State) (p : Nat) {pp : List Part} {z : State} (hw : within [.qu, .bl, .tp, .er, .hp, .ser] pp = true) :
    Only pp z (mtEval pl f s p) = Only pp z s :=
  only_iff (by simp [mtEval]) hw
@[simp] theorem freqDepart_only (pl : PlanDef) (b : Nat) (f : Frame) (s : State) {pp : List Part} {z : State} (hw : within [.qu, .met, .er, .hp] pp = true) :
    Only pp z (freqDepart pl b f s) = Only pp z s :=
  only_iff (by simp [freqDepart]) hw
@[simp] theorem closeWindow_only (s : State) (b : Nat) {pp : List Part} {z : State} (hw : within [.cv, .qu, .met, .pq, .bl, .tp, .er, .hp, .ser, .fresh] pp = true) :
    Only pp z (closeWindow s b) = Only pp z s :=
  only_iff (by unfold closeWindow; split <;> simp) hw
@[simp] theorem closeDue_only (s : State) {pp : List Part} {z : State} (hw : within [.cv, .qu, .met, .pq, .bl, .tp, .er, .hp, .ser, .fresh] pp = true) :
    Only pp z (closeDue s) = Only pp z s :=
  only_iff (by simp [closeDue]) hw
theorem execRmsWindowClose_only (bus : Nat) (half : Bool) (s : State) (u : State) (hx : execRmsWindowClose bus half s = .next u) : Only [.cv, .qu, .met, .pq, .bl, .tp, .er, .hp, .ser, .fresh] s u := by
  unfold execRmsWindowClose at hx; (repeat' split at hx) <;> first | (rw [← Host.Outcome.next.inj hx]; simp; done) | cases hx
@[simp] theorem pointRecord_only (pl : PlanDef) (s : State) (p : Nat) {pp : List Part} {z : State} (hw : within [.qu, .met, .er, .hp] pp = true) :
    Only pp z (pointRecord pl s p) = Only pp z s :=
  only_iff (by simp [pointRecord]) hw
@[simp] theorem metTick_only (s : State) {pp : List Part} {z : State} (hw : within [.met, .tp] pp = true) :
    Only pp z (metTick s) = Only pp z s :=
  only_iff (by simp [metTick]) hw

end Sys2Proof.Laws
end

