-- ==== Sys2Proof/Laws/OnlyPlan.lean ====
section
/-! SUPPORT. What each operation of Machine/Plan.lean can change. -/

namespace Sys2Proof.Laws

open Sys2Proof.Machine

@[simp] theorem setBank_only (s : State) (b : Nat) (x : PlanBank) {pp : List Part} {z : State} (hw : within [.nv] pp = true) :
    Only pp z (State.setBank s b x) = Only pp z s :=
  only_iff (by simp [State.setBank]) hw
@[simp] theorem orderReset_only (s : State) (cause : Nat) {pp : List Part} {z : State} (hw : within [.sup] pp = true) :
    Only pp z (orderReset s cause) = Only pp z s :=
  only_iff (by simp [orderReset]) hw
@[simp] theorem ownErr_only (s : State) {pp : List Part} {z : State} (hw : within [.pl] pp = true) :
    Only pp z (ownErr s) = Only pp z s :=
  only_iff (by simp [ownErr]) hw
@[simp] theorem notOwner_only (s : State) (req : Requester) {pp : List Part} {z : State} (hw : within [.pl] pp = true) :
    Only pp z (notOwner s req) = Only pp z s :=
  only_iff (by simp [notOwner]) hw
@[simp] theorem releaseResv_only (s : State) {pp : List Part} {z : State} (hw : within [.pl, .er] pp = true) :
    Only pp z (releaseResv s) = Only pp z s :=
  only_iff (by simp [releaseResv]) hw
@[simp] theorem setMark_only (s : State) (m : Option (Frame × Nat)) {pp : List Part} {z : State} (hw : within [.qu, .pl, .met, .ls, .bl, .tp, .er, .hp, .nv, .seal] pp = true) :
    Only pp z (setMark s m) = Only pp z s :=
  only_iff (by simp [setMark]) hw
@[simp] theorem endActivation_only (s : State) (code : Nat) {pp : List Part} {z : State} (hw : within [.qu, .pl, .met, .ls, .bl, .tp, .er, .hp, .nv, .seal] pp = true) :
    Only pp z (endActivation s code) = Only pp z s :=
  only_iff (by simp [endActivation]) hw
@[simp] theorem startLoad_only (s : State) (req : Requester) {pp : List Part} {z : State} (hw : within [.pl, .er, .nv] pp = true) :
    Only pp z (startLoad s req) = Only pp z s :=
  only_iff (by simp [startLoad]) hw
@[simp] theorem plBegin_only (s : State) (req : Requester) {pp : List Part} {z : State} (hw : within [.qu, .pl, .met, .ls, .bl, .tp, .er, .hp, .nv, .seal] pp = true) :
    Only pp z (plBegin s req) = Only pp z s :=
  only_iff (by unfold plBegin; (try dsimp only); (repeat' (first | (simp (maxDischargeDepth := 9); done) | split))) hw
theorem execBegin_only (req : Requester) (s : State) (u : State) (hx : execBegin req s = .next u) : Only [.qu, .pl, .met, .ls, .bl, .tp, .er, .hp, .nv, .seal] s u := by
  unfold execBegin at hx; rw [← Host.Outcome.next.inj hx]; simp
@[simp] theorem plData_only (s : State) (req : Requester) (bs : List Byte) {pp : List Part} {z : State} (hw : within [.pl, .nv] pp = true) :
    Only pp z (plData s req bs) = Only pp z s :=
  only_iff (by simp [plData]) hw
theorem execPldata_only (req : Requester) (bytes : List Byte) (s : State) (u : State) (hx : execPldata req bytes s = .next u) : Only [.pl, .nv] s u := by
  unfold execPldata at hx; rw [← Host.Outcome.next.inj hx]; simp
@[simp] theorem plVerify_only (s : State) (req : Requester) {pp : List Part} {z : State} (hw : within [.pl] pp = true) :
    Only pp z (plVerify s req) = Only pp z s :=
  only_iff (by simp [plVerify]) hw
theorem execVerify_only (req : Requester) (s : State) (u : State) (hx : execVerify req s = .next u) : Only [.pl] s u := by
  unfold execVerify at hx; rw [← Host.Outcome.next.inj hx]; simp
@[simp] theorem takeVerdict_only (s : State) (v : Verdict) {pp : List Part} {z : State} (hw : within [.pl, .hp, .nv] pp = true) :
    Only pp z (takeVerdict s v) = Only pp z s :=
  only_iff (by unfold takeVerdict; split <;> simp) hw
theorem execVerificationDone_only (s : State) (u : State) (hx : execVerificationDone s = .next u) : Only [.pl, .hp, .nv] s u := by
  unfold execVerificationDone at hx; (repeat' split at hx) <;> first | (rw [← Host.Outcome.next.inj hx]; simp; done) | cases hx
@[simp] theorem actRefuse_only (s : State) (code : Nat) {pp : List Part} {z : State} (hw : within [.pl, .hp] pp = true) :
    Only pp z (actRefuse s code) = Only pp z s :=
  only_iff (by simp [actRefuse]) hw
@[simp] theorem reserveChange_only (s : State) {pp : List Part} {z : State} (hw : within [.pl, .er, .hp] pp = true) :
    Only pp z (reserveChange s) = Only pp z s :=
  only_iff (by simp [reserveChange]) hw
@[simp] theorem setPending_only (s : State) (n : Frame) {pp : List Part} {z : State} (hw : within [.qu, .pl, .met, .ls, .bl, .tp, .er, .hp, .nv, .seal] pp = true) :
    Only pp z (setPending s n) = Only pp z s :=
  only_iff (by simp [setPending]) hw
@[simp] theorem setArmed_only (s : State) (n : Frame) {pp : List Part} {z : State} (hw : within [.qu, .pl, .met, .ls, .bl, .tp, .er, .hp, .nv, .seal] pp = true) :
    Only pp z (setArmed s n) = Only pp z s :=
  only_iff (by simp [setArmed]) hw
@[simp] theorem plActivate_only (s : State) (req : Requester) {pp : List Part} {z : State} (hw : within [.qu, .pl, .met, .ls, .bl, .tp, .er, .hp, .nv, .seal] pp = true) :
    Only pp z (plActivate s req) = Only pp z s :=
  only_iff (by unfold plActivate; dsimp only; (repeat' split) <;> simp) hw
theorem execActivate_only (req : Requester) (s : State) (u : State) (hx : execActivate req s = .next u) : Only [.qu, .pl, .met, .ls, .bl, .tp, .er, .hp, .nv, .seal] s u := by
  unfold execActivate at hx; rw [← Host.Outcome.next.inj hx]; simp
@[simp] theorem plArm_only (s : State) (n : Frame) (hdr : Option CobaltHdr) {pp : List Part} {z : State} (hw : within [.qu, .pl, .met, .ls, .bl, .tp, .er, .hp, .cb, .nv, .seal] pp = true) :
    Only pp z (plArm s n hdr) = Only pp z s :=
  only_iff (by unfold plArm; (try dsimp only); (repeat' (first | (simp (maxDischargeDepth := 9); done) | split))) hw
theorem execArm_only (n : Frame) (s : State) (u : State) (hx : execArm n s = .next u) : Only [.qu, .pl, .met, .ls, .bl, .tp, .er, .hp, .cb, .nv, .seal] s u := by
  unfold execArm at hx; rw [← Host.Outcome.next.inj hx]; simp
@[simp] theorem plCommit_only (s : State) (hdr : Option CobaltHdr) (addr : Nat) {pp : List Part} {z : State} (hw : within [.qu, .pl, .met, .ls, .bl, .tp, .er, .hp, .cb, .nv, .seal] pp = true) :
    Only pp z (plCommit s hdr addr) = Only pp z s :=
  only_iff (by unfold plCommit; (try dsimp only); (repeat' (first | (simp (maxDischargeDepth := 9); done) | split))) hw
theorem execCommit_only (s : State) (u : State) (hx : execCommit s = .next u) : Only [.qu, .pl, .met, .ls, .bl, .tp, .er, .hp, .cb, .nv, .seal] s u := by
  unfold execCommit at hx; rw [← Host.Outcome.next.inj hx]; simp
@[simp] theorem plCancel_only (s : State) (req : Requester) {pp : List Part} {z : State} (hw : within [.qu, .pl, .met, .ls, .bl, .tp, .er, .hp, .nv, .seal] pp = true) :
    Only pp z (plCancel s req) = Only pp z s :=
  only_iff (by simp [plCancel]) hw
theorem execCancel_only (req : Requester) (s : State) (u : State) (hx : execCancel req s = .next u) : Only [.qu, .pl, .met, .ls, .bl, .tp, .er, .hp, .nv, .seal] s u := by
  unfold execCancel at hx; rw [← Host.Outcome.next.inj hx]; simp
theorem execCommitDeadline_only (s : State) (u : State) (hx : execCommitDeadline s = .next u) : Only [.qu, .pl, .met, .ls, .bl, .tp, .er, .hp, .nv, .seal] s u := by
  unfold execCommitDeadline at hx; (repeat' split at hx) <;> first | (rw [← Host.Outcome.next.inj hx]; simp; done) | cases hx
@[simp] theorem rescalePoint_only (s : State) (c : Nat × Int × Int) {pp : List Part} {z : State} (hw : within [.met, .ls, .bl] pp = true) :
    Only pp z (rescalePoint s c) = Only pp z s :=
  only_iff (by simp [rescalePoint]) hw
@[simp] theorem rescale_only (s : State) (cs : List (Nat × Int × Int)) {pp : List Part} {z : State} (hw : within [.met, .ls, .bl] pp = true) :
    Only pp z (rescale s cs) = Only pp z s :=
  only_iff (by simp [rescale]) hw
@[simp] theorem commitSelector_only (s : State) {pp : List Part} {z : State} (hw : within [.qu, .ls, .er, .hp, .nv] pp = true) :
    Only pp z (commitSelector s) = Only pp z s :=
  only_iff (by simp [commitSelector]) hw
@[simp] theorem scaleAhead_only (s : State) (new : PlanDef) {pp : List Part} {z : State} (hw : within [.qu, .pl, .er, .hp] pp = true) :
    Only pp z (scaleAhead s new) = Only pp z s :=
  only_iff (by simp [scaleAhead]) hw
@[simp] theorem scaleFollow_only (s : State) (new : PlanDef) {pp : List Part} {z : State} (hw : within [.qu, .pl, .met, .er, .hp] pp = true) :
    Only pp z (scaleFollow s new) = Only pp z s :=
  only_iff (by simp [scaleFollow]) hw
theorem execSelectorCommit_only (s : State) (u : State) (hx : execSelectorCommit s = .next u) : Only [.qu, .pl, .met, .ls, .bl, .tp, .er, .hp, .nv, .seal] s u := by
  unfold execSelectorCommit at hx; (repeat' split at hx) <;> first | (rw [← Host.Outcome.next.inj hx]; simp; done) | cases hx
@[simp] theorem coefChange_only (s : State) (main : Bool) {pp : List Part} {z : State} (hw : within [.cv] pp = true) :
    Only pp z (coefChange s main) = Only pp z s :=
  only_iff (by simp [coefChange]) hw
@[simp] theorem feChange_only (old new : PlanDef) (s : State) (c : Nat) {pp : List Part} {z : State} (hw : within [.fe, .cv, .pq] pp = true) :
    Only pp z (feChange old new s c) = Only pp z s :=
  only_iff (by simp [feChange]) hw
@[simp] theorem cmpChange_only (old new : PlanDef) (s : State) {pp : List Part} {z : State} (hw : within [.cv] pp = true) :
    Only pp z (cmpChange old new s) = Only pp z s :=
  only_iff (by simp [cmpChange]) hw
@[simp] theorem queueFlush_only (old new : PlanDef) (s : State) (q : Nat) {pp : List Part} {z : State} (hw : within [.qu] pp = true) :
    Only pp z (queueFlush old new s q) = Only pp z s :=
  only_iff (by simp [queueFlush]) hw
@[simp] theorem gateChange_only (old new : PlanDef) (s : State) (p : Nat) {pp : List Part} {z : State} (hw : within [.met] pp = true) :
    Only pp z (gateChange old new s p) = Only pp z s :=
  only_iff (by simp [gateChange]) hw
@[simp] theorem harmChange_only (old new : PlanDef) (s : State) {pp : List Part} {z : State} (hw : within [.pq] pp = true) :
    Only pp z (harmChange old new s) = Only pp z s :=
  only_iff (by simp [harmChange]) hw
@[simp] theorem zeroRes_only (s : State) (os : List Nat) {pp : List Part} {z : State} (hw : within [.met] pp = true) :
    Only pp z (zeroRes s os) = Only pp z s :=
  only_iff (by simp [zeroRes]) hw
@[simp] theorem recordResidues_only (s : State) (l : List (Nat × Pair 96)) {pp : List Part} {z : State} (hw : within [.er] pp = true) :
    Only pp z (recordResidues s l) = Only pp z s :=
  only_iff (by simp [recordResidues]) hw
@[simp] theorem planRecord_only (s : State) (old new : PlanDef) (n : Frame) (owner : Nat) (restored : Bool) (res : List (Nat × Pair 96)) {pp : List Part} {z : State} (hw : within [.pl, .er] pp = true) :
    Only pp z (planRecord s old new n owner restored res) = Only pp z s :=
  only_iff (by simp [planRecord]) hw
@[simp] theorem setDigest_only (s : State) (d : BitVec 256) {pp : List Part} {z : State} (hw : within [.qu, .pl, .ls, .er, .hp] pp = true) :
    Only pp z (setDigest s d) = Only pp z s :=
  only_iff (by simp [setDigest]) hw
@[simp] theorem measurePlan_only (s : State) (old new : PlanDef) {pp : List Part} {z : State} (hw : within [.qu, .pl, .ls, .er, .tr, .hp] pp = true) :
    Only pp z (measurePlan s old new) = Only pp z s :=
  only_iff (by unfold measurePlan; (try dsimp only); (repeat' (first | (simp (maxDischargeDepth := 9); done) | split))) hw
@[simp] theorem mdHandOver_only (old new : PlanDef) (flags : Nat) (s : State) {pp : List Part} {z : State} (hw : within [.qu, .pl, .bl, .er, .hp, .plan] pp = true) :
    Only pp z (mdHandOver old new flags s) = Only pp z s :=
  only_iff (by simp [mdHandOver]) hw
@[simp] theorem converterHandOver_only (old new : PlanDef) (s : State) {pp : List Part} {z : State} (hw : within [.fe, .cv, .qu, .pq] pp = true) :
    Only pp z (converterHandOver old new s) = Only pp z s :=
  only_iff (by simp [converterHandOver]) hw
@[simp] theorem metrologyHandOver_only (old new : PlanDef) (s : State) {pp : List Part} {z : State} (hw : within [.qu, .pl, .met, .pq, .ls, .bl, .er, .hp] pp = true) :
    Only pp z (metrologyHandOver old new s) = Only pp z s :=
  only_iff (by simp [metrologyHandOver]) hw
@[simp] theorem rescaleNow_only (s : State) {pp : List Part} {z : State} (hw : within [.pl, .met, .ls, .bl, .er] pp = true) :
    Only pp z (rescaleNow s) = Only pp z s :=
  only_iff (by simp [rescaleNow]) hw
@[simp] theorem loaderDone_only (s : State) {pp : List Part} {z : State} (hw : within [.qu, .pl, .met, .ls, .bl, .tp, .er, .hp, .nv, .seal] pp = true) :
    Only pp z (loaderDone s) = Only pp z s :=
  only_iff (by simp [loaderDone]) hw
@[simp] theorem newPoint_only (s : State) (p : Nat) {pp : List Part} {z : State} (hw : within [.qu, .bl, .er, .hp] pp = true) :
    Only pp z (newPoint s p) = Only pp z s :=
  only_iff (by simp [newPoint]) hw
@[simp] theorem calendarHandOver_only (old new : PlanDef) (s : State) {pp : List Part} {z : State} (hw : within [.qu, .bl, .er, .hp] pp = true) :
    Only pp z (calendarHandOver old new s) = Only pp z s :=
  only_iff (by simp [calendarHandOver]) hw
@[simp] theorem handOver_only (s : State) (new : PlanDef) {pp : List Part} {z : State} (hw : within [.fe, .cv, .qu, .pl, .met, .pq, .ls, .bl, .tp, .er, .tr, .hp, .nv, .seal, .plan] pp = true) :
    Only pp z (handOver s new) = Only pp z s :=
  only_iff (by simp [handOver]) hw
theorem execPlanActivation_only (s : State) (u : State) (hx : execPlanActivation s = .next u) : Only [.sup, .fe, .cv, .qu, .pl, .met, .pq, .ls, .bl, .tp, .er, .tr, .hp, .nv, .seal, .plan] s u := by
  unfold execPlanActivation at hx; (repeat' split at hx) <;> first | (rw [← Host.Outcome.next.inj hx]; simp; done) | cases hx
@[simp] theorem restoreActivation_only (s : State) {pp : List Part} {z : State} (hw : within [.qu, .pl, .met, .ls, .bl, .tp, .er, .hp, .nv, .seal, .plan] pp = true) :
    Only pp z (restoreActivation s) = Only pp z s :=
  only_iff (by simp [restoreActivation]) hw

end Sys2Proof.Laws
end

