-- ==== Sys2Proof/Laws/OnlyCobalt.lean ====
section
/-! SUPPORT. What each operation of Machine/Cobalt.lean can change. -/

namespace Sys2Proof.Laws

open Sys2Proof.Machine

@[simp] theorem portState_only (s : State) (p st : Nat) {pp : List Part} {z : State} (hw : within [.hp, .cb] pp = true) :
    Only pp z (portState s p st) = Only pp z s :=
  only_iff (by simp [portState]) hw
@[simp] theorem refusePort_only (s : State) (p reason : Nat) {pp : List Part} {z : State} (hw : within [.qu, .er, .hp, .cb] pp = true) :
    Only pp z (refusePort s p reason) = Only pp z s :=
  only_iff (by simp [refusePort]) hw
@[simp] theorem enumFinish_only (s : State) {pp : List Part} {z : State} (hw : within [.cb] pp = true) :
    Only pp z (enumFinish s) = Only pp z s :=
  only_iff (by simp [enumFinish]) hw
theorem enumStep_base : ∀ (l : List Nat) (s : State), Only [.qu, .er, .hp, .cb] s (enumStep l s)
  | [], s => by simp [enumStep]
  | p :: t, s => by
    unfold enumStep
    split
    · exact enumStep_base t s
    · split
      · exact only_trans (by simp) (enumStep_base t _)
      · simp
@[simp] theorem enumStep_only (l : List Nat) (s : State) {pp : List Part} {z : State} (hw : within [.qu, .er, .hp, .cb] pp = true) :
    Only pp z (enumStep l s) = Only pp z s :=
  only_iff (enumStep_base l s) hw
@[simp] theorem enumStart_only (s : State) {pp : List Part} {z : State} (hw : within [.qu, .er, .hp, .cb] pp = true) :
    Only pp z (enumStart s) = Only pp z s :=
  only_iff (by unfold enumStart; (try dsimp only); (repeat' (first | (simp (maxDischargeDepth := 9); done) | split))) hw
@[simp] theorem enumIfMaster_only (s : State) (p : Nat) {pp : List Part} {z : State} (hw : within [.qu, .er, .hp, .cb] pp = true) :
    Only pp z (enumIfMaster s p) = Only pp z s :=
  only_iff (by simp [enumIfMaster]) hw
@[simp] theorem statusRecord_only (s : State) (dst op tag addr status : Nat) {pp : List Part} {z : State} (hw : within [.qu, .er, .hp] pp = true) :
    Only pp z (statusRecord s dst op tag addr status) = Only pp z s :=
  only_iff (by simp [statusRecord]) hw
@[simp] theorem takeCmd_only (s : State) (h : CobaltHdr) (op addr : Nat) {pp : List Part} {z : State} (hw : within [.qu, .er, .hp, .cb] pp = true) :
    Only pp z (takeCmd s h op addr) = Only pp z s :=
  only_iff (by simp [takeCmd]) hw
@[simp] theorem masterSend_only (s : State) (dst op tag addr len : Nat) (data : List Byte) {pp : List Part} {z : State} (hw : within [.qu, .er, .hp, .cb] pp = true) :
    Only pp z (masterSend s dst op tag addr len data) = Only pp z s :=
  only_iff (by unfold masterSend; split <;> simp) hw
@[simp] theorem pumpCmd_only (q : Nat) (s : State) {pp : List Part} {z : State} (hw : within [.qu, .er, .hp, .cb] pp = true) :
    Only pp z (pumpCmd q s) = Only pp z s :=
  only_iff (by unfold pumpCmd; split <;> simp) hw
@[simp] theorem pumpUp_only (q : Nat) (s : State) {pp : List Part} {z : State} (hw : within [.qu, .cb] pp = true) :
    Only pp z (pumpUp q s) = Only pp z s :=
  only_iff (by unfold pumpUp; split <;> simp) hw
@[simp] theorem linkPump_only (s : State) {pp : List Part} {z : State} (hw : within [.qu, .er, .hp, .cb] pp = true) :
    Only pp z (linkPump s) = Only pp z s :=
  only_iff (by simp (maxDischargeDepth := 9) [linkPump]) hw
@[simp] theorem pumpIfDone_only (s : State) {pp : List Part} {z : State} (hw : within [.qu, .er, .hp, .cb] pp = true) :
    Only pp z (pumpIfDone s) = Only pp z s :=
  only_iff (by simp [pumpIfDone]) hw
@[simp] theorem downPort_only (s : State) (p cause : Nat) {pp : List Part} {z : State} (hw : within [.qu, .er, .hp, .cb] pp = true) :
    Only pp z (downPort s p cause) = Only pp z s :=
  only_iff (by simp [downPort]) hw
theorem execCommaAlign_only (port : Nat) (s : State) (u : State) (hx : execCommaAlign port s = .next u) : Only [.hp, .cb] s u := by
  unfold execCommaAlign at hx; (repeat' split at hx) <;> first | (rw [← Host.Outcome.next.inj hx]; simp; done) | cases hx
@[simp] theorem masterRole_only (s : State) (p role : Nat) {pp : List Part} {z : State} (hw : within [.tb, .hp] pp = true) :
    Only pp z (masterRole s p role) = Only pp z s :=
  only_iff (by simp [masterRole]) hw
theorem execHello_only (port depth : Nat) (_hasAddr : Bool) (role : Nat) (s : State) (u : State) (hx : execHello port depth _hasAddr role s = .next u) : Only [.tb, .qu, .er, .hp, .cb] s u := by
  unfold execHello at hx; (try dsimp only at hx); (repeat' split at hx) <;> first | (rw [← Host.Outcome.next.inj hx]; simp (maxDischargeDepth := 9); done) | cases hx
theorem execPortDown_only (port : Nat) (cause : DownCause) (s : State) (u : State) (hx : execPortDown port cause s = .next u) : Only [.qu, .er, .hp, .cb] s u := by
  unfold execPortDown at hx; (repeat' split at hx) <;> first | (rw [← Host.Outcome.next.inj hx]; simp; done) | cases hx
theorem execPortRefusedRetry_only (port : Nat) (s : State) (u : State) (hx : execPortRefusedRetry port s = .next u) : Only [.hp, .cb] s u := by
  unfold execPortRefusedRetry at hx; (repeat' split at hx) <;> first | (rw [← Host.Outcome.next.inj hx]; simp; done) | cases hx
@[simp] theorem writeCbctl_only (s : State) (w : Word) {pp : List Part} {z : State} (hw : within [.qu, .er, .hp, .cb] pp = true) :
    Only pp z (writeCbctl s w) = Only pp z s :=
  only_iff (by simp [writeCbctl]) hw
theorem execCbctlWrite_only (_req : Requester) (w : Word) (s : State) (u : State) (hx : execCbctlWrite _req w s = .next u) : Only [.qu, .er, .hp, .cb] s u := by
  unfold execCbctlWrite at hx; rw [← Host.Outcome.next.inj hx]; simp
theorem execEnum_only (addr : Nat) (s : State) (u : State) (hx : execEnum addr s = .next u) : Only [.qu, .er, .hp, .cb] s u := by
  unfold execEnum at hx; (repeat' split at hx) <;> first | (rw [← Host.Outcome.next.inj hx]; simp; done) | cases hx
theorem execEnumDone_only (port hi : Nat) (s : State) (u : State) (hx : execEnumDone port hi s = .next u) : Only [.qu, .er, .hp, .cb] s u := by
  unfold execEnumDone at hx; (repeat' split at hx) <;> first | (rw [← Host.Outcome.next.inj hx]; simp; done) | cases hx
theorem execAck_only (port hseq : Nat) (s : State) (u : State) (hx : execAck port hseq s = .next u) : Only [.cb] s u := by
  unfold execAck at hx; (try dsimp only at hx); (repeat' split at hx) <;> first | (rw [← Host.Outcome.next.inj hx]; simp (maxDischargeDepth := 9); done) | cases hx
@[simp] theorem resend_only (s : State) (p hseq : Nat) {pp : List Part} {z : State} (hw : within [.qu, .er, .hp, .cb] pp = true) :
    Only pp z (resend s p hseq) = Only pp z s :=
  only_iff (by unfold resend; dsimp only; (repeat' split) <;> simp) hw
theorem execNak_only (port hseq : Nat) (s : State) (u : State) (hx : execNak port hseq s = .next u) : Only [.qu, .er, .hp, .cb] s u := by
  unfold execNak at hx; (repeat' split at hx) <;> first | (rw [← Host.Outcome.next.inj hx]; simp; done) | cases hx
theorem execResendTimeout_only (port hseq : Nat) (s : State) (u : State) (hx : execResendTimeout port hseq s = .next u) : Only [.qu, .er, .hp, .cb] s u := by
  unfold execResendTimeout at hx; (repeat' split at hx) <;> first | (rw [← Host.Outcome.next.inj hx]; simp; done) | cases hx
theorem execMessageCrcError_only (port : Nat) (s : State) (u : State) (hx : execMessageCrcError port s = .next u) : Only [.cb] s u := by
  unfold execMessageCrcError at hx; (repeat' split at hx) <;> first | (rw [← Host.Outcome.next.inj hx]; simp; done) | cases hx
theorem execCodeViolation_only (port : Nat) (s : State) (u : State) (hx : execCodeViolation port s = .next u) : Only [.cb] s u := by
  unfold execCodeViolation at hx; (repeat' split at hx) <;> first | (rw [← Host.Outcome.next.inj hx]; simp; done) | cases hx
theorem execCmd_only (hdr : CobaltHdr) (op addr len : Nat) (data : List Byte) (s : State) (u : State) (hx : execCmd hdr op addr len data s = .next u) : Only [.qu, .er, .hp, .cb] s u := by
  unfold execCmd at hx; (repeat' split at hx) <;> first | (rw [← Host.Outcome.next.inj hx]; simp; done) | cases hx
@[simp] theorem unwait_only (s : State) (dst tag : Nat) {pp : List Part} {z : State} (hw : within [.cb] pp = true) :
    Only pp z (unwait s dst tag) = Only pp z s :=
  only_iff (by simp [unwait]) hw
theorem execRsp_only (hdr : CobaltHdr) (op addr status : Nat) (data : List Byte) (s : State) (u : State) (hx : execRsp hdr op addr status data s = .next u) : Only [.qu, .er, .hp, .cb] s u := by
  unfold execRsp at hx; (repeat' split at hx) <;> first | (rw [← Host.Outcome.next.inj hx]; simp; done) | cases hx
theorem execChainResponseTimeout_only (dst tag : Nat) (s : State) (u : State) (hx : execChainResponseTimeout dst tag s = .next u) : Only [.qu, .er, .hp, .cb] s u := by
  unfold execChainResponseTimeout at hx; (repeat' split at hx) <;> first | (rw [← Host.Outcome.next.inj hx]; simp; done) | cases hx
theorem execOpQuote_only (hdr : CobaltHdr) (nonce : List Byte) (s : State) (u : State) (hx : execOpQuote hdr nonce s = .next u) : Only [.qu, .er, .tr, .hp, .cb] s u := by
  unfold execOpQuote at hx; rw [← Host.Outcome.next.inj hx]; simp
@[simp] theorem aggSet_only (s : State) (arg : Word) (mask : List Byte) {pp : List Part} {z : State} (hw : within [.cb] pp = true) :
    Only pp z (aggSet s arg mask) = Only pp z s :=
  only_iff (by simp [aggSet]) hw
theorem execAggdef_only (hdr : CobaltHdr) (arg : Word) (mask : List Byte) (s : State) (u : State) (hx : execAggdef hdr arg mask s = .next u) : Only [.qu, .er, .hp, .cb] s u := by
  unfold execAggdef at hx; (repeat' split at hx) <;> first | (rw [← Host.Outcome.next.inj hx]; simp; done) | cases hx
@[simp] theorem aggSend_only (s : State) (aid : Nat) (d : AggDef) {pp : List Part} {z : State} (hw : within [.qu, .er, .hp, .cb] pp = true) :
    Only pp z (aggSend s aid d) = Only pp z s :=
  only_iff (by simp [aggSend]) hw
@[simp] theorem aggTick_only (s : State) {pp : List Part} {z : State} (hw : within [.qu, .er, .hp, .cb] pp = true) :
    Only pp z (aggTick s) = Only pp z s :=
  only_iff (by simp [aggTick]) hw
theorem execAgg_only (hdr : CobaltHdr) (aid flags points : Nat) (frame : Frame) (value : BitVec 64) (s : State) (u : State) (hx : execAgg hdr aid flags points frame value s = .next u) : Only [.qu, .er, .hp, .cb] s u := by
  unfold execAgg at hx; (repeat' split at hx) <;> first | (rw [← Host.Outcome.next.inj hx]; simp; done) | cases hx
@[simp] theorem qpushWords_only (s : State) (req : Requester) (q : Nat) (w0 w1 w2 w3 : Word) {pp : List Part} {z : State} (hw : within [.qu, .er, .hp, .cb] pp = true) :
    Only pp z (qpushWords s req q w0 w1 w2 w3).1 = Only pp z s :=
  only_iff (by unfold qpushWords; split <;> simp) hw
theorem execQpush_only (req : Requester) (q : Nat) (w0 w1 w2 w3 : Word) (s : State) (u : State) (hx : execQpush req q w0 w1 w2 w3 s = .next u) : Only [.qu, .er, .hp, .cb] s u := by
  unfold execQpush at hx; (repeat' split at hx) <;> first | (rw [← Host.Outcome.next.inj hx]; simp; done) | cases hx

end Sys2Proof.Laws
end

