-- ==== Sys2Proof/Laws/Fields.lean ====
section
/-! SUPPORT. What the shared operations leave: one lemma per part of the state that an operation does not touch. -/

namespace Sys2Proof.Laws

open Sys2Proof.Machine

theorem raise_base (s : State) (code chan : Nat) (v : Option Int) : Only [.qu, .er, .hp] s ((raise s code chan v)) := by simp
@[simp] theorem raise_pending (s : State) (code chan : Nat) (v : Option Int) : State.pending ((raise s code chan v)) = s.pending := raise_base s code chan v .pending rfl
@[simp] theorem raise_sup (s : State) (code chan : Nat) (v : Option Int) : State.sup ((raise s code chan v)) = s.sup := raise_base s code chan v .sup rfl
@[simp] theorem raise_tb (s : State) (code chan : Nat) (v : Option Int) : State.tb ((raise s code chan v)) = s.tb := raise_base s code chan v .tb rfl
@[simp] theorem raise_fe (s : State) (code chan : Nat) (v : Option Int) : State.fe ((raise s code chan v)) = s.fe := raise_base s code chan v .fe rfl
@[simp] theorem raise_cv (s : State) (code chan : Nat) (v : Option Int) : State.cv ((raise s code chan v)) = s.cv := raise_base s code chan v .cv rfl
@[simp] theorem raise_pl (s : State) (code chan : Nat) (v : Option Int) : State.pl ((raise s code chan v)) = s.pl := raise_base s code chan v .pl rfl
@[simp] theorem raise_met (s : State) (code chan : Nat) (v : Option Int) : State.met ((raise s code chan v)) = s.met := raise_base s code chan v .met rfl
@[simp] theorem raise_pq (s : State) (code chan : Nat) (v : Option Int) : State.pq ((raise s code chan v)) = s.pq := raise_base s code chan v .pq rfl
@[simp] theorem raise_ls (s : State) (code chan : Nat) (v : Option Int) : State.ls ((raise s code chan v)) = s.ls := raise_base s code chan v .ls rfl
@[simp] theorem raise_bl (s : State) (code chan : Nat) (v : Option Int) : State.bl ((raise s code chan v)) = s.bl := raise_base s code chan v .bl rfl
@[simp] theorem raise_rtc (s : State) (code chan : Nat) (v : Option Int) : State.rtc ((raise s code chan v)) = s.rtc := raise_base s code chan v .rtc rfl
@[simp] theorem raise_tp (s : State) (code chan : Nat) (v : Option Int) : State.tp ((raise s code chan v)) = s.tp := raise_base s code chan v .tp rfl
@[simp] theorem raise_dp (s : State) (code chan : Nat) (v : Option Int) : State.dp ((raise s code chan v)) = s.dp := raise_base s code chan v .dp rfl
@[simp] theorem raise_tr (s : State) (code chan : Nat) (v : Option Int) : State.tr ((raise s code chan v)) = s.tr := raise_base s code chan v .tr rfl
@[simp] theorem raise_ser (s : State) (code chan : Nat) (v : Option Int) : State.ser ((raise s code chan v)) = s.ser := raise_base s code chan v .ser rfl
@[simp] theorem raise_cb (s : State) (code chan : Nat) (v : Option Int) : State.cb ((raise s code chan v)) = s.cb := raise_base s code chan v .cb rfl
@[simp] theorem raise_nv (s : State) (code chan : Nat) (v : Option Int) : State.nv ((raise s code chan v)) = s.nv := raise_base s code chan v .nv rfl
@[simp] theorem raise_fresh (s : State) (code chan : Nat) (v : Option Int) : State.fresh ((raise s code chan v)) = s.fresh := raise_base s code chan v .fresh rfl

theorem endSample_base (s : State) (code chan : Nat) (v : Int) : Only [.er, .hp] s ((endSample s code chan v)) := by simp
@[simp] theorem endSample_pending (s : State) (code chan : Nat) (v : Int) : State.pending ((endSample s code chan v)) = s.pending := endSample_base s code chan v .pending rfl
@[simp] theorem endSample_sup (s : State) (code chan : Nat) (v : Int) : State.sup ((endSample s code chan v)) = s.sup := endSample_base s code chan v .sup rfl
@[simp] theorem endSample_tb (s : State) (code chan : Nat) (v : Int) : State.tb ((endSample s code chan v)) = s.tb := endSample_base s code chan v .tb rfl
@[simp] theorem endSample_fe (s : State) (code chan : Nat) (v : Int) : State.fe ((endSample s code chan v)) = s.fe := endSample_base s code chan v .fe rfl
@[simp] theorem endSample_cv (s : State) (code chan : Nat) (v : Int) : State.cv ((endSample s code chan v)) = s.cv := endSample_base s code chan v .cv rfl
@[simp] theorem endSample_qu (s : State) (code chan : Nat) (v : Int) : State.qu ((endSample s code chan v)) = s.qu := endSample_base s code chan v .qu rfl
@[simp] theorem endSample_pl (s : State) (code chan : Nat) (v : Int) : State.pl ((endSample s code chan v)) = s.pl := endSample_base s code chan v .pl rfl
@[simp] theorem endSample_met (s : State) (code chan : Nat) (v : Int) : State.met ((endSample s code chan v)) = s.met := endSample_base s code chan v .met rfl
@[simp] theorem endSample_pq (s : State) (code chan : Nat) (v : Int) : State.pq ((endSample s code chan v)) = s.pq := endSample_base s code chan v .pq rfl
@[simp] theorem endSample_ls (s : State) (code chan : Nat) (v : Int) : State.ls ((endSample s code chan v)) = s.ls := endSample_base s code chan v .ls rfl
@[simp] theorem endSample_bl (s : State) (code chan : Nat) (v : Int) : State.bl ((endSample s code chan v)) = s.bl := endSample_base s code chan v .bl rfl
@[simp] theorem endSample_rtc (s : State) (code chan : Nat) (v : Int) : State.rtc ((endSample s code chan v)) = s.rtc := endSample_base s code chan v .rtc rfl
@[simp] theorem endSample_tp (s : State) (code chan : Nat) (v : Int) : State.tp ((endSample s code chan v)) = s.tp := endSample_base s code chan v .tp rfl
@[simp] theorem endSample_dp (s : State) (code chan : Nat) (v : Int) : State.dp ((endSample s code chan v)) = s.dp := endSample_base s code chan v .dp rfl
@[simp] theorem endSample_tr (s : State) (code chan : Nat) (v : Int) : State.tr ((endSample s code chan v)) = s.tr := endSample_base s code chan v .tr rfl
@[simp] theorem endSample_ser (s : State) (code chan : Nat) (v : Int) : State.ser ((endSample s code chan v)) = s.ser := endSample_base s code chan v .ser rfl
@[simp] theorem endSample_cb (s : State) (code chan : Nat) (v : Int) : State.cb ((endSample s code chan v)) = s.cb := endSample_base s code chan v .cb rfl
@[simp] theorem endSample_nv (s : State) (code chan : Nat) (v : Int) : State.nv ((endSample s code chan v)) = s.nv := endSample_base s code chan v .nv rfl
@[simp] theorem endSample_fresh (s : State) (code chan : Nat) (v : Int) : State.fresh ((endSample s code chan v)) = s.fresh := endSample_base s code chan v .fresh rfl

theorem irq_base (s : State) (b : Nat) : Only [.hp] s ((State.irq s b)) := by simp
@[simp] theorem irq_pending (s : State) (b : Nat) : State.pending ((State.irq s b)) = s.pending := irq_base s b .pending rfl
@[simp] theorem irq_sup (s : State) (b : Nat) : State.sup ((State.irq s b)) = s.sup := irq_base s b .sup rfl
@[simp] theorem irq_tb (s : State) (b : Nat) : State.tb ((State.irq s b)) = s.tb := irq_base s b .tb rfl
@[simp] theorem irq_fe (s : State) (b : Nat) : State.fe ((State.irq s b)) = s.fe := irq_base s b .fe rfl
@[simp] theorem irq_cv (s : State) (b : Nat) : State.cv ((State.irq s b)) = s.cv := irq_base s b .cv rfl
@[simp] theorem irq_qu (s : State) (b : Nat) : State.qu ((State.irq s b)) = s.qu := irq_base s b .qu rfl
@[simp] theorem irq_pl (s : State) (b : Nat) : State.pl ((State.irq s b)) = s.pl := irq_base s b .pl rfl
@[simp] theorem irq_met (s : State) (b : Nat) : State.met ((State.irq s b)) = s.met := irq_base s b .met rfl
@[simp] theorem irq_pq (s : State) (b : Nat) : State.pq ((State.irq s b)) = s.pq := irq_base s b .pq rfl
@[simp] theorem irq_ls (s : State) (b : Nat) : State.ls ((State.irq s b)) = s.ls := irq_base s b .ls rfl
@[simp] theorem irq_bl (s : State) (b : Nat) : State.bl ((State.irq s b)) = s.bl := irq_base s b .bl rfl
@[simp] theorem irq_rtc (s : State) (b : Nat) : State.rtc ((State.irq s b)) = s.rtc := irq_base s b .rtc rfl
@[simp] theorem irq_tp (s : State) (b : Nat) : State.tp ((State.irq s b)) = s.tp := irq_base s b .tp rfl
@[simp] theorem irq_er (s : State) (b : Nat) : State.er ((State.irq s b)) = s.er := irq_base s b .er rfl
@[simp] theorem irq_dp (s : State) (b : Nat) : State.dp ((State.irq s b)) = s.dp := irq_base s b .dp rfl
@[simp] theorem irq_tr (s : State) (b : Nat) : State.tr ((State.irq s b)) = s.tr := irq_base s b .tr rfl
@[simp] theorem irq_ser (s : State) (b : Nat) : State.ser ((State.irq s b)) = s.ser := irq_base s b .ser rfl
@[simp] theorem irq_cb (s : State) (b : Nat) : State.cb ((State.irq s b)) = s.cb := irq_base s b .cb rfl
@[simp] theorem irq_nv (s : State) (b : Nat) : State.nv ((State.irq s b)) = s.nv := irq_base s b .nv rfl
@[simp] theorem irq_fresh (s : State) (b : Nat) : State.fresh ((State.irq s b)) = s.fresh := irq_base s b .fresh rfl

theorem irqEvent_base (s : State) (code : Nat) : Only [.hp] s ((State.irqEvent s code)) := by simp
@[simp] theorem irqEvent_pending (s : State) (code : Nat) : State.pending ((State.irqEvent s code)) = s.pending := irqEvent_base s code .pending rfl
@[simp] theorem irqEvent_sup (s : State) (code : Nat) : State.sup ((State.irqEvent s code)) = s.sup := irqEvent_base s code .sup rfl
@[simp] theorem irqEvent_tb (s : State) (code : Nat) : State.tb ((State.irqEvent s code)) = s.tb := irqEvent_base s code .tb rfl
@[simp] theorem irqEvent_fe (s : State) (code : Nat) : State.fe ((State.irqEvent s code)) = s.fe := irqEvent_base s code .fe rfl
@[simp] theorem irqEvent_cv (s : State) (code : Nat) : State.cv ((State.irqEvent s code)) = s.cv := irqEvent_base s code .cv rfl
@[simp] theorem irqEvent_qu (s : State) (code : Nat) : State.qu ((State.irqEvent s code)) = s.qu := irqEvent_base s code .qu rfl
@[simp] theorem irqEvent_pl (s : State) (code : Nat) : State.pl ((State.irqEvent s code)) = s.pl := irqEvent_base s code .pl rfl
@[simp] theorem irqEvent_met (s : State) (code : Nat) : State.met ((State.irqEvent s code)) = s.met := irqEvent_base s code .met rfl
@[simp] theorem irqEvent_pq (s : State) (code : Nat) : State.pq ((State.irqEvent s code)) = s.pq := irqEvent_base s code .pq rfl
@[simp] theorem irqEvent_ls (s : State) (code : Nat) : State.ls ((State.irqEvent s code)) = s.ls := irqEvent_base s code .ls rfl
@[simp] theorem irqEvent_bl (s : State) (code : Nat) : State.bl ((State.irqEvent s code)) = s.bl := irqEvent_base s code .bl rfl
@[simp] theorem irqEvent_rtc (s : State) (code : Nat) : State.rtc ((State.irqEvent s code)) = s.rtc := irqEvent_base s code .rtc rfl
@[simp] theorem irqEvent_tp (s : State) (code : Nat) : State.tp ((State.irqEvent s code)) = s.tp := irqEvent_base s code .tp rfl
@[simp] theorem irqEvent_er (s : State) (code : Nat) : State.er ((State.irqEvent s code)) = s.er := irqEvent_base s code .er rfl
@[simp] theorem irqEvent_dp (s : State) (code : Nat) : State.dp ((State.irqEvent s code)) = s.dp := irqEvent_base s code .dp rfl
@[simp] theorem irqEvent_tr (s : State) (code : Nat) : State.tr ((State.irqEvent s code)) = s.tr := irqEvent_base s code .tr rfl
@[simp] theorem irqEvent_ser (s : State) (code : Nat) : State.ser ((State.irqEvent s code)) = s.ser := irqEvent_base s code .ser rfl
@[simp] theorem irqEvent_cb (s : State) (code : Nat) : State.cb ((State.irqEvent s code)) = s.cb := irqEvent_base s code .cb rfl
@[simp] theorem irqEvent_nv (s : State) (code : Nat) : State.nv ((State.irqEvent s code)) = s.nv := irqEvent_base s code .nv rfl
@[simp] theorem irqEvent_fresh (s : State) (code : Nat) : State.fresh ((State.irqEvent s code)) = s.fresh := irqEvent_base s code .fresh rfl

theorem pushTo_base (s : State) (q : Nat) (es : List QEntry) : Only [.qu, .hp] s ((pushTo s q es).s) := by simp
@[simp] theorem pushTo_pending (s : State) (q : Nat) (es : List QEntry) : State.pending ((pushTo s q es).s) = s.pending := pushTo_base s q es .pending rfl
@[simp] theorem pushTo_sup (s : State) (q : Nat) (es : List QEntry) : State.sup ((pushTo s q es).s) = s.sup := pushTo_base s q es .sup rfl
@[simp] theorem pushTo_tb (s : State) (q : Nat) (es : List QEntry) : State.tb ((pushTo s q es).s) = s.tb := pushTo_base s q es .tb rfl
@[simp] theorem pushTo_fe (s : State) (q : Nat) (es : List QEntry) : State.fe ((pushTo s q es).s) = s.fe := pushTo_base s q es .fe rfl
@[simp] theorem pushTo_cv (s : State) (q : Nat) (es : List QEntry) : State.cv ((pushTo s q es).s) = s.cv := pushTo_base s q es .cv rfl
@[simp] theorem pushTo_pl (s : State) (q : Nat) (es : List QEntry) : State.pl ((pushTo s q es).s) = s.pl := pushTo_base s q es .pl rfl
@[simp] theorem pushTo_met (s : State) (q : Nat) (es : List QEntry) : State.met ((pushTo s q es).s) = s.met := pushTo_base s q es .met rfl
@[simp] theorem pushTo_pq (s : State) (q : Nat) (es : List QEntry) : State.pq ((pushTo s q es).s) = s.pq := pushTo_base s q es .pq rfl
@[simp] theorem pushTo_ls (s : State) (q : Nat) (es : List QEntry) : State.ls ((pushTo s q es).s) = s.ls := pushTo_base s q es .ls rfl
@[simp] theorem pushTo_bl (s : State) (q : Nat) (es : List QEntry) : State.bl ((pushTo s q es).s) = s.bl := pushTo_base s q es .bl rfl
@[simp] theorem pushTo_rtc (s : State) (q : Nat) (es : List QEntry) : State.rtc ((pushTo s q es).s) = s.rtc := pushTo_base s q es .rtc rfl
@[simp] theorem pushTo_tp (s : State) (q : Nat) (es : List QEntry) : State.tp ((pushTo s q es).s) = s.tp := pushTo_base s q es .tp rfl
@[simp] theorem pushTo_er (s : State) (q : Nat) (es : List QEntry) : State.er ((pushTo s q es).s) = s.er := pushTo_base s q es .er rfl
@[simp] theorem pushTo_dp (s : State) (q : Nat) (es : List QEntry) : State.dp ((pushTo s q es).s) = s.dp := pushTo_base s q es .dp rfl
@[simp] theorem pushTo_tr (s : State) (q : Nat) (es : List QEntry) : State.tr ((pushTo s q es).s) = s.tr := pushTo_base s q es .tr rfl
@[simp] theorem pushTo_ser (s : State) (q : Nat) (es : List QEntry) : State.ser ((pushTo s q es).s) = s.ser := pushTo_base s q es .ser rfl
@[simp] theorem pushTo_cb (s : State) (q : Nat) (es : List QEntry) : State.cb ((pushTo s q es).s) = s.cb := pushTo_base s q es .cb rfl
@[simp] theorem pushTo_nv (s : State) (q : Nat) (es : List QEntry) : State.nv ((pushTo s q es).s) = s.nv := pushTo_base s q es .nv rfl
@[simp] theorem pushTo_fresh (s : State) (q : Nat) (es : List QEntry) : State.fresh ((pushTo s q es).s) = s.fresh := pushTo_base s q es .fresh rfl

theorem push_base (s : State) (kind num : Nat) (es : List QEntry) : Only [.qu, .er, .hp] s ((push s kind num es)) := by simp
@[simp] theorem push_pending (s : State) (kind num : Nat) (es : List QEntry) : State.pending ((push s kind num es)) = s.pending := push_base s kind num es .pending rfl
@[simp] theorem push_sup (s : State) (kind num : Nat) (es : List QEntry) : State.sup ((push s kind num es)) = s.sup := push_base s kind num es .sup rfl
@[simp] theorem push_tb (s : State) (kind num : Nat) (es : List QEntry) : State.tb ((push s kind num es)) = s.tb := push_base s kind num es .tb rfl
@[simp] theorem push_fe (s : State) (kind num : Nat) (es : List QEntry) : State.fe ((push s kind num es)) = s.fe := push_base s kind num es .fe rfl
@[simp] theorem push_cv (s : State) (kind num : Nat) (es : List QEntry) : State.cv ((push s kind num es)) = s.cv := push_base s kind num es .cv rfl
@[simp] theorem push_pl (s : State) (kind num : Nat) (es : List QEntry) : State.pl ((push s kind num es)) = s.pl := push_base s kind num es .pl rfl
@[simp] theorem push_met (s : State) (kind num : Nat) (es : List QEntry) : State.met ((push s kind num es)) = s.met := push_base s kind num es .met rfl
@[simp] theorem push_pq (s : State) (kind num : Nat) (es : List QEntry) : State.pq ((push s kind num es)) = s.pq := push_base s kind num es .pq rfl
@[simp] theorem push_ls (s : State) (kind num : Nat) (es : List QEntry) : State.ls ((push s kind num es)) = s.ls := push_base s kind num es .ls rfl
@[simp] theorem push_bl (s : State) (kind num : Nat) (es : List QEntry) : State.bl ((push s kind num es)) = s.bl := push_base s kind num es .bl rfl
@[simp] theorem push_rtc (s : State) (kind num : Nat) (es : List QEntry) : State.rtc ((push s kind num es)) = s.rtc := push_base s kind num es .rtc rfl
@[simp] theorem push_tp (s : State) (kind num : Nat) (es : List QEntry) : State.tp ((push s kind num es)) = s.tp := push_base s kind num es .tp rfl
@[simp] theorem push_dp (s : State) (kind num : Nat) (es : List QEntry) : State.dp ((push s kind num es)) = s.dp := push_base s kind num es .dp rfl
@[simp] theorem push_tr (s : State) (kind num : Nat) (es : List QEntry) : State.tr ((push s kind num es)) = s.tr := push_base s kind num es .tr rfl
@[simp] theorem push_ser (s : State) (kind num : Nat) (es : List QEntry) : State.ser ((push s kind num es)) = s.ser := push_base s kind num es .ser rfl
@[simp] theorem push_cb (s : State) (kind num : Nat) (es : List QEntry) : State.cb ((push s kind num es)) = s.cb := push_base s kind num es .cb rfl
@[simp] theorem push_nv (s : State) (kind num : Nat) (es : List QEntry) : State.nv ((push s kind num es)) = s.nv := push_base s kind num es .nv rfl
@[simp] theorem push_fresh (s : State) (kind num : Nat) (es : List QEntry) : State.fresh ((push s kind num es)) = s.fresh := push_base s kind num es .fresh rfl

theorem privDue_base (s : State) (ptype : Nat) (payload : List Byte) (cell : Bool) : Only [.er] s ((privDue s ptype payload cell)) := by simp
@[simp] theorem privDue_pending (s : State) (ptype : Nat) (payload : List Byte) (cell : Bool) : State.pending ((privDue s ptype payload cell)) = s.pending := privDue_base s ptype payload cell .pending rfl
@[simp] theorem privDue_sup (s : State) (ptype : Nat) (payload : List Byte) (cell : Bool) : State.sup ((privDue s ptype payload cell)) = s.sup := privDue_base s ptype payload cell .sup rfl
@[simp] theorem privDue_tb (s : State) (ptype : Nat) (payload : List Byte) (cell : Bool) : State.tb ((privDue s ptype payload cell)) = s.tb := privDue_base s ptype payload cell .tb rfl
@[simp] theorem privDue_fe (s : State) (ptype : Nat) (payload : List Byte) (cell : Bool) : State.fe ((privDue s ptype payload cell)) = s.fe := privDue_base s ptype payload cell .fe rfl
@[simp] theorem privDue_cv (s : State) (ptype : Nat) (payload : List Byte) (cell : Bool) : State.cv ((privDue s ptype payload cell)) = s.cv := privDue_base s ptype payload cell .cv rfl
@[simp] theorem privDue_qu (s : State) (ptype : Nat) (payload : List Byte) (cell : Bool) : State.qu ((privDue s ptype payload cell)) = s.qu := privDue_base s ptype payload cell .qu rfl
@[simp] theorem privDue_pl (s : State) (ptype : Nat) (payload : List Byte) (cell : Bool) : State.pl ((privDue s ptype payload cell)) = s.pl := privDue_base s ptype payload cell .pl rfl
@[simp] theorem privDue_met (s : State) (ptype : Nat) (payload : List Byte) (cell : Bool) : State.met ((privDue s ptype payload cell)) = s.met := privDue_base s ptype payload cell .met rfl
@[simp] theorem privDue_pq (s : State) (ptype : Nat) (payload : List Byte) (cell : Bool) : State.pq ((privDue s ptype payload cell)) = s.pq := privDue_base s ptype payload cell .pq rfl
@[simp] theorem privDue_ls (s : State) (ptype : Nat) (payload : List Byte) (cell : Bool) : State.ls ((privDue s ptype payload cell)) = s.ls := privDue_base s ptype payload cell .ls rfl
@[simp] theorem privDue_bl (s : State) (ptype : Nat) (payload : List Byte) (cell : Bool) : State.bl ((privDue s ptype payload cell)) = s.bl := privDue_base s ptype payload cell .bl rfl
@[simp] theorem privDue_rtc (s : State) (ptype : Nat) (payload : List Byte) (cell : Bool) : State.rtc ((privDue s ptype payload cell)) = s.rtc := privDue_base s ptype payload cell .rtc rfl
@[simp] theorem privDue_tp (s : State) (ptype : Nat) (payload : List Byte) (cell : Bool) : State.tp ((privDue s ptype payload cell)) = s.tp := privDue_base s ptype payload cell .tp rfl
@[simp] theorem privDue_dp (s : State) (ptype : Nat) (payload : List Byte) (cell : Bool) : State.dp ((privDue s ptype payload cell)) = s.dp := privDue_base s ptype payload cell .dp rfl
@[simp] theorem privDue_tr (s : State) (ptype : Nat) (payload : List Byte) (cell : Bool) : State.tr ((privDue s ptype payload cell)) = s.tr := privDue_base s ptype payload cell .tr rfl
@[simp] theorem privDue_hp (s : State) (ptype : Nat) (payload : List Byte) (cell : Bool) : State.hp ((privDue s ptype payload cell)) = s.hp := privDue_base s ptype payload cell .hp rfl
@[simp] theorem privDue_ser (s : State) (ptype : Nat) (payload : List Byte) (cell : Bool) : State.ser ((privDue s ptype payload cell)) = s.ser := privDue_base s ptype payload cell .ser rfl
@[simp] theorem privDue_cb (s : State) (ptype : Nat) (payload : List Byte) (cell : Bool) : State.cb ((privDue s ptype payload cell)) = s.cb := privDue_base s ptype payload cell .cb rfl
@[simp] theorem privDue_nv (s : State) (ptype : Nat) (payload : List Byte) (cell : Bool) : State.nv ((privDue s ptype payload cell)) = s.nv := privDue_base s ptype payload cell .nv rfl
@[simp] theorem privDue_fresh (s : State) (ptype : Nat) (payload : List Byte) (cell : Bool) : State.fresh ((privDue s ptype payload cell)) = s.fresh := privDue_base s ptype payload cell .fresh rfl

theorem orderReset_base (s : State) (cause : Nat) : Only [.sup] s ((orderReset s cause)) := by simp
@[simp] theorem orderReset_pending (s : State) (cause : Nat) : State.pending ((orderReset s cause)) = s.pending := orderReset_base s cause .pending rfl
@[simp] theorem orderReset_mode (s : State) (cause : Nat) : (State.sup ((orderReset s cause))).st = s.sup.st := orderReset_base s cause .mode rfl
@[simp] theorem orderReset_tb (s : State) (cause : Nat) : State.tb ((orderReset s cause)) = s.tb := orderReset_base s cause .tb rfl
@[simp] theorem orderReset_fe (s : State) (cause : Nat) : State.fe ((orderReset s cause)) = s.fe := orderReset_base s cause .fe rfl
@[simp] theorem orderReset_cv (s : State) (cause : Nat) : State.cv ((orderReset s cause)) = s.cv := orderReset_base s cause .cv rfl
@[simp] theorem orderReset_qu (s : State) (cause : Nat) : State.qu ((orderReset s cause)) = s.qu := orderReset_base s cause .qu rfl
@[simp] theorem orderReset_pl (s : State) (cause : Nat) : State.pl ((orderReset s cause)) = s.pl := orderReset_base s cause .pl rfl
@[simp] theorem orderReset_met (s : State) (cause : Nat) : State.met ((orderReset s cause)) = s.met := orderReset_base s cause .met rfl
@[simp] theorem orderReset_pq (s : State) (cause : Nat) : State.pq ((orderReset s cause)) = s.pq := orderReset_base s cause .pq rfl
@[simp] theorem orderReset_ls (s : State) (cause : Nat) : State.ls ((orderReset s cause)) = s.ls := orderReset_base s cause .ls rfl
@[simp] theorem orderReset_bl (s : State) (cause : Nat) : State.bl ((orderReset s cause)) = s.bl := orderReset_base s cause .bl rfl
@[simp] theorem orderReset_rtc (s : State) (cause : Nat) : State.rtc ((orderReset s cause)) = s.rtc := orderReset_base s cause .rtc rfl
@[simp] theorem orderReset_tp (s : State) (cause : Nat) : State.tp ((orderReset s cause)) = s.tp := orderReset_base s cause .tp rfl
@[simp] theorem orderReset_er (s : State) (cause : Nat) : State.er ((orderReset s cause)) = s.er := orderReset_base s cause .er rfl
@[simp] theorem orderReset_dp (s : State) (cause : Nat) : State.dp ((orderReset s cause)) = s.dp := orderReset_base s cause .dp rfl
@[simp] theorem orderReset_tr (s : State) (cause : Nat) : State.tr ((orderReset s cause)) = s.tr := orderReset_base s cause .tr rfl
@[simp] theorem orderReset_hp (s : State) (cause : Nat) : State.hp ((orderReset s cause)) = s.hp := orderReset_base s cause .hp rfl
@[simp] theorem orderReset_ser (s : State) (cause : Nat) : State.ser ((orderReset s cause)) = s.ser := orderReset_base s cause .ser rfl
@[simp] theorem orderReset_cb (s : State) (cause : Nat) : State.cb ((orderReset s cause)) = s.cb := orderReset_base s cause .cb rfl
@[simp] theorem orderReset_nv (s : State) (cause : Nat) : State.nv ((orderReset s cause)) = s.nv := orderReset_base s cause .nv rfl
@[simp] theorem orderReset_fresh (s : State) (cause : Nat) : State.fresh ((orderReset s cause)) = s.fresh := orderReset_base s cause .fresh rfl

theorem sendPort_base (s : State) (p : Nat) (m : OutMsg) : Only [.cb] s ((sendPort s p m)) := by simp
@[simp] theorem sendPort_pending (s : State) (p : Nat) (m : OutMsg) : State.pending ((sendPort s p m)) = s.pending := sendPort_base s p m .pending rfl
@[simp] theorem sendPort_sup (s : State) (p : Nat) (m : OutMsg) : State.sup ((sendPort s p m)) = s.sup := sendPort_base s p m .sup rfl
@[simp] theorem sendPort_tb (s : State) (p : Nat) (m : OutMsg) : State.tb ((sendPort s p m)) = s.tb := sendPort_base s p m .tb rfl
@[simp] theorem sendPort_fe (s : State) (p : Nat) (m : OutMsg) : State.fe ((sendPort s p m)) = s.fe := sendPort_base s p m .fe rfl
@[simp] theorem sendPort_cv (s : State) (p : Nat) (m : OutMsg) : State.cv ((sendPort s p m)) = s.cv := sendPort_base s p m .cv rfl
@[simp] theorem sendPort_qu (s : State) (p : Nat) (m : OutMsg) : State.qu ((sendPort s p m)) = s.qu := sendPort_base s p m .qu rfl
@[simp] theorem sendPort_pl (s : State) (p : Nat) (m : OutMsg) : State.pl ((sendPort s p m)) = s.pl := sendPort_base s p m .pl rfl
@[simp] theorem sendPort_met (s : State) (p : Nat) (m : OutMsg) : State.met ((sendPort s p m)) = s.met := sendPort_base s p m .met rfl
@[simp] theorem sendPort_pq (s : State) (p : Nat) (m : OutMsg) : State.pq ((sendPort s p m)) = s.pq := sendPort_base s p m .pq rfl
@[simp] theorem sendPort_ls (s : State) (p : Nat) (m : OutMsg) : State.ls ((sendPort s p m)) = s.ls := sendPort_base s p m .ls rfl
@[simp] theorem sendPort_bl (s : State) (p : Nat) (m : OutMsg) : State.bl ((sendPort s p m)) = s.bl := sendPort_base s p m .bl rfl
@[simp] theorem sendPort_rtc (s : State) (p : Nat) (m : OutMsg) : State.rtc ((sendPort s p m)) = s.rtc := sendPort_base s p m .rtc rfl
@[simp] theorem sendPort_tp (s : State) (p : Nat) (m : OutMsg) : State.tp ((sendPort s p m)) = s.tp := sendPort_base s p m .tp rfl
@[simp] theorem sendPort_er (s : State) (p : Nat) (m : OutMsg) : State.er ((sendPort s p m)) = s.er := sendPort_base s p m .er rfl
@[simp] theorem sendPort_dp (s : State) (p : Nat) (m : OutMsg) : State.dp ((sendPort s p m)) = s.dp := sendPort_base s p m .dp rfl
@[simp] theorem sendPort_tr (s : State) (p : Nat) (m : OutMsg) : State.tr ((sendPort s p m)) = s.tr := sendPort_base s p m .tr rfl
@[simp] theorem sendPort_hp (s : State) (p : Nat) (m : OutMsg) : State.hp ((sendPort s p m)) = s.hp := sendPort_base s p m .hp rfl
@[simp] theorem sendPort_ser (s : State) (p : Nat) (m : OutMsg) : State.ser ((sendPort s p m)) = s.ser := sendPort_base s p m .ser rfl
@[simp] theorem sendPort_nv (s : State) (p : Nat) (m : OutMsg) : State.nv ((sendPort s p m)) = s.nv := sendPort_base s p m .nv rfl
@[simp] theorem sendPort_fresh (s : State) (p : Nat) (m : OutMsg) : State.fresh ((sendPort s p m)) = s.fresh := sendPort_base s p m .fresh rfl

theorem refill_base (s : State) (p : Nat) : Only [.cb] s ((refill s p)) := by simp
@[simp] theorem refill_pending (s : State) (p : Nat) : State.pending ((refill s p)) = s.pending := refill_base s p .pending rfl
@[simp] theorem refill_sup (s : State) (p : Nat) : State.sup ((refill s p)) = s.sup := refill_base s p .sup rfl
@[simp] theorem refill_tb (s : State) (p : Nat) : State.tb ((refill s p)) = s.tb := refill_base s p .tb rfl
@[simp] theorem refill_fe (s : State) (p : Nat) : State.fe ((refill s p)) = s.fe := refill_base s p .fe rfl
@[simp] theorem refill_cv (s : State) (p : Nat) : State.cv ((refill s p)) = s.cv := refill_base s p .cv rfl
@[simp] theorem refill_qu (s : State) (p : Nat) : State.qu ((refill s p)) = s.qu := refill_base s p .qu rfl
@[simp] theorem refill_pl (s : State) (p : Nat) : State.pl ((refill s p)) = s.pl := refill_base s p .pl rfl
@[simp] theorem refill_met (s : State) (p : Nat) : State.met ((refill s p)) = s.met := refill_base s p .met rfl
@[simp] theorem refill_pq (s : State) (p : Nat) : State.pq ((refill s p)) = s.pq := refill_base s p .pq rfl
@[simp] theorem refill_ls (s : State) (p : Nat) : State.ls ((refill s p)) = s.ls := refill_base s p .ls rfl
@[simp] theorem refill_bl (s : State) (p : Nat) : State.bl ((refill s p)) = s.bl := refill_base s p .bl rfl
@[simp] theorem refill_rtc (s : State) (p : Nat) : State.rtc ((refill s p)) = s.rtc := refill_base s p .rtc rfl
@[simp] theorem refill_tp (s : State) (p : Nat) : State.tp ((refill s p)) = s.tp := refill_base s p .tp rfl
@[simp] theorem refill_er (s : State) (p : Nat) : State.er ((refill s p)) = s.er := refill_base s p .er rfl
@[simp] theorem refill_dp (s : State) (p : Nat) : State.dp ((refill s p)) = s.dp := refill_base s p .dp rfl
@[simp] theorem refill_tr (s : State) (p : Nat) : State.tr ((refill s p)) = s.tr := refill_base s p .tr rfl
@[simp] theorem refill_hp (s : State) (p : Nat) : State.hp ((refill s p)) = s.hp := refill_base s p .hp rfl
@[simp] theorem refill_ser (s : State) (p : Nat) : State.ser ((refill s p)) = s.ser := refill_base s p .ser rfl
@[simp] theorem refill_nv (s : State) (p : Nat) : State.nv ((refill s p)) = s.nv := refill_base s p .nv rfl
@[simp] theorem refill_fresh (s : State) (p : Nat) : State.fresh ((refill s p)) = s.fresh := refill_base s p .fresh rfl

theorem setRole_base (s : State) (r : Nat) : Only [.tb, .hp] s ((setRole s r)) := by simp
@[simp] theorem setRole_pending (s : State) (r : Nat) : State.pending ((setRole s r)) = s.pending := setRole_base s r .pending rfl
@[simp] theorem setRole_sup (s : State) (r : Nat) : State.sup ((setRole s r)) = s.sup := setRole_base s r .sup rfl
@[simp] theorem setRole_frame (s : State) (r : Nat) : (State.tb ((setRole s r))).frame = s.tb.frame := setRole_base s r .frame rfl
@[simp] theorem setRole_fe (s : State) (r : Nat) : State.fe ((setRole s r)) = s.fe := setRole_base s r .fe rfl
@[simp] theorem setRole_cv (s : State) (r : Nat) : State.cv ((setRole s r)) = s.cv := setRole_base s r .cv rfl
@[simp] theorem setRole_qu (s : State) (r : Nat) : State.qu ((setRole s r)) = s.qu := setRole_base s r .qu rfl
@[simp] theorem setRole_pl (s : State) (r : Nat) : State.pl ((setRole s r)) = s.pl := setRole_base s r .pl rfl
@[simp] theorem setRole_met (s : State) (r : Nat) : State.met ((setRole s r)) = s.met := setRole_base s r .met rfl
@[simp] theorem setRole_pq (s : State) (r : Nat) : State.pq ((setRole s r)) = s.pq := setRole_base s r .pq rfl
@[simp] theorem setRole_ls (s : State) (r : Nat) : State.ls ((setRole s r)) = s.ls := setRole_base s r .ls rfl
@[simp] theorem setRole_bl (s : State) (r : Nat) : State.bl ((setRole s r)) = s.bl := setRole_base s r .bl rfl
@[simp] theorem setRole_rtc (s : State) (r : Nat) : State.rtc ((setRole s r)) = s.rtc := setRole_base s r .rtc rfl
@[simp] theorem setRole_tp (s : State) (r : Nat) : State.tp ((setRole s r)) = s.tp := setRole_base s r .tp rfl
@[simp] theorem setRole_er (s : State) (r : Nat) : State.er ((setRole s r)) = s.er := setRole_base s r .er rfl
@[simp] theorem setRole_dp (s : State) (r : Nat) : State.dp ((setRole s r)) = s.dp := setRole_base s r .dp rfl
@[simp] theorem setRole_tr (s : State) (r : Nat) : State.tr ((setRole s r)) = s.tr := setRole_base s r .tr rfl
@[simp] theorem setRole_ser (s : State) (r : Nat) : State.ser ((setRole s r)) = s.ser := setRole_base s r .ser rfl
@[simp] theorem setRole_cb (s : State) (r : Nat) : State.cb ((setRole s r)) = s.cb := setRole_base s r .cb rfl
@[simp] theorem setRole_nv (s : State) (r : Nat) : State.nv ((setRole s r)) = s.nv := setRole_base s r .nv rfl
@[simp] theorem setRole_fresh (s : State) (r : Nat) : State.fresh ((setRole s r)) = s.fresh := setRole_base s r .fresh rfl

theorem portState_base (s : State) (p st : Nat) : Only [.hp, .cb] s ((portState s p st)) := by simp
@[simp] theorem portState_pending (s : State) (p st : Nat) : State.pending ((portState s p st)) = s.pending := portState_base s p st .pending rfl
@[simp] theorem portState_sup (s : State) (p st : Nat) : State.sup ((portState s p st)) = s.sup := portState_base s p st .sup rfl
@[simp] theorem portState_tb (s : State) (p st : Nat) : State.tb ((portState s p st)) = s.tb := portState_base s p st .tb rfl
@[simp] theorem portState_fe (s : State) (p st : Nat) : State.fe ((portState s p st)) = s.fe := portState_base s p st .fe rfl
@[simp] theorem portState_cv (s : State) (p st : Nat) : State.cv ((portState s p st)) = s.cv := portState_base s p st .cv rfl
@[simp] theorem portState_qu (s : State) (p st : Nat) : State.qu ((portState s p st)) = s.qu := portState_base s p st .qu rfl
@[simp] theorem portState_pl (s : State) (p st : Nat) : State.pl ((portState s p st)) = s.pl := portState_base s p st .pl rfl
@[simp] theorem portState_met (s : State) (p st : Nat) : State.met ((portState s p st)) = s.met := portState_base s p st .met rfl
@[simp] theorem portState_pq (s : State) (p st : Nat) : State.pq ((portState s p st)) = s.pq := portState_base s p st .pq rfl
@[simp] theorem portState_ls (s : State) (p st : Nat) : State.ls ((portState s p st)) = s.ls := portState_base s p st .ls rfl
@[simp] theorem portState_bl (s : State) (p st : Nat) : State.bl ((portState s p st)) = s.bl := portState_base s p st .bl rfl
@[simp] theorem portState_rtc (s : State) (p st : Nat) : State.rtc ((portState s p st)) = s.rtc := portState_base s p st .rtc rfl
@[simp] theorem portState_tp (s : State) (p st : Nat) : State.tp ((portState s p st)) = s.tp := portState_base s p st .tp rfl
@[simp] theorem portState_er (s : State) (p st : Nat) : State.er ((portState s p st)) = s.er := portState_base s p st .er rfl
@[simp] theorem portState_dp (s : State) (p st : Nat) : State.dp ((portState s p st)) = s.dp := portState_base s p st .dp rfl
@[simp] theorem portState_tr (s : State) (p st : Nat) : State.tr ((portState s p st)) = s.tr := portState_base s p st .tr rfl
@[simp] theorem portState_ser (s : State) (p st : Nat) : State.ser ((portState s p st)) = s.ser := portState_base s p st .ser rfl
@[simp] theorem portState_nv (s : State) (p st : Nat) : State.nv ((portState s p st)) = s.nv := portState_base s p st .nv rfl
@[simp] theorem portState_fresh (s : State) (p st : Nat) : State.fresh ((portState s p st)) = s.fresh := portState_base s p st .fresh rfl

theorem sendRsp_base (s : State) (h : CobaltHdr) (op addr status : Nat) (data : List Byte) : Only [.qu, .er, .hp, .cb] s ((sendRsp s h op addr status data)) := by simp
@[simp] theorem sendRsp_pending (s : State) (h : CobaltHdr) (op addr status : Nat) (data : List Byte) : State.pending ((sendRsp s h op addr status data)) = s.pending := sendRsp_base s h op addr status data .pending rfl
@[simp] theorem sendRsp_sup (s : State) (h : CobaltHdr) (op addr status : Nat) (data : List Byte) : State.sup ((sendRsp s h op addr status data)) = s.sup := sendRsp_base s h op addr status data .sup rfl
@[simp] theorem sendRsp_tb (s : State) (h : CobaltHdr) (op addr status : Nat) (data : List Byte) : State.tb ((sendRsp s h op addr status data)) = s.tb := sendRsp_base s h op addr status data .tb rfl
@[simp] theorem sendRsp_fe (s : State) (h : CobaltHdr) (op addr status : Nat) (data : List Byte) : State.fe ((sendRsp s h op addr status data)) = s.fe := sendRsp_base s h op addr status data .fe rfl
@[simp] theorem sendRsp_cv (s : State) (h : CobaltHdr) (op addr status : Nat) (data : List Byte) : State.cv ((sendRsp s h op addr status data)) = s.cv := sendRsp_base s h op addr status data .cv rfl
@[simp] theorem sendRsp_pl (s : State) (h : CobaltHdr) (op addr status : Nat) (data : List Byte) : State.pl ((sendRsp s h op addr status data)) = s.pl := sendRsp_base s h op addr status data .pl rfl
@[simp] theorem sendRsp_met (s : State) (h : CobaltHdr) (op addr status : Nat) (data : List Byte) : State.met ((sendRsp s h op addr status data)) = s.met := sendRsp_base s h op addr status data .met rfl
@[simp] theorem sendRsp_pq (s : State) (h : CobaltHdr) (op addr status : Nat) (data : List Byte) : State.pq ((sendRsp s h op addr status data)) = s.pq := sendRsp_base s h op addr status data .pq rfl
@[simp] theorem sendRsp_ls (s : State) (h : CobaltHdr) (op addr status : Nat) (data : List Byte) : State.ls ((sendRsp s h op addr status data)) = s.ls := sendRsp_base s h op addr status data .ls rfl
@[simp] theorem sendRsp_bl (s : State) (h : CobaltHdr) (op addr status : Nat) (data : List Byte) : State.bl ((sendRsp s h op addr status data)) = s.bl := sendRsp_base s h op addr status data .bl rfl
@[simp] theorem sendRsp_rtc (s : State) (h : CobaltHdr) (op addr status : Nat) (data : List Byte) : State.rtc ((sendRsp s h op addr status data)) = s.rtc := sendRsp_base s h op addr status data .rtc rfl
@[simp] theorem sendRsp_tp (s : State) (h : CobaltHdr) (op addr status : Nat) (data : List Byte) : State.tp ((sendRsp s h op addr status data)) = s.tp := sendRsp_base s h op addr status data .tp rfl
@[simp] theorem sendRsp_dp (s : State) (h : CobaltHdr) (op addr status : Nat) (data : List Byte) : State.dp ((sendRsp s h op addr status data)) = s.dp := sendRsp_base s h op addr status data .dp rfl
@[simp] theorem sendRsp_tr (s : State) (h : CobaltHdr) (op addr status : Nat) (data : List Byte) : State.tr ((sendRsp s h op addr status data)) = s.tr := sendRsp_base s h op addr status data .tr rfl
@[simp] theorem sendRsp_ser (s : State) (h : CobaltHdr) (op addr status : Nat) (data : List Byte) : State.ser ((sendRsp s h op addr status data)) = s.ser := sendRsp_base s h op addr status data .ser rfl
@[simp] theorem sendRsp_nv (s : State) (h : CobaltHdr) (op addr status : Nat) (data : List Byte) : State.nv ((sendRsp s h op addr status data)) = s.nv := sendRsp_base s h op addr status data .nv rfl
@[simp] theorem sendRsp_fresh (s : State) (h : CobaltHdr) (op addr status : Nat) (data : List Byte) : State.fresh ((sendRsp s h op addr status data)) = s.fresh := sendRsp_base s h op addr status data .fresh rfl

theorem linkPump_base (s : State) : Only [.qu, .er, .hp, .cb] s ((linkPump s)) := by simp
@[simp] theorem linkPump_pending (s : State) : State.pending ((linkPump s)) = s.pending := linkPump_base s .pending rfl
@[simp] theorem linkPump_sup (s : State) : State.sup ((linkPump s)) = s.sup := linkPump_base s .sup rfl
@[simp] theorem linkPump_tb (s : State) : State.tb ((linkPump s)) = s.tb := linkPump_base s .tb rfl
@[simp] theorem linkPump_fe (s : State) : State.fe ((linkPump s)) = s.fe := linkPump_base s .fe rfl
@[simp] theorem linkPump_cv (s : State) : State.cv ((linkPump s)) = s.cv := linkPump_base s .cv rfl
@[simp] theorem linkPump_pl (s : State) : State.pl ((linkPump s)) = s.pl := linkPump_base s .pl rfl
@[simp] theorem linkPump_met (s : State) : State.met ((linkPump s)) = s.met := linkPump_base s .met rfl
@[simp] theorem linkPump_pq (s : State) : State.pq ((linkPump s)) = s.pq := linkPump_base s .pq rfl
@[simp] theorem linkPump_ls (s : State) : State.ls ((linkPump s)) = s.ls := linkPump_base s .ls rfl
@[simp] theorem linkPump_bl (s : State) : State.bl ((linkPump s)) = s.bl := linkPump_base s .bl rfl
@[simp] theorem linkPump_rtc (s : State) : State.rtc ((linkPump s)) = s.rtc := linkPump_base s .rtc rfl
@[simp] theorem linkPump_tp (s : State) : State.tp ((linkPump s)) = s.tp := linkPump_base s .tp rfl
@[simp] theorem linkPump_dp (s : State) : State.dp ((linkPump s)) = s.dp := linkPump_base s .dp rfl
@[simp] theorem linkPump_tr (s : State) : State.tr ((linkPump s)) = s.tr := linkPump_base s .tr rfl
@[simp] theorem linkPump_ser (s : State) : State.ser ((linkPump s)) = s.ser := linkPump_base s .ser rfl
@[simp] theorem linkPump_nv (s : State) : State.nv ((linkPump s)) = s.nv := linkPump_base s .nv rfl
@[simp] theorem linkPump_fresh (s : State) : State.fresh ((linkPump s)) = s.fresh := linkPump_base s .fresh rfl

theorem quoteAsk_base (s : State) (path : Requester) (nonce : List Byte) (hdr : Option CobaltHdr) : Only [.qu, .er, .tr, .hp, .cb] s ((quoteAsk s path nonce hdr)) := by simp
@[simp] theorem quoteAsk_pending (s : State) (path : Requester) (nonce : List Byte) (hdr : Option CobaltHdr) : State.pending ((quoteAsk s path nonce hdr)) = s.pending := quoteAsk_base s path nonce hdr .pending rfl
@[simp] theorem quoteAsk_sup (s : State) (path : Requester) (nonce : List Byte) (hdr : Option CobaltHdr) : State.sup ((quoteAsk s path nonce hdr)) = s.sup := quoteAsk_base s path nonce hdr .sup rfl
@[simp] theorem quoteAsk_tb (s : State) (path : Requester) (nonce : List Byte) (hdr : Option CobaltHdr) : State.tb ((quoteAsk s path nonce hdr)) = s.tb := quoteAsk_base s path nonce hdr .tb rfl
@[simp] theorem quoteAsk_fe (s : State) (path : Requester) (nonce : List Byte) (hdr : Option CobaltHdr) : State.fe ((quoteAsk s path nonce hdr)) = s.fe := quoteAsk_base s path nonce hdr .fe rfl
@[simp] theorem quoteAsk_cv (s : State) (path : Requester) (nonce : List Byte) (hdr : Option CobaltHdr) : State.cv ((quoteAsk s path nonce hdr)) = s.cv := quoteAsk_base s path nonce hdr .cv rfl
@[simp] theorem quoteAsk_pl (s : State) (path : Requester) (nonce : List Byte) (hdr : Option CobaltHdr) : State.pl ((quoteAsk s path nonce hdr)) = s.pl := quoteAsk_base s path nonce hdr .pl rfl
@[simp] theorem quoteAsk_met (s : State) (path : Requester) (nonce : List Byte) (hdr : Option CobaltHdr) : State.met ((quoteAsk s path nonce hdr)) = s.met := quoteAsk_base s path nonce hdr .met rfl
@[simp] theorem quoteAsk_pq (s : State) (path : Requester) (nonce : List Byte) (hdr : Option CobaltHdr) : State.pq ((quoteAsk s path nonce hdr)) = s.pq := quoteAsk_base s path nonce hdr .pq rfl
@[simp] theorem quoteAsk_ls (s : State) (path : Requester) (nonce : List Byte) (hdr : Option CobaltHdr) : State.ls ((quoteAsk s path nonce hdr)) = s.ls := quoteAsk_base s path nonce hdr .ls rfl
@[simp] theorem quoteAsk_bl (s : State) (path : Requester) (nonce : List Byte) (hdr : Option CobaltHdr) : State.bl ((quoteAsk s path nonce hdr)) = s.bl := quoteAsk_base s path nonce hdr .bl rfl
@[simp] theorem quoteAsk_rtc (s : State) (path : Requester) (nonce : List Byte) (hdr : Option CobaltHdr) : State.rtc ((quoteAsk s path nonce hdr)) = s.rtc := quoteAsk_base s path nonce hdr .rtc rfl
@[simp] theorem quoteAsk_tp (s : State) (path : Requester) (nonce : List Byte) (hdr : Option CobaltHdr) : State.tp ((quoteAsk s path nonce hdr)) = s.tp := quoteAsk_base s path nonce hdr .tp rfl
@[simp] theorem quoteAsk_dp (s : State) (path : Requester) (nonce : List Byte) (hdr : Option CobaltHdr) : State.dp ((quoteAsk s path nonce hdr)) = s.dp := quoteAsk_base s path nonce hdr .dp rfl
@[simp] theorem quoteAsk_ser (s : State) (path : Requester) (nonce : List Byte) (hdr : Option CobaltHdr) : State.ser ((quoteAsk s path nonce hdr)) = s.ser := quoteAsk_base s path nonce hdr .ser rfl
@[simp] theorem quoteAsk_nv (s : State) (path : Requester) (nonce : List Byte) (hdr : Option CobaltHdr) : State.nv ((quoteAsk s path nonce hdr)) = s.nv := quoteAsk_base s path nonce hdr .nv rfl
@[simp] theorem quoteAsk_fresh (s : State) (path : Requester) (nonce : List Byte) (hdr : Option CobaltHdr) : State.fresh ((quoteAsk s path nonce hdr)) = s.fresh := quoteAsk_base s path nonce hdr .fresh rfl

theorem commitFrame_base (s : State) (f : Frame) : Only [.qu, .ls, .er, .hp, .nv] s ((commitFrame s f)) := by simp
@[simp] theorem commitFrame_pending (s : State) (f : Frame) : State.pending ((commitFrame s f)) = s.pending := commitFrame_base s f .pending rfl
@[simp] theorem commitFrame_sup (s : State) (f : Frame) : State.sup ((commitFrame s f)) = s.sup := commitFrame_base s f .sup rfl
@[simp] theorem commitFrame_tb (s : State) (f : Frame) : State.tb ((commitFrame s f)) = s.tb := commitFrame_base s f .tb rfl
@[simp] theorem commitFrame_fe (s : State) (f : Frame) : State.fe ((commitFrame s f)) = s.fe := commitFrame_base s f .fe rfl
@[simp] theorem commitFrame_cv (s : State) (f : Frame) : State.cv ((commitFrame s f)) = s.cv := commitFrame_base s f .cv rfl
@[simp] theorem commitFrame_pl (s : State) (f : Frame) : State.pl ((commitFrame s f)) = s.pl := commitFrame_base s f .pl rfl
@[simp] theorem commitFrame_met (s : State) (f : Frame) : State.met ((commitFrame s f)) = s.met := commitFrame_base s f .met rfl
@[simp] theorem commitFrame_pq (s : State) (f : Frame) : State.pq ((commitFrame s f)) = s.pq := commitFrame_base s f .pq rfl
@[simp] theorem commitFrame_bl (s : State) (f : Frame) : State.bl ((commitFrame s f)) = s.bl := commitFrame_base s f .bl rfl
@[simp] theorem commitFrame_rtc (s : State) (f : Frame) : State.rtc ((commitFrame s f)) = s.rtc := commitFrame_base s f .rtc rfl
@[simp] theorem commitFrame_tp (s : State) (f : Frame) : State.tp ((commitFrame s f)) = s.tp := commitFrame_base s f .tp rfl
@[simp] theorem commitFrame_dp (s : State) (f : Frame) : State.dp ((commitFrame s f)) = s.dp := commitFrame_base s f .dp rfl
@[simp] theorem commitFrame_tr (s : State) (f : Frame) : State.tr ((commitFrame s f)) = s.tr := commitFrame_base s f .tr rfl
@[simp] theorem commitFrame_ser (s : State) (f : Frame) : State.ser ((commitFrame s f)) = s.ser := commitFrame_base s f .ser rfl
@[simp] theorem commitFrame_cb (s : State) (f : Frame) : State.cb ((commitFrame s f)) = s.cb := commitFrame_base s f .cb rfl
@[simp] theorem commitFrame_fresh (s : State) (f : Frame) : State.fresh ((commitFrame s f)) = s.fresh := commitFrame_base s f .fresh rfl

theorem checkGroup_base (s : State) (c : Crit) : Only [.qu, .ls, .bl, .er, .hp, .nv] s ((checkGroup s c).1) := by simp
@[simp] theorem checkGroup_pending (s : State) (c : Crit) : State.pending ((checkGroup s c).1) = s.pending := checkGroup_base s c .pending rfl
@[simp] theorem checkGroup_sup (s : State) (c : Crit) : State.sup ((checkGroup s c).1) = s.sup := checkGroup_base s c .sup rfl
@[simp] theorem checkGroup_tb (s : State) (c : Crit) : State.tb ((checkGroup s c).1) = s.tb := checkGroup_base s c .tb rfl
@[simp] theorem checkGroup_fe (s : State) (c : Crit) : State.fe ((checkGroup s c).1) = s.fe := checkGroup_base s c .fe rfl
@[simp] theorem checkGroup_cv (s : State) (c : Crit) : State.cv ((checkGroup s c).1) = s.cv := checkGroup_base s c .cv rfl
@[simp] theorem checkGroup_pl (s : State) (c : Crit) : State.pl ((checkGroup s c).1) = s.pl := checkGroup_base s c .pl rfl
@[simp] theorem checkGroup_met (s : State) (c : Crit) : State.met ((checkGroup s c).1) = s.met := checkGroup_base s c .met rfl
@[simp] theorem checkGroup_pq (s : State) (c : Crit) : State.pq ((checkGroup s c).1) = s.pq := checkGroup_base s c .pq rfl
@[simp] theorem checkGroup_rtc (s : State) (c : Crit) : State.rtc ((checkGroup s c).1) = s.rtc := checkGroup_base s c .rtc rfl
@[simp] theorem checkGroup_tp (s : State) (c : Crit) : State.tp ((checkGroup s c).1) = s.tp := checkGroup_base s c .tp rfl
@[simp] theorem checkGroup_dp (s : State) (c : Crit) : State.dp ((checkGroup s c).1) = s.dp := checkGroup_base s c .dp rfl
@[simp] theorem checkGroup_tr (s : State) (c : Crit) : State.tr ((checkGroup s c).1) = s.tr := checkGroup_base s c .tr rfl
@[simp] theorem checkGroup_ser (s : State) (c : Crit) : State.ser ((checkGroup s c).1) = s.ser := checkGroup_base s c .ser rfl
@[simp] theorem checkGroup_cb (s : State) (c : Crit) : State.cb ((checkGroup s c).1) = s.cb := checkGroup_base s c .cb rfl
@[simp] theorem checkGroup_fresh (s : State) (c : Crit) : State.fresh ((checkGroup s c).1) = s.fresh := checkGroup_base s c .fresh rfl

theorem openKey_base (s : State) (code chan : Nat) (endonly : Bool) : Only [.er, .hp] s ((openKey s code chan endonly)) := by simp
@[simp] theorem openKey_pending (s : State) (code chan : Nat) (endonly : Bool) : State.pending ((openKey s code chan endonly)) = s.pending := openKey_base s code chan endonly .pending rfl
@[simp] theorem openKey_sup (s : State) (code chan : Nat) (endonly : Bool) : State.sup ((openKey s code chan endonly)) = s.sup := openKey_base s code chan endonly .sup rfl
@[simp] theorem openKey_tb (s : State) (code chan : Nat) (endonly : Bool) : State.tb ((openKey s code chan endonly)) = s.tb := openKey_base s code chan endonly .tb rfl
@[simp] theorem openKey_fe (s : State) (code chan : Nat) (endonly : Bool) : State.fe ((openKey s code chan endonly)) = s.fe := openKey_base s code chan endonly .fe rfl
@[simp] theorem openKey_cv (s : State) (code chan : Nat) (endonly : Bool) : State.cv ((openKey s code chan endonly)) = s.cv := openKey_base s code chan endonly .cv rfl
@[simp] theorem openKey_qu (s : State) (code chan : Nat) (endonly : Bool) : State.qu ((openKey s code chan endonly)) = s.qu := openKey_base s code chan endonly .qu rfl
@[simp] theorem openKey_pl (s : State) (code chan : Nat) (endonly : Bool) : State.pl ((openKey s code chan endonly)) = s.pl := openKey_base s code chan endonly .pl rfl
@[simp] theorem openKey_met (s : State) (code chan : Nat) (endonly : Bool) : State.met ((openKey s code chan endonly)) = s.met := openKey_base s code chan endonly .met rfl
@[simp] theorem openKey_pq (s : State) (code chan : Nat) (endonly : Bool) : State.pq ((openKey s code chan endonly)) = s.pq := openKey_base s code chan endonly .pq rfl
@[simp] theorem openKey_ls (s : State) (code chan : Nat) (endonly : Bool) : State.ls ((openKey s code chan endonly)) = s.ls := openKey_base s code chan endonly .ls rfl
@[simp] theorem openKey_bl (s : State) (code chan : Nat) (endonly : Bool) : State.bl ((openKey s code chan endonly)) = s.bl := openKey_base s code chan endonly .bl rfl
@[simp] theorem openKey_rtc (s : State) (code chan : Nat) (endonly : Bool) : State.rtc ((openKey s code chan endonly)) = s.rtc := openKey_base s code chan endonly .rtc rfl
@[simp] theorem openKey_tp (s : State) (code chan : Nat) (endonly : Bool) : State.tp ((openKey s code chan endonly)) = s.tp := openKey_base s code chan endonly .tp rfl
@[simp] theorem openKey_dp (s : State) (code chan : Nat) (endonly : Bool) : State.dp ((openKey s code chan endonly)) = s.dp := openKey_base s code chan endonly .dp rfl
@[simp] theorem openKey_tr (s : State) (code chan : Nat) (endonly : Bool) : State.tr ((openKey s code chan endonly)) = s.tr := openKey_base s code chan endonly .tr rfl
@[simp] theorem openKey_ser (s : State) (code chan : Nat) (endonly : Bool) : State.ser ((openKey s code chan endonly)) = s.ser := openKey_base s code chan endonly .ser rfl
@[simp] theorem openKey_cb (s : State) (code chan : Nat) (endonly : Bool) : State.cb ((openKey s code chan endonly)) = s.cb := openKey_base s code chan endonly .cb rfl
@[simp] theorem openKey_nv (s : State) (code chan : Nat) (endonly : Bool) : State.nv ((openKey s code chan endonly)) = s.nv := openKey_base s code chan endonly .nv rfl
@[simp] theorem openKey_fresh (s : State) (code chan : Nat) (endonly : Bool) : State.fresh ((openKey s code chan endonly)) = s.fresh := openKey_base s code chan endonly .fresh rfl

theorem updKey_base (s : State) (code chan : Nat) (f : Recorder → Summary → Summary) : Only [.er] s ((updKey s code chan f)) := by simp
@[simp] theorem updKey_pending (s : State) (code chan : Nat) (f : Recorder → Summary → Summary) : State.pending ((updKey s code chan f)) = s.pending := updKey_base s code chan f .pending rfl
@[simp] theorem updKey_sup (s : State) (code chan : Nat) (f : Recorder → Summary → Summary) : State.sup ((updKey s code chan f)) = s.sup := updKey_base s code chan f .sup rfl
@[simp] theorem updKey_tb (s : State) (code chan : Nat) (f : Recorder → Summary → Summary) : State.tb ((updKey s code chan f)) = s.tb := updKey_base s code chan f .tb rfl
@[simp] theorem updKey_fe (s : State) (code chan : Nat) (f : Recorder → Summary → Summary) : State.fe ((updKey s code chan f)) = s.fe := updKey_base s code chan f .fe rfl
@[simp] theorem updKey_cv (s : State) (code chan : Nat) (f : Recorder → Summary → Summary) : State.cv ((updKey s code chan f)) = s.cv := updKey_base s code chan f .cv rfl
@[simp] theorem updKey_qu (s : State) (code chan : Nat) (f : Recorder → Summary → Summary) : State.qu ((updKey s code chan f)) = s.qu := updKey_base s code chan f .qu rfl
@[simp] theorem updKey_pl (s : State) (code chan : Nat) (f : Recorder → Summary → Summary) : State.pl ((updKey s code chan f)) = s.pl := updKey_base s code chan f .pl rfl
@[simp] theorem updKey_met (s : State) (code chan : Nat) (f : Recorder → Summary → Summary) : State.met ((updKey s code chan f)) = s.met := updKey_base s code chan f .met rfl
@[simp] theorem updKey_pq (s : State) (code chan : Nat) (f : Recorder → Summary → Summary) : State.pq ((updKey s code chan f)) = s.pq := updKey_base s code chan f .pq rfl
@[simp] theorem updKey_ls (s : State) (code chan : Nat) (f : Recorder → Summary → Summary) : State.ls ((updKey s code chan f)) = s.ls := updKey_base s code chan f .ls rfl
@[simp] theorem updKey_bl (s : State) (code chan : Nat) (f : Recorder → Summary → Summary) : State.bl ((updKey s code chan f)) = s.bl := updKey_base s code chan f .bl rfl
@[simp] theorem updKey_rtc (s : State) (code chan : Nat) (f : Recorder → Summary → Summary) : State.rtc ((updKey s code chan f)) = s.rtc := updKey_base s code chan f .rtc rfl
@[simp] theorem updKey_tp (s : State) (code chan : Nat) (f : Recorder → Summary → Summary) : State.tp ((updKey s code chan f)) = s.tp := updKey_base s code chan f .tp rfl
@[simp] theorem updKey_dp (s : State) (code chan : Nat) (f : Recorder → Summary → Summary) : State.dp ((updKey s code chan f)) = s.dp := updKey_base s code chan f .dp rfl
@[simp] theorem updKey_tr (s : State) (code chan : Nat) (f : Recorder → Summary → Summary) : State.tr ((updKey s code chan f)) = s.tr := updKey_base s code chan f .tr rfl
@[simp] theorem updKey_hp (s : State) (code chan : Nat) (f : Recorder → Summary → Summary) : State.hp ((updKey s code chan f)) = s.hp := updKey_base s code chan f .hp rfl
@[simp] theorem updKey_ser (s : State) (code chan : Nat) (f : Recorder → Summary → Summary) : State.ser ((updKey s code chan f)) = s.ser := updKey_base s code chan f .ser rfl
@[simp] theorem updKey_cb (s : State) (code chan : Nat) (f : Recorder → Summary → Summary) : State.cb ((updKey s code chan f)) = s.cb := updKey_base s code chan f .cb rfl
@[simp] theorem updKey_nv (s : State) (code chan : Nat) (f : Recorder → Summary → Summary) : State.nv ((updKey s code chan f)) = s.nv := updKey_base s code chan f .nv rfl
@[simp] theorem updKey_fresh (s : State) (code chan : Nat) (f : Recorder → Summary → Summary) : State.fresh ((updKey s code chan f)) = s.fresh := updKey_base s code chan f .fresh rfl

theorem evCloseAll_base (s : State) (b : Nat) : Only [.pq, .er, .hp] s ((evCloseAll s b)) := by simp
@[simp] theorem evCloseAll_pending (s : State) (b : Nat) : State.pending ((evCloseAll s b)) = s.pending := evCloseAll_base s b .pending rfl
@[simp] theorem evCloseAll_sup (s : State) (b : Nat) : State.sup ((evCloseAll s b)) = s.sup := evCloseAll_base s b .sup rfl
@[simp] theorem evCloseAll_tb (s : State) (b : Nat) : State.tb ((evCloseAll s b)) = s.tb := evCloseAll_base s b .tb rfl
@[simp] theorem evCloseAll_fe (s : State) (b : Nat) : State.fe ((evCloseAll s b)) = s.fe := evCloseAll_base s b .fe rfl
@[simp] theorem evCloseAll_cv (s : State) (b : Nat) : State.cv ((evCloseAll s b)) = s.cv := evCloseAll_base s b .cv rfl
@[simp] theorem evCloseAll_qu (s : State) (b : Nat) : State.qu ((evCloseAll s b)) = s.qu := evCloseAll_base s b .qu rfl
@[simp] theorem evCloseAll_pl (s : State) (b : Nat) : State.pl ((evCloseAll s b)) = s.pl := evCloseAll_base s b .pl rfl
@[simp] theorem evCloseAll_met (s : State) (b : Nat) : State.met ((evCloseAll s b)) = s.met := evCloseAll_base s b .met rfl
@[simp] theorem evCloseAll_ls (s : State) (b : Nat) : State.ls ((evCloseAll s b)) = s.ls := evCloseAll_base s b .ls rfl
@[simp] theorem evCloseAll_bl (s : State) (b : Nat) : State.bl ((evCloseAll s b)) = s.bl := evCloseAll_base s b .bl rfl
@[simp] theorem evCloseAll_rtc (s : State) (b : Nat) : State.rtc ((evCloseAll s b)) = s.rtc := evCloseAll_base s b .rtc rfl
@[simp] theorem evCloseAll_tp (s : State) (b : Nat) : State.tp ((evCloseAll s b)) = s.tp := evCloseAll_base s b .tp rfl
@[simp] theorem evCloseAll_dp (s : State) (b : Nat) : State.dp ((evCloseAll s b)) = s.dp := evCloseAll_base s b .dp rfl
@[simp] theorem evCloseAll_tr (s : State) (b : Nat) : State.tr ((evCloseAll s b)) = s.tr := evCloseAll_base s b .tr rfl
@[simp] theorem evCloseAll_ser (s : State) (b : Nat) : State.ser ((evCloseAll s b)) = s.ser := evCloseAll_base s b .ser rfl
@[simp] theorem evCloseAll_cb (s : State) (b : Nat) : State.cb ((evCloseAll s b)) = s.cb := evCloseAll_base s b .cb rfl
@[simp] theorem evCloseAll_nv (s : State) (b : Nat) : State.nv ((evCloseAll s b)) = s.nv := evCloseAll_base s b .nv rfl
@[simp] theorem evCloseAll_fresh (s : State) (b : Nat) : State.fresh ((evCloseAll s b)) = s.fresh := evCloseAll_base s b .fresh rfl

end Sys2Proof.Laws
end

