-- ==== Sys2Proof/Laws/OnlyRecorder.lean ====
section
/-! SUPPORT. What each operation of Machine/Recorder.lean can change. -/

namespace Sys2Proof.Laws

open Sys2Proof.Machine

theorem execEventRaise_only (code chan : Nat) (v : Option Int) (s : State) (u : State) (hx : execEventRaise code chan v s = .next u) : Only [.qu, .er, .hp] s u := by
  unfold execEventRaise at hx; rw [← Host.Outcome.next.inj hx]; simp
@[simp] theorem closeAt_only (s : State) (i : Nat) (f : Summary → Summary) {pp : List Part} {z : State} (hw : within [.er, .hp] pp = true) :
    Only pp z (closeAt s i f) = Only pp z s :=
  only_iff (by unfold closeAt; split <;> simp) hw
theorem execSummaryWindowClose_only (code chan : Nat) (s : State) (u : State) (hx : execSummaryWindowClose code chan s = .next u) : Only [.er, .hp] s u := by
  unfold execSummaryWindowClose at hx; (repeat' split at hx) <;> first | (rw [← Host.Outcome.next.inj hx]; simp; done) | cases hx
@[simp] theorem cutAll_only (s : State) {pp : List Part} {z : State} (hw : within [.er, .hp] pp = true) :
    Only pp z (cutAll s) = Only pp z s :=
  only_iff (by simp [cutAll]) hw
theorem execTokenRefill_only (code : Nat) (s : State) (u : State) (hx : execTokenRefill code s = .next u) : Only [.er] s u := by
  unfold execTokenRefill at hx; (try dsimp only at hx); (repeat' split at hx) <;> first | (rw [← Host.Outcome.next.inj hx]; simp (maxDischargeDepth := 9); done) | cases hx
@[simp] theorem writeEntry_only (s : State) (e : PrivDue) {pp : List Part} {z : State} (hw : within [.er, .hp] pp = true) :
    Only pp z (writeEntry s e) = Only pp z s :=
  only_iff (by simp [writeEntry]) hw
@[simp] theorem countLost_only (s : State) (e : PrivDue) {pp : List Part} {z : State} (hw : within [.er, .hp] pp = true) :
    Only pp z (countLost s e) = Only pp z s :=
  only_iff (by simp [countLost]) hw
theorem writeFirst_base : ∀ (l m : List PrivDue) (s : State), Only [.er, .hp] s (writeFirst l m s)
  | _, [], s => only_refl _ s
  | pre, e :: rest, s => by
    unfold writeFirst; split
    · simp [within]
    · exact only_trans (by simp [within]) (writeFirst_base _ rest _)
@[simp] theorem writeFirst_only (l m : List PrivDue) (s : State) {pp : List Part} {z : State} (w : within [.er, .hp] pp = true) :
    Only pp z (writeFirst l m s) = Only pp z s :=
  only_iff (writeFirst_base l m s) w
theorem execPrivilegedEntryWrite_only (s : State) (u : State) (hx : execPrivilegedEntryWrite s = .next u) : Only [.er, .hp] s u := by
  unfold execPrivilegedEntryWrite at hx; rw [← Host.Outcome.next.inj hx]; simp
theorem execErpack_only (req : Requester) (ack d0 d1 : Option Word) (s : State) (u : State) (hx : execErpack req ack d0 d1 s = .next u) : Only [.hp] s u := by
  unfold execErpack at hx; (repeat' split at hx) <;> first | (rw [← Host.Outcome.next.inj hx]; simp; done) | cases hx
@[simp] theorem answerAck_only (s : State) (req : Requester) (a d0 d1 : Option Word) {pp : List Part} {z : State} (hw : within [.er] pp = true) :
    Only pp z (answerAck s req a d0 d1) = Only pp z s :=
  only_iff (by unfold answerAck; split <;> simp) hw
theorem execErsclr_only (req : Requester) (s : State) (u : State) (hx : execErsclr req s = .next u) : Only [.hp] s u := by
  unfold execErsclr at hx; (repeat' split at hx) <;> first | (rw [← Host.Outcome.next.inj hx]; simp; done) | cases hx
@[simp] theorem newChallenge_only (s : State) {pp : List Part} {z : State} (hw : within [.er, .fresh] pp = true) :
    Only pp z (newChallenge s) = Only pp z s :=
  only_iff (by simp [newChallenge]) hw
@[simp] theorem answerClear_only (s : State) (req : Requester) {pp : List Part} {z : State} (hw : within [.er, .hp, .fresh] pp = true) :
    Only pp z (answerClear s req) = Only pp z s :=
  only_iff (by simp [answerClear]) hw
@[simp] theorem clearTick_only (s : State) {pp : List Part} {z : State} (hw : within [.er] pp = true) :
    Only pp z (clearTick s) = Only pp z s :=
  only_iff (by simp [clearTick]) hw
theorem execSummaryClearPassEnd_only (s : State) (u : State) (hx : execSummaryClearPassEnd s = .next u) : Only [.er, .hp] s u := by
  unfold execSummaryClearPassEnd at hx; (repeat' split at hx) <;> first | (rw [← Host.Outcome.next.inj hx]; simp; done) | cases hx
theorem execErwin15Read_only (_req : Requester) (s : State) (u : State) (hx : execErwin15Read _req s = .next u) : Only [.er] s u := by
  unfold execErwin15Read at hx; rw [← Host.Outcome.next.inj hx]; simp

end Sys2Proof.Laws
end

