-- ==== Sys2Proof/Laws/OnlyProfile.lean ====
section
/-! SUPPORT. What each operation of Machine/Profile.lean can change. -/

namespace Sys2Proof.Laws

open Sys2Proof.Machine


end Sys2Proof.Laws
end

