-- ==== Sys2Proof/Laws/OnlyPanel.lean ====
section
/-! SUPPORT. What each operation of Machine/Panel.lean can change. -/

namespace Sys2Proof.Laws

open Sys2Proof.Machine

@[simp] theorem setSeg_only (s : State) (n : Nat) (x : Segment) {pp : List Part} {z : State} (hw : within [.dp] pp = true) :
    Only pp z (State.setSeg s n x) = Only pp z s :=
  only_iff (by simp [State.setSeg]) hw
@[simp] theorem setRgn_only (s : State) (r : Nat) (x : Region) {pp : List Part} {z : State} (hw : within [.dp] pp = true) :
    Only pp z (State.setRgn s r x) = Only pp z s :=
  only_iff (by simp [State.setRgn]) hw
@[simp] theorem closeJournal_only (s : State) (r : Nat) {pp : List Part} {z : State} (hw : within [.dp] pp = true) :
    Only pp z (closeJournal s r) = Only pp z s :=
  only_iff (by simp [closeJournal]) hw
@[simp] theorem request_only (s : State) (r : Nat) (t : BitVec 24) {pp : List Part} {z : State} (hw : within [.dp] pp = true) :
    Only pp z (request s r t) = Only pp z s :=
  only_iff (by unfold request; dsimp only; (repeat' split) <;> simp) hw
@[simp] theorem writeFree_only (s : State) (req : Requester) (r : Nat) (w : Word) {pp : List Part} {z : State} (hw : within [.dp] pp = true) :
    Only pp z (writeFree s req r w) = Only pp z s :=
  only_iff (by simp [writeFree]) hw
theorem execDpfree_only (req : Requester) (r : Nat) (w : Word) (s : State) (u : State) (hx : execDpfree req r w s = .next u) : Only [.dp] s u := by
  unfold execDpfree at hx; (repeat' split at hx) <;> first | (rw [← Host.Outcome.next.inj hx]; simp; done) | cases hx
@[simp] theorem addCharge_only (s : State) (n : Nat) (c : Int) {pp : List Part} {z : State} (hw : within [.qu, .er, .dp, .hp] pp = true) :
    Only pp z (addCharge s n c) = Only pp z s :=
  only_iff (by simp [addCharge]) hw
@[simp] theorem segPhaseEnd_only (r i : Nat) (s : State) (n : Nat) {pp : List Part} {z : State} (hw : within [.qu, .er, .dp, .hp] pp = true) :
    Only pp z (segPhaseEnd r i s n) = Only pp z s :=
  only_iff (by unfold segPhaseEnd; dsimp only; (repeat' split) <;> simp) hw
@[simp] theorem startPhase_only (s : State) (r i : Nat) {pp : List Part} {z : State} (hw : within [.dp] pp = true) :
    Only pp z (startPhase s r i) = Only pp z s :=
  only_iff (by simp [startPhase]) hw
@[simp] theorem updateTemp_only (s : State) {pp : List Part} {z : State} (hw : within [.dp, .fresh] pp = true) :
    Only pp z (updateTemp s) = Only pp z s :=
  only_iff (by simp [updateTemp]) hw
@[simp] theorem takeWaves_only (s : State) (r : Nat) (t : BitVec 24) {pp : List Part} {z : State} (hw : within [.dp] pp = true) :
    Only pp z (takeWaves s r t) = Only pp z s :=
  only_iff (by simp [takeWaves]) hw
@[simp] theorem startUpdate_only (s : State) (r : Nat) {pp : List Part} {z : State} (hw : within [.dp] pp = true) :
    Only pp z (startUpdate s r) = Only pp z s :=
  only_iff (by simp [startUpdate]) hw
@[simp] theorem startClear_only (s : State) (r part : Nat) {pp : List Part} {z : State} (hw : within [.dp] pp = true) :
    Only pp z (startClear s r part) = Only pp z s :=
  only_iff (by simp [startClear]) hw
@[simp] theorem endClear_only (s : State) (r : Nat) {pp : List Part} {z : State} (hw : within [.dp] pp = true) :
    Only pp z (endClear s r) = Only pp z s :=
  only_iff (by unfold endClear; dsimp only; (repeat' split) <;> simp) hw
@[simp] theorem stopWaves_only (s : State) (r : Nat) {pp : List Part} {z : State} (hw : within [.dp] pp = true) :
    Only pp z (stopWaves s r) = Only pp z s :=
  only_iff (by simp [stopWaves]) hw
@[simp] theorem phaseEnd_only (s : State) (r : Nat) {pp : List Part} {z : State} (hw : within [.qu, .er, .dp, .hp] pp = true) :
    Only pp z (phaseEnd s r) = Only pp z s :=
  only_iff (by unfold phaseEnd; dsimp only; (repeat' split) <;> simp) hw
@[simp] theorem regionStep_only (s : State) (r : Nat) {pp : List Part} {z : State} (hw : within [.qu, .er, .dp, .hp] pp = true) :
    Only pp z (regionStep s r) = Only pp z s :=
  only_iff (by simp [regionStep]) hw
@[simp] theorem outputCheck_only (missed : List Nat) (s : State) (n : Nat) {pp : List Part} {z : State} (hw : within [.qu, .er, .dp, .hp] pp = true) :
    Only pp z (outputCheck missed s n) = Only pp z s :=
  only_iff (by simp [outputCheck]) hw
@[simp] theorem faultCharges_only (s : State) {pp : List Part} {z : State} (hw : within [.qu, .er, .dp, .hp] pp = true) :
    Only pp z (faultCharges s) = Only pp z s :=
  only_iff (by simp [faultCharges]) hw
@[simp] theorem rebStepDone_only (s : State) {pp : List Part} {z : State} (hw : within [.qu, .er, .dp, .hp] pp = true) :
    Only pp z (rebStepDone s) = Only pp z s :=
  only_iff (by simp [rebStepDone]) hw
@[simp] theorem rebEnd_only (s : State) {pp : List Part} {z : State} (hw : within [.qu, .er, .dp, .hp] pp = true) :
    Only pp z (rebEnd s) = Only pp z s :=
  only_iff (by simp [rebEnd]) hw
@[simp] theorem rebBoundary_only (s : State) {pp : List Part} {z : State} (hw : within [.qu, .er, .dp, .hp] pp = true) :
    Only pp z (rebBoundary s) = Only pp z s :=
  only_iff (by simp [rebBoundary]) hw
@[simp] theorem rebStart_only (s : State) {pp : List Part} {z : State} (hw : within [.dp] pp = true) :
    Only pp z (rebStart s) = Only pp z s :=
  only_iff (by simp [rebStart]) hw
@[simp] theorem deferCheck_only (s : State) {pp : List Part} {z : State} (hw : within [.qu, .er, .dp, .hp] pp = true) :
    Only pp z (deferCheck s) = Only pp z s :=
  only_iff (by simp [deferCheck]) hw
@[simp] theorem startAll_only (s : State) {pp : List Part} {z : State} (hw : within [.dp, .fresh] pp = true) :
    Only pp z (startAll s) = Only pp z s :=
  only_iff (by simp [startAll]) hw
@[simp] theorem takeProfile_only (s : State) {pp : List Part} {z : State} (hw : within [.dp] pp = true) :
    Only pp z (takeProfile s) = Only pp z s :=
  only_iff (by unfold takeProfile; split <;> simp) hw
@[simp] theorem clearsEnded_only (was : Bool) (s : State) {pp : List Part} {z : State} (hw : within [.dp] pp = true) :
    Only pp z (clearsEnded was s) = Only pp z s :=
  only_iff (by simp [clearsEnded]) hw
@[simp] theorem downBoundary_only (s : State) {pp : List Part} {z : State} (hw : within [.qu, .er, .dp, .hp] pp = true) :
    Only pp z (downBoundary s) = Only pp z s :=
  only_iff (by simp [downBoundary]) hw
@[simp] theorem stepBoundary_only (s : State) (missed : List Nat) {pp : List Part} {z : State} (hw : within [.qu, .er, .dp, .hp, .fresh] pp = true) :
    Only pp z (stepBoundary s missed) = Only pp z s :=
  only_iff (by simp [stepBoundary]) hw
theorem execDriveStep_only (missed : List Nat) (s : State) (u : State) (hx : execDriveStep missed s = .next u) : Only [.qu, .er, .dp, .hp, .fresh] s u := by
  unfold execDriveStep at hx; (repeat' split at hx) <;> first | (rw [← Host.Outcome.next.inj hx]; simp; done) | cases hx
@[simp] theorem chargeOpen_only (s : State) (r : Nat) {pp : List Part} {z : State} (hw : within [.qu, .er, .dp, .hp] pp = true) :
    Only pp z (chargeOpen s r) = Only pp z s :=
  only_iff (by unfold chargeOpen; first | exact forEach_base _ _ (fun y a => by dsimp only; split <;> simp) _ | (simp; exact forEach_base _ _ (fun y a => by dsimp only; split <;> simp) _)) hw
@[simp] theorem journalCheck_only (s : State) {pp : List Part} {z : State} (hw : within [.qu, .er, .dp, .hp] pp = true) :
    Only pp z (journalCheck s) = Only pp z s :=
  only_iff (by simp (maxDischargeDepth := 9) [journalCheck]) hw
@[simp] theorem powerUp_only (s : State) {pp : List Part} {z : State} (hw : within [.qu, .er, .dp, .hp] pp = true) :
    Only pp z (powerUp s) = Only pp z s :=
  only_iff (by simp [powerUp]) hw
theorem execDisplayPowerUp_only (s : State) (u : State) (hx : execDisplayPowerUp s = .next u) : Only [.qu, .er, .dp, .hp] s u := by
  unfold execDisplayPowerUp at hx; (repeat' split at hx) <;> first | (rw [← Host.Outcome.next.inj hx]; simp; done) | cases hx
theorem execRailRetry_only (s : State) (u : State) (hx : execRailRetry s = .next u) : Only [.qu, .er, .dp, .hp] s u := by
  unfold execRailRetry at hx; (repeat' split at hx) <;> first | (rw [← Host.Outcome.next.inj hx]; simp; done) | cases hx
@[simp] theorem startClears_only (s : State) {pp : List Part} {z : State} (hw : within [.dp, .fresh] pp = true) :
    Only pp z (startClears s) = Only pp z s :=
  only_iff (by simp [startClears]) hw
theorem execRailGood_only (rail : Nat) (s : State) (u : State) (hx : execRailGood rail s = .next u) : Only [.dp, .fresh] s u := by
  unfold execRailGood at hx; (repeat' split at hx) <;> first | (rw [← Host.Outcome.next.inj hx]; simp; done) | cases hx
@[simp] theorem cutDrive_only (s : State) {pp : List Part} {z : State} (hw : within [.dp] pp = true) :
    Only pp z (cutDrive s) = Only pp z s :=
  only_iff (by simp [cutDrive]) hw
theorem execRailFault_only (rail : Nat) (s : State) (u : State) (hx : execRailFault rail s = .next u) : Only [.qu, .er, .dp, .hp] s u := by
  unfold execRailFault at hx; (repeat' split at hx) <;> first | (rw [← Host.Outcome.next.inj hx]; simp; done) | cases hx
theorem execDisplayPowerDown_only (forced : Bool) (s : State) (u : State) (hx : execDisplayPowerDown forced s = .next u) : Only [.dp] s u := by
  unfold execDisplayPowerDown at hx; (repeat' split at hx) <;> first | (rw [← Host.Outcome.next.inj hx]; simp; done) | cases hx
theorem execRailDischarged_only (rail : Nat) (s : State) (u : State) (hx : execRailDischarged rail s = .next u) : Only [.dp] s u := by
  unfold execRailDischarged at hx; (repeat' split at hx) <;> first | (rw [← Host.Outcome.next.inj hx]; simp; done) | cases hx
@[simp] theorem loadProfile_only (s : State) {pp : List Part} {z : State} (hw : within [.qu, .er, .dp, .hp] pp = true) :
    Only pp z (loadProfile s) = Only pp z s :=
  only_iff (by unfold loadProfile; dsimp only; (repeat' split) <;> simp) hw
theorem execPload_only (_req : Requester) (s : State) (u : State) (hx : execPload _req s = .next u) : Only [.qu, .er, .dp, .hp] s u := by
  unfold execPload at hx; rw [← Host.Outcome.next.inj hx]; simp

end Sys2Proof.Laws
end

