-- ==== Sys2Proof/Laws/OnlyScroll.lean ====
section
/-! SUPPORT. What each operation of Machine/Scroll.lean can change. -/

namespace Sys2Proof.Laws

open Sys2Proof.Machine

@[simp] theorem pairFailed_only (path : Nat) (s : State) (c : Option Crit) {pp : List Part} {z : State} (hw : within [.qu, .pl, .met, .ls, .bl, .tp, .er, .hp, .nv, .seal] pp = true) :
    Only pp z (pairFailed path s c) = Only pp z s :=
  only_iff (by unfold pairFailed; split <;> simp) hw
@[simp] theorem pairGood_only (s : State) {pp : List Part} {z : State} (hw : within [.ls, .er, .hp] pp = true) :
    Only pp z (pairGood s) = Only pp z s :=
  only_iff (by simp [pairGood]) hw
@[simp] theorem drawIndicators_only (s : State) {pp : List Part} {z : State} (hw : within [.qu, .pl, .met, .ls, .bl, .tp, .er, .dp, .hp, .nv, .seal] pp = true) :
    Only pp z (drawIndicators s) = Only pp z s :=
  only_iff (by simp [drawIndicators]) hw
@[simp] theorem drawItem_only (s : State) {pp : List Part} {z : State} (hw : within [.qu, .pl, .met, .ls, .bl, .tp, .er, .dp, .hp, .nv, .seal] pp = true) :
    Only pp z (drawItem s) = Only pp z s :=
  only_iff (by simp [drawItem]) hw
@[simp] theorem showItem_only (s : State) (i : Nat) {pp : List Part} {z : State} (hw : within [.qu, .pl, .met, .ls, .bl, .tp, .er, .dp, .hp, .nv, .seal] pp = true) :
    Only pp z (showItem s i) = Only pp z s :=
  only_iff (by simp [showItem]) hw
@[simp] theorem nextItem_only (s : State) {pp : List Part} {z : State} (hw : within [.qu, .pl, .met, .ls, .bl, .tp, .er, .dp, .hp, .nv, .seal] pp = true) :
    Only pp z (nextItem s) = Only pp z s :=
  only_iff (by simp [nextItem]) hw
theorem execItemRedraw_only (s : State) (u : State) (hx : execItemRedraw s = .next u) : Only [.qu, .pl, .met, .ls, .bl, .tp, .er, .dp, .hp, .nv, .seal] s u := by
  unfold execItemRedraw at hx; (repeat' split at hx) <;> first | (rw [← Host.Outcome.next.inj hx]; simp; done) | cases hx
theorem execScrollDwellExpiry_only (s : State) (u : State) (hx : execScrollDwellExpiry s = .next u) : Only [.qu, .pl, .met, .ls, .bl, .tp, .er, .dp, .hp, .nv, .seal] s u := by
  unfold execScrollDwellExpiry at hx; (repeat' split at hx) <;> first | (rw [← Host.Outcome.next.inj hx]; simp; done) | cases hx
theorem execButtonPress_only (s : State) (u : State) (hx : execButtonPress s = .next u) : Only [.qu, .pl, .met, .ls, .bl, .tp, .er, .dp, .hp, .nv, .seal] s u := by
  unfold execButtonPress at hx; (repeat' split at hx) <;> first | (rw [← Host.Outcome.next.inj hx]; simp; done) | cases hx
theorem execButtonLongPress_only (s : State) (u : State) (hx : execButtonLongPress s = .next u) : Only [.qu, .pl, .met, .ls, .bl, .tp, .er, .dp, .hp, .nv, .seal] s u := by
  unfold execButtonLongPress at hx; (repeat' split at hx) <;> first | (rw [← Host.Outcome.next.inj hx]; simp; done) | cases hx
theorem execAutoScrollResume_only (s : State) (u : State) (hx : execAutoScrollResume s = .next u) : Only [.dp] s u := by
  unfold execAutoScrollResume at hx; (repeat' split at hx) <;> first | (rw [← Host.Outcome.next.inj hx]; simp; done) | cases hx
@[simp] theorem displayTick_only (s : State) {pp : List Part} {z : State} (hw : within [.qu, .pl, .met, .ls, .bl, .tp, .er, .dp, .hp, .nv, .seal] pp = true) :
    Only pp z (displayTick s) = Only pp z s :=
  only_iff (by simp [displayTick]) hw

end Sys2Proof.Laws
end

