-- ==== Sys2Proof/Laws/OnlyTimebase.lean ====
section
/-! SUPPORT. What each operation of Machine/Timebase.lean can change. -/

namespace Sys2Proof.Laws

open Sys2Proof.Machine

@[simp] theorem enterRelock_only (s : State) {pp : List Part} {z : State} (hw : within [.tb] pp = true) :
    Only pp z (enterRelock s) = Only pp z s :=
  only_iff (by simp [enterRelock]) hw
@[simp] theorem enterHoldover_only (s : State) {pp : List Part} {z : State} (hw : within [.tb, .qu, .er, .hp] pp = true) :
    Only pp z (enterHoldover s) = Only pp z s :=
  only_iff (by simp [enterHoldover]) hw
@[simp] theorem armJump_only (s : State) (ann : Frame) (j : Frame × Frame) {pp : List Part} {z : State} (hw : within [.tb, .qu, .ls, .er, .hp, .nv] pp = true) :
    Only pp z (armJump s ann j) = Only pp z s :=
  only_iff (by simp [armJump]) hw
@[simp] theorem noteJump_only (s : State) (m : Frame) (n : Nat) {pp : List Part} {z : State} (hw : within [.tb, .qu, .er, .hp] pp = true) :
    Only pp z (noteJump s m n) = Only pp z s :=
  only_iff (by simp [noteJump]) hw
@[simp] theorem announceJump_only (s : State) (n : Nat) {pp : List Part} {z : State} (hw : within [.tb, .qu, .ls, .er, .hp, .nv] pp = true) :
    Only pp z (announceJump s n) = Only pp z s :=
  only_iff (by simp [announceJump]) hw
@[simp] theorem nextNumber_only (s : State) {pp : List Part} {z : State} (hw : within [.tb, .qu, .ls, .er, .hp, .nv, .frame] pp = true) :
    Only pp z (nextNumber s) = Only pp z s :=
  only_iff (by unfold nextNumber; dsimp only; (repeat' split) <;> simp) hw
@[simp] theorem takeReport_only (s : State) (number : Frame) {pp : List Part} {z : State} (hw : within [.tb, .qu, .ls, .er, .hp, .nv] pp = true) :
    Only pp z (takeReport s number) = Only pp z s :=
  only_iff (by unfold takeReport; split <;> simp) hw
@[simp] theorem sendReport_only (s : State) (src d : Nat) {pp : List Part} {z : State} (hw : within [.cb] pp = true) :
    Only pp z (sendReport s src d) = Only pp z s :=
  only_iff (by simp [sendReport]) hw
theorem execReport_only (src : Nat) (number : Frame) (s : State) (u : State) (hx : execReport src number s = .next u) : Only [.tb, .qu, .ls, .er, .hp, .cb, .nv] s u := by
  unfold execReport at hx; rw [← Host.Outcome.next.inj hx]; simp
theorem execRelockPairing_only (parent : Frame) (phase : Int) (s : State) (u : State) (hx : execRelockPairing parent phase s = .next u) : Only [.tb, .qu, .ls, .er, .hp, .cb, .nv] s u := by
  unfold execRelockPairing at hx; (repeat' split at hx) <;> first | (rw [← Host.Outcome.next.inj hx]; simp; done) | cases hx
theorem execFrameRenumber_only (s : State) (u : State) (hx : execFrameRenumber s = .next u) : Only [.tb, .qu, .er, .hp, .cb, .frame] s u := by
  unfold execFrameRenumber at hx; (repeat' split at hx) <;> first | (rw [← Host.Outcome.next.inj hx]; simp; done) | cases hx
@[simp] theorem applyMarker_only (s : State) (m : Marker) {pp : List Part} {z : State} (hw : within [.tb, .qu, .ls, .er, .hp, .cb, .nv, .fresh] pp = true) :
    Only pp z (applyMarker s m) = Only pp z s :=
  only_iff (by unfold applyMarker; split <;> simp) hw
theorem execMarkerReceive_only (m : Marker) (s : State) (u : State) (hx : execMarkerReceive m s = .next u) : Only [.tb, .qu, .ls, .er, .hp, .cb, .nv, .fresh] s u := by
  unfold execMarkerReceive at hx; (repeat' split at hx) <;> first | (rw [← Host.Outcome.next.inj hx]; simp; done) | cases hx
theorem execTimebaseLock_only (s : State) (u : State) (hx : execTimebaseLock s = .next u) : Only [.tb] s u := by
  unfold execTimebaseLock at hx; (repeat' split at hx) <;> first | (rw [← Host.Outcome.next.inj hx]; simp; done) | cases hx
theorem execAcquireTimeout_only (s : State) (u : State) (hx : execAcquireTimeout s = .next u) : Only [.tb] s u := by
  unfold execAcquireTimeout at hx; (repeat' split at hx) <;> first | (rw [← Host.Outcome.next.inj hx]; simp; done) | cases hx
theorem execMissingMarkerTimeout_only (s : State) (u : State) (hx : execMissingMarkerTimeout s = .next u) : Only [.tb, .qu, .er, .hp] s u := by
  unfold execMissingMarkerTimeout at hx; (repeat' split at hx) <;> first | (rw [← Host.Outcome.next.inj hx]; simp; done) | cases hx
@[simp] theorem startBurst_only (s : State) {pp : List Part} {z : State} (hw : within [.tb] pp = true) :
    Only pp z (startBurst s) = Only pp z s :=
  only_iff (by simp [startBurst]) hw
theorem execProbeBurst_only (s : State) (u : State) (hx : execProbeBurst s = .next u) : Only [.tb] s u := by
  unfold execProbeBurst at hx; rw [← Host.Outcome.next.inj hx]; simp
theorem execProbeTimer_only (s : State) (u : State) (hx : execProbeTimer s = .next u) : Only [.tb, .cb] s u := by
  unfold execProbeTimer at hx; (repeat' split at hx) <;> first | (rw [← Host.Outcome.next.inj hx]; simp; done) | cases hx
theorem execProbe_only (port t2 t3 : Nat) (s : State) (u : State) (hx : execProbe port t2 t3 s = .next u) : Only [.cb] s u := by
  unfold execProbe at hx; (repeat' split at hx) <;> first | (rw [← Host.Outcome.next.inj hx]; simp; done) | cases hx
theorem execProbeReply_only (t1 t2 t3 t4 : Int) (s : State) (u : State) (hx : execProbeReply t1 t2 t3 t4 s = .next u) : Only [.tb] s u := by
  unfold execProbeReply at hx; rw [← Host.Outcome.next.inj hx]; simp
@[simp] theorem sendMarker_only (s : State) (p : Nat) {pp : List Part} {z : State} (hw : within [.tb, .fresh] pp = true) :
    Only pp z (sendMarker s p) = Only pp z s :=
  only_iff (by simp [sendMarker]) hw
@[simp] theorem sendMarkers_only (s : State) {pp : List Part} {z : State} (hw : within [.tb, .fresh] pp = true) :
    Only pp z (sendMarkers s) = Only pp z s :=
  only_iff (by simp [sendMarkers]) hw
@[simp] theorem markerTick_only (s : State) {pp : List Part} {z : State} (hw : within [.tb] pp = true) :
    Only pp z (markerTick s) = Only pp z s :=
  only_iff (by simp [markerTick]) hw
@[simp] theorem slewTick_only (s : State) {pp : List Part} {z : State} (hw : within [.tb] pp = true) :
    Only pp z (slewTick s) = Only pp z s :=
  only_iff (by simp [slewTick]) hw
@[simp] theorem timebaseTick_only (s : State) {pp : List Part} {z : State} (hw : within [.tb, .qu, .ls, .er, .hp, .nv, .fresh, .frame] pp = true) :
    Only pp z (timebaseTick s) = Only pp z s :=
  only_iff (by simp [timebaseTick]) hw

end Sys2Proof.Laws
end

