-- ==== Sys2Proof/Laws/OnlyModes.lean ====
section
/-! SUPPORT. What each operation of Machine/Modes.lean can change. -/

namespace Sys2Proof.Laws

open Sys2Proof.Machine

@[simp] theorem enterState_only (s : State) (st : OpState) {pp : List Part} {z : State} (hw : within [.sup, .qu, .er, .hp, .mode] pp = true) :
    Only pp z (enterState s st) = Only pp z s :=
  only_iff (by simp [enterState]) hw
@[simp] theorem noEff_only (s : State) (req : Requester) {pp : List Part} {z : State} (hw : within [.hp] pp = true) :
    Only pp z (noEff s req) = Only pp z s :=
  only_iff (by simp [noEff]) hw
@[simp] theorem calRevert_only (s : State) {pp : List Part} {z : State} (hw : within [.sup, .qu, .met, .er, .hp] pp = true) :
    Only pp z (calRevert s) = Only pp z s :=
  only_iff (by simp [calRevert]) hw
@[simp] theorem testEntry_only (s : State) {pp : List Part} {z : State} (hw : within [.sup, .cv, .qu, .bl, .er, .hp, .mode] pp = true) :
    Only pp z (testEntry s) = Only pp z s :=
  only_iff (by simp [testEntry]) hw
@[simp] theorem testExit_only (s : State) {pp : List Part} {z : State} (hw : within [.sup, .cv, .qu, .ls, .bl, .er, .hp, .mode] pp = true) :
    Only pp z (testExit s) = Only pp z s :=
  only_iff (by simp [testExit]) hw
@[simp] theorem returnToRun_only (s : State) {pp : List Part} {z : State} (hw : within [.sup, .cv, .qu, .met, .ls, .bl, .er, .hp, .mode] pp = true) :
    Only pp z (returnToRun s) = Only pp z s :=
  only_iff (by unfold returnToRun; split <;> simp) hw
@[simp] theorem modeTick_only (s : State) {pp : List Part} {z : State} (hw : within [.sup, .cv, .qu, .met, .ls, .bl, .er, .hp, .mode] pp = true) :
    Only pp z (modeTick s) = Only pp z s :=
  only_iff (by unfold modeTick; dsimp only; (repeat' split) <;> simp) hw
@[simp] theorem mdRefuse_only (s : State) (reason : Nat) {pp : List Part} {z : State} (hw : within [.sup, .qu, .er, .hp] pp = true) :
    Only pp z (mdRefuse s reason) = Only pp z s :=
  only_iff (by simp [mdRefuse]) hw
@[simp] theorem mdApply_only (s : State) (w : Word) {pp : List Part} {z : State} (hw : within [.sup] pp = true) :
    Only pp z (mdApply s w) = Only pp z s :=
  only_iff (by unfold mdApply; dsimp only; (repeat' split) <;> simp) hw
@[simp] theorem dropModeReq_only (s : State) {pp : List Part} {z : State} (hw : within [.sup, .qu, .er, .hp] pp = true) :
    Only pp z (dropModeReq s) = Only pp z s :=
  only_iff (by simp [dropModeReq]) hw
theorem execFaultySliceReset_only (s : State) (u : State) (hx : execFaultySliceReset s = .next u) : Only [.sup, .cv, .qu, .er, .hp] s u := by
  unfold execFaultySliceReset at hx; (repeat' split at hx) <;> first | (rw [← Host.Outcome.next.inj hx]; simp; done) | cases hx
@[simp] theorem fwReset_only (s : State) (req : Requester) {pp : List Part} {z : State} (hw : within [.sup, .hp] pp = true) :
    Only pp z (fwReset s req) = Only pp z s :=
  only_iff (by simp [fwReset]) hw
theorem execReset_only (req : Requester) (s : State) (u : State) (hx : execReset req s = .next u) : Only [.sup, .hp] s u := by
  unfold execReset at hx; rw [← Host.Outcome.next.inj hx]; simp
theorem execConfirmTimeout_only (app : Bool) (s : State) (u : State) (hx : execConfirmTimeout app s = .next u) : Only [.sup, .tr] s u := by
  unfold execConfirmTimeout at hx; (repeat' split at hx) <;> first | (rw [← Host.Outcome.next.inj hx]; simp; done) | cases hx
theorem execPowerFailWarning_only (pin : Bool) (s : State) (u : State) (hx : execPowerFailWarning pin s = .next u) : Only [.sup, .hp, .cb] s u := by
  unfold execPowerFailWarning at hx; (repeat' split at hx) <;> first | (rw [← Host.Outcome.next.inj hx]; simp; done) | cases hx
@[simp] theorem enterStep_only (t : Int) (s : State) (k : Nat) {pp : List Part} {z : State} (hw : within [.sup, .qu, .er, .hp] pp = true) :
    Only pp z (enterStep t s k) = Only pp z s :=
  only_iff (by simp [enterStep]) hw
@[simp] theorem releasePorts_only (was : Nat) (s : State) {pp : List Part} {z : State} (hw : within [.cb] pp = true) :
    Only pp z (releasePorts was s) = Only pp z s :=
  only_iff (by simp [releasePorts]) hw
theorem execThermalSample_only (t : Int) (s : State) (u : State) (hx : execThermalSample t s = .next u) : Only [.sup, .qu, .er, .hp, .cb] s u := by
  unfold execThermalSample at hx; (try dsimp only at hx); (repeat' split at hx) <;> first | (rw [← Host.Outcome.next.inj hx]; simp (maxDischargeDepth := 9); done) | cases hx
@[simp] theorem legalExpiry_only (s : State) {pp : List Part} {z : State} (hw : within [.sup, .qu, .er, .hp] pp = true) :
    Only pp z (legalExpiry s) = Only pp z s :=
  only_iff (by simp [legalExpiry]) hw
theorem execLegalWatchdogExpiry_only (s : State) (u : State) (hx : execLegalWatchdogExpiry s = .next u) : Only [.sup, .qu, .er, .hp] s u := by
  unfold execLegalWatchdogExpiry at hx; (repeat' split at hx) <;> first | (rw [← Host.Outcome.next.inj hx]; simp; done) | cases hx
@[simp] theorem kickLegal_only (s : State) (req : Requester) (w : Word) {pp : List Part} {z : State} (hw : within [.sup, .qu, .er, .hp] pp = true) :
    Only pp z (kickLegal s req w) = Only pp z s :=
  only_iff (by simp [kickLegal]) hw
theorem execWdlkick_only (req : Requester) (w : Word) (s : State) (u : State) (hx : execWdlkick req w s = .next u) : Only [.sup, .qu, .er, .hp] s u := by
  unfold execWdlkick at hx; rw [← Host.Outcome.next.inj hx]; simp
@[simp] theorem abandonPlan_only (s : State) {pp : List Part} {z : State} (hw : within [.qu, .pl, .met, .ls, .bl, .tp, .er, .hp, .nv, .seal] pp = true) :
    Only pp z (abandonPlan s) = Only pp z s :=
  only_iff (by unfold abandonPlan; (try dsimp only); (repeat' (first | (simp (maxDischargeDepth := 9); done) | split))) hw
@[simp] theorem abandonFw_only (s : State) {pp : List Part} {z : State} (hw : within [.tr] pp = true) :
    Only pp z (abandonFw s) = Only pp z s :=
  only_iff (by simp [abandonFw]) hw
@[simp] theorem appExpiry_only (s : State) {pp : List Part} {z : State} (hw : within [.sup, .qu, .pl, .met, .ls, .bl, .tp, .er, .tr, .hp, .ser, .nv, .seal] pp = true) :
    Only pp z (appExpiry s) = Only pp z s :=
  only_iff (by simp [appExpiry]) hw
theorem execAppWatchdogExpiry_only (s : State) (u : State) (hx : execAppWatchdogExpiry s = .next u) : Only [.sup, .qu, .pl, .met, .ls, .bl, .tp, .er, .tr, .hp, .ser, .nv, .seal] s u := by
  unfold execAppWatchdogExpiry at hx; (repeat' split at hx) <;> first | (rw [← Host.Outcome.next.inj hx]; simp; done) | cases hx
@[simp] theorem kickApp_only (s : State) (req : Requester) (w : Word) {pp : List Part} {z : State} (hw : within [.sup, .qu, .pl, .met, .ls, .bl, .tp, .er, .tr, .hp, .ser, .nv, .seal] pp = true) :
    Only pp z (kickApp s req w) = Only pp z s :=
  only_iff (by simp [kickApp]) hw
theorem execWdakick_only (req : Requester) (w : Word) (s : State) (u : State) (hx : execWdakick req w s = .next u) : Only [.sup, .qu, .pl, .met, .ls, .bl, .tp, .er, .tr, .hp, .ser, .nv, .seal] s u := by
  unfold execWdakick at hx; rw [← Host.Outcome.next.inj hx]; simp

end Sys2Proof.Laws
end

