-- ==== Sys2Proof/Laws/OnlyPower.lean ====
section
/-! SUPPORT. What each operation of Machine/Power.lean can change. -/

namespace Sys2Proof.Laws

open Sys2Proof.Machine

@[simp] theorem commitBounds_only (s : State) {pp : List Part} {z : State} (hw : within [.qu, .bl, .er, .hp] pp = true) :
    Only pp z (commitBounds s) = Only pp z s :=
  only_iff (by simp [commitBounds]) hw
@[simp] theorem commitStops_only (s : State) {pp : List Part} {z : State} (hw : within [.sup, .qu, .met, .pq, .er, .dp, .hp] pp = true) :
    Only pp z (commitStops s) = Only pp z s :=
  only_iff (by simp [commitStops]) hw
@[simp] theorem commitDone_only (s : State) (dur : Nat) {pp : List Part} {z : State} (hw : within [.sup, .nv, .mode] pp = true) :
    Only pp z (commitDone s dur) = Only pp z s :=
  only_iff (by simp [commitDone]) hw
theorem execPowerFailCommit_only (dur : Nat) (s : State) (u : State) (hx : execPowerFailCommit dur s = .next u) : Only [.sup, .qu, .pl, .met, .pq, .ls, .bl, .tp, .er, .dp, .hp, .nv, .mode, .seal] s u := by
  unfold execPowerFailCommit at hx; (repeat' split at hx) <;> first | (rw [← Host.Outcome.next.inj hx]; simp; done) | cases hx
theorem execMainPowerLoss_only (s : State) (u : State) (hx : execMainPowerLoss s = .next u) : Only [.sup, .mode] s u := by
  unfold execMainPowerLoss at hx; (repeat' split at hx) <;> first | (rw [← Host.Outcome.next.inj hx]; simp; done) | cases hx
theorem execSlatePowerLoss_only (s : State) (u : State) (hx : execSlatePowerLoss s = .next u) : Only [.sup, .rtc, .tp, .er, .mode, .seal, .clock] s u := by
  unfold execSlatePowerLoss at hx; (repeat' split at hx) <;> first | (rw [← Host.Outcome.next.inj hx]; simp; done) | cases hx
@[simp] theorem bootFrame_only (s : State) {pp : List Part} {z : State} (hw : within [.tb, .qu, .ls, .bl, .er, .hp, .nv, .frame] pp = true) :
    Only pp z (bootFrame s) = Only pp z s :=
  only_iff (by simp [bootFrame]) hw
@[simp] theorem bootParts_only (s : State) (ok : Bool) {pp : List Part} {z : State} (hw : within [.sup, .tb, .fe, .cv, .qu, .pl, .met, .pq, .ls, .bl, .tp, .er, .dp, .tr, .hp, .ser, .cb, .frame, .mode, .seal, .plan] pp = true) :
    Only pp z (bootParts s ok) = Only pp z s :=
  only_iff (by intro p hp; cases p <;> first | rfl | cases hp) hw
@[simp] theorem bootSelector_only (s : State) {pp : List Part} {z : State} (hw : within [.qu, .pl, .met, .ls, .bl, .er, .hp, .nv] pp = true) :
    Only pp z (bootSelector s) = Only pp z s :=
  only_iff (by unfold bootSelector; dsimp only; (repeat' split) <;> simp) hw
@[simp] theorem bootPlan_only (s : State) {pp : List Part} {z : State} (hw : within [.pl, .plan] pp = true) :
    Only pp z (bootPlan s) = Only pp z s :=
  only_iff (by simp [bootPlan]) hw
@[simp] theorem bootReset_only (s : State) {pp : List Part} {z : State} (hw : within [.sup, .tb, .fe, .cv, .qu, .pl, .met, .pq, .ls, .bl, .rtc, .tp, .er, .dp, .tr, .hp, .ser, .cb, .nv, .fresh, .frame, .mode, .seal, .plan, .clock] pp = true) :
    Only pp z (bootReset s) = Only pp z s :=
  only_iff (by simp [bootReset]) hw
theorem execPowerOn_only (clksel : Bool) (s : State) (u : State) (hx : execPowerOn clksel s = .next u) : Only [.sup, .tb, .fe, .cv, .qu, .pl, .met, .pq, .ls, .bl, .rtc, .tp, .er, .dp, .tr, .hp, .ser, .cb, .nv, .fresh, .frame, .mode, .seal, .plan, .clock] s u := by
  unfold execPowerOn at hx; (repeat' split at hx) <;> first | (rw [← Host.Outcome.next.inj hx]; simp; done) | cases hx
theorem execResetRelease_only (s : State) (u : State) (hx : execResetRelease s = .next u) : Only [.sup, .tb, .fe, .cv, .qu, .pl, .met, .pq, .ls, .bl, .rtc, .tp, .er, .dp, .tr, .hp, .ser, .cb, .nv, .fresh, .frame, .mode, .seal, .plan, .clock] s u := by
  unfold execResetRelease at hx; (repeat' split at hx) <;> first | (rw [← Host.Outcome.next.inj hx]; simp; done) | cases hx
@[simp] theorem bootKey_only (s : State) (keyOk : Bool) (pub : List Byte) {pp : List Part} {z : State} (hw : within [.qu, .er, .tr, .hp, .fresh] pp = true) :
    Only pp z (bootKey s keyOk pub) = Only pp z s :=
  only_iff (by unfold bootKey; dsimp only; (repeat' split) <;> simp) hw
@[simp] theorem failSlot_only (s : State) (n : Nat) (bin : Option Int) {pp : List Part} {z : State} (hw : within [.qu, .er, .tr, .hp] pp = true) :
    Only pp z (failSlot s n bin) = Only pp z s :=
  only_iff (by simp [failSlot]) hw
@[simp] theorem bootMark_only (s : State) (app : Bool) {pp : List Part} {z : State} (hw : within [.qu, .er, .tr, .hp] pp = true) :
    Only pp z (bootMark s app) = Only pp z s :=
  only_iff (by simp [bootMark]) hw
@[simp] theorem tryBoot_only (s : State) (app b : Bool) {pp : List Part} {z : State} (hw : within [.qu, .er, .tr, .hp] pp = true) :
    Only pp z (tryBoot s app b).1 = Only pp z s :=
  only_iff (by unfold tryBoot; dsimp only; (repeat' split) <;> simp) hw
@[simp] theorem selectBoot_only (s : State) (app : Bool) {pp : List Part} {z : State} (hw : within [.qu, .er, .tr, .hp] pp = true) :
    Only pp z (selectBoot s app).1 = Only pp z s :=
  only_iff (by unfold selectBoot; dsimp only; split
               · rename_i h; have e := congrArg Prod.fst h; simp only at e; simp [← e]
               · rename_i h; have e := congrArg Prod.fst h; simp only at e; split
                 · rename_i k; have d := congrArg Prod.fst k; simp only at d; simp [← d, ← e]
                 · rename_i k; have d := congrArg Prod.fst k; simp only at d; simp [← d, ← e]) hw
@[simp] theorem bootCheck_only (s : State) (legalOk : Bool) {pp : List Part} {z : State} (hw : within [.tr] pp = true) :
    Only pp z (bootCheck s legalOk) = Only pp z s :=
  only_iff (by simp [bootCheck]) hw
@[simp] theorem bootMeasure_only (s : State) (legalOk appOk : Bool) {pp : List Part} {z : State} (hw : within [.tr] pp = true) :
    Only pp z (bootMeasure s legalOk appOk) = Only pp z s :=
  only_iff (by simp [bootMeasure]) hw
theorem execBootStages_only (keyOk : Bool) (pub : List Byte) (s : State) (u : State) (hx : execBootStages keyOk pub s = .next u) : Only [.sup, .qu, .er, .tr, .hp, .fresh] s u := by
  unfold execBootStages at hx; (repeat' split at hx) <;> first | (rw [← Host.Outcome.next.inj hx]; simp; done) | cases hx
@[simp] theorem startTimebase_only (s : State) {pp : List Part} {z : State} (hw : within [.tb, .hp] pp = true) :
    Only pp z (startTimebase s) = Only pp z s :=
  only_iff (by simp [startTimebase]) hw
@[simp] theorem safeInForce_only (s : State) {pp : List Part} {z : State} (hw : within [.fe, .cv, .qu, .pl, .met, .pq, .er, .hp, .plan] pp = true) :
    Only pp z (safeInForce s) = Only pp z s :=
  only_iff (by simp [safeInForce]) hw
theorem execBootComplete_only (s : State) (u : State) (hx : execBootComplete s = .next u) : Only [.sup, .tb, .fe, .cv, .qu, .pl, .met, .pq, .er, .tr, .hp, .mode, .plan] s u := by
  unfold execBootComplete at hx; (repeat' split at hx) <;> first | (rw [← Host.Outcome.next.inj hx]; simp; done) | cases hx
@[simp] theorem shadowReverify_only (s : State) {pp : List Part} {z : State} (hw : within [.pl, .hp, .nv] pp = true) :
    Only pp z (shadowReverify s) = Only pp z s :=
  only_iff (by simp [shadowReverify]) hw
@[simp] theorem discardReport_only (s : State) {pp : List Part} {z : State} (hw : within [.qu, .pl, .met, .ls, .bl, .tp, .er, .hp, .nv, .seal] pp = true) :
    Only pp z (discardReport s) = Only pp z s :=
  only_iff (by simp [discardReport]) hw
@[simp] theorem commitReport_only (s : State) {pp : List Part} {z : State} (hw : within [.sup, .qu, .er, .hp] pp = true) :
    Only pp z (commitReport s) = Only pp z s :=
  only_iff (by simp [commitReport]) hw
@[simp] theorem reserveAgain_only (s : State) {pp : List Part} {z : State} (hw : within [.er] pp = true) :
    Only pp z (reserveAgain s) = Only pp z s :=
  only_iff (by simp [reserveAgain]) hw
@[simp] theorem drawSeeds_only (s : State) {pp : List Part} {z : State} (hw : within [.pq, .fresh] pp = true) :
    Only pp z (drawSeeds s) = Only pp z s :=
  only_iff (by simp [drawSeeds]) hw
@[simp] theorem startStep1_only (s : State) {pp : List Part} {z : State} (hw : within [.sup, .fe, .cv, .qu, .pl, .met, .pq, .ls, .bl, .tp, .er, .hp, .ser, .nv, .fresh, .seal, .plan] pp = true) :
    Only pp z (startStep1 s) = Only pp z s :=
  only_iff (by simp [startStep1]) hw
@[simp] theorem startStep2_only (s : State) (failA failB : Bool) {pp : List Part} {z : State} (hw : within [.sup, .cv, .qu, .ls, .er, .hp] pp = true) :
    Only pp z (startStep2 s failA failB) = Only pp z s :=
  only_iff (by unfold startStep2 startStep2.startSinc; dsimp only; (repeat' split) <;> simp) hw
@[simp] theorem startStep3_only (s : State) {pp : List Part} {z : State} (hw : within [.sup, .cv] pp = true) :
    Only pp z (startStep3 s) = Only pp z s :=
  only_iff (by simp [startStep3]) hw
theorem execStartSequence_only (katA katB : Bool) (s : State) (u : State) (hx : execStartSequence katA katB s = .next u) : Only [.sup, .fe, .cv, .qu, .pl, .met, .pq, .ls, .bl, .tp, .er, .hp, .ser, .nv, .fresh, .seal, .plan] s u := by
  unfold execStartSequence at hx; (repeat' split at hx) <;> first | (rw [← Host.Outcome.next.inj hx]; simp; done) | cases hx
@[simp] theorem restoreClockSet_only (s : State) {pp : List Part} {z : State} (hw : within [.qu, .er, .hp] pp = true) :
    Only pp z (restoreClockSet s) = Only pp z s :=
  only_iff (by unfold restoreClockSet; dsimp only; (repeat' split) <;> simp) hw
@[simp] theorem restoreLatches_only (s : State) {pp : List Part} {z : State} (hw : within [.sup, .qu, .bl, .rtc, .tp, .er, .hp, .ser] pp = true) :
    Only pp z (restoreLatches s) = Only pp z s :=
  only_iff (by simp [restoreLatches]) hw
@[simp] theorem leaveStart_only (s : State) {pp : List Part} {z : State} (hw : within [.sup] pp = true) :
    Only pp z (leaveStart s) = Only pp z s :=
  only_iff (by simp [leaveStart]) hw
@[simp] theorem restoreFallback_only (s : State) {pp : List Part} {z : State} (hw : within [.qu, .bl, .er, .hp] pp = true) :
    Only pp z (restoreFallback s) = Only pp z s :=
  only_iff (by simp [restoreFallback]) hw
theorem execRunEntry_only (s : State) (u : State) (hx : execRunEntry s = .next u) : Only [.sup, .qu, .pl, .met, .pq, .ls, .bl, .rtc, .tp, .er, .hp, .ser, .nv, .mode, .seal, .plan] s u := by
  unfold execRunEntry at hx; split at hx
  · rw [← Host.Outcome.next.inj hx]; simp
  · rw [← Host.Outcome.next.inj hx]; exact only_refl _ _
@[simp] theorem recoveryTariff_only (s : State) {pp : List Part} {z : State} (hw : within [.bl] pp = true) :
    Only pp z (recoveryTariff s) = Only pp z s :=
  only_iff (by simp [recoveryTariff]) hw
@[simp] theorem recoveryPlan_only (s : State) {pp : List Part} {z : State} (hw : within [.fe, .cv, .qu, .pl, .met, .pq, .er, .tr, .hp, .plan] pp = true) :
    Only pp z (recoveryPlan s) = Only pp z s :=
  only_iff (by simp [recoveryPlan]) hw
theorem execRecoveryEntry_only (s : State) (u : State) (hx : execRecoveryEntry s = .next u) : Only [.sup, .fe, .cv, .qu, .pl, .met, .pq, .ls, .bl, .rtc, .tp, .er, .tr, .hp, .ser, .nv, .mode, .seal, .plan] s u := by
  unfold execRecoveryEntry at hx; split at hx
  · rw [← Host.Outcome.next.inj hx]; exact only_refl _ _
  · split at hx
    · rw [← Host.Outcome.next.inj hx]; exact only_refl _ _
    · rw [← Host.Outcome.next.inj hx]; simp

end Sys2Proof.Laws
end

