-- ==== Sys2Proof/Laws/OnlyRequests.lean ====
section
/-! SUPPORT. What each operation of Machine/Requests.lean can change. -/

namespace Sys2Proof.Laws

open Sys2Proof.Machine

@[simp] theorem cfgEntry_only (s : State) (a : Nat) (old new : Word) {pp : List Part} {z : State} (hw : within [.er, .hp] pp = true) :
    Only pp z (cfgEntry s a old new) = Only pp z s :=
  only_iff (by simp [cfgEntry]) hw
@[simp] theorem calPut_only (s : State) (a : Nat) (w : Word) {pp : List Part} {z : State} (hw : within [.met] pp = true) :
    Only pp z (calPut s a w) = Only pp z s :=
  only_iff (by simp [calPut]) hw
@[simp] theorem calCtl_only (s : State) (w : Word) {pp : List Part} {z : State} (hw : within [.qu, .met, .pq, .ls, .tp, .er, .tr, .hp, .nv] pp = true) :
    Only pp z (calCtl s w) = Only pp z s :=
  only_iff (by simp [calCtl]) hw
@[simp] theorem reinApply_only (s : State) (w : Word) {pp : List Part} {z : State} (hw : within [.ls, .tp, .er, .hp] pp = true) :
    Only pp z (reinApply s w) = Only pp z s :=
  only_iff (by simp [reinApply]) hw
@[simp] theorem clrApply_only (s : State) (w : Word) {pp : List Part} {z : State} (hw : within [.tp, .er, .hp] pp = true) :
    Only pp z (clrApply s w) = Only pp z s :=
  only_iff (by simp [clrApply]) hw
@[simp] theorem erlApply_only (s : State) (code : Nat) (w : Word) {pp : List Part} {z : State} (hw : within [.er] pp = true) :
    Only pp z (erlApply s code w) = Only pp z s :=
  only_iff (by simp [erlApply]) hw
@[simp] theorem rwlApply_only (s : State) (a : Nat) (w : Word) {pp : List Part} {z : State} (hw : within [.sup, .qu, .met, .pq, .ls, .bl, .tp, .er, .dp, .tr, .hp, .nv] pp = true) :
    Only pp z (rwlApply s a w) = Only pp z s :=
  only_iff (by unfold rwlApply; split <;> simp) hw
@[simp] theorem clrRefused_only (s : State) (bin : Option Int) {pp : List Part} {z : State} (hw : within [.qu, .tp, .er, .hp] pp = true) :
    Only pp z (clrRefused s bin) = Only pp z s :=
  only_iff (by simp [clrRefused]) hw
@[simp] theorem rwlRefuse_only (s : State) (a : Nat) (w : Word) {pp : List Part} {z : State} (hw : within [.sup, .qu, .met, .ls, .tp, .er, .hp] pp = true) :
    Only pp z (rwlRefuse s a w) = Only pp z s :=
  only_iff (by unfold rwlRefuse; dsimp only; (repeat' split) <;> simp) hw
@[simp] theorem refuseRwl_only (s : State) (r : RwlReq) {pp : List Part} {z : State} (hw : within [.sup, .qu, .met, .ls, .tp, .er, .hp] pp = true) :
    Only pp z (refuseRwl s r) = Only pp z s :=
  only_iff (by simp [refuseRwl]) hw
@[simp] theorem answerRwl_only (s : State) (r : RwlReq) {pp : List Part} {z : State} (hw : within [.sup, .qu, .met, .ls, .tp, .er, .hp] pp = true) :
    Only pp z (answerRwl s r) = Only pp z s :=
  only_iff (by simp [answerRwl]) hw
@[simp] theorem applyRwl_only (s : State) {pp : List Part} {z : State} (hw : within [.sup, .qu, .met, .pq, .ls, .bl, .tp, .er, .dp, .tr, .hp, .nv] pp = true) :
    Only pp z (applyRwl s) = Only pp z s :=
  only_iff (by simp (maxDischargeDepth := 9) [applyRwl]) hw
@[simp] theorem dropRwl_only (s : State) {pp : List Part} {z : State} (hw : within [.sup, .qu, .met, .ls, .tp, .er, .hp] pp = true) :
    Only pp z (dropRwl s) = Only pp z s :=
  only_iff (by simp [dropRwl]) hw
@[simp] theorem postRwl_only (s : State) (req : Requester) (ws : List (Nat × Word)) {pp : List Part} {z : State} (hw : within [.sup, .qu, .met, .ls, .tp, .er, .hp] pp = true) :
    Only pp z (postRwl s req ws) = Only pp z s :=
  only_iff (by simp [postRwl]) hw
theorem postOne_only (s : State) (req : Requester) (ws : List (Nat × Word)) (u : State) (hx : postOne s req ws = .next u) : Only [.sup, .qu, .met, .ls, .tp, .er, .hp] s u := by
  unfold postOne at hx; rw [← Host.Outcome.next.inj hx]; simp
theorem execRwlRequestAnswer_only (s : State) (u : State) (hx : execRwlRequestAnswer s = .next u) : Only [.sup, .qu, .met, .ls, .tp, .er, .hp] s u := by
  unfold execRwlRequestAnswer at hx; (repeat' split at hx) <;> first | (rw [← Host.Outcome.next.inj hx]; simp; done) | cases hx
theorem execReinstate_only (req : Requester) (w : Word) (s : State) (u : State) (hx : execReinstate req w s = .next u) : Only [.sup, .qu, .met, .ls, .tp, .er, .hp] s u := by
  unfold execReinstate at hx; rw [← Host.Outcome.next.inj hx]; simp
theorem execClruv_only (req : Requester) (w : Word) (s : State) (u : State) (hx : execClruv req w s = .next u) : Only [.sup, .qu, .met, .ls, .tp, .er, .hp] s u := by
  unfold execClruv at hx; rw [← Host.Outcome.next.inj hx]; simp
theorem execTpclr_only (req : Requester) (w : Word) (s : State) (u : State) (hx : execTpclr req w s = .next u) : Only [.sup, .qu, .met, .ls, .tp, .er, .hp] s u := by
  unfold execTpclr at hx; rw [← Host.Outcome.next.inj hx]; simp
theorem execMdctlReqRun_only (req : Requester) (s : State) (u : State) (hx : execMdctlReqRun req s = .next u) : Only [.sup, .qu, .met, .ls, .tp, .er, .hp] s u := by
  unfold execMdctlReqRun at hx; rw [← Host.Outcome.next.inj hx]; simp
theorem execMdctlReqCalibrate_only (req : Requester) (s : State) (u : State) (hx : execMdctlReqCalibrate req s = .next u) : Only [.sup, .qu, .met, .ls, .tp, .er, .hp] s u := by
  unfold execMdctlReqCalibrate at hx; rw [← Host.Outcome.next.inj hx]; simp
theorem execMdctlReqTest_only (req : Requester) (s : State) (u : State) (hx : execMdctlReqTest req s = .next u) : Only [.sup, .qu, .met, .ls, .tp, .er, .hp] s u := by
  unfold execMdctlReqTest at hx; rw [← Host.Outcome.next.inj hx]; simp
theorem execRecov_only (req : Requester) (s : State) (u : State) (hx : execRecov req s = .next u) : Only [.sup, .qu, .met, .ls, .tp, .er, .hp] s u := by
  unfold execRecov at hx; rw [← Host.Outcome.next.inj hx]; simp
theorem execCalibrationWrite_only (req : Requester) (addr : Nat) (v n : Word) (s : State) (u : State) (hx : execCalibrationWrite req addr v n s = .next u) : Only [.sup, .qu, .met, .ls, .tp, .er, .hp] s u := by
  unfold execCalibrationWrite at hx; rw [← Host.Outcome.next.inj hx]; simp
theorem execCalctlCommit_only (req : Requester) (s : State) (u : State) (hx : execCalctlCommit req s = .next u) : Only [.sup, .qu, .met, .ls, .tp, .er, .hp] s u := by
  unfold execCalctlCommit at hx; rw [← Host.Outcome.next.inj hx]; simp
theorem execCalctlDiscard_only (req : Requester) (s : State) (u : State) (hx : execCalctlDiscard req s = .next u) : Only [.sup, .qu, .met, .ls, .tp, .er, .hp] s u := by
  unfold execCalctlDiscard at hx; rw [← Host.Outcome.next.inj hx]; simp
@[simp] theorem sealOpens_only (s : State) {pp : List Part} {z : State} (hw : within [.qu, .tp, .er, .hp, .seal] pp = true) :
    Only pp z (sealOpens s) = Only pp z s :=
  only_iff (by simp [sealOpens]) hw
@[simp] theorem sealDenied_only (s : State) (bin : Nat) {pp : List Part} {z : State} (hw : within [.qu, .tp, .er, .hp, .seal] pp = true) :
    Only pp z (sealDenied s bin) = Only pp z s :=
  only_iff (by simp [sealDenied]) hw
@[simp] theorem calCommit_only (s : State) {pp : List Part} {z : State} (hw : within [.qu, .met, .pq, .ls, .er, .tr, .hp, .nv] pp = true) :
    Only pp z (calCommit s) = Only pp z s :=
  only_iff (by simp [calCommit]) hw
@[simp] theorem stickyCleared_only (s : State) (mask : Nat) {pp : List Part} {z : State} (hw : within [.qu, .bl, .tp, .er, .hp] pp = true) :
    Only pp z (stickyCleared s mask) = Only pp z s :=
  only_iff (by simp [stickyCleared]) hw
@[simp] theorem reinstated_only (s : State) (w : Word) {pp : List Part} {z : State} (hw : within [.qu, .ls, .bl, .er, .hp] pp = true) :
    Only pp z (reinstated s w) = Only pp z s :=
  only_iff (by simp [reinstated]) hw
@[simp] theorem reinTick_only (s : State) {pp : List Part} {z : State} (hw : within [.qu, .ls, .bl, .er, .hp] pp = true) :
    Only pp z (reinTick s) = Only pp z s :=
  only_iff (by simp [reinTick]) hw
@[simp] theorem granted_only (s : State) (dd : Decision) {pp : List Part} {z : State} (hw : within [.qu, .pl, .met, .pq, .ls, .bl, .tp, .er, .tr, .hp, .cb, .nv, .seal] pp = true) :
    Only pp z (granted s dd) = Only pp z s :=
  only_iff (by unfold granted; split <;> (try split) <;> simp) hw
@[simp] theorem refused_only (s : State) (dd : Decision) {pp : List Part} {z : State} (hw : within [.qu, .pl, .met, .pq, .ls, .tp, .er, .tr, .hp, .cb, .nv, .seal] pp = true) :
    Only pp z (refused s dd) = Only pp z s :=
  only_iff (by unfold refused; split <;> (try split) <;> simp) hw
@[simp] theorem decide2_only (s : State) (d : PendDec) (second : Bool) {pp : List Part} {z : State} (hw : within [.qu, .pl, .met, .pq, .ls, .bl, .rtc, .tp, .er, .tr, .hp, .cb, .nv, .fresh, .seal] pp = true) :
    Only pp z (decide2 s d second) = Only pp z s :=
  only_iff (by unfold decide2; (try dsimp only); (repeat' (first | (simp (maxDischargeDepth := 9); done) | split))) hw
theorem execSecondEvaluator_only (upset : Bool) (s : State) (u : State) (hx : execSecondEvaluator upset s = .next u) : Only [.qu, .pl, .met, .pq, .ls, .bl, .rtc, .tp, .er, .tr, .hp, .cb, .nv, .fresh, .seal] s u := by
  unfold execSecondEvaluator at hx; (try dsimp only at hx); (repeat' split at hx) <;> first | (rw [← Host.Outcome.next.inj hx]; simp (maxDischargeDepth := 9); done) | cases hx
@[simp] theorem sealCloses_only (s : State) {pp : List Part} {z : State} (hw : within [.sup, .qu, .met, .ls, .rtc, .tp, .er, .hp, .seal] pp = true) :
    Only pp z (sealCloses s) = Only pp z s :=
  only_iff (by simp [sealCloses]) hw
theorem execSealDebounceComplete_only (s : State) (u : State) (hx : execSealDebounceComplete s = .next u) : Only [.sup, .qu, .met, .ls, .rtc, .tp, .er, .hp, .seal] s u := by
  unfold execSealDebounceComplete at hx; (try dsimp only at hx); (repeat' split at hx) <;> first | (rw [← Host.Outcome.next.inj hx]; simp (maxDischargeDepth := 9); done) | cases hx
theorem execSealOpenDecision_only (s : State) (u : State) (hx : execSealOpenDecision s = .next u) : Only [.qu, .tp, .er, .hp, .seal] s u := by
  unfold execSealOpenDecision at hx; (repeat' split at hx) <;> first | (rw [← Host.Outcome.next.inj hx]; simp; done) | cases hx
theorem execClockSetRecord_only (s : State) (u : State) (hx : execClockSetRecord s = .next u) : Only [.qu, .pq, .bl, .rtc, .er, .hp] s u := by
  unfold execClockSetRecord at hx; (repeat' split at hx) <;> first | (rw [← Host.Outcome.next.inj hx]; simp; done) | cases hx

end Sys2Proof.Laws
end

