-- ==== Sys2Proof/Laws/OnlyRegWrite.lean ====
section
/-! SUPPORT. What each operation of Machine/RegWrite.lean can change. -/

namespace Sys2Proof.Laws

open Sys2Proof.Machine

@[simp] theorem wrIdent_only (s : State) (o : Nat) (w : Word) {pp : List Part} {z : State} (hw : within [.hp] pp = true) :
    Only pp z (wrIdent s o w) = Only pp z s :=
  only_iff (by simp [wrIdent]) hw
@[simp] theorem wrTb_only (s : State) (o : Nat) (w : Word) {pp : List Part} {z : State} (hw : within [.tb] pp = true) :
    Only pp z (wrTb s o w) = Only pp z s :=
  only_iff (by unfold wrTb; split <;> simp) hw
@[simp] theorem wrFe_only (s : State) (o : Nat) (w : Word) {pp : List Part} {z : State} (hw : within [.fe] pp = true) :
    Only pp z (wrFe s o w) = Only pp z s :=
  only_iff (by simp [wrFe]) hw
@[simp] theorem wrCv_only (s : State) (o : Nat) (w : Word) {pp : List Part} {z : State} (hw : within [.cv, .qu, .er, .hp, .fresh] pp = true) :
    Only pp z (wrCv s o w) = Only pp z s :=
  only_iff (by simp [wrCv]) hw
@[simp] theorem wrQueue_only (s : State) (o : Nat) (w : Word) {pp : List Part} {z : State} (hw : within [.qu] pp = true) :
    Only pp z (wrQueue s o w) = Only pp z s :=
  only_iff (by simp [wrQueue]) hw
@[simp] theorem writePlctl_only (s : State) (req : Requester) (w : Word) {pp : List Part} {z : State} (hw : within [.qu, .pl, .met, .ls, .bl, .tp, .er, .hp, .nv, .seal] pp = true) :
    Only pp z (writePlctl s req w) = Only pp z s :=
  only_iff (by unfold writePlctl; split <;> simp) hw
@[simp] theorem wrPlan_only (s : State) (req : Requester) (o : Nat) (w : Word) {pp : List Part} {z : State} (hw : within [.qu, .pl, .met, .ls, .bl, .tp, .er, .hp, .nv, .seal] pp = true) :
    Only pp z (wrPlan s req o w) = Only pp z s :=
  only_iff (by unfold wrPlan; split <;> simp) hw
@[simp] theorem wrPoint_only (s : State) (o : Nat) (w : Word) {pp : List Part} {z : State} (hw : within [.met] pp = true) :
    Only pp z (wrPoint s o w) = Only pp z s :=
  only_iff (by simp [wrPoint]) hw
@[simp] theorem wrPulse_only (s : State) (o : Nat) (w : Word) {pp : List Part} {z : State} (hw : within [.met] pp = true) :
    Only pp z (wrPulse s o w) = Only pp z s :=
  only_iff (by simp [wrPulse]) hw
@[simp] theorem writeSpctl_only (s : State) (w : Word) {pp : List Part} {z : State} (hw : within [.pq] pp = true) :
    Only pp z (writeSpctl s w) = Only pp z s :=
  only_iff (by simp [writeSpctl]) hw
@[simp] theorem wrPq_only (s : State) (o : Nat) (w : Word) {pp : List Part} {z : State} (hw : within [.pq] pp = true) :
    Only pp z (wrPq s o w) = Only pp z s :=
  only_iff (by unfold wrPq; dsimp only; (repeat' split) <;> simp) hw
@[simp] theorem wrLs_only (s : State) (o : Nat) (w : Word) {pp : List Part} {z : State} (hw : within [.qu, .ls, .er, .hp] pp = true) :
    Only pp z (wrLs s o w) = Only pp z s :=
  only_iff (by simp [wrLs]) hw
@[simp] theorem wrBill_only (s : State) (a : Nat) (w : Word) {pp : List Part} {z : State} (hw : within [.bl] pp = true) :
    Only pp z (wrBill s a w) = Only pp z s :=
  only_iff (by simp [wrBill]) hw
@[simp] theorem wrDevBill_only (s : State) (req : Requester) (o : Nat) (w : Word) {pp : List Part} {z : State} (hw : within [.bl, .hp] pp = true) :
    Only pp z (wrDevBill s req o w) = Only pp z s :=
  only_iff (by unfold wrDevBill; split <;> simp) hw
@[simp] theorem writeRtcctl_only (s : State) (req : Requester) (w : Word) {pp : List Part} {z : State} (hw : within [.tb, .qu, .bl, .rtc, .tp, .er, .hp, .clock] pp = true) :
    Only pp z (writeRtcctl s req w) = Only pp z s :=
  only_iff (by simp [writeRtcctl]) hw
@[simp] theorem wrRtc_only (s : State) (req : Requester) (o : Nat) (w : Word) {pp : List Part} {z : State} (hw : within [.tb, .qu, .bl, .rtc, .tp, .er, .hp, .fresh, .clock] pp = true) :
    Only pp z (wrRtc s req o w) = Only pp z s :=
  only_iff (by unfold wrRtc; dsimp only; (repeat' split) <;> simp) hw
@[simp] theorem wrTamper_only (s : State) (o : Nat) (w : Word) {pp : List Part} {z : State} (hw : within [.tp] pp = true) :
    Only pp z (wrTamper s o w) = Only pp z s :=
  only_iff (by unfold wrTamper; split <;> simp) hw
@[simp] theorem wrRec_only (s : State) (req : Requester) (o : Nat) (w : Word) {pp : List Part} {z : State} (hw : within [.er, .hp] pp = true) :
    Only pp z (wrRec s req o w) = Only pp z s :=
  only_iff (by unfold wrRec; split <;> simp) hw
@[simp] theorem wrDisp_only (s : State) (req : Requester) (o : Nat) (w : Word) {pp : List Part} {z : State} (hw : within [.dp] pp = true) :
    Only pp z (wrDisp s req o w) = Only pp z s :=
  only_iff (by unfold wrDisp; (try dsimp only); (repeat' (first | (simp (maxDischargeDepth := 9); done) | split))) hw
@[simp] theorem writeTrfwctl_only (s : State) (req : Requester) (w : Word) {pp : List Part} {z : State} (hw : within [.sup, .qu, .tp, .er, .tr, .hp] pp = true) :
    Only pp z (writeTrfwctl s req w) = Only pp z s :=
  only_iff (by simp [writeTrfwctl]) hw
@[simp] theorem wrTrust_only (s : State) (req : Requester) (o : Nat) (w : Word) {pp : List Part} {z : State} (hw : within [.sup, .qu, .tp, .er, .tr, .hp, .cb] pp = true) :
    Only pp z (wrTrust s req o w) = Only pp z s :=
  only_iff (by unfold wrTrust; (try dsimp only); (repeat' (first | (simp (maxDischargeDepth := 9); done) | split))) hw
@[simp] theorem wrHostPort_only (s : State) (o : Nat) (w : Word) {pp : List Part} {z : State} (hw : within [.hp] pp = true) :
    Only pp z (wrHostPort s o w) = Only pp z s :=
  only_iff (by unfold wrHostPort; (try dsimp only); (repeat' (first | (simp (maxDischargeDepth := 9); done) | split))) hw
@[simp] theorem wrSerial_only (s : State) (o : Nat) (w : Word) {pp : List Part} {z : State} (hw : within [.ser] pp = true) :
    Only pp z (wrSerial s o w) = Only pp z s :=
  only_iff (by unfold wrSerial; split <;> simp) hw
@[simp] theorem wrCobalt_only (s : State) (o : Nat) (w : Word) {pp : List Part} {z : State} (hw : within [.qu, .er, .hp, .cb] pp = true) :
    Only pp z (wrCobalt s o w) = Only pp z s :=
  only_iff (by unfold wrCobalt; split <;> simp) hw
@[simp] theorem wrMode_only (s : State) (req : Requester) (o : Nat) (w : Word) {pp : List Part} {z : State} (hw : within [.sup, .qu, .pl, .met, .ls, .bl, .tp, .er, .tr, .hp, .ser, .nv, .seal] pp = true) :
    Only pp z (wrMode s req o w) = Only pp z s :=
  only_iff (by unfold wrMode; split <;> simp) hw
@[simp] theorem freeWord_only (s : State) (req : Requester) (a : Nat) (w : Word) {pp : List Part} {z : State} (hw : within [.sup, .tb, .fe, .cv, .qu, .pl, .met, .pq, .ls, .bl, .rtc, .tp, .er, .dp, .tr, .hp, .ser, .cb, .nv, .fresh, .seal, .clock] pp = true) :
    Only pp z (freeWord s req a w) = Only pp z s :=
  only_iff (by unfold freeWord; dsimp only; (repeat' split) <;> simp) hw
@[simp] theorem noteUnmap_only (s : State) (req : Requester) (a : Nat) {pp : List Part} {z : State} (hw : within [.hp] pp = true) :
    Only pp z (noteUnmap s req a) = Only pp z s :=
  only_iff (by simp [noteUnmap]) hw
@[simp] theorem applyWord_only (req : Requester) (s : State) (e : Nat × Word) {pp : List Part} {z : State} (hw : within [.sup, .tb, .fe, .cv, .qu, .pl, .met, .pq, .ls, .bl, .rtc, .tp, .er, .dp, .tr, .hp, .ser, .cb, .nv, .fresh, .seal, .clock] pp = true) :
    Only pp z (applyWord req s e) = Only pp z s :=
  only_iff (by unfold applyWord; split <;> simp) hw
@[simp] theorem timeWords_only (s : State) (ws : List (Nat × Word)) {pp : List Part} {z : State} (hw : within [.qu, .rtc, .er, .hp] pp = true) :
    Only pp z (timeWords s ws) = Only pp z s :=
  only_iff (by unfold timeWords; split <;> simp) hw
@[simp] theorem ackWords_only (s : State) (req : Requester) (ws : List (Nat × Word)) {pp : List Part} {z : State} (hw : within [.hp] pp = true) :
    Only pp z (ackWords s req ws) = Only pp z s :=
  only_iff (by unfold ackWords; (try dsimp only); (repeat' (first | (simp (maxDischargeDepth := 9); done) | split))) hw
@[simp] theorem tagWords_only (s : State) (req : Requester) (ws : List (Nat × Word)) {pp : List Part} {z : State} (hw : within [.tr] pp = true) :
    Only pp z (tagWords s req ws) = Only pp z s :=
  only_iff (by unfold tagWords; split <;> simp) hw
@[simp] theorem pushWords_only (s : State) (req : Requester) (ws : List (Nat × Word)) {pp : List Part} {z : State} (hw : within [.qu, .er, .hp, .cb] pp = true) :
    Only pp z (pushWords s req ws).1 = Only pp z s :=
  only_iff (by unfold pushWords; exact foldFst_base _ _ (fun y a => by dsimp only; split <;> simp) (s, 0)) hw
@[simp] theorem appendBytes_only (s : State) (req : Requester) (dd : Option (Nat × List Byte)) {pp : List Part} {z : State} (hw : within [.pl, .tr, .nv] pp = true) :
    Only pp z (appendBytes s req dd) = Only pp z s :=
  only_iff (by unfold appendBytes; split <;> (try split) <;> simp) hw
@[simp] theorem applyWrite_only (s : State) (req : Requester) (a : Nat) (bs : List Byte) {pp : List Part} {z : State} (hw : within [.sup, .tb, .fe, .cv, .qu, .pl, .met, .pq, .ls, .bl, .rtc, .tp, .er, .dp, .tr, .hp, .ser, .cb, .nv, .fresh, .seal, .clock] pp = true) :
    Only pp z (applyWrite s req a bs).s = Only pp z s :=
  only_iff (by simp [applyWrite]) hw
theorem execRegisterWrite_only (req : Requester) (addr : Nat) (w : Word) (s : State) (u : State) (hx : execRegisterWrite req addr w s = .next u) : Only [.sup, .tb, .fe, .cv, .qu, .pl, .met, .pq, .ls, .bl, .rtc, .tp, .er, .dp, .tr, .hp, .ser, .cb, .nv, .fresh, .seal, .clock] s u := by
  unfold execRegisterWrite at hx; (try dsimp only at hx); (repeat' split at hx) <;> first | (rw [← Host.Outcome.next.inj hx]; (repeat' split) <;> simp (maxDischargeDepth := 9); done) | cases hx
@[simp] theorem refuseClose_only (s : State) {pp : List Part} {z : State} (hw : within [.qu, .bl, .er, .hp] pp = true) :
    Only pp z (refuseClose s) = Only pp z s :=
  only_iff (by simp [refuseClose]) hw
@[simp] theorem noteAnswer_only (r : LegalReq) (ok : Bool) (s : State) {pp : List Part} {z : State} (hw : within [.hp] pp = true) :
    Only pp z (noteAnswer r ok s) = Only pp z s :=
  only_iff (by simp [noteAnswer]) hw
@[simp] theorem answerLegal_only (s : State) (dd : LegalReq) {pp : List Part} {z : State} (hw : within [.sup, .tb, .fe, .cv, .qu, .pl, .met, .pq, .ls, .bl, .rtc, .tp, .er, .dp, .tr, .hp, .ser, .cb, .nv, .fresh, .seal, .clock] pp = true) :
    Only pp z (answerLegal s dd) = Only pp z s :=
  only_iff (by unfold answerLegal; split <;> (try split) <;> simp) hw
theorem execLegalRequest_only (s : State) (u : State) (hx : execLegalRequest s = .next u) : Only [.sup, .tb, .fe, .cv, .qu, .pl, .met, .pq, .ls, .bl, .rtc, .tp, .er, .dp, .tr, .hp, .ser, .cb, .nv, .fresh, .seal, .clock] s u := by
  unfold execLegalRequest at hx; (repeat' split at hx) <;> first | (rw [← Host.Outcome.next.inj hx]; simp; done) | cases hx

end Sys2Proof.Laws
end

