-- ==== Sys2Proof/Laws/OnlyHostPort.lean ====
section
/-! SUPPORT. What each operation of Machine/HostPort.lean can change. -/

namespace Sys2Proof.Laws

open Sys2Proof.Machine

@[simp] theorem checkPairOn_only (path : Nat) (req : Requester) (s : State) (e : Nat × Nat) {pp : List Part} {z : State} (hw : within [.qu, .pl, .met, .ls, .bl, .tp, .er, .hp, .nv, .seal] pp = true) :
    Only pp z (checkPairOn path req s e) = Only pp z s :=
  only_iff (by simp [checkPairOn]) hw
@[simp] theorem checkPair_only (req : Requester) (s : State) (e : Nat × Nat) {pp : List Part} {z : State} (hw : within [.qu, .pl, .met, .ls, .bl, .tp, .er, .hp, .nv, .seal] pp = true) :
    Only pp z (checkPair req s e) = Only pp z s :=
  only_iff (by simp [checkPair]) hw
theorem execPairRead_only (req : Requester) (addr : Nat) (s : State) (u : State) (hx : execPairRead req addr s = .next u) : Only [.qu, .pl, .met, .ls, .bl, .tp, .er, .hp, .nv, .seal] s u := by
  unfold execPairRead at hx; (repeat' split at hx) <;> first | (rw [← Host.Outcome.next.inj hx]; simp; done) | cases hx
@[simp] theorem readEffects_only (s : State) (req : Requester) (a n : Nat) {pp : List Part} {z : State} (hw : within [.qu, .pl, .met, .pq, .ls, .bl, .tp, .er, .hp, .nv, .seal] pp = true) :
    Only pp z (readEffects s req a n) = Only pp z s :=
  only_iff (by simp [readEffects]) hw
@[simp] theorem runRead_only (s : State) (req : Requester) (a n : Nat) {pp : List Part} {z : State} (hw : within [.qu, .pl, .met, .pq, .ls, .bl, .tp, .er, .hp, .nv, .seal] pp = true) :
    Only pp z (runRead s req a n).1 = Only pp z s :=
  only_iff (by simp [runRead]) hw
@[simp] theorem answerHost_only (s : State) (code : Nat) (ne : Bool) (data : List Word) {pp : List Part} {z : State} (hw : within [.hp] pp = true) :
    Only pp z (answerHost s code ne data) = Only pp z s :=
  only_iff (by simp [answerHost]) hw
@[simp] theorem crcBreak_only (s : State) {pp : List Part} {z : State} (hw : within [.hp] pp = true) :
    Only pp z (crcBreak s) = Only pp z s :=
  only_iff (by simp [crcBreak]) hw
@[simp] theorem abortHost_only (s : State) {pp : List Part} {z : State} (hw : within [.qu, .er, .hp] pp = true) :
    Only pp z (abortHost s) = Only pp z s :=
  only_iff (by simp [abortHost]) hw
@[simp] theorem crcError_only (s : State) {pp : List Part} {z : State} (hw : within [.qu, .er, .hp] pp = true) :
    Only pp z (crcError s) = Only pp z s :=
  only_iff (by simp [crcError]) hw
@[simp] theorem crcGood_only (s : State) {pp : List Part} {z : State} (hw : within [.er, .hp] pp = true) :
    Only pp z (crcGood s) = Only pp z s :=
  only_iff (by simp [crcGood]) hw
theorem hostTransaction_base {pp : List Part} (s : State) (wire : Wire) (sent : List Byte) (bad : List Word) (go : State → State)
    (hg : ∀ y, Only pp y (go y)) (hw : within [.qu, .er, .hp] pp = true) : Only pp s (hostTransaction s wire sent bad go) := by
  unfold hostTransaction
  (repeat' split) <;> first
    | exact only_refl _ _
    | (refine only_trans ?_ (hg _); exact only_mono hw (by simp))
    | exact only_mono hw (by simp)
@[simp] theorem hostTransaction_only {pp : List Part} {z : State} (s : State) (wire : Wire) (sent : List Byte) (bad : List Word) (go : State → State)
    (hw : within [.qu, .er, .hp] pp = true) (hg : ∀ y, Only pp y (go y)) : Only pp z (hostTransaction s wire sent bad go) = Only pp z s :=
  propext ⟨fun k p hp => same_trans (k p hp) (same_symm (hostTransaction_base s wire sent bad go hg hw p hp)),
    fun k => only_trans k (hostTransaction_base s wire sent bad go hg hw)⟩
theorem execRead_only (req : Requester) (addr len : Nat) (wire : Wire) (s : State) (u : State) (hx : execRead req addr len wire s = .next u) : Only [.qu, .pl, .met, .pq, .ls, .bl, .tp, .er, .hp, .nv, .seal] s u := by
  unfold execRead at hx; (try dsimp only at hx); (repeat' split at hx) <;> first | (rw [← Host.Outcome.next.inj hx]; (repeat' split) <;> simp (maxDischargeDepth := 9); done) | cases hx
theorem execWrite_only (req : Requester) (addr : Nat) (bytes : List Byte) (wire : Wire) (s : State) (u : State) (hx : execWrite req addr bytes wire s = .next u) : Only [.sup, .tb, .fe, .cv, .qu, .pl, .met, .pq, .ls, .bl, .rtc, .tp, .er, .dp, .tr, .hp, .ser, .cb, .nv, .fresh, .seal, .clock] s u := by
  unfold execWrite at hx; (try dsimp only at hx); (repeat' split at hx) <;> first | (rw [← Host.Outcome.next.inj hx]; (repeat' split) <;> simp (maxDischargeDepth := 9); done) | cases hx
theorem execPoll_only (wire : Wire) (s : State) (u : State) (hx : execPoll wire s = .next u) : Only [.qu, .er, .hp] s u := by
  unfold execPoll at hx; (try dsimp only at hx); (repeat' split at hx) <;> first | (rw [← Host.Outcome.next.inj hx]; (repeat' split) <;> simp (maxDischargeDepth := 9); done) | cases hx
theorem execUnknownCommand_only (byte : Byte) (s : State) (u : State) (hx : execUnknownCommand byte s = .next u) : Only [.hp] s u := by
  unfold execUnknownCommand at hx; (repeat' split at hx) <;> first | (rw [← Host.Outcome.next.inj hx]; simp; done) | cases hx
theorem execScsAbort_only (s : State) (u : State) (hx : execScsAbort s = .next u) : Only [.qu, .er, .hp] s u := by
  unfold execScsAbort at hx; (repeat' split at hx) <;> first | (rw [← Host.Outcome.next.inj hx]; simp; done) | cases hx
theorem execHostTimeout_only (s : State) (u : State) (hx : execHostTimeout s = .next u) : Only [.qu, .er, .hp] s u := by
  unfold execHostTimeout at hx; (repeat' split at hx) <;> first | (rw [← Host.Outcome.next.inj hx]; simp; done) | cases hx
theorem execOpRead_only (hdr : CobaltHdr) (addr len : Nat) (s : State) (u : State) (hx : execOpRead hdr addr len s = .next u) : Only [.qu, .pl, .met, .pq, .ls, .bl, .tp, .er, .hp, .cb, .nv, .seal] s u := by
  unfold execOpRead at hx; (repeat' split at hx) <;> first | (rw [← Host.Outcome.next.inj hx]; simp; done) | cases hx
theorem execOpWrite_only (hdr : CobaltHdr) (addr : Nat) (data : List Byte) (s : State) (u : State) (hx : execOpWrite hdr addr data s = .next u) : Only [.sup, .tb, .fe, .cv, .qu, .pl, .met, .pq, .ls, .bl, .rtc, .tp, .er, .dp, .tr, .hp, .ser, .cb, .nv, .fresh, .seal, .clock] s u := by
  unfold execOpWrite at hx; (repeat' split at hx) <;> first | (rw [← Host.Outcome.next.inj hx]; simp; done) | cases hx

end Sys2Proof.Laws
end

