-- ==== Sys2Proof/Laws/OnlySerial.lean ====
section
/-! SUPPORT. What each operation of Machine/Serial.lean can change. -/

namespace Sys2Proof.Laws

open Sys2Proof.Machine

@[simp] theorem toSignOn_only (s : State) {pp : List Part} {z : State} (hw : within [.ser] pp = true) :
    Only pp z (toSignOn s) = Only pp z s :=
  only_iff (by simp [toSignOn]) hw
theorem execSignOn_only (phys : Option Nat) (s : State) (u : State) (hx : execSignOn phys s = .next u) : Only [.ser] s u := by
  unfold execSignOn at hx; (repeat' split at hx) <;> first | (rw [← Host.Outcome.next.inj hx]; simp; done) | cases hx
theorem execOptionSelect_only (proto y z : Nat) (s : State) (u : State) (hx : execOptionSelect proto y z s = .next u) : Only [.ser] s u := by
  unfold execOptionSelect at hx; (repeat' split at hx) <;> first | (rw [← Host.Outcome.next.inj hx]; simp; done) | cases hx
theorem execOptionSelectTimeout_only (s : State) (u : State) (hx : execOptionSelectTimeout s = .next u) : Only [.ser] s u := by
  unfold execOptionSelectTimeout at hx; (repeat' split at hx) <;> first | (rw [← Host.Outcome.next.inj hx]; simp; done) | cases hx
theorem execHdlcStart_only (s : State) (u : State) (hx : execHdlcStart s = .next u) : Only [.ser] s u := by
  unfold execHdlcStart at hx; (repeat' split at hx) <;> first | (rw [← Host.Outcome.next.inj hx]; simp; done) | cases hx
@[simp] theorem answer_only (s : State) (l : List Nat) {pp : List Part} {z : State} (hw : within [.ser] pp = true) :
    Only pp z (State.answer s l) = Only pp z s :=
  only_iff (by simp [State.answer]) hw
@[simp] theorem heard_only (s : State) (port : Nat) {pp : List Part} {z : State} (hw : within [.ser] pp = true) :
    Only pp z (heard s port) = Only pp z s :=
  only_iff (by simp [heard]) hw
theorem execHdlcFrame_only (port upper lower : Nat) (s : State) (u : State) (hx : execHdlcFrame port upper lower s = .next u) : Only [.ser] s u := by
  unfold execHdlcFrame at hx; (repeat' split at hx) <;> first | (rw [← Host.Outcome.next.inj hx]; simp; done) | cases hx
@[simp] theorem dropAssoc_only (s : State) (port client upper : Nat) {pp : List Part} {z : State} (hw : within [.ser] pp = true) :
    Only pp z (dropAssoc s port client upper) = Only pp z s :=
  only_iff (by simp [dropAssoc]) hw
@[simp] theorem endConnection_only (s : State) (port client upper : Nat) {pp : List Part} {z : State} (hw : within [.ser] pp = true) :
    Only pp z (endConnection s port client upper) = Only pp z s :=
  only_iff (by simp [endConnection]) hw
theorem execDisc_only (port client upper : Nat) (s : State) (u : State) (hx : execDisc port client upper s = .next u) : Only [.ser] s u := by
  unfold execDisc at hx; (repeat' split at hx) <;> first | (rw [← Host.Outcome.next.inj hx]; simp; done) | cases hx
theorem execInactivityTimeout_only (port client upper : Nat) (s : State) (u : State) (hx : execInactivityTimeout port client upper s = .next u) : Only [.ser] s u := by
  unfold execInactivityTimeout at hx; (repeat' split at hx) <;> first | (rw [← Host.Outcome.next.inj hx]; simp; done) | cases hx
@[simp] theorem aarqAnswer_only (s : State) (port client upper : Nat) (auth : DlmsAuth) (ciphered authOk : Bool) {pp : List Part} {z : State} (hw : within [.qu, .er, .hp, .ser] pp = true) :
    Only pp z (aarqAnswer s port client upper auth ciphered authOk) = Only pp z s :=
  only_iff (by simp [aarqAnswer]) hw
theorem execAarq_only (port client upper : Nat) (auth : DlmsAuth) (ciphered authOk : Bool) (s : State) (u : State) (hx : execAarq port client upper auth ciphered authOk s = .next u) : Only [.qu, .er, .hp, .ser] s u := by
  unfold execAarq at hx; (repeat' split at hx) <;> first | (rw [← Host.Outcome.next.inj hx]; simp; done) | cases hx
theorem execKeyAssociationRelease_only (s : State) (u : State) (hx : execKeyAssociationRelease s = .next u) : Only [.ser] s u := by
  unfold execKeyAssociationRelease at hx; (repeat' split at hx) <;> first | (rw [← Host.Outcome.next.inj hx]; simp; done) | cases hx
@[simp] theorem countApdu_only (s : State) (a : Assoc) {pp : List Part} {z : State} (hw : within [.ser] pp = true) :
    Only pp z (countApdu s a) = Only pp z s :=
  only_iff (by simp [countApdu]) hw
theorem execGet_only (port client upper addr : Nat) (s : State) (u : State) (hx : execGet port client upper addr s = .next u) : Only [.qu, .pl, .met, .pq, .ls, .bl, .tp, .er, .hp, .ser, .nv, .seal] s u := by
  unfold execGet at hx; (try dsimp only at hx); (repeat' split at hx) <;> first | (rw [← Host.Outcome.next.inj hx]; simp (maxDischargeDepth := 9); done) | cases hx
@[simp] theorem dlmsWrite_only (s : State) (port client upper addr : Nat) (w : Word) {pp : List Part} {z : State} (hw : within [.sup, .tb, .fe, .cv, .qu, .pl, .met, .pq, .ls, .bl, .rtc, .tp, .er, .dp, .tr, .hp, .ser, .cb, .nv, .fresh, .seal, .clock] pp = true) :
    Only pp z (dlmsWrite s port client upper addr w) = Only pp z s :=
  only_iff (by unfold dlmsWrite; split <;> simp) hw
theorem execSet_only (port client upper addr : Nat) (w : Word) (s : State) (u : State) (hx : execSet port client upper addr w s = .next u) : Only [.sup, .tb, .fe, .cv, .qu, .pl, .met, .pq, .ls, .bl, .rtc, .tp, .er, .dp, .tr, .hp, .ser, .cb, .nv, .fresh, .seal, .clock] s u := by
  unfold execSet at hx; rw [← Host.Outcome.next.inj hx]; simp
theorem execDlmsAction_only (port client upper addr : Nat) (w : Word) (s : State) (u : State) (hx : execDlmsAction port client upper addr w s = .next u) : Only [.sup, .tb, .fe, .cv, .qu, .pl, .met, .pq, .ls, .bl, .rtc, .tp, .er, .dp, .tr, .hp, .ser, .cb, .nv, .fresh, .seal, .clock] s u := by
  unfold execDlmsAction at hx; rw [← Host.Outcome.next.inj hx]; simp
theorem execDataNotification_only (s : State) (u : State) (hx : execDataNotification s = .next u) : Only [.ser] s u := by
  unfold execDataNotification at hx; (repeat' split at hx) <;> first | (rw [← Host.Outcome.next.inj hx]; simp; done) | cases hx

end Sys2Proof.Laws
end

