-- ==== Sys2Proof/Laws/OnlyTick.lean ====
section
/-! SUPPORT. What each operation of Machine/Tick.lean can change. -/

namespace Sys2Proof.Laws

open Sys2Proof.Machine

@[simp] theorem tickPins_only (s : State) (inp : TickInput) {pp : List Part} {z : State} (hw : within [.fe, .tp] pp = true) :
    Only pp z (tickPins s inp) = Only pp z s :=
  only_iff (by simp [tickPins]) hw
@[simp] theorem endFrame_only (s : State) (inp : TickInput) {pp : List Part} {z : State} (hw : within [.fe, .cv, .qu, .pq, .bl, .rtc, .tp, .er, .hp, .ser] pp = true) :
    Only pp z (endFrame s inp) = Only pp z s :=
  only_iff (by simp [endFrame]) hw
@[simp] theorem rescaleTick_only (s : State) {pp : List Part} {z : State} (hw : within [.pl, .met, .ls, .bl, .er] pp = true) :
    Only pp z (rescaleTick s) = Only pp z s :=
  only_iff (by unfold rescaleTick; split <;> simp) hw
@[simp] theorem endLaneFrame_only (s : State) {pp : List Part} {z : State} (hw : within [.cv, .qu, .pl, .met, .pq, .ls, .bl, .tp, .er, .hp, .ser, .nv, .fresh, .seal] pp = true) :
    Only pp z (endLaneFrame s) = Only pp z s :=
  only_iff (by unfold endLaneFrame; dsimp only; (repeat' split) <;> simp) hw
@[simp] theorem calTick_only (s : State) {pp : List Part} {z : State} (hw : within [.qu, .met, .er, .hp] pp = true) :
    Only pp z (calTick s) = Only pp z s :=
  only_iff (by unfold calTick; split <;> simp) hw
@[simp] theorem statesTick_only (s : State) {pp : List Part} {z : State} (hw : within [.sup, .cv, .qu, .met, .ls, .bl, .er, .hp, .mode] pp = true) :
    Only pp z (statesTick s) = Only pp z s :=
  only_iff (by simp [statesTick]) hw
@[simp] theorem beginLaneFrame_only (s : State) (f : Frame) (st : OpState) (df : Nat) {pp : List Part} {z : State} (hw : within [.qu, .met, .pq, .ls, .er, .hp] pp = true) :
    Only pp z (beginLaneFrame s f st df) = Only pp z s :=
  only_iff (by simp [beginLaneFrame]) hw
@[simp] theorem opsTick_only (s : State) {pp : List Part} {z : State} (hw : within [.er] pp = true) :
    Only pp z (opsTick s) = Only pp z s :=
  only_iff (by simp [opsTick]) hw
@[simp] theorem rtcTick_only (s : State) {pp : List Part} {z : State} (hw : within [.rtc, .tp, .clock] pp = true) :
    Only pp z (rtcTick s) = Only pp z s :=
  only_iff (by simp [rtcTick]) hw
@[simp] theorem billTick_only (s : State) {pp : List Part} {z : State} (hw : within [.bl] pp = true) :
    Only pp z (billTick s) = Only pp z s :=
  only_iff (by simp [billTick]) hw
@[simp] theorem faultTick_only (s : State) {pp : List Part} {z : State} (hw : within [.ls] pp = true) :
    Only pp z (faultTick s) = Only pp z s :=
  only_iff (by simp [faultTick]) hw
@[simp] theorem linkTick_only (s : State) {pp : List Part} {z : State} (hw : within [.cb] pp = true) :
    Only pp z (linkTick s) = Only pp z s :=
  only_iff (by simp [linkTick]) hw
@[simp] theorem serialTick_only (s : State) {pp : List Part} {z : State} (hw : within [.ser] pp = true) :
    Only pp z (serialTick s) = Only pp z s :=
  only_iff (by simp [serialTick]) hw
@[simp] theorem helloTick_only (s : State) {pp : List Part} {z : State} (hw : within [.cb] pp = true) :
    Only pp z (helloTick s) = Only pp z s :=
  only_iff (by simp [helloTick]) hw
@[simp] theorem convTick_only (s : State) {pp : List Part} {z : State} (hw : within [.fe, .cv] pp = true) :
    Only pp z (convTick s) = Only pp z s :=
  only_iff (by simp [convTick]) hw
@[simp] theorem queueTick_only (s : State) {pp : List Part} {z : State} (hw : within [.qu, .er, .hp] pp = true) :
    Only pp z (queueTick s) = Only pp z s :=
  only_iff (by simp [queueTick]) hw
@[simp] theorem supTick_only (s : State) {pp : List Part} {z : State} (hw : within [.sup, .ls, .tr, .hp] pp = true) :
    Only pp z (supTick s) = Only pp z s :=
  only_iff (by simp [supTick]) hw
@[simp] theorem frameCommitTick_only (s : State) {pp : List Part} {z : State} (hw : within [.qu, .ls, .er, .hp, .nv] pp = true) :
    Only pp z (frameCommitTick s) = Only pp z s :=
  only_iff (by simp [frameCommitTick]) hw
@[simp] theorem commitTick_only (s : State) {pp : List Part} {z : State} (hw : within [.qu, .pl, .met, .ls, .bl, .tp, .er, .hp, .nv, .seal] pp = true) :
    Only pp z (commitTick s) = Only pp z s :=
  only_iff (by simp [commitTick]) hw
@[simp] theorem mailboxTick_only (s : State) {pp : List Part} {z : State} (hw : within [.hp] pp = true) :
    Only pp z (mailboxTick s) = Only pp z s :=
  only_iff (by simp [mailboxTick]) hw
@[simp] theorem countTick_only (s : State) {pp : List Part} {z : State} (hw : within [.sup, .fe, .cv, .qu, .pl, .met, .ls, .bl, .rtc, .tp, .er, .dp, .tr, .hp, .ser, .cb, .nv, .seal, .clock] pp = true) :
    Only pp z (countTick s) = Only pp z s :=
  only_iff (by simp [countTick]) hw
@[simp] theorem bootTick_only (s : State) {pp : List Part} {z : State} (hw : within [.tb, .qu, .ls, .rtc, .tp, .er, .hp, .nv, .frame, .clock] pp = true) :
    Only pp z (bootTick s) = Only pp z s :=
  only_iff (by simp [bootTick]) hw
@[simp] theorem frameTick_only (s : State) (inp : TickInput) {pp : List Part} {z : State} (hw : within [.sup, .tb, .fe, .cv, .qu, .pl, .met, .pq, .ls, .bl, .rtc, .tp, .er, .dp, .tr, .hp, .ser, .cb, .nv, .fresh, .frame, .mode, .seal, .clock] pp = true) :
    Only pp z (frameTick s inp) = Only pp z s :=
  only_iff (by simp [frameTick]) hw
theorem execFrameTick_only (inp : TickInput) (s : State) (u : State) (hx : execFrameTick inp s = .next u) : Only [.sup, .tb, .fe, .cv, .qu, .pl, .met, .pq, .ls, .bl, .rtc, .tp, .er, .dp, .tr, .hp, .ser, .cb, .nv, .fresh, .frame, .mode, .seal, .clock] s u := by
  unfold execFrameTick at hx; (repeat' split at hx) <;> first | (rw [← Host.Outcome.next.inj hx]; simp; done) | cases hx

end Sys2Proof.Laws
end

