-- ==== Sys2Proof/Laws/State.lean ====
section
/-! SUPPORT. One lemma per part of the state and updater: what an updater leaves in each part. All hold by `rfl`, so that no proof
unfolds a record update. -/

namespace Sys2Proof.Laws

open Sys2Proof.Machine

@[simp] theorem mapSup_pending (s : State) (f : Supervisor → Supervisor) : (s.mapSup f).pending = s.pending := rfl
@[simp] theorem mapSup_sup (s : State) (f : Supervisor → Supervisor) : (s.mapSup f).sup = f s.sup := rfl
@[simp] theorem mapSup_tb (s : State) (f : Supervisor → Supervisor) : (s.mapSup f).tb = s.tb := rfl
@[simp] theorem mapSup_fe (s : State) (f : Supervisor → Supervisor) : (s.mapSup f).fe = s.fe := rfl
@[simp] theorem mapSup_cv (s : State) (f : Supervisor → Supervisor) : (s.mapSup f).cv = s.cv := rfl
@[simp] theorem mapSup_qu (s : State) (f : Supervisor → Supervisor) : (s.mapSup f).qu = s.qu := rfl
@[simp] theorem mapSup_pl (s : State) (f : Supervisor → Supervisor) : (s.mapSup f).pl = s.pl := rfl
@[simp] theorem mapSup_met (s : State) (f : Supervisor → Supervisor) : (s.mapSup f).met = s.met := rfl
@[simp] theorem mapSup_pq (s : State) (f : Supervisor → Supervisor) : (s.mapSup f).pq = s.pq := rfl
@[simp] theorem mapSup_ls (s : State) (f : Supervisor → Supervisor) : (s.mapSup f).ls = s.ls := rfl
@[simp] theorem mapSup_bl (s : State) (f : Supervisor → Supervisor) : (s.mapSup f).bl = s.bl := rfl
@[simp] theorem mapSup_rtc (s : State) (f : Supervisor → Supervisor) : (s.mapSup f).rtc = s.rtc := rfl
@[simp] theorem mapSup_tp (s : State) (f : Supervisor → Supervisor) : (s.mapSup f).tp = s.tp := rfl
@[simp] theorem mapSup_er (s : State) (f : Supervisor → Supervisor) : (s.mapSup f).er = s.er := rfl
@[simp] theorem mapSup_dp (s : State) (f : Supervisor → Supervisor) : (s.mapSup f).dp = s.dp := rfl
@[simp] theorem mapSup_tr (s : State) (f : Supervisor → Supervisor) : (s.mapSup f).tr = s.tr := rfl
@[simp] theorem mapSup_hp (s : State) (f : Supervisor → Supervisor) : (s.mapSup f).hp = s.hp := rfl
@[simp] theorem mapSup_ser (s : State) (f : Supervisor → Supervisor) : (s.mapSup f).ser = s.ser := rfl
@[simp] theorem mapSup_cb (s : State) (f : Supervisor → Supervisor) : (s.mapSup f).cb = s.cb := rfl
@[simp] theorem mapSup_nv (s : State) (f : Supervisor → Supervisor) : (s.mapSup f).nv = s.nv := rfl
@[simp] theorem mapSup_fresh (s : State) (f : Supervisor → Supervisor) : (s.mapSup f).fresh = s.fresh := rfl

@[simp] theorem mapTb_pending (s : State) (f : Timebase → Timebase) : (s.mapTb f).pending = s.pending := rfl
@[simp] theorem mapTb_sup (s : State) (f : Timebase → Timebase) : (s.mapTb f).sup = s.sup := rfl
@[simp] theorem mapTb_tb (s : State) (f : Timebase → Timebase) : (s.mapTb f).tb = f s.tb := rfl
@[simp] theorem mapTb_fe (s : State) (f : Timebase → Timebase) : (s.mapTb f).fe = s.fe := rfl
@[simp] theorem mapTb_cv (s : State) (f : Timebase → Timebase) : (s.mapTb f).cv = s.cv := rfl
@[simp] theorem mapTb_qu (s : State) (f : Timebase → Timebase) : (s.mapTb f).qu = s.qu := rfl
@[simp] theorem mapTb_pl (s : State) (f : Timebase → Timebase) : (s.mapTb f).pl = s.pl := rfl
@[simp] theorem mapTb_met (s : State) (f : Timebase → Timebase) : (s.mapTb f).met = s.met := rfl
@[simp] theorem mapTb_pq (s : State) (f : Timebase → Timebase) : (s.mapTb f).pq = s.pq := rfl
@[simp] theorem mapTb_ls (s : State) (f : Timebase → Timebase) : (s.mapTb f).ls = s.ls := rfl
@[simp] theorem mapTb_bl (s : State) (f : Timebase → Timebase) : (s.mapTb f).bl = s.bl := rfl
@[simp] theorem mapTb_rtc (s : State) (f : Timebase → Timebase) : (s.mapTb f).rtc = s.rtc := rfl
@[simp] theorem mapTb_tp (s : State) (f : Timebase → Timebase) : (s.mapTb f).tp = s.tp := rfl
@[simp] theorem mapTb_er (s : State) (f : Timebase → Timebase) : (s.mapTb f).er = s.er := rfl
@[simp] theorem mapTb_dp (s : State) (f : Timebase → Timebase) : (s.mapTb f).dp = s.dp := rfl
@[simp] theorem mapTb_tr (s : State) (f : Timebase → Timebase) : (s.mapTb f).tr = s.tr := rfl
@[simp] theorem mapTb_hp (s : State) (f : Timebase → Timebase) : (s.mapTb f).hp = s.hp := rfl
@[simp] theorem mapTb_ser (s : State) (f : Timebase → Timebase) : (s.mapTb f).ser = s.ser := rfl
@[simp] theorem mapTb_cb (s : State) (f : Timebase → Timebase) : (s.mapTb f).cb = s.cb := rfl
@[simp] theorem mapTb_nv (s : State) (f : Timebase → Timebase) : (s.mapTb f).nv = s.nv := rfl
@[simp] theorem mapTb_fresh (s : State) (f : Timebase → Timebase) : (s.mapTb f).fresh = s.fresh := rfl

@[simp] theorem mapFe_pending (s : State) (f : FrontEnds → FrontEnds) : (s.mapFe f).pending = s.pending := rfl
@[simp] theorem mapFe_sup (s : State) (f : FrontEnds → FrontEnds) : (s.mapFe f).sup = s.sup := rfl
@[simp] theorem mapFe_tb (s : State) (f : FrontEnds → FrontEnds) : (s.mapFe f).tb = s.tb := rfl
@[simp] theorem mapFe_fe (s : State) (f : FrontEnds → FrontEnds) : (s.mapFe f).fe = f s.fe := rfl
@[simp] theorem mapFe_cv (s : State) (f : FrontEnds → FrontEnds) : (s.mapFe f).cv = s.cv := rfl
@[simp] theorem mapFe_qu (s : State) (f : FrontEnds → FrontEnds) : (s.mapFe f).qu = s.qu := rfl
@[simp] theorem mapFe_pl (s : State) (f : FrontEnds → FrontEnds) : (s.mapFe f).pl = s.pl := rfl
@[simp] theorem mapFe_met (s : State) (f : FrontEnds → FrontEnds) : (s.mapFe f).met = s.met := rfl
@[simp] theorem mapFe_pq (s : State) (f : FrontEnds → FrontEnds) : (s.mapFe f).pq = s.pq := rfl
@[simp] theorem mapFe_ls (s : State) (f : FrontEnds → FrontEnds) : (s.mapFe f).ls = s.ls := rfl
@[simp] theorem mapFe_bl (s : State) (f : FrontEnds → FrontEnds) : (s.mapFe f).bl = s.bl := rfl
@[simp] theorem mapFe_rtc (s : State) (f : FrontEnds → FrontEnds) : (s.mapFe f).rtc = s.rtc := rfl
@[simp] theorem mapFe_tp (s : State) (f : FrontEnds → FrontEnds) : (s.mapFe f).tp = s.tp := rfl
@[simp] theorem mapFe_er (s : State) (f : FrontEnds → FrontEnds) : (s.mapFe f).er = s.er := rfl
@[simp] theorem mapFe_dp (s : State) (f : FrontEnds → FrontEnds) : (s.mapFe f).dp = s.dp := rfl
@[simp] theorem mapFe_tr (s : State) (f : FrontEnds → FrontEnds) : (s.mapFe f).tr = s.tr := rfl
@[simp] theorem mapFe_hp (s : State) (f : FrontEnds → FrontEnds) : (s.mapFe f).hp = s.hp := rfl
@[simp] theorem mapFe_ser (s : State) (f : FrontEnds → FrontEnds) : (s.mapFe f).ser = s.ser := rfl
@[simp] theorem mapFe_cb (s : State) (f : FrontEnds → FrontEnds) : (s.mapFe f).cb = s.cb := rfl
@[simp] theorem mapFe_nv (s : State) (f : FrontEnds → FrontEnds) : (s.mapFe f).nv = s.nv := rfl
@[simp] theorem mapFe_fresh (s : State) (f : FrontEnds → FrontEnds) : (s.mapFe f).fresh = s.fresh := rfl

@[simp] theorem mapCv_pending (s : State) (f : Converter → Converter) : (s.mapCv f).pending = s.pending := rfl
@[simp] theorem mapCv_sup (s : State) (f : Converter → Converter) : (s.mapCv f).sup = s.sup := rfl
@[simp] theorem mapCv_tb (s : State) (f : Converter → Converter) : (s.mapCv f).tb = s.tb := rfl
@[simp] theorem mapCv_fe (s : State) (f : Converter → Converter) : (s.mapCv f).fe = s.fe := rfl
@[simp] theorem mapCv_cv (s : State) (f : Converter → Converter) : (s.mapCv f).cv = f s.cv := rfl
@[simp] theorem mapCv_qu (s : State) (f : Converter → Converter) : (s.mapCv f).qu = s.qu := rfl
@[simp] theorem mapCv_pl (s : State) (f : Converter → Converter) : (s.mapCv f).pl = s.pl := rfl
@[simp] theorem mapCv_met (s : State) (f : Converter → Converter) : (s.mapCv f).met = s.met := rfl
@[simp] theorem mapCv_pq (s : State) (f : Converter → Converter) : (s.mapCv f).pq = s.pq := rfl
@[simp] theorem mapCv_ls (s : State) (f : Converter → Converter) : (s.mapCv f).ls = s.ls := rfl
@[simp] theorem mapCv_bl (s : State) (f : Converter → Converter) : (s.mapCv f).bl = s.bl := rfl
@[simp] theorem mapCv_rtc (s : State) (f : Converter → Converter) : (s.mapCv f).rtc = s.rtc := rfl
@[simp] theorem mapCv_tp (s : State) (f : Converter → Converter) : (s.mapCv f).tp = s.tp := rfl
@[simp] theorem mapCv_er (s : State) (f : Converter → Converter) : (s.mapCv f).er = s.er := rfl
@[simp] theorem mapCv_dp (s : State) (f : Converter → Converter) : (s.mapCv f).dp = s.dp := rfl
@[simp] theorem mapCv_tr (s : State) (f : Converter → Converter) : (s.mapCv f).tr = s.tr := rfl
@[simp] theorem mapCv_hp (s : State) (f : Converter → Converter) : (s.mapCv f).hp = s.hp := rfl
@[simp] theorem mapCv_ser (s : State) (f : Converter → Converter) : (s.mapCv f).ser = s.ser := rfl
@[simp] theorem mapCv_cb (s : State) (f : Converter → Converter) : (s.mapCv f).cb = s.cb := rfl
@[simp] theorem mapCv_nv (s : State) (f : Converter → Converter) : (s.mapCv f).nv = s.nv := rfl
@[simp] theorem mapCv_fresh (s : State) (f : Converter → Converter) : (s.mapCv f).fresh = s.fresh := rfl

@[simp] theorem mapQu_pending (s : State) (f : Queues → Queues) : (s.mapQu f).pending = s.pending := rfl
@[simp] theorem mapQu_sup (s : State) (f : Queues → Queues) : (s.mapQu f).sup = s.sup := rfl
@[simp] theorem mapQu_tb (s : State) (f : Queues → Queues) : (s.mapQu f).tb = s.tb := rfl
@[simp] theorem mapQu_fe (s : State) (f : Queues → Queues) : (s.mapQu f).fe = s.fe := rfl
@[simp] theorem mapQu_cv (s : State) (f : Queues → Queues) : (s.mapQu f).cv = s.cv := rfl
@[simp] theorem mapQu_qu (s : State) (f : Queues → Queues) : (s.mapQu f).qu = f s.qu := rfl
@[simp] theorem mapQu_pl (s : State) (f : Queues → Queues) : (s.mapQu f).pl = s.pl := rfl
@[simp] theorem mapQu_met (s : State) (f : Queues → Queues) : (s.mapQu f).met = s.met := rfl
@[simp] theorem mapQu_pq (s : State) (f : Queues → Queues) : (s.mapQu f).pq = s.pq := rfl
@[simp] theorem mapQu_ls (s : State) (f : Queues → Queues) : (s.mapQu f).ls = s.ls := rfl
@[simp] theorem mapQu_bl (s : State) (f : Queues → Queues) : (s.mapQu f).bl = s.bl := rfl
@[simp] theorem mapQu_rtc (s : State) (f : Queues → Queues) : (s.mapQu f).rtc = s.rtc := rfl
@[simp] theorem mapQu_tp (s : State) (f : Queues → Queues) : (s.mapQu f).tp = s.tp := rfl
@[simp] theorem mapQu_er (s : State) (f : Queues → Queues) : (s.mapQu f).er = s.er := rfl
@[simp] theorem mapQu_dp (s : State) (f : Queues → Queues) : (s.mapQu f).dp = s.dp := rfl
@[simp] theorem mapQu_tr (s : State) (f : Queues → Queues) : (s.mapQu f).tr = s.tr := rfl
@[simp] theorem mapQu_hp (s : State) (f : Queues → Queues) : (s.mapQu f).hp = s.hp := rfl
@[simp] theorem mapQu_ser (s : State) (f : Queues → Queues) : (s.mapQu f).ser = s.ser := rfl
@[simp] theorem mapQu_cb (s : State) (f : Queues → Queues) : (s.mapQu f).cb = s.cb := rfl
@[simp] theorem mapQu_nv (s : State) (f : Queues → Queues) : (s.mapQu f).nv = s.nv := rfl
@[simp] theorem mapQu_fresh (s : State) (f : Queues → Queues) : (s.mapQu f).fresh = s.fresh := rfl

@[simp] theorem mapPl_pending (s : State) (f : Loader → Loader) : (s.mapPl f).pending = s.pending := rfl
@[simp] theorem mapPl_sup (s : State) (f : Loader → Loader) : (s.mapPl f).sup = s.sup := rfl
@[simp] theorem mapPl_tb (s : State) (f : Loader → Loader) : (s.mapPl f).tb = s.tb := rfl
@[simp] theorem mapPl_fe (s : State) (f : Loader → Loader) : (s.mapPl f).fe = s.fe := rfl
@[simp] theorem mapPl_cv (s : State) (f : Loader → Loader) : (s.mapPl f).cv = s.cv := rfl
@[simp] theorem mapPl_qu (s : State) (f : Loader → Loader) : (s.mapPl f).qu = s.qu := rfl
@[simp] theorem mapPl_pl (s : State) (f : Loader → Loader) : (s.mapPl f).pl = f s.pl := rfl
@[simp] theorem mapPl_met (s : State) (f : Loader → Loader) : (s.mapPl f).met = s.met := rfl
@[simp] theorem mapPl_pq (s : State) (f : Loader → Loader) : (s.mapPl f).pq = s.pq := rfl
@[simp] theorem mapPl_ls (s : State) (f : Loader → Loader) : (s.mapPl f).ls = s.ls := rfl
@[simp] theorem mapPl_bl (s : State) (f : Loader → Loader) : (s.mapPl f).bl = s.bl := rfl
@[simp] theorem mapPl_rtc (s : State) (f : Loader → Loader) : (s.mapPl f).rtc = s.rtc := rfl
@[simp] theorem mapPl_tp (s : State) (f : Loader → Loader) : (s.mapPl f).tp = s.tp := rfl
@[simp] theorem mapPl_er (s : State) (f : Loader → Loader) : (s.mapPl f).er = s.er := rfl
@[simp] theorem mapPl_dp (s : State) (f : Loader → Loader) : (s.mapPl f).dp = s.dp := rfl
@[simp] theorem mapPl_tr (s : State) (f : Loader → Loader) : (s.mapPl f).tr = s.tr := rfl
@[simp] theorem mapPl_hp (s : State) (f : Loader → Loader) : (s.mapPl f).hp = s.hp := rfl
@[simp] theorem mapPl_ser (s : State) (f : Loader → Loader) : (s.mapPl f).ser = s.ser := rfl
@[simp] theorem mapPl_cb (s : State) (f : Loader → Loader) : (s.mapPl f).cb = s.cb := rfl
@[simp] theorem mapPl_nv (s : State) (f : Loader → Loader) : (s.mapPl f).nv = s.nv := rfl
@[simp] theorem mapPl_fresh (s : State) (f : Loader → Loader) : (s.mapPl f).fresh = s.fresh := rfl

@[simp] theorem mapMet_pending (s : State) (f : Metrology → Metrology) : (s.mapMet f).pending = s.pending := rfl
@[simp] theorem mapMet_sup (s : State) (f : Metrology → Metrology) : (s.mapMet f).sup = s.sup := rfl
@[simp] theorem mapMet_tb (s : State) (f : Metrology → Metrology) : (s.mapMet f).tb = s.tb := rfl
@[simp] theorem mapMet_fe (s : State) (f : Metrology → Metrology) : (s.mapMet f).fe = s.fe := rfl
@[simp] theorem mapMet_cv (s : State) (f : Metrology → Metrology) : (s.mapMet f).cv = s.cv := rfl
@[simp] theorem mapMet_qu (s : State) (f : Metrology → Metrology) : (s.mapMet f).qu = s.qu := rfl
@[simp] theorem mapMet_pl (s : State) (f : Metrology → Metrology) : (s.mapMet f).pl = s.pl := rfl
@[simp] theorem mapMet_met (s : State) (f : Metrology → Metrology) : (s.mapMet f).met = f s.met := rfl
@[simp] theorem mapMet_pq (s : State) (f : Metrology → Metrology) : (s.mapMet f).pq = s.pq := rfl
@[simp] theorem mapMet_ls (s : State) (f : Metrology → Metrology) : (s.mapMet f).ls = s.ls := rfl
@[simp] theorem mapMet_bl (s : State) (f : Metrology → Metrology) : (s.mapMet f).bl = s.bl := rfl
@[simp] theorem mapMet_rtc (s : State) (f : Metrology → Metrology) : (s.mapMet f).rtc = s.rtc := rfl
@[simp] theorem mapMet_tp (s : State) (f : Metrology → Metrology) : (s.mapMet f).tp = s.tp := rfl
@[simp] theorem mapMet_er (s : State) (f : Metrology → Metrology) : (s.mapMet f).er = s.er := rfl
@[simp] theorem mapMet_dp (s : State) (f : Metrology → Metrology) : (s.mapMet f).dp = s.dp := rfl
@[simp] theorem mapMet_tr (s : State) (f : Metrology → Metrology) : (s.mapMet f).tr = s.tr := rfl
@[simp] theorem mapMet_hp (s : State) (f : Metrology → Metrology) : (s.mapMet f).hp = s.hp := rfl
@[simp] theorem mapMet_ser (s : State) (f : Metrology → Metrology) : (s.mapMet f).ser = s.ser := rfl
@[simp] theorem mapMet_cb (s : State) (f : Metrology → Metrology) : (s.mapMet f).cb = s.cb := rfl
@[simp] theorem mapMet_nv (s : State) (f : Metrology → Metrology) : (s.mapMet f).nv = s.nv := rfl
@[simp] theorem mapMet_fresh (s : State) (f : Metrology → Metrology) : (s.mapMet f).fresh = s.fresh := rfl

@[simp] theorem mapPq_pending (s : State) (f : PowerQuality → PowerQuality) : (s.mapPq f).pending = s.pending := rfl
@[simp] theorem mapPq_sup (s : State) (f : PowerQuality → PowerQuality) : (s.mapPq f).sup = s.sup := rfl
@[simp] theorem mapPq_tb (s : State) (f : PowerQuality → PowerQuality) : (s.mapPq f).tb = s.tb := rfl
@[simp] theorem mapPq_fe (s : State) (f : PowerQuality → PowerQuality) : (s.mapPq f).fe = s.fe := rfl
@[simp] theorem mapPq_cv (s : State) (f : PowerQuality → PowerQuality) : (s.mapPq f).cv = s.cv := rfl
@[simp] theorem mapPq_qu (s : State) (f : PowerQuality → PowerQuality) : (s.mapPq f).qu = s.qu := rfl
@[simp] theorem mapPq_pl (s : State) (f : PowerQuality → PowerQuality) : (s.mapPq f).pl = s.pl := rfl
@[simp] theorem mapPq_met (s : State) (f : PowerQuality → PowerQuality) : (s.mapPq f).met = s.met := rfl
@[simp] theorem mapPq_pq (s : State) (f : PowerQuality → PowerQuality) : (s.mapPq f).pq = f s.pq := rfl
@[simp] theorem mapPq_ls (s : State) (f : PowerQuality → PowerQuality) : (s.mapPq f).ls = s.ls := rfl
@[simp] theorem mapPq_bl (s : State) (f : PowerQuality → PowerQuality) : (s.mapPq f).bl = s.bl := rfl
@[simp] theorem mapPq_rtc (s : State) (f : PowerQuality → PowerQuality) : (s.mapPq f).rtc = s.rtc := rfl
@[simp] theorem mapPq_tp (s : State) (f : PowerQuality → PowerQuality) : (s.mapPq f).tp = s.tp := rfl
@[simp] theorem mapPq_er (s : State) (f : PowerQuality → PowerQuality) : (s.mapPq f).er = s.er := rfl
@[simp] theorem mapPq_dp (s : State) (f : PowerQuality → PowerQuality) : (s.mapPq f).dp = s.dp := rfl
@[simp] theorem mapPq_tr (s : State) (f : PowerQuality → PowerQuality) : (s.mapPq f).tr = s.tr := rfl
@[simp] theorem mapPq_hp (s : State) (f : PowerQuality → PowerQuality) : (s.mapPq f).hp = s.hp := rfl
@[simp] theorem mapPq_ser (s : State) (f : PowerQuality → PowerQuality) : (s.mapPq f).ser = s.ser := rfl
@[simp] theorem mapPq_cb (s : State) (f : PowerQuality → PowerQuality) : (s.mapPq f).cb = s.cb := rfl
@[simp] theorem mapPq_nv (s : State) (f : PowerQuality → PowerQuality) : (s.mapPq f).nv = s.nv := rfl
@[simp] theorem mapPq_fresh (s : State) (f : PowerQuality → PowerQuality) : (s.mapPq f).fresh = s.fresh := rfl

@[simp] theorem mapLs_pending (s : State) (f : Integrity → Integrity) : (s.mapLs f).pending = s.pending := rfl
@[simp] theorem mapLs_sup (s : State) (f : Integrity → Integrity) : (s.mapLs f).sup = s.sup := rfl
@[simp] theorem mapLs_tb (s : State) (f : Integrity → Integrity) : (s.mapLs f).tb = s.tb := rfl
@[simp] theorem mapLs_fe (s : State) (f : Integrity → Integrity) : (s.mapLs f).fe = s.fe := rfl
@[simp] theorem mapLs_cv (s : State) (f : Integrity → Integrity) : (s.mapLs f).cv = s.cv := rfl
@[simp] theorem mapLs_qu (s : State) (f : Integrity → Integrity) : (s.mapLs f).qu = s.qu := rfl
@[simp] theorem mapLs_pl (s : State) (f : Integrity → Integrity) : (s.mapLs f).pl = s.pl := rfl
@[simp] theorem mapLs_met (s : State) (f : Integrity → Integrity) : (s.mapLs f).met = s.met := rfl
@[simp] theorem mapLs_pq (s : State) (f : Integrity → Integrity) : (s.mapLs f).pq = s.pq := rfl
@[simp] theorem mapLs_ls (s : State) (f : Integrity → Integrity) : (s.mapLs f).ls = f s.ls := rfl
@[simp] theorem mapLs_bl (s : State) (f : Integrity → Integrity) : (s.mapLs f).bl = s.bl := rfl
@[simp] theorem mapLs_rtc (s : State) (f : Integrity → Integrity) : (s.mapLs f).rtc = s.rtc := rfl
@[simp] theorem mapLs_tp (s : State) (f : Integrity → Integrity) : (s.mapLs f).tp = s.tp := rfl
@[simp] theorem mapLs_er (s : State) (f : Integrity → Integrity) : (s.mapLs f).er = s.er := rfl
@[simp] theorem mapLs_dp (s : State) (f : Integrity → Integrity) : (s.mapLs f).dp = s.dp := rfl
@[simp] theorem mapLs_tr (s : State) (f : Integrity → Integrity) : (s.mapLs f).tr = s.tr := rfl
@[simp] theorem mapLs_hp (s : State) (f : Integrity → Integrity) : (s.mapLs f).hp = s.hp := rfl
@[simp] theorem mapLs_ser (s : State) (f : Integrity → Integrity) : (s.mapLs f).ser = s.ser := rfl
@[simp] theorem mapLs_cb (s : State) (f : Integrity → Integrity) : (s.mapLs f).cb = s.cb := rfl
@[simp] theorem mapLs_nv (s : State) (f : Integrity → Integrity) : (s.mapLs f).nv = s.nv := rfl
@[simp] theorem mapLs_fresh (s : State) (f : Integrity → Integrity) : (s.mapLs f).fresh = s.fresh := rfl

@[simp] theorem mapBl_pending (s : State) (f : Billing → Billing) : (s.mapBl f).pending = s.pending := rfl
@[simp] theorem mapBl_sup (s : State) (f : Billing → Billing) : (s.mapBl f).sup = s.sup := rfl
@[simp] theorem mapBl_tb (s : State) (f : Billing → Billing) : (s.mapBl f).tb = s.tb := rfl
@[simp] theorem mapBl_fe (s : State) (f : Billing → Billing) : (s.mapBl f).fe = s.fe := rfl
@[simp] theorem mapBl_cv (s : State) (f : Billing → Billing) : (s.mapBl f).cv = s.cv := rfl
@[simp] theorem mapBl_qu (s : State) (f : Billing → Billing) : (s.mapBl f).qu = s.qu := rfl
@[simp] theorem mapBl_pl (s : State) (f : Billing → Billing) : (s.mapBl f).pl = s.pl := rfl
@[simp] theorem mapBl_met (s : State) (f : Billing → Billing) : (s.mapBl f).met = s.met := rfl
@[simp] theorem mapBl_pq (s : State) (f : Billing → Billing) : (s.mapBl f).pq = s.pq := rfl
@[simp] theorem mapBl_ls (s : State) (f : Billing → Billing) : (s.mapBl f).ls = s.ls := rfl
@[simp] theorem mapBl_bl (s : State) (f : Billing → Billing) : (s.mapBl f).bl = f s.bl := rfl
@[simp] theorem mapBl_rtc (s : State) (f : Billing → Billing) : (s.mapBl f).rtc = s.rtc := rfl
@[simp] theorem mapBl_tp (s : State) (f : Billing → Billing) : (s.mapBl f).tp = s.tp := rfl
@[simp] theorem mapBl_er (s : State) (f : Billing → Billing) : (s.mapBl f).er = s.er := rfl
@[simp] theorem mapBl_dp (s : State) (f : Billing → Billing) : (s.mapBl f).dp = s.dp := rfl
@[simp] theorem mapBl_tr (s : State) (f : Billing → Billing) : (s.mapBl f).tr = s.tr := rfl
@[simp] theorem mapBl_hp (s : State) (f : Billing → Billing) : (s.mapBl f).hp = s.hp := rfl
@[simp] theorem mapBl_ser (s : State) (f : Billing → Billing) : (s.mapBl f).ser = s.ser := rfl
@[simp] theorem mapBl_cb (s : State) (f : Billing → Billing) : (s.mapBl f).cb = s.cb := rfl
@[simp] theorem mapBl_nv (s : State) (f : Billing → Billing) : (s.mapBl f).nv = s.nv := rfl
@[simp] theorem mapBl_fresh (s : State) (f : Billing → Billing) : (s.mapBl f).fresh = s.fresh := rfl

@[simp] theorem mapRtc_pending (s : State) (f : Rtc → Rtc) : (s.mapRtc f).pending = s.pending := rfl
@[simp] theorem mapRtc_sup (s : State) (f : Rtc → Rtc) : (s.mapRtc f).sup = s.sup := rfl
@[simp] theorem mapRtc_tb (s : State) (f : Rtc → Rtc) : (s.mapRtc f).tb = s.tb := rfl
@[simp] theorem mapRtc_fe (s : State) (f : Rtc → Rtc) : (s.mapRtc f).fe = s.fe := rfl
@[simp] theorem mapRtc_cv (s : State) (f : Rtc → Rtc) : (s.mapRtc f).cv = s.cv := rfl
@[simp] theorem mapRtc_qu (s : State) (f : Rtc → Rtc) : (s.mapRtc f).qu = s.qu := rfl
@[simp] theorem mapRtc_pl (s : State) (f : Rtc → Rtc) : (s.mapRtc f).pl = s.pl := rfl
@[simp] theorem mapRtc_met (s : State) (f : Rtc → Rtc) : (s.mapRtc f).met = s.met := rfl
@[simp] theorem mapRtc_pq (s : State) (f : Rtc → Rtc) : (s.mapRtc f).pq = s.pq := rfl
@[simp] theorem mapRtc_ls (s : State) (f : Rtc → Rtc) : (s.mapRtc f).ls = s.ls := rfl
@[simp] theorem mapRtc_bl (s : State) (f : Rtc → Rtc) : (s.mapRtc f).bl = s.bl := rfl
@[simp] theorem mapRtc_rtc (s : State) (f : Rtc → Rtc) : (s.mapRtc f).rtc = f s.rtc := rfl
@[simp] theorem mapRtc_tp (s : State) (f : Rtc → Rtc) : (s.mapRtc f).tp = s.tp := rfl
@[simp] theorem mapRtc_er (s : State) (f : Rtc → Rtc) : (s.mapRtc f).er = s.er := rfl
@[simp] theorem mapRtc_dp (s : State) (f : Rtc → Rtc) : (s.mapRtc f).dp = s.dp := rfl
@[simp] theorem mapRtc_tr (s : State) (f : Rtc → Rtc) : (s.mapRtc f).tr = s.tr := rfl
@[simp] theorem mapRtc_hp (s : State) (f : Rtc → Rtc) : (s.mapRtc f).hp = s.hp := rfl
@[simp] theorem mapRtc_ser (s : State) (f : Rtc → Rtc) : (s.mapRtc f).ser = s.ser := rfl
@[simp] theorem mapRtc_cb (s : State) (f : Rtc → Rtc) : (s.mapRtc f).cb = s.cb := rfl
@[simp] theorem mapRtc_nv (s : State) (f : Rtc → Rtc) : (s.mapRtc f).nv = s.nv := rfl
@[simp] theorem mapRtc_fresh (s : State) (f : Rtc → Rtc) : (s.mapRtc f).fresh = s.fresh := rfl

@[simp] theorem mapTp_pending (s : State) (f : Tamper → Tamper) : (s.mapTp f).pending = s.pending := rfl
@[simp] theorem mapTp_sup (s : State) (f : Tamper → Tamper) : (s.mapTp f).sup = s.sup := rfl
@[simp] theorem mapTp_tb (s : State) (f : Tamper → Tamper) : (s.mapTp f).tb = s.tb := rfl
@[simp] theorem mapTp_fe (s : State) (f : Tamper → Tamper) : (s.mapTp f).fe = s.fe := rfl
@[simp] theorem mapTp_cv (s : State) (f : Tamper → Tamper) : (s.mapTp f).cv = s.cv := rfl
@[simp] theorem mapTp_qu (s : State) (f : Tamper → Tamper) : (s.mapTp f).qu = s.qu := rfl
@[simp] theorem mapTp_pl (s : State) (f : Tamper → Tamper) : (s.mapTp f).pl = s.pl := rfl
@[simp] theorem mapTp_met (s : State) (f : Tamper → Tamper) : (s.mapTp f).met = s.met := rfl
@[simp] theorem mapTp_pq (s : State) (f : Tamper → Tamper) : (s.mapTp f).pq = s.pq := rfl
@[simp] theorem mapTp_ls (s : State) (f : Tamper → Tamper) : (s.mapTp f).ls = s.ls := rfl
@[simp] theorem mapTp_bl (s : State) (f : Tamper → Tamper) : (s.mapTp f).bl = s.bl := rfl
@[simp] theorem mapTp_rtc (s : State) (f : Tamper → Tamper) : (s.mapTp f).rtc = s.rtc := rfl
@[simp] theorem mapTp_tp (s : State) (f : Tamper → Tamper) : (s.mapTp f).tp = f s.tp := rfl
@[simp] theorem mapTp_er (s : State) (f : Tamper → Tamper) : (s.mapTp f).er = s.er := rfl
@[simp] theorem mapTp_dp (s : State) (f : Tamper → Tamper) : (s.mapTp f).dp = s.dp := rfl
@[simp] theorem mapTp_tr (s : State) (f : Tamper → Tamper) : (s.mapTp f).tr = s.tr := rfl
@[simp] theorem mapTp_hp (s : State) (f : Tamper → Tamper) : (s.mapTp f).hp = s.hp := rfl
@[simp] theorem mapTp_ser (s : State) (f : Tamper → Tamper) : (s.mapTp f).ser = s.ser := rfl
@[simp] theorem mapTp_cb (s : State) (f : Tamper → Tamper) : (s.mapTp f).cb = s.cb := rfl
@[simp] theorem mapTp_nv (s : State) (f : Tamper → Tamper) : (s.mapTp f).nv = s.nv := rfl
@[simp] theorem mapTp_fresh (s : State) (f : Tamper → Tamper) : (s.mapTp f).fresh = s.fresh := rfl

@[simp] theorem mapEr_pending (s : State) (f : Recorder → Recorder) : (s.mapEr f).pending = s.pending := rfl
@[simp] theorem mapEr_sup (s : State) (f : Recorder → Recorder) : (s.mapEr f).sup = s.sup := rfl
@[simp] theorem mapEr_tb (s : State) (f : Recorder → Recorder) : (s.mapEr f).tb = s.tb := rfl
@[simp] theorem mapEr_fe (s : State) (f : Recorder → Recorder) : (s.mapEr f).fe = s.fe := rfl
@[simp] theorem mapEr_cv (s : State) (f : Recorder → Recorder) : (s.mapEr f).cv = s.cv := rfl
@[simp] theorem mapEr_qu (s : State) (f : Recorder → Recorder) : (s.mapEr f).qu = s.qu := rfl
@[simp] theorem mapEr_pl (s : State) (f : Recorder → Recorder) : (s.mapEr f).pl = s.pl := rfl
@[simp] theorem mapEr_met (s : State) (f : Recorder → Recorder) : (s.mapEr f).met = s.met := rfl
@[simp] theorem mapEr_pq (s : State) (f : Recorder → Recorder) : (s.mapEr f).pq = s.pq := rfl
@[simp] theorem mapEr_ls (s : State) (f : Recorder → Recorder) : (s.mapEr f).ls = s.ls := rfl
@[simp] theorem mapEr_bl (s : State) (f : Recorder → Recorder) : (s.mapEr f).bl = s.bl := rfl
@[simp] theorem mapEr_rtc (s : State) (f : Recorder → Recorder) : (s.mapEr f).rtc = s.rtc := rfl
@[simp] theorem mapEr_tp (s : State) (f : Recorder → Recorder) : (s.mapEr f).tp = s.tp := rfl
@[simp] theorem mapEr_er (s : State) (f : Recorder → Recorder) : (s.mapEr f).er = f s.er := rfl
@[simp] theorem mapEr_dp (s : State) (f : Recorder → Recorder) : (s.mapEr f).dp = s.dp := rfl
@[simp] theorem mapEr_tr (s : State) (f : Recorder → Recorder) : (s.mapEr f).tr = s.tr := rfl
@[simp] theorem mapEr_hp (s : State) (f : Recorder → Recorder) : (s.mapEr f).hp = s.hp := rfl
@[simp] theorem mapEr_ser (s : State) (f : Recorder → Recorder) : (s.mapEr f).ser = s.ser := rfl
@[simp] theorem mapEr_cb (s : State) (f : Recorder → Recorder) : (s.mapEr f).cb = s.cb := rfl
@[simp] theorem mapEr_nv (s : State) (f : Recorder → Recorder) : (s.mapEr f).nv = s.nv := rfl
@[simp] theorem mapEr_fresh (s : State) (f : Recorder → Recorder) : (s.mapEr f).fresh = s.fresh := rfl

@[simp] theorem mapDp_pending (s : State) (f : Display → Display) : (s.mapDp f).pending = s.pending := rfl
@[simp] theorem mapDp_sup (s : State) (f : Display → Display) : (s.mapDp f).sup = s.sup := rfl
@[simp] theorem mapDp_tb (s : State) (f : Display → Display) : (s.mapDp f).tb = s.tb := rfl
@[simp] theorem mapDp_fe (s : State) (f : Display → Display) : (s.mapDp f).fe = s.fe := rfl
@[simp] theorem mapDp_cv (s : State) (f : Display → Display) : (s.mapDp f).cv = s.cv := rfl
@[simp] theorem mapDp_qu (s : State) (f : Display → Display) : (s.mapDp f).qu = s.qu := rfl
@[simp] theorem mapDp_pl (s : State) (f : Display → Display) : (s.mapDp f).pl = s.pl := rfl
@[simp] theorem mapDp_met (s : State) (f : Display → Display) : (s.mapDp f).met = s.met := rfl
@[simp] theorem mapDp_pq (s : State) (f : Display → Display) : (s.mapDp f).pq = s.pq := rfl
@[simp] theorem mapDp_ls (s : State) (f : Display → Display) : (s.mapDp f).ls = s.ls := rfl
@[simp] theorem mapDp_bl (s : State) (f : Display → Display) : (s.mapDp f).bl = s.bl := rfl
@[simp] theorem mapDp_rtc (s : State) (f : Display → Display) : (s.mapDp f).rtc = s.rtc := rfl
@[simp] theorem mapDp_tp (s : State) (f : Display → Display) : (s.mapDp f).tp = s.tp := rfl
@[simp] theorem mapDp_er (s : State) (f : Display → Display) : (s.mapDp f).er = s.er := rfl
@[simp] theorem mapDp_dp (s : State) (f : Display → Display) : (s.mapDp f).dp = f s.dp := rfl
@[simp] theorem mapDp_tr (s : State) (f : Display → Display) : (s.mapDp f).tr = s.tr := rfl
@[simp] theorem mapDp_hp (s : State) (f : Display → Display) : (s.mapDp f).hp = s.hp := rfl
@[simp] theorem mapDp_ser (s : State) (f : Display → Display) : (s.mapDp f).ser = s.ser := rfl
@[simp] theorem mapDp_cb (s : State) (f : Display → Display) : (s.mapDp f).cb = s.cb := rfl
@[simp] theorem mapDp_nv (s : State) (f : Display → Display) : (s.mapDp f).nv = s.nv := rfl
@[simp] theorem mapDp_fresh (s : State) (f : Display → Display) : (s.mapDp f).fresh = s.fresh := rfl

@[simp] theorem mapTr_pending (s : State) (f : Trust → Trust) : (s.mapTr f).pending = s.pending := rfl
@[simp] theorem mapTr_sup (s : State) (f : Trust → Trust) : (s.mapTr f).sup = s.sup := rfl
@[simp] theorem mapTr_tb (s : State) (f : Trust → Trust) : (s.mapTr f).tb = s.tb := rfl
@[simp] theorem mapTr_fe (s : State) (f : Trust → Trust) : (s.mapTr f).fe = s.fe := rfl
@[simp] theorem mapTr_cv (s : State) (f : Trust → Trust) : (s.mapTr f).cv = s.cv := rfl
@[simp] theorem mapTr_qu (s : State) (f : Trust → Trust) : (s.mapTr f).qu = s.qu := rfl
@[simp] theorem mapTr_pl (s : State) (f : Trust → Trust) : (s.mapTr f).pl = s.pl := rfl
@[simp] theorem mapTr_met (s : State) (f : Trust → Trust) : (s.mapTr f).met = s.met := rfl
@[simp] theorem mapTr_pq (s : State) (f : Trust → Trust) : (s.mapTr f).pq = s.pq := rfl
@[simp] theorem mapTr_ls (s : State) (f : Trust → Trust) : (s.mapTr f).ls = s.ls := rfl
@[simp] theorem mapTr_bl (s : State) (f : Trust → Trust) : (s.mapTr f).bl = s.bl := rfl
@[simp] theorem mapTr_rtc (s : State) (f : Trust → Trust) : (s.mapTr f).rtc = s.rtc := rfl
@[simp] theorem mapTr_tp (s : State) (f : Trust → Trust) : (s.mapTr f).tp = s.tp := rfl
@[simp] theorem mapTr_er (s : State) (f : Trust → Trust) : (s.mapTr f).er = s.er := rfl
@[simp] theorem mapTr_dp (s : State) (f : Trust → Trust) : (s.mapTr f).dp = s.dp := rfl
@[simp] theorem mapTr_tr (s : State) (f : Trust → Trust) : (s.mapTr f).tr = f s.tr := rfl
@[simp] theorem mapTr_hp (s : State) (f : Trust → Trust) : (s.mapTr f).hp = s.hp := rfl
@[simp] theorem mapTr_ser (s : State) (f : Trust → Trust) : (s.mapTr f).ser = s.ser := rfl
@[simp] theorem mapTr_cb (s : State) (f : Trust → Trust) : (s.mapTr f).cb = s.cb := rfl
@[simp] theorem mapTr_nv (s : State) (f : Trust → Trust) : (s.mapTr f).nv = s.nv := rfl
@[simp] theorem mapTr_fresh (s : State) (f : Trust → Trust) : (s.mapTr f).fresh = s.fresh := rfl

@[simp] theorem mapHp_pending (s : State) (f : Port → Port) : (s.mapHp f).pending = s.pending := rfl
@[simp] theorem mapHp_sup (s : State) (f : Port → Port) : (s.mapHp f).sup = s.sup := rfl
@[simp] theorem mapHp_tb (s : State) (f : Port → Port) : (s.mapHp f).tb = s.tb := rfl
@[simp] theorem mapHp_fe (s : State) (f : Port → Port) : (s.mapHp f).fe = s.fe := rfl
@[simp] theorem mapHp_cv (s : State) (f : Port → Port) : (s.mapHp f).cv = s.cv := rfl
@[simp] theorem mapHp_qu (s : State) (f : Port → Port) : (s.mapHp f).qu = s.qu := rfl
@[simp] theorem mapHp_pl (s : State) (f : Port → Port) : (s.mapHp f).pl = s.pl := rfl
@[simp] theorem mapHp_met (s : State) (f : Port → Port) : (s.mapHp f).met = s.met := rfl
@[simp] theorem mapHp_pq (s : State) (f : Port → Port) : (s.mapHp f).pq = s.pq := rfl
@[simp] theorem mapHp_ls (s : State) (f : Port → Port) : (s.mapHp f).ls = s.ls := rfl
@[simp] theorem mapHp_bl (s : State) (f : Port → Port) : (s.mapHp f).bl = s.bl := rfl
@[simp] theorem mapHp_rtc (s : State) (f : Port → Port) : (s.mapHp f).rtc = s.rtc := rfl
@[simp] theorem mapHp_tp (s : State) (f : Port → Port) : (s.mapHp f).tp = s.tp := rfl
@[simp] theorem mapHp_er (s : State) (f : Port → Port) : (s.mapHp f).er = s.er := rfl
@[simp] theorem mapHp_dp (s : State) (f : Port → Port) : (s.mapHp f).dp = s.dp := rfl
@[simp] theorem mapHp_tr (s : State) (f : Port → Port) : (s.mapHp f).tr = s.tr := rfl
@[simp] theorem mapHp_hp (s : State) (f : Port → Port) : (s.mapHp f).hp = f s.hp := rfl
@[simp] theorem mapHp_ser (s : State) (f : Port → Port) : (s.mapHp f).ser = s.ser := rfl
@[simp] theorem mapHp_cb (s : State) (f : Port → Port) : (s.mapHp f).cb = s.cb := rfl
@[simp] theorem mapHp_nv (s : State) (f : Port → Port) : (s.mapHp f).nv = s.nv := rfl
@[simp] theorem mapHp_fresh (s : State) (f : Port → Port) : (s.mapHp f).fresh = s.fresh := rfl

@[simp] theorem mapSer_pending (s : State) (f : Serial → Serial) : (s.mapSer f).pending = s.pending := rfl
@[simp] theorem mapSer_sup (s : State) (f : Serial → Serial) : (s.mapSer f).sup = s.sup := rfl
@[simp] theorem mapSer_tb (s : State) (f : Serial → Serial) : (s.mapSer f).tb = s.tb := rfl
@[simp] theorem mapSer_fe (s : State) (f : Serial → Serial) : (s.mapSer f).fe = s.fe := rfl
@[simp] theorem mapSer_cv (s : State) (f : Serial → Serial) : (s.mapSer f).cv = s.cv := rfl
@[simp] theorem mapSer_qu (s : State) (f : Serial → Serial) : (s.mapSer f).qu = s.qu := rfl
@[simp] theorem mapSer_pl (s : State) (f : Serial → Serial) : (s.mapSer f).pl = s.pl := rfl
@[simp] theorem mapSer_met (s : State) (f : Serial → Serial) : (s.mapSer f).met = s.met := rfl
@[simp] theorem mapSer_pq (s : State) (f : Serial → Serial) : (s.mapSer f).pq = s.pq := rfl
@[simp] theorem mapSer_ls (s : State) (f : Serial → Serial) : (s.mapSer f).ls = s.ls := rfl
@[simp] theorem mapSer_bl (s : State) (f : Serial → Serial) : (s.mapSer f).bl = s.bl := rfl
@[simp] theorem mapSer_rtc (s : State) (f : Serial → Serial) : (s.mapSer f).rtc = s.rtc := rfl
@[simp] theorem mapSer_tp (s : State) (f : Serial → Serial) : (s.mapSer f).tp = s.tp := rfl
@[simp] theorem mapSer_er (s : State) (f : Serial → Serial) : (s.mapSer f).er = s.er := rfl
@[simp] theorem mapSer_dp (s : State) (f : Serial → Serial) : (s.mapSer f).dp = s.dp := rfl
@[simp] theorem mapSer_tr (s : State) (f : Serial → Serial) : (s.mapSer f).tr = s.tr := rfl
@[simp] theorem mapSer_hp (s : State) (f : Serial → Serial) : (s.mapSer f).hp = s.hp := rfl
@[simp] theorem mapSer_ser (s : State) (f : Serial → Serial) : (s.mapSer f).ser = f s.ser := rfl
@[simp] theorem mapSer_cb (s : State) (f : Serial → Serial) : (s.mapSer f).cb = s.cb := rfl
@[simp] theorem mapSer_nv (s : State) (f : Serial → Serial) : (s.mapSer f).nv = s.nv := rfl
@[simp] theorem mapSer_fresh (s : State) (f : Serial → Serial) : (s.mapSer f).fresh = s.fresh := rfl

@[simp] theorem mapCb_pending (s : State) (f : Cobalt → Cobalt) : (s.mapCb f).pending = s.pending := rfl
@[simp] theorem mapCb_sup (s : State) (f : Cobalt → Cobalt) : (s.mapCb f).sup = s.sup := rfl
@[simp] theorem mapCb_tb (s : State) (f : Cobalt → Cobalt) : (s.mapCb f).tb = s.tb := rfl
@[simp] theorem mapCb_fe (s : State) (f : Cobalt → Cobalt) : (s.mapCb f).fe = s.fe := rfl
@[simp] theorem mapCb_cv (s : State) (f : Cobalt → Cobalt) : (s.mapCb f).cv = s.cv := rfl
@[simp] theorem mapCb_qu (s : State) (f : Cobalt → Cobalt) : (s.mapCb f).qu = s.qu := rfl
@[simp] theorem mapCb_pl (s : State) (f : Cobalt → Cobalt) : (s.mapCb f).pl = s.pl := rfl
@[simp] theorem mapCb_met (s : State) (f : Cobalt → Cobalt) : (s.mapCb f).met = s.met := rfl
@[simp] theorem mapCb_pq (s : State) (f : Cobalt → Cobalt) : (s.mapCb f).pq = s.pq := rfl
@[simp] theorem mapCb_ls (s : State) (f : Cobalt → Cobalt) : (s.mapCb f).ls = s.ls := rfl
@[simp] theorem mapCb_bl (s : State) (f : Cobalt → Cobalt) : (s.mapCb f).bl = s.bl := rfl
@[simp] theorem mapCb_rtc (s : State) (f : Cobalt → Cobalt) : (s.mapCb f).rtc = s.rtc := rfl
@[simp] theorem mapCb_tp (s : State) (f : Cobalt → Cobalt) : (s.mapCb f).tp = s.tp := rfl
@[simp] theorem mapCb_er (s : State) (f : Cobalt → Cobalt) : (s.mapCb f).er = s.er := rfl
@[simp] theorem mapCb_dp (s : State) (f : Cobalt → Cobalt) : (s.mapCb f).dp = s.dp := rfl
@[simp] theorem mapCb_tr (s : State) (f : Cobalt → Cobalt) : (s.mapCb f).tr = s.tr := rfl
@[simp] theorem mapCb_hp (s : State) (f : Cobalt → Cobalt) : (s.mapCb f).hp = s.hp := rfl
@[simp] theorem mapCb_ser (s : State) (f : Cobalt → Cobalt) : (s.mapCb f).ser = s.ser := rfl
@[simp] theorem mapCb_cb (s : State) (f : Cobalt → Cobalt) : (s.mapCb f).cb = f s.cb := rfl
@[simp] theorem mapCb_nv (s : State) (f : Cobalt → Cobalt) : (s.mapCb f).nv = s.nv := rfl
@[simp] theorem mapCb_fresh (s : State) (f : Cobalt → Cobalt) : (s.mapCb f).fresh = s.fresh := rfl

@[simp] theorem mapNv_pending (s : State) (f : NonVol → NonVol) : (s.mapNv f).pending = s.pending := rfl
@[simp] theorem mapNv_sup (s : State) (f : NonVol → NonVol) : (s.mapNv f).sup = s.sup := rfl
@[simp] theorem mapNv_tb (s : State) (f : NonVol → NonVol) : (s.mapNv f).tb = s.tb := rfl
@[simp] theorem mapNv_fe (s : State) (f : NonVol → NonVol) : (s.mapNv f).fe = s.fe := rfl
@[simp] theorem mapNv_cv (s : State) (f : NonVol → NonVol) : (s.mapNv f).cv = s.cv := rfl
@[simp] theorem mapNv_qu (s : State) (f : NonVol → NonVol) : (s.mapNv f).qu = s.qu := rfl
@[simp] theorem mapNv_pl (s : State) (f : NonVol → NonVol) : (s.mapNv f).pl = s.pl := rfl
@[simp] theorem mapNv_met (s : State) (f : NonVol → NonVol) : (s.mapNv f).met = s.met := rfl
@[simp] theorem mapNv_pq (s : State) (f : NonVol → NonVol) : (s.mapNv f).pq = s.pq := rfl
@[simp] theorem mapNv_ls (s : State) (f : NonVol → NonVol) : (s.mapNv f).ls = s.ls := rfl
@[simp] theorem mapNv_bl (s : State) (f : NonVol → NonVol) : (s.mapNv f).bl = s.bl := rfl
@[simp] theorem mapNv_rtc (s : State) (f : NonVol → NonVol) : (s.mapNv f).rtc = s.rtc := rfl
@[simp] theorem mapNv_tp (s : State) (f : NonVol → NonVol) : (s.mapNv f).tp = s.tp := rfl
@[simp] theorem mapNv_er (s : State) (f : NonVol → NonVol) : (s.mapNv f).er = s.er := rfl
@[simp] theorem mapNv_dp (s : State) (f : NonVol → NonVol) : (s.mapNv f).dp = s.dp := rfl
@[simp] theorem mapNv_tr (s : State) (f : NonVol → NonVol) : (s.mapNv f).tr = s.tr := rfl
@[simp] theorem mapNv_hp (s : State) (f : NonVol → NonVol) : (s.mapNv f).hp = s.hp := rfl
@[simp] theorem mapNv_ser (s : State) (f : NonVol → NonVol) : (s.mapNv f).ser = s.ser := rfl
@[simp] theorem mapNv_cb (s : State) (f : NonVol → NonVol) : (s.mapNv f).cb = s.cb := rfl
@[simp] theorem mapNv_nv (s : State) (f : NonVol → NonVol) : (s.mapNv f).nv = f s.nv := rfl
@[simp] theorem mapNv_fresh (s : State) (f : NonVol → NonVol) : (s.mapNv f).fresh = s.fresh := rfl

@[simp] theorem nextFresh_pending (s : State) : s.nextFresh.pending = s.pending := rfl
@[simp] theorem nextFresh_sup (s : State) : s.nextFresh.sup = s.sup := rfl
@[simp] theorem nextFresh_tb (s : State) : s.nextFresh.tb = s.tb := rfl
@[simp] theorem nextFresh_fe (s : State) : s.nextFresh.fe = s.fe := rfl
@[simp] theorem nextFresh_cv (s : State) : s.nextFresh.cv = s.cv := rfl
@[simp] theorem nextFresh_qu (s : State) : s.nextFresh.qu = s.qu := rfl
@[simp] theorem nextFresh_pl (s : State) : s.nextFresh.pl = s.pl := rfl
@[simp] theorem nextFresh_met (s : State) : s.nextFresh.met = s.met := rfl
@[simp] theorem nextFresh_pq (s : State) : s.nextFresh.pq = s.pq := rfl
@[simp] theorem nextFresh_ls (s : State) : s.nextFresh.ls = s.ls := rfl
@[simp] theorem nextFresh_bl (s : State) : s.nextFresh.bl = s.bl := rfl
@[simp] theorem nextFresh_rtc (s : State) : s.nextFresh.rtc = s.rtc := rfl
@[simp] theorem nextFresh_tp (s : State) : s.nextFresh.tp = s.tp := rfl
@[simp] theorem nextFresh_er (s : State) : s.nextFresh.er = s.er := rfl
@[simp] theorem nextFresh_dp (s : State) : s.nextFresh.dp = s.dp := rfl
@[simp] theorem nextFresh_tr (s : State) : s.nextFresh.tr = s.tr := rfl
@[simp] theorem nextFresh_hp (s : State) : s.nextFresh.hp = s.hp := rfl
@[simp] theorem nextFresh_ser (s : State) : s.nextFresh.ser = s.ser := rfl
@[simp] theorem nextFresh_cb (s : State) : s.nextFresh.cb = s.cb := rfl
@[simp] theorem nextFresh_nv (s : State) : s.nextFresh.nv = s.nv := rfl
@[simp] theorem nextFresh_fresh (s : State) : s.nextFresh.fresh = s.fresh + 1 := rfl

end Sys2Proof.Laws
end

