-- ==== Sys2Proof/Laws/Intake.lean ====
section
/-! SUPPORT. What the intake of an event leaves: the port's registers but the interrupt causes, which only gain bits, and the recorder
but its summaries and token buckets. -/

namespace Sys2Proof.Laws

open Sys2Proof.Machine

/-- A port without its interrupt causes. -/
def portRest (h : Port) : Port := { h with irqsts := 0, irqev := 0 }

/-- A recorder without what summaries and tokens change. -/
def recRest (r : Recorder) : Recorder :=
  { r with work := [], area0 := [], snext := 0, sdropN := [], sdrop := false, early := false, rl := [], waitS := [] }

/-- Events may have been taken in between two states. -/
def Intake (s t : State) : Prop :=
  portRest t.hp = portRest s.hp ∧ recRest t.er = recRest s.er ∧
  (∀ b, s.hp.irqsts.getLsbD b = true → t.hp.irqsts.getLsbD b = true) ∧ ∀ b, s.hp.irqev.getLsbD b = true → t.hp.irqev.getLsbD b = true

theorem intake_refl (s : State) : Intake s s := ⟨rfl, rfl, fun _ h => h, fun _ h => h⟩

theorem intake_trans {s x t : State} (h : Intake s x) (k : Intake x t) : Intake s t :=
  ⟨k.1.trans h.1, k.2.1.trans h.2.1, fun b q => k.2.2.1 b (h.2.2.1 b q), fun b q => k.2.2.2 b (h.2.2.2 b q)⟩

/-- A change of neither the port nor the recorder is no intake. -/
theorem intake_of_eq {s t : State} (h : t.hp = s.hp) (k : t.er = s.er) : Intake s t := by
  unfold Intake; rw [h, k]; exact intake_refl s

theorem irq_intake (s : State) (b : Nat) : Intake s (s.irq b) :=
  ⟨rfl, rfl, fun i h => by simp [State.irq, h], fun _ h => h⟩

theorem irqEvent_intake (s : State) (c : Nat) : Intake s (s.irqEvent c) :=
  ⟨rfl, rfl, fun _ h => h, fun i h => by simp [State.irqEvent, h]⟩

theorem mapEr_intake (s : State) (f : Recorder → Recorder) (h : recRest (f s.er) = recRest s.er) : Intake s (s.mapEr f) :=
  ⟨rfl, h, fun _ h => h, fun _ h => h⟩

theorem fillIrq_intake (s : State) (q a b : Nat) : Intake s (fillIrq s q a b) := by
  have h (c : Prop) [Decidable c] (x : State) (n : Nat) (hx : Intake s x) : Intake s (if c then x.irq n else x) := by
    split
    · exact intake_trans hx (irq_intake x n)
    · exact hx
  unfold fillIrq
  split
  · exact h _ _ 0 (h _ s 1 (intake_refl s))
  · exact intake_refl s

theorem pushTo_intake (s : State) (q : Nat) (es : List QEntry) : Intake s (pushTo s q es).s := by
  unfold pushTo
  dsimp only
  repeat' split
  all_goals first
    | exact intake_of_eq rfl rfl
    | exact intake_trans (intake_of_eq rfl rfl) (fillIrq_intake _ _ _ _)

theorem pushRaw_intake (s : State) (k n : Nat) (es : List QEntry) : Intake s (pushRaw s k n es).1 := by
  unfold pushRaw
  split
  · exact intake_of_eq rfl rfl
  · exact pushTo_intake _ _ _

theorem storeSummary_rest (r : Recorder) (m : Summary) : recRest (storeSummary r m) = recRest r := by
  unfold storeSummary
  repeat' split
  all_goals rfl

theorem storeSum_intake (s : State) (m : Summary) : Intake s (s.storeSum m) := by
  unfold State.storeSum
  dsimp only
  split
  · exact intake_trans (mapEr_intake s _ (storeSummary_rest _ _)) (irq_intake _ _)
  · exact mapEr_intake s _ (storeSummary_rest _ _)

theorem closePast_intake (s : State) (code chan : Nat) : Intake s (closePast s code chan) := by
  unfold closePast
  split
  · split
    · exact intake_trans (mapEr_intake s _ rfl) (storeSum_intake _ _)
    · exact intake_refl s
  · exact intake_refl s

theorem openKey_intake (s : State) (code chan : Nat) (e : Bool) : Intake s (openKey s code chan e) := by
  have h := closePast_intake s code chan
  unfold openKey
  generalize closePast s code chan = x at h ⊢
  dsimp only
  repeat' split
  all_goals first
    | exact h
    | exact intake_trans h (mapEr_intake x _ rfl)
    | exact intake_trans h (intake_trans (mapEr_intake x _ rfl) (intake_trans (storeSum_intake _ _) (mapEr_intake _ _ rfl)))

theorem updKey_intake (s : State) (code chan : Nat) (f : Recorder → Summary → Summary) : Intake s (updKey s code chan f) :=
  mapEr_intake s _ rfl

theorem setBucket_intake (s : State) (code : Nat) (b : Bucket) : Intake s (s.setBucket code b) := mapEr_intake s _ rfl

theorem raiseFuel_intake : ∀ (k : Nat) (s : State) (code chan : Nat) (v : Option Int), Intake s (raiseFuel k s code chan v)
  | 0, s, _, _, _ => intake_refl s
  | k + 1, s, code, chan, v => by
    unfold raiseFuel
    split
    · exact intake_refl s
    · split
      · dsimp only
        split
        · exact intake_trans (openKey_intake s _ _ _) (updKey_intake _ _ _ _)
        · have h1 := intake_trans (intake_trans (openKey_intake s code chan false)
            (setBucket_intake _ code { bucketAt s code with tokens := (bucketAt s code).tokens - 1 }))
            (intake_trans (updKey_intake _ code chan fun r => countIn r v) (irqEvent_intake _ code))
          split
          · rename_i x h
            have e := congrArg Prod.fst h
            simp only at e
            rw [← e]
            exact intake_trans h1 (pushRaw_intake _ _ _ _)
          · rename_i x q h
            have e := congrArg Prod.fst h
            simp only at e
            rw [← e]
            exact intake_trans (intake_trans h1 (pushRaw_intake _ _ _ _)) (raiseFuel_intake k _ _ _ _)
      · exact intake_refl s

theorem raise_intake (s : State) (code chan : Nat) (v : Option Int) : Intake s (raise s code chan v) := raiseFuel_intake 33 s code chan v

theorem endSample_intake (s : State) (code chan : Nat) (v : Int) : Intake s (endSample s code chan v) := by
  unfold endSample
  repeat' split
  all_goals first
    | exact intake_refl s
    | exact intake_trans (openKey_intake s _ _ _) (updKey_intake _ _ _ _)

theorem push_intake (s : State) (k n : Nat) (es : List QEntry) : Intake s (push s k n es) := by
  unfold push
  split
  · rename_i x h
    have e := congrArg Prod.fst h
    simp only at e
    rw [← e]
    exact pushRaw_intake _ _ _ _
  · rename_i x q h
    have e := congrArg Prod.fst h
    simp only at e
    rw [← e]
    exact intake_trans (pushRaw_intake _ _ _ _) (raise_intake _ _ _ _)

@[simp] theorem raise_hp_code (s : State) (code chan : Nat) (v : Option Int) : (State.hp (raise s code chan v)).code = s.hp.code := by have h := congrArg Port.code (raise_intake s code chan v).1; exact h
@[simp] theorem raise_hp_crcerr (s : State) (code chan : Nat) (v : Option Int) : (State.hp (raise s code chan v)).crcerr = s.hp.crcerr := by have h := congrArg Port.crcerr (raise_intake s code chan v).1; exact h
@[simp] theorem raise_hp_abort (s : State) (code chan : Nat) (v : Option Int) : (State.hp (raise s code chan v)).abort = s.hp.abort := by have h := congrArg Port.abort (raise_intake s code chan v).1; exact h
@[simp] theorem raise_hp_tmo (s : State) (code chan : Nat) (v : Option Int) : (State.hp (raise s code chan v)).tmo = s.hp.tmo := by have h := congrArg Port.tmo (raise_intake s code chan v).1; exact h
@[simp] theorem raise_hp_noeff (s : State) (code chan : Nat) (v : Option Int) : (State.hp (raise s code chan v)).noeff = s.hp.noeff := by have h := congrArg Port.noeff (raise_intake s code chan v).1; exact h
@[simp] theorem raise_hp_hto (s : State) (code chan : Nat) (v : Option Int) : (State.hp (raise s code chan v)).hto = s.hp.hto := by have h := congrArg Port.hto (raise_intake s code chan v).1; exact h
@[simp] theorem raise_hp_crcc (s : State) (code chan : Nat) (v : Option Int) : (State.hp (raise s code chan v)).crcc = s.hp.crcc := by have h := congrArg Port.crcc (raise_intake s code chan v).1; exact h
@[simp] theorem raise_hp_crcRun (s : State) (code chan : Nat) (v : Option Int) : (State.hp (raise s code chan v)).crcRun = s.hp.crcRun := by have h := congrArg Port.crcRun (raise_intake s code chan v).1; exact h
@[simp] theorem raise_hp_irqmsk (s : State) (code chan : Nat) (v : Option Int) : (State.hp (raise s code chan v)).irqmsk = s.hp.irqmsk := by have h := congrArg Port.irqmsk (raise_intake s code chan v).1; exact h
@[simp] theorem raise_hp_irqen (s : State) (code chan : Nat) (v : Option Int) : (State.hp (raise s code chan v)).irqen = s.hp.irqen := by have h := congrArg Port.irqen (raise_intake s code chan v).1; exact h
@[simp] theorem raise_hp_irqtamp (s : State) (code chan : Nat) (v : Option Int) : (State.hp (raise s code chan v)).irqtamp = s.hp.irqtamp := by have h := congrArg Port.irqtamp (raise_intake s code chan v).1; exact h
@[simp] theorem raise_hp_status (s : State) (code chan : Nat) (v : Option Int) : (State.hp (raise s code chan v)).status = s.hp.status := by have h := congrArg Port.status (raise_intake s code chan v).1; exact h
@[simp] theorem raise_hp_data (s : State) (code chan : Nat) (v : Option Int) : (State.hp (raise s code chan v)).data = s.hp.data := by have h := congrArg Port.data (raise_intake s code chan v).1; exact h
@[simp] theorem raise_hp_ignoring (s : State) (code chan : Nat) (v : Option Int) : (State.hp (raise s code chan v)).ignoring = s.hp.ignoring := by have h := congrArg Port.ignoring (raise_intake s code chan v).1; exact h
@[simp] theorem raise_hp_unmap (s : State) (code chan : Nat) (v : Option Int) : (State.hp (raise s code chan v)).unmap = s.hp.unmap := by have h := congrArg Port.unmap (raise_intake s code chan v).1; exact h
@[simp] theorem raise_hp_rwlcls (s : State) (code chan : Nat) (v : Option Int) : (State.hp (raise s code chan v)).rwlcls = s.hp.rwlcls := by have h := congrArg Port.rwlcls (raise_intake s code chan v).1; exact h
@[simp] theorem raise_hp_rwlref (s : State) (code chan : Nat) (v : Option Int) : (State.hp (raise s code chan v)).rwlref = s.hp.rwlref := by have h := congrArg Port.rwlref (raise_intake s code chan v).1; exact h
@[simp] theorem raise_hp_una (s : State) (code chan : Nat) (v : Option Int) : (State.hp (raise s code chan v)).una = s.hp.una := by have h := congrArg Port.una (raise_intake s code chan v).1; exact h
@[simp] theorem raise_hp_unr (s : State) (code chan : Nat) (v : Option Int) : (State.hp (raise s code chan v)).unr = s.hp.unr := by have h := congrArg Port.unr (raise_intake s code chan v).1; exact h
@[simp] theorem raise_hp_rwlr (s : State) (code chan : Nat) (v : Option Int) : (State.hp (raise s code chan v)).rwlr = s.hp.rwlr := by have h := congrArg Port.rwlr (raise_intake s code chan v).1; exact h
@[simp] theorem raise_hp_scr (s : State) (code chan : Nat) (v : Option Int) : (State.hp (raise s code chan v)).scr = s.hp.scr := by have h := congrArg Port.scr (raise_intake s code chan v).1; exact h
@[simp] theorem raise_hp_rwl (s : State) (code chan : Nat) (v : Option Int) : (State.hp (raise s code chan v)).rwl = s.hp.rwl := by have h := congrArg Port.rwl (raise_intake s code chan v).1; exact h
@[simp] theorem raise_hp_legal (s : State) (code chan : Nat) (v : Option Int) : (State.hp (raise s code chan v)).legal = s.hp.legal := by have h := congrArg Port.legal (raise_intake s code chan v).1; exact h
@[simp] theorem raise_hp_mbox (s : State) (code chan : Nat) (v : Option Int) : (State.hp (raise s code chan v)).mbox = s.hp.mbox := by have h := congrArg Port.mbox (raise_intake s code chan v).1; exact h
@[simp] theorem raise_er_plost (s : State) (code chan : Nat) (v : Option Int) : (State.er (raise s code chan v)).plost = s.er.plost := by have h := congrArg Recorder.plost (raise_intake s code chan v).2.1; exact h
@[simp] theorem raise_er_clrbusy (s : State) (code chan : Nat) (v : Option Int) : (State.er (raise s code chan v)).clrbusy = s.er.clrbusy := by have h := congrArg Recorder.clrbusy (raise_intake s code chan v).2.1; exact h
@[simp] theorem raise_er_ackref (s : State) (code chan : Nat) (v : Option Int) : (State.er (raise s code chan v)).ackref = s.er.ackref := by have h := congrArg Recorder.ackref (raise_intake s code chan v).2.1; exact h
@[simp] theorem raise_er_clrref (s : State) (code chan : Nat) (v : Option Int) : (State.er (raise s code chan v)).clrref = s.er.clrref := by have h := congrArg Recorder.clrref (raise_intake s code chan v).2.1; exact h
@[simp] theorem raise_er_area (s : State) (code chan : Nat) (v : Option Int) : (State.er (raise s code chan v)).area = s.er.area := by have h := congrArg Recorder.area (raise_intake s code chan v).2.1; exact h
@[simp] theorem raise_er_mode (s : State) (code chan : Nat) (v : Option Int) : (State.er (raise s code chan v)).mode = s.er.mode := by have h := congrArg Recorder.mode (raise_intake s code chan v).2.1; exact h
@[simp] theorem raise_er_cidx (s : State) (code chan : Nat) (v : Option Int) : (State.er (raise s code chan v)).cidx = s.er.cidx := by have h := congrArg Recorder.cidx (raise_intake s code chan v).2.1; exact h
@[simp] theorem raise_er_atEnd (s : State) (code chan : Nat) (v : Option Int) : (State.er (raise s code chan v)).atEnd = s.er.atEnd := by have h := congrArg Recorder.atEnd (raise_intake s code chan v).2.1; exact h
@[simp] theorem raise_er_ops (s : State) (code chan : Nat) (v : Option Int) : (State.er (raise s code chan v)).ops = s.er.ops := by have h := congrArg Recorder.ops (raise_intake s code chan v).2.1; exact h
@[simp] theorem raise_er_opsTicks (s : State) (code chan : Nat) (v : Option Int) : (State.er (raise s code chan v)).opsTicks = s.er.opsTicks := by have h := congrArg Recorder.opsTicks (raise_intake s code chan v).2.1; exact h
@[simp] theorem raise_er_pwc (s : State) (code chan : Nat) (v : Option Int) : (State.er (raise s code chan v)).pwc = s.er.pwc := by have h := congrArg Recorder.pwc (raise_intake s code chan v).2.1; exact h
@[simp] theorem raise_er_pseq (s : State) (code chan : Nat) (v : Option Int) : (State.er (raise s code chan v)).pseq = s.er.pseq := by have h := congrArg Recorder.pseq (raise_intake s code chan v).2.1; exact h
@[simp] theorem raise_er_wm (s : State) (code chan : Nat) (v : Option Int) : (State.er (raise s code chan v)).wm = s.er.wm := by have h := congrArg Recorder.wm (raise_intake s code chan v).2.1; exact h
@[simp] theorem raise_er_pres (s : State) (code chan : Nat) (v : Option Int) : (State.er (raise s code chan v)).pres = s.er.pres := by have h := congrArg Recorder.pres (raise_intake s code chan v).2.1; exact h
@[simp] theorem raise_er_plostN (s : State) (code chan : Nat) (v : Option Int) : (State.er (raise s code chan v)).plostN = s.er.plostN := by have h := congrArg Recorder.plostN (raise_intake s code chan v).2.1; exact h
@[simp] theorem raise_er_wrap (s : State) (code chan : Nat) (v : Option Int) : (State.er (raise s code chan v)).wrap = s.er.wrap := by have h := congrArg Recorder.wrap (raise_intake s code chan v).2.1; exact h
@[simp] theorem raise_er_agw (s : State) (code chan : Nat) (v : Option Int) : (State.er (raise s code chan v)).agw = s.er.agw := by have h := congrArg Recorder.agw (raise_intake s code chan v).2.1; exact h
@[simp] theorem raise_er_chal (s : State) (code chan : Nat) (v : Option Int) : (State.er (raise s code chan v)).chal = s.er.chal := by have h := congrArg Recorder.chal (raise_intake s code chan v).2.1; exact h
@[simp] theorem raise_er_auth (s : State) (code chan : Nat) (v : Option Int) : (State.er (raise s code chan v)).auth = s.er.auth := by have h := congrArg Recorder.auth (raise_intake s code chan v).2.1; exact h
@[simp] theorem raise_er_parts (s : State) (code chan : Nat) (v : Option Int) : (State.er (raise s code chan v)).parts = s.er.parts := by have h := congrArg Recorder.parts (raise_intake s code chan v).2.1; exact h
@[simp] theorem raise_er_due (s : State) (code chan : Nat) (v : Option Int) : (State.er (raise s code chan v)).due = s.er.due := by have h := congrArg Recorder.due (raise_intake s code chan v).2.1; exact h
@[simp] theorem raise_er_clrPos (s : State) (code chan : Nat) (v : Option Int) : (State.er (raise s code chan v)).clrPos = s.er.clrPos := by have h := congrArg Recorder.clrPos (raise_intake s code chan v).2.1; exact h
@[simp] theorem raise_hp_idle (s : State) (code chan : Nat) (v : Option Int) : (State.hp (raise s code chan v)).idle = s.hp.idle := by have h := congrArg Port.idle (raise_intake s code chan v).1; exact h
@[simp] theorem raise_hp_crcDone (s : State) (code chan : Nat) (v : Option Int) : (State.hp (raise s code chan v)).crcDone = s.hp.crcDone := by have h := congrArg Port.crcDone (raise_intake s code chan v).1; exact h
@[simp] theorem raise_hp_rwlAcc (s : State) (code chan : Nat) (v : Option Int) : (State.hp (raise s code chan v)).rwlAcc = s.hp.rwlAcc := by have h := congrArg Port.rwlAcc (raise_intake s code chan v).1; exact h
@[simp] theorem raise_hp_legalAns (s : State) (code chan : Nat) (v : Option Int) : (State.hp (raise s code chan v)).legalAns = s.hp.legalAns := by have h := congrArg Port.legalAns (raise_intake s code chan v).1; exact h
theorem raise_irqsts (s : State) (code chan : Nat) (v : Option Int) (i : Nat) (h : s.hp.irqsts.getLsbD i = true) : (State.hp (raise s code chan v)).irqsts.getLsbD i = true := (raise_intake s code chan v).2.2.1 i h
theorem raise_irqev (s : State) (code chan : Nat) (v : Option Int) (i : Nat) (h : s.hp.irqev.getLsbD i = true) : (State.hp (raise s code chan v)).irqev.getLsbD i = true := (raise_intake s code chan v).2.2.2 i h

@[simp] theorem endSample_hp_code (s : State) (code chan : Nat) (v : Int) : (State.hp (endSample s code chan v)).code = s.hp.code := by have h := congrArg Port.code (endSample_intake s code chan v).1; exact h
@[simp] theorem endSample_hp_crcerr (s : State) (code chan : Nat) (v : Int) : (State.hp (endSample s code chan v)).crcerr = s.hp.crcerr := by have h := congrArg Port.crcerr (endSample_intake s code chan v).1; exact h
@[simp] theorem endSample_hp_abort (s : State) (code chan : Nat) (v : Int) : (State.hp (endSample s code chan v)).abort = s.hp.abort := by have h := congrArg Port.abort (endSample_intake s code chan v).1; exact h
@[simp] theorem endSample_hp_tmo (s : State) (code chan : Nat) (v : Int) : (State.hp (endSample s code chan v)).tmo = s.hp.tmo := by have h := congrArg Port.tmo (endSample_intake s code chan v).1; exact h
@[simp] theorem endSample_hp_noeff (s : State) (code chan : Nat) (v : Int) : (State.hp (endSample s code chan v)).noeff = s.hp.noeff := by have h := congrArg Port.noeff (endSample_intake s code chan v).1; exact h
@[simp] theorem endSample_hp_hto (s : State) (code chan : Nat) (v : Int) : (State.hp (endSample s code chan v)).hto = s.hp.hto := by have h := congrArg Port.hto (endSample_intake s code chan v).1; exact h
@[simp] theorem endSample_hp_crcc (s : State) (code chan : Nat) (v : Int) : (State.hp (endSample s code chan v)).crcc = s.hp.crcc := by have h := congrArg Port.crcc (endSample_intake s code chan v).1; exact h
@[simp] theorem endSample_hp_crcRun (s : State) (code chan : Nat) (v : Int) : (State.hp (endSample s code chan v)).crcRun = s.hp.crcRun := by have h := congrArg Port.crcRun (endSample_intake s code chan v).1; exact h
@[simp] theorem endSample_hp_irqmsk (s : State) (code chan : Nat) (v : Int) : (State.hp (endSample s code chan v)).irqmsk = s.hp.irqmsk := by have h := congrArg Port.irqmsk (endSample_intake s code chan v).1; exact h
@[simp] theorem endSample_hp_irqen (s : State) (code chan : Nat) (v : Int) : (State.hp (endSample s code chan v)).irqen = s.hp.irqen := by have h := congrArg Port.irqen (endSample_intake s code chan v).1; exact h
@[simp] theorem endSample_hp_irqtamp (s : State) (code chan : Nat) (v : Int) : (State.hp (endSample s code chan v)).irqtamp = s.hp.irqtamp := by have h := congrArg Port.irqtamp (endSample_intake s code chan v).1; exact h
@[simp] theorem endSample_hp_status (s : State) (code chan : Nat) (v : Int) : (State.hp (endSample s code chan v)).status = s.hp.status := by have h := congrArg Port.status (endSample_intake s code chan v).1; exact h
@[simp] theorem endSample_hp_data (s : State) (code chan : Nat) (v : Int) : (State.hp (endSample s code chan v)).data = s.hp.data := by have h := congrArg Port.data (endSample_intake s code chan v).1; exact h
@[simp] theorem endSample_hp_ignoring (s : State) (code chan : Nat) (v : Int) : (State.hp (endSample s code chan v)).ignoring = s.hp.ignoring := by have h := congrArg Port.ignoring (endSample_intake s code chan v).1; exact h
@[simp] theorem endSample_hp_unmap (s : State) (code chan : Nat) (v : Int) : (State.hp (endSample s code chan v)).unmap = s.hp.unmap := by have h := congrArg Port.unmap (endSample_intake s code chan v).1; exact h
@[simp] theorem endSample_hp_rwlcls (s : State) (code chan : Nat) (v : Int) : (State.hp (endSample s code chan v)).rwlcls = s.hp.rwlcls := by have h := congrArg Port.rwlcls (endSample_intake s code chan v).1; exact h
@[simp] theorem endSample_hp_rwlref (s : State) (code chan : Nat) (v : Int) : (State.hp (endSample s code chan v)).rwlref = s.hp.rwlref := by have h := congrArg Port.rwlref (endSample_intake s code chan v).1; exact h
@[simp] theorem endSample_hp_una (s : State) (code chan : Nat) (v : Int) : (State.hp (endSample s code chan v)).una = s.hp.una := by have h := congrArg Port.una (endSample_intake s code chan v).1; exact h
@[simp] theorem endSample_hp_unr (s : State) (code chan : Nat) (v : Int) : (State.hp (endSample s code chan v)).unr = s.hp.unr := by have h := congrArg Port.unr (endSample_intake s code chan v).1; exact h
@[simp] theorem endSample_hp_rwlr (s : State) (code chan : Nat) (v : Int) : (State.hp (endSample s code chan v)).rwlr = s.hp.rwlr := by have h := congrArg Port.rwlr (endSample_intake s code chan v).1; exact h
@[simp] theorem endSample_hp_scr (s : State) (code chan : Nat) (v : Int) : (State.hp (endSample s code chan v)).scr = s.hp.scr := by have h := congrArg Port.scr (endSample_intake s code chan v).1; exact h
@[simp] theorem endSample_hp_rwl (s : State) (code chan : Nat) (v : Int) : (State.hp (endSample s code chan v)).rwl = s.hp.rwl := by have h := congrArg Port.rwl (endSample_intake s code chan v).1; exact h
@[simp] theorem endSample_hp_legal (s : State) (code chan : Nat) (v : Int) : (State.hp (endSample s code chan v)).legal = s.hp.legal := by have h := congrArg Port.legal (endSample_intake s code chan v).1; exact h
@[simp] theorem endSample_hp_mbox (s : State) (code chan : Nat) (v : Int) : (State.hp (endSample s code chan v)).mbox = s.hp.mbox := by have h := congrArg Port.mbox (endSample_intake s code chan v).1; exact h
@[simp] theorem endSample_er_plost (s : State) (code chan : Nat) (v : Int) : (State.er (endSample s code chan v)).plost = s.er.plost := by have h := congrArg Recorder.plost (endSample_intake s code chan v).2.1; exact h
@[simp] theorem endSample_er_clrbusy (s : State) (code chan : Nat) (v : Int) : (State.er (endSample s code chan v)).clrbusy = s.er.clrbusy := by have h := congrArg Recorder.clrbusy (endSample_intake s code chan v).2.1; exact h
@[simp] theorem endSample_er_ackref (s : State) (code chan : Nat) (v : Int) : (State.er (endSample s code chan v)).ackref = s.er.ackref := by have h := congrArg Recorder.ackref (endSample_intake s code chan v).2.1; exact h
@[simp] theorem endSample_er_clrref (s : State) (code chan : Nat) (v : Int) : (State.er (endSample s code chan v)).clrref = s.er.clrref := by have h := congrArg Recorder.clrref (endSample_intake s code chan v).2.1; exact h
@[simp] theorem endSample_er_area (s : State) (code chan : Nat) (v : Int) : (State.er (endSample s code chan v)).area = s.er.area := by have h := congrArg Recorder.area (endSample_intake s code chan v).2.1; exact h
@[simp] theorem endSample_er_mode (s : State) (code chan : Nat) (v : Int) : (State.er (endSample s code chan v)).mode = s.er.mode := by have h := congrArg Recorder.mode (endSample_intake s code chan v).2.1; exact h
@[simp] theorem endSample_er_cidx (s : State) (code chan : Nat) (v : Int) : (State.er (endSample s code chan v)).cidx = s.er.cidx := by have h := congrArg Recorder.cidx (endSample_intake s code chan v).2.1; exact h
@[simp] theorem endSample_er_atEnd (s : State) (code chan : Nat) (v : Int) : (State.er (endSample s code chan v)).atEnd = s.er.atEnd := by have h := congrArg Recorder.atEnd (endSample_intake s code chan v).2.1; exact h
@[simp] theorem endSample_er_ops (s : State) (code chan : Nat) (v : Int) : (State.er (endSample s code chan v)).ops = s.er.ops := by have h := congrArg Recorder.ops (endSample_intake s code chan v).2.1; exact h
@[simp] theorem endSample_er_opsTicks (s : State) (code chan : Nat) (v : Int) : (State.er (endSample s code chan v)).opsTicks = s.er.opsTicks := by have h := congrArg Recorder.opsTicks (endSample_intake s code chan v).2.1; exact h
@[simp] theorem endSample_er_pwc (s : State) (code chan : Nat) (v : Int) : (State.er (endSample s code chan v)).pwc = s.er.pwc := by have h := congrArg Recorder.pwc (endSample_intake s code chan v).2.1; exact h
@[simp] theorem endSample_er_pseq (s : State) (code chan : Nat) (v : Int) : (State.er (endSample s code chan v)).pseq = s.er.pseq := by have h := congrArg Recorder.pseq (endSample_intake s code chan v).2.1; exact h
@[simp] theorem endSample_er_wm (s : State) (code chan : Nat) (v : Int) : (State.er (endSample s code chan v)).wm = s.er.wm := by have h := congrArg Recorder.wm (endSample_intake s code chan v).2.1; exact h
@[simp] theorem endSample_er_pres (s : State) (code chan : Nat) (v : Int) : (State.er (endSample s code chan v)).pres = s.er.pres := by have h := congrArg Recorder.pres (endSample_intake s code chan v).2.1; exact h
@[simp] theorem endSample_er_plostN (s : State) (code chan : Nat) (v : Int) : (State.er (endSample s code chan v)).plostN = s.er.plostN := by have h := congrArg Recorder.plostN (endSample_intake s code chan v).2.1; exact h
@[simp] theorem endSample_er_wrap (s : State) (code chan : Nat) (v : Int) : (State.er (endSample s code chan v)).wrap = s.er.wrap := by have h := congrArg Recorder.wrap (endSample_intake s code chan v).2.1; exact h
@[simp] theorem endSample_er_agw (s : State) (code chan : Nat) (v : Int) : (State.er (endSample s code chan v)).agw = s.er.agw := by have h := congrArg Recorder.agw (endSample_intake s code chan v).2.1; exact h
@[simp] theorem endSample_er_chal (s : State) (code chan : Nat) (v : Int) : (State.er (endSample s code chan v)).chal = s.er.chal := by have h := congrArg Recorder.chal (endSample_intake s code chan v).2.1; exact h
@[simp] theorem endSample_er_auth (s : State) (code chan : Nat) (v : Int) : (State.er (endSample s code chan v)).auth = s.er.auth := by have h := congrArg Recorder.auth (endSample_intake s code chan v).2.1; exact h
@[simp] theorem endSample_er_parts (s : State) (code chan : Nat) (v : Int) : (State.er (endSample s code chan v)).parts = s.er.parts := by have h := congrArg Recorder.parts (endSample_intake s code chan v).2.1; exact h
@[simp] theorem endSample_er_due (s : State) (code chan : Nat) (v : Int) : (State.er (endSample s code chan v)).due = s.er.due := by have h := congrArg Recorder.due (endSample_intake s code chan v).2.1; exact h
@[simp] theorem endSample_er_clrPos (s : State) (code chan : Nat) (v : Int) : (State.er (endSample s code chan v)).clrPos = s.er.clrPos := by have h := congrArg Recorder.clrPos (endSample_intake s code chan v).2.1; exact h
theorem endSample_irqsts (s : State) (code chan : Nat) (v : Int) (i : Nat) (h : s.hp.irqsts.getLsbD i = true) : (State.hp (endSample s code chan v)).irqsts.getLsbD i = true := (endSample_intake s code chan v).2.2.1 i h
theorem endSample_irqev (s : State) (code chan : Nat) (v : Int) (i : Nat) (h : s.hp.irqev.getLsbD i = true) : (State.hp (endSample s code chan v)).irqev.getLsbD i = true := (endSample_intake s code chan v).2.2.2 i h

@[simp] theorem push_hp_code (s : State) (kind num : Nat) (es : List QEntry) : (State.hp (push s kind num es)).code = s.hp.code := by have h := congrArg Port.code (push_intake s kind num es).1; exact h
@[simp] theorem push_hp_crcerr (s : State) (kind num : Nat) (es : List QEntry) : (State.hp (push s kind num es)).crcerr = s.hp.crcerr := by have h := congrArg Port.crcerr (push_intake s kind num es).1; exact h
@[simp] theorem push_hp_abort (s : State) (kind num : Nat) (es : List QEntry) : (State.hp (push s kind num es)).abort = s.hp.abort := by have h := congrArg Port.abort (push_intake s kind num es).1; exact h
@[simp] theorem push_hp_tmo (s : State) (kind num : Nat) (es : List QEntry) : (State.hp (push s kind num es)).tmo = s.hp.tmo := by have h := congrArg Port.tmo (push_intake s kind num es).1; exact h
@[simp] theorem push_hp_noeff (s : State) (kind num : Nat) (es : List QEntry) : (State.hp (push s kind num es)).noeff = s.hp.noeff := by have h := congrArg Port.noeff (push_intake s kind num es).1; exact h
@[simp] theorem push_hp_hto (s : State) (kind num : Nat) (es : List QEntry) : (State.hp (push s kind num es)).hto = s.hp.hto := by have h := congrArg Port.hto (push_intake s kind num es).1; exact h
@[simp] theorem push_hp_crcc (s : State) (kind num : Nat) (es : List QEntry) : (State.hp (push s kind num es)).crcc = s.hp.crcc := by have h := congrArg Port.crcc (push_intake s kind num es).1; exact h
@[simp] theorem push_hp_crcRun (s : State) (kind num : Nat) (es : List QEntry) : (State.hp (push s kind num es)).crcRun = s.hp.crcRun := by have h := congrArg Port.crcRun (push_intake s kind num es).1; exact h
@[simp] theorem push_hp_irqmsk (s : State) (kind num : Nat) (es : List QEntry) : (State.hp (push s kind num es)).irqmsk = s.hp.irqmsk := by have h := congrArg Port.irqmsk (push_intake s kind num es).1; exact h
@[simp] theorem push_hp_irqen (s : State) (kind num : Nat) (es : List QEntry) : (State.hp (push s kind num es)).irqen = s.hp.irqen := by have h := congrArg Port.irqen (push_intake s kind num es).1; exact h
@[simp] theorem push_hp_irqtamp (s : State) (kind num : Nat) (es : List QEntry) : (State.hp (push s kind num es)).irqtamp = s.hp.irqtamp := by have h := congrArg Port.irqtamp (push_intake s kind num es).1; exact h
@[simp] theorem push_hp_status (s : State) (kind num : Nat) (es : List QEntry) : (State.hp (push s kind num es)).status = s.hp.status := by have h := congrArg Port.status (push_intake s kind num es).1; exact h
@[simp] theorem push_hp_data (s : State) (kind num : Nat) (es : List QEntry) : (State.hp (push s kind num es)).data = s.hp.data := by have h := congrArg Port.data (push_intake s kind num es).1; exact h
@[simp] theorem push_hp_ignoring (s : State) (kind num : Nat) (es : List QEntry) : (State.hp (push s kind num es)).ignoring = s.hp.ignoring := by have h := congrArg Port.ignoring (push_intake s kind num es).1; exact h
@[simp] theorem push_hp_unmap (s : State) (kind num : Nat) (es : List QEntry) : (State.hp (push s kind num es)).unmap = s.hp.unmap := by have h := congrArg Port.unmap (push_intake s kind num es).1; exact h
@[simp] theorem push_hp_rwlcls (s : State) (kind num : Nat) (es : List QEntry) : (State.hp (push s kind num es)).rwlcls = s.hp.rwlcls := by have h := congrArg Port.rwlcls (push_intake s kind num es).1; exact h
@[simp] theorem push_hp_rwlref (s : State) (kind num : Nat) (es : List QEntry) : (State.hp (push s kind num es)).rwlref = s.hp.rwlref := by have h := congrArg Port.rwlref (push_intake s kind num es).1; exact h
@[simp] theorem push_hp_una (s : State) (kind num : Nat) (es : List QEntry) : (State.hp (push s kind num es)).una = s.hp.una := by have h := congrArg Port.una (push_intake s kind num es).1; exact h
@[simp] theorem push_hp_unr (s : State) (kind num : Nat) (es : List QEntry) : (State.hp (push s kind num es)).unr = s.hp.unr := by have h := congrArg Port.unr (push_intake s kind num es).1; exact h
@[simp] theorem push_hp_rwlr (s : State) (kind num : Nat) (es : List QEntry) : (State.hp (push s kind num es)).rwlr = s.hp.rwlr := by have h := congrArg Port.rwlr (push_intake s kind num es).1; exact h
@[simp] theorem push_hp_scr (s : State) (kind num : Nat) (es : List QEntry) : (State.hp (push s kind num es)).scr = s.hp.scr := by have h := congrArg Port.scr (push_intake s kind num es).1; exact h
@[simp] theorem push_hp_rwl (s : State) (kind num : Nat) (es : List QEntry) : (State.hp (push s kind num es)).rwl = s.hp.rwl := by have h := congrArg Port.rwl (push_intake s kind num es).1; exact h
@[simp] theorem push_hp_legal (s : State) (kind num : Nat) (es : List QEntry) : (State.hp (push s kind num es)).legal = s.hp.legal := by have h := congrArg Port.legal (push_intake s kind num es).1; exact h
@[simp] theorem push_hp_mbox (s : State) (kind num : Nat) (es : List QEntry) : (State.hp (push s kind num es)).mbox = s.hp.mbox := by have h := congrArg Port.mbox (push_intake s kind num es).1; exact h
@[simp] theorem push_er_plost (s : State) (kind num : Nat) (es : List QEntry) : (State.er (push s kind num es)).plost = s.er.plost := by have h := congrArg Recorder.plost (push_intake s kind num es).2.1; exact h
@[simp] theorem push_er_clrbusy (s : State) (kind num : Nat) (es : List QEntry) : (State.er (push s kind num es)).clrbusy = s.er.clrbusy := by have h := congrArg Recorder.clrbusy (push_intake s kind num es).2.1; exact h
@[simp] theorem push_er_ackref (s : State) (kind num : Nat) (es : List QEntry) : (State.er (push s kind num es)).ackref = s.er.ackref := by have h := congrArg Recorder.ackref (push_intake s kind num es).2.1; exact h
@[simp] theorem push_er_clrref (s : State) (kind num : Nat) (es : List QEntry) : (State.er (push s kind num es)).clrref = s.er.clrref := by have h := congrArg Recorder.clrref (push_intake s kind num es).2.1; exact h
@[simp] theorem push_er_area (s : State) (kind num : Nat) (es : List QEntry) : (State.er (push s kind num es)).area = s.er.area := by have h := congrArg Recorder.area (push_intake s kind num es).2.1; exact h
@[simp] theorem push_er_mode (s : State) (kind num : Nat) (es : List QEntry) : (State.er (push s kind num es)).mode = s.er.mode := by have h := congrArg Recorder.mode (push_intake s kind num es).2.1; exact h
@[simp] theorem push_er_cidx (s : State) (kind num : Nat) (es : List QEntry) : (State.er (push s kind num es)).cidx = s.er.cidx := by have h := congrArg Recorder.cidx (push_intake s kind num es).2.1; exact h
@[simp] theorem push_er_atEnd (s : State) (kind num : Nat) (es : List QEntry) : (State.er (push s kind num es)).atEnd = s.er.atEnd := by have h := congrArg Recorder.atEnd (push_intake s kind num es).2.1; exact h
@[simp] theorem push_er_ops (s : State) (kind num : Nat) (es : List QEntry) : (State.er (push s kind num es)).ops = s.er.ops := by have h := congrArg Recorder.ops (push_intake s kind num es).2.1; exact h
@[simp] theorem push_er_opsTicks (s : State) (kind num : Nat) (es : List QEntry) : (State.er (push s kind num es)).opsTicks = s.er.opsTicks := by have h := congrArg Recorder.opsTicks (push_intake s kind num es).2.1; exact h
@[simp] theorem push_er_pwc (s : State) (kind num : Nat) (es : List QEntry) : (State.er (push s kind num es)).pwc = s.er.pwc := by have h := congrArg Recorder.pwc (push_intake s kind num es).2.1; exact h
@[simp] theorem push_er_pseq (s : State) (kind num : Nat) (es : List QEntry) : (State.er (push s kind num es)).pseq = s.er.pseq := by have h := congrArg Recorder.pseq (push_intake s kind num es).2.1; exact h
@[simp] theorem push_er_wm (s : State) (kind num : Nat) (es : List QEntry) : (State.er (push s kind num es)).wm = s.er.wm := by have h := congrArg Recorder.wm (push_intake s kind num es).2.1; exact h
@[simp] theorem push_er_pres (s : State) (kind num : Nat) (es : List QEntry) : (State.er (push s kind num es)).pres = s.er.pres := by have h := congrArg Recorder.pres (push_intake s kind num es).2.1; exact h
@[simp] theorem push_er_plostN (s : State) (kind num : Nat) (es : List QEntry) : (State.er (push s kind num es)).plostN = s.er.plostN := by have h := congrArg Recorder.plostN (push_intake s kind num es).2.1; exact h
@[simp] theorem push_er_wrap (s : State) (kind num : Nat) (es : List QEntry) : (State.er (push s kind num es)).wrap = s.er.wrap := by have h := congrArg Recorder.wrap (push_intake s kind num es).2.1; exact h
@[simp] theorem push_er_agw (s : State) (kind num : Nat) (es : List QEntry) : (State.er (push s kind num es)).agw = s.er.agw := by have h := congrArg Recorder.agw (push_intake s kind num es).2.1; exact h
@[simp] theorem push_er_chal (s : State) (kind num : Nat) (es : List QEntry) : (State.er (push s kind num es)).chal = s.er.chal := by have h := congrArg Recorder.chal (push_intake s kind num es).2.1; exact h
@[simp] theorem push_er_auth (s : State) (kind num : Nat) (es : List QEntry) : (State.er (push s kind num es)).auth = s.er.auth := by have h := congrArg Recorder.auth (push_intake s kind num es).2.1; exact h
@[simp] theorem push_er_parts (s : State) (kind num : Nat) (es : List QEntry) : (State.er (push s kind num es)).parts = s.er.parts := by have h := congrArg Recorder.parts (push_intake s kind num es).2.1; exact h
@[simp] theorem push_er_due (s : State) (kind num : Nat) (es : List QEntry) : (State.er (push s kind num es)).due = s.er.due := by have h := congrArg Recorder.due (push_intake s kind num es).2.1; exact h
@[simp] theorem push_er_clrPos (s : State) (kind num : Nat) (es : List QEntry) : (State.er (push s kind num es)).clrPos = s.er.clrPos := by have h := congrArg Recorder.clrPos (push_intake s kind num es).2.1; exact h
@[simp] theorem push_hp_idle (s : State) (kind num : Nat) (es : List QEntry) : (State.hp (push s kind num es)).idle = s.hp.idle := by have h := congrArg Port.idle (push_intake s kind num es).1; exact h
@[simp] theorem push_hp_crcDone (s : State) (kind num : Nat) (es : List QEntry) : (State.hp (push s kind num es)).crcDone = s.hp.crcDone := by have h := congrArg Port.crcDone (push_intake s kind num es).1; exact h
@[simp] theorem push_hp_rwlAcc (s : State) (kind num : Nat) (es : List QEntry) : (State.hp (push s kind num es)).rwlAcc = s.hp.rwlAcc := by have h := congrArg Port.rwlAcc (push_intake s kind num es).1; exact h
@[simp] theorem push_hp_legalAns (s : State) (kind num : Nat) (es : List QEntry) : (State.hp (push s kind num es)).legalAns = s.hp.legalAns := by have h := congrArg Port.legalAns (push_intake s kind num es).1; exact h
theorem push_irqsts (s : State) (kind num : Nat) (es : List QEntry) (i : Nat) (h : s.hp.irqsts.getLsbD i = true) : (State.hp (push s kind num es)).irqsts.getLsbD i = true := (push_intake s kind num es).2.2.1 i h
theorem push_irqev (s : State) (kind num : Nat) (es : List QEntry) (i : Nat) (h : s.hp.irqev.getLsbD i = true) : (State.hp (push s kind num es)).irqev.getLsbD i = true := (push_intake s kind num es).2.2.2 i h

@[simp] theorem pushTo_hp_code (s : State) (q : Nat) (es : List QEntry) : (State.hp ((pushTo s q es).s)).code = s.hp.code := by have h := congrArg Port.code (pushTo_intake s q es).1; exact h
@[simp] theorem pushTo_hp_crcerr (s : State) (q : Nat) (es : List QEntry) : (State.hp ((pushTo s q es).s)).crcerr = s.hp.crcerr := by have h := congrArg Port.crcerr (pushTo_intake s q es).1; exact h
@[simp] theorem pushTo_hp_abort (s : State) (q : Nat) (es : List QEntry) : (State.hp ((pushTo s q es).s)).abort = s.hp.abort := by have h := congrArg Port.abort (pushTo_intake s q es).1; exact h
@[simp] theorem pushTo_hp_tmo (s : State) (q : Nat) (es : List QEntry) : (State.hp ((pushTo s q es).s)).tmo = s.hp.tmo := by have h := congrArg Port.tmo (pushTo_intake s q es).1; exact h
@[simp] theorem pushTo_hp_noeff (s : State) (q : Nat) (es : List QEntry) : (State.hp ((pushTo s q es).s)).noeff = s.hp.noeff := by have h := congrArg Port.noeff (pushTo_intake s q es).1; exact h
@[simp] theorem pushTo_hp_hto (s : State) (q : Nat) (es : List QEntry) : (State.hp ((pushTo s q es).s)).hto = s.hp.hto := by have h := congrArg Port.hto (pushTo_intake s q es).1; exact h
@[simp] theorem pushTo_hp_crcc (s : State) (q : Nat) (es : List QEntry) : (State.hp ((pushTo s q es).s)).crcc = s.hp.crcc := by have h := congrArg Port.crcc (pushTo_intake s q es).1; exact h
@[simp] theorem pushTo_hp_crcRun (s : State) (q : Nat) (es : List QEntry) : (State.hp ((pushTo s q es).s)).crcRun = s.hp.crcRun := by have h := congrArg Port.crcRun (pushTo_intake s q es).1; exact h
@[simp] theorem pushTo_hp_irqmsk (s : State) (q : Nat) (es : List QEntry) : (State.hp ((pushTo s q es).s)).irqmsk = s.hp.irqmsk := by have h := congrArg Port.irqmsk (pushTo_intake s q es).1; exact h
@[simp] theorem pushTo_hp_irqen (s : State) (q : Nat) (es : List QEntry) : (State.hp ((pushTo s q es).s)).irqen = s.hp.irqen := by have h := congrArg Port.irqen (pushTo_intake s q es).1; exact h
@[simp] theorem pushTo_hp_irqtamp (s : State) (q : Nat) (es : List QEntry) : (State.hp ((pushTo s q es).s)).irqtamp = s.hp.irqtamp := by have h := congrArg Port.irqtamp (pushTo_intake s q es).1; exact h
@[simp] theorem pushTo_hp_status (s : State) (q : Nat) (es : List QEntry) : (State.hp ((pushTo s q es).s)).status = s.hp.status := by have h := congrArg Port.status (pushTo_intake s q es).1; exact h
@[simp] theorem pushTo_hp_data (s : State) (q : Nat) (es : List QEntry) : (State.hp ((pushTo s q es).s)).data = s.hp.data := by have h := congrArg Port.data (pushTo_intake s q es).1; exact h
@[simp] theorem pushTo_hp_ignoring (s : State) (q : Nat) (es : List QEntry) : (State.hp ((pushTo s q es).s)).ignoring = s.hp.ignoring := by have h := congrArg Port.ignoring (pushTo_intake s q es).1; exact h
@[simp] theorem pushTo_hp_unmap (s : State) (q : Nat) (es : List QEntry) : (State.hp ((pushTo s q es).s)).unmap = s.hp.unmap := by have h := congrArg Port.unmap (pushTo_intake s q es).1; exact h
@[simp] theorem pushTo_hp_rwlcls (s : State) (q : Nat) (es : List QEntry) : (State.hp ((pushTo s q es).s)).rwlcls = s.hp.rwlcls := by have h := congrArg Port.rwlcls (pushTo_intake s q es).1; exact h
@[simp] theorem pushTo_hp_rwlref (s : State) (q : Nat) (es : List QEntry) : (State.hp ((pushTo s q es).s)).rwlref = s.hp.rwlref := by have h := congrArg Port.rwlref (pushTo_intake s q es).1; exact h
@[simp] theorem pushTo_hp_una (s : State) (q : Nat) (es : List QEntry) : (State.hp ((pushTo s q es).s)).una = s.hp.una := by have h := congrArg Port.una (pushTo_intake s q es).1; exact h
@[simp] theorem pushTo_hp_unr (s : State) (q : Nat) (es : List QEntry) : (State.hp ((pushTo s q es).s)).unr = s.hp.unr := by have h := congrArg Port.unr (pushTo_intake s q es).1; exact h
@[simp] theorem pushTo_hp_rwlr (s : State) (q : Nat) (es : List QEntry) : (State.hp ((pushTo s q es).s)).rwlr = s.hp.rwlr := by have h := congrArg Port.rwlr (pushTo_intake s q es).1; exact h
@[simp] theorem pushTo_hp_scr (s : State) (q : Nat) (es : List QEntry) : (State.hp ((pushTo s q es).s)).scr = s.hp.scr := by have h := congrArg Port.scr (pushTo_intake s q es).1; exact h
@[simp] theorem pushTo_hp_rwl (s : State) (q : Nat) (es : List QEntry) : (State.hp ((pushTo s q es).s)).rwl = s.hp.rwl := by have h := congrArg Port.rwl (pushTo_intake s q es).1; exact h
@[simp] theorem pushTo_hp_legal (s : State) (q : Nat) (es : List QEntry) : (State.hp ((pushTo s q es).s)).legal = s.hp.legal := by have h := congrArg Port.legal (pushTo_intake s q es).1; exact h
@[simp] theorem pushTo_hp_mbox (s : State) (q : Nat) (es : List QEntry) : (State.hp ((pushTo s q es).s)).mbox = s.hp.mbox := by have h := congrArg Port.mbox (pushTo_intake s q es).1; exact h
@[simp] theorem pushTo_hp_idle (s : State) (q : Nat) (es : List QEntry) : (State.hp ((pushTo s q es).s)).idle = s.hp.idle := by have h := congrArg Port.idle (pushTo_intake s q es).1; exact h
@[simp] theorem pushTo_hp_crcDone (s : State) (q : Nat) (es : List QEntry) : (State.hp ((pushTo s q es).s)).crcDone = s.hp.crcDone := by have h := congrArg Port.crcDone (pushTo_intake s q es).1; exact h
@[simp] theorem pushTo_hp_rwlAcc (s : State) (q : Nat) (es : List QEntry) : (State.hp ((pushTo s q es).s)).rwlAcc = s.hp.rwlAcc := by have h := congrArg Port.rwlAcc (pushTo_intake s q es).1; exact h
@[simp] theorem pushTo_hp_legalAns (s : State) (q : Nat) (es : List QEntry) : (State.hp ((pushTo s q es).s)).legalAns = s.hp.legalAns := by have h := congrArg Port.legalAns (pushTo_intake s q es).1; exact h
theorem pushTo_irqsts (s : State) (q : Nat) (es : List QEntry) (i : Nat) (h : s.hp.irqsts.getLsbD i = true) : (State.hp ((pushTo s q es).s)).irqsts.getLsbD i = true := (pushTo_intake s q es).2.2.1 i h
theorem pushTo_irqev (s : State) (q : Nat) (es : List QEntry) (i : Nat) (h : s.hp.irqev.getLsbD i = true) : (State.hp ((pushTo s q es).s)).irqev.getLsbD i = true := (pushTo_intake s q es).2.2.2 i h

/-- Bit b of the interrupt causes is set by its own cause. -/
theorem irq_set (s : State) (b : Nat) (h : b < 15) : (s.irq b).hp.irqsts.getLsbD b = true := by simp [State.irq, h]

theorem irqEvent_set (s : State) (c : Nat) (h : c < 256) : (s.irqEvent c).hp.irqev.getLsbD c = true := by simp [State.irqEvent, h]

end Sys2Proof.Laws
end

