-- ==== Sys2Proof/Laws/PerInstr.lean ====
section
/-! SUPPORT. One lemma per command: the queue of waiting commands is not among the parts the command can change, so the queue moves by
`step` alone. -/

namespace Sys2Proof.Laws.QueueKept

open Sys2Proof Sys2Proof.Machine

/-- The command's list of parts leaves the queue out. -/
def Statement (i : Instr) : Prop := (partsOf i).contains .pending = false

end Sys2Proof.Laws.QueueKept

open Sys2Proof Sys2Proof.Machine

theorem Sys2Proof.Laws.QueueKept.frameTick (inp : TickInput) : Sys2Proof.Laws.QueueKept.Statement (.frameTick inp) := rfl
theorem Sys2Proof.Laws.QueueKept.rtcSecondEdge (cyc : Nat) : Sys2Proof.Laws.QueueKept.Statement (.rtcSecondEdge cyc) := rfl
theorem Sys2Proof.Laws.QueueKept.markerReceive (m : Marker) : Sys2Proof.Laws.QueueKept.Statement (.markerReceive m) := rfl
theorem Sys2Proof.Laws.QueueKept.probeTimer : Sys2Proof.Laws.QueueKept.Statement (.probeTimer) := rfl
theorem Sys2Proof.Laws.QueueKept.probeBurst : Sys2Proof.Laws.QueueKept.Statement (.probeBurst) := rfl
theorem Sys2Proof.Laws.QueueKept.probe (port : Nat) (t2 t3 : Nat) : Sys2Proof.Laws.QueueKept.Statement (.probe port t2 t3) := rfl
theorem Sys2Proof.Laws.QueueKept.probeReply (t1 t2 t3 t4 : Int) : Sys2Proof.Laws.QueueKept.Statement (.probeReply t1 t2 t3 t4) := rfl
theorem Sys2Proof.Laws.QueueKept.timebaseLock : Sys2Proof.Laws.QueueKept.Statement (.timebaseLock) := rfl
theorem Sys2Proof.Laws.QueueKept.acquireTimeout : Sys2Proof.Laws.QueueKept.Statement (.acquireTimeout) := rfl
theorem Sys2Proof.Laws.QueueKept.missingMarkerTimeout : Sys2Proof.Laws.QueueKept.Statement (.missingMarkerTimeout) := rfl
theorem Sys2Proof.Laws.QueueKept.relockPairing (parent : Frame) (phase : Int) : Sys2Proof.Laws.QueueKept.Statement (.relockPairing parent phase) := rfl
theorem Sys2Proof.Laws.QueueKept.frameRenumber : Sys2Proof.Laws.QueueKept.Statement (.frameRenumber) := rfl
theorem Sys2Proof.Laws.QueueKept.report (src : Nat) (number : Frame) : Sys2Proof.Laws.QueueKept.Statement (.report src number) := rfl
theorem Sys2Proof.Laws.QueueKept.conversionComplete (slice slot : Nat) (taken : Option Nat) (raw : Int) : Sys2Proof.Laws.QueueKept.Statement (.conversionComplete slice slot taken raw) := rfl
theorem Sys2Proof.Laws.QueueKept.probeResult (ch : Nat) (res : Option Nat) : Sys2Proof.Laws.QueueKept.Statement (.probeResult ch res) := rfl
theorem Sys2Proof.Laws.QueueKept.referenceCheck (m0 m1 m2 m3 : Nat) : Sys2Proof.Laws.QueueKept.Statement (.referenceCheck m0 m1 m2 m3) := rfl
theorem Sys2Proof.Laws.QueueKept.sliceCalUpdate (slice : Nat) (cycle : CalCycle) : Sys2Proof.Laws.QueueKept.Statement (.sliceCalUpdate slice cycle) := rfl
theorem Sys2Proof.Laws.QueueKept.startupCalibrationDone (cycle : CalCycle) : Sys2Proof.Laws.QueueKept.Statement (.startupCalibrationDone cycle) := rfl
theorem Sys2Proof.Laws.QueueKept.settlingEnd : Sys2Proof.Laws.QueueKept.Statement (.settlingEnd) := rfl
theorem Sys2Proof.Laws.QueueKept.comparatorDwellComplete (point : Bool) (idx : Nat) : Sys2Proof.Laws.QueueKept.Statement (.comparatorDwellComplete point idx) := rfl
theorem Sys2Proof.Laws.QueueKept.faultCaptureManual (ch ap : Nat) : Sys2Proof.Laws.QueueKept.Statement (.faultCaptureManual ch ap) := rfl
theorem Sys2Proof.Laws.QueueKept.faultCapturePush : Sys2Proof.Laws.QueueKept.Statement (.faultCapturePush) := rfl
theorem Sys2Proof.Laws.QueueKept.queueMarkerAppend (q : Nat) : Sys2Proof.Laws.QueueKept.Statement (.queueMarkerAppend q) := rfl
theorem Sys2Proof.Laws.QueueKept.qpop0 (req : Requester) (q : Nat) : Sys2Proof.Laws.QueueKept.Statement (.qpop0 req q) := rfl
theorem Sys2Proof.Laws.QueueKept.qpush (req : Requester) (q : Nat) (w0 w1 w2 w3 : Word) : Sys2Proof.Laws.QueueKept.Statement (.qpush req q w0 w1 w2 w3) := rfl
theorem Sys2Proof.Laws.QueueKept.begin (req : Requester) : Sys2Proof.Laws.QueueKept.Statement (.begin req) := rfl
theorem Sys2Proof.Laws.QueueKept.pldata (req : Requester) (bytes : List Byte) : Sys2Proof.Laws.QueueKept.Statement (.pldata req bytes) := rfl
theorem Sys2Proof.Laws.QueueKept.verify (req : Requester) : Sys2Proof.Laws.QueueKept.Statement (.verify req) := rfl
theorem Sys2Proof.Laws.QueueKept.verificationDone : Sys2Proof.Laws.QueueKept.Statement (.verificationDone) := rfl
theorem Sys2Proof.Laws.QueueKept.activate (req : Requester) : Sys2Proof.Laws.QueueKept.Statement (.activate req) := rfl
theorem Sys2Proof.Laws.QueueKept.cancel (req : Requester) : Sys2Proof.Laws.QueueKept.Statement (.cancel req) := rfl
theorem Sys2Proof.Laws.QueueKept.arm (n : Frame) : Sys2Proof.Laws.QueueKept.Statement (.arm n) := rfl
theorem Sys2Proof.Laws.QueueKept.commit : Sys2Proof.Laws.QueueKept.Statement (.commit) := rfl
theorem Sys2Proof.Laws.QueueKept.commitDeadline : Sys2Proof.Laws.QueueKept.Statement (.commitDeadline) := rfl
theorem Sys2Proof.Laws.QueueKept.selectorCommit : Sys2Proof.Laws.QueueKept.Statement (.selectorCommit) := rfl
theorem Sys2Proof.Laws.QueueKept.planActivation : Sys2Proof.Laws.QueueKept.Statement (.planActivation) := rfl
theorem Sys2Proof.Laws.QueueKept.lockstepCompare (upsets : List Upset) : Sys2Proof.Laws.QueueKept.Statement (.lockstepCompare upsets) := rfl
theorem Sys2Proof.Laws.QueueKept.rmsWindowClose (bus : Nat) (half : Bool) : Sys2Proof.Laws.QueueKept.Statement (.rmsWindowClose bus half) := rfl
theorem Sys2Proof.Laws.QueueKept.pulseStart (out : Nat) : Sys2Proof.Laws.QueueKept.Statement (.pulseStart out) := rfl
theorem Sys2Proof.Laws.QueueKept.pulseEnd (out : Nat) : Sys2Proof.Laws.QueueKept.Statement (.pulseEnd out) := rfl
theorem Sys2Proof.Laws.QueueKept.bandWindowEnd : Sys2Proof.Laws.QueueKept.Statement (.bandWindowEnd) := rfl
theorem Sys2Proof.Laws.QueueKept.bandPublish : Sys2Proof.Laws.QueueKept.Statement (.bandPublish) := rfl
theorem Sys2Proof.Laws.QueueKept.pqIntervalEnd (tenMin : Bool) : Sys2Proof.Laws.QueueKept.Statement (.pqIntervalEnd tenMin) := rfl
theorem Sys2Proof.Laws.QueueKept.hclr : Sys2Proof.Laws.QueueKept.Statement (.hclr) := rfl
theorem Sys2Proof.Laws.QueueKept.liveWindowEnd (ch : Nat) (gain phs : Int) (noisy : Bool) : Sys2Proof.Laws.QueueKept.Statement (.liveWindowEnd ch gain phs noisy) := rfl
theorem Sys2Proof.Laws.QueueKept.go (req : Requester) : Sys2Proof.Laws.QueueKept.Statement (.go req) := rfl
theorem Sys2Proof.Laws.QueueKept.sprintStart : Sys2Proof.Laws.QueueKept.Statement (.sprintStart) := rfl
theorem Sys2Proof.Laws.QueueKept.sprintEnd : Sys2Proof.Laws.QueueKept.Statement (.sprintEnd) := rfl
theorem Sys2Proof.Laws.QueueKept.abort : Sys2Proof.Laws.QueueKept.Statement (.abort) := rfl
theorem Sys2Proof.Laws.QueueKept.sprd0 (req : Requester) : Sys2Proof.Laws.QueueKept.Statement (.sprd0 req) := rfl
theorem Sys2Proof.Laws.QueueKept.pairRead (req : Requester) (addr : Nat) : Sys2Proof.Laws.QueueKept.Statement (.pairRead req addr) := rfl
theorem Sys2Proof.Laws.QueueKept.scrubSlot : Sys2Proof.Laws.QueueKept.Statement (.scrubSlot) := rfl
theorem Sys2Proof.Laws.QueueKept.reinstate (req : Requester) (w : Word) : Sys2Proof.Laws.QueueKept.Statement (.reinstate req w) := rfl
theorem Sys2Proof.Laws.QueueKept.clruv (req : Requester) (w : Word) : Sys2Proof.Laws.QueueKept.Statement (.clruv req w) := rfl
theorem Sys2Proof.Laws.QueueKept.knownAnswerTestDone (failA failB : Bool) : Sys2Proof.Laws.QueueKept.Statement (.knownAnswerTestDone failA failB) := rfl
theorem Sys2Proof.Laws.QueueKept.lsinj (w : Word) : Sys2Proof.Laws.QueueKept.Statement (.lsinj w) := rfl
theorem Sys2Proof.Laws.QueueKept.tariffSwitch : Sys2Proof.Laws.QueueKept.Statement (.tariffSwitch) := rfl
theorem Sys2Proof.Laws.QueueKept.demandIntervalEnd : Sys2Proof.Laws.QueueKept.Statement (.demandIntervalEnd) := rfl
theorem Sys2Proof.Laws.QueueKept.billingCloseRule : Sys2Proof.Laws.QueueKept.Statement (.billingCloseRule) := rfl
theorem Sys2Proof.Laws.QueueKept.blcmd (req : Requester) (w : Word) : Sys2Proof.Laws.QueueKept.Statement (.blcmd req w) := rfl
theorem Sys2Proof.Laws.QueueKept.tariffFallbackApply : Sys2Proof.Laws.QueueKept.Statement (.tariffFallbackApply) := rfl
theorem Sys2Proof.Laws.QueueKept.crystalStop : Sys2Proof.Laws.QueueKept.Statement (.crystalStop) := rfl
theorem Sys2Proof.Laws.QueueKept.crystalRestore : Sys2Proof.Laws.QueueKept.Statement (.crystalRestore) := rfl
theorem Sys2Proof.Laws.QueueKept.slateSupplySwitch (cell : Bool) : Sys2Proof.Laws.QueueKept.Statement (.slateSupplySwitch cell) := rfl
theorem Sys2Proof.Laws.QueueKept.vbatLow (mv : Nat) : Sys2Proof.Laws.QueueKept.Statement (.vbatLow mv) := rfl
theorem Sys2Proof.Laws.QueueKept.slateColdStart : Sys2Proof.Laws.QueueKept.Statement (.slateColdStart) := rfl
theorem Sys2Proof.Laws.QueueKept.halt (req : Requester) (sub : Nat) (relpps : Bool) : Sys2Proof.Laws.QueueKept.Statement (.halt req sub relpps) := rfl
theorem Sys2Proof.Laws.QueueKept.rtcTimeWrite (req : Requester) (lo hi : Option Word) : Sys2Proof.Laws.QueueKept.Statement (.rtcTimeWrite req lo hi) := rfl
theorem Sys2Proof.Laws.QueueKept.clockSet (req : Requester) (dur : Nat) : Sys2Proof.Laws.QueueKept.Statement (.clockSet req dur) := rfl
theorem Sys2Proof.Laws.QueueKept.haltTimeout : Sys2Proof.Laws.QueueKept.Statement (.haltTimeout) := rfl
theorem Sys2Proof.Laws.QueueKept.clockSetRecord : Sys2Proof.Laws.QueueKept.Statement (.clockSetRecord) := rfl
theorem Sys2Proof.Laws.QueueKept.rtccapGo (sub cyc : Nat) : Sys2Proof.Laws.QueueKept.Statement (.rtccapGo sub cyc) := rfl
theorem Sys2Proof.Laws.QueueKept.ppsEdge (interval : Nat) (offset : Int) (dur : Nat) : Sys2Proof.Laws.QueueKept.Statement (.ppsEdge interval offset dur) := rfl
theorem Sys2Proof.Laws.QueueKept.ppsLoss : Sys2Proof.Laws.QueueKept.Statement (.ppsLoss) := rfl
theorem Sys2Proof.Laws.QueueKept.sealPinChange (low : Bool) : Sys2Proof.Laws.QueueKept.Statement (.sealPinChange low) := rfl
theorem Sys2Proof.Laws.QueueKept.sealDebounceComplete : Sys2Proof.Laws.QueueKept.Statement (.sealDebounceComplete) := rfl
theorem Sys2Proof.Laws.QueueKept.sealOpenDecision : Sys2Proof.Laws.QueueKept.Statement (.sealOpenDecision) := rfl
theorem Sys2Proof.Laws.QueueKept.tamperStaticEvent (held : HeldLevel) : Sys2Proof.Laws.QueueKept.Statement (.tamperStaticEvent held) := rfl
theorem Sys2Proof.Laws.QueueKept.loopBurst (missing : List Nat) : Sys2Proof.Laws.QueueKept.Statement (.loopBurst missing) := rfl
theorem Sys2Proof.Laws.QueueKept.tamperWindowClose (src : Nat) : Sys2Proof.Laws.QueueKept.Statement (.tamperWindowClose src) := rfl
theorem Sys2Proof.Laws.QueueKept.secondEvaluator (upset : Bool) : Sys2Proof.Laws.QueueKept.Statement (.secondEvaluator upset) := rfl
theorem Sys2Proof.Laws.QueueKept.dieTempSample (t : Int) : Sys2Proof.Laws.QueueKept.Statement (.dieTempSample t) := rfl
theorem Sys2Proof.Laws.QueueKept.supplyGlitch : Sys2Proof.Laws.QueueKept.Statement (.supplyGlitch) := rfl
theorem Sys2Proof.Laws.QueueKept.tpclr (req : Requester) (w : Word) : Sys2Proof.Laws.QueueKept.Statement (.tpclr req w) := rfl
theorem Sys2Proof.Laws.QueueKept.rwlRequestAnswer : Sys2Proof.Laws.QueueKept.Statement (.rwlRequestAnswer) := rfl
theorem Sys2Proof.Laws.QueueKept.legalRequest : Sys2Proof.Laws.QueueKept.Statement (.legalRequest) := rfl
theorem Sys2Proof.Laws.QueueKept.eventRaise (code chan : Nat) (v : Option Int) : Sys2Proof.Laws.QueueKept.Statement (.eventRaise code chan v) := rfl
theorem Sys2Proof.Laws.QueueKept.summaryWindowClose (code chan : Nat) : Sys2Proof.Laws.QueueKept.Statement (.summaryWindowClose code chan) := rfl
theorem Sys2Proof.Laws.QueueKept.tokenRefill (code : Nat) : Sys2Proof.Laws.QueueKept.Statement (.tokenRefill code) := rfl
theorem Sys2Proof.Laws.QueueKept.privilegedEntryWrite : Sys2Proof.Laws.QueueKept.Statement (.privilegedEntryWrite) := rfl
theorem Sys2Proof.Laws.QueueKept.erpack (req : Requester) (ack d0 d1 : Option Word) : Sys2Proof.Laws.QueueKept.Statement (.erpack req ack d0 d1) := rfl
theorem Sys2Proof.Laws.QueueKept.ersclr (req : Requester) : Sys2Proof.Laws.QueueKept.Statement (.ersclr req) := rfl
theorem Sys2Proof.Laws.QueueKept.summaryClearPassEnd : Sys2Proof.Laws.QueueKept.Statement (.summaryClearPassEnd) := rfl
theorem Sys2Proof.Laws.QueueKept.erwin15Read (req : Requester) : Sys2Proof.Laws.QueueKept.Statement (.erwin15Read req) := rfl
theorem Sys2Proof.Laws.QueueKept.displayPowerUp : Sys2Proof.Laws.QueueKept.Statement (.displayPowerUp) := rfl
theorem Sys2Proof.Laws.QueueKept.railGood (rail : Nat) : Sys2Proof.Laws.QueueKept.Statement (.railGood rail) := rfl
theorem Sys2Proof.Laws.QueueKept.railFault (rail : Nat) : Sys2Proof.Laws.QueueKept.Statement (.railFault rail) := rfl
theorem Sys2Proof.Laws.QueueKept.railRetry : Sys2Proof.Laws.QueueKept.Statement (.railRetry) := rfl
theorem Sys2Proof.Laws.QueueKept.displayPowerDown (forced : Bool) : Sys2Proof.Laws.QueueKept.Statement (.displayPowerDown forced) := rfl
theorem Sys2Proof.Laws.QueueKept.driveStep (missed : List Nat) : Sys2Proof.Laws.QueueKept.Statement (.driveStep missed) := rfl
theorem Sys2Proof.Laws.QueueKept.pload (req : Requester) : Sys2Proof.Laws.QueueKept.Statement (.pload req) := rfl
theorem Sys2Proof.Laws.QueueKept.dpfree (req : Requester) (r : Nat) (w : Word) : Sys2Proof.Laws.QueueKept.Statement (.dpfree req r w) := rfl
theorem Sys2Proof.Laws.QueueKept.scrollDwellExpiry : Sys2Proof.Laws.QueueKept.Statement (.scrollDwellExpiry) := rfl
theorem Sys2Proof.Laws.QueueKept.buttonPress : Sys2Proof.Laws.QueueKept.Statement (.buttonPress) := rfl
theorem Sys2Proof.Laws.QueueKept.buttonLongPress : Sys2Proof.Laws.QueueKept.Statement (.buttonLongPress) := rfl
theorem Sys2Proof.Laws.QueueKept.autoScrollResume : Sys2Proof.Laws.QueueKept.Statement (.autoScrollResume) := rfl
theorem Sys2Proof.Laws.QueueKept.itemRedraw : Sys2Proof.Laws.QueueKept.Statement (.itemRedraw) := rfl
theorem Sys2Proof.Laws.QueueKept.bootStages (keyOk : Bool) (pub : List Byte) : Sys2Proof.Laws.QueueKept.Statement (.bootStages keyOk pub) := rfl
theorem Sys2Proof.Laws.QueueKept.trfwctlBegin (req : Requester) (app : Bool) : Sys2Proof.Laws.QueueKept.Statement (.trfwctlBegin req app) := rfl
theorem Sys2Proof.Laws.QueueKept.trfwdata (req : Requester) (bytes : List Byte) : Sys2Proof.Laws.QueueKept.Statement (.trfwdata req bytes) := rfl
theorem Sys2Proof.Laws.QueueKept.trfwctlVerify (req : Requester) : Sys2Proof.Laws.QueueKept.Statement (.trfwctlVerify req) := rfl
theorem Sys2Proof.Laws.QueueKept.accept (req : Requester) : Sys2Proof.Laws.QueueKept.Statement (.accept req) := rfl
theorem Sys2Proof.Laws.QueueKept.reset (req : Requester) : Sys2Proof.Laws.QueueKept.Statement (.reset req) := rfl
theorem Sys2Proof.Laws.QueueKept.confirm (req : Requester) : Sys2Proof.Laws.QueueKept.Statement (.confirm req) := rfl
theorem Sys2Proof.Laws.QueueKept.confirmTimeout (app : Bool) : Sys2Proof.Laws.QueueKept.Statement (.confirmTimeout app) := rfl
theorem Sys2Proof.Laws.QueueKept.quoteRequest (path : Requester) (nonce : List Byte) : Sys2Proof.Laws.QueueKept.Statement (.quoteRequest path nonce) := rfl
theorem Sys2Proof.Laws.QueueKept.quoteGenerate : Sys2Proof.Laws.QueueKept.Statement (.quoteGenerate) := rfl
theorem Sys2Proof.Laws.QueueKept.quoteComplete : Sys2Proof.Laws.QueueKept.Statement (.quoteComplete) := rfl
theorem Sys2Proof.Laws.QueueKept.trkctlGo (req : Requester) (w : Word) : Sys2Proof.Laws.QueueKept.Statement (.trkctlGo req w) := rfl
theorem Sys2Proof.Laws.QueueKept.userTagWrite (req : Requester) (addr : Nat) (bytes : List Byte) : Sys2Proof.Laws.QueueKept.Statement (.userTagWrite req addr bytes) := rfl
theorem Sys2Proof.Laws.QueueKept.tagDigestUpdate : Sys2Proof.Laws.QueueKept.Statement (.tagDigestUpdate) := rfl
theorem Sys2Proof.Laws.QueueKept.read (req : Requester) (addr len : Nat) (wire : Wire) : Sys2Proof.Laws.QueueKept.Statement (.read req addr len wire) := rfl
theorem Sys2Proof.Laws.QueueKept.write (req : Requester) (addr : Nat) (bytes : List Byte) (wire : Wire) : Sys2Proof.Laws.QueueKept.Statement (.write req addr bytes wire) := rfl
theorem Sys2Proof.Laws.QueueKept.poll (wire : Wire) : Sys2Proof.Laws.QueueKept.Statement (.poll wire) := rfl
theorem Sys2Proof.Laws.QueueKept.unknownCommand (byte : Byte) : Sys2Proof.Laws.QueueKept.Statement (.unknownCommand byte) := rfl
theorem Sys2Proof.Laws.QueueKept.scsAbort : Sys2Proof.Laws.QueueKept.Statement (.scsAbort) := rfl
theorem Sys2Proof.Laws.QueueKept.hostTimeout : Sys2Proof.Laws.QueueKept.Statement (.hostTimeout) := rfl
theorem Sys2Proof.Laws.QueueKept.registerWrite (req : Requester) (addr : Nat) (w : Word) : Sys2Proof.Laws.QueueKept.Statement (.registerWrite req addr w) := rfl
theorem Sys2Proof.Laws.QueueKept.signOn (phys : Option Nat) : Sys2Proof.Laws.QueueKept.Statement (.signOn phys) := rfl
theorem Sys2Proof.Laws.QueueKept.optionSelect (proto y z : Nat) : Sys2Proof.Laws.QueueKept.Statement (.optionSelect proto y z) := rfl
theorem Sys2Proof.Laws.QueueKept.optionSelectTimeout : Sys2Proof.Laws.QueueKept.Statement (.optionSelectTimeout) := rfl
theorem Sys2Proof.Laws.QueueKept.hdlcStart : Sys2Proof.Laws.QueueKept.Statement (.hdlcStart) := rfl
theorem Sys2Proof.Laws.QueueKept.hdlcFrame (port upper lower : Nat) : Sys2Proof.Laws.QueueKept.Statement (.hdlcFrame port upper lower) := rfl
theorem Sys2Proof.Laws.QueueKept.disc (port client upper : Nat) : Sys2Proof.Laws.QueueKept.Statement (.disc port client upper) := rfl
theorem Sys2Proof.Laws.QueueKept.aarq (port client upper : Nat) (auth : DlmsAuth) (ciphered authOk : Bool) : Sys2Proof.Laws.QueueKept.Statement (.aarq port client upper auth ciphered authOk) := rfl
theorem Sys2Proof.Laws.QueueKept.get (port client upper : Nat) (addr : Nat) : Sys2Proof.Laws.QueueKept.Statement (.get port client upper addr) := rfl
theorem Sys2Proof.Laws.QueueKept.set (port client upper : Nat) (addr : Nat) (w : Word) : Sys2Proof.Laws.QueueKept.Statement (.set port client upper addr w) := rfl
theorem Sys2Proof.Laws.QueueKept.dlmsAction (port client upper : Nat) (addr : Nat) (w : Word) : Sys2Proof.Laws.QueueKept.Statement (.dlmsAction port client upper addr w) := rfl
theorem Sys2Proof.Laws.QueueKept.inactivityTimeout (port client upper : Nat) : Sys2Proof.Laws.QueueKept.Statement (.inactivityTimeout port client upper) := rfl
theorem Sys2Proof.Laws.QueueKept.dataNotification : Sys2Proof.Laws.QueueKept.Statement (.dataNotification) := rfl
theorem Sys2Proof.Laws.QueueKept.keyAssociationRelease : Sys2Proof.Laws.QueueKept.Statement (.keyAssociationRelease) := rfl
theorem Sys2Proof.Laws.QueueKept.commaAlign (port : Nat) : Sys2Proof.Laws.QueueKept.Statement (.commaAlign port) := rfl
theorem Sys2Proof.Laws.QueueKept.hello (port depth : Nat) (hasAddr : Bool) (role : Nat) : Sys2Proof.Laws.QueueKept.Statement (.hello port depth hasAddr role) := rfl
theorem Sys2Proof.Laws.QueueKept.portDown (port : Nat) (cause : DownCause) : Sys2Proof.Laws.QueueKept.Statement (.portDown port cause) := rfl
theorem Sys2Proof.Laws.QueueKept.portRefusedRetry (port : Nat) : Sys2Proof.Laws.QueueKept.Statement (.portRefusedRetry port) := rfl
theorem Sys2Proof.Laws.QueueKept.cbctlWrite (req : Requester) (w : Word) : Sys2Proof.Laws.QueueKept.Statement (.cbctlWrite req w) := rfl
theorem Sys2Proof.Laws.QueueKept.enum (addr : Nat) : Sys2Proof.Laws.QueueKept.Statement (.enum addr) := rfl
theorem Sys2Proof.Laws.QueueKept.enumDone (port hi : Nat) : Sys2Proof.Laws.QueueKept.Statement (.enumDone port hi) := rfl
theorem Sys2Proof.Laws.QueueKept.ack (port hseq : Nat) : Sys2Proof.Laws.QueueKept.Statement (.ack port hseq) := rfl
theorem Sys2Proof.Laws.QueueKept.nak (port hseq : Nat) : Sys2Proof.Laws.QueueKept.Statement (.nak port hseq) := rfl
theorem Sys2Proof.Laws.QueueKept.resendTimeout (port hseq : Nat) : Sys2Proof.Laws.QueueKept.Statement (.resendTimeout port hseq) := rfl
theorem Sys2Proof.Laws.QueueKept.cmd (hdr : CobaltHdr) (op : Nat) (addr len : Nat) (data : List Byte) : Sys2Proof.Laws.QueueKept.Statement (.cmd hdr op addr len data) := rfl
theorem Sys2Proof.Laws.QueueKept.opRead (hdr : CobaltHdr) (addr len : Nat) : Sys2Proof.Laws.QueueKept.Statement (.opRead hdr addr len) := rfl
theorem Sys2Proof.Laws.QueueKept.opWrite (hdr : CobaltHdr) (addr : Nat) (data : List Byte) : Sys2Proof.Laws.QueueKept.Statement (.opWrite hdr addr data) := rfl
theorem Sys2Proof.Laws.QueueKept.opQuote (hdr : CobaltHdr) (nonce : List Byte) : Sys2Proof.Laws.QueueKept.Statement (.opQuote hdr nonce) := rfl
theorem Sys2Proof.Laws.QueueKept.aggdef (hdr : CobaltHdr) (arg : Word) (mask : List Byte) : Sys2Proof.Laws.QueueKept.Statement (.aggdef hdr arg mask) := rfl
theorem Sys2Proof.Laws.QueueKept.rsp (hdr : CobaltHdr) (op addr status : Nat) (data : List Byte) : Sys2Proof.Laws.QueueKept.Statement (.rsp hdr op addr status data) := rfl
theorem Sys2Proof.Laws.QueueKept.chainResponseTimeout (dst tag : Nat) : Sys2Proof.Laws.QueueKept.Statement (.chainResponseTimeout dst tag) := rfl
theorem Sys2Proof.Laws.QueueKept.agg (hdr : CobaltHdr) (aid flags points : Nat) (frame : Frame) (value : BitVec 64) : Sys2Proof.Laws.QueueKept.Statement (.agg hdr aid flags points frame value) := rfl
theorem Sys2Proof.Laws.QueueKept.powerFailWarning (pin : Bool) : Sys2Proof.Laws.QueueKept.Statement (.powerFailWarning pin) := rfl
theorem Sys2Proof.Laws.QueueKept.powerOn (clksel : Bool) : Sys2Proof.Laws.QueueKept.Statement (.powerOn clksel) := rfl
theorem Sys2Proof.Laws.QueueKept.mainPowerLoss : Sys2Proof.Laws.QueueKept.Statement (.mainPowerLoss) := rfl
theorem Sys2Proof.Laws.QueueKept.slatePowerLoss : Sys2Proof.Laws.QueueKept.Statement (.slatePowerLoss) := rfl
theorem Sys2Proof.Laws.QueueKept.bootComplete : Sys2Proof.Laws.QueueKept.Statement (.bootComplete) := rfl
theorem Sys2Proof.Laws.QueueKept.startSequence (katA katB : Bool) : Sys2Proof.Laws.QueueKept.Statement (.startSequence katA katB) := rfl
theorem Sys2Proof.Laws.QueueKept.runEntry : Sys2Proof.Laws.QueueKept.Statement (.runEntry) := rfl
theorem Sys2Proof.Laws.QueueKept.recoveryEntry : Sys2Proof.Laws.QueueKept.Statement (.recoveryEntry) := rfl
theorem Sys2Proof.Laws.QueueKept.mdctlReqRun (req : Requester) : Sys2Proof.Laws.QueueKept.Statement (.mdctlReqRun req) := rfl
theorem Sys2Proof.Laws.QueueKept.mdctlReqCalibrate (req : Requester) : Sys2Proof.Laws.QueueKept.Statement (.mdctlReqCalibrate req) := rfl
theorem Sys2Proof.Laws.QueueKept.mdctlReqTest (req : Requester) : Sys2Proof.Laws.QueueKept.Statement (.mdctlReqTest req) := rfl
theorem Sys2Proof.Laws.QueueKept.recov (req : Requester) : Sys2Proof.Laws.QueueKept.Statement (.recov req) := rfl
theorem Sys2Proof.Laws.QueueKept.faultySliceReset : Sys2Proof.Laws.QueueKept.Statement (.faultySliceReset) := rfl
theorem Sys2Proof.Laws.QueueKept.powerFailCommit (dur : Nat) : Sys2Proof.Laws.QueueKept.Statement (.powerFailCommit dur) := rfl
theorem Sys2Proof.Laws.QueueKept.resetRelease : Sys2Proof.Laws.QueueKept.Statement (.resetRelease) := rfl
theorem Sys2Proof.Laws.QueueKept.thermalSample (t : Int) : Sys2Proof.Laws.QueueKept.Statement (.thermalSample t) := rfl
theorem Sys2Proof.Laws.QueueKept.wdlkick (req : Requester) (w : Word) : Sys2Proof.Laws.QueueKept.Statement (.wdlkick req w) := rfl
theorem Sys2Proof.Laws.QueueKept.legalWatchdogExpiry : Sys2Proof.Laws.QueueKept.Statement (.legalWatchdogExpiry) := rfl
theorem Sys2Proof.Laws.QueueKept.wdakick (req : Requester) (w : Word) : Sys2Proof.Laws.QueueKept.Statement (.wdakick req w) := rfl
theorem Sys2Proof.Laws.QueueKept.appWatchdogExpiry : Sys2Proof.Laws.QueueKept.Statement (.appWatchdogExpiry) := rfl
theorem Sys2Proof.Laws.QueueKept.calibrationWrite (req : Requester) (addr : Nat) (v n : Word) : Sys2Proof.Laws.QueueKept.Statement (.calibrationWrite req addr v n) := rfl
theorem Sys2Proof.Laws.QueueKept.calctlCommit (req : Requester) : Sys2Proof.Laws.QueueKept.Statement (.calctlCommit req) := rfl
theorem Sys2Proof.Laws.QueueKept.calctlDiscard (req : Requester) : Sys2Proof.Laws.QueueKept.Statement (.calctlDiscard req) := rfl
theorem Sys2Proof.Laws.QueueKept.messageCrcError (port : Nat) : Sys2Proof.Laws.QueueKept.Statement (.messageCrcError port) := rfl
theorem Sys2Proof.Laws.QueueKept.codeViolation (port : Nat) : Sys2Proof.Laws.QueueKept.Statement (.codeViolation port) := rfl
theorem Sys2Proof.Laws.QueueKept.vbatlowClear : Sys2Proof.Laws.QueueKept.Statement (.vbatlowClear) := rfl
theorem Sys2Proof.Laws.QueueKept.railDischarged (rail : Nat) : Sys2Proof.Laws.QueueKept.Statement (.railDischarged rail) := rfl
end

