-- ==== Sys2Proof/Laws/Table.lean ====
section
/-! SUPPORT. Sparse tables: a read after a write to the same index gives the value written, every other index reads as before, and a
write or a removal keeps the indices rising. Then the same for each numbered unit of the device. -/

namespace Sys2Proof.Laws

open Sys2Proof.Machine

section tables

variable {α : Type}

@[simp] theorem tget_nil (d : α) (k : Nat) : tget d k [] = d := rfl

theorem tget_cons (d : α) (k j : Nat) (x : α) (t : Tab α) : tget d k ((j, x) :: t) = if j = k then x else tget d k t := rfl

/-- A read after a write: the value written at its index, the old value at every other. -/
theorem tget_tset (d : α) (k j : Nat) (v : α) (t : Tab α) : tget d j (tset k v t) = if j = k then v else tget d j t := by
  induction t with
  | nil => simp [tset, tget, eq_comm]
  | cons e t ih =>
    obtain ⟨i, x⟩ := e
    unfold tset
    split
    · rw [tget_cons]; simp only [eq_comm]
    · split
      · rename_i _ h; subst h; simp only [tget_cons]; split <;> rename_i h <;> simp [eq_comm] at h ⊢ <;> simp [h]
      · rename_i h1 h2
        simp only [tget_cons, ih]
        split
        · rename_i h; subst h; rw [if_neg (Ne.symm h2)]
        · rfl

@[simp] theorem tget_tset_self (d : α) (k : Nat) (v : α) (t : Tab α) : tget d k (tset k v t) = v := by simp [tget_tset]

theorem tget_tset_ne (d v : α) {k j : Nat} (h : j ≠ k) (t : Tab α) : tget d j (tset k v t) = tget d j t := by simp [tget_tset, h]

theorem rising_cons {i j : Nat} {x y : α} {t : Tab α} : rising ((i, x) :: (j, y) :: t) = (decide (i < j) && rising ((j, y) :: t)) := rfl

theorem rising_tail {e : Nat × α} {t : Tab α} (h : rising (e :: t) = true) : rising t = true := by
  cases t with
  | nil => rfl
  | cons f t => obtain ⟨i, x⟩ := e; obtain ⟨j, y⟩ := f; rw [rising_cons] at h; simp_all

/-- Every index behind the first is larger. -/
theorem rising_lt {i : Nat} {x : α} {t : Tab α} (h : rising ((i, x) :: t) = true) : ∀ e ∈ t, i < e.1 := by
  induction t generalizing i x with
  | nil => simp
  | cons f t ih =>
    obtain ⟨j, y⟩ := f
    rw [rising_cons] at h
    simp only [Bool.and_eq_true, decide_eq_true_eq] at h
    intro e he
    rcases List.mem_cons.mp he with rfl | he
    · exact h.1
    · exact Nat.lt_trans h.1 (ih h.2 e he)

/-- A head below every index of a rising table keeps it rising. -/
theorem rising_of_lt {i : Nat} {x : α} {t : Tab α} (h : rising t = true) (k : ∀ e ∈ t, i < e.1) : rising ((i, x) :: t) = true := by
  cases t with
  | nil => rfl
  | cons f t => obtain ⟨j, y⟩ := f; rw [rising_cons]; simp [h, k (j, y) (by simp)]

theorem mem_tset {k : Nat} {v : α} {t : Tab α} {e : Nat × α} (h : e ∈ tset k v t) : e = (k, v) ∨ e ∈ t := by
  induction t with
  | nil => simp [tset] at h; exact .inl h
  | cons f t ih =>
    obtain ⟨i, x⟩ := f
    unfold tset at h
    split at h
    · simpa using h
    · split at h
      · rcases List.mem_cons.mp h with h | h
        · exact .inl h
        · exact .inr (by simp [h])
      · rcases List.mem_cons.mp h with h | h
        · exact .inr (by simp [h])
        · rcases ih h with h | h
          · exact .inl h
          · exact .inr (by simp [h])

/-- A write keeps the canonical form. -/
theorem rising_tset (k : Nat) (v : α) {t : Tab α} (h : rising t = true) : rising (tset k v t) = true := by
  induction t with
  | nil => rfl
  | cons f t ih =>
    obtain ⟨i, x⟩ := f
    unfold tset
    split
    · rename_i hk; rw [rising_cons]; simp [hk, h]
    · split
      · rename_i _ hk; subst hk; exact rising_of_lt (rising_tail h) (rising_lt h)
      · rename_i h1 h2
        refine rising_of_lt (ih (rising_tail h)) ?_
        intro e he
        rcases mem_tset he with rfl | he
        · show i < k
          omega
        · exact rising_lt h e he

/-- A removal keeps it too. -/
theorem rising_tdel (k : Nat) {t : Tab α} (h : rising t = true) : rising (tdel k t) = true := by
  induction t with
  | nil => rfl
  | cons f t ih =>
    obtain ⟨i, x⟩ := f
    unfold tdel
    rw [List.filter_cons]
    split
    · exact rising_of_lt (ih (rising_tail h)) fun e he => rising_lt h e (List.mem_filter.mp he).1
    · exact ih (rising_tail h)

end tables

/-! ## Numbered units -/

@[simp] theorem sliceAt_setSlice (s : State) (n k : Nat) (x : Slice) : sliceAt (s.setSlice n x) k = if k = n then x else sliceAt s k := by
  simp [sliceAt, State.setSlice, tget_tset]

@[simp] theorem pathAt_setPath (s : State) (n k : Nat) (x : ChanPath) : pathAt (s.setPath n x) k = if k = n then x else pathAt s k := by
  simp [pathAt, State.setPath, tget_tset]

@[simp] theorem feAt_setFe (s : State) (n k : Nat) (x : FeChan) : feAt (s.setFe n x) k = if k = n then x else feAt s k := by
  simp [feAt, State.setFe, tget_tset]

@[simp] theorem portAt_setPort (s : State) (n k : Nat) (x : CbPort) : portAt (s.setPort n x) k = if k = n then x else portAt s k := by
  simp [portAt, State.setPort, tget_tset]

@[simp] theorem ptAt_setPt (s : State) (n k : Nat) (x : Point) : ptAt (s.setPt n x) k = if k = n then x else ptAt s k := by
  simp [ptAt, State.setPt, tget_tset]

@[simp] theorem busAt_setBus (s : State) (n k : Nat) (x : Bus) : busAt (s.setBus n x) k = if k = n then x else busAt s k := by
  simp [busAt, State.setBus, tget_tset]

@[simp] theorem pqBus_setPqBus (s : State) (n k : Nat) (x : PqBus) : pqBus (s.setPqBus n x) k = if k = n then x else pqBus s k := by
  simp [pqBus, State.setPqBus, tget_tset]

@[simp] theorem liveAt_setLive (s : State) (n k : Nat) (x : Live) : liveAt (s.setLive n x) k = if k = n then x else liveAt s k := by
  simp [liveAt, State.setLive, tget_tset]

@[simp] theorem queueAt_setQueue (s : State) (n k : Nat) (x : Queue) : queueAt (s.setQueue n x) k = if k = n then x else queueAt s k := by
  simp [queueAt, State.setQueue, tget_tset]

@[simp] theorem segAt_setSeg (s : State) (n k : Nat) (x : Segment) : segAt (s.setSeg n x) k = if k = n then x else segAt s k := by
  simp [segAt, State.setSeg, tget_tset]

@[simp] theorem rgnAt_setRgn (s : State) (n k : Nat) (x : Region) : rgnAt (s.setRgn n x) k = if k = n then x else rgnAt s k := by
  simp [rgnAt, State.setRgn, tget_tset]

@[simp] theorem alarmAt_setAlarm (s : State) (n k : Nat) (x : Alarm) : alarmAt (s.setAlarm n x) k = if k = n then x else alarmAt s k := by
  simp [alarmAt, State.setAlarm, tget_tset]

@[simp] theorem slotAt_setSlot (s : State) (n k : Nat) (x : FwSlot) : slotAt (s.setSlot n x) k = if k = n then x else slotAt s k := by
  simp [slotAt, State.setSlot, tget_tset]

theorem srcAt_setSrc (s : State) (n : Nat) (x : Source) : srcAt (s.setSrc n x) n = x := tget_tset_self _ n x s.tp.src

theorem srcAt_setSrc_ne (s : State) {n k : Nat} (h : k ≠ n) (x : Source) : srcAt (s.setSrc n x) k = srcAt s k :=
  tget_tset_ne _ x h s.tp.src

/-- A comparator reads as written, the others of its kind and all of the other kind as before. -/
theorem cmpAt_setCmp (s : State) (p q : Bool) (n k : Nat) (x : Comparator) :
    cmpAt (s.setCmp p n x) q k = if q = p ∧ k = n then x else cmpAt s q k := by
  cases p <;> cases q <;> simp [cmpAt, State.setCmp, tget_tset]

end Sys2Proof.Laws
end

