-- ==== Sys2Proof/Tests/Slice0.lean ====
section
/-! SUPPORT. Tests: commands that are not well-formed, small steps with results from the spec's own text, and for each obligation with
hypotheses a state and operands that meet them. -/

namespace Sys2Proof.Tests

open Sys2Proof Sys2Proof.Machine

/-! ## States -/

/-- A device in RUN on main power, its latches processed. -/
def run : State := { sup := { st := .run, restored := false } }
/-- The same with the seal open. -/
def opened : State := { run with tp := { sealSt := 2, sealst := sealOpenPair } }
/-- The same with the application core running. -/
def serial : State := { run with sup := { st := .run, restored := false, apprun := true } }

/-- The outcome is a next state. -/
def isNext : Out → Bool
  | .next _ => true
  | _ => false
/-- The state of a next outcome. -/
def answer : Out → State
  | .next t => t
  | _ => {}

theorem next_of {o : Out} (h : isNext o = true) : o = .next (answer o) := by cases o <;> first | rfl | cases h

/-! ## Commands that are not well-formed -/

theorem test_wf_conversion : (Instr.conversionComplete 64 0 (some 0) 0).wf = false ∧ (Instr.conversionComplete 0 130 (some 0) 0).wf = false ∧ (Instr.conversionComplete 0 0 (some 168) 0).wf = false := by decide
theorem test_wf_probe_result : (Instr.probeResult 128 none).wf = false := by decide
theorem test_wf_slice : (Instr.sliceCalUpdate 64 .whole).wf = false := by decide
theorem test_wf_comparator : (Instr.comparatorDwellComplete false 168).wf = false ∧ (Instr.comparatorDwellComplete true 1024).wf = false := by decide
theorem test_wf_capture : (Instr.faultCaptureManual 168 0).wf = false ∧ (Instr.faultCaptureManual 0 48).wf = false := by decide
theorem test_wf_queue : (Instr.queueMarkerAppend 32).wf = false ∧ (Instr.qpop0 .host 32).wf = false ∧ (Instr.qpush .host 23 0 0 0 0).wf = false ∧ (Instr.qpush .host 32 0 0 0 0).wf = false := by decide
theorem test_wf_probe : (Instr.probe 0 0 0).wf = false ∧ (Instr.probe 4 0 0).wf = false := by decide
theorem test_wf_bus : (Instr.rmsWindowClose 8 true).wf = false := by decide
theorem test_wf_pulse : (Instr.pulseStart 8).wf = false ∧ (Instr.pulseEnd 8).wf = false := by decide
theorem test_wf_live : (Instr.liveWindowEnd 160 0 0 false).wf = false := by decide
theorem test_wf_tamper : (Instr.tamperStaticEvent ⟨8, true⟩).wf = false ∧ (Instr.tamperWindowClose 16).wf = false := by decide
theorem test_wf_rail : (Instr.railGood 3).wf = false ∧ (Instr.railFault 3).wf = false ∧ (Instr.railDischarged 3).wf = false := by decide
theorem test_wf_region : (Instr.dpfree .host 11 0).wf = false ∧ (Instr.dpfree .host 16 0).wf = false := by decide
theorem test_wf_port : (Instr.commaAlign 4).wf = false ∧ (Instr.hello 4 0 false 0).wf = false ∧ (Instr.portDown 4 .silence).wf = false ∧ (Instr.portRefusedRetry 4).wf = false ∧
    (Instr.ack 4 0).wf = false ∧ (Instr.nak 4 0).wf = false ∧ (Instr.resendTimeout 4 0).wf = false ∧ (Instr.messageCrcError 4).wf = false ∧ (Instr.codeViolation 4).wf = false := by decide
theorem test_fault : exec (.pulseEnd 8) {} = .fault .noSuchUnit := rfl

/-! ## The table has no bits -/

theorem test_no_word : decodeTableWord 32 0x50428128 = none := by decide
theorem test_withFetchWord : (State.reset.withFetchWord 32 0).pending = [] := by decide

/-! ## States of parts -/
def boot : State := { sup := { st := .boot } }
def start : State := { sup := { st := .start } }
def off : State := { sup := { st := .off } }
def marker : Marker := { frame := 5, ofs := 0, hold := false, jump := none, depth := 0, arrive := 0, crcOk := true }
def port (p : Nat) (x : CbPort) : State := { run with cb := { ports := [(p, x)] } }
def queue (q : Nat) (r : RouteDef) (es : List QEntry) : State :=
  { run with pl := { act := { routes := List.replicate q {} ++ [r] } }, qu := { q := [(q, { ents := es })] } }
def probed (x : FeChan) : State := { run with pl := { act := { fe := List.replicate 127 {} ++ [{ prben := true, prblow := 10, prbhigh := 20 }] } }, fe := { ch := [(127, x)] } }
def slotted (n k : Nat) (w : Word) (c : Converter) : State := { run with pl := { act := { slots := List.replicate (128 * n + k) 0 ++ [w] } }, cv := c }
def loader (st : PlState) : State := { run with pl := { st := st, owner := some .host, afl := 200, shadow := some { planid := 7 } }, tb := { frame := 100 } }
def pending (n m : Frame) (locked : Bool) : State :=
  { loader .pending with pl := { (loader .pending).pl with n := n, locked := locked, lockFrame := m } }
def changed (st : PlState) : State := { loader st with pl := { (loader st).pl with legalchg := true }, tp := { sealSt := 2, sealst := sealOpenPair } }
def pulse (x : Pulse) : State := { run with pl := { act := { pulses := List.replicate 7 {} ++ [{ point := 127 }] } }, met := { pulse := [(7, x)] } }
def pq (x : PowerQuality) : State := { run with pq := x }
def live (x : Live) : State := { run with pl := { act := { fe := List.replicate 159 {} ++ [{ injen := true }] } }, pq := { live := [(159, x)] } }
def calib : State := { opened with sup := { st := .calibrate, restored := false } }
def metered : State :=
  { run with pl := { act := { points := [{ type := 1, mdcode := 0, mdsub := 1 }], calendar := { bcday := 1 } } }, rtc := { valid := true, sec := 993945600 } }
def tp (x : Tamper) : State := { run with tp := x }
def er (x : Recorder) : State := { run with er := x }
def open45 : Summary := { code := 0x45, chan := 0xFF, sev := 2, fops := 10 }
def part (n : Nat) : PrivPart := { seq := n, ptype := 1, part := 0, count := 1, flg := 0, frame := 0, time := 0, payload := [] }
def onePart : Recorder := { pseq := 1, parts := [(0, part 0)] }
def dp (x : Display) : State := { run with dp := x }
def lit (x : Display) : State := { run with dp := x, pl := { act := { scroll := [{}, { code := 1 }], scrollMode := 2, scrollDwell := 5 } } }
def tr (x : Trust) : State := { run with tr := x }
def hp (x : Port) : State := { run with hp := x }
def ser (x : Serial) : State := { serial with ser := x }
def assoc1 : Assoc := { port := 1, client := 0x11, upper := 1, keyed := true }
def msg : OutMsg := { hseq := 9, type := 1, dst := 4 }
def hdr : CobaltHdr := { dst := 5, src := 0, hseq := 0, tag := 8 }
def sup (x : Supervisor) : State := { sup := x }
def rtc (x : Rtc) : State := { run with rtc := x }
def wired : PlanDef := { points := [{ type := 1, mdcode := 0, mdsub := 1 }], chmap := [{ il1 := 0, l1 := true }], calendar := { bcday := 1, days := [[⟨0, 0, 1⟩, ⟨6, 0, 2⟩]] } }
def lanes : State := { run with met := { laneRun := some 0, lanePlan := wired } }
def profile : List Nat :=
  [0x44, 0x50, 0x52, 0x46, 1, 0, 0xFF, 0, 0, 0, 0, 0, 0, 0, 0, 0, 0xEC, 0xF6, 0, 10, 20, 30, 40, 0, 2, 0, 0, 0, 1, 0, 0, 0, 3, 0, 0, 0] ++
  ((List.range 8).map fun i => [i + 1, 0, 0, 0]).flatten ++ ((List.range 24).map fun _ => [1, 1] ++ List.replicate 14 0).flatten ++ List.replicate 568 0
def profWord (b : List Byte) (i : Nat) : Word := BitVec.ofNat 32 (leAt b (4 * i) 4)
/-- The bytes of the profile before its check word, and the running value of CRC-32 after each 30 of them. -/
def profBytes : List Byte := profile.map fun n => BitVec.ofNat 8 n
def crcRun : List Word := [4294967295, 707383227, 2360333989, 3608520619, 3264921487, 1965524831, 2427139333, 2502852253, 1777311956, 324846423, 65520421, 1519228546, 2332832693, 2059728469, 104163042, 139358923, 317541247, 1901822809,
  1941050740, 3439883644, 2927984922, 1067862780, 1960233820, 3116539436, 410344464, 2720819493, 2209457737, 1832765049, 1937314918, 517107781, 2090988746, 4217981236, 588900010, 1418099808, 1692822892]
def staged : State := dp { stage := (List.range 255).map (fun i => (i, profWord profBytes i)) ++ [(255, 0x9B199293)] }

/-! ## The queue -/

theorem witness_WellFormedCommandsComplete : Instr.buttonPress.wf = true ∧ (Instr.qpop0 .host 31).wf = true ∧ (Instr.qpop0 .host 32).wf = false := by decide

theorem witness_StepKeepsCommandsWellFormed : CommandsWf { run with pending := [.buttonPress, .pulseEnd 7] } := by
  unfold CommandsWf; decide

theorem witness_WellFormedQueueRunsToItsEnd :
    CommandsWf { run with pending := [.buttonPress, .hclr] } ∧ ∃ t, runSteps 2 { run with pending := [.buttonPress, .hclr] } = .next t := by
  exact ⟨by unfold CommandsWf; decide, _, rfl⟩

theorem witness_CommandsKeepTheOtherParts : exec .abort run = .next run := rfl

/-! ## Invariants -/

theorem witness_ClockStaysInRange :
    ClockInRange { run with rtc := { sec := 6311433599, sub := 32767 } } ∧ ∃ t, step { run with rtc := { sec := 6311433599, sub := 32767 } } = .next t := by
  exact ⟨by unfold ClockInRange; decide, _, rfl⟩

theorem witness_ClockStopsAtTheEndOfItsRange :
    (run.rtc.halt = false ∧ ({ run with rtc := { sec := 6311433598 } } : State).rtc.sec + 1 = rtcMax) ∧
    (ClockInRange { run with rtc := { sec := 6311433599 } } ∧ ClockEndInvalid { run with rtc := { sec := 6311433599 } }) ∧
    (∃ t, exec .slateColdStart { run with rtc := { sec := 6311433599 } } = .next t ∧ t.rtc.sec ≠ rtcMax) ∧
    (∃ t, exec (.clockSet .host 0) { run with rtc := { halt := true, newSec := 5 } } = .next t ∧ t.rtc.valid = true) := by
  exact ⟨by decide, by unfold ClockInRange ClockEndInvalid; decide, ⟨_, rfl, by decide⟩, ⟨_, rfl, by decide⟩⟩

theorem witness_StickyFlagsAreKept :
    (let l : List Nat := [11]; let s : State := tp { src := [(11, { cfg := 0x101 })] };
      11 ∈ l ∧ srcMode s 11 ≠ 0 ∧ (runsOnCell 11 = true ∨ s.rtc.onCell = false) ∧ windowOver s 11 = false ∧ (countEvent (srcAt s 11) s.tp.slate false false).2 = true) ∧
    (∃ t, exec .slateColdStart { run with tp := { src := [(11, { sticky := true })] } } = .next t ∧ (srcAt t 11).sticky = false) := by
  exact ⟨by decide, ⟨_, rfl, by decide⟩⟩

theorem witness_SingleValuesMoveOnlyByTheirCommands :
    (∃ t, exec .frameRenumber { run with tb := { renumber := some 3 } } = .next t ∧ t.tb.frame ≠ run.tb.frame) ∧
    (∃ t, exec .mainPowerLoss run = .next t ∧ t.sup.st ≠ run.sup.st) ∧
    (∃ t, exec (.secondEvaluator false) { run with tp := { sealSt := 1, pin := true, dd := [{ dec := .sealOpen, first := true }] } } = .next t ∧ t.tp.sealSt = 2) ∧
    (∃ t, exec .planActivation { run with tb := { frame := 100 }, pl := { st := .pending, shadow := some { planid := 7 }, locked := true, n := 90, lockFrame := 89 } } = .next t ∧
      t.pl.act.planid ≠ run.pl.act.planid) := by
  exact ⟨⟨_, rfl, by decide⟩, ⟨_, rfl, by decide⟩, ⟨_, rfl, by decide⟩, ⟨_, next_of (by decide +kernel), by decide +kernel⟩⟩


/-! ## Each clause of an obligation and a state and operands that meet its hypotheses -/

theorem witness_StepTakesTheFrontCommand :
    (let s : State := { run with pending := [] }; s.pending = []) := by
  decide

theorem witness_FrameTickNumbersTheFrame :
    (let s : State := off; s.powered = false) ∧
    (let s : State := { run with tb := { run.tb with jump := none } }; s.powered = true ∧ (s.sup.st = OpState.boot ∧ s.sup.recmon = false ∨ s.tb.jump = none)) ∧
    (let m : Frame := 5; let n : Frame := 5; let s : State := { run with tb := { run.tb with jump := some (m, n) } }; s.powered = true ∧ (¬(s.sup.st = OpState.boot ∧ s.sup.recmon = false)) ∧ (s.tb.jump = some (m, n)) ∧ BitVec.toNat (s.tb.frame + 1) < BitVec.toNat m) ∧
    (let m : Frame := 0; let n : Frame := 5; let s : State := { run with tb := { run.tb with jump := some (m, n) } }; s.powered = true ∧ (¬(s.sup.st = OpState.boot ∧ s.sup.recmon = false)) ∧ (s.tb.jump = some (m, n)) ∧ BitVec.toNat m ≤ BitVec.toNat (s.tb.frame + 1) ∧ BitVec.toNat (s.tb.frame + 1) < BitVec.toNat n) ∧
    (let m : Frame := 0; let n : Frame := 0; let s : State := { run with tb := { run.tb with jump := some (m, n) } }; s.powered = true ∧ (¬(s.sup.st = OpState.boot ∧ s.sup.recmon = false)) ∧ (s.tb.jump = some (m, n)) ∧ BitVec.toNat m ≤ BitVec.toNat (s.tb.frame + 1) ∧ BitVec.toNat n ≤ BitVec.toNat (s.tb.frame + 1)) := by
  refine ⟨?_, ?_, ?_, ?_, ?_⟩ <;> decide

theorem witness_MarkersAreTaken :
    (let m : Marker := marker; let s : State := off; markerValid s m = false ∨ s.powered = false) ∧
    (let m : Marker := marker; let s : State := { run with sup := { run.sup with st := OpState.boot, recmon := false } }; markerValid s m = true ∧ s.powered = true ∧ s.sup.st = OpState.boot ∧ s.sup.recmon = false) ∧
    (let m : Marker := marker; let s : State := run; markerValid s m = true ∧ s.powered = true ∧ (s.sup.st ≠ OpState.boot ∨ s.sup.recmon = true) ∧ m.jump = none) ∧
    (let m : Marker := { marker with jump := some (20, 30) }; let j : Frame := 20; let n : Frame := 30; let s : State := run; markerValid s m = true ∧ s.powered = true ∧ (s.sup.st ≠ OpState.boot ∨ s.sup.recmon = true) ∧ (m.jump = some (j, n))) := by
  refine ⟨?_, ?_, ?_, ?_⟩ <;> decide

theorem witness_TimebaseStatesMove :
    (let s : State := { run with tb := { run.tb with st := TbState.acquire, inRange := (256) } }; (s.tb.st = TbState.acquire ∨ s.tb.st = TbState.relock ∧ s.tb.paired = true) ∧ 256 ≤ s.tb.inRange) ∧
    (let s : State := run; s.tb.inRange < 256 ∨ s.tb.st ≠ TbState.acquire ∧ s.tb.st ≠ TbState.relock ∨ s.tb.st = TbState.relock ∧ s.tb.paired = false) ∧
    (let s : State := { run with tb := { run.tb with st := TbState.acquire, acqFrames := (65536) } }; s.tb.st = TbState.acquire ∧ 65536 ≤ s.tb.acqFrames ∧ serving s = true ∧ s.sup.st ≠ OpState.start) ∧
    (let s : State := run; s.tb.st ≠ TbState.acquire ∨ s.tb.acqFrames < 65536 ∨ serving s = false ∨ s.sup.st = OpState.start) ∧
    (let s : State := { run with tb := { run.tb with st := TbState.locked, missed := (4), markerSeen := false } }; (s.tb.st = TbState.locked ∨ s.tb.st = TbState.relock) ∧ 4 ≤ s.tb.missed ∧ s.tb.markerSeen = false ∧ s.powered = true) ∧
    (let s : State := run; s.tb.missed < 4 ∨ s.tb.markerSeen = true ∨ s.powered = false) := by
  refine ⟨?_, ?_, ?_, ?_, ?_, ?_⟩ <;> decide

theorem witness_ProbesMeasureTheHop :
    (let s : State := { run with cb := { run.cb with ports := [(0, { st := 0 })] } }; portUp s 0 = false) ∧
    (let k : ℕ := 1; let n : ℕ := 16; let s : State := { port 0 { st := 2 } with tb := { st := .relock, probeTicks := 16 } }; probeSpacing s.tb = some n ∧ n ≤ s.tb.probeTicks ∧ portUp s 0 = true ∧ (portAt s 0).out.length < 4 ∧ k ≠ 0) ∧
    (let n : ℕ := 16; let s : State := { run with tb := { st := .relock, probeTicks := 15 } }; probeSpacing s.tb = some n ∧ s.tb.probeTicks < n) ∧
    (let s : State := run; probeSpacing s.tb = none ∨ portUp s 0 = false) ∧
    (let k : ℕ := 0; let p : ℕ := 3; let s : State := port 3 { st := 2 }; (p = 1 ∨ p = 2 ∨ p = 3) ∧ portUp s p = true ∧ (portAt s p).out.length < 4 ∧ k ≠ p) ∧
    (let p : ℕ := 3; let s : State := port 3 { st := 2, out := [msg, msg, msg, msg] }; (p = 1 ∨ p = 2 ∨ p = 3) ∧ portUp s p = true ∧ 4 ≤ (portAt s p).out.length) ∧
    (let p : ℕ := 3; let s : State := { run with cb := { run.cb with ports := [(p, { st := 0 })] } }; (p = 1 ∨ p = 2 ∨ p = 3) ∧ portUp s p = false) ∧
    (let t1 : ℤ := 0; let t2 : ℤ := 0; let t3 : ℤ := 0; let t4 : ℤ := 0; let d : ℤ := 0; let s : State := run; (d = (t4 - t1 - (t3 - t2) + if s.tb.asymen = true then s.tb.asym.toInt else 0) / 2) ∧ s.tb.probes.length < 15) := by
  refine ⟨?_, ?_, ?_, ?_, ?_, ?_, ?_, ?_⟩ <;> decide

theorem witness_FollowersTakeTheNumber :
    (let p : Frame := 5; let s : State := { run with tb := { run.tb with st := TbState.relock, paired := false, burst := 0 } }; s.powered = true ∧ s.tb.st = TbState.relock ∧ s.tb.paired = false ∧ s.tb.burst = 0 ∧ BitVec.toNat s.tb.frame < BitVec.toNat p) ∧
    (let p : Frame := 5; let s : State := { port 0 { st := 2 } with tb := { st := .relock, frame := 9 } }; s.powered = true ∧ s.tb.st = TbState.relock ∧ s.tb.paired = false ∧ s.tb.burst = 0 ∧ BitVec.toNat p < BitVec.toNat s.tb.frame ∧ portUp s 0 = true ∧ (portAt s 0).out.length < 4) ∧
    (let p : Frame := 5; let s : State := { run with tb := { run.tb with st := TbState.relock, paired := false, burst := 0, frame := p } }; s.powered = true ∧ s.tb.st = TbState.relock ∧ s.tb.paired = false ∧ s.tb.burst = 0 ∧ p = s.tb.frame) ∧
    (let s : State := run; s.powered = false ∨ s.tb.st ≠ TbState.relock ∨ s.tb.paired = true ∨ s.tb.burst ≠ 0) ∧
    (let d : Frame := 5; let s : State := { run with tb := { run.tb with renumber := some d } }; s.tb.renumber = some d ∧ s.powered = true) ∧
    (let s : State := run; s.tb.renumber = none ∨ s.powered = false) ∧
    (let n : Frame := 5; let s : State := { run with cb := { run.cb with ports := [(0, { st := 0 })] }, tb := { run.tb with jump := none } }; serving s = true ∧ portUp s 0 = false ∧ s.tb.jump = none ∧ BitVec.toNat s.tb.frame < BitVec.toNat n) ∧
    (let n : Frame := 5; let j : Frame × Frame := default; let s : State := { run with cb := { run.cb with ports := [(0, { st := 0 })] }, tb := { run.tb with jump := some j } }; serving s = true ∧ portUp s 0 = false ∧ s.tb.jump = some j ∧ BitVec.toNat s.tb.frame < BitVec.toNat n) ∧
    (let n : Frame := 0; let s : State := { run with cb := { run.cb with ports := [(0, { st := 0 })] } }; serving s = true ∧ portUp s 0 = false ∧ BitVec.toNat n ≤ BitVec.toNat s.tb.frame) ∧
    (let s : State := port 0 { st := 2, out := [msg, msg, msg] }; serving s = true ∧ portUp s 0 = true ∧ (portAt s 0).out.length < 4) := by
  refine ⟨?_, ?_, ?_, ?_, ?_, ?_, ?_, ?_, ?_, ?_⟩ <;> decide

theorem witness_EventsAreTakenIn :
    (let code : ℕ := 0; let s : State := off; severity code = none ∨ s.powered = false) ∧
    (let code : ℕ := 0; let s : State := run; severity code ≠ none ∧ s.powered = true ∧ (bucketAt s code).tokens ≠ 0 ∧ code < 256) ∧
    (let code : ℕ := 0x45; let s : State := er { rl := [(0x45, { burst := 1, period := 1, tokens := 0, next := 9 })] }; severity code ≠ none ∧ s.powered = true ∧ (bucketAt s code).tokens = 0) := by
  refine ⟨?_, ?_, ?_⟩ <;> decide

theorem witness_QueuesAppendPopAndMark :
    (let q : ℕ := 1; let es : List QEntry := []; let s : State := run; ((queueAt s q).refused = 0 ∨ q < 16) ∧ (queueAt s q).ents.length + es.length ≤ (routeRec s.plan q).depth) ∧
    (let q : ℕ := 15; let es : List QEntry := [⟨2, 0, 0, 0⟩]; let s : State := queue 15 { depth := 1 } [⟨1, 0, 0, 0⟩]; (routeRec s.plan q).depth < (queueAt s q).ents.length + es.length ∧ q < 16 ∧ 0 < es.length ∧ es.length ≤ (routeRec s.plan q).depth) ∧
    (let q : ℕ := 16; let es : List QEntry := [⟨1, 0, 0, 0⟩]; let s : State := off; (routeRec s.plan q).depth < (queueAt s q).ents.length + es.length ∧ 16 ≤ q) ∧
    (let q : ℕ := 31; let es : List QEntry := [⟨2, 0, 0, 0⟩, ⟨3, 0, 0, 0⟩]; let s : State := { queue 31 { depth := 3 } [] with qu := { q := [(31, { refused := 2 })] } }; (queueAt s q).refused ≠ 0 ∧ 16 ≤ q ∧ (queueAt s q).ents.length + 1 + es.length ≤ (routeRec s.plan q).depth) ∧
    (let k : ℕ := 0; let req : Requester := .host; let q : ℕ := 1; let e : QEntry := ⟨1, 0, 0, 0⟩; let l : List QEntry := []; let s : State := { run with qu := { run.qu with q := [(q, { ents := e :: l })] } }; q < 32 ∧ serving s = true ∧ isReader (routeRec s.plan q) req = true ∧ (queueAt s q).ents = e :: l ∧ k ≠ q) ∧
    (let req : Requester := .host; let q : ℕ := 1; let s : State := { run with qu := { run.qu with q := [(q, { ents := [] })] } }; q < 32 ∧ serving s = true ∧ isReader (routeRec s.plan q) req = true ∧ (queueAt s q).ents = []) ∧
    (let k : ℕ := 0; let req : Requester := .app; let q : ℕ := 3; let s : State := run; q < 32 ∧ serving s = true ∧ isReader (routeRec s.plan q) req = false ∧ k ≠ q) ∧
    (let req : Requester := .app; let q : ℕ := 31; let w0 : Word := 0; let w1 : Word := 0; let w2 : Word := 0; let w3 : Word := 0; let s : State := queue 31 { depth := 2 } []; (req = Requester.legal ∨ req = Requester.app) ∧ 24 ≤ q ∧ q < 32 ∧ serving s = true ∧ isReader (routeRec s.plan q) req = false ∧ ((pushTo s q [{ tag := pushTag s req w0, w1 := w1, w2 := w2, w3 := w3 }]).opened = false)) ∧
    (let req : Requester := .legal; let q : ℕ := 24; let s : State := queue 24 { depth := 2, reader := 1 } []; (req = Requester.legal ∨ req = Requester.app) ∧ 24 ≤ q ∧ q < 32 ∧ serving s = true ∧ isReader (routeRec s.plan q) req = true) ∧
    (let q : ℕ := 24; let s : State := queue 24 { depth := 2, reader := 1 } []; 24 ≤ q ∧ q < 32 ∧ serving s = true ∧ (routeRec s.plan q).reader = 1 ∧ (queueAt s q).ents.length + 2 ≤ (routeRec s.plan q).depth ∧ linkQueues s = []) ∧
    (let q : ℕ := 31; let s : State := { queue 31 { depth := 2 } [] with qu := { q := [(31, { refused := 2 })] } }; q < 32 ∧ serving s = true ∧ (queueAt s q).refused ≠ 0 ∧ (queueAt s q).ents.length + 2 ≤ (routeRec s.plan q).depth) ∧
    (let q : ℕ := 0; let s : State := { run with qu := { run.qu with q := [(q, { refused := 0 })] } }; q < 32 ∧ (queueAt s q).refused = 0) ∧
    (let q : ℕ := 31; let s : State := off; q < 32 ∧ serving s = false ∧ 24 ≤ q) := by
  refine ⟨?_, ?_, ?_, ?_, ?_, ?_, ?_, ?_, ?_, ?_, ?_, ?_, ?_⟩ <;> decide

theorem witness_InputProbesAndReferences :
    (let ch : ℕ := 127; let r : ℕ := 0x0FFFFFFF; let res : Option ℕ := none; let s : State := probed { prbN := 1024, prbSpoil := true }; ch < 128 ∧ (feSet s.plan ch).prben = true ∧ probeRuns s = true ∧ 1024 ≤ (feAt s ch).prbN ∧ (r = match res with | some x => if x ≤ probeLimit (feSet s.plan ch) then x else 268435455 | none => 268435455) ∧ (feAt s ch).prbSpoil = true) ∧
    (let ch : ℕ := 127; let r : ℕ := 1500; let res : Option ℕ := some 1500; let s : State := probed { prbN := 1024, prbst := 1 }; ch < 128 ∧ (feSet s.plan ch).prben = true ∧ probeRuns s = true ∧ 1024 ≤ (feAt s ch).prbN ∧ (r = match res with | some x => if x ≤ probeLimit (feSet s.plan ch) then x else 268435455 | none => 268435455) ∧ (feAt s ch).prbSpoil = false ∧ probeClass (feSet s.plan ch) r = (feAt s ch).prbst) ∧
    (let ch : ℕ := 127; let r : ℕ := 1500; let res : Option ℕ := some 1500; let s : State := probed { prbN := 1024, prbst := 2, prbCand := 1 }; ch < 128 ∧ (feSet s.plan ch).prben = true ∧ probeRuns s = true ∧ 1024 ≤ (feAt s ch).prbN ∧ (r = match res with | some x => if x ≤ probeLimit (feSet s.plan ch) then x else 268435455 | none => 268435455) ∧ (feAt s ch).prbSpoil = false ∧ probeClass (feSet s.plan ch) r ≠ (feAt s ch).prbst ∧ (feAt s ch).prbCand = probeClass (feSet s.plan ch) r) ∧
    (let ch : ℕ := 127; let r : ℕ := 100000000; let res : Option ℕ := some 100000000; let s : State := probed { prbN := 1024 }; ch < 128 ∧ (feSet s.plan ch).prben = true ∧ probeRuns s = true ∧ 1024 ≤ (feAt s ch).prbN ∧ (r = match res with | some x => if x ≤ probeLimit (feSet s.plan ch) then x else 268435455 | none => 268435455) ∧ (feAt s ch).prbSpoil = false ∧ probeClass (feSet s.plan ch) r ≠ (feAt s ch).prbst ∧ (feAt s ch).prbCand ≠ probeClass (feSet s.plan ch) r) ∧
    (let ch : ℕ := 2; let s : State := run; ch < 128 ∧ ((feSet s.plan ch).prben = false ∨ probeRuns s = false ∨ (feAt s ch).prbN < 1024)) ∧
    (let m0 : ℕ := 0; let m1 : ℕ := 0; let m2 : ℕ := 0; let m3 : ℕ := 0; let q : ℕ := 0; let m : ℕ := 0; let s : State := { run with fe := { run.fe with refTicks := (16000), refBad := [(q, 1)] } }; 16000 ≤ s.fe.refTicks ∧ serving s = true ∧ ((q, m) ∈ [(0, m0), (1, m1), (2, m2), (3, m3)]) ∧ 2000 < (refDev s q m).natAbs ∧ tget 0 q s.fe.refBad = 1) ∧
    (let m0 : ℕ := 0x40000000; let m1 : ℕ := 0x40000000; let m2 : ℕ := 0x40000000; let m3 : ℕ := 0x40000000; let q : ℕ := 3; let m : ℕ := 0x40000000; let s : State := { run with fe := { refTicks := 16000, refGood := [(3, 1)] } }; 16000 ≤ s.fe.refTicks ∧ serving s = true ∧ ((q, m) ∈ [(0, m0), (1, m1), (2, m2), (3, m3)]) ∧ (refDev s q m).natAbs ≤ 2000 ∧ tget 0 q s.fe.refGood = 1) ∧
    (let m0 : ℕ := 0; let m1 : ℕ := 0; let m2 : ℕ := 0; let m3 : ℕ := 0; let q : ℕ := 0; let m : ℕ := 0; let s : State := { run with fe := { run.fe with refTicks := (16000), refBad := [(q, 0)], refGood := [(q, 0)] } }; 16000 ≤ s.fe.refTicks ∧ serving s = true ∧ ((q, m) ∈ [(0, m0), (1, m1), (2, m2), (3, m3)]) ∧ tget 0 q s.fe.refBad = 0 ∧ tget 0 q s.fe.refGood = 0) ∧
    (let s : State := run; s.fe.refTicks < 16000 ∨ serving s = false) := by
  refine ⟨?_, ?_, ?_, ?_, ?_, ?_, ?_, ?_, ?_⟩ <;> decide

theorem witness_ConversionsAndSliceCalibration :
    (let b : ℕ := 1; let n : ℕ := 63; let slot : ℕ := 127; let w : Word := 0x40000000; let s : State := slotted 63 127 0x40000000 {}; n < 64 ∧ slot < 130 ∧ startCal s = false ∧ schedRuns s = true ∧ (s.cv.blocked.contains (n, slot) = false) ∧ w = slotEntry s.plan n slot ∧ slotPrev w = decide (128 ≤ slot) ∧ slotUse w = 1 ∧ (sliceAt s n).faulty = false ∧ b ≠ slotAp w) ∧
    (let c : ℕ := 1; let n : ℕ := 63; let slot : ℕ := 127; let w : Word := 0x40000000; let s : State := slotted 63 127 0x40000000 {}; n < 64 ∧ slot < 130 ∧ startCal s = false ∧ schedRuns s = true ∧ (s.cv.blocked.contains (n, slot) = false) ∧ w = slotEntry s.plan n slot ∧ slotPrev w = decide (128 ≤ slot) ∧ slotUse w = 1 ∧ (sliceAt s n).faulty = false ∧ c ≠ slotCh w) ∧
    (let c : ℕ := 1; let n : ℕ := 63; let slot : ℕ := 127; let w : Word := 0x40000000; let s : State := slotted 63 127 0x40000000 { slices := [(63, { faulty := true })] }; n < 64 ∧ slot < 130 ∧ startCal s = false ∧ schedRuns s = true ∧ (s.cv.blocked.contains (n, slot) = false) ∧ w = slotEntry s.plan n slot ∧ slotPrev w = decide (128 ≤ slot) ∧ slotUse w = 1 ∧ (sliceAt s n).faulty = true ∧ c ≠ slotCh w) ∧
    (let k : ℕ := 0; let n : ℕ := 63; let slot : ℕ := 127; let w : Word := 0x80000000; let s : State := slotted 63 127 0x80000000 {}; n < 64 ∧ slot < 130 ∧ startCal s = false ∧ schedRuns s = true ∧ (s.cv.blocked.contains (n, slot) = false) ∧ w = slotEntry s.plan n slot ∧ slotPrev w = decide (128 ≤ slot) ∧ slotUse w = 2 ∧ (sliceAt s n).calN + 1 < 8960 ∧ k ≠ n) ∧
    (let n : ℕ := 63; let slot : ℕ := 127; let w : Word := 0x40004000; let c : ℕ := 167; let s : State := slotted 63 127 0x40004000 { fcen := true }; n < 64 ∧ slot < 130 ∧ startCal s = false ∧ schedRuns s = true ∧ (s.cv.blocked.contains (n, slot) = false) ∧ w = slotEntry s.plan n slot ∧ slotPrev w = decide (128 ≤ slot) ∧ slotUse w = 1 ∧ slotYield w = true ∧ s.cv.fcen = true ∧ c < 168 ∧ (sliceAt s n).faulty = false) ∧
    (let n : ℕ := 63; let slot : ℕ := 0; let w : Word := 0; let s : State := run; n < 64 ∧ slot < 130 ∧ startCal s = false ∧ schedRuns s = true ∧ (s.cv.blocked.contains (n, slot) = false) ∧ w = slotEntry s.plan n slot ∧ slotPrev w = decide (128 ≤ slot) ∧ slotUse w = 0) ∧
    (let n : ℕ := 2; let slot : ℕ := 1; let s : State := { start with cv := { start.cv with slices := [(n, { calN := (8959) })] } }; n < 64 ∧ slot < 130 ∧ startCal s = true ∧ 8959 ≤ (sliceAt s n).calN) ∧
    (let s : State := { run with cv := { run.cv with setlEnd := true } }; s.cv.setlEnd = true) ∧
    (let s : State := { run with cv := { run.cv with setlEnd := false } }; s.cv.setlEnd = false) ∧
    (let n : ℕ := 63; let cal : SliceCal := { off := 0, gain := 0, inl := [], sat := false }; let s : State := { run with cv := { slices := [(63, { calDue := true, ready := some { off := 0, gain := 0, inl := [], sat := false } })] } }; n < 64 ∧ s.cv.flt.getLsbD n = false ∧ s.plan.oosMask.getLsbD n = false ∧ startCal s = false ∧ (sliceAt s n).calDue = true ∧ (sliceAt s n).ready = some cal ∧ s.plan.dirMask.getLsbD n = false) ∧
    (let n : ℕ := 63; let cal : SliceCal := { off := 40001, gain := 0x800000, inl := [], sat := false }; let s : State := { run with cv := { slices := [(63, { calDue := true, bad := 1, ready := some { off := 40001, gain := 0x800000, inl := [], sat := false } })] } }; n < 64 ∧ s.cv.flt.getLsbD n = false ∧ s.plan.oosMask.getLsbD n = false ∧ startCal s = false ∧ (sliceAt s n).calDue = true ∧ (sliceAt s n).ready = some cal ∧ calBad cal = true ∧ 1 ≤ (sliceAt s n).bad) ∧
    (let n : ℕ := 63; let cal : SliceCal := { off := 0, gain := 0, inl := [], sat := false }; let s : State := { run with cv := { slices := [(63, { calDue := true, ready := some { off := 0, gain := 0, inl := [], sat := false } })] } }; n < 64 ∧ s.cv.flt.getLsbD n = false ∧ s.plan.oosMask.getLsbD n = false ∧ startCal s = false ∧ (sliceAt s n).calDue = true ∧ (sliceAt s n).ready = some cal ∧ calBad cal = true ∧ (sliceAt s n).bad = 0) ∧
    (let n : ℕ := 63; let cal : SliceCal := { off := 0, gain := 0x800000, inl := [], sat := false }; let s : State := { run with cv := { slices := [(63, { calDue := true, ready := some { off := 0, gain := 0x800000, inl := [], sat := false } })] } }; n < 64 ∧ s.cv.flt.getLsbD n = false ∧ s.plan.oosMask.getLsbD n = false ∧ startCal s = false ∧ (sliceAt s n).calDue = true ∧ (sliceAt s n).ready = some cal ∧ calBad cal = false) ∧
    (let n : ℕ := 2; let s : State := run; n < 64 ∧ (s.cv.flt.getLsbD n = true ∨ s.plan.oosMask.getLsbD n = true ∨ (sliceAt s n).calDue = false ∨ (sliceAt s n).ready = none)) ∧
    (let n : ℕ := 63; let c : SliceCal := { off := 0, gain := 0x800000, inl := [], sat := false }; let s : State := { start with sup := { st := .start, startTicks := 70 }, cv := { slices := [(63, { calDue := true, ready := some { off := 0, gain := 0x800000, inl := [], sat := false } })] } }; startCal s = true ∧ 70 ≤ s.sup.startTicks ∧ n < 64 ∧ (sliceAt s n).ready = some c) ∧
    (let n : ℕ := 0; let s : State := { start with sup := { start.sup with startTicks := (70) }, cv := { start.cv with slices := [(n, { ready := none })] } }; startCal s = true ∧ 70 ≤ s.sup.startTicks ∧ n < 64 ∧ (sliceAt s n).ready = none) ∧
    (let s : State := run; startCal s = false ∨ s.sup.startTicks < 70) := by
  refine ⟨?_, ?_, ?_, ?_, ?_, ?_, ?_, ?_, ?_, ?_, ?_, ?_, ?_, ?_, ?_, ?_, ?_⟩ <;> decide +kernel

theorem witness_ComparatorsAndFaultCaptures :
    (let pt : Bool := true; let i : ℕ := 1023; let s : State := { run with cv := { cmpp := [(1023, { due := true, pend := 1 })] } }; (i < if pt = true then 1024 else 168) ∧ serving s = true ∧ (cmpAt s pt i).due = true) ∧
    (let pt : Bool := true; let i : ℕ := 0; let s : State := run; (i < if pt = true then 1024 else 168) ∧ ((cmpAt s pt i).due = false ∨ serving s = false)) ∧
    (let ch : ℕ := 0; let ap : ℕ := 1; let s : State := { run with cv := { run.cv with fcen := true, cap := none } }; ch < 168 ∧ ap < 48 ∧ serving s = true ∧ s.cv.fcen = true ∧ s.cv.cap = none) ∧
    (let ch : ℕ := 167; let ap : ℕ := 47; let x : Capture := { ch := 3, k := 47, frame := 0, gain := 0, manual := true, total := 8, div := 0, wait := 0, samples := [], lastFrame := 0, misses := 0, due := true }; let s : State := { run with cv := { fcen := true, cap := some { ch := 3, k := 47, frame := 0, gain := 0, manual := true, total := 8, div := 0, wait := 0, samples := [], lastFrame := 0, misses := 0, due := true } } }; ch < 168 ∧ ap < 48 ∧ serving s = true ∧ s.cv.fcen = true ∧ s.cv.cap = some x) ∧
    (let ch : ℕ := 0; let ap : ℕ := 1; let s : State := { run with cv := { run.cv with fcen := false } }; ch < 168 ∧ ap < 48 ∧ serving s = true ∧ s.cv.fcen = false) ∧
    (let ch : ℕ := 0; let ap : ℕ := 0; let s : State := off; ch < 168 ∧ ap < 48 ∧ serving s = false) ∧
    (let x : Capture := { ch := 3, k := 47, frame := 0, gain := 0, manual := true, total := 8, div := 0, wait := 0, samples := [], lastFrame := 0, misses := 0, due := true }; let s : State := { run with cv := { fcen := true, cap := some { ch := 3, k := 47, frame := 0, gain := 0, manual := true, total := 8, div := 0, wait := 0, samples := [], lastFrame := 0, misses := 0, due := true } } }; s.cv.cap = some x ∧ x.due = true ∧ s.cv.fcen = true ∧ serving s = true) ∧
    (let s : State := run; s.cv.cap = none ∨ s.cv.fcen = false ∨ serving s = false) := by
  refine ⟨?_, ?_, ?_, ?_, ?_, ?_, ?_, ?_⟩ <;> decide

theorem witness_LoaderTakesAnImage :
    (let req : Requester := .app; let s : State := { run with pl := { run.pl with st := PlState.ready } }; serving s = true ∧ req ≠ Requester.legal ∧ (s.pl.st = PlState.empty ∨ s.pl.st = PlState.ready ∨ s.pl.st = PlState.rejected ∨ s.pl.st = PlState.loading ∧ s.pl.owner = some req)) ∧
    (let req : Requester := .app; let s : State := { run with pl := { run.pl with st := PlState.armed } }; serving s = true ∧ req ≠ Requester.legal ∧ (s.pl.st = PlState.armed ∨ s.pl.st = PlState.pending ∧ s.pl.locked = false)) ∧
    (let req : Requester := .host; let s : State := { run with pl := { run.pl with st := PlState.loading } }; serving s = true ∧ req ≠ Requester.legal ∧ (s.pl.st = PlState.verifying ∨ s.pl.st = PlState.pending ∧ s.pl.locked = true ∨ s.pl.st = PlState.loading ∧ s.pl.owner ≠ some req)) ∧
    (let req : Requester := .app; let s : State := { run with pl := { run.pl with st := PlState.loading, owner := some req } }; serving s = true ∧ s.pl.st = PlState.loading ∧ s.pl.owner = some req) ∧
    (let req : Requester := .app; let s : State := run; serving s = true ∧ (s.pl.st ≠ PlState.loading ∨ s.pl.owner ≠ some req) ∧ req ≠ Requester.legal) ∧
    (let req : Requester := .app; let s : State := boot; serving s = false ∨ req = Requester.legal ∧ s.pl.owner ≠ some Requester.legal) ∧
    (let s : State := { run with pl := { run.pl with st := PlState.verifying } }; serving s = true ∧ s.pl.st = PlState.verifying) ∧
    (let s : State := run; serving s = false ∨ s.pl.st ≠ PlState.verifying) := by
  refine ⟨?_, ?_, ?_, ?_, ?_, ?_, ?_, ?_⟩ <;> decide

theorem witness_ActivationIsRequested :
    (let req : Requester := .host; let s : State := loader .ready; serving s = true ∧ (s.pl.st = PlState.ready ∨ s.pl.st = PlState.pending ∧ s.pl.locked = false) ∧ s.pl.owner = some req ∧ activateCode s (plafN s) = 0 ∧ s.pl.legalchg = false) ∧
    (let req : Requester := .app; let s : State := { run with pl := { run.pl with st := PlState.ready, owner := some req } }; serving s = true ∧ (s.pl.st = PlState.ready ∨ s.pl.st = PlState.pending ∧ s.pl.locked = false) ∧ s.pl.owner = some req ∧ activateCode s (plafN s) ≠ 0) ∧
    (let req : Requester := .host; let s : State := changed .ready; serving s = true ∧ (s.pl.st = PlState.ready ∨ s.pl.st = PlState.pending ∧ s.pl.locked = false) ∧ s.pl.owner = some req ∧ activateCode s (plafN s) = 0 ∧ s.pl.legalchg = true ∧ s.pl.resv = 0) ∧
    (let req : Requester := .app; let s : State := { run with pl := { run.pl with st := PlState.armed, owner := some req } }; serving s = true ∧ (s.pl.st = PlState.armed ∨ s.pl.st = PlState.pending ∧ s.pl.locked = false) ∧ s.pl.owner = some req) ∧
    (let req : Requester := .host; let s : State := run; serving s = true ∧ req ≠ Requester.legal ∧ (s.pl.owner ≠ some req ∨ s.pl.st = PlState.pending ∧ s.pl.locked = true ∨ s.pl.st ≠ PlState.pending ∧ s.pl.st ≠ PlState.ready ∧ s.pl.st ≠ PlState.armed)) ∧
    (let s : State := off; serving s = false) := by
  refine ⟨?_, ?_, ?_, ?_, ?_, ?_⟩ <;> decide

theorem witness_ChainArmsAndCommits :
    (let n : Frame := 164; let s : State := loader .ready; serving s = true ∧ s.pl.st = PlState.ready ∧ activateCode s n = 0 ∧ s.pl.legalchg = false) ∧
    (let n : Frame := 5; let s : State := { run with pl := { run.pl with st := PlState.ready } }; serving s = true ∧ s.pl.st = PlState.ready ∧ activateCode s n ≠ 0) ∧
    (let s : State := run; serving s = true ∧ s.pl.st ≠ PlState.ready) ∧
    (let s : State := run; serving s = true ∧ s.pl.st ≠ PlState.armed) ∧
    (let s : State := off; serving s = false) ∧
    (let s : State := { run with pl := { run.pl with st := PlState.armed } }; serving s = true ∧ s.pl.st = PlState.armed ∧ BitVec.toNat s.pl.n < BitVec.toNat s.tb.frame + 16) ∧
    (let s : State := run; s.pl.st ≠ PlState.armed ∨ BitVec.toNat s.tb.frame + 16 ≤ BitVec.toNat s.pl.n) := by
  refine ⟨?_, ?_, ?_, ?_, ?_, ?_, ?_⟩ <;> decide

theorem witness_ActivationAtItsFrame :
    (let new : PlanDef := {}; let s : State := { run with pl := { run.pl with st := PlState.pending, shadow := some new, locked := false } }; serving s = true ∧ s.pl.st = PlState.pending ∧ s.pl.shadow = some new ∧ s.pl.locked = false ∧ BitVec.toNat s.pl.n ≤ BitVec.toNat s.tb.frame + 1 ∧ selectorCode s new = 0) ∧
    (let new : PlanDef := { planid := 7 }; let s : State := { pending 101 0 false with tp := { locked := true } }; serving s = true ∧ s.pl.st = PlState.pending ∧ s.pl.shadow = some new ∧ s.pl.locked = false ∧ BitVec.toNat s.pl.n ≤ BitVec.toNat s.tb.frame + 1 ∧ selectorCode s new ≠ 0) ∧
    (let s : State := run; serving s = false ∨ s.pl.st ≠ PlState.pending ∨ s.pl.locked = true ∨ BitVec.toNat s.tb.frame + 1 < BitVec.toNat s.pl.n) ∧
    (let new : PlanDef := { planid := 7 }; let s : State := pending 100 99 true; s.pl.st = PlState.pending ∧ s.pl.shadow = some new ∧ s.pl.locked = true ∧ BitVec.toNat s.pl.n ≤ BitVec.toNat s.tb.frame ∧ BitVec.toNat s.pl.lockFrame < BitVec.toNat s.tb.frame ∧ (s.sup.st = OpState.run ∨ s.sup.st = OpState.calibrate ∨ s.sup.st = OpState.test)) ∧
    (let new : PlanDef := { planid := 7 }; let s : State := { pending 100 99 true with sup := { st := .recovery } }; s.pl.st = PlState.pending ∧ s.pl.shadow = some new ∧ s.pl.locked = true ∧ BitVec.toNat s.pl.n ≤ BitVec.toNat s.tb.frame ∧ BitVec.toNat s.pl.lockFrame < BitVec.toNat s.tb.frame ∧ s.sup.st = OpState.recovery ∧ s.sup.commit = CommitPhase.none) ∧
    (let s : State := run; s.pl.st ≠ PlState.pending ∨ s.pl.locked = false ∨ BitVec.toNat s.tb.frame < BitVec.toNat s.pl.n ∨ BitVec.toNat s.tb.frame ≤ BitVec.toNat s.pl.lockFrame) := by
  refine ⟨?_, ?_, ?_, ?_, ?_, ?_⟩ <;> decide

theorem witness_LanesCompareAndWindowsClose :
    (let s : State := run; s.met.laneRun = none ∨ s.met.compared = true ∨ s.powered = false) ∧
    (let us : List Upset := []; let s : State := lanes; s.powered = true ∧ s.met.laneRun ≠ none ∧ s.met.compared = false ∧ (∀ p < 128, mismatch s (upsetsOf s us) p = false) ∧ prolMismatch s (upsetsOf s us) = false) ∧
    (let us : List Upset := [{ laneB := false, prologue := true, point := 0, qty := 0, bit := 0, persistent := true }, { laneB := true, prologue := false, point := 0, qty := 1, bit := 3, persistent := true }]; let p : ℕ := 0; let s : State := lanes; s.powered = true ∧ s.met.laneRun ≠ none ∧ s.met.compared = false ∧ prolMismatch s (upsetsOf s us) = true ∧ prolMismatch s (List.filter (fun x ↦ x.persistent) (upsetsOf s us)) = true ∧ p < 128 ∧ (pointDef s.met.lanePlan p).type ≠ 0 ∧ faulted s p = false ∧ mismatch s (upsetsOf s us) p = true) ∧
    (let b : ℕ := 7; let half : Bool := true; let s : State := run; b < 8 ∧ (s.powered = false ∨ half = true ∧ (busAt s b).dueH = none ∨ half = false ∧ (busAt s b).due10 = none)) ∧
    (let b : ℕ := 7; let pos : ℕ := 0; let k : ℕ := 0; let s : State := { run with met := { run.met with bus := [(b, { dueH := some pos })] } }; b < 8 ∧ s.powered = true ∧ (busAt s b).dueH = some pos ∧ k ≠ b) ∧
    (let b : ℕ := 7; let pos : ℕ := 0; let k : ℕ := 0; let s : State := { run with met := { run.met with bus := [(b, { due10 := some pos })] } }; b < 8 ∧ s.powered = true ∧ (busAt s b).due10 = some pos ∧ k ≠ b) := by
  refine ⟨?_, ?_, ?_, ?_, ?_, ?_⟩ <;> decide

theorem witness_PulsesStartAndEnd :
    (let k : ℕ := 0; let o : ℕ := 7; let s : State := pulse { res := Pair.of (BitVec.ofNat 96 (2 ^ 48)) }; o < 8 ∧ (s.plan.pulses.getD o { }).point < 128 ∧ (tget { } o s.met.pulse).scale = false ∧ (ptAt s (s.plan.pulses.getD o { }).point).scalef = false ∧ (tget { } o s.met.pulse).active = false ∧ 2 ^ 48 ≤ (tget { } o s.met.pulse).res.v.toInt ∧ (tget { } o s.met.pulse).res.ok = true ∧ faulted s (s.plan.pulses.getD o { }).point = false ∧ s.pl.retire.contains o = false ∧ serving s = true ∧ s.sup.commit = CommitPhase.none ∧ pulseAt s o < 48 * (s.tb.ticks + 1) ∧ k ≠ o) ∧
    (let o : ℕ := 7; let s : State := run; o < 8 ∧ ((tget { } o s.met.pulse).res.v.toInt < 2 ^ 48 ∨ (tget { } o s.met.pulse).active = true ∨ (tget { } o s.met.pulse).scale = true ∨ serving s = false ∨ s.sup.commit ≠ CommitPhase.none ∨ 48 * (s.tb.ticks + 1) ≤ pulseAt s o)) ∧
    (let k : ℕ := 0; let o : ℕ := 7; let s : State := pulse { active := true, endAt := 47 }; o < 8 ∧ (tget { } o s.met.pulse).active = true ∧ (tget { } o s.met.pulse).endAt < 48 * (s.tb.ticks + 1) ∧ k ≠ o) ∧
    (let o : ℕ := 7; let s : State := run; o < 8 ∧ ((tget { } o s.met.pulse).active = false ∨ 48 * (s.tb.ticks + 1) ≤ (tget { } o s.met.pulse).endAt)) := by
  refine ⟨?_, ?_, ?_, ?_⟩ <;> decide

theorem witness_BandWindowsAndAggregation :
    (let s : State := { run with pq := { run.pq with bandTicks := (3200-1) } }; s.pq.bandTicks < 3200) ∧
    (let s : State := pq { banden := true, bandTicks := 3200, bcur := 0xFFFFFF80 }; 3200 ≤ s.pq.bandTicks ∧ List.filter (fun c ↦ c != 255) (chWord s.pq.bcur) ≠ []) ∧
    (let s : State := { run with pq := { run.pq with bandTicks := (3200) } }; 3200 ≤ s.pq.bandTicks ∧ List.filter (fun c ↦ c != 255) (chWord s.pq.bcur) = []) ∧
    (let s : State := { run with pq := { run.pq with bandTicks := (3200), banden := false } }; 3200 ≤ s.pq.bandTicks ∧ s.pq.banden = false) ∧
    (let d : BandDue := { chans := [0], frame := 5, ticks := 1600, hist := [] }; let c : ℕ := 0; let s : State := { run with pl := { act := wired }, pq := { bandDue := some { chans := [0], frame := 5, ticks := 1600, hist := [] } } }; s.pq.bandDue = some d ∧ 1600 ≤ d.ticks ∧ c ∈ d.chans ∧ (memberChs s.plan).contains c = true) ∧
    (let c : ℕ := 0; let d : BandDue := ⟨[5], 9, 1600, []⟩; let s : State := pq { bandDue := some ⟨[5], 9, 1600, []⟩ }; s.pq.bandDue = some d ∧ 1600 ≤ d.ticks ∧ (c ∉ d.chans ∨ (memberChs s.plan).contains c = false)) ∧
    (let s : State := run; s.pq.bandDue = none) ∧
    (let b : ℕ := 0; let s : State := pq { agg10m := 9600000, bus := [(0, { udin := 23000 })] }; pqIntervalDue s true = true ∧ b < 8 ∧ udinOf (pqBus s b) ≠ 0) ∧
    (let b : ℕ := 0; let s : State := pq { agg10s := 160000, bus := [(0, { udin := 23000 })] }; pqIntervalDue s false = true ∧ b < 8 ∧ udinOf (pqBus s b) ≠ 0) ∧
    (let long : Bool := true; let s : State := run; pqIntervalDue s long = false) ∧
    (let s : State := { run with rtc := { run.rtc with valid := false } }; s.rtc.valid = false) ∧
    (let s : State := run; serving s = true) ∧
    (let s : State := off; serving s = false) := by
  refine ⟨?_, ?_, ?_, ?_, ?_, ?_, ?_, ?_, ?_, ?_, ?_, ?_, ?_⟩ <;> decide

theorem witness_LiveWindowsEnd :
    (let ch : ℕ := 159; let noisy : Bool := false; let s : State := live { ticks := 163840, ovl := 1639 }; ch < 160 ∧ liveRuns s ch = true ∧ 163840 ≤ (liveAt s ch).ticks ∧ (noisy = true ∨ 1638 < (liveAt s ch).ovl)) ∧
    (let ch : ℕ := 159; let noisy : Bool := false; let s : State := live { ticks := 163840, ovl := 1638 }; ch < 160 ∧ liveRuns s ch = true ∧ 163840 ≤ (liveAt s ch).ticks ∧ noisy = false ∧ (liveAt s ch).ovl ≤ 1638 ∧ (liveAt s ch).base = false ∧ (liveAt s ch).baseWait = false) ∧
    (let ch : ℕ := 159; let noisy : Bool := false; let s : State := live { ticks := 163840, ovl := 1638, base := true }; ch < 160 ∧ liveRuns s ch = true ∧ 163840 ≤ (liveAt s ch).ticks ∧ noisy = false ∧ (liveAt s ch).ovl ≤ 1638 ∧ (liveAt s ch).base = true) ∧
    (let ch : ℕ := 0; let s : State := run; ch < 160 ∧ (liveRuns s ch = false ∨ (liveAt s ch).ticks < 163840)) := by
  refine ⟨?_, ?_, ?_, ?_⟩ <;> decide

theorem witness_SprintRuns :
    (let s : State := pq { len := 1, spch := [0xFFFFFF05, 0xFFFFFFFF, 0xFFFFFFFF, 0xFFFFFFFF] }; serving s = true ∧ goCode s = 0) ∧
    (let s : State := run; serving s = true ∧ goCode s ≠ 0) ∧
    (let s : State := { run with pq := { run.pq with st := SpState.waiting, abort := false }, tb := { run.tb with ticks := (run.pq.goAt+1) } }; s.pq.st = SpState.waiting ∧ s.pq.abort = false ∧ (sprintFrameOf s = 0 ∧ s.pq.goAt < s.tb.ticks ∨ sprintFrameOf s ≠ 0 ∧ BitVec.toNat (sprintFrameOf s) ≤ BitVec.toNat s.tb.frame)) ∧
    (let s : State := run; s.pq.st ≠ SpState.waiting ∨ s.pq.abort = true ∨ sprintFrameOf s = 0 ∧ s.tb.ticks ≤ s.pq.goAt ∨ sprintFrameOf s ≠ 0 ∧ BitVec.toNat s.tb.frame < BitVec.toNat (sprintFrameOf s)) ∧
    (let s : State := { run with pq := { run.pq with st := SpState.waiting } }; serving s = true ∧ (s.pq.st = SpState.waiting ∨ s.pq.st = SpState.capturing)) ∧
    (let s : State := run; serving s = false ∨ s.pq.st = SpState.idle ∨ s.pq.st = SpState.unread) ∧
    (let s : State := { run with pq := { run.pq with abort := false, st := SpState.capturing, rDone := (run.pq.rLen) } }; serving s = true ∧ (s.pq.abort = true ∧ s.pq.abortAt < s.tb.ticks ∧ (s.pq.st = SpState.waiting ∨ s.pq.st = SpState.capturing) ∨ s.pq.abort = false ∧ s.pq.st = SpState.capturing ∧ s.pq.rLen ≤ s.pq.rDone)) ∧
    (let s : State := run; serving s = false ∨ s.pq.st = SpState.idle ∨ s.pq.st = SpState.unread ∨ (s.pq.abort = false ∨ s.tb.ticks ≤ s.pq.abortAt) ∧ (s.pq.st = SpState.waiting ∨ s.pq.rDone < s.pq.rLen)) ∧
    (let e : QEntry := ⟨1, 0, 0, 0⟩; let l : List QEntry := []; let s : State := { run with pq := { run.pq with buf := e :: l } }; serving s = true ∧ s.pq.buf = e :: l) ∧
    (let s : State := { run with pq := { run.pq with buf := [] } }; serving s = true ∧ s.pq.buf = []) ∧
    (let s : State := off; serving s = false) := by
  refine ⟨?_, ?_, ?_, ?_, ?_, ?_, ?_, ?_, ?_, ?_, ?_⟩ <;> decide

theorem witness_LegalWritesNeedTheSeal :
    (let req : Requester := .host; let k : ℕ := 0x100; let s : State := opened; req ≠ Requester.legal ∧ serving s = true ∧ s.sealOpen = true ∧ (rwlReg (3145728 + k % 65536)).isSome = true ∧ (rwlReg (3145728 + k % 65536 + 4)).isSome = true) ∧
    (let k : ℕ := 0; let s : State := run; serving s = true ∧ s.sealOpen = false ∧ (rwlReg (3145728 + k % 65536)).isSome = true) ∧
    (let s : State := calib; serving s = true ∧ s.sealOpen = true ∧ (rwlOk s [(2490372, 1)] = true)) ∧
    (let s : State := opened; serving s = true ∧ s.sealOpen = true ∧ (rwlOk s [(2490372, 2)] = true)) ∧
    (let s : State := opened; serving s = true ∧ s.sealOpen = true ∧ (rwlOk s [(2490372, 3)] = true)) ∧
    (let s : State := opened; serving s = true ∧ s.sealOpen = true ∧ (rwlOk s [(2490372, 16)] = true)) ∧
    (let s : State := calib; serving s = true ∧ s.sealOpen = true ∧ (rwlOk s [(3145728, 1)] = true)) ∧
    (let s : State := calib; serving s = true ∧ s.sealOpen = true ∧ (rwlOk s [(3145728, 2)] = true)) ∧
    (let w : Word := 0; let s : State := opened; serving s = true ∧ s.sealOpen = true ∧ (rwlOk s [(2162720, w)] = true)) ∧
    (let w : Word := 6; let s : State := { opened with ls := { fault := [(6, Pair.of 1)] } }; serving s = true ∧ s.sealOpen = true ∧ (rwlOk s [(720932, w ||| 256)] = true)) ∧
    (let w : Word := 0; let s : State := opened; serving s = true ∧ s.sealOpen = true ∧ (rwlOk s [(720932, w &&& ~~~256#32 ||| 512)] = true)) ∧
    (let v : Word := 7; let n : Word := 0xFFFFFFF8; let k : ℕ := 0x100; let s : State := calib; serving s = true ∧ s.sealOpen = true ∧ (rwlReg (3145728 + k % 65536)).isSome = true ∧ (rwlReg (3145728 + k % 65536 + 4)).isSome = true ∧ (rwlOk s [(3145728 + k % 65536, v), (3145728 + k % 65536 + 4, n)] = true)) ∧
    (let s : State := off; serving s = false) ∧
    (let k : ℕ := 1; rwlReg (3145728 + k % 65536) = none ∧ rwlReg (3145728 + k % 65536 + 4) = none) ∧
    (let s : State := run; s.sealOpen = false ∨ s.sup.sealNow = true) ∧
    (let s : State := { run with tp := { deb := some false, sealSt := 2 }, hp := { rwlAcc := [{ req := .host, words := [(0x260004, 2)] }] } }; s.tp.deb = some false ∧ s.tp.sealSt = 2 ∧ s.hp.rwlAcc ≠ []) := by
  refine ⟨?_, ?_, ?_, ?_, ?_, ?_, ?_, ?_, ?_, ?_, ?_, ?_, ?_, ?_, ?_, ?_⟩ <;> decide

theorem witness_LegalRequestsAreAnswered :
    (let r : RwlReq := { req := .host, words := [(0x260004, 2)] }; let rest : List RwlReq := []; let s : State := { opened with hp := { rwl := [{ req := .host, words := [(0x260004, 2)] }] } }; s.hp.rwl = r :: rest ∧ serving s = true ∧ katBusy s = false ∧ (rwlOk { pending := s.pending, sup := s.sup, tb := s.tb, fe := s.fe, cv := s.cv, qu := s.qu, pl := s.pl, met := s.met, pq := s.pq, ls := s.ls, bl := s.bl, rtc := s.rtc, tp := s.tp, er := s.er, dp := s.dp, tr := s.tr, hp := have __src := s.hp; { code := __src.code, crcerr := __src.crcerr, abort := __src.abort, tmo := __src.tmo, noeff := __src.noeff, hto := __src.hto, idle := __src.idle, crcc := __src.crcc, crcRun := __src.crcRun, crcDone := __src.crcDone, irqsts := __src.irqsts, irqmsk := __src.irqmsk, irqev := __src.irqev, irqen := __src.irqen, irqtamp := __src.irqtamp, status := __src.status, data := __src.data, ignoring := __src.ignoring, unmap := __src.unmap, rwlcls := __src.rwlcls, rwlref := __src.rwlref, una := __src.una, unr := __src.unr, rwlr := __src.rwlr, scr := __src.scr, rwl := rest, rwlAcc := __src.rwlAcc, legal := __src.legal, legalAns := __src.legalAns, mbox := __src.mbox }, ser := s.ser, cb := s.cb, nv := s.nv, fresh := s.fresh } r.words = true)) ∧
    (let r : RwlReq := { req := .host, words := [(0xB0024, 0x106)] }; let rest : List RwlReq := []; let e : ℕ × Word := (0xB0024, 0x106); let s : State := { run with hp := { rwl := [{ req := .host, words := [(0xB0024, 0x106)] }] } }; s.hp.rwl = r :: rest ∧ serving s = true ∧ katBusy s = false ∧ (rwlOk { pending := s.pending, sup := s.sup, tb := s.tb, fe := s.fe, cv := s.cv, qu := s.qu, pl := s.pl, met := s.met, pq := s.pq, ls := s.ls, bl := s.bl, rtc := s.rtc, tp := s.tp, er := s.er, dp := s.dp, tr := s.tr, hp := have __src := s.hp; { code := __src.code, crcerr := __src.crcerr, abort := __src.abort, tmo := __src.tmo, noeff := __src.noeff, hto := __src.hto, idle := __src.idle, crcc := __src.crcc, crcRun := __src.crcRun, crcDone := __src.crcDone, irqsts := __src.irqsts, irqmsk := __src.irqmsk, irqev := __src.irqev, irqen := __src.irqen, irqtamp := __src.irqtamp, status := __src.status, data := __src.data, ignoring := __src.ignoring, unmap := __src.unmap, rwlcls := __src.rwlcls, rwlref := __src.rwlref, una := __src.una, unr := __src.unr, rwlr := __src.rwlr, scr := __src.scr, rwl := rest, rwlAcc := __src.rwlAcc, legal := __src.legal, legalAns := __src.legalAns, mbox := __src.mbox }, ser := s.ser, cb := s.cb, nv := s.nv, fresh := s.fresh } r.words = false) ∧ e ∈ r.words ∧ rwlReg e.1 = some RwlReg.rein) ∧
    (let r : RwlReq := { req := .host, words := [(0x300000, 0x106)] }; let rest : List RwlReq := []; let e : ℕ × Word := (0x300000, 0x106); let s : State := { run with hp := { rwl := [{ req := .host, words := [(0x300000, 0x106)] }] } }; s.hp.rwl = r :: rest ∧ serving s = true ∧ katBusy s = false ∧ (rwlOk { pending := s.pending, sup := s.sup, tb := s.tb, fe := s.fe, cv := s.cv, qu := s.qu, pl := s.pl, met := s.met, pq := s.pq, ls := s.ls, bl := s.bl, rtc := s.rtc, tp := s.tp, er := s.er, dp := s.dp, tr := s.tr, hp := have __src := s.hp; { code := __src.code, crcerr := __src.crcerr, abort := __src.abort, tmo := __src.tmo, noeff := __src.noeff, hto := __src.hto, idle := __src.idle, crcc := __src.crcc, crcRun := __src.crcRun, crcDone := __src.crcDone, irqsts := __src.irqsts, irqmsk := __src.irqmsk, irqev := __src.irqev, irqen := __src.irqen, irqtamp := __src.irqtamp, status := __src.status, data := __src.data, ignoring := __src.ignoring, unmap := __src.unmap, rwlcls := __src.rwlcls, rwlref := __src.rwlref, una := __src.una, unr := __src.unr, rwlr := __src.rwlr, scr := __src.scr, rwl := rest, rwlAcc := __src.rwlAcc, legal := __src.legal, legalAns := __src.legalAns, mbox := __src.mbox }, ser := s.ser, cb := s.cb, nv := s.nv, fresh := s.fresh } r.words = false) ∧ e ∈ r.words ∧ rwlReg e.1 = some RwlReg.calctl) ∧
    (let s : State := run; serving s = false ∨ s.hp.rwl = []) ∧
    (let r : RwlReq := { req := .host, words := [(0xB0024, 0x106)] }; let rest : List RwlReq := []; let s : State := { opened with ls := { katReq := some 0x106 }, hp := { rwl := [{ req := .host, words := [(0xB0024, 0x106)] }] } }; s.hp.rwl = r :: rest ∧ katBusy s = true ∧ (∃ e ∈ r.words, rwlReg e.1 = some RwlReg.rein)) ∧
    (let req : Requester := .host; let w : Word := 2; let s : State := { run with hp := { run.hp with rwlAcc := [{ req := req, words := [(2490372, w)] }] } }; (s.hp.rwlAcc = [{ req := req, words := [(2490372, w)] }]) ∧ w = 2) ∧
    (let req : Requester := .host; let w : Word := 3; let s : State := { run with hp := { run.hp with rwlAcc := [{ req := req, words := [(2490372, w)] }] } }; (s.hp.rwlAcc = [{ req := req, words := [(2490372, w)] }]) ∧ w = 3) ∧
    (let req : Requester := .app; let w : Word := 1; let s : State := { run with hp := { run.hp with rwlAcc := [{ req := req, words := [(2490372, w)] }] } }; (s.hp.rwlAcc = [{ req := req, words := [(2490372, w)] }]) ∧ w = 1 ∧ s.sup.st ≠ OpState.recovery) ∧
    (let req : Requester := .host; let w : Word := 16; let s : State := { run with hp := { run.hp with rwlAcc := [{ req := req, words := [(2490372, w)] }] }, sup := { run.sup with commit := CommitPhase.none } }; (s.hp.rwlAcc = [{ req := req, words := [(2490372, w)] }]) ∧ w = 16 ∧ s.sup.commit = CommitPhase.none) ∧
    (let req : Requester := .app; let s : State := { run with hp := { run.hp with rwlAcc := [{ req := req, words := [(3145728, 1)] }] } }; s.hp.rwlAcc = [{ req := req, words := [(3145728, 1)] }]) ∧
    (let req : Requester := .app; let s : State := { run with hp := { run.hp with rwlAcc := [{ req := req, words := [(3145728, 2)] }] } }; s.hp.rwlAcc = [{ req := req, words := [(3145728, 2)] }]) ∧
    (let req : Requester := .host; let w : Word := 0x106; let s : State := { run with hp := { rwlAcc := [{ req := .host, words := [(0xB0024, 0x106)] }] } }; BitVec.getLsbD w 8 = true ∧ (s.hp.rwlAcc = [{ req := req, words := [(720932, w)] }])) ∧
    (let req : Requester := .app; let w : Word := 0x80000001; let s : State := { run with hp := { run.hp with rwlAcc := [{ req := req, words := [(2162720, w)] }] } }; BitVec.getLsbD w 31 = true ∧ (s.hp.rwlAcc = [{ req := req, words := [(2162720, w)] }])) := by
  refine ⟨?_, ?_, ?_, ?_, ?_, ?_, ?_, ?_, ?_, ?_, ?_, ?_, ?_⟩ <;> decide

theorem witness_PairsAreCheckedAndScrubbed :
    (let req : Requester := .host; let a : ℕ := 0x100000; let n : ℕ := 16; let s : State := run; pairLen a = some n ∧ serving s = true ∧ (pairOk { pending := s.pending, sup := s.sup, tb := s.tb, fe := s.fe, cv := s.cv, qu := s.qu, pl := s.pl, met := s.met, pq := s.pq, ls := s.ls, bl := s.bl, rtc := s.rtc, tp := s.tp, er := s.er, dp := s.dp, tr := s.tr, hp := have __src := s.hp; { code := __src.code, crcerr := __src.crcerr, abort := __src.abort, tmo := __src.tmo, noeff := __src.noeff, hto := __src.hto, idle := __src.idle, crcc := __src.crcc, crcRun := __src.crcRun, crcDone := __src.crcDone, irqsts := __src.irqsts, irqmsk := __src.irqmsk, irqev := __src.irqev, irqen := __src.irqen, irqtamp := __src.irqtamp, status := __src.status, data := readWords s req a (n / 4), ignoring := __src.ignoring, unmap := __src.unmap, rwlcls := __src.rwlcls, rwlref := __src.rwlref, una := __src.una, unr := __src.unr, rwlr := __src.rwlr, scr := __src.scr, rwl := __src.rwl, rwlAcc := __src.rwlAcc, legal := __src.legal, legalAns := __src.legalAns, mbox := __src.mbox }, ser := s.ser, cb := s.cb, nv := s.nv, fresh := s.fresh } req a n = true) ∧ s.ls.pairRun = 0) ∧
    (let req : Requester := .host; let a : ℕ := 0x100000; let n : ℕ := 16; let s : State := { run with bl := { w1 := [(0, ⟨5, 5⟩)] } }; pairLen a = some n ∧ serving s = true ∧ (pairOk { pending := s.pending, sup := s.sup, tb := s.tb, fe := s.fe, cv := s.cv, qu := s.qu, pl := s.pl, met := s.met, pq := s.pq, ls := s.ls, bl := s.bl, rtc := s.rtc, tp := s.tp, er := s.er, dp := s.dp, tr := s.tr, hp := have __src := s.hp; { code := __src.code, crcerr := __src.crcerr, abort := __src.abort, tmo := __src.tmo, noeff := __src.noeff, hto := __src.hto, idle := __src.idle, crcc := __src.crcc, crcRun := __src.crcRun, crcDone := __src.crcDone, irqsts := __src.irqsts, irqmsk := __src.irqmsk, irqev := __src.irqev, irqen := __src.irqen, irqtamp := __src.irqtamp, status := __src.status, data := readWords s req a (n / 4), ignoring := __src.ignoring, unmap := __src.unmap, rwlcls := __src.rwlcls, rwlref := __src.rwlref, una := __src.una, unr := __src.unr, rwlr := __src.rwlr, scr := __src.scr, rwl := __src.rwl, rwlAcc := __src.rwlAcc, legal := __src.legal, legalAns := __src.legalAns, mbox := __src.mbox }, ser := s.ser, cb := s.cb, nv := s.nv, fresh := s.fresh } req a n = false)) ∧
    (let a : ℕ := 0; let s : State := run; pairLen a = none ∨ serving s = false) ∧
    (let s : State := { run with ls := { run.ls with scrubTicks := (64), scrub := 1 }, sup := { run.sup with restored := false } }; 64 ≤ s.ls.scrubTicks ∧ (s.ls.scrub ≠ 0 ∨ s.ls.passWait = 0) ∧ serving s = true ∧ s.sup.restored = false ∧ s.ls.scrub + 1 < legalSlots) ∧
    (let s : State := { run with ls := { scrubTicks := 64, scrub := 65536 + 256 * 2048 - 1 } }; 64 ≤ s.ls.scrubTicks ∧ (s.ls.scrub ≠ 0 ∨ s.ls.passWait = 0) ∧ serving s = true ∧ s.sup.restored = false ∧ legalSlots ≤ s.ls.scrub + 1) ∧
    (let s : State := { run with ls := { run.ls with scrubTicks := (64), scrub := 0 }, sup := { run.sup with restored := false } }; 64 ≤ s.ls.scrubTicks ∧ (s.ls.scrub ≠ 0 ∨ s.ls.passWait = 0) ∧ serving s = true ∧ s.sup.restored = false ∧ s.ls.scrub = 0) ∧
    (let s : State := { run with ls := { run.ls with scrubTicks := (64), scrub := 1 }, sup := { run.sup with restored := false, commit := .due } }; 64 ≤ s.ls.scrubTicks ∧ (s.ls.scrub ≠ 0 ∨ s.ls.passWait = 0) ∧ serving s = true ∧ s.sup.restored = false ∧ (critAt s.ls.scrub = none ∨ s.sup.commit ≠ CommitPhase.none)) ∧
    (let s : State := run; s.ls.scrubTicks < 64 ∨ s.ls.scrub = 0 ∧ 0 < s.ls.passWait ∨ serving s = false ∨ s.sup.restored = true) := by
  refine ⟨?_, ?_, ?_, ?_, ?_, ?_, ?_, ?_⟩ <;> decide

theorem witness_KnownAnswerTestsAndInjections :
    (let a : Bool := true; let b : Bool := true; let w : Word := 0; let s : State := { run with ls := { run.ls with katReq := some w, katChunks := (64) } }; s.ls.katReq = some w ∧ 64 ≤ s.ls.katChunks ∧ serving s = true ∧ (a = true ∨ b = true)) ∧
    (let a : Bool := false; let b : Bool := false; let w : Word := 0x4D; let s : State := { run with ls := { run.ls with katReq := some w, katChunks := (64) } }; s.ls.katReq = some w ∧ 64 ≤ s.ls.katChunks ∧ serving s = true ∧ a = false ∧ b = false) ∧
    (let s : State := run; s.ls.katReq = none ∨ s.ls.katChunks < 64 ∨ serving s = false) ∧
    (let w : Word := 0; let s : State := run; serving s = true ∧ BitVec.getLsbD w 31 = false) ∧
    (let w : Word := 0x80000801; let s : State := { run with sup := { st := .test, restored := false }, pl := { act := { points := [{ type := 1 }] } } }; serving s = true ∧ BitVec.getLsbD w 31 = true ∧ injOk s w = true) ∧
    (let w : Word := 0x80000001; let s : State := run; serving s = true ∧ BitVec.getLsbD w 31 = true ∧ injOk s w = false) ∧
    (let s : State := off; serving s = false) := by
  refine ⟨?_, ?_, ?_, ?_, ?_, ?_, ?_⟩ <;> decide

theorem witness_TariffsSwitchAndFallBack :
    (let p : ℕ := 0; let s : State := metered; calendarRuns s = true ∧ s.bl.waiting = [] ∧ p ∈ livePts s ∧ srcOf s p = 0) ∧
    (let p : ℕ := 1; let s : State := metered; calendarRuns s = true ∧ s.bl.waiting = [] ∧ (p ∉ livePts s ∨ srcOf s p ≠ 0)) ∧
    (let e : ℕ × ℕ := (0, 1); let s : State := { run with pl := { act := wired }, rtc := { valid := true, sec := 993967200 }, bl := { evalSec := 993967199, waiting := [(0, 1)] } }; calendarRuns s = true ∧ switchIn s.plan.calendar ↑s.bl.evalSec ↑s.rtc.sec = true ∧ e ∈ s.bl.waiting) ∧
    (let s : State := metered; calendarRuns s = true ∧ switchIn s.plan.calendar ↑s.bl.evalSec ↑s.rtc.sec = false) ∧
    (let s : State := run; calendarRuns s = false) ∧
    (let p : ℕ := 0; let s : State := { metered with bl := { fbDue := [0] } }; s.sup.st ≠ OpState.recovery ∧ List.filter (fun p ↦ (livePts s).contains p) s.bl.fbDue ≠ [] ∧ p ∈ s.bl.fbDue ∧ p ∈ livePts s) ∧
    (let p : ℕ := 1; let s : State := { metered with bl := { fbDue := [0] } }; s.sup.st ≠ OpState.recovery ∧ List.filter (fun p ↦ (livePts s).contains p) s.bl.fbDue ≠ [] ∧ p ∉ s.bl.fbDue) ∧
    (let s : State := { run with sup := { run.sup with st := OpState.recovery } }; s.sup.st = OpState.recovery) ∧
    (let s : State := { run with bl := { run.bl with fbDue := [] } }; s.bl.fbDue = []) := by
  refine ⟨?_, ?_, ?_, ?_, ?_, ?_, ?_, ?_, ?_⟩ <;> decide +kernel

theorem witness_IntervalsAndPeriodsClose :
    (let p : ℕ := 0; let s : State := { run with pl := { act := wired }, bl := { iv := [(0, { isOpen := true, ticks := 960000 })] } }; billing s = true ∧ s.sup.restored = false ∧ s.bl.waiting = [] ∧ p ∈ livePts s ∧ endDue s p = true) ∧
    (let p : ℕ := 0; let s : State := { run with sup := { run.sup with restored := false }, bl := { run.bl with waiting := [] } }; billing s = true ∧ s.sup.restored = false ∧ s.bl.waiting = [] ∧ endDue s p = false) ∧
    (let s : State := off; billing s = false ∨ s.sup.restored = true) ∧
    (let b : ℤ := 993945600; let s : State := metered; lastBoundary s.plan.calendar ↑s.rtc.sec = some b ∧ closesRun s = true ∧ s.rtc.valid = true ∧ s.bl.waiting = [] ∧ ↑s.bl.lcb.v.toNat < b ∧ ↑s.bl.evalSec ≤ b) ∧
    (let b : ℤ := 993945600; let s : State := { metered with bl := { lcb := Pair.of 993945600 } }; lastBoundary s.plan.calendar ↑s.rtc.sec = some b ∧ b ≤ ↑s.bl.lcb.v.toNat ∧ s.bl.waiting = []) ∧
    (let s : State := run; lastBoundary s.plan.calendar ↑s.rtc.sec = none ∨ closesRun s = false ∨ s.rtc.valid = false) ∧
    (let s : State := run; serving s = true) ∧
    (let s : State := off; serving s = false) := by
  refine ⟨?_, ?_, ?_, ?_, ?_, ?_, ?_, ?_⟩ <;> decide

theorem witness_SecondEdges :
    (let s : State := { run with rtc := { run.rtc with halt := true } }; s.rtc.halt = true) ∧
    (let s : State := { run with rtc := { run.rtc with halt := false } }; s.rtc.halt = false ∧ s.rtc.sec + 1 < rtcMax ∧ s.powered = true) ∧
    (let n : ℕ := 7; let s : State := { run with rtc := { run.rtc with halt := false, valid := true, al := [(n, { en := true, time := run.rtc.sec + 1 })] } }; s.rtc.halt = false ∧ s.rtc.sec + 1 < rtcMax ∧ n < 8 ∧ s.rtc.valid = true ∧ (alarmAt s n).en = true ∧ (alarmAt s n).time = s.rtc.sec + 1 ∧ latchMode s = false) ∧
    (let n : ℕ := 7; let s : State := { off with rtc := { off.rtc with halt := false, valid := true, al := [(n, { en := true, time := off.rtc.sec + 1 })] } }; s.rtc.halt = false ∧ s.rtc.sec + 1 < rtcMax ∧ n < 8 ∧ s.rtc.valid = true ∧ (alarmAt s n).en = true ∧ (alarmAt s n).time = s.rtc.sec + 1 ∧ latchMode s = true) ∧
    (let s : State := rtc { sec := 6311433598 }; s.rtc.halt = false ∧ s.rtc.sec + 1 = rtcMax) ∧
    (let s : State := { run with rtc := { run.rtc with halt := false, sec := rtcMax } }; s.rtc.halt = false ∧ s.rtc.sec = rtcMax ∧ s.powered = true) ∧
    (let s : State := { off with rtc := { off.rtc with halt := false, sec := rtcMax } }; s.rtc.halt = false ∧ s.rtc.sec = rtcMax ∧ s.powered = false) := by
  refine ⟨?_, ?_, ?_, ?_, ?_, ?_, ?_⟩ <;> decide

theorem witness_CrystalSupplyAndColdStart :
    (let cell : Bool := true; let s : State := run; cell = false ∨ s.rtc.vbatlow = false ∨ s.rtc.vbatOk = false ∨ 1800 ≤ s.rtc.vbat) ∧
    (let s : State := { run with rtc := { run.rtc with vbatlow := true, vbatOk := true, vbat := (1800-1) } }; s.rtc.vbatlow = true ∧ s.rtc.vbatOk = true ∧ s.rtc.vbat < 1800) ∧
    (let s : State := run; s.powered = true) ∧
    (let s : State := off; s.powered = false) ∧
    (let mv : ℕ := 0; let s : State := { run with rtc := { run.rtc with onCell := true } }; mv < 1800 ∧ s.rtc.onCell = true) ∧
    (let mv : ℕ := 0; let s : State := run; 1800 ≤ mv ∨ s.rtc.onCell = false) ∧
    (let s : State := run; s.sup.st ≠ OpState.off) ∧
    (let s : State := { run with sup := { run.sup with st := OpState.off } }; s.sup.st = OpState.off) := by
  refine ⟨?_, ?_, ?_, ?_, ?_, ?_, ?_, ?_⟩ <;> decide

theorem witness_ClockHaltsAndIsSet :
    (let s : State := { run with rtc := { run.rtc with halt := false }, tp := { run.tp with locked := false } }; serving s = true ∧ s.rtc.halt = false ∧ privFull s.er = false ∧ s.tp.locked = false) ∧
    (let s : State := { run with rtc := { run.rtc with halt := false }, tp := { run.tp with locked := true } }; serving s = true ∧ s.rtc.halt = false ∧ (privFull s.er = true ∨ s.tp.locked = true)) ∧
    (let s : State := off; serving s = false) ∧
    (let s : State := { run with rtc := { run.rtc with halt := true, relpps := false, newSec := (rtcMax-1) }, tp := { run.tp with locked := false } }; serving s = true ∧ s.rtc.halt = true ∧ s.rtc.relpps = false ∧ s.rtc.newSec ≤ rtcMax ∧ s.tp.locked = false ∧ s.rtc.newSec < rtcMax) ∧
    (let s : State := { run with rtc := { run.rtc with halt := true, relpps := false, newSec := rtcMax }, tp := { run.tp with locked := false } }; serving s = true ∧ s.rtc.halt = true ∧ s.rtc.relpps = false ∧ s.rtc.newSec ≤ rtcMax ∧ s.tp.locked = false ∧ s.rtc.newSec = rtcMax) ∧
    (let s : State := { run with rtc := { run.rtc with halt := true, relpps := true } }; serving s = true ∧ s.rtc.halt = true ∧ s.rtc.relpps = true) ∧
    (let s : State := run; serving s = false ∨ s.rtc.halt = false) ∧
    (let dur : ℕ := 0; let s : State := { run with rtc := { run.rtc with halt := true, relpps := false, newSec := (rtcMax+1) } }; serving s = true ∧ s.rtc.halt = true ∧ s.rtc.relpps = false ∧ (rtcMax < s.rtc.newSec ∨ s.tp.locked = true) ∧ (s.rtc.haltSec * 32768 + s.rtc.haltSub + dur) / 32768 < rtcMax) := by
  refine ⟨?_, ?_, ?_, ?_, ?_, ?_, ?_, ?_⟩ <;> decide

theorem witness_ClockSetRecordAndPps :
    (let d : ℕ × ℕ × ℕ × Requester × Bool × Bool := (1, 2, 3, .host, false, false); let l : List (ℕ × ℕ × ℕ × Requester × Bool × Bool) := []; let s : State := rtc { setDue := [(1, 2, 3, .host, false, false)] }; s.rtc.setDue = d :: l ∧ serving s = true ∧ s.sup.restored = false) ∧
    (let s : State := run; s.rtc.setDue = [] ∨ serving s = false ∨ s.sup.restored = true) ∧
    (let s : State := off; serving s = false) ∧
    (let s : State := { run with rtc := { run.rtc with ppsValid := true } }; s.powered = true ∧ s.rtc.ppsValid = true) ∧
    (let s : State := { run with rtc := { run.rtc with ppsValid := false } }; s.powered = true ∧ s.rtc.ppsValid = false) ∧
    (let s : State := off; s.powered = false) ∧
    (let iv : ℕ := 2; let s : State := { run with rtc := { run.rtc with halt := false, ppsMode := 0 } }; s.powered = true ∧ (s.rtc.ppsSeen = false ∨ 32752 ≤ iv ∧ iv ≤ 32784) ∧ (s.rtc.halt = false ∨ s.rtc.relWait = false) ∧ s.rtc.ppsMode = 0) ∧
    (let iv : ℕ := 2; let s : State := { run with rtc := { run.rtc with halt := false, ppsMode := 1 } }; s.powered = true ∧ (s.rtc.ppsSeen = false ∨ 32752 ≤ iv ∧ iv ≤ 32784) ∧ (s.rtc.halt = false ∨ s.rtc.relWait = false) ∧ s.rtc.ppsMode ≠ 0) ∧
    (let iv : ℕ := 0; let s : State := { run with rtc := { run.rtc with halt := true, relWait := true, newSec := (rtcMax-1) }, tp := { run.tp with locked := false } }; s.powered = true ∧ (s.rtc.ppsSeen = false ∨ 32752 ≤ iv ∧ iv ≤ 32784) ∧ s.rtc.halt = true ∧ s.rtc.relWait = true ∧ s.rtc.newSec < rtcMax ∧ s.tp.locked = false) ∧
    (let iv : ℕ := 1; let s : State := off; s.powered = false ∨ s.rtc.ppsSeen = true ∧ (iv < 32752 ∨ 32784 < iv)) := by
  refine ⟨?_, ?_, ?_, ?_, ?_, ?_, ?_, ?_, ?_, ?_⟩ <;> decide

theorem witness_SealPinMovesTheSeal :
    (let s : State := { run with tp := { run.tp with deb := none } }; s.tp.deb = none) ∧
    (let s : State := tp { deb := some true }; s.tp.deb ≠ none) ∧
    (let s : State := { run with tp := { run.tp with deb := some true, sealSt := 0, rearm := true } }; s.tp.deb = some true ∧ s.tp.sealSt = 0 ∧ s.tp.rearm = true) ∧
    (let s : State := { run with tp := { run.tp with deb := some true, sealSt := 1 } }; s.tp.deb = some true ∧ (s.tp.rearm = false ∨ s.tp.sealSt ≠ 0)) ∧
    (let s : State := { run with tp := { run.tp with deb := some false, sealSt := 1 } }; s.tp.deb = some false ∧ s.tp.sealSt = 1) ∧
    (let s : State := { run with tp := { run.tp with deb := some false, sealSt := 0 } }; s.tp.deb = some false ∧ s.tp.sealSt = 0) ∧
    (let s : State := { run with tp := { run.tp with deb := some false, sealSt := 2 } }; s.tp.deb = some false ∧ s.tp.sealSt = 2) := by
  refine ⟨?_, ?_, ?_, ?_, ?_, ?_, ?_⟩ <;> decide

theorem witness_SealOpensByTwoEvaluations :
    (let s : State := { run with tp := { run.tp with sealSt := 1, pendcell := false } }; s.tp.sealSt = 1 ∧ s.tp.pendcell = false ∧ serving s = true ∧ (s.tp.dd.any fun d ↦ d.dec == Decision.sealOpen) = false ∧ privFull s.er = false) ∧
    (let s : State := { tp { sealSt := 1 } with er := { pseq := 4096 } }; s.tp.sealSt = 1 ∧ s.tp.pendcell = false ∧ serving s = true ∧ (s.tp.dd.any fun d ↦ d.dec == Decision.sealOpen) = false ∧ privFull s.er = true) ∧
    (let s : State := run; s.tp.sealSt ≠ 1 ∨ s.tp.pendcell = true ∨ serving s = false ∨ (s.tp.dd.any fun d ↦ d.dec == Decision.sealOpen) = true) ∧
    (let rest : List PendDec := []; let s : State := { run with tp := { run.tp with dd := { dec := Decision.sealOpen, first := true } :: rest, sealSt := 1, pin := true } }; (s.tp.dd = { dec := Decision.sealOpen, first := true } :: rest) ∧ serving s = true ∧ s.tp.sealSt = 1 ∧ s.tp.pin = true) ∧
    (let rest : List PendDec := []; let s : State := { run with tp := { run.tp with dd := { dec := Decision.sealOpen, first := true } :: rest, sealSt := 2 } }; (s.tp.dd = { dec := Decision.sealOpen, first := true } :: rest) ∧ serving s = true ∧ s.tp.sealSt ≠ 1) ∧
    (let d : PendDec := { dec := .sealOpen, first := true }; let rest : List PendDec := []; let s : State := { boot with tp := { dd := [{ dec := .sealOpen, first := true }] } }; s.tp.dd = d :: rest ∧ d.dec.protecting = false ∧ serving s = false) ∧
    (let d : PendDec := { dec := .erase, first := true }; let rest : List PendDec := []; let s : State := tp { dd := [{ dec := .erase, first := true }] }; s.tp.dd = d :: rest ∧ d.dec.protecting = true) ∧
    (let s : State := { run with tp := { run.tp with dd := [] } }; s.tp.dd = []) := by
  refine ⟨?_, ?_, ?_, ?_, ?_, ?_, ?_, ?_⟩ <;> decide

theorem witness_TamperSourcesCount :
    (let n : ℕ := 7; let high : Bool := true; let s : State := tp { src := [(7, { cfg := 0x205, mode := 3 })] }; n < 8 ∧ (srcMode s n = 1 ∨ srcMode s n = 3) ∧ activeLevel s n high = true ∧ (srcAt s n).isOpen = false ∧ 2 ≤ srcN (srcAt s n)) ∧
    (let n : ℕ := 7; let high : Bool := true; let s : State := tp { src := [(7, { cfg := 0x10105, mode := 3 })] }; n < 8 ∧ (srcMode s n = 1 ∨ srcMode s n = 3) ∧ activeLevel s n high = true ∧ (srcAt s n).isOpen = false ∧ srcN (srcAt s n) ≤ 1 ∧ wbit (srcAt s n).cfg 16 = true) ∧
    (let n : ℕ := 7; let high : Bool := true; let s : State := tp { src := [(7, { cfg := 0x20105, mode := 3 })] }; n < 8 ∧ (srcMode s n = 1 ∨ srcMode s n = 3) ∧ activeLevel s n high = true ∧ (srcAt s n).isOpen = false ∧ srcN (srcAt s n) ≤ 1 ∧ wbit (srcAt s n).cfg 17 = true) ∧
    (let n : ℕ := 7; let high : Bool := true; let s : State := tp { src := [(7, { cfg := 0x205, mode := 3, isOpen := true })] }; n < 8 ∧ (srcMode s n = 1 ∨ srcMode s n = 3) ∧ activeLevel s n high = true ∧ (srcAt s n).isOpen = true ∧ windowOver s n = false) ∧
    (let n : ℕ := 7; let high : Bool := true; let k : ℕ := 0; let s : State := run; n < 8 ∧ (srcMode s n ≠ 1 ∧ srcMode s n ≠ 3 ∨ activeLevel s n high = false) ∧ k ≠ n) ∧
    (let s : State := tp { src := [(11, { cfg := 0x201 })] }; srcMode s 11 ≠ 0 ∧ s.rtc.onCell = false ∧ (srcAt s 11).isOpen = false ∧ 2 ≤ srcN (srcAt s 11)) ∧
    (let s : State := tp { src := [(11, { cfg := 0x10101 })] }; srcMode s 11 ≠ 0 ∧ s.rtc.onCell = false ∧ (srcAt s 11).isOpen = false ∧ srcN (srcAt s 11) ≤ 1 ∧ wbit (srcAt s 11).cfg 16 = true) ∧
    (let s : State := tp { src := [(11, { cfg := 0x20101 })] }; srcMode s 11 ≠ 0 ∧ s.rtc.onCell = false ∧ (srcAt s 11).isOpen = false ∧ srcN (srcAt s 11) ≤ 1 ∧ wbit (srcAt s 11).cfg 17 = true) ∧
    (let s : State := tp { src := [(11, { cfg := 0x201, isOpen := true })] }; srcMode s 11 ≠ 0 ∧ s.rtc.onCell = false ∧ (srcAt s 11).isOpen = true ∧ windowOver s 11 = false) ∧
    (let s : State := { run with rtc := { run.rtc with onCell := true } }; srcMode s 11 = 0 ∨ s.rtc.onCell = true) ∧
    (let x : ℤ := 136; let s : State := tp { tempOk := true, src := [(10, { cfg := 0x201 })] }; (x < -50 ∨ 135 < x) ∧ s.tp.tempOk = true ∧ srcMode s 10 ≠ 0 ∧ (srcAt s 10).isOpen = false ∧ 2 ≤ srcN (srcAt s 10)) ∧
    (let x : ℤ := -51; let s : State := tp { tempOk := true, src := [(10, { cfg := 0x10101 })] }; (x < -50 ∨ 135 < x) ∧ s.tp.tempOk = true ∧ srcMode s 10 ≠ 0 ∧ (srcAt s 10).isOpen = false ∧ srcN (srcAt s 10) ≤ 1 ∧ wbit (srcAt s 10).cfg 16 = true) ∧
    (let x : ℤ := 136; let s : State := tp { tempOk := true, src := [(10, { cfg := 0x20101 })] }; (x < -50 ∨ 135 < x) ∧ s.tp.tempOk = true ∧ srcMode s 10 ≠ 0 ∧ (srcAt s 10).isOpen = false ∧ srcN (srcAt s 10) ≤ 1 ∧ wbit (srcAt s 10).cfg 17 = true) ∧
    (let x : ℤ := 136; let s : State := tp { tempOk := true, src := [(10, { cfg := 0x201, isOpen := true })] }; (x < -50 ∨ 135 < x) ∧ s.tp.tempOk = true ∧ srcMode s 10 ≠ 0 ∧ (srcAt s 10).isOpen = true ∧ windowOver s 10 = false) ∧
    (let x : ℤ := 1; -50 ≤ x ∧ x ≤ 135) ∧
    (let x : ℤ := -51; let s : State := { run with tp := { run.tp with tempOk := false } }; (x < -50 ∨ 135 < x) ∧ (s.tp.tempOk = false ∨ srcMode s 10 = 0)) ∧
    (let n : ℕ := 1; let s : State := { run with tp := { run.tp with src := [(n, { isOpen := true })] } }; n < 16 ∧ (srcAt s n).isOpen = true) ∧
    (let n : ℕ := 1; let s : State := { run with tp := { run.tp with src := [(n, { isOpen := false })] } }; n < 16 ∧ (srcAt s n).isOpen = false) ∧
    (let missing : List ℕ := []; let n : ℕ := 7; n < 8 ∧ n ∉ missing) := by
  refine ⟨?_, ?_, ?_, ?_, ?_, ?_, ?_, ?_, ?_, ?_, ?_, ?_, ?_, ?_, ?_, ?_, ?_, ?_, ?_⟩ <;> decide

theorem witness_RecordsAreWritten :
    (let code : ℕ := 0x45; let chan : ℕ := 0xFF; let i : ℕ := 0; let m : Summary := open45; let s : State := er { work := [open45], ops := 100000, clrbusy := true }; keyIx s.er.work code chan = some i ∧ s.er.work[i]? = some m ∧ s.powered = true ∧ m.fops + agwOf s.er m.sev ≤ s.er.ops ∧ s.er.clrbusy = true) ∧
    (let k : ℕ := 0; let code : ℕ := 0x45; let chan : ℕ := 0xFF; let i : ℕ := 0; let m : Summary := open45; let s : State := er { work := [open45], ops := 610 }; keyIx s.er.work code chan = some i ∧ s.er.work[i]? = some m ∧ s.powered = true ∧ m.fops + agwOf s.er m.sev ≤ s.er.ops ∧ s.er.clrbusy = false ∧ placeOf s.er m.sev = some k) ∧
    (let code : ℕ := 0x45; let chan : ℕ := 0xFF; let i : ℕ := 0; let m : Summary := open45; let s : State := er { work := [open45], ops := 609 }; keyIx s.er.work code chan = some i ∧ s.er.work[i]? = some m ∧ (s.er.ops < m.fops + agwOf s.er m.sev ∨ s.powered = false)) ∧
    (let code : ℕ := 0; let chan : ℕ := 0; let s : State := run; keyIx s.er.work code chan = none) ∧
    (let k : ℕ := 0; let code : ℕ := 0x45; let b : Bucket := { burst := 2, period := 3, tokens := 1, next := 48 }; let s : State := { er { rl := [(0x45, { burst := 2, period := 3, tokens := 1, next := 48 })] } with sup := { st := .run, startTicks := 48 } }; tget (bucketReset code) code s.er.rl = b ∧ b.period ≠ 0 ∧ b.next ≤ s.sup.startTicks ∧ k ≠ code) ∧
    (let code : ℕ := 0x45; let b : Bucket := { burst := 2, period := 3, tokens := 1, next := 48 }; let s : State := { er { rl := [(0x45, { burst := 2, period := 3, tokens := 1, next := 48 })] } with sup := { st := .run, startTicks := 47 } }; tget (bucketReset code) code s.er.rl = b ∧ (b.period = 0 ∨ s.sup.startTicks < b.next)) ∧
    (let k : ℕ := 1; let e : PrivDue := { ptype := 2, parts := 1, refusable := true, payload := [] }; let rest : List PrivDue := []; let s : State := er { due := [{ ptype := 2, parts := 1, refusable := true, payload := [] }], pres := 1 }; s.er.due = e :: rest ∧ s.powered = true ∧ writable s.er e = true ∧ e.parts = 1 ∧ k ≠ s.er.pseq % 4096) ∧
    (let e : PrivDue := { ptype := 2, parts := 1, refusable := false, payload := [] }; let s : State := er { due := [{ ptype := 2, parts := 1, refusable := false, payload := [] }], pseq := 4096 }; s.er.due = [e] ∧ s.powered = true ∧ writable s.er e = false) ∧
    (let s : State := run; s.er.due = [] ∨ s.powered = false) := by
  refine ⟨?_, ?_, ?_, ?_, ?_, ?_, ?_, ?_, ?_⟩ <;> decide

theorem witness_RecorderRequestsAreAnswered :
    (let req : Requester := .app; let s : State := run; (req = Requester.host ∨ req = Requester.app) ∧ serving s = true) ∧
    (let req : Requester := .app; let s : State := off; req = Requester.legal ∨ req = Requester.chain ∨ serving s = false) ∧
    (let s : State := { run with er := { run.er with clrbusy := true, clrPos := (12272) } }; s.powered = true ∧ s.er.clrbusy = true ∧ 12272 ≤ s.er.clrPos) ∧
    (let s : State := run; s.powered = false ∨ s.er.clrbusy = false ∨ s.er.clrPos < 12272) ∧
    (let lim : ℕ := 511; let s : State := er { area := 2, mode := 1, cidx := 510 }; serving s = true ∧ areaLimit s.er = some lim ∧ s.er.mode = 1 ∧ s.er.cidx + 1 ≤ lim) ∧
    (let lim : ℕ := 0; let s : State := { run with er := { run.er with mode := 1 } }; serving s = true ∧ areaLimit s.er = some lim ∧ s.er.mode = 1 ∧ lim < s.er.cidx + 1) ∧
    (let lim : ℕ := 511; let i : ℕ := 511; let s : State := er { area := 2, mode := 2, cidx := 510, work := List.replicate 512 open45 }; serving s = true ∧ areaLimit s.er = some lim ∧ s.er.mode = 2 ∧ nextValid s.er = some i) ∧
    (let lim : ℕ := 0; let s : State := { run with er := { run.er with mode := 2 } }; serving s = true ∧ areaLimit s.er = some lim ∧ s.er.mode = 2 ∧ nextValid s.er = none) ∧
    (let s : State := off; s.er.mode = 0 ∨ 2 < s.er.area ∨ serving s = false) ∧
    (let req : Requester := .host; let a : Word := 1; let d0 : Word := BitVec.ofNat 32 (ackDigest onePart 1 % 2 ^ 32); let d1 : Word := BitVec.ofNat 32 (ackDigest onePart 1 / 2 ^ 32); let rest : List LegalReq := []; let s : State := { er onePart with hp := { legal := [.ack .host (some 1) (some (BitVec.ofNat 32 (ackDigest onePart 1 % 2 ^ 32))) (some (BitVec.ofNat 32 (ackDigest onePart 1 / 2 ^ 32)))] } }; serving s = true ∧ s.hp.legal = LegalReq.ack req (some a) (some d0) (some d1) :: rest ∧ ackOk s.er a d0 d1 = true) ∧
    (let req : Requester := .host; let a : Word := 1; let d0 : Word := 0; let d1 : Word := 0; let rest : List LegalReq := []; let s : State := { run with hp := { run.hp with legal := LegalReq.ack req (some a) (some d0) (some d1) :: rest } }; serving s = true ∧ s.hp.legal = LegalReq.ack req (some a) (some d0) (some d1) :: rest ∧ ackOk s.er a d0 d1 = false) ∧
    (let req : Requester := .host; let rest : List LegalReq := []; let s : State := { run with hp := { run.hp with legal := LegalReq.clear req :: rest } }; serving s = true ∧ s.hp.legal = LegalReq.clear req :: rest ∧ (monitorRuns s = true ∨ privFull s.er = true ∨ s.sealOpen = false ∧ gmacOk s = false)) ∧
    (let req : Requester := .app; let rest : List LegalReq := []; let s : State := { opened with hp := { opened.hp with legal := LegalReq.clear req :: rest } }; serving s = true ∧ s.hp.legal = LegalReq.clear req :: rest ∧ monitorRuns s = false ∧ privFull s.er = false ∧ (s.sealOpen = true ∨ gmacOk s = true)) ∧
    (let req : Requester := .host; let w : Word := 0x100; let rest : List LegalReq := []; let s : State := { metered with tp := { sealSt := 2, sealst := sealOpenPair }, hp := { legal := [.close .host 0x100] } }; serving s = true ∧ s.hp.legal = LegalReq.close req w :: rest ∧ monitorRuns s = false ∧ closeOk s w = true) ∧
    (let req : Requester := .host; let w : Word := 0x100; let rest : List LegalReq := []; let s : State := { sup { st := .start } with hp := { legal := [.close .host 0x100] } }; serving s = true ∧ s.hp.legal = LegalReq.close req w :: rest ∧ monitorRuns s = false ∧ BitVec.getLsbD w 8 = true ∧ closeOk s w = false) ∧
    (let s : State := run; serving s = false ∨ s.hp.legal = []) := by
  refine ⟨?_, ?_, ?_, ?_, ?_, ?_, ?_, ?_, ?_, ?_, ?_, ?_, ?_, ?_, ?_, ?_⟩ <;> decide +kernel

theorem witness_DisplayRails :
    (let s : State := { run with dp := { run.dp with en := true, railBad := false, poweringDown := false } }; displayPowered s = true ∧ s.dp.en = true ∧ s.dp.railBad = false ∧ railsOff s.dp = true ∧ s.dp.poweringDown = false) ∧
    (let s : State := off; displayPowered s = false ∨ s.dp.en = false ∨ s.dp.railBad = true ∨ railsOff s.dp = false ∨ s.dp.poweringDown = true) ∧
    (let s : State := { run with dp := { run.dp with en := true, railBad := true, retry := (160000) } }; displayPowered s = true ∧ s.dp.en = true ∧ s.dp.railBad = true ∧ 160000 ≤ s.dp.retry ∧ railsOff s.dp = true) ∧
    (let s : State := run; displayPowered s = false ∨ s.dp.en = false ∨ s.dp.railBad = false ∨ s.dp.retry < 160000 ∨ railsOff s.dp = false) ∧
    (let s : State := { run with dp := { run.dp with poweringUp := true, vneg := Rail.enabled } }; s.powered = true ∧ s.dp.poweringUp = true ∧ s.dp.vneg = Rail.enabled) ∧
    (let s : State := { run with dp := { run.dp with poweringUp := true, vpos := Rail.enabled } }; s.powered = true ∧ s.dp.poweringUp = true ∧ s.dp.vpos = Rail.enabled) ∧
    (let s : State := { run with dp := { run.dp with poweringUp := true, vcom := Rail.enabled } }; s.powered = true ∧ s.dp.poweringUp = true ∧ s.dp.vcom = Rail.enabled) ∧
    (let r : ℕ := 2; let s : State := run; r < 3 ∧ (s.powered = false ∨ s.dp.poweringUp = false ∨ railAt s.dp r ≠ Rail.enabled)) ∧
    (let r : ℕ := 2; let s : State := dp { poweringUp := true, vcom := .enabled, railTicks := 16 }; r < 3 ∧ railMayFault s.dp r = true ∧ s.dp.poweringDown = false ∧ s.powered = true) ∧
    (let r : ℕ := 1; let s : State := run; r < 3 ∧ (railMayFault s.dp r = false ∨ s.dp.poweringDown = true ∨ s.powered = false)) ∧
    (let s : State := { run with dp := { run.dp with en := false, vcom := Rail.good } }; railsOff s.dp = false ∧ s.dp.en = false ∧ s.dp.vcom = Rail.good) ∧
    (let s : State := dp { en := false, vneg := .good }; railsOff s.dp = false ∧ s.dp.en = false ∧ s.dp.vcom ≠ Rail.good) ∧
    (let s : State := { dp { vneg := .good } with sup := { st := .run, commit := .due } }; railsOff s.dp = false ∧ s.sup.commit ≠ CommitPhase.none) ∧
    (let s : State := dp { vneg := .good }; railsOff s.dp = false ∧ s.dp.en = true) ∧
    (let s : State := dp { vneg := .good }; railsOff s.dp = false ∧ s.sup.commit = CommitPhase.none) ∧
    (let s : State := { run with dp := { run.dp with poweringDown := true, vcom := Rail.off } }; s.dp.poweringDown = true ∧ s.dp.vcom = Rail.off) ∧
    (let s : State := { run with dp := { run.dp with poweringDown := true, vpos := Rail.off } }; s.dp.poweringDown = true ∧ s.dp.vpos = Rail.off) ∧
    (let r : ℕ := 1; let s : State := run; r < 3 ∧ (s.dp.poweringDown = false ∨ r = 0 ∨ r = 2 ∧ s.dp.vcom ≠ Rail.off ∨ r = 1 ∧ s.dp.vpos ≠ Rail.off)) := by
  refine ⟨?_, ?_, ?_, ?_, ?_, ?_, ?_, ?_, ?_, ?_, ?_, ?_, ?_, ?_, ?_, ?_, ?_, ?_⟩ <;> decide

theorem witness_DisplayDrive :
    (let s : State := run; s.dp.grid = none ∨ s.powered = false) ∧
    (let n : ℕ := 320; let s : State := { run with dp := { run.dp with grid := some n } }; s.dp.grid = some n ∧ 320 ≤ n ∧ s.powered = true) ∧
    (let s : State := run; serving s = true ∧ profileCheck (stageBytes s) ≠ 0) ∧
    (let s : State := off; serving s = false) ∧
    (let req : Requester := Requester.host; let r : ℕ := 12; let k : ℕ := 0; let s : State := run; 12 ≤ r ∧ r < 16 ∧ (req = Requester.host ∨ req = Requester.app) ∧ serving s = true ∧ k ≠ r) ∧
    (let req : Requester := .legal; let r : ℕ := 12; let s : State := start; 12 ≤ r ∧ r < 16 ∧ (req = Requester.legal ∨ req = Requester.chain ∨ serving s = false)) := by
  refine ⟨?_, ?_, ?_, ?_, ?_, ?_⟩ <;> decide +kernel

theorem witness_ScrollAdvances :
    (let s : State := { run with dp := { run.dp with lit := true, suspend := none, shown := (run.plan.scrollDwell * 16000) } }; s.dp.lit = true ∧ serving s = true ∧ s.plan.scrollMode ≠ 1 ∧ s.dp.suspend = none ∧ s.plan.scrollDwell * 16000 ≤ s.dp.shown) ∧
    (let s : State := run; s.dp.lit = false ∨ serving s = false ∨ s.plan.scrollMode = 1 ∨ s.dp.suspend ≠ none ∨ s.dp.shown < s.plan.scrollDwell * 16000) ∧
    (let s : State := lit { lit := true }; s.dp.lit = true ∧ serving s = true ∧ s.plan.scrollMode ≠ 0) ∧
    (let s : State := run; s.dp.lit = false ∨ serving s = false ∨ s.plan.scrollMode = 0) ∧
    (let n : ℕ := 960000; let s : State := { run with dp := { run.dp with suspend := some n } }; s.dp.suspend = some n ∧ 960000 ≤ n) ∧
    (let s : State := { run with dp := { run.dp with lit := true, sinceDraw := (80000) } }; s.dp.lit = true ∧ serving s = true ∧ shownTargets (itemShown s (scrollItem s)) ≠ s.dp.drawn ∧ 80000 ≤ s.dp.sinceDraw) ∧
    (let s : State := { run with dp := { run.dp with lit := true, sinceDraw := (80000-1) } }; s.dp.lit = true ∧ serving s = true ∧ (shownTargets (itemShown s (scrollItem s)) = s.dp.drawn ∨ s.dp.sinceDraw < 80000)) ∧
    (let s : State := run; s.dp.lit = false ∨ serving s = false) := by
  refine ⟨?_, ?_, ?_, ?_, ?_, ?_, ?_, ?_⟩ <;> decide

theorem witness_BootStagesRunOnce :
    (let k : Bool := true; let s : State := { run with sup := { run.sup with st := OpState.boot, commit := CommitPhase.none, boot := none, recmon := false }, tr := { run.tr with pubHash := none } }; s.sup.st = OpState.boot ∧ s.sup.commit = CommitPhase.none ∧ s.sup.boot = none ∧ s.sup.recmon = false ∧ k = true ∧ s.tr.pubHash = none) ∧
    (let k : Bool := true; let pub : List Byte := []; let s : State := { run with sup := { run.sup with st := OpState.boot, commit := CommitPhase.none, boot := none, recmon := false }, tr := { run.tr with pubHash := some (Sha.digest pub) } }; s.sup.st = OpState.boot ∧ s.sup.commit = CommitPhase.none ∧ s.sup.boot = none ∧ s.sup.recmon = false ∧ k = true ∧ s.tr.pubHash = some (Sha.digest pub)) ∧
    (let s : State := run; s.sup.st ≠ OpState.boot ∨ s.sup.boot ≠ none ∨ s.sup.commit ≠ CommitPhase.none ∨ s.sup.recmon = true) := by
  refine ⟨?_, ?_, ?_⟩ <;> decide +kernel

theorem witness_FirmwareIsLoadedAndConfirmed :
    (let req : Requester := .app; let app : Bool := true; let k : ℕ := 1; let s : State := run; serving s = true ∧ req ≠ Requester.legal ∧ (s.tr.fst ≠ FwState.loading ∨ s.tr.fowner = some req) ∧ k ≠ loadSlot s app) ∧
    (let req : Requester := .app; let s : State := { run with tr := { run.tr with fst := FwState.loading } }; serving s = true ∧ req ≠ Requester.legal ∧ s.tr.fst = FwState.loading ∧ s.tr.fowner ≠ some req) ∧
    (let req : Requester := .app; let k : ℕ := 2; let s : State := { run with tr := { run.tr with fst := FwState.loading, fowner := some req } }; serving s = true ∧ s.tr.fst = FwState.loading ∧ s.tr.fowner = some req ∧ k ≠ loadSlot s s.tr.fcore) ∧
    (let req : Requester := .app; let s : State := off; serving s = false ∨ s.tr.fst ≠ FwState.loading ∨ s.tr.fowner ≠ some req) ∧
    (let req : Requester := .app; let s : State := { run with tr := { run.tr with fst := FwState.valid, fowner := some req, fcore := true } }; serving s = true ∧ s.tr.fst = FwState.valid ∧ s.tr.fowner = some req ∧ fwAuth s = 0 ∧ s.tr.fcore = true) ∧
    (let req : Requester := .app; let s : State := { opened with tr := { opened.tr with fst := FwState.valid, fowner := some req, fcore := false } }; serving s = true ∧ s.tr.fst = FwState.valid ∧ s.tr.fowner = some req ∧ fwAuth s = 0 ∧ s.tr.fcore = false) ∧
    (let req : Requester := .app; let s : State := { run with tr := { run.tr with fst := FwState.valid, fowner := some req } }; serving s = true ∧ s.tr.fst = FwState.valid ∧ s.tr.fowner = some req ∧ fwAuth s ≠ 0) ∧
    (let req : Requester := .app; let s : State := off; serving s = false ∨ s.tr.fst ≠ FwState.valid ∨ s.tr.fowner ≠ some req) ∧
    (let req : Requester := .app; let s : State := boot; serving s = false ∨ req = Requester.legal) ∧
    (let req : Requester := .app; let s : State := { run with sup := { run.sup with commit := CommitPhase.none } }; req ≠ Requester.legal ∧ serving s = true ∧ s.sup.commit = CommitPhase.none) ∧
    (let req : Requester := .app; let s : State := off; req = Requester.legal ∨ serving s = false ∨ s.sup.commit ≠ CommitPhase.none) ∧
    (let s : State := { run with tr := { run.tr with confL := true } }; serving s = true ∧ s.tr.confL = true) ∧
    (let s : State := { run with tr := { run.tr with confA := true } }; serving s = true ∧ s.tr.confA = true) ∧
    (let req : Requester := .app; let s : State := off; serving s = false ∨ req = Requester.host ∨ req = Requester.chain ∨ req = Requester.legal ∧ s.tr.confL = false ∨ req = Requester.app ∧ s.tr.confA = false) ∧
    (let s : State := { run with tr := { run.tr with confL := true, confTicks := (64000) }, sup := { run.sup with commit := CommitPhase.none } }; s.tr.confL = true ∧ 64000 ≤ s.tr.confTicks ∧ s.sup.commit = CommitPhase.none) ∧
    (let s : State := { run with tr := { run.tr with confA := true, confTicks := (64000) }, sup := { run.sup with commit := CommitPhase.none } }; s.tr.confA = true ∧ 64000 ≤ s.tr.confTicks ∧ s.sup.commit = CommitPhase.none) ∧
    (let app : Bool := true; let s : State := run; s.tr.confTicks < 64000 ∨ s.sup.commit ≠ CommitPhase.none ∨ (if app = true then s.tr.confA else s.tr.confL) = false) := by
  refine ⟨?_, ?_, ?_, ?_, ?_, ?_, ?_, ?_, ?_, ?_, ?_, ?_, ?_, ?_, ?_, ?_, ?_⟩ <;> decide

theorem witness_QuotesTagsAndKeys :
    (let s : State := { run with tr := { run.tr with keyok := true } }; serving s = true ∧ s.tr.quotes.length < 4 ∧ s.tr.keyok = true) ∧
    (let path : Requester := .host; let s : State := run; serving s = true ∧ (4 ≤ s.tr.quotes.length ∨ s.tr.keyok = false) ∧ path = Requester.host) ∧
    (let path : Requester := .app; let s : State := run; serving s = true ∧ (4 ≤ s.tr.quotes.length ∨ s.tr.keyok = false) ∧ path ≠ Requester.host) ∧
    (let q : QuoteReq := { path := .host, nonce := [], tick := 0, hdr := none }; let rest : List QuoteReq := []; let s : State := { run with tr := { run.tr with quoteRun := none, quotes := q :: rest } }; serving s = true ∧ s.tr.quoteRun = none ∧ s.tr.quotes = q :: rest) ∧
    (let s : State := run; serving s = false ∨ s.tr.quoteRun ≠ none ∨ s.tr.quotes = []) ∧
    (let q : QuoteReq := { path := .host, nonce := [], tick := 0, hdr := none }; let b : List Byte := []; let s : State := { run with tr := { run.tr with quoteRun := some (q, b) } }; serving s = true ∧ (s.tr.quoteRun = some (q, b)) ∧ q.path = Requester.host) ∧
    (let q : QuoteReq := { path := .chain, nonce := [], tick := 0, hdr := none }; let b : List Byte := []; let s : State := tr { quoteRun := some ({ path := .chain, nonce := [], tick := 0, hdr := none }, []) }; serving s = true ∧ (s.tr.quoteRun = some (q, b)) ∧ q.path ≠ Requester.host) ∧
    (let s : State := run; serving s = false ∨ s.tr.quoteRun = none) ∧
    (let s : State := off; serving s = false) ∧
    (let req : Requester := .host; let bs : List Byte := [1,2,3,4]; let o : ℕ := 1; let s : State := run; s.powered = true ∧ (req = Requester.host ∨ req = Requester.app) ∧ bs ≠ [] ∧ o + bs.length ≤ 512) ∧
    (let req : Requester := .host; let a : ℕ := 1; let bs : List Byte := []; let s : State := off; s.powered = false ∨ req = Requester.legal ∨ req = Requester.chain ∨ bs = [] ∨ a < 2361344 ∨ 2361856 < a + bs.length) ∧
    (let n : ℕ := 0; let k : ℕ := 0; let rest : List (ℕ × ℕ) := default; let s : State := { run with tr := { run.tr with tagDue := (n, k) :: rest }, tb := { run.tb with ticks := (k+1) } }; (s.tr.tagDue = (n, k) :: rest) ∧ s.powered = true ∧ k < s.tb.ticks) ∧
    (let s : State := run; s.tr.tagDue = [] ∨ s.powered = false) ∧
    (let req : Requester := .host; let w : Word := 0x8000001F; let s : State := opened; serving s = true ∧ (req = Requester.host ∨ req = Requester.app) ∧ BitVec.getLsbD w 31 = true ∧ BitVec.getLsbD w 8 = false ∧ s.sealOpen = true ∧ BitVec.toNat w % 64 < 32) ∧
    (let req : Requester := .host; let w : Word := 0x80000020; let s : State := opened; serving s = true ∧ (req = Requester.host ∨ req = Requester.app) ∧ BitVec.getLsbD w 31 = true ∧ BitVec.getLsbD w 8 = false ∧ s.sealOpen = true ∧ 32 ≤ BitVec.toNat w % 64) ∧
    (let req : Requester := .host; let w : Word := 0x80000000; let s : State := run; serving s = true ∧ (req = Requester.host ∨ req = Requester.app) ∧ BitVec.getLsbD w 31 = true ∧ BitVec.getLsbD w 8 = false ∧ s.sealOpen = false) ∧
    (let req : Requester := .app; let w : Word := 0; let s : State := run; serving s = false ∨ req = Requester.legal ∨ req = Requester.chain ∨ BitVec.getLsbD w 31 = false) := by
  refine ⟨?_, ?_, ?_, ?_, ?_, ?_, ?_, ?_, ?_, ?_, ?_, ?_, ?_, ?_, ?_, ?_, ?_⟩ <;> decide

theorem witness_HostTransactionsAreAnswered :
    (let a : ℕ := 0xFFFFFFFC; let n : ℕ := 4; let s : State := run; serving s = true ∧ s.hp.crcRun = 0 ∧ s.hp.crcDone = [] ∧ lenAddrOk a n 4096 = true) ∧
    (let a : ℕ := 0; let n : ℕ := 0; let s : State := { run with hp := { run.hp with crcRun := 0, crcDone := [] } }; serving s = true ∧ s.hp.crcRun = 0 ∧ s.hp.crcDone = [] ∧ lenAddrOk a n 4096 = false) ∧
    (let a : ℕ := 0; let bs : List Byte := []; let s : State := { run with hp := { run.hp with crcRun := 0, crcDone := [] } }; serving s = true ∧ s.hp.crcRun = 0 ∧ s.hp.crcDone = [] ∧ lenAddrOk a bs.length 65532 = false) ∧
    (let i : ℕ := 3; let s : State := { run with hp := { run.hp with crcRun := 0, crcDone := [] } }; i < 4 ∧ serving s = true ∧ s.hp.crcRun = 0 ∧ s.hp.crcDone = []) ∧
    (let a : ℕ := 0; let bs : List Byte := []; let w : Wire := {}; let s : State := run; serving s = true ∧ w.complete = true ∧ w.crc ≠ crc16 (writeSent a bs)) ∧
    (let a : ℕ := 0; let n : ℕ := 0; let w : Wire := {}; let s : State := run; serving s = true ∧ w.complete = true ∧ w.crc ≠ crc16 (readSent a n)) ∧
    (let w : Wire := {}; let s : State := run; serving s = true ∧ w.complete = true ∧ w.crc ≠ crc16 pollSent) ∧
    (let b : Byte := 7; let s : State := { run with hp := { run.hp with crcRun := 0 } }; b ≠ 11 ∧ b ≠ 2 ∧ b ≠ 5 ∧ serving s = true ∧ s.hp.crcRun = 0) ∧
    (let b : Byte := 7; let s : State := off; b = 11 ∨ b = 2 ∨ b = 5 ∨ serving s = false) ∧
    (let w : Wire := { complete := false }; let s : State := run; serving s = true ∧ w.complete = false) ∧
    (let s : State := { run with hp := { run.hp with ignoring := true } }; serving s = true ∧ s.hp.ignoring = true) ∧
    (let s : State := { run with hp := { run.hp with ignoring := false, idle := (run.hp.hto) } }; serving s = true ∧ s.hp.ignoring = false ∧ s.hp.hto ≤ s.hp.idle) ∧
    (let s : State := run; serving s = false ∨ s.hp.ignoring = true ∨ s.hp.idle < s.hp.hto) ∧
    (let req : Requester := .app; let a : ℕ := 0; let n : ℕ := 4096; let s : State := run; req ≠ Requester.host ∧ serving s = true ∧ lenAddrOk a n 4096 = true) ∧
    (let req : Requester := .app; let a : ℕ := 2; let n : ℕ := 4; let s : State := run; req ≠ Requester.host ∧ serving s = true ∧ lenAddrOk a n 4096 = false) ∧
    (let req : Requester := .app; let a : ℕ := 0; let bs : List Byte := [1,2,3,4]; let s : State := run; req ≠ Requester.host ∧ serving s = true ∧ lenAddrOk a bs.length 65532 = true) ∧
    (let req : Requester := .app; let a : ℕ := 1; let bs : List Byte := []; let s : State := run; req ≠ Requester.host ∧ serving s = true ∧ lenAddrOk a bs.length 65532 = false) ∧
    (let s : State := off; serving s = false) := by
  refine ⟨?_, ?_, ?_, ?_, ?_, ?_, ?_, ?_, ?_, ?_, ?_, ?_, ?_, ?_, ?_, ?_, ?_, ?_⟩ <;> decide +kernel

theorem witness_RegisterWritesTakeEffect :
    (let req : Requester := .app; let w : Word := 1; let s : State := run; serving s = true ∧ (req ≠ Requester.host ∨ BitVec.toNat w < 2 ^ 15)) ∧
    (let req : Requester := .app; let i : ℕ := 1; let s : State := run; serving s = true ∧ req ≠ Requester.host ∧ i < 4) ∧
    (let s : State := { run with hp := { run.hp with unmap := false } }; serving s = true ∧ s.hp.unmap = false) ∧
    (let s : State := off; serving s = false) := by
  refine ⟨?_, ?_, ?_, ?_⟩ <;> decide

theorem witness_OpticalSignOn :
    (let p : Option ℕ := none; let s : State := serial; signOnOpen s = true ∧ (p = none ∨ p = some s.ser.phys)) ∧
    (let p : Option ℕ := none; let s : State := run; signOnOpen s = false ∨ p ≠ none ∧ p ≠ some s.ser.phys) ∧
    (let z : ℕ := 0; let s : State := { serial with ser := { serial.ser with awaitOpt := true, zmax := (z) } }; signOnOpen s = true ∧ s.ser.awaitOpt = true ∧ z ≤ s.ser.zmax) ∧
    (let p : ℕ := 3; let y : ℕ := 1; let z : ℕ := 2; let s : State := { serial with ser := { serial.ser with awaitOpt := true } }; signOnOpen s = true ∧ s.ser.awaitOpt = true ∧ (p ≠ 2 ∨ y ≠ 2 ∨ s.ser.zmax < z)) ∧
    (let s : State := run; signOnOpen s = false ∨ s.ser.awaitOpt = false) ∧
    (let s : State := { run with ser := { run.ser with awaitOpt := true, optTicks := (32000) } }; s.ser.awaitOpt = true ∧ 32000 ≤ s.ser.optTicks) ∧
    (let s : State := { run with ser := { run.ser with awaitOpt := false } }; s.ser.awaitOpt = false ∨ s.ser.optTicks < 32000) ∧
    (let s : State := { serial with ser := { serial.ser with optOk := true, optTicks := (4800) } }; signOnOpen s = true ∧ s.ser.optOk = true ∧ 4800 ≤ s.ser.optTicks) ∧
    (let s : State := run; signOnOpen s = false ∨ s.ser.optOk = false ∨ s.ser.optTicks < 4800) := by
  refine ⟨?_, ?_, ?_, ?_, ?_, ?_, ?_, ?_, ?_⟩ <;> decide

theorem witness_AssociationsServe :
    (let p : ℕ := 0; let l : ℕ := 3; let s : State := run; hdlcOpen s p = false ∨ l ≠ s.ser.phys) ∧
    (let c' : ℕ := 0; let u' : ℕ := 0; let p : ℕ := 1; let c : ℕ := 1; let u : ℕ := 1; let s : State := ser {}; hdlcOpen s p = true ∧ p ≠ 0 ∧ ((c', u') ≠ (c, u))) ∧
    (let p : ℕ := 0; let s : State := run; hdlcOpen s p = false) ∧
    (let p : ℕ := 0; let c : ℕ := 0x11; let u : ℕ := 1; let s : State := ser { st0 := 2, quiet0 := 1920000, inact := 120 }; hdlcOpen s p = true ∧ silentFor s p c u = true ∧ p = 0) ∧
    (let p : ℕ := 1; let c : ℕ := 0x11; let u : ℕ := 1; let s : State := ser { assoc := [{ assoc1 with idle := 1919999 }] }; hdlcOpen s p = false ∨ silentFor s p c u = false) ∧
    (let p : ℕ := 1; let u : ℕ := 1; let s : State := ser {}; hdlcOpen s p = true ∧ logicalDevice s u = true ∧ s.ser.assoc = []) ∧
    (let p : ℕ := 1; let c : ℕ := 0x7F; let u : ℕ := 1; let s : State := { ser {} with tp := { keys := [(2, []), (3, [])] } }; hdlcOpen s p = true ∧ logicalDevice s u = true ∧ s.ser.assoc.length < 32 ∧ 1 ≤ c ∧ c ≤ 127 ∧ c ≠ 16 ∧ keysLoaded s = true) ∧
    (let p : ℕ := 1; let c : ℕ := 0x12; let u : ℕ := 1; let s : State := ser { assoc := List.replicate 32 assoc1 }; hdlcOpen s p = true ∧ logicalDevice s u = true ∧ assocOf s p c u = none ∧ 32 ≤ s.ser.assoc.length) ∧
    (let p : ℕ := 1; let c : ℕ := 0x7F; let u : ℕ := 1; let s : State := ser {}; hdlcOpen s p = true ∧ logicalDevice s u = true ∧ s.ser.assoc.length < 32 ∧ 1 ≤ c ∧ c ≤ 127 ∧ c ≠ 16 ∧ keysLoaded s = false) ∧
    (let p : ℕ := 1; let u : ℕ := 2; let s : State := serial; hdlcOpen s p = true ∧ logicalDevice s u = false) ∧
    (let p : ℕ := 1; let c : ℕ := 0x11; let u : ℕ := 1; let a : ℕ := 0x100000; let n : ℕ := 16; let x : Assoc := assoc1; let s : State := ser { assoc := [assoc1] }; assocOf s p c u = some x ∧ hdlcOpen s p = true ∧ a % 4 = 0 ∧ a < 2 ^ 32 ∧ pairLen a = some n) ∧
    (let p : ℕ := 1; let c : ℕ := 0x11; let x : Assoc := assoc1; let s : State := ser { assoc := [assoc1], notify := [5] }; assocOf s p c 1 = some x ∧ hdlcOpen s p = true) ∧
    (let p : ℕ := 1; let c : ℕ := 0x11; let u : ℕ := 1; let x : Assoc := assoc1; let s : State := ser { assoc := [assoc1] }; assocOf s p c u = some x ∧ hdlcOpen s p = true ∧ c ≠ 16) ∧
    (let p : ℕ := 1; let c : ℕ := 0x10; let u : ℕ := 1; let s : State := ser { assoc := [assoc1] }; c = 16 ∨ assocOf s p c u = none ∨ hdlcOpen s p = false) ∧
    (let p : ℕ := 1; let c : ℕ := 0x12; let u : ℕ := 1; let s : State := ser { assoc := [assoc1] }; assocOf s p c u = none ∨ hdlcOpen s p = false) ∧
    (let s : State := { run with ser := { run.ser with relDue := true }, tb := { run.tb with ticks := (run.ser.relAt+1) } }; s.ser.relDue = true ∧ s.ser.relAt < s.tb.ticks) ∧
    (let s : State := { run with ser := { run.ser with relDue := false } }; s.ser.relDue = false ∨ s.tb.ticks ≤ s.ser.relAt) ∧
    (let n : ℕ := 0; let rest : List ℕ := []; let s : State := { serial with ser := { serial.ser with notify := n :: rest, push := true } }; s.ser.notify = n :: rest ∧ hdlcOpen s 1 = true ∧ s.ser.push = true) ∧
    (let s : State := run; s.ser.notify = [] ∨ hdlcOpen s 1 = false ∨ s.ser.push = false) := by
  refine ⟨?_, ?_, ?_, ?_, ?_, ?_, ?_, ?_, ?_, ?_, ?_, ?_, ?_, ?_, ?_, ?_, ?_, ?_, ?_⟩ <;> decide

theorem witness_PortsComeUpAndGoDown :
    (let p : ℕ := 3; let k : ℕ := 0; let s : State := { run with cb := { run.cb with ports := [(p, { st := 0 })] } }; p < 4 ∧ (portAt s p).st = 0 ∧ s.cb.en.getLsbD p = true ∧ k ≠ p) ∧
    (let p : ℕ := 0; let s : State := { run with cb := { run.cb with ports := [(p, { st := 1 })] } }; p < 4 ∧ ((portAt s p).st ≠ 0 ∨ s.cb.en.getLsbD p = false)) ∧
    (let p : ℕ := 3; let d : ℕ := 0; let k : ℕ := 5; let s : State := { run with cb := { run.cb with ports := [(p, { st := 1 }), (0, { st := 2 })] } }; p < 4 ∧ serving s = true ∧ (portAt s p).st = 1 ∧ (p = 0 ∧ d < 16 ∨ p ≠ 0 ∧ portUp s 0 = true) ∧ linkQueues s = [] ∧ k ≠ p) ∧
    (let s : State := { run with cb := { run.cb with ports := [(1, { st := 1 }), (0, { st := 0 })] } }; serving s = true ∧ (portAt s 1).st = 1 ∧ portUp s 0 = false) ∧
    (let p : ℕ := 0; let d : ℕ := 15; let k : ℕ := 1; let s : State := port 0 { st := 2 }; p < 4 ∧ serving s = true ∧ (portAt s p).st = 2 ∧ p = 0 ∧ d < 16 ∧ k ≠ p) ∧
    (let p : ℕ := 3; let k : ℕ := 0; let s : State := { run with cb := { run.cb with ports := [(p, { st := 2 })] } }; p < 4 ∧ p ≠ 0 ∧ serving s = true ∧ (portAt s p).st = 2 ∧ k ≠ p) ∧
    (let d : ℕ := 16; let s : State := { run with cb := { run.cb with ports := [(0, { st := 1 })] } }; serving s = true ∧ ((portAt s 0).st = 1 ∨ (portAt s 0).st = 2) ∧ 16 ≤ d) ∧
    (let p : ℕ := 3; let s : State := run; p < 4 ∧ (serving s = false ∨ (portAt s p).st ≠ 1 ∧ (portAt s p).st ≠ 2)) ∧
    (let p : ℕ := 3; let k : ℕ := 0; let s : State := { run with cb := { run.cb with ports := [(p, { st := 3, refTicks := (160000) })] } }; p < 4 ∧ (portAt s p).st = 3 ∧ 160000 ≤ (portAt s p).refTicks ∧ k ≠ p) ∧
    (let p : ℕ := 3; let s : State := { run with cb := { run.cb with ports := [(p, { st := 4 })] } }; p < 4 ∧ ((portAt s p).st ≠ 3 ∨ (portAt s p).refTicks < 160000)) ∧
    (let p : ℕ := 0; let c : DownCause := .violations; let k : ℕ := 1; let s : State := port 0 { st := 2, viol := 4 }; p < 4 ∧ serving s = true ∧ (portAt s p).st = 2 ∧ mayFail (portAt s p) c = true ∧ (p = 0 ∨ portUp s 0 = true) ∧ linkQueues s = [] ∧ k ≠ p) ∧
    (let p : ℕ := 0; let c : DownCause := .silence; let s : State := port 0 { st := 2, silent := 16 }; p < 4 ∧ serving s = true ∧ (portAt s p).st = 2 ∧ mayFail (portAt s p) c = true ∧ (p = 0 ∨ portUp s 0 = true) ∧ linkQueues s = [] ∧ p = 0) ∧
    (let p : ℕ := 3; let c : DownCause := .drops; let s : State := { run with cb := { ports := [(0, { st := 2 }), (3, { st := 2, drops := 4 })] } }; p < 4 ∧ serving s = true ∧ (portAt s p).st = 2 ∧ mayFail (portAt s p) c = true ∧ (p = 0 ∨ portUp s 0 = true) ∧ linkQueues s = [] ∧ p ≠ 0) ∧
    (let p : ℕ := 3; let c : DownCause := .violations; let s : State := port 3 { st := 2, viol := 4 }; 1 ≤ p ∧ p < 4 ∧ serving s = true ∧ (portAt s p).st = 2 ∧ mayFail (portAt s p) c = true ∧ (∀ k < 4, k ≠ p → portUp s k = false) ∧ linkQueues s = []) ∧
    (let p : ℕ := 1; let c : DownCause := .silence; let s : State := run; p < 4 ∧ (serving s = false ∨ (portAt s p).st ≠ 2 ∨ mayFail (portAt s p) c = false)) ∧
    (let s : State := run; serving s = true ∧ (∀ p < 4, (portAt s p).st = 0)) ∧
    (let w : Word := 0; let s : State := { run with cb := { run.cb with ports := [(0, { st := 2 })] } }; serving s = true ∧ (portAt s 0).st = 2 ∧ BitVec.getLsbD w 0 = false ∧ (∀ (p : ℕ), 1 ≤ p → p < 4 → (portAt s p).st = 0) ∧ linkQueues s = []) ∧
    (let s : State := off; serving s = false) := by
  refine ⟨?_, ?_, ?_, ?_, ?_, ?_, ?_, ?_, ?_, ?_, ?_, ?_, ?_, ?_, ?_, ?_, ?_, ?_⟩ <;> decide

theorem witness_MessagesAreAcknowledged :
    (let k : ℕ := 0; let p : ℕ := 3; let h : ℕ := 9; let m : OutMsg := msg; let m' : OutMsg := msg; let s : State := port 3 { st := 2, out := [msg], wait := [msg] }; p < 4 ∧ s.sup.tstep < 3 ∧ (portAt s p).out = [m] ∧ m.hseq = h ∧ (portAt s p).wait = [m'] ∧ k ≠ p) ∧
    (let p : ℕ := 3; let h : ℕ := 0; let s : State := run; p < 4 ∧ (∀ m ∈ (portAt s p).out, m.hseq ≠ h)) ∧
    (let k : ℕ := 0; let p : ℕ := 3; let h : ℕ := 9; let m : OutMsg := msg; let s : State := port 3 { st := 2, out := [msg] }; p < 4 ∧ (portAt s p).out = [m] ∧ m.hseq = h ∧ m.sends < 4 ∧ k ≠ p) ∧
    (let p : ℕ := 3; let h : ℕ := 9; let m : OutMsg := { msg with sends := 4 }; let k : ℕ := 0; let s : State := port 3 { st := 2, out := [{ msg with sends := 4 }] }; p < 4 ∧ (portAt s p).out = [m] ∧ m.hseq = h ∧ 4 ≤ m.sends ∧ (portAt s p).wait = [] ∧ k ≠ p) ∧
    (let s : State := { run with cb := { run.cb with ports := [(0, { st := 2 })] } }; portUp s 0 = true ∧ serving s = true ∧ (∀ (p : ℕ), 1 ≤ p → p < 4 → portUp s p = false)) ∧
    (let a : ℕ := 0; let s : State := { run with cb := { run.cb with ports := [(0, { st := 2 }), (1, { st := 2 })] } }; portUp s 0 = true ∧ serving s = true ∧ portUp s 1 = true ∧ a < 65535) ∧
    (let s : State := run; portUp s 0 = false ∨ serving s = false) ∧
    (let s : State := { run with cb := { run.cb with enumRun := true, enumPort := 3 } }; s.cb.enumRun = true ∧ s.cb.enumPort = 3 ∧ linkQueues s = []) ∧
    (let hi : ℕ := 0; let s : State := { run with cb := { run.cb with enumRun := true, enumPort := 1, ports := [(2, { st := 2 })] } }; s.cb.enumRun = true ∧ s.cb.enumPort = 1 ∧ portUp s 2 = true ∧ hi < 65535) ∧
    (let p : ℕ := 0; let s : State := run; s.cb.enumRun = false ∨ s.cb.enumPort ≠ p ∨ p = 0 ∨ 4 ≤ p) := by
  refine ⟨?_, ?_, ?_, ?_, ?_, ?_, ?_, ?_, ?_, ?_⟩ <;> decide

theorem witness_ChainCommandsAreAnswered :
    (let h : CobaltHdr := { dst := 0, src := 0, hseq := 0, tag := 0 }; let op : ℕ := 1; let s : State := run; h.src = 0 ∧ serving s = true ∧ hasAddr s = true ∧ h.dst = ownAddr s ∧ 1 ≤ op ∧ op ≤ 6) ∧
    (let h : CobaltHdr := { dst := 0, src := 0, hseq := 0, tag := 0 }; let op : ℕ := 0; let s : State := run; h.src = 0 ∧ serving s = true ∧ hasAddr s = true ∧ h.dst = ownAddr s ∧ (op = 0 ∨ 6 < op)) ∧
    (let h : CobaltHdr := hdr; let p : ℕ := 3; let s : State := { run with sup := { st := .run, tstep := 3 }, cb := { addr := 4, addrValid := true, ports := [(0, { st := 2 }), (3, { st := 2 })], rng := [(2, (5, 9))] } }; h.src = 0 ∧ serving s = true ∧ hasAddr s = true ∧ hopOf s h.dst = Hop.port p ∧ p ≠ 0 ∧ 3 ≤ s.sup.tstep) ∧
    (let h : CobaltHdr := hdr; let p : ℕ := 3; let s : State := { run with cb := { addr := 4, addrValid := true, ports := [(0, { st := 2 }), (3, { st := 2 })], rng := [(2, (5, 9))] } }; h.src = 0 ∧ serving s = true ∧ hasAddr s = true ∧ hopOf s h.dst = Hop.port p ∧ (p = 0 ∨ s.sup.tstep < 3)) ∧
    (let h : CobaltHdr := { dst := 5, src := 7, hseq := 0, tag := 1 }; let s : State := run; h.src ≠ 0 ∨ hasAddr s = false ∨ serving s = false) ∧
    (let a : ℕ := 0; let n : ℕ := 0; let s : State := run; serving s = true ∧ lenAddrOk a n 180 = false) ∧
    (let a : ℕ := 0; let bs : List Byte := []; let s : State := run; serving s = true ∧ lenAddrOk a bs.length 180 = false) ∧
    (let s : State := { run with tr := { run.tr with keyok := true } }; serving s = true ∧ s.tr.quotes.length < 4 ∧ s.tr.keyok = true) ∧
    (let w : Word := 0x003C010F; let m : List Byte := List.replicate 16 0; let s : State := run; serving s = true ∧ aggOk w m = true) ∧
    (let w : Word := 0; wbits w 31 16 = 0) ∧
    (let w : Word := 1; let m : List Byte := []; let s : State := run; serving s = true ∧ aggOk w m = false) ∧
    (let h : CobaltHdr := { dst := 0, src := 0, hseq := 0, tag := 0 }; let s : State := run; serving s = true ∧ noUpstream s = true ∧ awaited s h.src h.tag = none) ∧
    (let h : CobaltHdr := { hdr with src := 5 }; let op : ℕ := 5; let a : ℕ := 360; let st : ℕ := 0; let e : ℕ × ℕ × ℕ × ℕ × ℕ := (5, 8, 5, 0, 641); let s : State := { run with cb := { waiting := [(5, 8, 5, 0, 641)] } }; serving s = true ∧ noUpstream s = true ∧ awaited s h.src h.tag = some e ∧ (op ≠ 5 ∨ st ≠ 0 ∨ a = 360)) ∧
    (let h : CobaltHdr := { hdr with src := 5 }; let op : ℕ := 5; let a : ℕ := 180; let st : ℕ := 0; let e : ℕ × ℕ × ℕ × ℕ × ℕ := (5, 8, 5, 0, 641); let s : State := { run with cb := { waiting := [(5, 8, 5, 0, 641)] } }; serving s = true ∧ noUpstream s = true ∧ awaited s h.src h.tag = some e ∧ (op = 5 ∧ st = 0 ∧ a ≠ 360)) ∧
    (let s : State := port 0 { st := 2 }; serving s = true ∧ noUpstream s = false) ∧
    (let dst : ℕ := 5; let tag : ℕ := 8; let e : ℕ × ℕ × ℕ × ℕ × ℕ := (5, 8, 5, 0, 641); let s : State := { run with cb := { waiting := [(5, 8, 5, 0, 641)] } }; serving s = true ∧ awaited s dst tag = some e ∧ s.cb.rspto < e.2.2.2.2) ∧
    (let dst : ℕ := 0; let tag : ℕ := 0; let s : State := run; awaited s dst tag = none ∨ serving s = false) ∧
    (let s : State := off; serving s = false) := by
  refine ⟨?_, ?_, ?_, ?_, ?_, ?_, ?_, ?_, ?_, ?_, ?_, ?_, ?_, ?_, ?_, ?_, ?_, ?_⟩ <;> decide

theorem witness_PowerFailsAndReturns :
    (let s : State := { run with sup := { run.sup with commit := CommitPhase.none } }; s.powered = true ∧ s.sup.commit = CommitPhase.none) ∧
    (let s : State := { run with sup := { run.sup with commit := .due } }; s.powered = true ∧ s.sup.commit ≠ CommitPhase.none) ∧
    (let s : State := off; s.powered = false) ∧
    (let s : State := { run with cv := { run.cv with fourFaulty := true }, sup := { run.sup with st := OpState.run, commit := CommitPhase.none } }; s.cv.fourFaulty = true ∧ (s.sup.st = OpState.run ∨ s.sup.st = OpState.calibrate ∨ s.sup.st = OpState.test) ∧ s.sup.commit = CommitPhase.none) ∧
    (let s : State := run; s.cv.fourFaulty = false ∨ s.sup.st ≠ OpState.run ∧ s.sup.st ≠ OpState.calibrate ∧ s.sup.st ≠ OpState.test ∨ s.sup.commit ≠ CommitPhase.none) ∧
    (let s : State := { run with sup := { run.sup with commit := CommitPhase.due } }; s.sup.commit = CommitPhase.due ∧ BitVec.toNat s.sup.commitW ≤ BitVec.toNat s.tb.frame) ∧
    (let s : State := run; s.sup.commit ≠ CommitPhase.due ∨ BitVec.toNat s.tb.frame < BitVec.toNat s.sup.commitW) ∧
    (let s : State := run; s.sup.st ≠ OpState.off ∧ s.sup.st ≠ OpState.backup) ∧
    (let s : State := { run with sup := { run.sup with st := OpState.off } }; s.sup.st = OpState.off ∨ s.sup.st = OpState.backup) ∧
    (let s : State := { run with sup := { run.sup with st := OpState.backup } }; s.sup.st = OpState.backup) ∧
    (let s : State := { run with sup := { run.sup with commit := CommitPhase.held, main := true, cause := 4 } }; s.sup.commit = CommitPhase.held ∧ s.sup.main = true ∧ (s.sup.cause ≠ 3 ∨ s.sup.tj < 11000)) ∧
    (let s : State := run; s.sup.commit ≠ CommitPhase.held ∨ s.sup.main = false ∨ s.sup.cause = 3 ∧ 11000 ≤ s.sup.tj) := by
  refine ⟨?_, ?_, ?_, ?_, ?_, ?_, ?_, ?_, ?_, ?_, ?_, ?_⟩ <;> decide

theorem witness_StartsAndEnters :
    (let a : Bool := true; let s : State := { run with sup := { run.sup with st := OpState.boot, boot := some (true, a), commit := CommitPhase.none }, tb := { run.tb with missed := (4-1) } }; s.sup.st = OpState.boot ∧ (s.sup.boot = some (true, a)) ∧ s.sup.commit = CommitPhase.none ∧ (s.tb.markerSeen = true ∨ s.tb.missed < 4)) ∧
    (let a : Bool := true; let s : State := { run with sup := { run.sup with st := OpState.boot, boot := some (true, a), commit := CommitPhase.none }, tb := { run.tb with markerSeen := false, missed := (4) } }; s.sup.st = OpState.boot ∧ (s.sup.boot = some (true, a)) ∧ s.sup.commit = CommitPhase.none ∧ s.tb.markerSeen = false ∧ 4 ≤ s.tb.missed) ∧
    (let a : Bool := true; let s : State := { run with sup := { run.sup with st := OpState.boot, boot := some (false, a), commit := CommitPhase.none } }; s.sup.st = OpState.boot ∧ (s.sup.boot = some (false, a)) ∧ s.sup.commit = CommitPhase.none) ∧
    (let s : State := run; s.sup.st ≠ OpState.boot ∨ s.sup.boot = none ∨ s.sup.commit ≠ CommitPhase.none) ∧
    (let s : State := { start with sup := { start.sup with commit := CommitPhase.none, recDue := none, startDone := false, sphase := 1 } }; s.starting = true ∧ s.sup.commit = CommitPhase.none ∧ s.sup.recDue = none ∧ s.sup.startDone = false ∧ (s.sup.sphase = 0 ∨ s.sup.sphase = 1)) ∧
    (let s : State := { start with sup := { start.sup with commit := CommitPhase.none, recDue := none, startDone := false, sphase := 2, startTicks := (70-1) } }; s.starting = true ∧ s.sup.commit = CommitPhase.none ∧ s.sup.recDue = none ∧ s.sup.startDone = false ∧ s.sup.sphase = 2 ∧ (s.sup.startTicks < 70 ∨ s.cv.calDone = false)) ∧
    (let a : Bool := true; let b : Bool := true; let s : State := { start with sup := { start.sup with commit := CommitPhase.none, recDue := none, startDone := false, sphase := 2, startTicks := (70), recmon := false }, cv := { start.cv with calDone := true } }; s.starting = true ∧ s.sup.commit = CommitPhase.none ∧ s.sup.recDue = none ∧ s.sup.startDone = false ∧ s.sup.sphase = 2 ∧ 70 ≤ s.sup.startTicks ∧ s.cv.calDone = true ∧ (a = true ∨ b = true) ∧ s.sup.recmon = false) ∧
    (let a : Bool := false; let b : Bool := false; let s : State := { start with sup := { start.sup with commit := CommitPhase.none, recDue := none, startDone := false, sphase := 2, startTicks := (70) }, cv := { start.cv with calDone := true } }; s.starting = true ∧ s.sup.commit = CommitPhase.none ∧ s.sup.recDue = none ∧ s.sup.startDone = false ∧ s.sup.sphase = 2 ∧ 70 ≤ s.sup.startTicks ∧ s.cv.calDone = true ∧ a = false ∧ b = false ∧ faultySlices s < 4) ∧
    (let s : State := { start with sup := { start.sup with commit := CommitPhase.none, recDue := none, startDone := false, sphase := 4 }, cv := { start.cv with setl := 1 } }; s.starting = true ∧ s.sup.commit = CommitPhase.none ∧ s.sup.recDue = none ∧ s.sup.startDone = false ∧ (s.sup.sphase = 3 ∨ s.sup.sphase = 4) ∧ s.cv.setl ≠ 0) ∧
    (let s : State := { boot with sup := { boot.sup with commit := CommitPhase.none, recDue := none, startDone := false, sphase := 3, recmon := true }, cv := { boot.cv with setl := 0 } }; s.starting = true ∧ s.sup.commit = CommitPhase.none ∧ s.sup.recDue = none ∧ s.sup.startDone = false ∧ s.sup.sphase = 3 ∧ s.cv.setl = 0 ∧ s.sup.recmon = true) ∧
    (let s : State := { start with sup := { start.sup with commit := CommitPhase.none, recDue := none, startDone := false, sphase := 3, recmon := false, order := true }, cv := { start.cv with setl := 0 } }; s.starting = true ∧ s.sup.commit = CommitPhase.none ∧ s.sup.recDue = none ∧ s.sup.startDone = false ∧ s.sup.sphase = 3 ∧ s.cv.setl = 0 ∧ s.sup.recmon = false ∧ s.sup.order = true) ∧
    (let s : State := { start with sup := { start.sup with commit := CommitPhase.none, recDue := none, startDone := false, sphase := 3, recmon := false, order := false }, cv := { start.cv with setl := 0 } }; s.starting = true ∧ s.sup.commit = CommitPhase.none ∧ s.sup.recDue = none ∧ s.sup.startDone = false ∧ s.sup.sphase = 3 ∧ s.cv.setl = 0 ∧ s.sup.recmon = false ∧ s.sup.order = false) ∧
    (let s : State := { start with sup := { start.sup with commit := CommitPhase.none, recDue := none, startDone := false, sphase := 4 }, cv := { start.cv with setl := 0 } }; s.starting = true ∧ s.sup.commit = CommitPhase.none ∧ s.sup.recDue = none ∧ s.sup.startDone = false ∧ s.sup.sphase = 4 ∧ s.cv.setl = 0) ∧
    (let s : State := run; s.starting = false ∨ s.sup.commit ≠ CommitPhase.none ∨ s.sup.recDue ≠ none ∨ s.sup.startDone = true) ∧
    (let s : State := { run with sup := { run.sup with st := OpState.start, startDone := true, recDue := none, commit := CommitPhase.none } }; s.sup.st = OpState.start ∧ s.sup.startDone = true ∧ s.sup.recDue = none ∧ s.sup.commit = CommitPhase.none) ∧
    (let s : State := run; s.sup.st ≠ OpState.start ∨ s.sup.startDone = false ∨ s.sup.recDue ≠ none ∨ s.sup.commit ≠ CommitPhase.none) ∧
    (let r : ℕ := 0; let p : ℕ := 1; let s : State := { run with sup := { run.sup with recDue := some r, commit := CommitPhase.none } }; s.sup.recDue = some r ∧ s.sup.commit = CommitPhase.none ∧ p < 128) ∧
    (let s : State := { run with sup := { run.sup with recDue := none } }; s.sup.recDue = none ∨ s.sup.commit ≠ CommitPhase.none) := by
  refine ⟨?_, ?_, ?_, ?_, ?_, ?_, ?_, ?_, ?_, ?_, ?_, ?_, ?_, ?_, ?_, ?_, ?_, ?_⟩ <;> decide

theorem witness_ThermalLadderAndWatchdogs :
    (let x : ℤ := 0; let s : State := { run with sup := { run.sup with tstep := 0 } }; s.powered = true ∧ -32768 ≤ x ∧ x ≤ 11500 ∧ s.sup.tstep = 0) ∧
    (let x : ℤ := 11501; let s : State := { run with sup := { run.sup with tstep := 0 } }; s.powered = true ∧ s.sup.tstep = 0 ∧ 11500 < x ∧ x ≤ 11800) ∧
    (let x : ℤ := 13001; let s : State := { run with sup := { run.sup with tstep := 3, commit := CommitPhase.none } }; s.powered = true ∧ s.sup.tstep = 3 ∧ 13000 < x ∧ x ≤ 32767 ∧ s.sup.commit = CommitPhase.none) ∧
    (let x : ℤ := -32768; let b : ℕ := 0; let c : ℕ := 0; let d : ℕ := 0; let s : State := { run with sup := { run.sup with tstep := 1, below := [999, b, c, d] } }; s.powered = true ∧ s.sup.tstep = 1 ∧ (s.sup.below = [999, b, c, d]) ∧ -32768 ≤ x ∧ x < 11000) ∧
    (let x : ℤ := 11300; let a : ℕ := 0; let b : ℕ := 0; let d : ℕ := 0; let s : State := { run with sup := { run.sup with tstep := 3, below := [a, b, 999, d] } }; s.powered = true ∧ s.sup.tstep = 3 ∧ (s.sup.below = [a, b, 999, d]) ∧ 11300 ≤ x ∧ x < 11700) ∧
    (let s : State := { run with sup := { run.sup with commit := CommitPhase.held } }; s.sup.st ≠ OpState.off ∧ s.sup.st ≠ OpState.backup ∧ s.sup.commit = CommitPhase.held) ∧
    (let s : State := { run with sup := { run.sup with st := OpState.off } }; s.sup.st = OpState.off ∨ s.sup.st = OpState.backup) ∧
    (let req : Requester := .app; let s : State := run; serving s = true ∧ req ≠ Requester.legal) ∧
    (let req : Requester := .host; let s : State := run; serving s = true ∧ req ≠ Requester.app) ∧
    (let s : State := off; serving s = false) ∧
    (let s : State := { run with sup := { run.sup with wdlTicks := (run.sup.wdlPeriod) } }; wdRuns s = true ∧ s.sup.wdlPeriod ≤ s.sup.wdlTicks) ∧
    (let s : State := run; wdRuns s = false ∨ s.sup.wdlTicks < s.sup.wdlPeriod) ∧
    (let w : Word := 0; let s : State := { run with sup := { run.sup with apprun := true } }; wdRuns s = true ∧ s.sup.apprun = true ∧ w ≠ 165) ∧
    (let s : State := { run with sup := { run.sup with apprun := true, wdaTicks := (run.sup.wdaPeriod) } }; wdRuns s = true ∧ s.sup.apprun = true ∧ s.sup.wdaPeriod ≤ s.sup.wdaTicks) ∧
    (let s : State := run; wdRuns s = false ∨ s.sup.apprun = false ∨ s.sup.wdaTicks < s.sup.wdaPeriod ) := by
  refine ⟨?_, ?_, ?_, ?_, ?_, ?_, ?_, ?_, ?_, ?_, ?_, ?_, ?_, ?_, ?_⟩ <;> decide

/-! ## A staged display profile that passes the checks -/

/-- A fold over pieces goes from one running value to the next. -/
theorem fold_pieces (c : Nat → List Byte) (v : Nat → Word) (n : Nat) (h : ∀ k < n, (c k).foldl crcByte (v k) = v (k + 1)) :
    ((List.range n).flatMap c).foldl crcByte (v 0) = v n := by
  induction n with
  | zero => rfl
  | succ n ih => simp [List.range_succ, List.foldl_append, ih fun k hk => h k (by omega), h n (by omega)]

theorem crc_pieces : ∀ k < 34, ((profBytes.drop (30 * k)).take 30).foldl crcByte (crcRun.getD k 0) = crcRun.getD (k + 1) 0 := by
  decide +kernel

theorem crc_profile : crc32 ((stageBytes staged).take 0x3FC) = 0x9B199293 := by
  have h : (stageBytes staged).take 0x3FC = (List.range 34).flatMap fun k => (profBytes.drop (30 * k)).take 30 := by decide +kernel
  have := fold_pieces (fun k => (profBytes.drop (30 * k)).take 30) (fun k => crcRun.getD k 0) 34 crc_pieces
  rw [crc32, h]
  simp only [show crcRun.getD 0 0 = 0xFFFFFFFF#32 from rfl] at this
  rw [this]
  rfl

theorem witness_stagedProfile : serving staged = true ∧ profileCheck (stageBytes staged) = 0 := by
  refine ⟨by decide +kernel, ?_⟩
  have h1 : ¬(leAt (stageBytes staged) 0 4 ≠ 0x46525044 ∨ leAt (stageBytes staged) 4 2 ≠ 1) := by decide +kernel
  have h2 : (0x9B199293 : Word).toNat = leAt (stageBytes staged) 0x3FC 4 := by decide +kernel
  have h3 : profileFields (stageBytes staged) = true := by decide +kernel
  rw [profileCheck, if_neg h1, crc_profile, if_neg (by simpa using h2), h3]
  rfl

/-! ## Results that the worked examples of the spec give -/

/-- 12, worked example: 4,030 unacknowledged parts leave 66 free and the area counts as full. -/
theorem test_privileged_room :
    freeParts { pseq := 0x21BE, wm := 0x1200 } = 66 ∧ privFull { pseq := 0x21BE, wm := 0x1200 } = true ∧
    freeParts { pseq := 0x21BF, wm := 0x21BE } = 4095 := by decide

/-- 10, worked example: RTCCDATE of 2031-06-18, a Wednesday. -/
theorem test_date : dateWord 992865579 = 0x031267EF := by decide +kernel

/-- 09, worked example: one DST rule for every year, ZONE +60, so June is two hours ahead of UTC, and January one. -/
theorem test_local_time :
    let c : Calendar := { zone := 60, dst := [{ year := 0, smon := 3, sweek := 5, swday := 7, shour := 2, smin := 0, emon := 10,
                                                eweek := 5, ewday := 7, ehour := 3, emin := 0, dofs := 60 }] }
    localOf c 992865600 = 992865600 + 7200 ∧ localOf c (992865600 - 150 * 86400) = 992865600 - 150 * 86400 + 3600 := by
  decide +kernel

/-- 06, worked example: the scale of P017, E = +1 and m = 3.1588 × 10^9 to the digits its inputs have. -/
theorem test_scale :
    let c (w : Word) : Cal := { fsq := Pair.of w }
    let s : State := { run with met := { cal := { ch := [(34, c 0xE4F9C190), (130, c 0xF1FCC000)] } } }
    let pl : PlanDef := { points := List.replicate 17 {} ++ [{ type := 1, qexp := -2, ctnum := 1000, ctden := 1, vtnum := 1, vtden := 1 }],
                          chmap := List.replicate 17 {} ++ [{ il1 := 34, ineu := 35, l3 := true }] }
    (escOf s pl 17).e = 1 ∧ 3158810000 < (escOf s pl 17).m ∧ (escOf s pl 17).m < 3158830000 ∧ scaleOk (escOf s pl 17) = true := by
  decide +kernel

/-- 04, worked example: the header entry of the capture of IN014. -/
theorem test_capture_record :
    let x : Capture := { ch := 14, k := 17, frame := 0x1A2B5E10, gain := 0, manual := false, total := 120, div := 128, wait := 0,
                         samples := List.replicate 120 0x6F6, lastFrame := 0x1A2B5F4D, misses := 1 }
    ((captureEntries x).map (·.tag)).head? = some 0x0E65F4D0 ∧ ((captureEntries x).map (·.tag)).getLast? = some 0x0E65F4DF ∧
    ((captureEntries x).map fun e => (e.w1, e.w2, e.w3)).head? = some (0x1A2B5E10, 0x00110000, 0x00000778) := by
  decide +kernel

/-- 17, worked example: the import-apparent register of P017 under T3 is at 0x0011_11E0. -/
theorem test_register_place : regSlot (0x1111E0 - 0x100000 - 17 * 0x1000) = 2 * 12 + 6 := by decide

/-- 07, worked example: with four channels a sprint has at most 14,563 frames. -/
theorem test_sprint_length :
    goCode { run with pq := { spch := [0x0E828180], shift := 8, len := 14563 } } = 0 ∧
    goCode { run with pq := { spch := [0x0E828180], shift := 8, len := 14564 } } = 3 := by decide +kernel

/-- 09, worked example: 54,902 quanta in 15 minutes are a demand of 219,608, and 14,300 quanta one of 57,200. -/
theorem test_demand :
    let c (n : Nat) : IvClose := { point := 6, tariff := 1, minutes := 15, n := 0, e := [n, 0, 0, 0], subs := [], short := false, stamp := 0 }
    demandsOf (c 54902) = [219608, 0, 0, 0] ∧ demandsOf (c 14300) = [57200, 0, 0, 0] := by decide

/-- FIPS 180-4: the digest of the three bytes abc begins with BA7816BF. -/
theorem test_sha256 : (Sha.digestBytes [0x61, 0x62, 0x63]).take 4 = [0xBA, 0x78, 0x16, 0xBF] := by decide +kernel

/-- 12 R296, R297: a cleared record stays as stored with its mark word 0, reads as not valid, and its place is free. -/
theorem test_cleared_record :
    let m : Summary := { code := 0x45, chan := 0xFF, sev := 2, count := 3 }
    let r := (clearTick { run with er := { clrbusy := true, area := 0, cidx := 2, area0 := [(2, m), (20, m)] } }).er
    (windowOf r).1 = summaryBytes m 0 ∧ (windowOf r).2.1 = false ∧ nextValid r = some 20 ∧ lowestFree r.area0 0 = 0 ∧
    (placeOf r 2) = some 0 := by decide +kernel
end Sys2Proof.Tests
end

section
/-! What every command leaves: each command changes no part of the state but those of its list. -/

namespace Sys2Proof.Laws

open Sys2Proof.Machine

/-- The footprint of a command is that of the operation its dispatch arm names. -/
theorem exec_only : ∀ (c : Instr) (s u : State), exec c s = .next u → Only (partsOf c) s u
  | .frameTick _, s, u, hx => execFrameTick_only _ s u hx
  | .rtcSecondEdge _, s, u, hx => execRtcSecondEdge_only _ s u hx
  | .markerReceive _, s, u, hx => execMarkerReceive_only _ s u hx
  | .probeTimer, s, u, hx => execProbeTimer_only s u hx
  | .probeBurst, s, u, hx => execProbeBurst_only s u hx
  | .probe _ _ _, s, u, hx => execProbe_only _ _ _ s u hx
  | .probeReply _ _ _ _, s, u, hx => execProbeReply_only _ _ _ _ s u hx
  | .timebaseLock, s, u, hx => execTimebaseLock_only s u hx
  | .acquireTimeout, s, u, hx => execAcquireTimeout_only s u hx
  | .missingMarkerTimeout, s, u, hx => execMissingMarkerTimeout_only s u hx
  | .relockPairing _ _, s, u, hx => execRelockPairing_only _ _ s u hx
  | .frameRenumber, s, u, hx => execFrameRenumber_only s u hx
  | .report _ _, s, u, hx => execReport_only _ _ s u hx
  | .conversionComplete _ _ _ _, s, u, hx => execConversionComplete_only _ _ _ _ s u hx
  | .probeResult _ _, s, u, hx => execProbeResult_only _ _ s u hx
  | .referenceCheck _ _ _ _, s, u, hx => execReferenceCheck_only _ _ _ _ s u hx
  | .sliceCalUpdate _ cycle, s, u, hx => execSliceCalUpdate_only _ cycle s u hx
  | .startupCalibrationDone cycle, s, u, hx => execStartupCalibrationDone_only cycle s u hx
  | .settlingEnd, s, u, hx => execSettlingEnd_only s u hx
  | .comparatorDwellComplete _ _, s, u, hx => execComparatorDwellComplete_only _ _ s u hx
  | .faultCaptureManual _ _, s, u, hx => execFaultCaptureManual_only _ _ s u hx
  | .faultCapturePush, s, u, hx => execFaultCapturePush_only s u hx
  | .queueMarkerAppend _, s, u, hx => execQueueMarkerAppend_only _ s u hx
  | .qpop0 _ _, s, u, hx => execQpop0_only _ _ s u hx
  | .qpush _ _ _ _ _ _, s, u, hx => execQpush_only _ _ _ _ _ _ s u hx
  | .begin _, s, u, hx => execBegin_only _ s u hx
  | .pldata _ _, s, u, hx => execPldata_only _ _ s u hx
  | .verify _, s, u, hx => execVerify_only _ s u hx
  | .verificationDone, s, u, hx => execVerificationDone_only s u hx
  | .activate _, s, u, hx => execActivate_only _ s u hx
  | .cancel _, s, u, hx => execCancel_only _ s u hx
  | .arm _, s, u, hx => execArm_only _ s u hx
  | .commit, s, u, hx => execCommit_only s u hx
  | .commitDeadline, s, u, hx => execCommitDeadline_only s u hx
  | .selectorCommit, s, u, hx => execSelectorCommit_only s u hx
  | .planActivation, s, u, hx => execPlanActivation_only s u hx
  | .lockstepCompare _, s, u, hx => execLockstepCompare_only _ s u hx
  | .rmsWindowClose _ _, s, u, hx => execRmsWindowClose_only _ _ s u hx
  | .pulseStart _, s, u, hx => execPulseStart_only _ s u hx
  | .pulseEnd _, s, u, hx => execPulseEnd_only _ s u hx
  | .bandWindowEnd, s, u, hx => execBandWindowEnd_only s u hx
  | .bandPublish, s, u, hx => execBandPublish_only s u hx
  | .pqIntervalEnd _, s, u, hx => execPqIntervalEnd_only _ s u hx
  | .hclr, s, u, hx => execHclr_only s u hx
  | .liveWindowEnd _ _ _ _, s, u, hx => execLiveWindowEnd_only _ _ _ _ s u hx
  | .go req, s, u, hx => execGo_only req s u hx
  | .sprintStart, s, u, hx => execSprintStart_only s u hx
  | .sprintEnd, s, u, hx => execSprintEnd_only s u hx
  | .abort, s, u, hx => execAbort_only s u hx
  | .sprd0 req, s, u, hx => execSprd0_only req s u hx
  | .pairRead _ _, s, u, hx => execPairRead_only _ _ s u hx
  | .scrubSlot, s, u, hx => execScrubSlot_only s u hx
  | .reinstate _ _, s, u, hx => execReinstate_only _ _ s u hx
  | .clruv _ _, s, u, hx => execClruv_only _ _ s u hx
  | .knownAnswerTestDone _ _, s, u, hx => execKnownAnswerTestDone_only _ _ s u hx
  | .lsinj _, s, u, hx => execLsinj_only _ s u hx
  | .tariffSwitch, s, u, hx => execTariffSwitch_only s u hx
  | .demandIntervalEnd, s, u, hx => execDemandIntervalEnd_only s u hx
  | .billingCloseRule, s, u, hx => execBillingCloseRule_only s u hx
  | .blcmd _ _, s, u, hx => execBlcmd_only _ _ s u hx
  | .tariffFallbackApply, s, u, hx => execTariffFallbackApply_only s u hx
  | .crystalStop, s, u, hx => execCrystalStop_only s u hx
  | .crystalRestore, s, u, hx => execCrystalRestore_only s u hx
  | .slateSupplySwitch _, s, u, hx => execSlateSupplySwitch_only _ s u hx
  | .vbatLow _, s, u, hx => execVbatLow_only _ s u hx
  | .slateColdStart, s, u, hx => execSlateColdStart_only s u hx
  | .halt _ _ _, s, u, hx => execHalt_only _ _ _ s u hx
  | .rtcTimeWrite req _ _, s, u, hx => execRtcTimeWrite_only req _ _ s u hx
  | .clockSet req _, s, u, hx => execClockSet_only req _ s u hx
  | .haltTimeout, s, u, hx => execHaltTimeout_only s u hx
  | .clockSetRecord, s, u, hx => execClockSetRecord_only s u hx
  | .rtccapGo _ _, s, u, hx => execRtccapGo_only _ _ s u hx
  | .ppsEdge _ _ _, s, u, hx => execPpsEdge_only _ _ _ s u hx
  | .ppsLoss, s, u, hx => execPpsLoss_only s u hx
  | .sealPinChange _, s, u, hx => execSealPinChange_only _ s u hx
  | .sealDebounceComplete, s, u, hx => execSealDebounceComplete_only s u hx
  | .sealOpenDecision, s, u, hx => execSealOpenDecision_only s u hx
  | .tamperStaticEvent _, s, u, hx => execTamperStaticEvent_only _ s u hx
  | .loopBurst _, s, u, hx => execLoopBurst_only _ s u hx
  | .tamperWindowClose _, s, u, hx => execTamperWindowClose_only _ s u hx
  | .secondEvaluator _, s, u, hx => execSecondEvaluator_only _ s u hx
  | .dieTempSample _, s, u, hx => execDieTempSample_only _ s u hx
  | .supplyGlitch, s, u, hx => execSupplyGlitch_only s u hx
  | .tpclr _ _, s, u, hx => execTpclr_only _ _ s u hx
  | .rwlRequestAnswer, s, u, hx => execRwlRequestAnswer_only s u hx
  | .legalRequest, s, u, hx => execLegalRequest_only s u hx
  | .eventRaise _ _ _, s, u, hx => execEventRaise_only _ _ _ s u hx
  | .summaryWindowClose _ _, s, u, hx => execSummaryWindowClose_only _ _ s u hx
  | .tokenRefill _, s, u, hx => execTokenRefill_only _ s u hx
  | .privilegedEntryWrite, s, u, hx => execPrivilegedEntryWrite_only s u hx
  | .erpack _ _ _ _, s, u, hx => execErpack_only _ _ _ _ s u hx
  | .ersclr _, s, u, hx => execErsclr_only _ s u hx
  | .summaryClearPassEnd, s, u, hx => execSummaryClearPassEnd_only s u hx
  | .erwin15Read req, s, u, hx => execErwin15Read_only req s u hx
  | .displayPowerUp, s, u, hx => execDisplayPowerUp_only s u hx
  | .railGood _, s, u, hx => execRailGood_only _ s u hx
  | .railFault _, s, u, hx => execRailFault_only _ s u hx
  | .railRetry, s, u, hx => execRailRetry_only s u hx
  | .displayPowerDown _, s, u, hx => execDisplayPowerDown_only _ s u hx
  | .driveStep _, s, u, hx => execDriveStep_only _ s u hx
  | .pload req, s, u, hx => execPload_only req s u hx
  | .dpfree _ _ _, s, u, hx => execDpfree_only _ _ _ s u hx
  | .scrollDwellExpiry, s, u, hx => execScrollDwellExpiry_only s u hx
  | .buttonPress, s, u, hx => execButtonPress_only s u hx
  | .buttonLongPress, s, u, hx => execButtonLongPress_only s u hx
  | .autoScrollResume, s, u, hx => execAutoScrollResume_only s u hx
  | .itemRedraw, s, u, hx => execItemRedraw_only s u hx
  | .bootStages _ _, s, u, hx => execBootStages_only _ _ s u hx
  | .trfwctlBegin _ _, s, u, hx => execTrfwctlBegin_only _ _ s u hx
  | .trfwdata _ _, s, u, hx => execTrfwdata_only _ _ s u hx
  | .trfwctlVerify _, s, u, hx => execTrfwctlVerify_only _ s u hx
  | .accept _, s, u, hx => execAccept_only _ s u hx
  | .reset _, s, u, hx => execReset_only _ s u hx
  | .confirm _, s, u, hx => execConfirm_only _ s u hx
  | .confirmTimeout _, s, u, hx => execConfirmTimeout_only _ s u hx
  | .quoteRequest _ _, s, u, hx => execQuoteRequest_only _ _ s u hx
  | .quoteGenerate, s, u, hx => execQuoteGenerate_only s u hx
  | .quoteComplete, s, u, hx => execQuoteComplete_only s u hx
  | .trkctlGo _ _, s, u, hx => execTrkctlGo_only _ _ s u hx
  | .userTagWrite _ _ _, s, u, hx => execUserTagWrite_only _ _ _ s u hx
  | .tagDigestUpdate, s, u, hx => execTagDigestUpdate_only s u hx
  | .read _ _ _ _, s, u, hx => execRead_only _ _ _ _ s u hx
  | .write _ _ _ _, s, u, hx => execWrite_only _ _ _ _ s u hx
  | .poll _, s, u, hx => execPoll_only _ s u hx
  | .unknownCommand _, s, u, hx => execUnknownCommand_only _ s u hx
  | .scsAbort, s, u, hx => execScsAbort_only s u hx
  | .hostTimeout, s, u, hx => execHostTimeout_only s u hx
  | .registerWrite _ _ _, s, u, hx => execRegisterWrite_only _ _ _ s u hx
  | .signOn _, s, u, hx => execSignOn_only _ s u hx
  | .optionSelect _ _ _, s, u, hx => execOptionSelect_only _ _ _ s u hx
  | .optionSelectTimeout, s, u, hx => execOptionSelectTimeout_only s u hx
  | .hdlcStart, s, u, hx => execHdlcStart_only s u hx
  | .hdlcFrame _ _ _, s, u, hx => execHdlcFrame_only _ _ _ s u hx
  | .disc _ _ _, s, u, hx => execDisc_only _ _ _ s u hx
  | .aarq _ _ _ _ _ _, s, u, hx => execAarq_only _ _ _ _ _ _ s u hx
  | .get _ _ _ _, s, u, hx => execGet_only _ _ _ _ s u hx
  | .set _ _ _ _ _, s, u, hx => execSet_only _ _ _ _ _ s u hx
  | .dlmsAction _ _ _ _ _, s, u, hx => execDlmsAction_only _ _ _ _ _ s u hx
  | .inactivityTimeout _ _ _, s, u, hx => execInactivityTimeout_only _ _ _ s u hx
  | .dataNotification, s, u, hx => execDataNotification_only s u hx
  | .keyAssociationRelease, s, u, hx => execKeyAssociationRelease_only s u hx
  | .commaAlign _, s, u, hx => execCommaAlign_only _ s u hx
  | .hello _ _ hasAddr _, s, u, hx => execHello_only _ _ hasAddr _ s u hx
  | .portDown _ _, s, u, hx => execPortDown_only _ _ s u hx
  | .portRefusedRetry _, s, u, hx => execPortRefusedRetry_only _ s u hx
  | .cbctlWrite req _, s, u, hx => execCbctlWrite_only req _ s u hx
  | .enum _, s, u, hx => execEnum_only _ s u hx
  | .enumDone _ _, s, u, hx => execEnumDone_only _ _ s u hx
  | .ack _ _, s, u, hx => execAck_only _ _ s u hx
  | .nak _ _, s, u, hx => execNak_only _ _ s u hx
  | .resendTimeout _ _, s, u, hx => execResendTimeout_only _ _ s u hx
  | .cmd _ _ _ _ _, s, u, hx => execCmd_only _ _ _ _ _ s u hx
  | .opRead _ _ _, s, u, hx => execOpRead_only _ _ _ s u hx
  | .opWrite _ _ _, s, u, hx => execOpWrite_only _ _ _ s u hx
  | .opQuote _ _, s, u, hx => execOpQuote_only _ _ s u hx
  | .aggdef _ _ _, s, u, hx => execAggdef_only _ _ _ s u hx
  | .rsp _ _ _ _ _, s, u, hx => execRsp_only _ _ _ _ _ s u hx
  | .chainResponseTimeout _ _, s, u, hx => execChainResponseTimeout_only _ _ s u hx
  | .agg _ _ _ _ _ _, s, u, hx => execAgg_only _ _ _ _ _ _ s u hx
  | .powerFailWarning _, s, u, hx => execPowerFailWarning_only _ s u hx
  | .powerOn _, s, u, hx => execPowerOn_only _ s u hx
  | .mainPowerLoss, s, u, hx => execMainPowerLoss_only s u hx
  | .slatePowerLoss, s, u, hx => execSlatePowerLoss_only s u hx
  | .bootComplete, s, u, hx => execBootComplete_only s u hx
  | .startSequence _ _, s, u, hx => execStartSequence_only _ _ s u hx
  | .runEntry, s, u, hx => execRunEntry_only s u hx
  | .recoveryEntry, s, u, hx => execRecoveryEntry_only s u hx
  | .mdctlReqRun _, s, u, hx => execMdctlReqRun_only _ s u hx
  | .mdctlReqCalibrate _, s, u, hx => execMdctlReqCalibrate_only _ s u hx
  | .mdctlReqTest _, s, u, hx => execMdctlReqTest_only _ s u hx
  | .recov _, s, u, hx => execRecov_only _ s u hx
  | .faultySliceReset, s, u, hx => execFaultySliceReset_only s u hx
  | .powerFailCommit _, s, u, hx => execPowerFailCommit_only _ s u hx
  | .resetRelease, s, u, hx => execResetRelease_only s u hx
  | .thermalSample _, s, u, hx => execThermalSample_only _ s u hx
  | .wdlkick _ _, s, u, hx => execWdlkick_only _ _ s u hx
  | .legalWatchdogExpiry, s, u, hx => execLegalWatchdogExpiry_only s u hx
  | .wdakick _ _, s, u, hx => execWdakick_only _ _ s u hx
  | .appWatchdogExpiry, s, u, hx => execAppWatchdogExpiry_only s u hx
  | .calibrationWrite _ _ _ _, s, u, hx => execCalibrationWrite_only _ _ _ _ s u hx
  | .calctlCommit _, s, u, hx => execCalctlCommit_only _ s u hx
  | .calctlDiscard _, s, u, hx => execCalctlDiscard_only _ s u hx
  | .messageCrcError _, s, u, hx => execMessageCrcError_only _ s u hx
  | .codeViolation _, s, u, hx => execCodeViolation_only _ s u hx
  | .vbatlowClear, s, u, hx => execVbatlowClear_only s u hx
  | .railDischarged _, s, u, hx => execRailDischarged_only _ s u hx

end Sys2Proof.Laws
end

section
/-! The face of the clock: its second, its HALT bit and its validity (10 R238, R240, R241, R244), and the operations that leave all three. -/

namespace Sys2Proof.Laws

open Sys2Proof.Machine

/-- Second, HALT and VALID of the clock. -/
structure ClockFace where
  sec : Nat
  halt : Bool
  valid : Bool

/-- The face of a clock's registers; reducible, so that `simp` compares an update field by field. -/
abbrev rtcFace (r : Rtc) : ClockFace := { sec := r.sec, halt := r.halt, valid := r.valid }

/-- The face of the clock in a state. -/
def clockFace (s : State) : ClockFace := rtcFace s.rtc

/-! ## From footprints -/

/-- Every part but the clock's two. -/
def offClock : List Part :=
  [.pending, .sup, .tb, .fe, .cv, .qu, .pl, .met, .pq, .ls, .bl, .tp, .er, .dp, .tr, .hp, .ser, .cb, .nv, .fresh,
   .frame, .mode, .seal, .plan]

theorem face_of_rtc {s t : State} (h : t.rtc = s.rtc) : clockFace t = clockFace s := congrArg rtcFace h

/-- What leaves the clock's part alone leaves its face. -/
theorem face_of_only {s t : State} (h : Only offClock s t) : clockFace t = clockFace s := face_of_rtc (h .rtc rfl)

theorem face_of_parts {ps : List Part} {s t : State} (h : Only ps s t) (w : ps.contains .rtc = false) : clockFace t = clockFace s :=
  face_of_rtc (h .rtc w)

/-! ## Updaters and control -/

@[simp] theorem mapRtc_face (s : State) (f : Rtc → Rtc) (h : ∀ r, rtcFace (f r) = rtcFace r) : clockFace (s.mapRtc f) = clockFace s := h s.rtc
@[simp] theorem mapSup_face (s : State) (f) : clockFace (s.mapSup f) = clockFace s := rfl
@[simp] theorem mapTb_face (s : State) (f) : clockFace (s.mapTb f) = clockFace s := rfl
@[simp] theorem mapTp_face (s : State) (f) : clockFace (s.mapTp f) = clockFace s := rfl
@[simp] theorem mapBl_face (s : State) (f) : clockFace (s.mapBl f) = clockFace s := rfl
@[simp] theorem mapCb_face (s : State) (f) : clockFace (s.mapCb f) = clockFace s := rfl
@[simp] theorem mapNv_face (s : State) (f) : clockFace (s.mapNv f) = clockFace s := rfl
@[simp] theorem mapPq_face (s : State) (f) : clockFace (s.mapPq f) = clockFace s := rfl
@[simp] theorem draw_face (s : State) : clockFace s.draw.2 = clockFace s := rfl

@[simp] theorem ite_face {c : Prop} [Decidable c] (a b : State) : clockFace (if c then a else b) = if c then clockFace a else clockFace b :=
  apply_ite clockFace c a b

theorem face_of_ite {c : Prop} [Decidable c] {a b s : State} (ha : clockFace a = clockFace s) (hb : clockFace b = clockFace s) :
    clockFace (if c then a else b) = clockFace s := by
  split
  · exact ha
  · exact hb

@[simp] theorem forEach_face {α : Type} (l : List α) (g : State → α → State) (h : ∀ y a, clockFace (g y a) = clockFace y) (x : State) :
    clockFace (forEach l g x) = clockFace x := by
  induction l generalizing x with
  | nil => rfl
  | cons a l ih => exact (ih (g x a)).trans (h x a)

theorem foldFst_face {α β : Type} (l : List α) (g : State × β → α → State × β) (h : ∀ y a, clockFace (g y a).1 = clockFace y.1)
    (x : State × β) : clockFace (l.foldl g x).1 = clockFace x.1 := by
  induction l generalizing x with
  | nil => rfl
  | cons a l ih => exact (ih (g x a)).trans (h x a)

/-! ## Events and sources of the Slate domain -/

@[simp] theorem raise_face (s : State) (code chan : Nat) (v : Option Int) : clockFace (raise s code chan v) = clockFace s :=
  face_of_rtc (raise_rtc s code chan v)
@[simp] theorem irq_face (s : State) (b : Nat) : clockFace (s.irq b) = clockFace s := face_of_rtc (irq_rtc s b)
@[simp] theorem slateEvent_face (s : State) (code chan : Nat) (v : Option Int) : clockFace (slateEvent s code chan v) = clockFace s := by
  unfold slateEvent
  split
  · exact raise_face s code chan v
  · exact mapRtc_face s _ fun _ => rfl
@[simp] theorem windowEnds_face (s : State) (src : Nat) : clockFace (windowEnds s src) = clockFace s := by
  simp [windowEnds, State.setSrc]
@[simp] theorem declare_face (s : State) (l : List Nat) : clockFace (declare s l) = clockFace s :=
  face_of_only (by simp [offClock])
@[simp] theorem sourceEvents_face (s : State) (l : List Nat) (stat loop : Bool) : clockFace (sourceEvents s l stat loop) = clockFace s := by
  unfold sourceEvents
  rw [declare_face, foldFst_face]
  intro y n
  simp [State.setSrc]
@[simp] theorem sourceEvent_face (s : State) (n : Nat) : clockFace (sourceEvent s n) = clockFace s := sourceEvents_face s [n] false false

/-! ## Alarms and latches -/

@[simp] theorem setAlarm_face (s : State) (n : Nat) (a : Alarm) : clockFace (s.setAlarm n a) = clockFace s := mapRtc_face s _ fun _ => rfl
@[simp] theorem fireAlarm_face (s : State) (n : Nat) : clockFace (fireAlarm s n) = clockFace s := by simp [fireAlarm, latchAlarm]
@[simp] theorem lateFire_face (s : State) (n lateness : Nat) : clockFace (lateFire s n lateness) = clockFace s := by simp [lateFire]
@[simp] theorem fireDue_face (s : State) : clockFace (fireDue s) = clockFace s := by
  unfold fireDue
  split
  · exact forEach_face _ _ fireAlarm_face s
  · rfl
@[simp] theorem alarmsAtSet_face (s : State) (t0 t1 : Nat) : clockFace (alarmsAtSet s t0 t1) = clockFace s := by
  unfold alarmsAtSet
  refine (forEach_face _ _ fireAlarm_face _).trans (forEach_face _ _ (fun y n => ?_) s)
  simp [latchAlarm]
@[simp] theorem alarmLatch_face (s : State) (n : Nat) : clockFace (alarmLatch s n) = clockFace s := by simp [alarmLatch]
@[simp] theorem processLatch_face (s : State) (x : TamperLatch) : clockFace (processLatch s x) = clockFace s :=
  face_of_only (by simp [offClock])
@[simp] theorem processLatches_face (s : State) : clockFace (processLatches s) = clockFace s := by
  unfold processLatches
  refine (mapTp_face _ _).trans (forEach_face _ _ (fun y x => ?_) s)
  split
  · split <;> simp
  · exact alarmLatch_face y _

/-! ## Ticks, edges and captures -/

@[simp] theorem subTick_face (s : State) : clockFace (subTick s) = clockFace s :=
  mapRtc_face _ _ fun r => by split <;> rfl
@[simp] theorem subUnknown_face (s : State) : clockFace (subUnknown s) = clockFace s := by
  unfold subUnknown
  split
  · rfl
  · exact mapRtc_face s.draw.2 _ fun _ => rfl
@[simp] theorem rtcTick_face (s : State) : clockFace (rtcTick s) = clockFace s :=
  (mapRtc_face (subTick s) _ fun _ => rfl).trans (subTick_face s)
@[simp] theorem timebaseEdge_face (s : State) (cyc : Nat) : clockFace (timebaseEdge s cyc) = clockFace s := by simp [timebaseEdge]
@[simp] theorem refreshPool_face (s : State) : clockFace (refreshPool s) = clockFace s := rfl
@[simp] theorem writeTime_face (s : State) (lo hi : Option Word) : clockFace (writeTime s lo hi) = clockFace s := by
  unfold writeTime
  split
  · exact mapRtc_face s _ fun _ => rfl
  · exact (raise_face _ _ _ _).trans (mapRtc_face s _ fun _ => rfl)
@[simp] theorem capture_face (s : State) (sub cyc : Nat) : clockFace (capture s sub cyc) = clockFace s := mapRtc_face s _ fun _ => rfl
@[simp] theorem endSample_face (s : State) (code chan : Nat) (v : Int) : clockFace (endSample s code chan v) = clockFace s :=
  face_of_rtc (endSample_rtc s code chan v)
@[simp] theorem ppsMeasure_face (s : State) (interval : Nat) (offset : Int) : clockFace (ppsMeasure s interval offset) = clockFace s := by
  simp [ppsMeasure]

/-! ## Restores, decisions and the seal -/

@[simp] theorem restoreBilling_face (s : State) : clockFace (restoreBilling s) = clockFace s := by
  have hiv (n b y p) : clockFace (restoreIv n b y p) = clockFace y := face_of_only (by simp [offClock])
  have hset (y d) : clockFace (restoreSet y d) = clockFace y := face_of_only (by simp [offClock])
  have hcatch (y a b c f) : clockFace (catchUp y a b c f) = clockFace y := face_of_only (by simp [offClock])
  have htariff (y p v c) : clockFace (setTariff y p v c) = clockFace y := face_of_only (by simp [offClock])
  have hdefault (y) : clockFace (defaultTariff y) = clockFace y := face_of_only (by simp [offClock])
  have hfin (y) : clockFace (finAll y) = clockFace y := face_of_only (by simp [offClock])
  have hopen (y p a b) : clockFace (openIv y p a b) = clockFace y := face_of_only (by simp [offClock])
  have hbase (n b l) : clockFace ((forEach l restoreSet (forEach (livePts s) (restoreIv n b) s)).mapRtc fun r => { r with setDue := [] }) =
      clockFace s := by simp [hiv, hset]
  refine (forEach_face _ _ (fun y p => by split <;> simp [hopen]) _).trans ((hfin _).trans (face_of_ite ?valid ?invalid))
  case valid =>
    refine (forEach_face _ _ (fun y p => by split <;> simp [htariff]) _).trans ((mapBl_face _ _).trans ?_)
    exact face_of_ite ((hcatch _ _ _ _ _).trans (hbase _ _ _)) (hbase _ _ _)
  case invalid => exact (hdefault _).trans (hbase _ _ _)
@[simp] theorem restoreLatches_face (s : State) : clockFace (restoreLatches s) = clockFace s := by
  have hsets (y) : clockFace (restoreClockSet y) = clockFace y := face_of_only (by simp [offClock])
  simp [restoreLatches, hsets]
@[simp] theorem decide2_face (s : State) (d : PendDec) (second : Bool) : clockFace (decide2 s d second) = clockFace s := by
  have hpool : clockFace (poolNext s).2 = clockFace s := face_of_only (by simp [offClock])
  have hgranted (y) : clockFace (granted y d.dec) = clockFace y := face_of_only (by simp [offClock])
  have hrefused (y n) : clockFace (refused (release y n) d.dec) = clockFace y := face_of_only (by simp [offClock])
  simp [decide2, hpool, hgranted, hrefused]
@[simp] theorem sealCloses_face (s : State) : clockFace (sealCloses s) = clockFace s := by
  have hdrop (y) : clockFace (dropRwl (dropModeReq y)) = clockFace y := face_of_only (by simp [offClock])
  have hdue (y p l c) : clockFace (privDue y p l c) = clockFace y := face_of_only (by simp [offClock])
  simp [sealCloses, hdrop, hdue]

/-! ## The frame tick and BOOT -/

@[simp] theorem endFrame_face (s : State) (inp : TickInput) : clockFace (endFrame s inp) = clockFace s := by
  have hcapture (y) : clockFace (captureFrame (captureTriggers y inp)) = clockFace y := face_of_only (by simp [offClock])
  exact (hcapture _).trans ((sourceEvents_face _ _ _ _).trans (face_of_only (by simp [offClock])))
@[simp] theorem countTick_face (s : State) : clockFace (countTick s) = clockFace s := by
  have hlater : Only offClock (rtcTick (opsTick (supTick s))) (countTick s) := by simp [countTick, offClock]
  have hbefore : Only offClock s (opsTick (supTick s)) := by simp [offClock]
  rw [face_of_only hlater, rtcTick_face, face_of_only hbefore]
@[simp] theorem bootTick_face (s : State) : clockFace (bootTick s) = clockFace s := by
  have hcommit (y) : clockFace (frameCommitTick y) = clockFace y := face_of_only (by simp [offClock])
  have hops (y) : clockFace (opsTick y) = clockFace y := face_of_only (by simp [offClock])
  simp [bootTick, hcommit, hops]
@[simp] theorem frameTick_face (s : State) (inp : TickInput) : clockFace (frameTick s inp) = clockFace s := by
  have hlast (y) : clockFace (mailboxTick (commitTick y)) = clockFace y := face_of_only (by simp [offClock])
  have hlanes (y f st df) : clockFace (injectionAct (beginLaneFrame (reinTick y) f st df)) = clockFace y := face_of_only (by simp [offClock])
  have hmeter (y) : clockFace (metTick (liveTick (pqTick y))) = clockFace y := face_of_only (by simp [offClock])
  have hstates (y) : clockFace (statesTick (aggTick (timebaseTick (endLaneFrame y)))) = clockFace y := face_of_only (by simp [offClock])
  have hrwl (y) : clockFace (applyRwl y) = clockFace y := face_of_only (by simp [offClock])
  simp [frameTick, hlast, hlanes, hmeter, hstates, hrwl]
@[simp] theorem bootReset_face (s : State) : clockFace (bootReset s) = clockFace s := by
  have hparts (y ok) : clockFace (bootFrame (bootParts y ok)) = clockFace y := face_of_only (by simp [offClock])
  have hplan (y) : clockFace (bootPlan (bootSelector y)) = clockFace y := face_of_only (by simp [offClock])
  have hbank (y n b) : clockFace (State.setBank y n b) = clockFace y := face_of_only (by simp [offClock])
  simp [bootReset, hparts, hplan, hbank]

end Sys2Proof.Laws
end

section
/-! How a command moves the clock: the second edge, the halt and its end, the register write of `RTCCTL`, the loss of the Slate domain
(10 R240, R243 to R245). -/

namespace Sys2Proof.Laws

open Sys2Proof.Machine

/-! ## The four moves -/

/-- What a command can do to the second, HALT and VALID of the clock. -/
inductive ClockMove (c : Instr) (p q : ClockFace) : Prop
  /-- The second stays; an invalid clock stays invalid. -/
  | kept (hsec : q.sec = p.sec) (hvalid : q.valid = true → p.valid = true)
  /-- A second edge below the end of the range. -/
  | edge (hlt : p.sec < rtcMax) (hsec : q.sec = p.sec + 1) (hvalid : q.valid = true → p.valid = true)
      (hend : q.sec = rtcMax → q.valid = false)
  /-- A halt ends: the clock resumes or takes the new time. -/
  | haltEnd (hhalt : p.halt = true) (hruns : q.halt = false) (hrange : q.sec ≤ rtcMax)
      (hend : q.sec = rtcMax → q.valid = true → rtcMax ≤ p.sec ∧ p.valid = true)
  /-- The Slate domain is lost. -/
  | lost (hcmd : c = .slateColdStart ∨ c = .slatePowerLoss) (hvalid : q.valid = false)

theorem move_of_face {c : Instr} {s t : State} (h : clockFace t = clockFace s) : ClockMove c (clockFace s) (clockFace t) := by
  rw [h]
  exact .kept rfl id

theorem move_of_invalid {c : Instr} {s t : State} (h : clockFace t = { clockFace s with valid := false }) :
    ClockMove c (clockFace s) (clockFace t) := by
  rw [h]
  exact .kept rfl (fun k => absurd k Bool.false_ne_true)

theorem move_ite {c : Instr} {s a b : State} {p : Prop} [Decidable p] (ha : ClockMove c (clockFace s) (clockFace a))
    (hb : ClockMove c (clockFace s) (clockFace b)) : ClockMove c (clockFace s) (clockFace (if p then a else b)) := by
  split
  · exact ha
  · exact hb

/-! ## Invalidity -/

@[simp] theorem clockInvalid_face (s : State) (cause : Nat) : clockFace (clockInvalid s cause) = { clockFace s with valid := false } := by
  have horder (y) : clockFace (pendDec (orderDefault y) .fallback true) = clockFace y := face_of_only (by simp [offClock])
  unfold clockInvalid
  dsimp only
  rw [ite_face, ite_face, horder, ite_self, slateEvent_face, ite_self]
  rfl

theorem slateEvent_invcause (s : State) (code chan : Nat) (v : Option Int) : (slateEvent s code chan v).rtc.invcause = s.rtc.invcause := by
  unfold slateEvent
  split
  · rw [raise_rtc]
  · rfl

theorem clockInvalid_invcause (s : State) (cause : Nat) : (clockInvalid s cause).rtc.invcause = cause := by
  have horder (y) : (pendDec (orderDefault y) .fallback true).rtc = y.rtc :=
    (show Only offClock y _ by simp [offClock]) .rtc rfl
  unfold clockInvalid
  dsimp only
  split
  · split
    · rw [horder, slateEvent_invcause]; rfl
    · rw [slateEvent_invcause]; rfl
  · rfl

/-! ## The second edge (10 R240) -/

/-- The state in which a second edge is counted; without main power the edge also carries the Slate time on. -/
def edgeCounted (s : State) : State :=
  let s := s.mapRtc fun r => { r with edges := r.edges + 1 }
  if s.powered then s else s.mapTp fun t => { t with slate := t.slate + 4096000 }

/-- The state in which a second edge has begun a second, before the end of the range or the alarms of that second are seen to. -/
def secondBegun (cyc : Nat) (s : State) : State :=
  let s := (edgeCounted s).mapRtc fun r => { r with sec := r.sec + 1, sub := 0, subAcc := 0 }
  if s.powered then refreshPool (timebaseEdge s cyc) else s

@[simp] theorem edgeCounted_face (s : State) : clockFace (edgeCounted s) = clockFace s := by simp [edgeCounted]

theorem secondBegun_face (cyc : Nat) (s : State) : clockFace (secondBegun cyc s) = { clockFace s with sec := s.rtc.sec + 1 } := by
  have hsec : clockFace ((edgeCounted s).mapRtc fun r => { r with sec := r.sec + 1, sub := 0, subAcc := 0 }) =
      { clockFace (edgeCounted s) with sec := (clockFace (edgeCounted s)).sec + 1 } := rfl
  unfold secondBegun
  dsimp only
  rw [ite_face, refreshPool_face, timebaseEdge_face, ite_self, hsec, edgeCounted_face]
  rfl

/-- A second edge of a running clock: at the end of the range it is only counted, the edge to the end stops the clock there invalid, and
any other begins a second and its alarms. -/
theorem execRtcSecondEdge_eq (cyc : Nat) (s : State) (h : s.rtc.halt = false) :
    execRtcSecondEdge cyc s = if rtcMax ≤ s.rtc.sec then .next (edgeCounted s)
      else .next (if s.rtc.sec + 1 = rtcMax then slateEvent (clockInvalid (secondBegun cyc s) 4) 0xCB 0xFF none
        else fireDue (secondBegun cyc s)) := by
  have hcounted : (edgeCounted s).rtc.sec = s.rtc.sec := congrArg ClockFace.sec (edgeCounted_face s)
  have hbegun : (secondBegun cyc s).rtc.sec = s.rtc.sec + 1 := congrArg ClockFace.sec (secondBegun_face cyc s)
  rw [← hbegun, apply_ite Host.Outcome.next]
  conv_rhs => rw [← hcounted]
  unfold execRtcSecondEdge
  exact if_neg (by simp [h])

theorem execRtcSecondEdge_move (c : Instr) (cyc : Nat) (s u : State) (hx : execRtcSecondEdge cyc s = .next u) :
    ClockMove c (clockFace s) (clockFace u) := by
  cases hrun : s.rtc.halt with
  | true =>
    rw [execRtcSecondEdge, if_pos hrun] at hx
    exact move_of_face (by rw [Host.Outcome.next.inj hx])
  | false =>
    rw [execRtcSecondEdge_eq cyc s hrun] at hx
    split at hx
    · rw [← Host.Outcome.next.inj hx]
      exact move_of_face (edgeCounted_face s)
    next hlt =>
      rw [← Host.Outcome.next.inj hx, ite_face, slateEvent_face, clockInvalid_face, fireDue_face, secondBegun_face]
      split
      next hend => exact .edge (Nat.not_le.mp hlt) rfl (fun k => absurd k Bool.false_ne_true) (fun _ => rfl)
      next hend => exact .edge (Nat.not_le.mp hlt) rfl id (fun k => absurd k hend)

/-! ## The halt and its end (10 R240, R244, R245) -/

theorem setHalt_move (c : Instr) (s : State) (req : Requester) (sub : Nat) (relpps : Bool) :
    ClockMove c (clockFace s) (clockFace (setHalt s req sub relpps)) := by
  have hreserve (y n) : (reserve y n).rtc = y.rtc := (show Only offClock y (reserve y n) by simp [offClock]) .rtc rfl
  unfold setHalt
  split
  · exact .kept rfl id
  · split
    · exact .kept rfl id
    · refine .kept ?_ ?_ <;> simp [clockFace, hreserve]

/-- A clock that resumes does so no later than the end of its range, and invalid where it comes to that end. -/
theorem resumeAt_face (s : State) (t0 : Nat) :
    clockFace (resumeAt s t0) = { sec := min rtcMax (t0 / 32768), halt := false,
                                  valid := s.rtc.valid && !(decide (s.rtc.sec < rtcMax) && decide (rtcMax ≤ t0 / 32768)) } := by
  have hrelease (y n) : clockFace (release y n) = clockFace y := face_of_only (by simp [offClock])
  unfold resumeAt
  dsimp only
  rw [ite_face, slateEvent_face, clockInvalid_face, hrelease]
  split
  next hends => rw [hends]; simp [clockFace]
  next hends => rw [Bool.eq_false_iff.mpr hends]; simp [clockFace]

theorem resumeAt_move (c : Instr) (s : State) (t0 : Nat) (h : s.rtc.halt = true) :
    ClockMove c (clockFace s) (clockFace (resumeAt s t0)) := by
  rw [resumeAt_face]
  refine .haltEnd h rfl (Nat.min_le_left _ _) fun hsec hvalid => ?_
  simp only [Bool.and_eq_true, Bool.not_eq_true', Bool.and_eq_false_iff, decide_eq_false_iff_not] at hvalid hsec
  obtain ⟨hv, hk⟩ := hvalid
  exact ⟨by simp only [clockFace]; omega, hv⟩

/-- The clear of HALT resumes the clock, or sets it to the new time, valid below the end of the range. -/
theorem clearHalt_face (s : State) (dur : Nat) :
    clockFace (clearHalt s dur) = if rtcMax < s.rtc.newSec ∨ s.tp.locked then clockFace (resumeAt s (haltT0 s.rtc dur))
      else { sec := s.rtc.newSec, halt := false, valid := decide (s.rtc.newSec ≠ rtcMax) } := by
  unfold clearHalt
  dsimp only
  split
  · simp
  · simp only [ite_face, slateEvent_face, clockInvalid_face, alarmsAtSet_face, fireAlarm_face, alarmLatch_face, forEach_face, irq_face,
      implies_true, ite_self]
    split
    next hend => simp [clockFace, hend]
    next hend => simp [clockFace, hend]

theorem clearHalt_move (c : Instr) (s : State) (dur : Nat) (h : s.rtc.halt = true) :
    ClockMove c (clockFace s) (clockFace (clearHalt s dur)) := by
  rw [clearHalt_face]
  split
  · exact resumeAt_move c s _ h
  next hset =>
    refine .haltEnd h rfl (Nat.not_lt.mp fun k => hset (.inl k)) fun hsec hvalid => ?_
    exact absurd hsec (of_decide_eq_true hvalid)

theorem execHalt_move (c : Instr) (req : Requester) (sub : Nat) (relpps : Bool) (s u : State) (hx : execHalt req sub relpps s = .next u) :
    ClockMove c (clockFace s) (clockFace u) := by
  rw [← Host.Outcome.next.inj hx]
  exact move_ite (setHalt_move c s req sub relpps) (move_of_face rfl)

theorem execClockSet_move (c : Instr) (req : Requester) (dur : Nat) (s u : State) (hx : execClockSet req dur s = .next u) :
    ClockMove c (clockFace s) (clockFace u) := by
  unfold execClockSet at hx
  split at hx
  · exact move_of_face (by rw [Host.Outcome.next.inj hx])
  next hserved =>
    have hhalt : s.rtc.halt = true := by simp at hserved; exact hserved.1
    split at hx
    · rw [← Host.Outcome.next.inj hx]
      exact move_of_face rfl
    · rw [← Host.Outcome.next.inj hx]
      exact clearHalt_move c s dur hhalt

theorem execHaltTimeout_move (c : Instr) (s u : State) (hx : execHaltTimeout s = .next u) : ClockMove c (clockFace s) (clockFace u) := by
  unfold execHaltTimeout at hx
  split at hx
  next hhalt =>
    rw [← Host.Outcome.next.inj hx, slateEvent_face]
    exact resumeAt_move c s _ hhalt
  · exact move_of_face (by rw [Host.Outcome.next.inj hx])

theorem execPpsEdge_move (c : Instr) (interval : Nat) (offset : Int) (dur : Nat) (s u : State)
    (hx : execPpsEdge interval offset dur s = .next u) : ClockMove c (clockFace s) (clockFace u) := by
  unfold execPpsEdge at hx
  dsimp only at hx
  split at hx
  · exact move_of_face (by rw [Host.Outcome.next.inj hx])
  · have hseen : clockFace (s.mapRtc fun r => { r with ppsSeen := true }) = clockFace s := rfl
    rw [← Host.Outcome.next.inj hx, ite_face, ppsMeasure_face, ite_self, ← hseen]
    split
    next hwaits => exact clearHalt_move c _ dur (by simp at hwaits; exact hwaits.1)
    · exact move_of_face rfl

/-! ## Crystal, supply and the loss of the Slate domain (10 R242, R243) -/

theorem execCrystalStop_move (c : Instr) (s u : State) (hx : execCrystalStop s = .next u) : ClockMove c (clockFace s) (clockFace u) := by
  rw [← Host.Outcome.next.inj hx]
  exact move_of_invalid (by simp)

theorem execSlateSupplySwitch_move (c : Instr) (cell : Bool) (s u : State) (hx : execSlateSupplySwitch cell s = .next u) :
    ClockMove c (clockFace s) (clockFace u) := by
  rw [← Host.Outcome.next.inj hx]
  exact move_ite (move_of_invalid (by simp)) (move_of_face (by simp))

theorem execVbatLow_move (c : Instr) (mv : Nat) (s u : State) (hx : execVbatLow mv s = .next u) :
    ClockMove c (clockFace s) (clockFace u) := by
  rw [← Host.Outcome.next.inj hx]
  exact move_ite (move_of_invalid (by simp)) (move_of_face (by simp))

theorem execSlateColdStart_move (s u : State) (hx : execSlateColdStart s = .next u) :
    ClockMove .slateColdStart (clockFace s) (clockFace u) := by
  have hdrop (y) : clockFace (dropSlateMarks y) = clockFace y := face_of_only (by simp [offClock])
  refine .lost (.inl rfl) ?_
  rw [← Host.Outcome.next.inj hx, hdrop, ite_face, mapSup_face, ite_self]
  rfl

theorem execSlatePowerLoss_move (s u : State) (hx : execSlatePowerLoss s = .next u) :
    ClockMove .slatePowerLoss (clockFace s) (clockFace u) := by
  have hdrop (y) : clockFace (dropSlateMarks y) = clockFace y := face_of_only (by simp [offClock])
  unfold execSlatePowerLoss at hx
  split at hx
  · refine .lost (.inr rfl) ?_
    rw [← Host.Outcome.next.inj hx, mapSup_face, hdrop]
    rfl
  · exact move_of_face (by rw [Host.Outcome.next.inj hx])

end Sys2Proof.Laws
end

section
/-! What register writes do to the clock: of all words only `RTCCTL` moves it, and a transaction writes that word once
(10 R244, R245; 15 R346; log 40). -/

namespace Sys2Proof.Laws

open Sys2Proof.Machine

/-! ## One word -/

/-- The address of `RTCCTL`. -/
def rtcctlAddr : Nat := 0x200000

theorem writeRtcctl_move (c : Instr) (s : State) (req : Requester) (w : Word) :
    ClockMove c (clockFace s) (clockFace (writeRtcctl s req w)) := by
  have hrelpps : clockFace (s.mapRtc fun r => { r with relpps := wbit w 1 }) = clockFace s := rfl
  unfold writeRtcctl
  split
  · exact setHalt_move c s req _ _
  · rw [← hrelpps]
    dsimp only
    split
    · exact move_of_face rfl
    next hhalt =>
      split
      · exact move_of_face rfl
      · exact clearHalt_move c _ _ (by simpa using hhalt)

/-- The words of the clock's block but `RTCCTL` leave the clock's face. -/
theorem wrRtc_face (s : State) (req : Requester) (o : Nat) (w : Word) (h : o ≠ 0) : clockFace (wrRtc s req o w) = clockFace s := by
  unfold wrRtc
  dsimp only
  refine face_of_ite (setAlarm_face _ _ _) (face_of_ite (mapRtc_face _ _ fun _ => rfl) ?_)
  split
  · exact absurd rfl h
  · rfl
  · exact face_of_ite ((capture_face _ _ _).trans (draw_face s)) rfl
  · rfl
  · rfl
  · simp

theorem freeWord_face (s : State) (req : Requester) (a : Nat) (w : Word) (h : a ≠ rtcctlAddr) :
    clockFace (freeWord s req a w) = clockFace s := by
  unfold freeWord
  dsimp only
  refine face_of_ite (face_of_only (by simp [offClock])) (face_of_ite (face_of_only (by simp [offClock])) ?_)
  split
  case h_11 hblock => exact wrRtc_face s req _ w fun ho => h (by unfold rtcctlAddr; omega)
  all_goals exact face_of_only (by (repeat' split) <;> simp [offClock])

theorem freeWord_move (c : Instr) (s : State) (req : Requester) (a : Nat) (w : Word) :
    ClockMove c (clockFace s) (clockFace (freeWord s req a w)) := by
  by_cases h : a = rtcctlAddr
  · subst h
    exact writeRtcctl_move c s req w
  · exact move_of_face (freeWord_face s req a w h)

/-- A word of a transaction takes effect as a free word, or does not touch the clock. -/
theorem applyWord_cases (req : Requester) (s : State) (e : Nat × Word) :
    clockFace (applyWord req s e) = clockFace s ∨ ∃ w, applyWord req s e = freeWord s req e.1 w := by
  have hprofile (y) : clockFace (loadProfile y) = clockFace y := face_of_only (by simp [offClock])
  have hunmap : clockFace (noteUnmap s req e.1) = clockFace s := face_of_only (by simp [offClock])
  unfold applyWord
  split
  · exact .inl hunmap
  · split
    · exact .inl rfl
    · split
      · exact .inl rfl
      · exact .inr ⟨_, rfl⟩
  · exact .inl (face_of_ite (hprofile s) rfl)
  · exact .inl rfl

theorem applyWord_face (req : Requester) (s : State) (e : Nat × Word) (h : e.1 ≠ rtcctlAddr) :
    clockFace (applyWord req s e) = clockFace s := by
  obtain hface | ⟨w, hfree⟩ := applyWord_cases req s e
  · exact hface
  · rw [hfree]
    exact freeWord_face s req e.1 w h

theorem applyWord_move (c : Instr) (req : Requester) (s : State) (e : Nat × Word) :
    ClockMove c (clockFace s) (clockFace (applyWord req s e)) := by
  obtain hface | ⟨w, hfree⟩ := applyWord_cases req s e
  · exact move_of_face hface
  · rw [hfree]
    exact freeWord_move c s req e.1 w

/-! ## The words of a transaction -/

/-- The words of a transaction stand at different addresses. -/
theorem wordList_distinct (a : Nat) (bs : List Byte) : (wordList a bs).Pairwise fun e f => e.1 ≠ f.1 := by
  unfold wordList
  dsimp only
  rw [List.pairwise_iff_getElem]
  intro i j hi hj hij
  simp only [List.getElem_mapIdx]
  omega

theorem words_face (req : Requester) (ws : List (Nat × Word)) (s : State) (h : ∀ e ∈ ws, e.1 ≠ rtcctlAddr) :
    clockFace (forEach ws (applyWord req) s) = clockFace s := by
  induction ws generalizing s with
  | nil => rfl
  | cons e ws ih =>
    obtain ⟨he, hws⟩ := List.forall_mem_cons.mp h
    exact (ih (applyWord req s e) hws).trans (applyWord_face req s e he)

theorem words_move (c : Instr) (req : Requester) (ws : List (Nat × Word)) (s : State) (h : ws.Pairwise fun e f => e.1 ≠ f.1) :
    ClockMove c (clockFace s) (clockFace (forEach ws (applyWord req) s)) := by
  induction ws generalizing s with
  | nil => exact move_of_face rfl
  | cons e ws ih =>
    obtain ⟨he, hws⟩ := List.pairwise_cons.mp h
    change ClockMove c _ (clockFace (forEach ws (applyWord req) (applyWord req s e)))
    by_cases hctl : e.1 = rtcctlAddr
    · rw [words_face req ws _ fun f hf hfctl => he f hf (hctl.trans hfctl.symm)]
      exact applyWord_move c req s e
    · rw [← applyWord_face req s e hctl]
      exact ih _ hws

@[simp] theorem timeWords_face (s : State) (ws : List (Nat × Word)) : clockFace (timeWords s ws) = clockFace s := by
  unfold timeWords
  split
  · rfl
  · exact writeTime_face s _ _

theorem applyWrite_move (c : Instr) (s : State) (req : Requester) (a : Nat) (bs : List Byte) :
    ClockMove c (clockFace s) (clockFace (applyWrite s req a bs).s) := by
  have hpost (ws) : clockFace (postRwl s req ws) = clockFace s := face_of_only (by simp [offClock])
  have hlater (y ws d) : clockFace (appendBytes (pushWords (tagWords (ackWords y req ws) req ws) req ws).1 req d) = clockFace y :=
    face_of_only (by simp [offClock])
  have hnoeff (y) : clockFace (noEff y req) = clockFace y := face_of_only (by simp [offClock])
  have hmove := words_move c req (wordList a bs) (postRwl s req (rwlWords (wordList a bs))) (wordList_distinct a bs)
  rw [hpost] at hmove
  unfold applyWrite
  dsimp only
  rwa [ite_face, hnoeff, ite_self, hlater, timeWords_face]

/-! ## The commands that write registers -/

theorem execRegisterWrite_move (c : Instr) (req : Requester) (addr : Nat) (w : Word) (s u : State)
    (hx : execRegisterWrite req addr w s = .next u) : ClockMove c (clockFace s) (clockFace u) := by
  rw [← Host.Outcome.next.inj hx]
  exact move_ite (applyWrite_move c s req _ _) (move_of_face rfl)

theorem hostTransaction_move (c : Instr) (s : State) (wire : Wire) (sent : List Byte) (bad : List Word) (go : State → State)
    (hgo : ∀ y, ClockMove c (clockFace y) (clockFace (go y))) :
    ClockMove c (clockFace s) (clockFace (hostTransaction s wire sent bad go)) := by
  have habort : clockFace (abortHost s) = clockFace s := face_of_only (by simp [offClock])
  have herror : clockFace (answerHost (crcError s) 1 false bad) = clockFace s := face_of_only (by simp [offClock])
  have hgood : clockFace (crcGood s) = clockFace s := face_of_only (by simp [offClock])
  refine move_ite (move_of_face rfl) (move_ite (move_of_face habort) (move_ite (move_of_face herror) ?_))
  rw [← hgood]
  exact hgo _

theorem execWrite_move (c : Instr) (req : Requester) (addr : Nat) (bytes : List Byte) (wire : Wire) (s u : State)
    (hx : execWrite req addr bytes wire s = .next u) : ClockMove c (clockFace s) (clockFace u) := by
  have hanswer (y code ne) : clockFace (answerHost y code ne []) = clockFace y := face_of_only (by simp [offClock])
  unfold execWrite at hx
  split at hx
  · rw [← Host.Outcome.next.inj hx]
    refine hostTransaction_move c s wire _ [] _ fun y => move_ite ?_ (move_of_face (hanswer _ _ _))
    dsimp only
    rw [hanswer]
    exact applyWrite_move c y .host addr bytes
  · split at hx
    · rw [← Host.Outcome.next.inj hx]
      exact applyWrite_move c s req addr bytes
    · exact move_of_face (by rw [Host.Outcome.next.inj hx])

theorem execOpWrite_move (c : Instr) (hdr : CobaltHdr) (addr : Nat) (data : List Byte) (s u : State)
    (hx : execOpWrite hdr addr data s = .next u) : ClockMove c (clockFace s) (clockFace u) := by
  have htake : clockFace (takeRx s) = clockFace s := face_of_only (by simp [offClock])
  have hsend (y op a st d) : clockFace (sendRsp y hdr op a st d) = clockFace y := face_of_only (by simp [offClock])
  unfold execOpWrite at hx
  dsimp only at hx
  split at hx
  · exact move_of_face (by rw [Host.Outcome.next.inj hx])
  · rw [← htake]
    split at hx
    · rw [← Host.Outcome.next.inj hx, hsend]
      exact applyWrite_move c _ .chain addr data
    · rw [← Host.Outcome.next.inj hx]
      exact move_of_face (hsend _ _ _ _ _)

theorem dlmsWrite_move (c : Instr) (s : State) (port client upper addr : Nat) (w : Word) :
    ClockMove c (clockFace s) (clockFace (dlmsWrite s port client upper addr w)) := by
  have hanswer (y l) : clockFace (State.answer y l) = clockFace y := face_of_only (by simp [offClock])
  unfold dlmsWrite
  split
  · exact move_of_face rfl
  next assoc _ =>
    have hcount : clockFace (countApdu s assoc) = clockFace s := face_of_only (by simp [offClock])
    refine move_ite (move_of_face rfl) ?_
    dsimp only
    rw [hanswer, ← hcount]
    exact applyWrite_move c _ .app _ _

theorem answerLegal_move (c : Instr) (s : State) (r : LegalReq) : ClockMove c (clockFace s) (clockFace (answerLegal s r)) := by
  cases r with
  | ack req a d0 d1 => exact move_of_face (face_of_only (by simp [answerLegal, offClock]))
  | clear req => exact move_of_face (face_of_only (by simp [answerLegal, offClock]))
  | close req w => exact move_of_face (face_of_only (by simp [answerLegal, offClock]))
  | carmine req a w => exact move_ite (freeWord_move c s req a w) (move_of_face rfl)

theorem execLegalRequest_move (c : Instr) (s u : State) (hx : execLegalRequest s = .next u) : ClockMove c (clockFace s) (clockFace u) := by
  have hnote (r ok y) : clockFace (noteAnswer r ok y) = clockFace y := face_of_only (by simp [offClock])
  unfold execLegalRequest at hx
  split at hx
  · exact move_of_face (by rw [Host.Outcome.next.inj hx])
  next r rest _ =>
    have hpop : clockFace (s.mapHp fun h => { h with legal := rest }) = clockFace s := rfl
    rw [← Host.Outcome.next.inj hx]
    refine move_ite ?_ (move_of_face rfl)
    rw [hnote, ← hpop]
    exact answerLegal_move c _ r

end Sys2Proof.Laws
end

section
/-! The clock over all commands, and the end of its range (10 R240). -/

namespace Sys2Proof.Laws

open Sys2Proof.Machine

/-! ## Commands that use the clock's part and leave its face -/

theorem execFrameTick_face (inp : TickInput) (s u : State) (hx : execFrameTick inp s = .next u) : clockFace u = clockFace s := by
  unfold execFrameTick at hx
  split at hx
  · rw [Host.Outcome.next.inj hx]
  · split at hx
    · rw [← Host.Outcome.next.inj hx, bootTick_face]
    · rw [← Host.Outcome.next.inj hx, frameTick_face]

theorem execCrystalRestore_face (s u : State) (hx : execCrystalRestore s = .next u) : clockFace u = clockFace s := by
  rw [← Host.Outcome.next.inj hx]
  rfl

theorem execVbatlowClear_face (s u : State) (hx : execVbatlowClear s = .next u) : clockFace u = clockFace s := by
  unfold execVbatlowClear at hx
  dsimp only at hx
  split at hx <;>
  · rw [← Host.Outcome.next.inj hx]
    rfl

theorem execRtcTimeWrite_face (req : Requester) (lo hi : Option Word) (s u : State) (hx : execRtcTimeWrite req lo hi s = .next u) :
    clockFace u = clockFace s := by
  rw [← Host.Outcome.next.inj hx]
  exact face_of_ite (writeTime_face s lo hi) rfl

theorem execClockSetRecord_face (s u : State) (hx : execClockSetRecord s = .next u) : clockFace u = clockFace s := by
  unfold execClockSetRecord at hx
  split at hx
  · rw [Host.Outcome.next.inj hx]
  next d l _ =>
    have hbill (y a b w) : clockFace (pqClockSet (clockSetBilling y a b w)) = clockFace y := face_of_only (by simp [offClock])
    have hdue (y p b) : clockFace (privDue y p b) = clockFace y := face_of_only (by simp [offClock])
    split at hx
    · rw [Host.Outcome.next.inj hx]
    · rw [← Host.Outcome.next.inj hx, hbill, raise_face, hdue]
      rfl

theorem execRtccapGo_face (sub cyc : Nat) (s u : State) (hx : execRtccapGo sub cyc s = .next u) : clockFace u = clockFace s := by
  rw [← Host.Outcome.next.inj hx]
  exact face_of_ite (capture_face s sub cyc) rfl

theorem execPpsLoss_face (s u : State) (hx : execPpsLoss s = .next u) : clockFace u = clockFace s := by
  unfold execPpsLoss at hx
  split at hx
  · rw [← Host.Outcome.next.inj hx, raise_face]
    rfl
  · split at hx
    · rw [← Host.Outcome.next.inj hx]
      rfl
    · rw [Host.Outcome.next.inj hx]

theorem execSealPinChange_face (low : Bool) (s u : State) (hx : execSealPinChange low s = .next u) : clockFace u = clockFace s := by
  rw [← Host.Outcome.next.inj hx]
  split
  · rw [sourceEvent_face, mapTp_face]
  · rfl

theorem execSealDebounceComplete_face (s u : State) (hx : execSealDebounceComplete s = .next u) : clockFace u = clockFace s := by
  unfold execSealDebounceComplete at hx
  split at hx
  · rw [Host.Outcome.next.inj hx]
  · rw [← Host.Outcome.next.inj hx]
    refine face_of_ite (face_of_ite rfl rfl) ?_
    split
    · rfl
    · exact sealCloses_face _
    · rfl

theorem execTamperStaticEvent_face (held : HeldLevel) (s u : State) (hx : execTamperStaticEvent held s = .next u) :
    clockFace u = clockFace s := by
  unfold execTamperStaticEvent at hx
  split at hx
  · cases hx
  · split at hx
    · rw [← Host.Outcome.next.inj hx, sourceEvents_face]
      rfl
    · rw [← Host.Outcome.next.inj hx]
      rfl

theorem execLoopBurst_face (missing : List Nat) (s u : State) (hx : execLoopBurst missing s = .next u) : clockFace u = clockFace s := by
  have htake (y n) : clockFace (takeMode y n) = clockFace y := face_of_only (by simp [offClock])
  rw [← Host.Outcome.next.inj hx, sourceEvents_face, forEach_face _ _ htake, mapTp_face]

theorem execTamperWindowClose_face (src : Nat) (s u : State) (hx : execTamperWindowClose src s = .next u) : clockFace u = clockFace s := by
  unfold execTamperWindowClose at hx
  split at hx
  · cases hx
  · rw [← Host.Outcome.next.inj hx]
    exact face_of_ite (windowEnds_face s src) rfl

theorem execDieTempSample_face (temp : Int) (s u : State) (hx : execDieTempSample temp s = .next u) : clockFace u = clockFace s := by
  rw [← Host.Outcome.next.inj hx]
  exact face_of_ite (sourceEvent_face _ 10) rfl

theorem execSupplyGlitch_face (s u : State) (hx : execSupplyGlitch s = .next u) : clockFace u = clockFace s := by
  rw [← Host.Outcome.next.inj hx, sourceEvent_face]

theorem execSecondEvaluator_face (upset : Bool) (s u : State) (hx : execSecondEvaluator upset s = .next u) :
    clockFace u = clockFace s := by
  have hrelease (y n) : clockFace (release y n) = clockFace y := face_of_only (by simp [offClock])
  unfold execSecondEvaluator at hx
  dsimp only at hx
  split at hx
  · rw [Host.Outcome.next.inj hx]
  · split at hx
    · rw [Host.Outcome.next.inj hx]
    · split at hx
      · rw [← Host.Outcome.next.inj hx, hrelease, mapTp_face]
      · rw [← Host.Outcome.next.inj hx, decide2_face, mapTp_face]

theorem execPowerOn_face (clksel : Bool) (s u : State) (hx : execPowerOn clksel s = .next u) : clockFace u = clockFace s := by
  unfold execPowerOn at hx
  split at hx
  · rw [← Host.Outcome.next.inj hx, bootReset_face, mapTb_face]
  · rw [Host.Outcome.next.inj hx]

theorem execResetRelease_face (s u : State) (hx : execResetRelease s = .next u) : clockFace u = clockFace s := by
  unfold execResetRelease at hx
  split at hx
  · rw [← Host.Outcome.next.inj hx, bootReset_face]
  · rw [Host.Outcome.next.inj hx]

theorem execRunEntry_face (s u : State) (hx : execRunEntry s = .next u) : clockFace u = clockFace s := by
  have henter (y st) : clockFace (leaveStart (enterState y st)) = clockFace y := face_of_only (by simp [offClock])
  have hplan (y) : clockFace (restoreFallback (restoreActivation y)) = clockFace y := face_of_only (by simp [offClock])
  have hset (y) : clockFace (pqClockSet y) = clockFace y := face_of_only (by simp [offClock])
  have hints (y n) : clockFace (pqIntervals y n) = clockFace y := face_of_only (by simp [offClock])
  have hband (y) : clockFace (bandStart y) = clockFace y := face_of_only (by simp [offClock])
  unfold execRunEntry at hx
  split at hx
  · rw [← Host.Outcome.next.inj hx, hband, mapPq_face]
    simp [hints, hset, hplan, henter]
  · rw [Host.Outcome.next.inj hx]

theorem execRecoveryEntry_face (s u : State) (hx : execRecoveryEntry s = .next u) : clockFace u = clockFace s := by
  have henter (y st) : clockFace (enterState (leaveStart y) st) = clockFace y := face_of_only (by simp [offClock])
  have hplan (y) : clockFace (restoreActivation y) = clockFace y := face_of_only (by simp [offClock])
  have hclose (y) : clockFace (recoveryPlan (recoveryTariff (finAll (forEach points (closeNow 0 2) y)))) = clockFace y :=
    face_of_only (by simp [offClock])
  unfold execRecoveryEntry at hx
  split at hx
  · rw [Host.Outcome.next.inj hx]
  · split at hx
    · rw [Host.Outcome.next.inj hx]
    · rw [← Host.Outcome.next.inj hx, hclose]
      exact face_of_ite (by simp [hplan, henter]) (by simp [henter])

/-! ## Every command -/

/-- Every command makes one of the four moves. -/
theorem exec_clockMove (c : Instr) (s u : State) (hx : exec c s = .next u) : ClockMove c (clockFace s) (clockFace u) := by
  cases c with
  | rtcSecondEdge cyc => exact execRtcSecondEdge_move _ cyc s u hx
  | halt req sub relpps => exact execHalt_move _ req sub relpps s u hx
  | clockSet req dur => exact execClockSet_move _ req dur s u hx
  | haltTimeout => exact execHaltTimeout_move _ s u hx
  | ppsEdge interval offset dur => exact execPpsEdge_move _ interval offset dur s u hx
  | crystalStop => exact execCrystalStop_move _ s u hx
  | slateSupplySwitch cell => exact execSlateSupplySwitch_move _ cell s u hx
  | vbatLow mv => exact execVbatLow_move _ mv s u hx
  | slateColdStart => exact execSlateColdStart_move s u hx
  | slatePowerLoss => exact execSlatePowerLoss_move s u hx
  | registerWrite req addr w => exact execRegisterWrite_move _ req addr w s u hx
  | write req addr bytes wire => exact execWrite_move _ req addr bytes wire s u hx
  | opWrite hdr addr data => exact execOpWrite_move _ hdr addr data s u hx
  | legalRequest => exact execLegalRequest_move _ s u hx
  | set port client upper addr w => rw [← Host.Outcome.next.inj hx]; exact dlmsWrite_move _ s port client upper addr w
  | dlmsAction port client upper addr w => rw [← Host.Outcome.next.inj hx]; exact dlmsWrite_move _ s port client upper addr w
  | frameTick inp => exact move_of_face (execFrameTick_face inp s u hx)
  | crystalRestore => exact move_of_face (execCrystalRestore_face s u hx)
  | vbatlowClear => exact move_of_face (execVbatlowClear_face s u hx)
  | rtcTimeWrite req lo hi => exact move_of_face (execRtcTimeWrite_face req lo hi s u hx)
  | clockSetRecord => exact move_of_face (execClockSetRecord_face s u hx)
  | rtccapGo sub cyc => exact move_of_face (execRtccapGo_face sub cyc s u hx)
  | ppsLoss => exact move_of_face (execPpsLoss_face s u hx)
  | sealPinChange low => exact move_of_face (execSealPinChange_face low s u hx)
  | sealDebounceComplete => exact move_of_face (execSealDebounceComplete_face s u hx)
  | tamperStaticEvent held => exact move_of_face (execTamperStaticEvent_face held s u hx)
  | loopBurst missing => exact move_of_face (execLoopBurst_face missing s u hx)
  | tamperWindowClose src => exact move_of_face (execTamperWindowClose_face src s u hx)
  | dieTempSample temp => exact move_of_face (execDieTempSample_face temp s u hx)
  | supplyGlitch => exact move_of_face (execSupplyGlitch_face s u hx)
  | secondEvaluator upset => exact move_of_face (execSecondEvaluator_face upset s u hx)
  | powerOn clksel => exact move_of_face (execPowerOn_face clksel s u hx)
  | resetRelease => exact move_of_face (execResetRelease_face s u hx)
  | runEntry => exact move_of_face (execRunEntry_face s u hx)
  | recoveryEntry => exact move_of_face (execRecoveryEntry_face s u hx)
  | _ => exact move_of_face (face_of_parts (exec_only _ s u hx) rfl)

/-! ## The end of the range (10 R240) -/

/-- The second edge to the end of the range. -/
theorem execRtcSecondEdge_toEnd (cyc : Nat) (s : State) (hrun : s.rtc.halt = false) (hlast : s.rtc.sec + 1 = rtcMax) :
    ∃ x, execRtcSecondEdge cyc s = .next (slateEvent x 0xCB 0xFF none) ∧ x.rtc.sec = rtcMax ∧ x.rtc.valid = false ∧ x.rtc.invcause = 4 := by
  have hface : clockFace (clockInvalid (secondBegun cyc s) 4) = { sec := rtcMax, halt := s.rtc.halt, valid := false } := by
    rw [clockInvalid_face, secondBegun_face, hlast]
    rfl
  refine ⟨clockInvalid (secondBegun cyc s) 4, ?_, congrArg ClockFace.sec hface, congrArg ClockFace.valid hface, clockInvalid_invcause _ 4⟩
  rw [execRtcSecondEdge_eq cyc s hrun, if_neg (by omega), if_pos hlast]

theorem move_from_end {c : Instr} {p q : ClockFace} (h : ClockMove c p q) (hp : p.sec = rtcMax) (hq : q.sec ≠ rtcMax) :
    p.halt = true ∨ c = .slateColdStart ∨ c = .slatePowerLoss := by
  cases h with
  | kept hsec _ => exact absurd (hsec.trans hp) hq
  | edge hlt _ _ _ => exact absurd hp (Nat.ne_of_lt hlt)
  | haltEnd hhalt _ _ _ => exact .inl hhalt
  | lost hcmd _ => exact .inr hcmd

theorem move_keeps_end_invalid {c : Instr} {p q : ClockFace} (h : ClockMove c p q) (hrange : p.sec ≤ rtcMax)
    (hp : p.sec = rtcMax → p.valid = false) (hq : q.sec = rtcMax) : q.valid = false := by
  cases h with
  | kept hsec hvalid => exact Bool.eq_false_iff.mpr fun k => Bool.false_ne_true ((hp (hsec ▸ hq)).symm.trans (hvalid k))
  | edge _ _ _ hend => exact hend hq
  | haltEnd _ _ _ hend =>
    refine Bool.eq_false_iff.mpr fun k => ?_
    obtain ⟨hle, hv⟩ := hend hq k
    exact Bool.false_ne_true ((hp (Nat.le_antisymm hrange hle)).symm.trans hv)
  | lost _ hvalid => exact hvalid

theorem move_to_valid {c : Instr} {p q : ClockFace} (h : ClockMove c p q) (hp : p.valid = false) (hq : q.valid = true) :
    p.halt = true ∧ q.halt = false ∧ q.sec < rtcMax := by
  have hnot : p.valid ≠ true := Bool.eq_false_iff.mp hp
  cases h with
  | kept _ hvalid => exact absurd (hvalid hq) hnot
  | edge _ _ hvalid _ => exact absurd (hvalid hq) hnot
  | haltEnd hhalt hruns hrange hend => exact ⟨hhalt, hruns, Nat.lt_of_le_of_ne hrange fun k => hnot (hend k hq).2⟩
  | lost _ hvalid => exact absurd (hvalid.symm.trans hq) Bool.false_ne_true

theorem step_keeps_clockEndInvalid (s t : State) (hrange : ClockInRange s) (hs : ClockEndInvalid s) (hx : step s = .next t) :
    ClockEndInvalid t := by
  unfold step at hx
  split at hx
  · rwa [← Host.Outcome.next.inj hx]
  · exact move_keeps_end_invalid (exec_clockMove _ _ t hx) hrange.1 hs

end Sys2Proof.Laws

open Sys2Proof Sys2Proof.Machine Sys2Proof.Laws

/-- Settles O7: every command makes one of the four moves of the clock (`exec_clockMove`), and each clause holds of every move. -/
theorem clockStopsAtTheEndOfItsRange : Obligations.ClockStopsAtTheEndOfItsRange :=
  ⟨execRtcSecondEdge_toEnd, fun c s t hx => move_from_end (exec_clockMove c s t hx), step_keeps_clockEndInvalid,
    fun c s t hx => move_to_valid (exec_clockMove c s t hx)⟩
end

section
/-! What it is for a state to hold a source's sticky flag (11 R275), and how footprints carry that over. -/

namespace Sys2Proof.Laws

open Sys2Proof.Machine

/-- Every part but the tamper block and the seal's state in it. -/
def offTp : List Part :=
  [.pending, .sup, .tb, .fe, .cv, .qu, .pl, .met, .pq, .ls, .bl, .rtc, .er, .dp, .tr, .hp, .ser, .cb, .nv, .fresh,
   .frame, .mode, .plan, .clock]

@[simp] theorem mem_offTp (p : Part) : p ∈ offTp ↔ p ≠ .tp ∧ p ≠ .seal := by
  cases p <;> decide

/-- A state of `P` has the sticky flag of source `n`. With `P` the states whose tamper block is that of `t`, this says that `t` has the
flag (`held_iff`); in this form the footprint lemmas rewrite inside `P`, so that an operation off the tamper block needs no lemma of its
own here. -/
def Held (n : Nat) (P : State → Prop) : Prop := ∃ x, (srcAt x n).sticky = true ∧ P x

theorem held_iff {n : Nat} {t : State} : Held n (Only offTp · t) ↔ (srcAt t n).sticky = true := by
  constructor
  · rintro ⟨x, hx, h⟩
    have htp : t.tp = x.tp := h .tp rfl
    rwa [srcAt, htp]
  · exact fun h => ⟨t, h, only_refl _ t⟩

/-- A change of the tamper block outside its sources neither sets nor clears a flag. -/
theorem held_congr {n : Nat} {s t : State} (h : t.tp.src = s.tp.src) : Held n (Only offTp · t) = Held n (Only offTp · s) := by
  rw [held_iff.eq, held_iff.eq, srcAt, srcAt, h]

theorem held_of_parts {n : Nat} {ps : List Part} {s t : State} (hs : Held n (Only offTp · s)) (h : Only ps s t)
    (w : ps.contains .tp = false) : Held n (Only offTp · t) := by
  rw [held_congr (congrArg Tamper.src (h .tp w))]
  exact hs

@[simp] theorem held_ite {n : Nat} {c : Prop} [Decidable c] {P Q : State → Prop} :
    Held n (fun x => if c then P x else Q x) = if c then Held n P else Held n Q := by
  split <;> rfl

@[simp] theorem forEach_held {α : Type} {n : Nat} {x : State} {l : List α} {g : State → α → State}
    (h : ∀ y a, Held n (Only offTp · (g y a)) = Held n (Only offTp · y)) :
    Held n (Only offTp · (forEach l g x)) = Held n (Only offTp · x) := by
  induction l generalizing x with
  | nil => rfl
  | cons a l ih => exact ih.trans (h x a)

@[simp] theorem mapTp_held (n s f) (h : ∀ t, (f t).src = t.src) : Held n (Only offTp · (State.mapTp s f)) = Held n (Only offTp · s) :=
  held_congr (h s.tp)

theorem setSrc_iff (n s k x) : Held n (Only offTp · (State.setSrc s k x)) ↔ if n = k then x.sticky = true else Held n (Only offTp · s) := by
  rw [held_iff, held_iff]
  split
  next h => rw [h, srcAt_setSrc]
  next h => rw [srcAt_setSrc_ne s h]

@[simp] theorem setSrc_held (n s k x) (h : x.sticky = (srcAt s k).sticky) :
    Held n (Only offTp · (State.setSrc s k x)) = Held n (Only offTp · s) := by
  rw [(setSrc_iff n s k x).eq, h]
  split
  next hn => rw [hn, held_iff.eq]
  · rfl

end Sys2Proof.Laws
end

section
/-! The sources: counting, windows and declarations set flags and clear none (11 R265 to R275). -/

namespace Sys2Proof.Laws

open Sys2Proof.Machine

/-! ## A declaration -/

@[simp] theorem pendDec_held (n s d b) : Held n (Only offTp · (pendDec s d b)) = Held n (Only offTp · s) := by
  simp [pendDec]
@[simp] theorem eraseKeys_held (n s m) : Held n (Only offTp · (eraseKeys s m)) = Held n (Only offTp · s) := by
  simp [eraseKeys]

/-- Setting the flags of the sources of a list. -/
theorem setStickies_held (n : Nat) (l : List Nat) (sec : State → Nat) (inv : State → Bool) (s : State) :
    Held n (Only offTp · (forEach l (fun s k => s.setSrc k { srcAt s k with sticky := true, dsec := sec s, dtinv := inv s }) s)) =
      (n ∈ l ∨ Held n (Only offTp · s)) := by
  induction l generalizing s with
  | nil => simp [forEach]
  | cons k l ih =>
    rw [List.mem_cons, or_assoc, or_left_comm]
    refine (ih _).trans (congrArg (n ∈ l ∨ ·) ((setSrc_iff n s k _).eq.trans ?_))
    by_cases h : n = k <;> simp [h]

/-- A declaration sets the flags of its sources and keeps the others. -/
@[simp] theorem declare_held (n s l) : Held n (Only offTp · (declare s l)) = (n ∈ l ∨ Held n (Only offTp · s)) := by
  unfold declare
  split
  next h => simp [List.isEmpty_iff.mp h]
  · simp [setStickies_held]

/-! ## An event and its window -/

@[simp] theorem windowEnds_held (n s k) : Held n (Only offTp · (windowEnds s k)) = Held n (Only offTp · s) := by
  simp [windowEnds]

theorem countEvent_sticky (x : Source) (now : Nat) (stat loop : Bool) : (countEvent x now stat loop).1.sticky = x.sticky := by
  unfold countEvent
  dsimp only
  split <;> rfl

/-- Count one event of a source; the sources that it declares stand behind the state. -/
def countOne (stat loop : Bool) (a : State × List Nat) (n : Nat) : State × List Nat :=
  let s := if windowOver a.1 n then windowEnds a.1 n else a.1
  let c := countEvent (srcAt s n) s.tp.slate stat loop
  (s.setSrc n c.1, if c.2 then a.2 ++ [n] else a.2)

/-- The sources of a list whose events count: they are on and run on the present supply (11 R266). -/
def counted (s : State) (l : List Nat) : List Nat := l.filter fun n => srcMode s n != 0 && (runsOnCell n || !s.rtc.onCell)

theorem sourceEvents_eq (s : State) (l : List Nat) (stat loop : Bool) :
    sourceEvents s l stat loop =
      declare ((counted s l).foldl (countOne stat loop) (s, [])).1 ((counted s l).foldl (countOne stat loop) (s, [])).2 := rfl

theorem countOne_held (n : Nat) (stat loop : Bool) (a : State × List Nat) (k : Nat) :
    Held n (Only offTp · (countOne stat loop a k).1) = Held n (Only offTp · a.1) := by
  simp [countOne, countEvent_sticky]

theorem countAll_held (n : Nat) (stat loop : Bool) (l : List Nat) (a : State × List Nat) :
    Held n (Only offTp · (l.foldl (countOne stat loop) a).1) = Held n (Only offTp · a.1) := by
  induction l generalizing a with
  | nil => rfl
  | cons k l ih => exact (ih _).trans (countOne_held n stat loop a k)

/-- Events keep the flags that are set. -/
@[simp] theorem sourceEvents_held (n s l stat loop) (h : Held n (Only offTp · s)) : Held n (Only offTp · (sourceEvents s l stat loop)) := by
  rw [sourceEvents_eq, declare_held, countAll_held]
  exact .inr h
@[simp] theorem sourceEvent_held (n s k) (h : Held n (Only offTp · s)) : Held n (Only offTp · (sourceEvent s k)) :=
  sourceEvents_held n s [k] false false h
@[simp] theorem takeMode_held (n s k) : Held n (Only offTp · (takeMode s k)) = Held n (Only offTp · s) := by
  simp [takeMode]

/-! ## The event that declares -/

@[simp] theorem slateEvent_tp (s : State) (code chan : Nat) (v : Option Int) : (slateEvent s code chan v).tp = s.tp :=
  (show Only offTp s (slateEvent s code chan v) by simp) .tp rfl

/-- The end of a window changes neither the registers of another source nor the Slate time. -/
theorem windowEnds_other (s : State) {n k : Nat} (h : n ≠ k) :
    srcAt (windowEnds s k) n = srcAt s n ∧ (windowEnds s k).tp.slate = s.tp.slate := by
  unfold windowEnds
  dsimp only
  split
  · exact ⟨by rw [srcAt, slateEvent_tp]; exact srcAt_setSrc_ne s h _, by rw [slateEvent_tp]; rfl⟩
  · exact ⟨srcAt_setSrc_ne s h _, rfl⟩

/-- Nor does an event. -/
theorem countOne_other (stat loop : Bool) (a : State × List Nat) {n k : Nat} (h : n ≠ k) :
    srcAt (countOne stat loop a k).1 n = srcAt a.1 n ∧ (countOne stat loop a k).1.tp.slate = a.1.tp.slate := by
  unfold countOne
  dsimp only
  rw [srcAt_setSrc_ne _ h]
  split
  · exact windowEnds_other a.1 h
  · exact ⟨rfl, rfl⟩

theorem countOne_declared (stat loop : Bool) (a : State × List Nat) (k n : Nat) (h : n ∈ a.2) : n ∈ (countOne stat loop a k).2 :=
  iteInduction (motive := (n ∈ ·)) (fun _ => List.mem_append_left _ h) (fun _ => h)

theorem countAll_declared (stat loop : Bool) (l : List Nat) (a : State × List Nat) (n : Nat) (h : n ∈ a.2) :
    n ∈ (l.foldl (countOne stat loop) a).2 := by
  induction l generalizing a with
  | nil => exact h
  | cons k l ih => exact ih _ (countOne_declared stat loop a k n h)

/-- A source whose event declares it stands in the list to declare, whatever the other sources of the cycle do. -/
theorem countAll_declares (stat loop : Bool) (l : List Nat) (a : State × List Nat) (n : Nat) (hmem : n ∈ l)
    (hwin : windowOver a.1 n = false) (hdecl : (countEvent (srcAt a.1 n) a.1.tp.slate stat loop).2 = true) :
    n ∈ (l.foldl (countOne stat loop) a).2 := by
  induction l generalizing a with
  | nil => cases hmem
  | cons k l ih =>
    by_cases hk : n = k
    · subst hk
      refine countAll_declared stat loop l _ n ?_
      simp [countOne, hwin, hdecl]
    · obtain ⟨hsrc, hslate⟩ := countOne_other stat loop a hk
      refine ih _ ((List.mem_cons.mp hmem).resolve_left hk) ?_ ?_
      · rwa [windowOver, hsrc, hslate]
      · rwa [hsrc, hslate]

theorem mem_counted {s : State} {l : List Nat} {n : Nat} (hmem : n ∈ l) (hon : srcMode s n ≠ 0)
    (hsup : runsOnCell n = true ∨ s.rtc.onCell = false) : n ∈ counted s l := by
  simp [counted, hmem, hon, hsup]

theorem sourceEvents_sets (l : List Nat) (stat loop : Bool) (n : Nat) (s : State) (hmem : n ∈ l) (hon : srcMode s n ≠ 0)
    (hsup : runsOnCell n = true ∨ s.rtc.onCell = false) (hwin : windowOver s n = false)
    (hdecl : (countEvent (srcAt s n) s.tp.slate stat loop).2 = true) : (srcAt (sourceEvents s l stat loop) n).sticky = true := by
  rw [← held_iff, sourceEvents_eq, declare_held]
  exact .inl (countAll_declares stat loop _ _ n (mem_counted hmem hon hsup) hwin hdecl)

end Sys2Proof.Laws
end

section
/-! `TPSTICKY` shows the flags (11 Table 11.6). -/

namespace Sys2Proof.Laws

open Sys2Proof.Machine

theorem maskOf_succ (k : Nat) (f : Nat → Bool) : maskOf (k + 1) f = maskOf k f + flagAt (f k) k := by
  simp [maskOf, List.range_succ]

theorem maskOf_lt (k : Nat) (f : Nat → Bool) : maskOf k f < 2 ^ k := by
  induction k with
  | zero => exact Nat.one_pos
  | succ k ih =>
    have hflag : flagAt (f k) k ≤ 2 ^ k := by unfold flagAt; split <;> simp
    rw [maskOf_succ, Nat.pow_succ]
    omega

theorem maskOf_testBit (k : Nat) (f : Nat → Bool) (n : Nat) (h : n < k) : (maskOf k f).testBit n = f n := by
  induction k with
  | zero => cases h
  | succ k ih =>
    rw [maskOf_succ, Nat.add_comm]
    unfold flagAt
    split
    next hk =>
      obtain hn | rfl := Nat.lt_succ_iff_lt_or_eq.mp h
      · rw [Nat.testBit_two_pow_add_gt hn, ih hn]
      · rw [Nat.testBit_two_pow_add_eq, Nat.testBit_lt_two_pow (maskOf_lt n f), hk]; rfl
    next hk =>
      rw [Nat.zero_add]
      obtain hn | rfl := Nat.lt_succ_iff_lt_or_eq.mp h
      · exact ih hn
      · rw [Nat.testBit_lt_two_pow (maskOf_lt n f), Bool.eq_false_iff.mpr hk]

/-- The address of `TPSTICKY`. -/
def tpstickyAddr : Nat := 0x210010

theorem readWord_tpsticky (s : State) (n : Nat) (h : n < 16) : (readWord s .host tpstickyAddr).getLsbD n = (srcAt s n).sticky := by
  have hword : readWord s .host tpstickyAddr = word (stickyMask s) := by
    have hstored : storedAddr tpstickyAddr = false := rfl
    rw [readWord, hstored, Bool.and_false]
    rfl
  rw [hword, word, BitVec.getLsbD_ofNat, stickyMask, maskOf_testBit 16 _ n h, decide_eq_true (by omega), Bool.true_and]

end Sys2Proof.Laws
end

section
/-! The clock, the delay pool and the latches keep every flag. From here on, beside the footprint of each operation that uses the tamper
block stands one lemma on the flags; an operation without one is seen through by its footprint. -/

namespace Sys2Proof.Laws

open Sys2Proof.Machine

/-! ## The delay pool, the latches and the release of what flags order -/

@[simp] theorem poolNext_held (n s) : Held n (Only offTp · (poolNext s).2) = Held n (Only offTp · s) := by
  unfold poolNext
  split <;> simp
@[simp] theorem refreshPool_held (n s) : Held n (Only offTp · (refreshPool s)) = Held n (Only offTp · s) := by
  simp [refreshPool]
@[simp] theorem releaseChecks_held (n s) : Held n (Only offTp · (releaseChecks s)) = Held n (Only offTp · s) := by
  simp [releaseChecks]
@[simp] theorem processLatches_held (n s) : Held n (Only offTp · (processLatches s)) = Held n (Only offTp · s) := by
  unfold processLatches
  dsimp only
  rw [mapTp_held, forEach_held]
  · intro y x
    split
    · split <;> simp
    · simp
  · exact fun _ => rfl

/-! ## The clock and the Slate time (10) -/

@[simp] theorem clockInvalid_held (n s cause) : Held n (Only offTp · (clockInvalid s cause)) = Held n (Only offTp · s) := by
  simp [clockInvalid]
@[simp] theorem subTick_held (n s) : Held n (Only offTp · (subTick s)) = Held n (Only offTp · s) := by
  simp [subTick]
@[simp] theorem rtcTick_held (n s) : Held n (Only offTp · (rtcTick s)) = Held n (Only offTp · s) := by
  simp [rtcTick]
@[simp] theorem timebaseEdge_held (n s cyc) (h : Held n (Only offTp · s)) : Held n (Only offTp · (timebaseEdge s cyc)) := by
  simp [timebaseEdge, h]
@[simp] theorem resumeAt_held (n s t) : Held n (Only offTp · (resumeAt s t)) = Held n (Only offTp · s) := by
  simp [resumeAt]
@[simp] theorem clearHalt_held (n s dur) : Held n (Only offTp · (clearHalt s dur)) = Held n (Only offTp · s) := by
  simp [clearHalt]

end Sys2Proof.Laws
end

section
/-! The checks of critical values, the metrology and the display keep every flag: of the tamper block they change the seal and the metering
tamper only. -/

namespace Sys2Proof.Laws

open Sys2Proof.Machine

/-! ## Checks and commits -/

@[simp] theorem sealCheck_held (n s) : Held n (Only offTp · (sealCheck s)) = Held n (Only offTp · s) := by
  simp [sealCheck]
@[simp] theorem checkWork_held (n s c) : Held n (Only offTp · (checkWork s c)) = Held n (Only offTp · s) := by
  unfold checkWork
  dsimp only
  (repeat' split) <;> simp
@[simp] theorem transferFailed_held (n s c path) : Held n (Only offTp · (transferFailed s c path)) = Held n (Only offTp · s) := by
  simp [transferFailed]
@[simp] theorem commitCrit_held (n s c) : Held n (Only offTp · (commitCrit s c)) = Held n (Only offTp · s) := by
  simp [commitCrit]
@[simp] theorem commitList_held (n l s) : Held n (Only offTp · (commitList l s)) = Held n (Only offTp · s) := by
  simp [commitList]
@[simp] theorem checkDue_held (n s) : Held n (Only offTp · (checkDue s)) = Held n (Only offTp · s) := by
  unfold checkDue
  refine forEach_held fun y d => ?_
  split <;> simp
@[simp] theorem commitTick_held (n s) : Held n (Only offTp · (commitTick s)) = Held n (Only offTp · s) := by
  simp [commitTick]
@[simp] theorem pairFailed_held (n path s c) : Held n (Only offTp · (pairFailed path s c)) = Held n (Only offTp · s) := by
  unfold pairFailed
  split <;> simp

/-! ## Energy, pulses and the injected faults -/

@[simp] theorem storageInject_held (n s w) : Held n (Only offTp · (storageInject s w)) = Held n (Only offTp · s) := by
  simp [storageInject]
@[simp] theorem injectionAct_held (n s) : Held n (Only offTp · (injectionAct s)) = Held n (Only offTp · s) := by
  unfold injectionAct
  split <;> simp
@[simp] theorem addQuanta_held (n s p q x) : Held n (Only offTp · (addQuanta s p q x)) = Held n (Only offTp · s) := by
  simp [addQuanta]
@[simp] theorem applyInc_held (n s p q a b) : Held n (Only offTp · (applyInc s p q a b)) = Held n (Only offTp · s) := by
  simp [applyInc]
@[simp] theorem applyFrame_held (n s) : Held n (Only offTp · (applyFrame s)) = Held n (Only offTp · s) := by
  unfold applyFrame
  split
  · rfl
  · dsimp only [atFrame]
    (repeat' split) <;> simp
@[simp] theorem applyPulse_held (n f s o) : Held n (Only offTp · (applyPulse f s o)) = Held n (Only offTp · s) := by
  simp [applyPulse]
@[simp] theorem applyPulses_held (n s f) : Held n (Only offTp · (applyPulses s f)) = Held n (Only offTp · s) := by
  simp [applyPulses]

/-! ## Metering tamper and the windows -/

@[simp] theorem mtDeclare_held (n s pl p m f) : Held n (Only offTp · (mtDeclare s pl p m f)) = Held n (Only offTp · s) := by
  simp [mtDeclare]
@[simp] theorem mtEnd_held (n s p m ticks) : Held n (Only offTp · (mtEnd s p m ticks)) = Held n (Only offTp · s) := by
  simp [mtEnd]
@[simp] theorem mtStep_held (n pl f p s m) : Held n (Only offTp · (mtStep pl f p s m)) = Held n (Only offTp · s) := by
  simp [mtStep]
@[simp] theorem mtEval_held (n pl f s p) : Held n (Only offTp · (mtEval pl f s p)) = Held n (Only offTp · s) := by
  simp [mtEval]
@[simp] theorem closeWindow_held (n s b) : Held n (Only offTp · (closeWindow s b)) = Held n (Only offTp · s) := by
  unfold closeWindow
  split <;> simp
@[simp] theorem closeDue_held (n s) : Held n (Only offTp · (closeDue s)) = Held n (Only offTp · s) := by
  simp [closeDue]
@[simp] theorem metTick_held (n s) : Held n (Only offTp · (metTick s)) = Held n (Only offTp · s) := by
  simp [metTick]
@[simp] theorem endLaneFrame_held (n s) : Held n (Only offTp · (endLaneFrame s)) = Held n (Only offTp · s) := by
  unfold endLaneFrame
  dsimp only
  (repeat' split) <;> simp

/-! ## The display -/

@[simp] theorem drawIndicators_held (n s) : Held n (Only offTp · (drawIndicators s)) = Held n (Only offTp · s) := by
  simp [drawIndicators]
@[simp] theorem drawItem_held (n s) : Held n (Only offTp · (drawItem s)) = Held n (Only offTp · s) := by
  simp [drawItem]
@[simp] theorem showItem_held (n s i) : Held n (Only offTp · (showItem s i)) = Held n (Only offTp · s) := by
  simp [showItem]
@[simp] theorem nextItem_held (n s) : Held n (Only offTp · (nextItem s)) = Held n (Only offTp · s) := by
  simp [nextItem]
@[simp] theorem displayTick_held (n s) : Held n (Only offTp · (displayTick s)) = Held n (Only offTp · s) := by
  unfold displayTick
  dsimp only
  (repeat' split) <;> simp

end Sys2Proof.Laws
end

section
/-! The loader, the firmware store and the watchdogs keep every flag. -/

namespace Sys2Proof.Laws

open Sys2Proof.Machine

/-! ## The loader (05) -/

@[simp] theorem setMark_held (n s m) : Held n (Only offTp · (setMark s m)) = Held n (Only offTp · s) := by
  simp [setMark]
@[simp] theorem endActivation_held (n s code) : Held n (Only offTp · (endActivation s code)) = Held n (Only offTp · s) := by
  simp [endActivation]
@[simp] theorem plBegin_held (n s req) : Held n (Only offTp · (plBegin s req)) = Held n (Only offTp · s) := by
  unfold plBegin
  (repeat' split) <;> simp
@[simp] theorem setPending_held (n s f) : Held n (Only offTp · (setPending s f)) = Held n (Only offTp · s) := by
  simp [setPending]
@[simp] theorem setArmed_held (n s f) : Held n (Only offTp · (setArmed s f)) = Held n (Only offTp · s) := by
  simp [setArmed]
@[simp] theorem plActivate_held (n s req) : Held n (Only offTp · (plActivate s req)) = Held n (Only offTp · s) := by
  unfold plActivate
  dsimp only
  (repeat' split) <;> simp
@[simp] theorem plArm_held (n s f hdr) : Held n (Only offTp · (plArm s f hdr)) = Held n (Only offTp · s) := by
  unfold plArm
  (repeat' split) <;> simp
@[simp] theorem plCommit_held (n s hdr addr) : Held n (Only offTp · (plCommit s hdr addr)) = Held n (Only offTp · s) := by
  simp [plCommit]
@[simp] theorem plCancel_held (n s req) : Held n (Only offTp · (plCancel s req)) = Held n (Only offTp · s) := by
  simp [plCancel]
@[simp] theorem loaderDone_held (n s) : Held n (Only offTp · (loaderDone s)) = Held n (Only offTp · s) := by
  simp [loaderDone]
@[simp] theorem handOver_held (n s new) : Held n (Only offTp · (handOver s new)) = Held n (Only offTp · s) := by
  simp [handOver]
@[simp] theorem restoreActivation_held (n s) : Held n (Only offTp · (restoreActivation s)) = Held n (Only offTp · s) := by
  simp [restoreActivation]

/-! ## Firmware, keys and the application watchdog (14, 16) -/

@[simp] theorem fwAcceptReq_held (n s req) : Held n (Only offTp · (fwAcceptReq s req)) = Held n (Only offTp · s) := by
  unfold fwAcceptReq
  (repeat' split) <;> simp
@[simp] theorem keyGo_held (n s req w) : Held n (Only offTp · (keyGo s req w)) = Held n (Only offTp · s) := by
  unfold keyGo
  dsimp only
  (repeat' split) <;> simp
@[simp] theorem abandonPlan_held (n s) : Held n (Only offTp · (abandonPlan s)) = Held n (Only offTp · s) := by
  unfold abandonPlan
  (repeat' split) <;> simp
@[simp] theorem appExpiry_held (n s) : Held n (Only offTp · (appExpiry s)) = Held n (Only offTp · s) := by
  simp [appExpiry]
@[simp] theorem kickApp_held (n s req w) : Held n (Only offTp · (kickApp s req w)) = Held n (Only offTp · s) := by
  simp [kickApp]

end Sys2Proof.Laws
end

section
/-! Requests and decisions keep every flag but those that a granted clear names. -/

namespace Sys2Proof.Laws

open Sys2Proof.Machine

/-! ## Register writes of the RWL class (01 R18) -/

@[simp] theorem calCtl_held (n s w) : Held n (Only offTp · (calCtl s w)) = Held n (Only offTp · s) := by
  simp [calCtl]
@[simp] theorem reinApply_held (n s w) : Held n (Only offTp · (reinApply s w)) = Held n (Only offTp · s) := by
  simp [reinApply]
@[simp] theorem clrApply_held (n s w) : Held n (Only offTp · (clrApply s w)) = Held n (Only offTp · s) := by
  simp [clrApply]
@[simp] theorem rwlApply_held (n s a w) : Held n (Only offTp · (rwlApply s a w)) = Held n (Only offTp · s) := by
  unfold rwlApply
  split <;> simp
@[simp] theorem applyRwl_held (n s) : Held n (Only offTp · (applyRwl s)) = Held n (Only offTp · s) := by
  simp [applyRwl]
@[simp] theorem clrRefused_held (n s bin) : Held n (Only offTp · (clrRefused s bin)) = Held n (Only offTp · s) := by
  simp [clrRefused]
@[simp] theorem rwlRefuse_held (n s a w) : Held n (Only offTp · (rwlRefuse s a w)) = Held n (Only offTp · s) := by
  unfold rwlRefuse
  (repeat' split) <;> simp
@[simp] theorem refuseRwl_held (n s r) : Held n (Only offTp · (refuseRwl s r)) = Held n (Only offTp · s) := by
  simp [refuseRwl]
@[simp] theorem answerRwl_held (n s r) : Held n (Only offTp · (answerRwl s r)) = Held n (Only offTp · s) := by
  simp [answerRwl]
@[simp] theorem dropRwl_held (n s) : Held n (Only offTp · (dropRwl s)) = Held n (Only offTp · s) := by
  simp [dropRwl]
@[simp] theorem postRwl_held (n s req ws) : Held n (Only offTp · (postRwl s req ws)) = Held n (Only offTp · s) := by
  simp [postRwl]

/-! ## The seal (11 R260 to R262) -/

@[simp] theorem sealOpens_held (n s) : Held n (Only offTp · (sealOpens s)) = Held n (Only offTp · s) := by
  simp [sealOpens]
@[simp] theorem sealDenied_held (n s bin) : Held n (Only offTp · (sealDenied s bin)) = Held n (Only offTp · s) := by
  simp [sealDenied]
@[simp] theorem sealCloses_held (n s) : Held n (Only offTp · (sealCloses s)) = Held n (Only offTp · s) := by
  simp [sealCloses]

/-! ## The granted clear and the other decisions (11 R268, R276) -/

/-- Clearing the flags of the sources of a list keeps the flag of any other source. -/
theorem clearStickies_held (n : Nat) (l : List Nat) (s : State) (h : n ∉ l) :
    Held n (Only offTp · (forEach l (fun s k => s.setSrc k { srcAt s k with sticky := false }) s)) = Held n (Only offTp · s) := by
  induction l generalizing s with
  | nil => rfl
  | cons k l ih =>
    obtain ⟨hk, hl⟩ := not_or.mp (mt List.mem_cons.mpr h)
    exact (ih _ hl).trans ((setSrc_iff n s k _).eq.trans (if_neg hk))

@[simp] theorem stickyCleared_held (n s m) (h : bitN m n = false) :
    Held n (Only offTp · (stickyCleared s m)) = Held n (Only offTp · s) := by
  simp [stickyCleared, clearStickies_held, h]
/-- A granted decision clears the flags of its mask, where it is a clear, and no other. -/
theorem granted_held (n s d) (h : ∀ m, d = .stickyClear m → bitN m n = false) :
    Held n (Only offTp · (granted s d)) = Held n (Only offTp · s) := by
  cases d with
  | stickyClear m => exact stickyCleared_held n s m (h m rfl)
  | _ => simp [granted]
@[simp] theorem refused_held (n s d) : Held n (Only offTp · (refused s d)) = Held n (Only offTp · s) := by
  unfold refused
  split <;> simp
/-- Only a clear that both evaluators grant takes effect. -/
theorem decide2_held (n s d second) (h : ∀ m, d.dec = .stickyClear m → d.first = true → bitN m n = false) :
    Held n (Only offTp · (decide2 s d second)) = Held n (Only offTp · s) := by
  unfold decide2
  dsimp only
  split
  · simp
  · split
    next hboth =>
      have hfirst : d.first = true := (Bool.and_eq_true_iff.mp hboth).1
      rw [granted_held n _ d.dec fun m hm => h m hm hfirst]
      simp
    · simp

end Sys2Proof.Laws
end

section
/-! Register writes and reads keep every flag (15, 17). -/

namespace Sys2Proof.Laws

open Sys2Proof.Machine

/-! ## Writes -/

@[simp] theorem writePlctl_held (n s req w) : Held n (Only offTp · (writePlctl s req w)) = Held n (Only offTp · s) := by
  unfold writePlctl
  split <;> simp
@[simp] theorem wrPlan_held (n s req o w) : Held n (Only offTp · (wrPlan s req o w)) = Held n (Only offTp · s) := by
  unfold wrPlan
  split <;> simp
@[simp] theorem writeRtcctl_held (n s req w) : Held n (Only offTp · (writeRtcctl s req w)) = Held n (Only offTp · s) := by
  unfold writeRtcctl
  dsimp only
  (repeat' split) <;> simp
@[simp] theorem wrRtc_held (n s req o w) : Held n (Only offTp · (wrRtc s req o w)) = Held n (Only offTp · s) := by
  unfold wrRtc
  (repeat' split) <;> simp
@[simp] theorem wrTamper_held (n s o w) : Held n (Only offTp · (wrTamper s o w)) = Held n (Only offTp · s) := by
  unfold wrTamper
  split <;> simp
@[simp] theorem writeTrfwctl_held (n s req w) : Held n (Only offTp · (writeTrfwctl s req w)) = Held n (Only offTp · s) := by
  simp [writeTrfwctl]
@[simp] theorem wrTrust_held (n s req o w) : Held n (Only offTp · (wrTrust s req o w)) = Held n (Only offTp · s) := by
  unfold wrTrust
  (repeat' split) <;> simp
@[simp] theorem wrMode_held (n s req o w) : Held n (Only offTp · (wrMode s req o w)) = Held n (Only offTp · s) := by
  unfold wrMode
  split <;> simp
@[simp] theorem freeWord_held (n s req a w) : Held n (Only offTp · (freeWord s req a w)) = Held n (Only offTp · s) := by
  unfold freeWord
  (repeat' split) <;> simp
@[simp] theorem applyWord_held (n req s e) : Held n (Only offTp · (applyWord req s e)) = Held n (Only offTp · s) := by
  unfold applyWord
  split <;> simp
@[simp] theorem applyWrite_held (n s req a bs) : Held n (Only offTp · (applyWrite s req a bs).s) = Held n (Only offTp · s) := by
  simp [applyWrite]
@[simp] theorem answerLegal_held (n s r) : Held n (Only offTp · (answerLegal s r)) = Held n (Only offTp · s) := by
  unfold answerLegal
  split <;> simp
@[simp] theorem dlmsWrite_held (n s port client upper addr w) :
    Held n (Only offTp · (dlmsWrite s port client upper addr w)) = Held n (Only offTp · s) := by
  unfold dlmsWrite
  split <;> simp

/-! ## Reads -/

@[simp] theorem checkPairOn_held (n path req s e) : Held n (Only offTp · (checkPairOn path req s e)) = Held n (Only offTp · s) := by
  simp [checkPairOn]
@[simp] theorem checkPair_held (n req s e) : Held n (Only offTp · (checkPair req s e)) = Held n (Only offTp · s) := by
  simp [checkPair]
@[simp] theorem readEffects_held (n s req a len) : Held n (Only offTp · (readEffects s req a len)) = Held n (Only offTp · s) := by
  simp [readEffects]
@[simp] theorem runRead_held (n s req a len) : Held n (Only offTp · (runRead s req a len).1) = Held n (Only offTp · s) := by
  simp [runRead]

end Sys2Proof.Laws
end

section
/-! The frame tick and the start-up keep every flag. -/

namespace Sys2Proof.Laws

open Sys2Proof.Machine

/-! ## The frame tick -/

@[simp] theorem tickPins_held (n s inp) : Held n (Only offTp · (tickPins s inp)) = Held n (Only offTp · s) := by
  simp [tickPins]
@[simp] theorem endFrame_held (n s inp) (h : Held n (Only offTp · s)) : Held n (Only offTp · (endFrame s inp)) := by
  have hcapture (y) : Held n (Only offTp · (captureFrame (captureTriggers y inp))) = Held n (Only offTp · y) := by simp
  unfold endFrame
  dsimp only
  rw [hcapture]
  exact sourceEvents_held n _ _ _ _ (by simp [h])
@[simp] theorem countTick_held (n s) : Held n (Only offTp · (countTick s)) = Held n (Only offTp · s) := by
  simp [countTick]
@[simp] theorem bootTick_held (n s) : Held n (Only offTp · (bootTick s)) = Held n (Only offTp · s) := by
  simp [bootTick]
@[simp] theorem frameTick_held (n s inp) (h : Held n (Only offTp · s)) : Held n (Only offTp · (frameTick s inp)) := by
  simp [frameTick, h]

/-! ## BOOT and START (16 R377, R386) -/

@[simp] theorem bootParts_held (n s ok) : Held n (Only offTp · (bootParts s ok)) = Held n (Only offTp · s) :=
  held_congr rfl
@[simp] theorem bootReset_held (n s) : Held n (Only offTp · (bootReset s)) = Held n (Only offTp · s) := by
  simp [bootReset]
@[simp] theorem discardReport_held (n s) : Held n (Only offTp · (discardReport s)) = Held n (Only offTp · s) := by
  simp [discardReport]
@[simp] theorem startStep1_held (n s) : Held n (Only offTp · (startStep1 s)) = Held n (Only offTp · s) := by
  unfold startStep1
  dsimp only
  (repeat' split) <;> simp
@[simp] theorem restoreLatches_held (n s) : Held n (Only offTp · (restoreLatches s)) = Held n (Only offTp · s) := by
  simp [restoreLatches]

end Sys2Proof.Laws
end

section
/-! Every command keeps every flag but a loss of the Slate domain and the granted clear (11 R275, R276). -/

namespace Sys2Proof.Laws

open Sys2Proof.Machine

/-- Every state that an outcome goes on with has the flag. -/
def HeldAfter (n : Nat) (o : Out) : Prop := ∀ u, o = .next u → Held n (Only offTp · u)

@[simp] theorem heldAfter_next (n t) : HeldAfter n (.next t) = Held n (Only offTp · t) :=
  propext ⟨fun h => h t rfl, fun h _ hu => Host.Outcome.next.inj hu ▸ h⟩
@[simp] theorem heldAfter_fault (n r) : HeldAfter n (.fault r) = True :=
  eq_true fun _ hu => by cases hu
@[simp] theorem heldAfter_ite {n : Nat} {c : Prop} [Decidable c] {a b : Out} :
    HeldAfter n (if c then a else b) = if c then HeldAfter n a else HeldAfter n b := by
  split <;> rfl

/-! ## The clock and the sources (10, 11) -/

theorem execRtcSecondEdge_held {n cyc s} (h : Held n (Only offTp · s)) : HeldAfter n (execRtcSecondEdge cyc s) := by
  simp [execRtcSecondEdge, h]
theorem execCrystalStop_held {n s} (h : Held n (Only offTp · s)) : HeldAfter n (execCrystalStop s) := by
  simp [execCrystalStop, h]
theorem execSlateSupplySwitch_held {n cell s} (h : Held n (Only offTp · s)) : HeldAfter n (execSlateSupplySwitch cell s) := by
  simp [execSlateSupplySwitch, h]
theorem execVbatLow_held {n mv s} (h : Held n (Only offTp · s)) : HeldAfter n (execVbatLow mv s) := by
  simp [execVbatLow, h]
theorem execClockSet_held {n dur s} (req) (h : Held n (Only offTp · s)) : HeldAfter n (execClockSet req dur s) := by
  simp [execClockSet, h]
theorem execHaltTimeout_held {n s} (h : Held n (Only offTp · s)) : HeldAfter n (execHaltTimeout s) := by
  simp [execHaltTimeout, h]
theorem execPpsEdge_held {n interval offset dur s} (h : Held n (Only offTp · s)) : HeldAfter n (execPpsEdge interval offset dur s) := by
  simp [execPpsEdge, h]
theorem execTamperStaticEvent_held {n held s} (h : Held n (Only offTp · s)) : HeldAfter n (execTamperStaticEvent held s) := by
  simp [execTamperStaticEvent, h]
theorem execLoopBurst_held {n missing s} (h : Held n (Only offTp · s)) : HeldAfter n (execLoopBurst missing s) := by
  simp [execLoopBurst, h]
theorem execTamperWindowClose_held {n src s} (h : Held n (Only offTp · s)) : HeldAfter n (execTamperWindowClose src s) := by
  simp [execTamperWindowClose, h]
theorem execDieTempSample_held {n t s} (h : Held n (Only offTp · s)) : HeldAfter n (execDieTempSample t s) := by
  simp [execDieTempSample, h]
theorem execSupplyGlitch_held {n s} (h : Held n (Only offTp · s)) : HeldAfter n (execSupplyGlitch s) := by
  simp [execSupplyGlitch, h]
theorem execSealPinChange_held {n low s} (h : Held n (Only offTp · s)) : HeldAfter n (execSealPinChange low s) := by
  unfold execSealPinChange
  split <;> simp [h]

/-! ## The seal and the requests (01 R18, 11) -/

theorem execSealDebounceComplete_held {n s} (h : Held n (Only offTp · s)) : HeldAfter n (execSealDebounceComplete s) := by
  unfold execSealDebounceComplete
  dsimp only
  (repeat' split) <;> simp [h]
theorem execSealOpenDecision_held {n s} (h : Held n (Only offTp · s)) : HeldAfter n (execSealOpenDecision s) := by
  simp [execSealOpenDecision, h]
theorem execKnownAnswerTestDone_held {n failA failB s} (h : Held n (Only offTp · s)) : HeldAfter n (execKnownAnswerTestDone failA failB s) := by
  unfold execKnownAnswerTestDone
  split <;> simp [h]
theorem postOne_held {n s req ws} (h : Held n (Only offTp · s)) : HeldAfter n (postOne s req ws) := by
  simp [postOne, h]
theorem execRwlRequestAnswer_held {n s} (h : Held n (Only offTp · s)) : HeldAfter n (execRwlRequestAnswer s) := by
  unfold execRwlRequestAnswer
  split <;> simp [h]
theorem execLegalRequest_held {n s} (h : Held n (Only offTp · s)) : HeldAfter n (execLegalRequest s) := by
  unfold execLegalRequest
  split <;> simp [h]
theorem execSecondEvaluator_held {n upset s} (h : Held n (Only offTp · s))
    (hclear : ∀ d rest m, s.tp.dd = d :: rest → d.dec = .stickyClear m → d.first = true → bitN m n = false) :
    HeldAfter n (execSecondEvaluator upset s) := by
  unfold execSecondEvaluator
  split
  · simp [h]
  next d rest hdd =>
    dsimp only
    split
    · simp [h]
    · split
      · simp [h]
      · rw [heldAfter_next, decide2_held n _ d _ (hclear d rest · hdd)]
        simp [h]

/-! ## Metrology and display -/

theorem execRmsWindowClose_held {n bus half s} (h : Held n (Only offTp · s)) : HeldAfter n (execRmsWindowClose bus half s) := by
  simp [execRmsWindowClose, h]
theorem execPulseStart_held {n out s} (h : Held n (Only offTp · s)) : HeldAfter n (execPulseStart out s) := by
  simp [execPulseStart, h]
theorem execItemRedraw_held {n s} (h : Held n (Only offTp · s)) : HeldAfter n (execItemRedraw s) := by
  simp [execItemRedraw, h]
theorem execScrollDwellExpiry_held {n s} (h : Held n (Only offTp · s)) : HeldAfter n (execScrollDwellExpiry s) := by
  simp [execScrollDwellExpiry, h]
theorem execButtonPress_held {n s} (h : Held n (Only offTp · s)) : HeldAfter n (execButtonPress s) := by
  simp [execButtonPress, h]
theorem execButtonLongPress_held {n s} (h : Held n (Only offTp · s)) : HeldAfter n (execButtonLongPress s) := by
  simp [execButtonLongPress, h]

/-! ## Loader, firmware and watchdogs -/

theorem execBegin_held {n req s} (h : Held n (Only offTp · s)) : HeldAfter n (execBegin req s) := by
  simp [execBegin, h]
theorem execActivate_held {n req s} (h : Held n (Only offTp · s)) : HeldAfter n (execActivate req s) := by
  simp [execActivate, h]
theorem execArm_held {k n s} (h : Held k (Only offTp · s)) : HeldAfter k (execArm n s) := by
  simp [execArm, h]
theorem execCommit_held {n s} (h : Held n (Only offTp · s)) : HeldAfter n (execCommit s) := by
  simp [execCommit, h]
theorem execCancel_held {n req s} (h : Held n (Only offTp · s)) : HeldAfter n (execCancel req s) := by
  simp [execCancel, h]
theorem execCommitDeadline_held {n s} (h : Held n (Only offTp · s)) : HeldAfter n (execCommitDeadline s) := by
  simp [execCommitDeadline, h]
theorem execSelectorCommit_held {n s} (h : Held n (Only offTp · s)) : HeldAfter n (execSelectorCommit s) := by
  unfold execSelectorCommit
  (repeat' split) <;> simp [h]
theorem execPlanActivation_held {n s} (h : Held n (Only offTp · s)) : HeldAfter n (execPlanActivation s) := by
  unfold execPlanActivation
  (repeat' split) <;> simp [h]
theorem execAccept_held {n req s} (h : Held n (Only offTp · s)) : HeldAfter n (execAccept req s) := by
  simp [execAccept, h]
theorem execTrkctlGo_held {n req w s} (h : Held n (Only offTp · s)) : HeldAfter n (execTrkctlGo req w s) := by
  simp [execTrkctlGo, h]
theorem execAppWatchdogExpiry_held {n s} (h : Held n (Only offTp · s)) : HeldAfter n (execAppWatchdogExpiry s) := by
  simp [execAppWatchdogExpiry, h]
theorem execWdakick_held {n req w s} (h : Held n (Only offTp · s)) : HeldAfter n (execWdakick req w s) := by
  simp [execWdakick, h]

/-! ## Reads and writes -/

theorem execPairRead_held {n req addr s} (h : Held n (Only offTp · s)) : HeldAfter n (execPairRead req addr s) := by
  unfold execPairRead
  split <;> simp [h]
theorem execRegisterWrite_held {n req addr w s} (h : Held n (Only offTp · s)) : HeldAfter n (execRegisterWrite req addr w s) := by
  simp [execRegisterWrite, h]
@[simp] theorem hostTransaction_held (n s wire sent bad) (go : State → State)
    (hgo : ∀ y, Held n (Only offTp · (go y)) = Held n (Only offTp · y)) :
    Held n (Only offTp · (hostTransaction s wire sent bad go)) = Held n (Only offTp · s) := by
  simp [hostTransaction, hgo]
theorem execRead_held {n req addr len wire s} (h : Held n (Only offTp · s)) : HeldAfter n (execRead req addr len wire s) := by
  simp [execRead, h]
theorem execWrite_held {n req addr bytes wire s} (h : Held n (Only offTp · s)) : HeldAfter n (execWrite req addr bytes wire s) := by
  simp [execWrite, h]
theorem execOpRead_held {n hdr addr len s} (h : Held n (Only offTp · s)) : HeldAfter n (execOpRead hdr addr len s) := by
  simp [execOpRead, h]
theorem execOpWrite_held {n hdr addr data s} (h : Held n (Only offTp · s)) : HeldAfter n (execOpWrite hdr addr data s) := by
  simp [execOpWrite, h]
theorem execGet_held {n port client upper addr s} (h : Held n (Only offTp · s)) : HeldAfter n (execGet port client upper addr s) := by
  unfold execGet
  dsimp only
  (repeat' split) <;> simp [h]
theorem execSet_held {n port client upper addr w s} (h : Held n (Only offTp · s)) : HeldAfter n (execSet port client upper addr w s) := by
  simp [execSet, h]
theorem execDlmsAction_held {n port client upper addr w s} (h : Held n (Only offTp · s)) :
    HeldAfter n (execDlmsAction port client upper addr w s) := by
  simp [execDlmsAction, h]

/-! ## The tick, power and start-up -/

theorem execFrameTick_held {n inp s} (h : Held n (Only offTp · s)) : HeldAfter n (execFrameTick inp s) := by
  simp [execFrameTick, h]
theorem execPowerFailCommit_held {n dur s} (h : Held n (Only offTp · s)) : HeldAfter n (execPowerFailCommit dur s) := by
  simp [execPowerFailCommit, h]
theorem execPowerOn_held {n clksel s} (h : Held n (Only offTp · s)) : HeldAfter n (execPowerOn clksel s) := by
  simp [execPowerOn, h]
theorem execResetRelease_held {n s} (h : Held n (Only offTp · s)) : HeldAfter n (execResetRelease s) := by
  simp [execResetRelease, h]
theorem execStartSequence_held {n katA katB s} (h : Held n (Only offTp · s)) : HeldAfter n (execStartSequence katA katB s) := by
  unfold execStartSequence
  (repeat' split) <;> simp [h]
theorem execRunEntry_held {n s} (h : Held n (Only offTp · s)) : HeldAfter n (execRunEntry s) := by
  simp [execRunEntry, h]
theorem execRecoveryEntry_held {n s} (h : Held n (Only offTp · s)) : HeldAfter n (execRecoveryEntry s) := by
  unfold execRecoveryEntry
  dsimp only
  (repeat' split) <;> simp [h]

/-! ## Every command -/

/-- A command keeps a flag unless it is a loss of the Slate domain or the second evaluator of a clear of that flag. -/
theorem exec_held {n : Nat} {c : Instr} {s : State} (h : Held n (Only offTp · s)) (hcold : c ≠ .slateColdStart)
    (hloss : c ≠ .slatePowerLoss)
    (hclear : ∀ upset, c = .secondEvaluator upset → ∀ d rest m, s.tp.dd = d :: rest → d.dec = .stickyClear m → d.first = true →
      bitN m n = false) : HeldAfter n (exec c s) := by
  cases c with
  | slateColdStart => exact absurd rfl hcold
  | slatePowerLoss => exact absurd rfl hloss
  | frameTick => exact execFrameTick_held h
  | rtcSecondEdge => exact execRtcSecondEdge_held h
  | begin => exact execBegin_held h
  | activate => exact execActivate_held h
  | cancel => exact execCancel_held h
  | arm => exact execArm_held h
  | commit => exact execCommit_held h
  | commitDeadline => exact execCommitDeadline_held h
  | selectorCommit => exact execSelectorCommit_held h
  | planActivation => exact execPlanActivation_held h
  | rmsWindowClose => exact execRmsWindowClose_held h
  | pulseStart => exact execPulseStart_held h
  | pairRead => exact execPairRead_held h
  | reinstate => exact postOne_held h
  | clruv => exact postOne_held h
  | knownAnswerTestDone => exact execKnownAnswerTestDone_held h
  | crystalStop => exact execCrystalStop_held h
  | slateSupplySwitch => exact execSlateSupplySwitch_held h
  | vbatLow => exact execVbatLow_held h
  | clockSet req => exact execClockSet_held req h
  | haltTimeout => exact execHaltTimeout_held h
  | ppsEdge => exact execPpsEdge_held h
  | sealPinChange => exact execSealPinChange_held h
  | sealDebounceComplete => exact execSealDebounceComplete_held h
  | sealOpenDecision => exact execSealOpenDecision_held h
  | tamperStaticEvent => exact execTamperStaticEvent_held h
  | loopBurst => exact execLoopBurst_held h
  | tamperWindowClose => exact execTamperWindowClose_held h
  | secondEvaluator upset => exact execSecondEvaluator_held h (hclear upset rfl)
  | dieTempSample => exact execDieTempSample_held h
  | supplyGlitch => exact execSupplyGlitch_held h
  | tpclr => exact postOne_held h
  | rwlRequestAnswer => exact execRwlRequestAnswer_held h
  | legalRequest => exact execLegalRequest_held h
  | scrollDwellExpiry => exact execScrollDwellExpiry_held h
  | buttonPress => exact execButtonPress_held h
  | buttonLongPress => exact execButtonLongPress_held h
  | itemRedraw => exact execItemRedraw_held h
  | accept => exact execAccept_held h
  | trkctlGo => exact execTrkctlGo_held h
  | read => exact execRead_held h
  | write => exact execWrite_held h
  | registerWrite => exact execRegisterWrite_held h
  | get => exact execGet_held h
  | set => exact execSet_held h
  | dlmsAction => exact execDlmsAction_held h
  | opRead => exact execOpRead_held h
  | opWrite => exact execOpWrite_held h
  | powerOn => exact execPowerOn_held h
  | startSequence => exact execStartSequence_held h
  | runEntry => exact execRunEntry_held h
  | recoveryEntry => exact execRecoveryEntry_held h
  | mdctlReqRun => exact postOne_held h
  | mdctlReqCalibrate => exact postOne_held h
  | mdctlReqTest => exact postOne_held h
  | recov => exact postOne_held h
  | powerFailCommit => exact execPowerFailCommit_held h
  | resetRelease => exact execResetRelease_held h
  | wdakick => exact execWdakick_held h
  | appWatchdogExpiry => exact execAppWatchdogExpiry_held h
  | calibrationWrite => exact postOne_held h
  | calctlCommit => exact postOne_held h
  | calctlDiscard => exact postOne_held h
  | _ => exact fun u hx => held_of_parts h (exec_only _ s u hx) rfl

/-- A command after which a flag is clear that was set. -/
theorem clearing_command {n : Nat} {c : Instr} {s t : State} (hx : exec c s = .next t) (hs : (srcAt s n).sticky = true)
    (ht : (srcAt t n).sticky = false) :
    c = .slateColdStart ∨ c = .slatePowerLoss ∨
      ∃ upset d rest m, c = .secondEvaluator upset ∧ s.tp.dd = d :: rest ∧ d.dec = .stickyClear m ∧ d.first = true ∧ bitN m n = true := by
  by_contra hnone
  obtain ⟨hcold, hnone⟩ := not_or.mp hnone
  obtain ⟨hloss, hnone⟩ := not_or.mp hnone
  have hkept : Held n (Only offTp · t) := by
    refine exec_held (held_iff.mpr hs) hcold hloss (fun upset hc d rest m hdd hdec hfirst => ?_) t hx
    exact Bool.eq_false_iff.mpr fun hbit => hnone ⟨upset, d, rest, m, hc, hdd, hdec, hfirst, hbit⟩
  exact Bool.false_ne_true (ht.symm.trans (held_iff.mp hkept))

end Sys2Proof.Laws

open Sys2Proof Sys2Proof.Machine Sys2Proof.Laws

/-- Settles O8: the event that declares a source puts it among the sources whose flags the declaration sets (`sourceEvents_sets`), bit n
of `TPSTICKY` is the flag of source n (`readWord_tpsticky`), and every command but the three keeps every flag (`exec_held`). -/
theorem stickyFlagsAreKept : Obligations.StickyFlagsAreKept :=
  ⟨sourceEvents_sets, fun n s => readWord_tpsticky s n, fun _ _ _ _ => clearing_command⟩
end

section
/-! Which commands go on: every well-formed one does, the others stop, and none touches the queue (log 1, 19). -/

namespace Sys2Proof.Laws

open Sys2Proof.Machine

/-- An outcome that goes on. -/
def Completes (o : Out) : Prop := ∃ t, o = .next t

@[simp] theorem completes_next (t : State) : Completes (.next t) := ⟨t, rfl⟩
@[simp] theorem completes_ite {c : Prop} [Decidable c] {a b : Out} :
    Completes (if c then a else b) = if c then Completes a else Completes b := by
  split <;> rfl
theorem completes_of_unit {b : Bool} {r : Fault} {a : Out} (h : b = true) (ha : Completes a) : Completes (if !b then .fault r else a) := by
  simpa [h] using ha

theorem downstream_port {p : Nat} : cdPorts.contains p = (isPort p && p != 0) := by
  rw [Bool.eq_iff_iff]
  simp [cdPorts, isPort]
  omega
theorem execProbe_completes {p t2 t3 : Nat} {s : State} (h : (isPort p && p != 0) = true) : Completes (execProbe p t2 t3 s) := by
  exact completes_of_unit (downstream_port.trans h) (completes_next _)
theorem execConversionComplete_completes {slice slot : Nat} {taken : Option Nat} {raw : Int} {s : State}
    (h : (isSlice slice && isSlot slot && taken.all isChannel) = true) : Completes (execConversionComplete slice slot taken raw s) := by
  refine completes_of_unit h ?_
  dsimp only
  (repeat' split) <;> simp only [completes_next]
theorem execThermalSample_completes {t : Int} {s : State} : Completes (execThermalSample t s) := by
  unfold execThermalSample
  dsimp only
  (repeat' split) <;> simp only [completes_next]

/-- A well-formed command goes on in every state. -/
theorem exec_completes {c : Instr} {s : State} (h : c.wf = true) : Completes (exec c s) := by
  cases c with
  | frameTick => simp [exec, execFrameTick]
  | rtcSecondEdge => simp [exec, execRtcSecondEdge]
  | markerReceive => simp only [exec, execMarkerReceive]; (repeat' split) <;> simp
  | probeTimer => simp only [exec, execProbeTimer]; (repeat' split) <;> simp
  | probe => exact execProbe_completes h
  | probeReply => simp [exec, execProbeReply]
  | timebaseLock => simp [exec, execTimebaseLock]
  | acquireTimeout => simp [exec, execAcquireTimeout]
  | missingMarkerTimeout => simp [exec, execMissingMarkerTimeout]
  | relockPairing => simp [exec, execRelockPairing]
  | frameRenumber => simp only [exec, execFrameRenumber]; (repeat' split) <;> simp
  | conversionComplete => exact execConversionComplete_completes h
  | probeResult => refine completes_of_unit h ?_; (repeat' split) <;> simp
  | referenceCheck => simp [exec, execReferenceCheck]
  | sliceCalUpdate => refine completes_of_unit h ?_; (repeat' split) <;> simp
  | startupCalibrationDone => simp [exec, execStartupCalibrationDone]
  | comparatorDwellComplete => refine completes_of_unit h ?_; (repeat' split) <;> simp
  | faultCaptureManual => refine completes_of_unit h ?_; (repeat' split) <;> simp
  | faultCapturePush => simp only [exec, execFaultCapturePush]; (repeat' split) <;> simp
  | queueMarkerAppend => refine completes_of_unit h ?_; (repeat' split) <;> simp
  | qpop0 => refine completes_of_unit h ?_; (repeat' split) <;> simp
  | qpush => refine completes_of_unit h ?_; (repeat' split) <;> simp
  | verificationDone => simp [exec, execVerificationDone]
  | commitDeadline => simp [exec, execCommitDeadline]
  | selectorCommit => simp only [exec, execSelectorCommit]; (repeat' split) <;> simp
  | planActivation => simp only [exec, execPlanActivation]; (repeat' split) <;> simp
  | rmsWindowClose => refine completes_of_unit h ?_; (repeat' split) <;> simp
  | pulseStart => refine completes_of_unit h ?_; (repeat' split) <;> simp
  | pulseEnd => refine completes_of_unit h ?_; (repeat' split) <;> simp
  | bandWindowEnd => simp [exec, execBandWindowEnd]
  | bandPublish => simp only [exec, execBandPublish]; (repeat' split) <;> simp
  | pqIntervalEnd => simp [exec, execPqIntervalEnd]
  | liveWindowEnd => refine completes_of_unit h ?_; (repeat' split) <;> simp
  | sprintStart => simp [exec, execSprintStart]
  | sprintEnd => simp [exec, execSprintEnd]
  | pairRead => simp only [exec, execPairRead]; (repeat' split) <;> simp
  | scrubSlot => simp only [exec, execScrubSlot]; (repeat' split) <;> simp
  | knownAnswerTestDone => simp only [exec, execKnownAnswerTestDone]; (repeat' split) <;> simp
  | slateSupplySwitch => simp [exec, execSlateSupplySwitch]
  | vbatLow => simp [exec, execVbatLow]
  | slateColdStart => simp [exec, execSlateColdStart]
  | clockSet => simp [exec, execClockSet]
  | haltTimeout => simp [exec, execHaltTimeout]
  | clockSetRecord => simp only [exec, execClockSetRecord]; (repeat' split) <;> simp
  | ppsEdge => simp [exec, execPpsEdge]
  | ppsLoss => simp [exec, execPpsLoss]
  | sealPinChange => simp only [exec, execSealPinChange]; (repeat' split) <;> simp
  | sealDebounceComplete => simp only [exec, execSealDebounceComplete]; (repeat' split) <;> simp
  | sealOpenDecision => simp [exec, execSealOpenDecision]
  | tamperStaticEvent => refine completes_of_unit h ?_; (repeat' split) <;> simp
  | loopBurst => simp [exec, execLoopBurst]
  | tamperWindowClose => refine completes_of_unit h ?_; (repeat' split) <;> simp
  | secondEvaluator => simp only [exec, execSecondEvaluator]; (repeat' split) <;> simp
  | dieTempSample => simp [exec, execDieTempSample]
  | rwlRequestAnswer => simp only [exec, execRwlRequestAnswer]; (repeat' split) <;> simp
  | legalRequest => simp only [exec, execLegalRequest]; (repeat' split) <;> simp
  | summaryWindowClose => simp only [exec, execSummaryWindowClose]; (repeat' split) <;> simp
  | tokenRefill => simp [exec, execTokenRefill]
  | erpack => simp only [exec, execErpack]; (repeat' split) <;> simp
  | ersclr => simp only [exec, execErsclr]; (repeat' split) <;> simp
  | summaryClearPassEnd => simp [exec, execSummaryClearPassEnd]
  | displayPowerUp => simp [exec, execDisplayPowerUp]
  | railGood => refine completes_of_unit h ?_; (repeat' split) <;> simp
  | railFault => refine completes_of_unit h ?_; (repeat' split) <;> simp
  | railRetry => simp [exec, execRailRetry]
  | displayPowerDown => simp [exec, execDisplayPowerDown]
  | driveStep => simp only [exec, execDriveStep]; (repeat' split) <;> simp
  | dpfree => refine completes_of_unit h ?_; (repeat' split) <;> simp
  | scrollDwellExpiry => simp [exec, execScrollDwellExpiry]
  | buttonPress => simp [exec, execButtonPress]
  | buttonLongPress => simp [exec, execButtonLongPress]
  | autoScrollResume => simp only [exec, execAutoScrollResume]; (repeat' split) <;> simp
  | itemRedraw => simp [exec, execItemRedraw]
  | bootStages => simp [exec, execBootStages]
  | confirmTimeout => simp [exec, execConfirmTimeout]
  | quoteGenerate => simp only [exec, execQuoteGenerate]; (repeat' split) <;> simp
  | quoteComplete => simp only [exec, execQuoteComplete]; (repeat' split) <;> simp
  | tagDigestUpdate => simp only [exec, execTagDigestUpdate]; (repeat' split) <;> simp
  | read => simp [exec, execRead]
  | write => simp [exec, execWrite]
  | unknownCommand => simp [exec, execUnknownCommand]
  | scsAbort => simp [exec, execScsAbort]
  | hostTimeout => simp [exec, execHostTimeout]
  | signOn => simp [exec, execSignOn]
  | optionSelect => simp [exec, execOptionSelect]
  | optionSelectTimeout => simp [exec, execOptionSelectTimeout]
  | hdlcStart => simp [exec, execHdlcStart]
  | hdlcFrame => simp [exec, execHdlcFrame]
  | disc => simp [exec, execDisc]
  | aarq => simp [exec, execAarq]
  | get => simp only [exec, execGet]; (repeat' split) <;> simp
  | inactivityTimeout => simp [exec, execInactivityTimeout]
  | dataNotification => simp only [exec, execDataNotification]; (repeat' split) <;> simp
  | keyAssociationRelease => simp [exec, execKeyAssociationRelease]
  | commaAlign => refine completes_of_unit h ?_; (repeat' split) <;> simp
  | hello => refine completes_of_unit h ?_; (repeat' split) <;> simp
  | portDown => refine completes_of_unit h ?_; (repeat' split) <;> simp
  | portRefusedRetry => refine completes_of_unit h ?_; (repeat' split) <;> simp
  | enum => simp [exec, execEnum]
  | enumDone => simp [exec, execEnumDone]
  | ack => refine completes_of_unit h ?_; (repeat' split) <;> simp
  | nak => refine completes_of_unit h ?_; (repeat' split); simp
  | resendTimeout => refine completes_of_unit h ?_; (repeat' split); simp
  | cmd => simp only [exec, execCmd]; (repeat' split) <;> simp
  | opRead => simp [exec, execOpRead]
  | opWrite => simp [exec, execOpWrite]
  | aggdef => simp [exec, execAggdef]
  | rsp => simp only [exec, execRsp]; (repeat' split) <;> simp
  | chainResponseTimeout => simp only [exec, execChainResponseTimeout]; (repeat' split) <;> simp
  | agg => simp [exec, execAgg]
  | powerFailWarning => simp [exec, execPowerFailWarning]
  | powerOn => simp [exec, execPowerOn]
  | mainPowerLoss => simp [exec, execMainPowerLoss]
  | slatePowerLoss => simp [exec, execSlatePowerLoss]
  | bootComplete => simp only [exec, execBootComplete]; (repeat' split) <;> simp
  | startSequence => simp only [exec, execStartSequence]; (repeat' split) <;> simp
  | runEntry => simp [exec, execRunEntry]
  | recoveryEntry => simp only [exec, execRecoveryEntry]; (repeat' split) <;> simp
  | faultySliceReset => simp [exec, execFaultySliceReset]
  | powerFailCommit => simp [exec, execPowerFailCommit]
  | resetRelease => simp [exec, execResetRelease]
  | thermalSample => exact execThermalSample_completes
  | legalWatchdogExpiry => simp [exec, execLegalWatchdogExpiry]
  | appWatchdogExpiry => simp [exec, execAppWatchdogExpiry]
  | messageCrcError => refine completes_of_unit h ?_; (repeat' split); simp
  | codeViolation => refine completes_of_unit h ?_; (repeat' split); simp
  | vbatlowClear => simp [exec, execVbatlowClear]
  | railDischarged => refine completes_of_unit h ?_; (repeat' split) <;> simp
  | _ => exact completes_next _

theorem stops_of_unit {b : Bool} {a : Out} (h : b = false) : (if !b then .fault .noSuchUnit else a) = (.fault .noSuchUnit : Out) := by
  simp [h]

/-- A command that names a unit which the device does not have stops. -/
theorem exec_stops {c : Instr} {s : State} (h : c.wf = false) : exec c s = .fault .noSuchUnit := by
  cases c with
  | probe => exact stops_of_unit (downstream_port.trans h)
  | conversionComplete => exact stops_of_unit h
  | probeResult => exact stops_of_unit h
  | sliceCalUpdate => exact stops_of_unit h
  | comparatorDwellComplete => exact stops_of_unit h
  | faultCaptureManual => exact stops_of_unit h
  | queueMarkerAppend => exact stops_of_unit h
  | qpop0 => exact stops_of_unit h
  | qpush => exact stops_of_unit h
  | rmsWindowClose => exact stops_of_unit h
  | pulseStart => exact stops_of_unit h
  | pulseEnd => exact stops_of_unit h
  | liveWindowEnd => exact stops_of_unit h
  | tamperStaticEvent => exact stops_of_unit h
  | tamperWindowClose => exact stops_of_unit h
  | railGood => exact stops_of_unit h
  | railFault => exact stops_of_unit h
  | dpfree => exact stops_of_unit h
  | commaAlign => exact stops_of_unit h
  | hello => exact stops_of_unit h
  | portDown => exact stops_of_unit h
  | portRefusedRetry => exact stops_of_unit h
  | ack => exact stops_of_unit h
  | nak => exact stops_of_unit h
  | resendTimeout => exact stops_of_unit h
  | messageCrcError => exact stops_of_unit h
  | codeViolation => exact stops_of_unit h
  | railDischarged => exact stops_of_unit h
  | _ => cases h

theorem queue_kept (c : Instr) : (partsOf c).contains .pending = false := by
  cases c <;> rfl

theorem exec_pending {c : Instr} {s t : State} (hx : exec c s = .next t) : t.pending = s.pending :=
  exec_only c s t hx .pending (queue_kept c)

/-- A step on a queue of well-formed commands takes the first of them. -/
theorem step_takes {s : State} (h : CommandsWf s) : ∃ t, step s = .next t ∧ t.pending = s.pending.tail := by
  unfold step
  split
  next hidle => exact ⟨s, rfl, by rw [hidle]; rfl⟩
  next c rest hq =>
    obtain ⟨t, hx⟩ := exec_completes (c := c) (s := { s with pending := rest }) (h c (hq ▸ List.mem_cons_self))
    exact ⟨t, hx, by rw [hq]; exact exec_pending hx⟩

theorem commandsWf_tail {s t : State} (h : CommandsWf s) (hq : t.pending = s.pending.tail) : CommandsWf t :=
  fun c hc => h c (List.mem_of_mem_tail (hq ▸ hc))

/-- A queue of n well-formed commands runs to its end in n steps. -/
theorem run_empties : ∀ (n : Nat) (s : State), CommandsWf s → s.pending.length = n → ∃ t, runSteps n s = .next t ∧ t.pending = []
  | 0, s, _, hn => ⟨s, rfl, List.eq_nil_of_length_eq_zero hn⟩
  | n + 1, s, hwf, hn => by
    obtain ⟨x, hx, hq⟩ := step_takes hwf
    obtain ⟨t, ht, hend⟩ := run_empties n x (commandsWf_tail hwf hq) (by rw [hq, List.length_tail, hn]; rfl)
    exact ⟨t, by rw [runSteps, hx]; exact ht, hend⟩

end Sys2Proof.Laws

open Sys2Proof Sys2Proof.Machine Sys2Proof.Laws

/-- Settles O1: `step` is defined by its queue. -/
theorem stepTakesTheFrontCommand : Obligations.StepTakesTheFrontCommand :=
  ⟨fun _ _ _ => rfl, fun s hidle => by unfold step; rw [hidle]⟩

/-- Settles O2: each dispatch arm goes on where its unit check passes, and no list of parts holds the queue. -/
theorem wellFormedCommandsComplete : Obligations.WellFormedCommandsComplete := by
  refine fun c s => ⟨fun h => ?_, exec_stops⟩
  obtain ⟨t, hx⟩ := exec_completes h
  exact ⟨t, hx, exec_pending hx⟩

/-- Settles O3: the command at the front goes on (`exec_completes`) and leaves the queue's rest (`exec_pending`). -/
theorem stepKeepsCommandsWellFormed : Obligations.StepKeepsCommandsWellFormed := by
  intro s h
  obtain ⟨t, hx, hq⟩ := step_takes h
  exact ⟨t, hx, commandsWf_tail h hq, hq⟩

/-- Settles O4, by induction on the length of the queue. -/
theorem wellFormedQueueRunsToItsEnd : Obligations.WellFormedQueueRunsToItsEnd := by
  intro s h
  obtain ⟨t, ht, hend⟩ := run_empties _ s h rfl
  refine ⟨⟨t, ht⟩, fun u hu => ?_⟩
  rw [ht] at hu
  exact Host.Outcome.next.inj hu ▸ hend
end

section
/-! The clock's range over every command (10 R238, R240). -/

namespace Sys2Proof.Laws

open Sys2Proof.Machine

/-- Every part but the clock's second and sub-second. -/
def offTime : List Part :=
  [.pending, .sup, .tb, .fe, .cv, .qu, .pl, .met, .pq, .ls, .bl, .rtc, .tp, .er, .dp, .tr, .hp, .ser, .cb, .nv, .fresh,
   .frame, .mode, .seal, .plan]

@[simp] theorem mem_offTime (p : Part) : p ∈ offTime ↔ p ≠ .clock := by
  cases p <;> decide

/-- A state of `P` has its clock in range. As for `Held`, `P` is `Only offTime · t`, so that the footprint lemmas rewrite inside it. -/
def InTime (P : State → Prop) : Prop := ∃ x, ClockInRange x ∧ P x

theorem inTime_iff {t : State} : InTime (Only offTime · t) ↔ ClockInRange t := by
  constructor
  · rintro ⟨x, hx, h⟩
    obtain ⟨hsec, hsub⟩ := Prod.mk.inj (h .clock rfl)
    rwa [ClockInRange, hsec, hsub]
  · exact fun h => ⟨t, h, only_refl _ t⟩

@[simp] theorem inTime_ite {c : Prop} [Decidable c] {P Q : State → Prop} :
    InTime (fun x => if c then P x else Q x) = if c then InTime P else InTime Q := by
  split <;> rfl

theorem inTime_of_parts {ps : List Part} {s t : State} (hs : InTime (Only offTime · s)) (h : Only ps s t)
    (w : ps.contains .clock = false) : InTime (Only offTime · t) := by
  obtain ⟨hsec, hsub⟩ := Prod.mk.inj (h .clock w)
  exact inTime_iff.mpr (by rw [ClockInRange, hsec, hsub]; exact inTime_iff.mp hs)

/-! ## Operations that move the clock -/

@[simp] theorem mapRtc_inTime (s f) (hsec : (f s.rtc).sec ≤ rtcMax) (hsub : (f s.rtc).sub < 32768) :
    InTime (Only offTime · (State.mapRtc s f)) := inTime_iff.mpr ⟨hsec, hsub⟩

@[simp] theorem subTick_inTime (s) (h : InTime (Only offTime · s)) : InTime (Only offTime · (subTick s)) := by
  obtain ⟨hsec, hsub⟩ := inTime_iff.mp h
  refine mapRtc_inTime _ _ ?_ ?_
  · split <;> exact hsec
  · split
    · exact hsub
    · exact Nat.lt_succ_of_le (Nat.min_le_left ..)
@[simp] theorem subUnknown_inTime (s) (h : InTime (Only offTime · s)) : InTime (Only offTime · (subUnknown s)) := by
  obtain ⟨hsec, -⟩ := inTime_iff.mp h
  unfold subUnknown
  split
  · exact h
  · exact mapRtc_inTime _ _ hsec (Nat.mod_lt _ (by decide))
@[simp] theorem setHalt_inTime (s req sub relpps) (h : InTime (Only offTime · s)) : InTime (Only offTime · (setHalt s req sub relpps)) := by
  have hres : (reserve s 1).rtc.sec ≤ rtcMax := (inTime_iff.mp (show InTime (Only offTime · (reserve s 1)) by simpa using h)).1
  unfold setHalt
  split
  · simpa using h
  · split
    · simpa using h
    · exact mapRtc_inTime _ _ hres (Nat.mod_lt _ (by decide))
@[simp] theorem resumeAt_inTime (s t0) : InTime (Only offTime · (resumeAt s t0)) := by
  simp [resumeAt, Nat.mod_lt]
@[simp] theorem clearHalt_inTime (s dur) : InTime (Only offTime · (clearHalt s dur)) := by
  unfold clearHalt
  dsimp only
  split
  · simp
  next hset =>
    have hnew : s.rtc.newSec ≤ rtcMax := Nat.le_of_not_lt fun h => hset (.inl h)
    split <;> simp [hnew]

@[simp] theorem writeRtcctl_inTime (s req w) (h : InTime (Only offTime · s)) : InTime (Only offTime · (writeRtcctl s req w)) := by
  unfold writeRtcctl
  dsimp only
  (repeat' split) <;> simp [h]
@[simp] theorem wrRtc_inTime (s req o w) (h : InTime (Only offTime · s)) : InTime (Only offTime · (wrRtc s req o w)) := by
  unfold wrRtc
  (repeat' split) <;> simp [h]
@[simp] theorem freeWord_inTime (s req a w) (h : InTime (Only offTime · s)) : InTime (Only offTime · (freeWord s req a w)) := by
  unfold freeWord
  dsimp only
  (repeat' split) <;> simp [h]
@[simp] theorem applyWord_inTime (req s e) (h : InTime (Only offTime · s)) : InTime (Only offTime · (applyWord req s e)) := by
  unfold applyWord
  (repeat' split) <;> simp [h]
theorem forEach_inTime {α : Type} (l : List α) (g : State → α → State)
    (hg : ∀ y a, InTime (Only offTime · y) → InTime (Only offTime · (g y a))) (x : State) (h : InTime (Only offTime · x)) :
    InTime (Only offTime · (forEach l g x)) := by
  induction l generalizing x with
  | nil => exact h
  | cons a l ih => exact ih _ (hg x a h)
@[simp] theorem applyWrite_inTime (s req a bs) (h : InTime (Only offTime · s)) : InTime (Only offTime · (applyWrite s req a bs).s) := by
  have hwords := forEach_inTime (wordList a bs) (applyWord req) (applyWord_inTime req) _
    (show InTime (Only offTime · (postRwl s req (rwlWords (wordList a bs)))) by simpa using h)
  simp [applyWrite, hwords]
@[simp] theorem answerLegal_inTime (s r) (h : InTime (Only offTime · s)) : InTime (Only offTime · (answerLegal s r)) := by
  unfold answerLegal
  (repeat' split) <;> simp [h]
@[simp] theorem dlmsWrite_inTime (s port client upper addr w) (h : InTime (Only offTime · s)) :
    InTime (Only offTime · (dlmsWrite s port client upper addr w)) := by
  unfold dlmsWrite
  dsimp only
  (repeat' split) <;> simp [h]
@[simp] theorem rtcTick_inTime (s) (h : InTime (Only offTime · s)) : InTime (Only offTime · (rtcTick s)) := by
  simp [rtcTick, h]
@[simp] theorem countTick_inTime (s) (h : InTime (Only offTime · s)) : InTime (Only offTime · (countTick s)) := by
  simp [countTick, h]
@[simp] theorem bootTick_inTime (s) (h : InTime (Only offTime · s)) : InTime (Only offTime · (bootTick s)) := by
  simp [bootTick, h]
@[simp] theorem frameTick_inTime (s inp) (h : InTime (Only offTime · s)) : InTime (Only offTime · (frameTick s inp)) := by
  simp [frameTick, h]
@[simp] theorem bootReset_inTime (s) (h : InTime (Only offTime · s)) : InTime (Only offTime · (bootReset s)) := by
  simp [bootReset, h]

/-! ## Every command -/

/-- Every state that an outcome goes on with has its clock in range. -/
def InTimeAfter (o : Out) : Prop := ∀ u, o = .next u → InTime (Only offTime · u)

@[simp] theorem inTimeAfter_next (t) : InTimeAfter (.next t) = InTime (Only offTime · t) :=
  propext ⟨fun h => h t rfl, fun h _ hu => Host.Outcome.next.inj hu ▸ h⟩
@[simp] theorem inTimeAfter_fault (r) : InTimeAfter (.fault r) = True :=
  eq_true fun _ hu => by cases hu
@[simp] theorem inTimeAfter_ite {c : Prop} [Decidable c] {a b : Out} :
    InTimeAfter (if c then a else b) = if c then InTimeAfter a else InTimeAfter b := by
  split <;> rfl

theorem edgeCounted_inTime {s} (h : InTime (Only offTime · s)) : InTime (Only offTime · (edgeCounted s)) := by
  simp [edgeCounted, h]
theorem secondBegun_inTime {cyc s} (hlt : s.rtc.sec < rtcMax) : InTime (Only offTime · (secondBegun cyc s)) := by
  have hsec : (edgeCounted s).rtc.sec = s.rtc.sec := congrArg ClockFace.sec (edgeCounted_face s)
  simp [secondBegun, hsec, Nat.succ_le_of_lt hlt]
theorem execRtcSecondEdge_inTime {cyc s} (h : InTime (Only offTime · s)) : InTimeAfter (execRtcSecondEdge cyc s) := by
  cases hhalt : s.rtc.halt with
  | true => simp [execRtcSecondEdge, hhalt, h]
  | false =>
    rw [execRtcSecondEdge_eq cyc s hhalt]
    split
    · simpa using edgeCounted_inTime h
    next hlt => simp [secondBegun_inTime (Nat.lt_of_not_le hlt)]
theorem execSlateColdStart_inTime {s} : InTimeAfter (execSlateColdStart s) := by
  unfold execSlateColdStart
  dsimp only
  split <;> simp
theorem execSlatePowerLoss_inTime {s} (h : InTime (Only offTime · s)) : InTimeAfter (execSlatePowerLoss s) := by
  simp [execSlatePowerLoss, h]
theorem execHalt_inTime {req sub relpps s} (h : InTime (Only offTime · s)) : InTimeAfter (execHalt req sub relpps s) := by
  simp [execHalt, h]
theorem execClockSet_inTime {dur s} (req) (h : InTime (Only offTime · s)) : InTimeAfter (execClockSet req dur s) := by
  simp [execClockSet, h]
theorem execHaltTimeout_inTime {s} (h : InTime (Only offTime · s)) : InTimeAfter (execHaltTimeout s) := by
  simp [execHaltTimeout, h]
theorem execPpsEdge_inTime {interval offset dur s} (h : InTime (Only offTime · s)) : InTimeAfter (execPpsEdge interval offset dur s) := by
  simp [execPpsEdge, h]
theorem execPowerOn_inTime {clksel s} (h : InTime (Only offTime · s)) : InTimeAfter (execPowerOn clksel s) := by
  simp [execPowerOn, h]
theorem execResetRelease_inTime {s} (h : InTime (Only offTime · s)) : InTimeAfter (execResetRelease s) := by
  simp [execResetRelease, h]
theorem execLegalRequest_inTime {s} (h : InTime (Only offTime · s)) : InTimeAfter (execLegalRequest s) := by
  unfold execLegalRequest
  split <;> simp [h]
theorem execRegisterWrite_inTime {req addr w s} (h : InTime (Only offTime · s)) : InTimeAfter (execRegisterWrite req addr w s) := by
  simp [execRegisterWrite, h]
theorem execWrite_inTime {req addr bytes wire s} (h : InTime (Only offTime · s)) : InTimeAfter (execWrite req addr bytes wire s) := by
  simp [execWrite, hostTransaction, h]
theorem execOpWrite_inTime {hdr addr data s} (h : InTime (Only offTime · s)) : InTimeAfter (execOpWrite hdr addr data s) := by
  simp [execOpWrite, h]
theorem execSet_inTime {port client upper addr w s} (h : InTime (Only offTime · s)) : InTimeAfter (execSet port client upper addr w s) := by
  simp [execSet, h]
theorem execDlmsAction_inTime {port client upper addr w s} (h : InTime (Only offTime · s)) :
    InTimeAfter (execDlmsAction port client upper addr w s) := by
  simp [execDlmsAction, h]
theorem execFrameTick_inTime {inp s} (h : InTime (Only offTime · s)) : InTimeAfter (execFrameTick inp s) := by
  simp [execFrameTick, h]

theorem exec_inTime {c : Instr} {s : State} (h : InTime (Only offTime · s)) : InTimeAfter (exec c s) := by
  cases c with
  | rtcSecondEdge => exact execRtcSecondEdge_inTime h
  | slateColdStart => exact execSlateColdStart_inTime
  | slatePowerLoss => exact execSlatePowerLoss_inTime h
  | halt => exact execHalt_inTime h
  | clockSet req => exact execClockSet_inTime req h
  | haltTimeout => exact execHaltTimeout_inTime h
  | ppsEdge => exact execPpsEdge_inTime h
  | powerOn => exact execPowerOn_inTime h
  | resetRelease => exact execResetRelease_inTime h
  | legalRequest => exact execLegalRequest_inTime h
  | registerWrite => exact execRegisterWrite_inTime h
  | write => exact execWrite_inTime h
  | opWrite => exact execOpWrite_inTime h
  | set => exact execSet_inTime h
  | dlmsAction => exact execDlmsAction_inTime h
  | frameTick => exact execFrameTick_inTime h
  | _ => exact fun u hx => inTime_of_parts h (exec_only _ s u hx) rfl

theorem exec_clockInRange {c : Instr} {s t : State} (h : ClockInRange s) (hx : exec c s = .next t) : ClockInRange t :=
  inTime_iff.mp (exec_inTime (inTime_iff.mpr h) t hx)

theorem step_keeps_clockInRange (s t : State) (h : ClockInRange s) (hx : step s = .next t) : ClockInRange t := by
  unfold step at hx
  split at hx
  · rwa [← Host.Outcome.next.inj hx]
  next rest _ => exact exec_clockInRange (s := { s with pending := rest }) h hx

end Sys2Proof.Laws

open Sys2Proof Sys2Proof.Machine Sys2Proof.Laws

/-- Settles O6: every command keeps the clock in range (`exec_inTime`); only those that list the clock among their parts need a look. -/
theorem clockStaysInRange : Obligations.ClockStaysInRange := step_keeps_clockInRange
end

section
/-! The seal opens at one command alone: no operation but a granted decision to open it leaves a shut seal open (11 R261, R269). -/

namespace Sys2Proof.Laws

open Sys2Proof.Machine

/-- Every part but the seal's state. -/
def offSeal : List Part :=
  [.pending, .sup, .tb, .fe, .cv, .qu, .pl, .met, .pq, .ls, .bl, .rtc, .tp, .er, .dp, .tr, .hp, .ser, .cb, .nv, .fresh,
   .frame, .mode, .plan, .clock]

@[simp] theorem mem_offSeal (p : Part) : p ∈ offSeal ↔ p ≠ .seal := by
  cases p <;> decide

/-- A state of `P` has its seal shut. As for `Held`, `P` is `Only offSeal · t`, so that the footprint lemmas rewrite inside it. -/
def Shut (P : State → Prop) : Prop := ∃ x, x.tp.sealSt ≠ 2 ∧ P x

theorem shut_iff {t : State} : Shut (Only offSeal · t) ↔ t.tp.sealSt ≠ 2 := by
  constructor
  · rintro ⟨x, hx, h⟩
    have hseal : t.tp.sealSt = x.tp.sealSt := h .seal rfl
    rwa [hseal]
  · exact fun h => ⟨t, h, only_refl _ t⟩

theorem shut_of_parts {ps : List Part} {s t : State} (hs : Shut (Only offSeal · s)) (h : Only ps s t)
    (w : ps.contains .seal = false) : Shut (Only offSeal · t) := by
  have hseal : t.tp.sealSt = s.tp.sealSt := h .seal w
  exact shut_iff.mpr (hseal ▸ shut_iff.mp hs)

@[simp] theorem shut_ite {c : Prop} [Decidable c] {P Q : State → Prop} :
    Shut (fun x => if c then P x else Q x) = if c then Shut P else Shut Q := by
  split <;> rfl

@[simp] theorem forEach_shut {α : Type} {l : List α} {g : State → α → State} {x : State}
    (hg : ∀ y a, Shut (Only offSeal · y) → Shut (Only offSeal · (g y a))) (h : Shut (Only offSeal · x)) :
    Shut (Only offSeal · (forEach l g x)) := by
  induction l generalizing x with
  | nil => exact h
  | cons a l ih => exact ih (hg x a h)

@[simp] theorem mapTp_shut (s f) (h : (f s.tp).sealSt ≠ 2) : Shut (Only offSeal · (State.mapTp s f)) := shut_iff.mpr h

@[simp] theorem sealCheck_shut (s) (h : Shut (Only offSeal · s)) : Shut (Only offSeal · (sealCheck s)) := by
  unfold sealCheck
  split
  · exact h
  next hpair =>
    have hshut : (if s.tp.sealSt = 2 then 0 else s.tp.sealSt) ≠ 2 := by split <;> simp_all
    simp [hshut]
@[simp] theorem checkWork_shut (s c) (h : Shut (Only offSeal · s)) : Shut (Only offSeal · (checkWork s c)) := by
  unfold checkWork
  dsimp only
  (repeat' split) <;> simp [h]
@[simp] theorem transferFailed_shut (s c path) (h : Shut (Only offSeal · s)) : Shut (Only offSeal · (transferFailed s c path)) := by
  simp [transferFailed, h]
@[simp] theorem commitCrit_shut (s c) (h : Shut (Only offSeal · s)) : Shut (Only offSeal · (commitCrit s c)) := by
  simp [commitCrit, h]
@[simp] theorem commitList_shut (l s) (h : Shut (Only offSeal · s)) : Shut (Only offSeal · (commitList l s)) := by
  simp +contextual [commitList, h]
@[simp] theorem checkDue_shut (s) (h : Shut (Only offSeal · s)) : Shut (Only offSeal · (checkDue s)) := by
  refine forEach_shut (fun y d hy => ?_) h
  cases d with
  | iv => exact hy
  | set c =>
    exact forEach_shut (fun y p hy => forEach_shut (fun y i hy => by simp [hy]) (forEach_shut (fun y i hy => by simp [hy]) hy)) hy
@[simp] theorem storageInject_shut (s w) (h : Shut (Only offSeal · s)) : Shut (Only offSeal · (storageInject s w)) := by
  simp [storageInject, h]
@[simp] theorem injectionAct_shut (s) (h : Shut (Only offSeal · s)) : Shut (Only offSeal · (injectionAct s)) := by
  unfold injectionAct
  (repeat' split) <;> simp [h]
@[simp] theorem addQuanta_shut (s p q n) (h : Shut (Only offSeal · s)) : Shut (Only offSeal · (addQuanta s p q n)) := by
  simp [addQuanta, h]
@[simp] theorem applyInc_shut (s p q a b) (h : Shut (Only offSeal · s)) : Shut (Only offSeal · (applyInc s p q a b)) := by
  have hwork (y) (hy : Shut (Only offSeal · y)) (c) (n : Int × Int) : Shut (Only offSeal · (addQuanta (checkWork y c) p q n)) :=
    addQuanta_shut _ p q n (checkWork_shut _ c hy)
  simp [applyInc, h, hwork]
@[simp] theorem applyFrame_shut (s) (h : Shut (Only offSeal · s)) : Shut (Only offSeal · (applyFrame s)) := by
  have hfaults (y) (f) (hy : Shut (Only offSeal · y)) :
      Shut (Only offSeal · (atFrame y f fun s => forEach s.met.disagreed (fun s e => faultEntry s e.1 e.2 f) s)) := by simp [atFrame, hy]
  have henergy (y) (f) (hy : Shut (Only offSeal · y)) : Shut (Only offSeal · (atFrame y f fun s =>
      let s := forEach s.met.incA (fun s e => applyInc s (e.1 / 16) (e.1 % 16) e.2 (tget (-1) e.1 s.met.incB)) s
      forEach (points.filter fun p => (pointDef s.met.lanePlan p).type != 0) revImport s)) := by
    have hinc (l : Tab Int) (z) (hz : Shut (Only offSeal · z)) :
        Shut (Only offSeal · (forEach l (fun s e => applyInc s (e.1 / 16) (e.1 % 16) e.2 (tget (-1) e.1 s.met.incB)) z)) :=
      forEach_shut (fun _ _ ha => applyInc_shut _ _ _ _ _ ha) hz
    simp [atFrame, hinc, hy]
  unfold applyFrame
  split
  · exact h
  next f _ =>
    refine iteInduction (motive := fun y => Shut (Only offSeal · y)) (fun _ => ?_) (fun _ => henergy _ f ?_)
    all_goals (repeat' split) <;> simp [hfaults, h]
@[simp] theorem applyPulse_shut (f s o) (h : Shut (Only offSeal · s)) : Shut (Only offSeal · (applyPulse f s o)) := by
  simp [applyPulse, h]
@[simp] theorem applyPulses_shut (s f) (h : Shut (Only offSeal · s)) : Shut (Only offSeal · (applyPulses s f)) := by
  simp +contextual [applyPulses, h]
@[simp] theorem setMark_shut (s m) (h : Shut (Only offSeal · s)) : Shut (Only offSeal · (setMark s m)) := by
  simp [setMark, h]
@[simp] theorem endActivation_shut (s code) (h : Shut (Only offSeal · s)) : Shut (Only offSeal · (endActivation s code)) := by
  simp [endActivation, h]
@[simp] theorem plBegin_shut (s req) (h : Shut (Only offSeal · s)) : Shut (Only offSeal · (plBegin s req)) := by
  unfold plBegin
  (repeat' split) <;> simp [h]
@[simp] theorem setPending_shut (s n) (h : Shut (Only offSeal · s)) : Shut (Only offSeal · (setPending s n)) := by
  simp [setPending, h]
@[simp] theorem setArmed_shut (s n) (h : Shut (Only offSeal · s)) : Shut (Only offSeal · (setArmed s n)) := by
  simp [setArmed, h]
@[simp] theorem plActivate_shut (s req) (h : Shut (Only offSeal · s)) : Shut (Only offSeal · (plActivate s req)) := by
  unfold plActivate
  dsimp only
  (repeat' split) <;> simp [h]
@[simp] theorem plArm_shut (s n hdr) (h : Shut (Only offSeal · s)) : Shut (Only offSeal · (plArm s n hdr)) := by
  unfold plArm
  dsimp only
  (repeat' split) <;> simp [h]
@[simp] theorem plCommit_shut (s hdr addr) (h : Shut (Only offSeal · s)) : Shut (Only offSeal · (plCommit s hdr addr)) := by
  simp [plCommit, h]
@[simp] theorem plCancel_shut (s req) (h : Shut (Only offSeal · s)) : Shut (Only offSeal · (plCancel s req)) := by
  simp [plCancel, h]
@[simp] theorem loaderDone_shut (s) (h : Shut (Only offSeal · s)) : Shut (Only offSeal · (loaderDone s)) := by
  simp [loaderDone, h]
@[simp] theorem handOver_shut (s new) (h : Shut (Only offSeal · s)) : Shut (Only offSeal · (handOver s new)) := by
  simp [handOver, h]
@[simp] theorem restoreActivation_shut (s) (h : Shut (Only offSeal · s)) : Shut (Only offSeal · (restoreActivation s)) := by
  have hmark (y) (hy : Shut (Only offSeal · y)) (b x) :
      Shut (Only offSeal · (((setMark y none).setBank b x).mapNv fun n => { n with selRest := false })) := by simp [hy]
  unfold restoreActivation
  refine iteInduction (motive := fun y => Shut (Only offSeal · y)) (fun _ => ?_) (fun _ => hmark _ ?_ _ _)
  · split <;> simp [h]
  · split <;> simp [h]
@[simp] theorem pairFailed_shut (path s c) (h : Shut (Only offSeal · s)) : Shut (Only offSeal · (pairFailed path s c)) := by
  unfold pairFailed
  (repeat' split) <;> simp [h]
@[simp] theorem drawIndicators_shut (s) (h : Shut (Only offSeal · s)) : Shut (Only offSeal · (drawIndicators s)) := by
  have hbad := forEach_shut (l := indicatorBad s) (fun y a => pairFailed_shut pathDisplay y a) h
  simp [drawIndicators, hbad]
@[simp] theorem drawItem_shut (s) (h : Shut (Only offSeal · s)) : Shut (Only offSeal · (drawItem s)) := by
  have hbad (l : List (Option Crit)) (y) (hy : Shut (Only offSeal · y)) :
      Shut (Only offSeal · (raise (forEach l (pairFailed pathDisplay) y) 0xE4 0xFF (some (itemBin (scrollItem s).code : Nat)))) := by
    simpa using forEach_shut (fun y a => pairFailed_shut pathDisplay y a) hy
  unfold drawItem
  dsimp only
  refine drawIndicators_shut _ ?_
  split
  · simp [h]
  · exact hbad _ _ (by simp [h])
@[simp] theorem showItem_shut (s i) (h : Shut (Only offSeal · s)) : Shut (Only offSeal · (showItem s i)) := by
  simp [showItem, h]
@[simp] theorem nextItem_shut (s) (h : Shut (Only offSeal · s)) : Shut (Only offSeal · (nextItem s)) := by
  simp [nextItem, h]
@[simp] theorem displayTick_shut (s) (h : Shut (Only offSeal · s)) : Shut (Only offSeal · (displayTick s)) := by
  unfold displayTick
  dsimp only
  (repeat' split) <;> simp [h]
@[simp] theorem abandonPlan_shut (s) (h : Shut (Only offSeal · s)) : Shut (Only offSeal · (abandonPlan s)) := by
  unfold abandonPlan
  (repeat' split) <;> simp [h]
@[simp] theorem appExpiry_shut (s) (h : Shut (Only offSeal · s)) : Shut (Only offSeal · (appExpiry s)) := by
  simp [appExpiry, h]
@[simp] theorem kickApp_shut (s req w) (h : Shut (Only offSeal · s)) : Shut (Only offSeal · (kickApp s req w)) := by
  simp [kickApp, h]
@[simp] theorem bootParts_shut (s ok) (h : Shut (Only offSeal · s)) : Shut (Only offSeal · (bootParts s ok)) := by
  exact shut_iff.mpr (show (bootTamper s.tp).sealSt ≠ 2 by simpa [bootTamper] using shut_iff.mp h)
@[simp] theorem bootReset_shut (s) (h : Shut (Only offSeal · s)) : Shut (Only offSeal · (bootReset s)) := by
  simp [bootReset, h]
@[simp] theorem discardReport_shut (s) (h : Shut (Only offSeal · s)) : Shut (Only offSeal · (discardReport s)) := by
  simp [discardReport, h]
@[simp] theorem startStep1_shut (s) (h : Shut (Only offSeal · s)) : Shut (Only offSeal · (startStep1 s)) := by
  unfold startStep1
  dsimp only
  (repeat' split) <;> simp [h]
@[simp] theorem sealDenied_shut (s bin) : Shut (Only offSeal · (sealDenied s bin)) := by
  simp [sealDenied]
@[simp] theorem refused_shut (s dd) (h : Shut (Only offSeal · s)) : Shut (Only offSeal · (refused s dd)) := by
  unfold refused
  (repeat' split) <;> simp [h]
@[simp] theorem sealCloses_shut (s) : Shut (Only offSeal · (sealCloses s)) := by
  simp [sealCloses]
@[simp] theorem writePlctl_shut (s req w) (h : Shut (Only offSeal · s)) : Shut (Only offSeal · (writePlctl s req w)) := by
  unfold writePlctl
  (repeat' split) <;> simp [h]
@[simp] theorem wrPlan_shut (s req o w) (h : Shut (Only offSeal · s)) : Shut (Only offSeal · (wrPlan s req o w)) := by
  unfold wrPlan
  (repeat' split) <;> simp [h]
@[simp] theorem wrMode_shut (s req o w) (h : Shut (Only offSeal · s)) : Shut (Only offSeal · (wrMode s req o w)) := by
  unfold wrMode
  (repeat' split) <;> simp [h]
@[simp] theorem freeWord_shut (s req a w) (h : Shut (Only offSeal · s)) : Shut (Only offSeal · (freeWord s req a w)) := by
  unfold freeWord
  dsimp only
  (repeat' split) <;> simp [h]
@[simp] theorem applyWord_shut (req s e) (h : Shut (Only offSeal · s)) : Shut (Only offSeal · (applyWord req s e)) := by
  unfold applyWord
  (repeat' split) <;> simp [h]
@[simp] theorem applyWrite_shut (s req a bs) (h : Shut (Only offSeal · s)) : Shut (Only offSeal · (applyWrite s req a bs).s) := by
  have hwords : Shut (Only offSeal · (forEach (wordList a bs) (applyWord req) (postRwl s req (rwlWords (wordList a bs))))) :=
    forEach_shut (applyWord_shut req) (by simpa using h)
  simp [applyWrite, hwords]
@[simp] theorem answerLegal_shut (s dd) (h : Shut (Only offSeal · s)) : Shut (Only offSeal · (answerLegal s dd)) := by
  unfold answerLegal
  (repeat' split) <;> simp [h]
@[simp] theorem checkPairOn_shut (path req s e) (h : Shut (Only offSeal · s)) : Shut (Only offSeal · (checkPairOn path req s e)) := by
  simp [checkPairOn, h]
@[simp] theorem checkPair_shut (req s e) (h : Shut (Only offSeal · s)) : Shut (Only offSeal · (checkPair req s e)) := by
  simp [checkPair, h]
@[simp] theorem readEffects_shut (s req a n) (h : Shut (Only offSeal · s)) : Shut (Only offSeal · (readEffects s req a n)) := by
  exact forEach_shut (fun y e => checkPair_shut req y e) (by simpa using h)
@[simp] theorem runRead_shut (s req a n) (h : Shut (Only offSeal · s)) : Shut (Only offSeal · (runRead s req a n).1) := by
  simp [runRead, h]
@[simp] theorem dlmsWrite_shut (s port client upper addr w) (h : Shut (Only offSeal · s)) : Shut (Only offSeal · (dlmsWrite s port client upper addr w)) := by
  unfold dlmsWrite
  dsimp only
  (repeat' split) <;> simp [h]
@[simp] theorem endLaneFrame_shut (s) (h : Shut (Only offSeal · s)) : Shut (Only offSeal · (endLaneFrame s)) := by
  have hframe := applyFrame_shut (rescaleTick (closeDue s)) (by simpa using h)
  have htail (y) (hy : Shut (Only offSeal · y)) : Shut (Only offSeal · (harmPublish (finAll (checkDue y)))) := by simp [hy]
  unfold endLaneFrame
  dsimp only
  split
  · simpa using htail _ hframe
  next f _ => simpa using htail _ (by simpa using applyPulses_shut _ f hframe)
@[simp] theorem commitTick_shut (s) (h : Shut (Only offSeal · s)) : Shut (Only offSeal · (commitTick s)) := by
  simp [commitTick, h]
@[simp] theorem countTick_shut (s) (h : Shut (Only offSeal · s)) : Shut (Only offSeal · (countTick s)) := by
  simp [countTick, h]
@[simp] theorem frameTick_shut (s inp) (h : Shut (Only offSeal · s)) : Shut (Only offSeal · (frameTick s inp)) := by
  have hend : Shut (Only offSeal · (endLaneFrame (endFrame (applyRwl (s.mapSup fun u => { u with startTicks := u.startTicks + 1 })) inp))) :=
    endLaneFrame_shut _ (by simpa using h)
  have htail (y) (hy : Shut (Only offSeal · y)) :
      Shut (Only offSeal · (mailboxTick (commitTick (countTick (metTick (liveTick (pqTick (injectionAct y)))))))) := by
    have hcount := countTick_shut (metTick (liveTick (pqTick (injectionAct y)))) (by simpa using injectionAct_shut y hy)
    simpa using commitTick_shut _ hcount
  exact htail _ (by simpa using hend)

/-! ## Every command -/

/-- Every state that an outcome goes on with has its seal shut. -/
def ShutAfter (o : Out) : Prop := ∀ u, o = .next u → Shut (Only offSeal · u)

@[simp] theorem shutAfter_next (t) : ShutAfter (.next t) = Shut (Only offSeal · t) :=
  propext ⟨fun h => h t rfl, fun h _ hu => Host.Outcome.next.inj hu ▸ h⟩
@[simp] theorem shutAfter_fault (r) : ShutAfter (.fault r) = True :=
  eq_true fun _ hu => by cases hu
@[simp] theorem shutAfter_ite {c : Prop} [Decidable c] {a b : Out} :
    ShutAfter (if c then a else b) = if c then ShutAfter a else ShutAfter b := by
  split <;> rfl

theorem hostTransaction_shut {s wire sent bad go} (h : Shut (Only offSeal · s))
    (hgo : ∀ y, Shut (Only offSeal · y) → Shut (Only offSeal · (go y))) : Shut (Only offSeal · (hostTransaction s wire sent bad go)) := by
  simp [hostTransaction, h, hgo]
theorem execFrameTick_shut {inp s} (h : Shut (Only offSeal · s)) : ShutAfter (execFrameTick inp s) := by
  simp [execFrameTick, h]
theorem execBegin_shut {req s} (h : Shut (Only offSeal · s)) : ShutAfter (execBegin req s) := by
  simp [execBegin, h]
theorem execActivate_shut {req s} (h : Shut (Only offSeal · s)) : ShutAfter (execActivate req s) := by
  simp [execActivate, h]
theorem execCancel_shut {req s} (h : Shut (Only offSeal · s)) : ShutAfter (execCancel req s) := by
  simp [execCancel, h]
theorem execArm_shut {n s} (h : Shut (Only offSeal · s)) : ShutAfter (execArm n s) := by
  simp [execArm, h]
theorem execCommit_shut {s} (h : Shut (Only offSeal · s)) : ShutAfter (execCommit s) := by
  simp [execCommit, h]
theorem execCommitDeadline_shut {s} (h : Shut (Only offSeal · s)) : ShutAfter (execCommitDeadline s) := by
  simp [execCommitDeadline, h]
theorem execSelectorCommit_shut {s} (h : Shut (Only offSeal · s)) : ShutAfter (execSelectorCommit s) := by
  unfold execSelectorCommit
  (repeat' split) <;> simp [h]
theorem execPlanActivation_shut {s} (h : Shut (Only offSeal · s)) : ShutAfter (execPlanActivation s) := by
  unfold execPlanActivation
  (repeat' split) <;> simp [h]
theorem execPulseStart_shut {out s} (h : Shut (Only offSeal · s)) : ShutAfter (execPulseStart out s) := by
  simp [execPulseStart, h]
theorem execPairRead_shut {req addr s} (h : Shut (Only offSeal · s)) : ShutAfter (execPairRead req addr s) := by
  unfold execPairRead
  (repeat' split) <;> simp [h]
theorem execSlateColdStart_shut {s} (_h : Shut (Only offSeal · s)) : ShutAfter (execSlateColdStart s) := by
  unfold execSlateColdStart
  dsimp only
  (repeat' split) <;> simp
theorem execSealDebounceComplete_shut {s} (h : Shut (Only offSeal · s)) : ShutAfter (execSealDebounceComplete s) := by
  unfold execSealDebounceComplete
  dsimp only
  (repeat' split) <;> simp [h]
theorem execSealOpenDecision_shut {s} (h : Shut (Only offSeal · s)) : ShutAfter (execSealOpenDecision s) := by
  simp [execSealOpenDecision, h]
theorem execLegalRequest_shut {s} (h : Shut (Only offSeal · s)) : ShutAfter (execLegalRequest s) := by
  unfold execLegalRequest
  (repeat' split) <;> simp [h]
theorem execScrollDwellExpiry_shut {s} (h : Shut (Only offSeal · s)) : ShutAfter (execScrollDwellExpiry s) := by
  simp [execScrollDwellExpiry, h]
theorem execButtonPress_shut {s} (h : Shut (Only offSeal · s)) : ShutAfter (execButtonPress s) := by
  simp [execButtonPress, h]
theorem execButtonLongPress_shut {s} (h : Shut (Only offSeal · s)) : ShutAfter (execButtonLongPress s) := by
  simp [execButtonLongPress, h]
theorem execItemRedraw_shut {s} (h : Shut (Only offSeal · s)) : ShutAfter (execItemRedraw s) := by
  simp [execItemRedraw, h]
theorem execRead_shut {req addr len wire s} (h : Shut (Only offSeal · s)) : ShutAfter (execRead req addr len wire s) := by
  unfold execRead
  split
  · rw [shutAfter_next]
    exact hostTransaction_shut h fun y hy => by dsimp only; split <;> simp [hy]
  · simp [h]
theorem execWrite_shut {req addr bytes wire s} (h : Shut (Only offSeal · s)) : ShutAfter (execWrite req addr bytes wire s) := by
  unfold execWrite
  split
  · rw [shutAfter_next]
    exact hostTransaction_shut h fun y hy => by dsimp only; split <;> simp [hy]
  · simp [h]
theorem execRegisterWrite_shut {req addr w s} (h : Shut (Only offSeal · s)) : ShutAfter (execRegisterWrite req addr w s) := by
  simp [execRegisterWrite, h]
theorem execGet_shut {port client upper addr s} (h : Shut (Only offSeal · s)) : ShutAfter (execGet port client upper addr s) := by
  unfold execGet
  dsimp only
  (repeat' split) <;> simp [h]
theorem execSet_shut {port client upper addr w s} (h : Shut (Only offSeal · s)) : ShutAfter (execSet port client upper addr w s) := by
  simp [execSet, h]
theorem execDlmsAction_shut {port client upper addr w s} (h : Shut (Only offSeal · s)) : ShutAfter (execDlmsAction port client upper addr w s) := by
  simp [execDlmsAction, h]
theorem execOpRead_shut {hdr addr len s} (h : Shut (Only offSeal · s)) : ShutAfter (execOpRead hdr addr len s) := by
  simp [execOpRead, h]
theorem execOpWrite_shut {hdr addr data s} (h : Shut (Only offSeal · s)) : ShutAfter (execOpWrite hdr addr data s) := by
  simp [execOpWrite, h]
theorem execPowerOn_shut {clksel s} (h : Shut (Only offSeal · s)) : ShutAfter (execPowerOn clksel s) := by
  simp [execPowerOn, h]
theorem execSlatePowerLoss_shut {s} (h : Shut (Only offSeal · s)) : ShutAfter (execSlatePowerLoss s) := by
  simp [execSlatePowerLoss, h]
theorem execStartSequence_shut {katA katB s} (h : Shut (Only offSeal · s)) : ShutAfter (execStartSequence katA katB s) := by
  unfold execStartSequence
  (repeat' split) <;> simp [h]
theorem execRunEntry_shut {s} (h : Shut (Only offSeal · s)) : ShutAfter (execRunEntry s) := by
  simp [execRunEntry, h]
theorem execRecoveryEntry_shut {s} (h : Shut (Only offSeal · s)) : ShutAfter (execRecoveryEntry s) := by
  unfold execRecoveryEntry
  dsimp only
  (repeat' split) <;> simp [h]
theorem execPowerFailCommit_shut {dur s} (h : Shut (Only offSeal · s)) : ShutAfter (execPowerFailCommit dur s) := by
  simp [execPowerFailCommit, h]
theorem execResetRelease_shut {s} (h : Shut (Only offSeal · s)) : ShutAfter (execResetRelease s) := by
  simp [execResetRelease, h]
theorem execWdakick_shut {req w s} (h : Shut (Only offSeal · s)) : ShutAfter (execWdakick req w s) := by
  simp [execWdakick, h]
theorem execAppWatchdogExpiry_shut {s} (h : Shut (Only offSeal · s)) : ShutAfter (execAppWatchdogExpiry s) := by
  simp [execAppWatchdogExpiry, h]

/-- Of the granted decisions only the one on the seal opens it. -/
theorem granted_shut {s d} (h : Shut (Only offSeal · s)) (hdec : d ≠ .sealOpen) : Shut (Only offSeal · (granted s d)) := by
  cases d with
  | sealOpen => exact absurd rfl hdec
  | _ => simp [granted, h]
theorem decide2_shut {s d second} (h : Shut (Only offSeal · s)) (hopen : d.dec = .sealOpen → d.first = true → False) :
    Shut (Only offSeal · (decide2 s d second)) := by
  have hgrant (y) (hy : Shut (Only offSeal · y)) : (d.first && second) = true → Shut (Only offSeal · (granted y d.dec)) :=
    fun hagree => granted_shut hy fun hdec => hopen hdec (Bool.and_eq_true_iff.mp hagree).1
  unfold decide2
  dsimp only
  (repeat' split) <;> simp [*]
theorem execSecondEvaluator_shut {upset s} (h : Shut (Only offSeal · s))
    (hopen : ∀ d rest, s.tp.dd = d :: rest → d.dec = .sealOpen → d.first = true → False) : ShutAfter (execSecondEvaluator upset s) := by
  unfold execSecondEvaluator
  split
  · simpa using h
  next d rest hdd =>
    have hdec (y) (hy : Shut (Only offSeal · y)) (b) : Shut (Only offSeal · (decide2 y d b)) := decide2_shut hy (hopen d rest hdd)
    dsimp only
    (repeat' split) <;> simp [h, hdec]

theorem exec_shut {c : Instr} {s : State} (h : Shut (Only offSeal · s))
    (hopen : ∀ upset, c = .secondEvaluator upset → ∀ d rest, s.tp.dd = d :: rest → d.dec = .sealOpen → d.first = true → False) :
    ShutAfter (exec c s) := by
  cases c with
  | frameTick => exact execFrameTick_shut h
  | begin => exact execBegin_shut h
  | activate => exact execActivate_shut h
  | cancel => exact execCancel_shut h
  | arm => exact execArm_shut h
  | commit => exact execCommit_shut h
  | commitDeadline => exact execCommitDeadline_shut h
  | selectorCommit => exact execSelectorCommit_shut h
  | planActivation => exact execPlanActivation_shut h
  | pulseStart => exact execPulseStart_shut h
  | pairRead => exact execPairRead_shut h
  | slateColdStart => exact execSlateColdStart_shut h
  | sealDebounceComplete => exact execSealDebounceComplete_shut h
  | sealOpenDecision => exact execSealOpenDecision_shut h
  | legalRequest => exact execLegalRequest_shut h
  | scrollDwellExpiry => exact execScrollDwellExpiry_shut h
  | buttonPress => exact execButtonPress_shut h
  | buttonLongPress => exact execButtonLongPress_shut h
  | itemRedraw => exact execItemRedraw_shut h
  | read => exact execRead_shut h
  | write => exact execWrite_shut h
  | registerWrite => exact execRegisterWrite_shut h
  | get => exact execGet_shut h
  | set => exact execSet_shut h
  | dlmsAction => exact execDlmsAction_shut h
  | opRead => exact execOpRead_shut h
  | opWrite => exact execOpWrite_shut h
  | powerOn => exact execPowerOn_shut h
  | slatePowerLoss => exact execSlatePowerLoss_shut h
  | startSequence => exact execStartSequence_shut h
  | runEntry => exact execRunEntry_shut h
  | recoveryEntry => exact execRecoveryEntry_shut h
  | powerFailCommit => exact execPowerFailCommit_shut h
  | resetRelease => exact execResetRelease_shut h
  | wdakick => exact execWdakick_shut h
  | appWatchdogExpiry => exact execAppWatchdogExpiry_shut h
  | secondEvaluator upset => exact execSecondEvaluator_shut h (hopen upset rfl)
  | _ => exact fun u hx => shut_of_parts h (exec_only _ s u hx) rfl

/-- The command after which a seal is open that was shut. -/
theorem opening_command {c : Instr} {s t : State} (hx : exec c s = .next t) (ht : t.tp.sealSt = 2) (hs : s.tp.sealSt ≠ 2) :
    ∃ upset d rest, c = .secondEvaluator upset ∧ s.tp.dd = d :: rest ∧ d.dec = .sealOpen ∧ d.first = true := by
  by_contra hnone
  have hshut : Shut (Only offSeal · t) := by
    refine exec_shut (shut_iff.mpr hs) (fun upset hc d rest hdd hdec hfirst => ?_) t hx
    exact hnone ⟨upset, d, rest, hc, hdd, hdec, hfirst⟩
  exact shut_iff.mp hshut ht

end Sys2Proof.Laws
end

section
/-! Which commands can change a single value of the state: read off the lists of parts (log 18). -/

namespace Sys2Proof.Laws

open Sys2Proof.Machine

/-- A value that is not among a command's parts stays. -/
theorem part_moves {c : Instr} {s t : State} (p : Part) (hx : exec c s = .next t) (h : ¬ same s t p) : (partsOf c).contains p = true :=
  Bool.not_eq_false _ ▸ fun hp => h (exec_only c s t hx p hp)

theorem frame_commands {c : Instr} (h : (partsOf c).contains .frame = true) :
    (∃ inp, c = .frameTick inp) ∨ c = .frameRenumber ∨ (∃ b, c = .powerOn b) ∨ c = .resetRelease := by
  cases c with
  | frameTick inp => exact .inl ⟨inp, rfl⟩
  | frameRenumber => exact .inr (.inl rfl)
  | powerOn b => exact .inr (.inr (.inl ⟨b, rfl⟩))
  | resetRelease => exact .inr (.inr (.inr rfl))
  | _ => cases h

theorem plan_commands {c : Instr} (h : (partsOf c).contains .plan = true) :
    c = .planActivation ∨ (∃ b, c = .powerOn b) ∨ c = .resetRelease ∨ c = .bootComplete ∨
      (∃ a b, c = .startSequence a b) ∨ c = .runEntry ∨ c = .recoveryEntry := by
  cases c with
  | planActivation => exact .inl rfl
  | powerOn b => exact .inr (.inl ⟨b, rfl⟩)
  | resetRelease => exact .inr (.inr (.inl rfl))
  | bootComplete => exact .inr (.inr (.inr (.inl rfl)))
  | startSequence a b => exact .inr (.inr (.inr (.inr (.inl ⟨a, b, rfl⟩))))
  | runEntry => exact .inr (.inr (.inr (.inr (.inr (.inl rfl)))))
  | recoveryEntry => exact .inr (.inr (.inr (.inr (.inr (.inr rfl)))))
  | _ => cases h

theorem mode_commands {c : Instr} (h : (partsOf c).contains .mode = true) :
    (∃ inp, c = .frameTick inp) ∨ (∃ d, c = .powerFailCommit d) ∨ c = .mainPowerLoss ∨ c = .slatePowerLoss ∨ c = .slateColdStart ∨
      (∃ b, c = .powerOn b) ∨ c = .resetRelease ∨ c = .bootComplete ∨ c = .runEntry ∨ c = .recoveryEntry := by
  cases c with
  | frameTick inp => exact .inl ⟨inp, rfl⟩
  | powerFailCommit d => exact .inr (.inl ⟨d, rfl⟩)
  | mainPowerLoss => exact .inr (.inr (.inl rfl))
  | slatePowerLoss => exact .inr (.inr (.inr (.inl rfl)))
  | slateColdStart => exact .inr (.inr (.inr (.inr (.inl rfl))))
  | powerOn b => exact .inr (.inr (.inr (.inr (.inr (.inl ⟨b, rfl⟩)))))
  | resetRelease => exact .inr (.inr (.inr (.inr (.inr (.inr (.inl rfl))))))
  | bootComplete => exact .inr (.inr (.inr (.inr (.inr (.inr (.inr (.inl rfl)))))))
  | runEntry => exact .inr (.inr (.inr (.inr (.inr (.inr (.inr (.inr (.inl rfl))))))))
  | recoveryEntry => exact .inr (.inr (.inr (.inr (.inr (.inr (.inr (.inr (.inr rfl))))))))
  | _ => cases h

end Sys2Proof.Laws

open Sys2Proof Sys2Proof.Machine Sys2Proof.Laws

/-- Settles O5: the footprint of each command. -/
theorem commandsKeepTheOtherParts : Obligations.CommandsKeepTheOtherParts := exec_only

/-- Settles O10: the fields of the reset state. -/
theorem resetValues : Obligations.ResetValues := by
  refine ⟨rfl, rfl, rfl, rfl, rfl, rfl, rfl, rfl, rfl, rfl, rfl, rfl, rfl, rfl, rfl, rfl, ?_⟩
  exact ⟨by decide, by decide⟩

/-- Settles O9: the lists of parts name the commands that can move a frame number, a plan in force and an operating state
(`frame_commands`, `plan_commands`, `mode_commands`); of the commands that touch the seal one opens it (`opening_command`). -/
theorem singleValuesMoveOnlyByTheirCommands : Obligations.SingleValuesMoveOnlyByTheirCommands :=
  ⟨fun _ _ _ hx hne => frame_commands (part_moves .frame hx hne), fun _ _ _ hx hne => plan_commands (part_moves .plan hx hne),
    fun _ _ _ => opening_command, fun _ _ _ hx hne => mode_commands (part_moves .mode hx hne)⟩
end

section
/-! The frame number at a tick and in a chain (02 R32, R41, R44, R49). -/

namespace Sys2Proof.Laws

open Sys2Proof.Machine

/-- Every part but the frame number. -/
def offFrame : List Part :=
  [.pending, .sup, .tb, .fe, .cv, .qu, .pl, .met, .pq, .ls, .bl, .rtc, .tp, .er, .dp, .tr, .hp, .ser, .cb, .nv, .fresh,
   .mode, .seal, .plan, .clock]

@[simp] theorem mem_offFrame (p : Part) : p ∈ offFrame ↔ p ≠ .frame := by
  cases p <;> decide

theorem frame_of_only {s t : State} (h : Only offFrame s t) : t.tb.frame = s.tb.frame := h .frame rfl

/-! ## The tick -/

/-- The state in which a frame tick moves the timebase on: the requests in effect, the frame that ends taken in. -/
def frameEnded (s : State) (inp : TickInput) : State :=
  endLaneFrame (endFrame (applyRwl (s.mapSup fun u => { u with startTicks := u.startTicks + 1 })) inp)

theorem frameEnded_tb (s : State) (inp : TickInput) : (frameEnded s inp).tb = s.tb :=
  (show Only [.sup, .fe, .cv, .qu, .pl, .met, .pq, .ls, .bl, .rtc, .tp, .er, .dp, .tr, .hp, .ser, .nv, .fresh, .seal] s (frameEnded s inp) by
    simp [frameEnded]) .tb rfl

/-- After the timebase nothing of a tick touches the frame number. -/
theorem frameTick_frame (s : State) (inp : TickInput) :
    (frameTick s inp).tb.frame = (nextNumber (markerTick (frameEnded s inp))).tb.frame := by
  have hafter : Only offFrame (nextNumber (markerTick (frameEnded s inp))) (timebaseTick (frameEnded s inp)) := by simp [timebaseTick]
  have htick : Only offFrame (timebaseTick (frameEnded s inp)) (frameTick s inp) := by simp [frameTick, frameEnded]
  exact (only_trans hafter htick) .frame rfl

theorem nextNumber_frame_of_noJump {s : State} (h : s.tb.jump = none) : (nextNumber s).tb.frame = s.tb.frame + 1 := by
  simp [nextNumber, h]

theorem nextNumber_frame_before {s : State} {m n : Frame} (h : s.tb.jump = some (m, n)) (hlt : (s.tb.frame + 1).toNat < m.toNat) :
    (nextNumber s).tb.frame = s.tb.frame + 1 := by
  simp only [nextNumber, h, if_pos hlt, mapTb_tb]

theorem announceJump_frame (s : State) (n : Nat) : (announceJump s n).tb.frame = s.tb.frame :=
  frame_of_only (by simp)
theorem noteJump_frame (s : State) (m : Frame) (n : Nat) : (noteJump s m n).tb.frame = s.tb.frame :=
  frame_of_only (by simp)

/-- At the tick of a jump or after it the frame takes the jump's number where that is above the next one. -/
theorem nextNumber_frame_at {s : State} {m n : Frame} (h : s.tb.jump = some (m, n)) (hge : m.toNat ≤ (s.tb.frame + 1).toNat) :
    (nextNumber s).tb.frame = if (s.tb.frame + 1).toNat < n.toNat then n else s.tb.frame + 1 := by
  have hreach : (0 < n.toNat - (s.tb.frame + 1).toNat) = ((s.tb.frame + 1).toNat < n.toNat) := propext Nat.sub_pos_iff_lt
  simp only [nextNumber, h, if_neg (Nat.not_lt.mpr hge), hreach]
  split
  all_goals
    (repeat' split) <;> simp [announceJump_frame, noteJump_frame, *]

theorem bootTick_frame (s : State) : (bootTick s).tb.frame = s.tb.frame + 1 := by
  have hrest (y : State) : (frameCommitTick (subTick (opsTick y))).tb.frame = y.tb.frame := frame_of_only (by simp)
  unfold bootTick
  rw [hrest, mapTb_tb]

end Sys2Proof.Laws

open Sys2Proof Sys2Proof.Machine Sys2Proof.Laws

/-- Settles O11: a tick of BOOT counts one frame (`bootTick_frame`), any other takes its number from `nextNumber` (`frameTick_frame`). -/
theorem frameTickNumbersTheFrame : Obligations.FrameTickNumbersTheFrame := by
  intro inp s
  constructor
  · intro hoff
    simp [exec, execFrameTick, hoff]
  · intro hon
    by_cases hboot : s.sup.st = .boot ∧ s.sup.recmon = false
    · exact ⟨bootTick s, by simp [exec, execFrameTick, hon, hboot], fun _ => bootTick_frame s, fun h => absurd hboot h⟩
    · have htb : (markerTick (frameEnded s inp)).tb.frame = s.tb.frame ∧ (markerTick (frameEnded s inp)).tb.jump = s.tb.jump := by
        rw [markerTick, mapTb_tb, frameEnded_tb]
        exact ⟨rfl, rfl⟩
      obtain ⟨hframe, hjump⟩ := htb
      refine ⟨frameTick s inp, by simp [exec, execFrameTick, hon, hboot], fun h => ?_, fun _ m n hmn => ⟨fun hlt => ?_, fun hge hlt => ?_, fun hge hle => ?_⟩⟩
      all_goals rw [frameTick_frame]
      · rw [nextNumber_frame_of_noJump (hjump.trans (h.resolve_left hboot)), hframe]
      · rw [nextNumber_frame_before (hjump.trans hmn) (by rwa [hframe]), hframe]
      · rw [nextNumber_frame_at (hjump.trans hmn) (by rwa [hframe]), hframe, if_pos hlt]
      · rw [nextNumber_frame_at (hjump.trans hmn) (by rwa [hframe]), hframe, if_neg (Nat.not_lt.mpr hle)]

end

section
/-! Markers and the states of the timebase (02 R39 to R48). -/

namespace Sys2Proof.Laws

open Sys2Proof.Machine

theorem exec_within {c : Instr} {s t : State} {ps : List Part} (hx : exec c s = .next t) (w : within (partsOf c) ps = true) : Only ps s t :=
  only_mono w (exec_only c s t hx)

@[simp] theorem setRole_tb (s : State) (r : Nat) : (setRole s r).tb = { s.tb with role := r } := by
  unfold setRole
  split
  next h => rw [← h]
  · rw [irq_tb, mapTb_tb]

@[simp] theorem enterRelock_tb (s : State) : (enterRelock s).tb =
    { s.tb with st := .relock, paired := false, burst := 16, probeTicks := 16, probes := [], inRange := 0, missed := 0 } := rfl
@[simp] theorem enterRelock_cb (s : State) : (enterRelock s).cb = s.cb := rfl

/-! ## A marker -/

/-- The timebase once a jump is armed. -/
theorem armJump_tb (s : State) (ann : Frame) (j : Frame × Frame) :
    (armJump s ann j).tb = { s.tb with jump := some j, jumpAnn := if s.tb.jump = some j then s.tb.jumpAnn else ann } := by
  unfold armJump
  split
  next h => rw [← h]
  · split <;> simp
theorem armJump_cb (s : State) (ann : Frame) (j : Frame × Frame) : (armJump s ann j).cb = s.cb := by
  unfold armJump
  (repeat' split) <;> simp

/-- The jump in the own count that a marker announces, the one announced before where it announces none (log 119). -/
def markerJump (s : State) (m : Marker) : Option (Frame × Frame) :=
  match m.jump with
  | some (j, n) => some (j + (s.tb.frame + BitVec.ofInt 48 (nearTick (implied s m))) - m.frame, n)
  | none => s.tb.jump

/-- The timebase after a valid marker. -/
theorem applyMarker_tb (s : State) (m : Marker) : ∃ v a, (applyMarker s m).tb =
    { s.tb with markerSeen := true, phe := nearPhase (implied s m), uphold := m.hold, depth := min 16 (m.depth + 1), lastMarker := some m,
                slew := v, jump := markerJump s m, jumpAnn := a } := by
  unfold applyMarker markerJump
  rcases m.jump with - | ⟨j, n⟩
  · exact ⟨_, _, rfl⟩
  · exact ⟨_, _, armJump_tb _ _ _⟩
theorem applyMarker_silent (s : State) (m : Marker) : (portAt (applyMarker s m) 0).silent = 0 := by
  unfold applyMarker
  dsimp only
  split
  · rw [portAt, armJump_cb]
    simp [State.setPort]
  · simp

end Sys2Proof.Laws

open Sys2Proof Sys2Proof.Machine Sys2Proof.Laws

/-- Settles O12: what every valid marker sets is set by `applyMarker` (`applyMarker_tb`), on which a free or held device relocks. -/
theorem markersAreTaken : Obligations.MarkersAreTaken := by
  intro m s
  refine ⟨fun h => ?_, fun hv hon hboot hmon => ?_, fun hv hon hrun => ?_⟩
  · rcases h with h | h <;> simp [exec, execMarkerReceive, h]
  · simp [exec, execMarkerReceive, hv, hon, hboot, hmon, State.mapTb]
  · obtain ⟨v, a, htb⟩ := applyMarker_tb s m
    have hsilent := applyMarker_silent s m
    have htaken : ∃ t, exec (.markerReceive m) s = .next t ∧ t.cb = (applyMarker s m).cb ∧
        t.tb = if s.tb.st = .free ∨ s.tb.st = .holdover then (setRole (enterRelock (applyMarker s m)) 2).tb else (applyMarker s m).tb := by
      have hstart : ¬ (s.sup.st = .boot ∧ s.sup.recmon = false) := by
        rintro ⟨hboot, hmon⟩
        simp [hboot, hmon] at hrun
      simp only [exec, execMarkerReceive]
      rw [if_neg (by simp [hv, hon]), if_neg (by simpa using hstart)]
      cases s.tb.st <;> exact ⟨_, rfl, by simp, by simp⟩
    obtain ⟨t, hx, hcb, ht⟩ := htaken
    have honly : Only [.tb, .fresh, .ls, .cb, .nv, .er, .hp, .qu] s t := exec_within hx rfl
    refine ⟨t, hx, ?_⟩
    rw [portAt, hcb, ht]
    have hnone : m.jump = none → markerJump s m = s.tb.jump := fun h => by simp [markerJump, h]
    have hsome (j n) (h : m.jump = some (j, n)) :
        markerJump s m = some (j + (s.tb.frame + BitVec.ofInt 48 (nearTick (implied s m))) - m.frame, n) := by simp [markerJump, h]
    split
    · rw [setRole_tb, enterRelock_tb, htb]
      exact ⟨rfl, rfl, rfl, rfl, rfl, hsilent, rfl, hnone, hsome, ⟨rfl, rfl, rfl, rfl⟩, honly⟩
    · rw [htb]
      exact ⟨rfl, rfl, rfl, rfl, rfl, hsilent, rfl, hnone, hsome, rfl, honly⟩
end

section
/-! Messages on a port, probes and renumbering in a chain (02 R41, R49; 15 R360). -/

namespace Sys2Proof.Laws

open Sys2Proof.Machine

/-! ## A message on a port -/

theorem portUp_iff {s : State} {p : Nat} : portUp s p = true ↔ (portAt s p).st = 2 := by simp [portUp]

theorem sendPort_of_down {s : State} {p : Nat} (m : OutMsg) (h : portUp s p = false) : sendPort s p m = s := by
  have hst : (portAt s p).st ≠ 2 := by simpa [portUp] using h
  simp [sendPort, hst]

/-- With a free place in the window a message goes out at once. -/
theorem sendPort_of_room {s : State} {p : Nat} {m : OutMsg} (hup : portUp s p = true) (hroom : (portAt s p).out.length < 4)
    (hfree : held s p m = false) : sendPort s p m =
      s.setPort p { portAt s p with out := (portAt s p).out ++ [{ m with hseq := (portAt s p).nextSeq, sends := 1 }],
                                    nextSeq := ((portAt s p).nextSeq + 1) % 256 } := by
  simp [sendPort, portUp_iff.mp hup, hroom, hfree]

/-- Without one it waits. -/
theorem sendPort_of_full {s : State} {p : Nat} (m : OutMsg) (hup : portUp s p = true) (hfull : 4 ≤ (portAt s p).out.length) :
    sendPort s p m = s.setPort p { portAt s p with wait := (portAt s p).wait ++ [m] } := by
  simp [sendPort, portUp_iff.mp hup, Nat.not_lt.mpr hfull]

theorem setPort_only_cb (s : State) (p : Nat) (x : CbPort) : Only [.cb] s (s.setPort p x) := mapCb_base s _

@[simp] theorem portAt_mapTb (s : State) (f) (p : Nat) : portAt (s.mapTb f) p = portAt s p := rfl
@[simp] theorem portUp_mapTb (s : State) (f) (p : Nat) : portUp (s.mapTb f) p = portUp s p := rfl

/-- Nothing upstream is held back. -/
theorem held_upstream (s : State) (m : OutMsg) : held s 0 m = false := by simp [held]
theorem ownAddr_of_up {s : State} (h : portUp s 0 = true) : ownAddr s = s.cb.addr := by simp [ownAddr, noUpstream, h]
theorem cdPort_mem {p : Nat} (h : p = 1 ∨ p = 2 ∨ p = 3) : cdPorts.contains p = true := by
  rcases h with rfl | rfl | rfl <;> rfl

/-! ## Probes -/

theorem execProbe_eq {p : Nat} (t2 t3 : Nat) (s : State) (hp : p = 1 ∨ p = 2 ∨ p = 3) : exec (.probe p t2 t3) s =
    .next (sendPort s p { type := 0x11, dst := 0, src := ownAddr s, data := leBytes 8 t2 ++ leBytes 8 t3 }) := by
  simp only [exec, execProbe, cdPort_mem hp]
  rfl

theorem execProbeTimer_waits {s : State} (h : probeSpacing s.tb = none ∨ portUp s 0 = false ∨ ∃ n, probeSpacing s.tb = some n ∧ s.tb.probeTicks < n) :
    exec .probeTimer s = .next s := by
  rcases h with h | h | ⟨n, h, hlt⟩
  · simp [exec, execProbeTimer, h]
  · simp only [exec, execProbeTimer, h]
    split <;> simp
  · simp [exec, execProbeTimer, h, hlt]

theorem dropOutliers_length (l : List Int) : (dropOutliers l).length ≤ l.length := by
  unfold dropOutliers
  split
  · exact Nat.le_refl _
  · exact List.length_filter_le ..

theorem mem_of_mem_dropOutliers {l : List Int} {x : Int} (h : x ∈ dropOutliers l) : x ∈ l := by
  unfold dropOutliers at h
  split at h
  · exact h
  · exact List.mem_of_mem_filter h

/-! ## Pairing, renumbering and reports -/

theorem noteJump_tb (s : State) (m : Frame) (n : Nat) :
    (noteJump s m n).tb = { s.tb with jumped := true, jmpAmt := min n max32, jmpFrame := m } := by simp [noteJump]

theorem commitFrame_nv (s : State) (f : Frame) : (commitFrame s f).nv = { s.nv with frame := Pair.of f } :=
  (show Only [.qu, .ls, .er, .hp] (s.mapNv fun n => { n with frame := Pair.of f }) (commitFrame s f) by simp [commitFrame]) .nv rfl

theorem sub_bitVec {a b : Frame} (h : a.toNat ≤ b.toNat) : BitVec.ofNat 48 (b.toNat - a.toNat) = b - a := by
  apply BitVec.eq_of_toNat_eq
  rw [BitVec.toNat_ofNat, BitVec.toNat_sub_of_le h]
  exact Nat.mod_eq_of_lt (Nat.lt_of_le_of_lt (Nat.sub_le ..) b.isLt)

/-- What the pairing of a relocking device does. -/
def paired (s : State) (p : Frame) (ph : Int) : State :=
  let x := s.mapTb fun t => { t with paired := true, phe := ph }
  if s.fnum < p.toNat then (commitFrame x p).mapTb fun t => { t with renumber := some (p - s.tb.frame) }
  else if p.toNat < s.fnum then sendReport x (ownAddr s) (s.fnum - p.toNat)
  else x

theorem paired_of_lt {s : State} {p : Frame} (ph : Int) (h : s.tb.frame.toNat < p.toNat) : paired s p ph =
    (commitFrame (s.mapTb fun t => { t with paired := true, phe := ph }) p).mapTb fun t => { t with renumber := some (p - s.tb.frame) } :=
  if_pos h

theorem paired_of_gt {s : State} {p : Frame} (ph : Int) (h : p.toNat < s.tb.frame.toNat) : paired s p ph =
    sendReport (s.mapTb fun t => { t with paired := true, phe := ph }) (ownAddr s) (s.fnum - p.toNat) :=
  (if_neg (Nat.not_lt.mpr (Nat.le_of_lt h))).trans (if_pos h)

theorem paired_of_eq {s : State} {p : Frame} (ph : Int) (h : p = s.tb.frame) : paired s p ph = s.mapTb fun t => { t with paired := true, phe := ph } := by
  simp [paired, State.fnum, h]

end Sys2Proof.Laws

open Sys2Proof Sys2Proof.Machine Sys2Proof.Laws

/-- Settles O13: each command is one test and one move of the timebase. -/
theorem timebaseStatesMove : Obligations.TimebaseStatesMove := by
  refine ⟨fun s hst hin => ?_, fun s h => ?_, fun s hst hacq hserve hnostart => ?_, fun s h => ?_, fun s hst hmiss hseen hon => ?_, fun s h => ?_⟩
  · simp [exec, execTimebaseLock, hst, hin, State.mapTb]
  · have hno : ¬ ((s.tb.st = .acquire ∨ (s.tb.st = .relock ∧ s.tb.paired)) ∧ 256 ≤ s.tb.inRange) := by
      rintro ⟨hst, hin⟩
      rcases h with h | ⟨hacq, hrel⟩ | ⟨hrel, hpair⟩
      · omega
      · exact hst.elim hacq fun k => hrel k.1
      · simp [hrel, hpair] at hst
    simp only [exec, execTimebaseLock, if_neg hno]
  · simp [exec, execAcquireTimeout, hst, hacq, hserve, hnostart, enterRelock, State.mapTb]
  · have hno : ¬ (s.tb.st = .acquire ∧ 65536 ≤ s.tb.acqFrames ∧ serving s ∧ s.sup.st ≠ .start) := by
      rintro ⟨hst, hacq, hserve, hnostart⟩
      rcases h with h | h | h | h
      · exact h hst
      · omega
      · simp [h] at hserve
      · exact hnostart h
    simp only [exec, execAcquireTimeout, if_neg hno]
  · have hx : exec .missingMarkerTimeout s = .next (enterHoldover s) := by
      simp [exec, execMissingMarkerTimeout, hst, hmiss, hseen, hon]
    refine ⟨_, hx, ?_⟩
    exact ⟨by simp [enterHoldover], by simp [enterHoldover], by simp [enterHoldover], by simp [enterHoldover], by simp [enterHoldover],
      by simp [enterHoldover], exec_within hx rfl⟩
  · have hno : ¬ ((s.tb.st = .locked ∨ s.tb.st = .relock) ∧ 4 ≤ s.tb.missed ∧ !s.tb.markerSeen ∧ s.powered) := by
      rintro ⟨-, hmiss, hseen, hon⟩
      rcases h with h | h | h
      · omega
      · simp [h] at hseen
      · simp [h] at hon
    simp only [exec, execMissingMarkerTimeout, if_neg hno]

/-- Settles O14: what a port does with a message is said by the three `sendPort` laws, what the delays of an exchange give by
`dropOutliers`. -/
theorem probesMeasureTheHop : Obligations.ProbesMeasureTheHop := by
  refine ⟨fun s h => ?_, fun s h => ?_, fun s n hn hle hup hroom => ?_, fun s n hn hlt => execProbeTimer_waits (.inr (.inr ⟨n, hn, hlt⟩)),
    fun s h => execProbeTimer_waits (h.imp_right .inl), fun s p t2 t3 hp hup hroom => ?_, fun s p t2 t3 hp hup hfull => ?_,
    fun s p t2 t3 hp hdown => ?_, fun s t1 t2 t3 t4 d hd hlen => ?_, fun s t1 t2 t3 t4 => ?_⟩
  · simp [exec, execProbeBurst, startBurst, h, State.mapTb]
  · simp [exec, execProbeBurst, startBurst, h]
  · have hx : exec .probeTimer s = .next (sendPort (s.mapTb fun t => { t with burst := t.burst - 1, probeTicks := 0 }) 0
        { type := 0x10, dst := 0, src := s.cb.addr }) := by
      rw [← ownAddr_of_up hup]
      simp [exec, execProbeTimer, hn, hup, Nat.not_lt.mpr hle]
      rfl
    refine ⟨_, hx, by simp, ?_, ?_, exec_within hx rfl⟩
    all_goals rw [sendPort_of_room (s := s.mapTb _) hup hroom (held_upstream ..)]
    · simp
    · intro k hk
      simp [hk]
  · refine ⟨_, execProbe_eq t2 t3 s hp, ?_⟩
    rw [sendPort_of_room hup hroom (by simp [held])]
    exact ⟨setPort_only_cb _ _ _, fun k hk => by simp [hk], by simp⟩
  · refine ⟨_, execProbe_eq t2 t3 s hp, ?_⟩
    rw [sendPort_of_full _ hup hfull]
    exact ⟨setPort_only_cb _ _ _, by simp, by simp⟩
  · rw [execProbe_eq t2 t3 s hp, sendPort_of_down _ hdown]
  · have hfew : dropOutliers ((d :: s.tb.probes).take 16) = d :: s.tb.probes := by
      rw [List.take_of_length_le (by simp; omega), dropOutliers, if_pos (by simp; omega)]
    have hdown : downDelay s t1 t2 t3 t4 = d := hd.symm
    simp only [exec, execProbeReply, hdown, hfew]
    simp [meanI, State.mapTb]
  · refine ⟨_, rfl, exec_within (c := .probeReply t1 t2 t3 t4) rfl rfl, ?_, rfl, fun x hx => ?_⟩
    · exact (dropOutliers_length _).trans (List.length_take_le ..)
    · exact List.mem_cons.mp (List.mem_of_mem_take (mem_of_mem_dropOutliers hx))

/-- Settles O15: the pairing and a report are `sendPort` or a jump announced, the renumbering is `noteJump`. -/
theorem followersTakeTheNumber : Obligations.FollowersTakeTheNumber := by
  refine ⟨fun s p ph hon hst hpair hburst => ?_, fun s p ph h => ?_, fun s d hd hon => ?_, fun s h => ?_, fun s a n hserve hdown hjump hlt => ?_,
    fun s a n j hserve hdown hjump hlt => ?_, fun s a n hserve hdown hle => ?_, fun s a n hserve hup hroom => ?_⟩
  · have hx : exec (.relockPairing p ph) s = .next (paired s p ph) := by
      simp only [exec, execRelockPairing]
      rw [if_neg (by simp [hon, hst, hpair, hburst])]
      rfl
    have honly : Only [.tb, .cb, .ls, .nv, .er, .hp, .qu] s (paired s p ph) := exec_within hx rfl
    have hframe : (paired s p ph).tb.frame = s.tb.frame := frame_of_only (only_mono rfl honly)
    refine ⟨_, hx, ?_⟩
    rcases Nat.lt_trichotomy s.tb.frame.toNat p.toNat with hlt | heq | hgt
    · rw [paired_of_lt ph hlt] at *
      refine ⟨by simp, by simp, hframe, fun _ => ⟨by simp, by simp [commitFrame_nv]⟩, fun hgt => absurd hlt hgt.asymm, fun heq => ?_, honly⟩
      exact absurd hlt (by simp [heq])
    · have hp : p = s.tb.frame := (BitVec.eq_of_toNat_eq heq).symm
      rw [paired_of_eq ph hp] at *
      exact ⟨rfl, rfl, rfl, fun hlt => absurd heq (Nat.ne_of_lt hlt), fun hgt => absurd heq.symm (Nat.ne_of_lt hgt), fun _ => rfl, honly⟩
    · rw [paired_of_gt ph hgt] at *
      refine ⟨by simp [sendReport], by simp [sendReport], hframe, fun hlt => absurd hgt hlt.asymm, fun _ hup hroom => ?_, fun heq => ?_, honly⟩
      · refine ⟨by simp [sendReport], by simp [sendReport], ?_⟩
        rw [sendReport, sendPort_of_room (s := s.mapTb _) hup hroom (held_upstream ..), ownAddr_of_up hup]
        simp [State.fnum]
      · exact absurd hgt (by simp [heq])
  · have hno : (!s.powered) = true ∨ s.tb.st ≠ .relock ∨ s.tb.paired = true ∨ s.tb.burst ≠ 0 := by simpa using h
    simp only [exec, execRelockPairing]
    rw [if_pos hno]
  · have hx : exec .frameRenumber s = .next (aggTick (noteJump (s.mapTb fun t => { t with frame := t.frame + d, renumber := none }) s.tb.frame d.toNat)) := by
      simp [exec, execFrameRenumber, hd, hon]
    refine ⟨_, hx, ?_⟩
    have htb (y : State) : (aggTick y).tb = y.tb := (show Only [.cb, .qu, .er, .hp] y (aggTick y) by simp) .tb rfl
    rw [htb, noteJump_tb]
    exact ⟨rfl, rfl, rfl, rfl, rfl⟩
  · rcases h with h | h
    · simp [exec, execFrameRenumber, h]
    · simp only [exec, execFrameRenumber]
      split <;> simp [h]
  · have hne : n.toNat - s.tb.frame.toNat ≠ 0 := Nat.sub_ne_zero_of_lt hlt
    have hx : exec (.report a n) s = .next (announceJump s (n.toNat - s.tb.frame.toNat)) := by
      simp [exec, execReport, hserve, noUpstream, hdown, takeReport, hne, hjump, State.fnum]
    refine ⟨_, hx, ?_, announceJump_frame .., by simp⟩
    rw [announceJump, armJump_tb, sub_bitVec (Nat.le_of_lt hlt)]
  · have hne : n.toNat - s.tb.frame.toNat ≠ 0 := Nat.sub_ne_zero_of_lt hlt
    simp [exec, execReport, hserve, noUpstream, hdown, takeReport, hne, hjump, State.mapTb, State.fnum]
  · have hz : n.toNat - s.fnum = 0 := Nat.sub_eq_zero_of_le hle
    simp [exec, execReport, hserve, noUpstream, hdown, takeReport, hz]
  · have hx : exec (.report a n) s = .next (sendReport s a (n.toNat - s.fnum)) := by simp [exec, execReport, hserve, noUpstream, hup]
    refine ⟨_, hx, ?_⟩
    rw [sendReport, sendPort_of_room hup hroom (held_upstream ..)]
    exact ⟨setPort_only_cb _ _ _, by simp [State.fnum]⟩
end

section
/-! Events taken in (12 R282, R287) and the result queues (04 R102 to R104). -/

namespace Sys2Proof.Laws

open Sys2Proof.Machine

/-! ## Raising an event -/

theorem raise_of_reserved {s : State} {code : Nat} (chan : Nat) (v : Option Int) (h : severity code = none) : raise s code chan v = s := by
  rw [raise, raiseFuel, h]

theorem raise_of_suppressed {s : State} {code : Nat} (chan : Nat) (v : Option Int) (hsev : severity code ≠ none) (hon : s.powered = true)
    (htok : (bucketAt s code).tokens = 0) : raise s code chan v = updKey (openKey s code chan false) code chan suppressIn := by
  obtain ⟨g, hg⟩ := Option.ne_none_iff_exists'.mp hsev
  rw [raise, raiseFuel, hg]
  simp [hon, htok]

theorem storeSum_irqev (s : State) (m : Summary) : (s.storeSum m).hp.irqev = s.hp.irqev := by
  rw [State.storeSum]
  split <;> simp [State.irq]

theorem closePast_irqev (s : State) (code chan : Nat) : (closePast s code chan).hp.irqev = s.hp.irqev := by
  rw [closePast]
  repeat' split
  · rw [storeSum_irqev, mapEr_hp]
  all_goals rfl

theorem openKey_irqev (s : State) (code chan : Nat) (e : Bool) : (openKey s code chan e).hp.irqev = s.hp.irqev := by
  rw [openKey, ← closePast_irqev s code chan]
  generalize closePast s code chan = x
  split
  · rfl
  · rw [mapEr_hp]
    split
    · rfl
    · dsimp only
      split
      · rw [storeSum_irqev, mapEr_hp]
      · rfl

/-- A token lets an event set its interrupt bit, and what the notice leads to keeps it. -/
theorem raise_sets_irqev {s : State} {code : Nat} (chan : Nat) (v : Option Int) (hsev : severity code ≠ none) (hon : s.powered = true)
    (htok : (bucketAt s code).tokens ≠ 0) (hcode : code < 256) : (raise s code chan v).hp.irqev.getLsbD code = true := by
  obtain ⟨g, hg⟩ := Option.ne_none_iff_exists'.mp hsev
  rw [raise, raiseFuel, hg]
  simp only [hon, if_true, if_neg htok]
  generalize hx : State.irqEvent _ code = x
  have hbit : x.hp.irqev.getLsbD code = true := by rw [← hx, irqEvent_set _ _ hcode]
  have hpush := pushRaw_intake x 0x8 chan [noticeEntry x code chan v]
  split
  next y hy =>
    rw [hy] at hpush
    exact hpush.2.2.2 _ hbit
  next y q hy =>
    rw [hy] at hpush
    exact (raiseFuel_intake ..).2.2.2 _ (hpush.2.2.2 _ hbit)

/-! ## Records into a queue -/

@[simp] theorem fillIrq_queueAt (s : State) (q a b k : Nat) : queueAt (fillIrq s q a b) k = queueAt s k := by
  have h : (fillIrq s q a b).qu = s.qu := (show Only [.hp] s (fillIrq s q a b) by simp) .qu rfl
  rw [queueAt, h, queueAt]

@[simp] theorem mapHp_queueAt (s : State) (f : Port → Port) (k : Nat) : queueAt (s.mapHp f) k = queueAt s k := rfl

theorem drop_of_empty {x : Queue} (h : x.ents = []) : { x with ents := x.ents.drop 1 } = x := by
  cases x
  simp_all

theorem one_le_oldestLen {l : List QEntry} (h : l ≠ []) : 1 ≤ oldestLen l := by
  cases l with
  | nil => exact absurd rfl h
  | cons e t => simp [oldestLen]

theorem dropOldest_of_fits {l : List QEntry} {k depth need : Nat} (h : l.length + need ≤ depth) : dropOldest k depth need l = l := by
  cases k <;> simp [dropOldest, h]

theorem dropOldest_eq_drop (k depth need : Nat) (l : List QEntry) : ∃ n, dropOldest k depth need l = l.drop n := by
  induction k generalizing l with
  | zero => exact ⟨0, rfl⟩
  | succ k ih =>
    rw [dropOldest]
    split
    · exact ⟨0, rfl⟩
    · obtain ⟨n, hn⟩ := ih (l.drop (oldestLen l))
      exact ⟨_, hn.trans (List.drop_drop ..)⟩

/-- A record that a queue of that depth can hold at all fits after the drops. -/
theorem dropOldest_fits {k depth need : Nat} {l : List QEntry} (hk : l.length ≤ k) (hneed : need ≤ depth) :
    (dropOldest k depth need l).length + need ≤ depth := by
  induction k generalizing l with
  | zero =>
    have : l = [] := List.eq_nil_of_length_eq_zero (Nat.le_zero.mp hk)
    simpa [dropOldest, this] using hneed
  | succ k ih =>
    rw [dropOldest]
    split
    next h => exact h
    next h =>
      have hl : l ≠ [] := by rintro rfl; exact h (by simpa using hneed)
      have := one_le_oldestLen hl
      exact ih (by rw [List.length_drop]; omega)

theorem pushTo_of_fits {s : State} {q : Nat} {es : List QEntry} (hmark : (queueAt s q).refused = 0 ∨ q < 16)
    (hfit : (queueAt s q).ents.length + es.length ≤ (routeRec s.plan q).depth) :
    (queueAt (pushTo s q es).s q).ents = (queueAt s q).ents ++ es ∧ (pushTo s q es).ok = true ∧
      (queueAt (pushTo s q es).s q).lost = (queueAt s q).lost := by
  by_cases hq : q < 16
  · simp [pushTo, hq, dropOldest_of_fits hfit]
  · have hr := hmark.resolve_right hq
    simp [pushTo, hq, hr, hfit]

theorem pushTo_of_oldest_dropped {s : State} {q : Nat} {es : List QEntry} (hq : q < 16)
    (hfull : (routeRec s.plan q).depth < (queueAt s q).ents.length + es.length) (hfit : es.length ≤ (routeRec s.plan q).depth) :
    (∃ n, (queueAt (pushTo s q es).s q).ents = (queueAt s q).ents.drop n ++ es) ∧ (pushTo s q es).ok = true ∧
      (queueAt (pushTo s q es).s q).ents.length ≤ (routeRec s.plan q).depth ∧ (queueAt (pushTo s q es).s q).ovf = true := by
  have hkept := dropOldest_fits (l := (queueAt s q).ents) (Nat.le_refl _) hfit
  obtain ⟨n, hn⟩ := dropOldest_eq_drop (queueAt s q).ents.length (routeRec s.plan q).depth es.length (queueAt s q).ents
  have hlost : (queueAt s q).ents.length -
      (dropOldest (queueAt s q).ents.length (routeRec s.plan q).depth es.length (queueAt s q).ents).length ≠ 0 := by omega
  simp only [pushTo, if_pos hq, if_neg hlost, queueAt_setQueue, if_true, List.length_append]
  exact ⟨⟨n, by rw [hn]⟩, trivial, hkept, trivial⟩

theorem pushTo_of_refused {s : State} {q : Nat} {es : List QEntry} (hq : 16 ≤ q)
    (hfull : (routeRec s.plan q).depth < (queueAt s q).ents.length + es.length) :
    (queueAt (pushTo s q es).s q).ents = (queueAt s q).ents ∧ (pushTo s q es).ok = false ∧
      (queueAt (pushTo s q es).s q).lost = satAdd (queueAt s q).lost es.length ∧
      (queueAt (pushTo s q es).s q).refused = (queueAt s q).refused + es.length ∧ (queueAt (pushTo s q es).s q).ovf = true := by
  have hno : ¬ ((queueAt s q).ents.length + (if (queueAt s q).refused = 0 then [] else [markerEntry q s.tb.frame (queueAt s q).refused]).length +
      es.length ≤ (routeRec s.plan q).depth) := by omega
  simp [pushTo, Nat.not_lt.mpr hq, if_neg hno]

theorem pushTo_of_marked {s : State} {q : Nat} {es : List QEntry} (hq : 16 ≤ q) (hr : (queueAt s q).refused ≠ 0)
    (hfit : (queueAt s q).ents.length + 1 + es.length ≤ (routeRec s.plan q).depth) :
    (queueAt (pushTo s q es).s q).ents = (queueAt s q).ents ++ [markerEntry q s.tb.frame (queueAt s q).refused] ++ es ∧
      (queueAt (pushTo s q es).s q).refused = 0 ∧ (pushTo s q es).ok = true := by
  simp [pushTo, Nat.not_lt.mpr hq, hr, hfit]

/-- With room for a waiting marker and the entry, an entry is the last one of the queue and opens no overflow. -/
theorem pushTo_of_room {s : State} {q : Nat} (e : QEntry) (hfit : (queueAt s q).ents.length + 2 ≤ (routeRec s.plan q).depth) :
    (∃ l, (queueAt (pushTo s q [e]).s q).ents = l ++ [e]) ∧ (pushTo s q [e]).opened = false := by
  by_cases hq : q < 16
  · have hfits : (queueAt s q).ents.length + [e].length ≤ (routeRec s.plan q).depth := Nat.le_of_succ_le hfit
    simp only [pushTo, if_pos hq, dropOldest_of_fits hfits, Nat.sub_self, if_true, fillIrq_queueAt, queueAt_setQueue]
    exact ⟨⟨_, rfl⟩, trivial⟩
  · by_cases hr : (queueAt s q).refused = 0
    · simp [pushTo, hq, hr, Nat.le_of_succ_le hfit]
    · have hmark : (queueAt s q).ents.length + [markerEntry q s.tb.frame (queueAt s q).refused].length + [e].length ≤ (routeRec s.plan q).depth := hfit
      simp only [pushTo, if_neg hq, if_neg hr, if_pos hmark, fillIrq_queueAt, queueAt_setQueue, if_true]
      exact ⟨⟨_, rfl⟩, trivial⟩

theorem linkPump_of_none {s : State} (h : linkQueues s = []) : linkPump s = s := by simp [linkPump, h, forEach]

theorem linkQueues_pushTo (s : State) (q : Nat) (es : List QEntry) : linkQueues (pushTo s q es).s = linkQueues s := by
  simp [linkQueues, State.plan]

theorem execQpush_eq (req : Requester) {q : Nat} (w0 w1 w2 w3 : Word) {s : State} (hlo : 24 ≤ q) (hhi : q < 32) (hserve : serving s = true) :
    exec (.qpush req q w0 w1 w2 w3) s = .next (
      if req = .host then (qpushWords s req q w0 w1 w2 w3).1.mapHp fun h =>
        { h with code := if (qpushWords s req q w0 w1 w2 w3).2 = 0 then h.code else (qpushWords s req q w0 w1 w2 w3).2,
                 status := some ((qpushWords s req q w0 w1 w2 w3).2, irqN h, false) }
      else (qpushWords s req q w0 w1 w2 w3).1) := by
  simp [exec, execQpush, isPushQueue, hlo, hhi, hserve]

theorem execQpop0_eq (req : Requester) {q : Nat} {s : State} (hq : q < 32) (hserve : serving s = true) :
    exec (.qpop0 req q) s = .next ((popQueue s req q).mapHp fun h => { h with data := popWords s req q }) := by
  simp [exec, execQpop0, isQueue, hq, hserve]

end Sys2Proof.Laws

open Sys2Proof Sys2Proof.Machine Sys2Proof.Laws

/-- Settles O16: the three ways an event goes are the laws of `raise`. -/
theorem eventsAreTakenIn : Obligations.EventsAreTakenIn := by
  refine fun code chan v s => ⟨fun h => ?_, fun hsev hon htok hcode => ⟨_, rfl, ?_, exec_within (c := .eventRaise code chan v) rfl rfl⟩,
    fun hsev hon htok => ⟨_, rfl, ?_, ?_, ?_⟩⟩
  · rcases h with h | h
    · simp [exec, execEventRaise, raise_of_reserved chan v h]
    · simp [exec, execEventRaise, h]
  · simpa [hon] using raise_sets_irqev chan v hsev hon htok hcode
  all_goals simp [hon, raise_of_suppressed chan v hsev hon htok, openKey_irqev]

/-- Settles O17: a record goes in by the laws of `pushTo`, an entry comes out by `popQueue`. -/
theorem queuesAppendPopAndMark : Obligations.QueuesAppendPopAndMark := by
  refine ⟨fun s q es => ⟨pushTo_of_fits, fun hfull hq _ hfit => pushTo_of_oldest_dropped hq hfull hfit, fun hfull hq => pushTo_of_refused hq hfull,
    fun hr hq hfit => pushTo_of_marked hq hr hfit⟩, fun req q e l s hq hserve hread hents => ?_, fun req q s hq hserve hread hents => ?_,
    fun req q s hq hserve hread => ?_, fun req q w0 w1 w2 w3 s hreq hlo hhi hserve hread hopen => ?_,
    fun req q w0 w1 w2 w3 s hreq hlo hhi hserve hread => ?_, fun q w0 w1 w2 w3 s hlo hhi hserve hreader hroom hlink => ?_,
    fun q s hq hserve hr hroom => ?_, fun q s hq hr => ?_, fun req q w0 w1 w2 w3 s hq hserve => ?_⟩
  · have hx := execQpop0_eq req hq hserve
    refine ⟨_, hx, exec_within hx rfl, ?_, ?_, fun k hk => ?_⟩
    · rw [mapHp_queueAt, popQueue, if_pos hread, queueAt_setQueue, if_pos rfl, hents]
      rfl
    · simp [popQueue, popWords, hread, headEntry, entryWords, hents, State.setQueue]
    · rw [mapHp_queueAt, popQueue, if_pos hread, queueAt_setQueue, if_neg hk]
  · have hx := execQpop0_eq req hq hserve
    refine ⟨_, hx, exec_within hx rfl, ?_, ?_⟩
    · rw [mapHp_queueAt, popQueue, if_pos hread, queueAt_setQueue, if_pos rfl, drop_of_empty hents]
    · simp [popQueue, popWords, hread, headEntry, noEntry, entryWords, hents, State.setQueue]
  · have hx := execQpop0_eq req hq hserve
    refine ⟨_, hx, exec_within hx rfl, ?_, ?_, fun k hk => ?_⟩
    · simp [popQueue, hread]
    · simp [popQueue, popWords, hread, noEntry, entryWords, State.setQueue]
    · simp [popQueue, hread, hk]
  · have hhost : req ≠ .host := by rcases hreq with rfl | rfl <;> simp
    rw [execQpush_eq req w0 w1 w2 w3 hlo hhi hserve, if_neg hhost]
    simp [qpushWords, hread, hopen]
  · have hhost : req ≠ .host := by rcases hreq with rfl | rfl <;> simp
    rw [execQpush_eq req w0 w1 w2 w3 hlo hhi hserve, if_neg hhost]
    simp [qpushWords, hread]
  · obtain ⟨hlast, hopen⟩ := pushTo_of_room (s := s) { tag := pushTag s .host w0, w1 := w1, w2 := w2, w3 := w3 } hroom
    have hlink' := linkPump_of_none ((linkQueues_pushTo s q [{ tag := pushTag s .host w0, w1 := w1, w2 := w2, w3 := w3 }]).trans hlink)
    have hread : isReader (routeRec s.plan q) .host = false := by simp [isReader, hreader]
    have hbad : pushRefused s .host q = false := by
      simp only [pushRefused, hread, Bool.false_or, decide_eq_false_iff_not]
      split <;> omega
    have hx := execQpush_eq .host w0 w1 w2 w3 hlo hhi hserve
    simp only [qpushWords, hread, hopen, hbad, hlink', if_true, Bool.false_eq_true, if_false] at hx
    exact ⟨_, _, hx, by simp, rfl, hlast⟩
  · have hx : exec (.queueMarkerAppend q) s = .next (fillIrq (s.setQueue q { queueAt s q with
        ents := (queueAt s q).ents ++ [markerEntry q s.tb.frame (queueAt s q).refused], refused := 0 }) q
        (queueAt s q).ents.length ((queueAt s q).ents.length + 1)) := by
      simp [exec, execQueueMarkerAppend, isQueue, hq, hserve, hr, hroom]
    exact ⟨_, hx, exec_within hx rfl, by simp, by simp [markerEntry]⟩
  · simp [exec, execQueueMarkerAppend, isQueue, hq, hr]
  · have hid : isQueue q = true := by simp [isQueue, hq]
    refine ⟨by simp [exec, execQpop0, hid, hserve], by simp [exec, execQueueMarkerAppend, hid, hserve], fun hlo => ?_⟩
    simp [exec, execQpush, isPushQueue, hlo, hq, hserve]
end
section
/-! The input probe, the references (03 R65 to R72), and the conversions and calibration of the slices (04 R83 to R97). -/

namespace Sys2Proof.Laws

open Sys2Proof.Machine

/-! ## A fold that touches one key at a time -/

section fold
variable {α κ γ : Type} {f : State → α → State} {key : α → κ} {V : κ → State → γ}

/-- A fold over other keys keeps what is seen of a key. -/
theorem forEach_view_of_ne (hne : ∀ s a k, k ≠ key a → V k (f s a) = V k s) {k : κ} {l : List α} (hk : ∀ a ∈ l, k ≠ key a) (s : State) :
    V k (forEach l f s) = V k s := by
  induction l generalizing s with
  | nil => rfl
  | cons a l ih =>
    rw [List.forall_mem_cons] at hk
    exact (ih hk.2 (f s a)).trans (hne s a k hk.1)

/-- A fold over different keys shows at each what its own step makes of what was seen there. -/
theorem forEach_view (hne : ∀ s a k, k ≠ key a → V k (f s a) = V k s) {l : List α} (hl : (l.map key).Nodup) {a : α} (ha : a ∈ l) (s : State) :
    ∃ x, V (key a) x = V (key a) s ∧ V (key a) (forEach l f s) = V (key a) (f x a) := by
  induction l generalizing s with
  | nil => simp at ha
  | cons b l ih =>
    rw [List.map_cons, List.nodup_cons] at hl
    rcases List.mem_cons.mp ha with rfl | ha
    · refine ⟨s, rfl, forEach_view_of_ne hne (fun c hc he => hl.1 ?_) (f s a)⟩
      exact List.mem_map.mpr ⟨c, hc, he.symm⟩
    · obtain ⟨x, hx, hf⟩ := ih hl.2 ha (f s b)
      have hab : key a ≠ key b := fun he => hl.1 (he ▸ List.mem_map_of_mem ha)
      exact ⟨x, hx.trans (hne s b _ hab), hf⟩

end fold

theorem one_shl_getLsbD {w : Nat} (q k : Nat) (hk : k < w) : (1#w <<< q).getLsbD k = decide (k = q) := by
  rw [BitVec.getLsbD_shiftLeft, BitVec.getLsbD_one]
  by_cases h : k < q
  · simp [h, Nat.ne_of_lt h]
  · by_cases he : k = q
    · simp [he]; omega
    · have : k - q ≠ 0 := by omega
      simp [he, this]

theorem getLsbD_setBit {w : Nat} (x : BitVec w) {q k : Nat} (hk : k < w) : (x ||| (1#w <<< q)).getLsbD k = (x.getLsbD k || decide (k = q)) := by
  rw [BitVec.getLsbD_or, one_shl_getLsbD q k hk]

theorem getLsbD_clearBit {w : Nat} (x : BitVec w) {q k : Nat} (hk : k < w) :
    (x &&& ~~~(1#w <<< q)).getLsbD k = (x.getLsbD k && !decide (k = q)) := by
  rw [BitVec.getLsbD_and, BitVec.getLsbD_not, one_shl_getLsbD q k hk]
  simp [hk]

/-! ## Probes -/

@[simp] theorem feAt_raiseAt (s : State) (code chan : Nat) (v : Option Int) (f : Frame) (c : Nat) : feAt (raiseAt s code chan v f) c = feAt s c := by
  have h : (raiseAt s code chan v f).fe = s.fe := (show Only [.er, .hp, .qu] s (raiseAt s code chan v f) by simp) .fe rfl
  rw [feAt, h, feAt]

theorem feAt_probeDeclare (s : State) (c new res : Nat) (f : Frame) : feAt (probeDeclare s c new res f) c =
    { feAt s c with prbst := new, prbchg := true, prbCand := 0, prbTicks := if new = 1 then 0 else
        if (feAt s c).prbst = 2 ∨ (feAt s c).prbst = 3 then (feAt s c).prbTicks else 0 } := by
  simp only [probeDeclare]
  split
  · simp
  · simp
  · split <;> simp

/-- A result that is not spoilt, as it is shown before it is judged. -/
def probeShown (s : State) (ch r : Nat) : State :=
  let k := probeClass (feSet s.plan ch) r
  s.setFe ch { feAt s ch with prbN := (feAt s ch).prbN - 1024, res := r, resValid := true, prbCand := if k = (feAt s ch).prbst then 0 else k }

theorem feAt_probeShown (s : State) (ch r : Nat) : feAt (probeShown s ch r) ch = { feAt s ch with
    prbN := (feAt s ch).prbN - 1024, res := r, resValid := true,
    prbCand := if probeClass (feSet s.plan ch) r = (feAt s ch).prbst then 0 else probeClass (feSet s.plan ch) r } := by
  simp [probeShown]

theorem execProbeResult_waits {ch : Nat} (res : Option Nat) {s : State} (hch : ch < 128)
    (h : (feSet s.plan ch).prben = false ∨ probeRuns s = false ∨ (feAt s ch).prbN < 1024) : exec (.probeResult ch res) s = .next s := by
  have hno : (!(feSet s.plan ch).prben || !probeRuns s || decide ((feAt s ch).prbN < 1024)) = true := by
    rcases h with h | h | h <;> simp [h]
  simp only [exec, execProbeResult]
  rw [if_neg (by simp [isMainChannel, hch]), if_pos hno]

theorem execProbeResult_eq {ch r : Nat} {res : Option Nat} {s : State} (hch : ch < 128) (hen : (feSet s.plan ch).prben = true)
    (hrun : probeRuns s = true) (hn : 1024 ≤ (feAt s ch).prbN) (hspoil : (feAt s ch).prbSpoil = false)
    (hr : r = (res.elim 0x0FFFFFFF fun x => if x ≤ probeLimit (feSet s.plan ch) then x else 0x0FFFFFFF)) :
    exec (.probeResult ch res) s = .next (
      if probeClass (feSet s.plan ch) r ≠ (feAt s ch).prbst ∧ (feAt s ch).prbCand = probeClass (feSet s.plan ch) r then
        probeDeclare (probeShown s ch r) ch (probeClass (feSet s.plan ch) r) r (s.tb.frame - 1)
      else probeShown s ch r) := by
  simp only [exec, execProbeResult]
  rw [if_neg (by simp [isMainChannel, hch]), if_neg (by simp [hen, hrun, hn]), if_neg (by simp [hspoil]), hr]
  cases res <;> rfl

/-! ## References -/

/-- What the evaluation of the references shows and counts of one quarter. -/
def refView (q : Nat) (s : State) : Int × Nat × Nat × Bool × Bool × Pair 32 :=
  (tget 0 q s.fe.refd, tget 0 q s.fe.refBad, tget 0 q s.fe.refGood, s.fe.refok.getLsbD q, s.fe.refev.getLsbD q,
   tget (Pair.of 0x40000000#32) q s.met.cal.ref)

theorem refView_refEval_ne (s : State) (d : Int) {q k : Nat} (hk : k < 4) (h : k ≠ q) : refView k (refEval s q d) = refView k s := by
  simp only [refEval]
  repeat' split
  all_goals simp only [refView, raise_fe, raise_met, endSample_fe, endSample_met, mapFe_fe, mapFe_met, tget_tset_ne _ _ h, getLsbD_setBit _ hk,
    getLsbD_clearBit _ hk, decide_eq_false h, Bool.or_false, Bool.not_false, Bool.and_true]

theorem refEval_refd (s : State) (q : Nat) (d : Int) : tget 0 q (refEval s q d).fe.refd = satS 16 d := by
  simp only [refEval]
  repeat' split
  all_goals simp

theorem refEval_second_bad {s : State} {q : Nat} {d : Int} (hq : q < 4) (hd : 2000 < d.natAbs) (hbad : tget 0 q s.fe.refBad = 1) :
    (refEval s q d).fe.refok.getLsbD q = false ∧ (refEval s q d).fe.refev.getLsbD q = true := by
  simp [refEval, hd, hbad, one_shl_getLsbD q q hq]

theorem refEval_second_good {s : State} {q : Nat} {d : Int} (hq : q < 4) (hd : d.natAbs ≤ 2000) (hgood : tget 0 q s.fe.refGood = 1) :
    (refEval s q d).fe.refok.getLsbD q = true := by
  simp only [refEval, Nat.not_lt.mpr hd, decide_false, hgood]
  repeat' split
  all_goals simp [one_shl_getLsbD q q hq] at *

theorem refEval_first {s : State} {q : Nat} (d : Int) (hbad : tget 0 q s.fe.refBad = 0) (hgood : tget 0 q s.fe.refGood = 0) :
    (refEval s q d).fe.refok = s.fe.refok ∧ (refEval s q d).fe.refev = s.fe.refev := by
  by_cases hd : 2000 < d.natAbs <;> simp [refEval, hd, hbad, hgood]

/-- The evaluation of the references, quarter after quarter. -/
def refsEvaluated (s : State) (m0 m1 m2 m3 : Nat) : State :=
  forEach [(0, m0), (1, m1), (2, m2), (3, m3)] (fun s e => refEval s e.1 (refDev s e.1 e.2))
    (s.mapFe fun f => { f with refTicks := f.refTicks - 16000 })

theorem refEval_refTicks (s : State) (q : Nat) (d : Int) : (refEval s q d).fe.refTicks = s.fe.refTicks := by
  simp only [refEval]
  repeat' split
  all_goals simp

theorem refsEvaluated_refTicks (s : State) (m0 m1 m2 m3 : Nat) : (refsEvaluated s m0 m1 m2 m3).fe.refTicks = s.fe.refTicks - 16000 := by
  simp [refsEvaluated, forEach, refEval_refTicks]

theorem refDev_of_view {s x : State} {q : Nat} (m : Nat) (h : refView q x = refView q s) : refDev x q m = refDev s q m := by
  simp only [refView, Prod.mk.injEq] at h
  simp only [refDev, h]

theorem refView_mapFe (s : State) (f : FrontEnds → FrontEnds) (h : ∀ x, (f x).refd = x.refd ∧ (f x).refBad = x.refBad ∧ (f x).refGood = x.refGood ∧
    (f x).refok = x.refok ∧ (f x).refev = x.refev) (q : Nat) : refView q (s.mapFe f) = refView q s := by
  obtain ⟨h1, h2, h3, h4, h5⟩ := h s.fe
  simp only [refView, mapFe_fe, mapFe_met, h1, h2, h3, h4, h5]

/-- Each quarter is evaluated as it stood. -/
theorem refEvals_view (y : State) {m0 m1 m2 m3 q m : Nat} (h : (q, m) ∈ [(0, m0), (1, m1), (2, m2), (3, m3)]) (hq : q < 4) :
    ∃ x, refView q x = refView q y ∧
      refView q (forEach [(0, m0), (1, m1), (2, m2), (3, m3)] (fun s e => refEval s e.1 (refDev s e.1 e.2)) y) =
        refView q (refEval x q (refDev y q m)) := by
  obtain ⟨x, hx, hf⟩ := forEach_view (f := fun s (e : Nat × Nat) => refEval s e.1 (refDev s e.1 e.2)) (key := Prod.fst)
    (V := fun k s => if k < 4 then some (refView k s) else none)
    (fun s a k hk => by
      split
      · rw [refView_refEval_ne _ _ ‹_› hk]
      · rfl)
    (by simp) h y
  simp only [hq, if_true, Option.some.injEq] at hx hf
  exact ⟨x, hx, by rw [← refDev_of_view m hx]; exact hf⟩

theorem refsEvaluated_view (s : State) {m0 m1 m2 m3 q m : Nat} (h : (q, m) ∈ [(0, m0), (1, m1), (2, m2), (3, m3)]) (hq : q < 4) :
    ∃ x, refView q x = refView q s ∧ refView q (refsEvaluated s m0 m1 m2 m3) = refView q (refEval x q (refDev s q m)) := by
  have hview := refView_mapFe s (fun f => { f with refTicks := f.refTicks - 16000 }) (fun _ => ⟨rfl, rfl, rfl, rfl, rfl⟩) q
  obtain ⟨x, hx, hf⟩ := refEvals_view (s.mapFe fun f => { f with refTicks := f.refTicks - 16000 }) h hq
  rw [refDev_of_view m hview] at hf
  exact ⟨x, hx.trans hview, hf⟩

/-! ## Slices -/

end Sys2Proof.Laws

open Sys2Proof Sys2Proof.Machine Sys2Proof.Laws

/-- Settles O18: a result of the probe is shown before `probeDeclare` judges it; each quarter is evaluated as it stood. -/
theorem inputProbesAndReferences : Obligations.InputProbesAndReferences := by
  refine ⟨⟨fun ch r res s hch hen hrun hn hr => ⟨fun hspoil => ?_, fun hspoil => ?_⟩, fun ch res s hch h => execProbeResult_waits res hch h⟩,
    fun m0 m1 m2 m3 s hn hserve => ?_, fun m0 m1 m2 m3 s h => ?_⟩
  · have hx : exec (.probeResult ch res) s = .next (s.setFe ch
        { feAt s ch with prbN := (feAt s ch).prbN - 1024, prbSpoil := false, prbCand := 0 }) := by
      simp [exec, execProbeResult, isMainChannel, hch, hen, hrun, Nat.not_lt.mpr hn, hspoil]
    exact ⟨_, hx, by simp, by simp⟩
  · have hx := execProbeResult_eq (r := r) (res := res) hch hen hrun hn hspoil (by rw [hr]; cases res <;> rfl)
    refine ⟨_, hx, exec_within hx rfl, ?_⟩
    have hshown := feAt_probeShown s ch r
    generalize probeClass (feSet s.plan ch) r = k at *
    generalize probeShown s ch r = y at *
    split
    next hdecl =>
      rw [feAt_probeDeclare, hshown]
      exact ⟨rfl, rfl, rfl, fun hk => absurd hk hdecl.1, fun _ _ => ⟨rfl, rfl⟩, fun _ hc => absurd hdecl.2 hc⟩
    next hdecl =>
      rw [hshown]
      exact ⟨rfl, rfl, rfl, fun hk => ⟨rfl, if_pos hk⟩, fun hk hc => absurd ⟨hk, hc⟩ hdecl, fun hk _ => ⟨rfl, if_neg hk⟩⟩
  · have hx : exec (.referenceCheck m0 m1 m2 m3) s = .next (refsEvaluated s m0 m1 m2 m3) := by
      simp only [exec, execReferenceCheck]
      rw [if_neg (by simp [Nat.not_lt.mpr hn, hserve])]
      rfl
    refine ⟨_, hx, exec_within hx rfl, refsEvaluated_refTicks .., fun q m hmem => ?_⟩
    have hq : q < 4 := by
      simp only [List.mem_cons, Prod.mk.injEq, List.not_mem_nil, or_false] at hmem
      omega
    obtain ⟨x, hx, ht⟩ := refsEvaluated_view s hmem hq
    simp only [refView, Prod.mk.injEq] at hx ht
    obtain ⟨-, hbad, hgood, hok, hev, -⟩ := hx
    obtain ⟨hrefd, -, -, htok, htev, -⟩ := ht
    rw [hrefd, htok, htev, ← hbad, ← hgood, ← hok, ← hev]
    refine ⟨refEval_refd .., refEval_second_bad hq, refEval_second_good hq, fun hb hg => ?_⟩
    obtain ⟨h1, h2⟩ := refEval_first (refDev s q m) hb hg
    exact ⟨by rw [h1], by rw [h2]⟩
  · simp only [exec, execReferenceCheck]
    rw [if_pos (by simpa using h)]
end

section
/-! The conversions and the calibration of the slices (04 R83 to R97). -/

namespace Sys2Proof.Laws

open Sys2Proof.Machine

/-! ## Conversions -/

/-- What a conversion does in a slot that the schedule takes, by its entry `w`. -/
def converted (w : Word) (n : Nat) (taken : Option Nat) (raw : Int) (s : State) : State :=
  match slotUse w, taken with
  | 2, _ => calConversion s n raw
  | 1, none =>
    if (sliceAt s n).faulty then setSample s (slotCh w) (slotAp w) none (some n)
    else setSample s (slotCh w) (slotAp w)
      (some { y := if s.plan.dirMask.getLsbD n then correctDirect (sliceAt s n) raw else correctNs (sliceAt s n) raw }) none
  | 1, some c =>
    if !slotYield w || !s.cv.fcen then s
    else if (sliceAt s n).faulty then yieldSample s (slotCh w) (slotAp w)
    else (yieldSample s (slotCh w) (slotAp w)).mapCv fun v =>
      { v with got := v.got ++ [(c, slotAp w, clampI (-2047) 2047 (direct12 (sliceAt s n) raw))] }
  | _, _ => s

theorem execConversionComplete_eq {n slot : Nat} {taken : Option Nat} (raw : Int) {s : State} (hn : n < 64) (hslot : slot < 130)
    (htaken : taken.all isChannel = true) (hcal : startCal s = false) (hrun : schedRuns s = true)
    (hfree : s.cv.blocked.contains (n, slot) = false) (hprev : slotPrev (slotEntry s.plan n slot) = decide (128 ≤ slot)) :
    exec (.conversionComplete n slot taken raw) s = .next (converted (slotEntry s.plan n slot) n taken raw s) := by
  simp only [exec, execConversionComplete]
  rw [if_neg (by simp [isSlice, isSlot, hn, hslot, htaken]), if_neg (by simp [hcal]), if_neg (by rw [hrun, hprev, hfree]; simp)]
  clear htaken
  split
  next h => simp only [converted, h]
  next h => simp only [converted, h]
  next h =>
    simp only [converted, h]
    split <;> rfl
  next h2 h1 hc => simp_all [converted]

theorem pathAt_setSample (s : State) (c ap : Nat) (v : Option Sample) (n : Option Nat) :
    pathAt (setSample s c ap v n) c = { pathAt s c with
      cur := tset ap v (pathAt s c).cur, lostBy := n.elim (pathAt s c).lostBy fun n => tset ap n (pathAt s c).lostBy } := by
  cases n <;> simp [setSample]

theorem pathAt_setSample_ne (s : State) {c k : Nat} (ap : Nat) (v : Option Sample) (n : Option Nat) (h : k ≠ c) :
    pathAt (setSample s c ap v n) k = pathAt s k := by
  simp [setSample, h]

theorem calConversion_short {s : State} {n : Nat} (raw : Int) (h : (sliceAt s n).calN + 1 < 8960) :
    (sliceAt (calConversion s n raw) n).calN = (sliceAt s n).calN + 1 ∧
      (sliceAt (calConversion s n raw) n).ready = (sliceAt s n).ready := by
  simp [calConversion, calCycle, Nat.not_le.mpr h]

theorem calConversion_last {s : State} {n : Nat} (raw : Int) (h : 8959 ≤ (sliceAt s n).calN) :
    (sliceAt (calConversion s n raw) n).calN = 0 ∧ (sliceAt (calConversion s n raw) n).ready.isSome = true := by
  simp [calConversion, calCycle, Nat.succ_le_succ h]

theorem sliceAt_calConversion_ne (s : State) {n k : Nat} (raw : Int) (h : k ≠ n) : sliceAt (calConversion s n raw) k = sliceAt s k := by
  simp [calConversion, h]

/-! ## Calibration -/

@[simp] theorem sliceAt_raise (s : State) (code chan : Nat) (v : Option Int) (n : Nat) : sliceAt (raise s code chan v) n = sliceAt s n := by
  rw [sliceAt, raise_cv, sliceAt]

@[simp] theorem sliceAt_endSample (s : State) (code chan : Nat) (v : Int) (n : Nat) : sliceAt (endSample s code chan v) n = sliceAt s n := by
  rw [sliceAt, endSample_cv, sliceAt]

@[simp] theorem sliceAt_declareSlice (s : State) (n k : Nat) : sliceAt (declareSlice s n) k = sliceAt s k := by
  simp only [declareSlice]
  repeat' split
  all_goals simp [sliceAt]

theorem declareSlice_flt (s : State) {n k : Nat} (hk : k < 64) :
    (declareSlice s n).cv.flt.getLsbD k = (s.cv.flt.getLsbD k || decide (k = n)) := by
  simp only [declareSlice]
  split
  next h =>
    by_cases hkn : k = n
    · rw [hkn, h]
      rfl
    · simp [hkn]
  next h => split <;> simp only [raise_cv, mapCv_cv, getLsbD_setBit _ hk]

theorem declareSlice_slflt {s : State} {n : Nat} (h : s.cv.flt.getLsbD n = false) : (declareSlice s n).cv.slflt = true := by
  rw [declareSlice, if_neg (by simp [h])]
  dsimp only
  split <;> simp

/-- The slice as the update leaves it: `calUpdate` moves it, `calBad` counts. -/
def updated (s : State) (n : Nat) (cal : SliceCal) : Slice :=
  { calUpdate { sliceAt s n with ready := none, calDue := false } cal (s.plan.dirMask.getLsbD n) with
    bad := if calBad cal then (sliceAt s n).bad + 1 else 0 }

/-- The update with the events of the limited ones, before a slice is declared. -/
def sliceMoved (s : State) (n : Nat) (cal : SliceCal) : State :=
  let x := sliceAt s n
  let y := updated s n cal
  let s := s.setSlice n y
  let s := if y.limited then s.mapCv fun c => { c with callim := true } else s
  let s := if y.limited && !x.limited then raise s 0x4A n none else s
  if x.limited && !y.limited then endSample s 0x4A n (x.limRun : Nat) else s

theorem sliceAt_sliceMoved (s : State) (n : Nat) (cal : SliceCal) : sliceAt (sliceMoved s n cal) n = updated s n cal := by
  have hcal (x : State) : sliceAt (x.mapCv fun c => { c with callim := true }) n = sliceAt x n := rfl
  simp only [sliceMoved]
  generalize updated s n cal = y
  repeat' split
  all_goals simp only [sliceAt_raise, sliceAt_endSample, hcal, sliceAt_setSlice, if_true]

theorem sliceMoved_flt (s : State) (n : Nat) (cal : SliceCal) : (sliceMoved s n cal).cv.flt = s.cv.flt := by
  simp only [sliceMoved]
  generalize updated s n cal = y
  repeat' split
  all_goals simp only [raise_cv, endSample_cv, mapCv_cv, State.setSlice]

theorem execSliceCalUpdate_eq {n : Nat} {cal : SliceCal} {s : State} (cycle : CalCycle) (hn : n < 64) (hflt : s.cv.flt.getLsbD n = false)
    (hoos : s.plan.oosMask.getLsbD n = false) (hcal : startCal s = false) (hdue : (sliceAt s n).calDue = true)
    (hready : (sliceAt s n).ready = some cal) : exec (.sliceCalUpdate n cycle) s = .next
      (if calBad cal = true ∧ 1 ≤ (sliceAt s n).bad then declareSlice (sliceMoved s n cal) n else sliceMoved s n cal) := by
  simp only [exec, execSliceCalUpdate]
  rw [if_neg (by simp [isSlice, hn]), if_neg (by simp [hflt, hoos, hcal, hdue]), hready]
  rfl

/-! ## The start-up calibration -/

/-- A slice and its declaration, with the plan. -/
def sliceView (n : Nat) (s : State) : Slice × Bool × PlanDef := (sliceAt s n, s.cv.flt.getLsbD n, s.plan)

theorem plan_of_only {s t : State} (h : Only [.cv, .qu, .er, .hp] s t) : t.plan = s.plan := by
  have hsup : t.sup = s.sup := h .sup rfl
  have hpl : t.pl = s.pl := h .pl rfl
  simp only [State.plan, hpl]

theorem sliceView_startupSlice_ne (s : State) {n k : Nat} (hk : k < 64) (h : k ≠ n) : sliceView k (startupSlice s n) = sliceView k s := by
  have hplan : (startupSlice s n).plan = s.plan := plan_of_only (by simp)
  simp only [sliceView, hplan, Prod.mk.injEq, and_true]
  simp only [startupSlice]
  split
  · exact ⟨rfl, rfl⟩
  · split
    · rw [sliceAt_declareSlice, sliceAt_setSlice, if_neg h, declareSlice_flt _ hk]
      simp [h, State.setSlice]
    · rw [sliceAt_setSlice, if_neg h]
      exact ⟨rfl, rfl⟩

theorem startupSlice_of_ready {s : State} {n : Nat} {c : SliceCal} (hn : n < 64) (h : (sliceAt s n).ready = some c)
    (hflt : s.cv.flt.getLsbD n = false) :
    (sliceAt (startupSlice s n) n).off = c.off ∧ (sliceAt (startupSlice s n) n).gain = c.gain ∧
      (sliceAt (startupSlice s n) n).inl = (if s.plan.dirMask.getLsbD n then (sliceAt s n).inl else c.inl) ∧
      (startupSlice s n).cv.flt.getLsbD n = calBad c := by
  simp only [startupSlice, h]
  split
  next hbad =>
    rw [sliceAt_declareSlice, sliceAt_setSlice, if_pos rfl, declareSlice_flt _ hn, hbad]
    exact ⟨rfl, rfl, rfl, by simp⟩
  next hbad =>
    rw [sliceAt_setSlice, if_pos rfl, Bool.eq_false_iff.mpr hbad]
    exact ⟨rfl, rfl, rfl, hflt⟩

theorem startupSlice_of_none {s : State} {n : Nat} (h : (sliceAt s n).ready = none) : startupSlice s n = s := by
  simp only [startupSlice, h]

theorem startupSlice_calDone (s : State) (n : Nat) : (startupSlice s n).cv.calDone = s.cv.calDone := by
  simp only [startupSlice]
  split
  · rfl
  · split
    · simp only [declareSlice]
      repeat' split
      all_goals simp [State.setSlice]
    · simp [State.setSlice]

/-- The end of the start-up calibration. -/
def calibrated (s : State) : State :=
  forEach (List.range 64) startupSlice (s.mapCv fun c => { c with flt := 0, fourFaulty := false, calDone := true })

theorem calibrated_calDone (s : State) : (calibrated s).cv.calDone = true := by
  have h (l : List Nat) (x : State) : (forEach l startupSlice x).cv.calDone = x.cv.calDone := by
    induction l generalizing x with
    | nil => rfl
    | cons n l ih => exact (ih _).trans (startupSlice_calDone x n)
  rw [calibrated, h, mapCv_cv]

theorem calibrated_view (s : State) {n : Nat} (hn : n < 64) : ∃ x, sliceView n x = (sliceAt s n, false, s.plan) ∧
    sliceView n (calibrated s) = sliceView n (startupSlice x n) := by
  obtain ⟨x, hx, hf⟩ := forEach_view (f := startupSlice) (key := id) (V := fun k s => if k < 64 then some (sliceView k s) else none)
    (fun s a k (hk : k ≠ a) => by
      split
      · rw [sliceView_startupSlice_ne _ ‹_› hk]
      · rfl)
    (by rw [List.map_id]; exact List.nodup_range) (List.mem_range.mpr hn)
    (s.mapCv fun c => { c with flt := 0, fourFaulty := false, calDone := true })
  simp only [id, hn, if_true, Option.some.injEq] at hx hf
  exact ⟨x, hx.trans (by simp [sliceView, sliceAt, State.plan]), hf⟩

end Sys2Proof.Laws

open Sys2Proof Sys2Proof.Machine Sys2Proof.Laws

/-- Settles O19: a conversion by the use of its entry (`converted`), an update by `calUpdate`, the start-up slice by slice. -/
theorem conversionsAndSliceCalibration : Obligations.ConversionsAndSliceCalibration := by
  refine ⟨⟨fun n slot raw w s hn hslot hcal hrun hfree hw hprev => ?_, fun n slot raw s hn hslot hcal hlast => ?_, fun s h => ?_, fun s h => ?_⟩,
    fun n cal s hn hflt hoos hcal hdue hready => ?_, fun n s hn h => ?_, fun s hcal hticks => ?_, fun s h => ?_⟩
  · subst hw
    have hx {taken : Option Nat} (ht : taken.all isChannel = true) := execConversionComplete_eq raw hn hslot ht hcal hrun hfree hprev
    refine ⟨fun huse hok => ⟨_, hx rfl, ?_⟩, fun huse hbad => ⟨_, hx rfl, ?_⟩, fun huse hshort => ⟨_, hx rfl, ?_⟩,
      fun c huse hy hen hc hok => ⟨_, hx (by simp [isChannel, hc]), ?_⟩, fun huse => ?_⟩
    · simp only [converted, huse, hok, Bool.false_eq_true, if_false]
      refine ⟨by simp, by simp [pathAt_setSample], fun b hb => ?_, fun c hc => pathAt_setSample_ne _ _ _ _ hc⟩
      simp [pathAt_setSample, tget_tset_ne _ _ hb]
    · simp only [converted, huse, hbad, if_true]
      exact ⟨by simp, by simp [pathAt_setSample], fun c hc => pathAt_setSample_ne _ _ _ _ hc⟩
    · simp only [converted, huse]
      obtain ⟨hcount, hready⟩ := calConversion_short raw hshort
      exact ⟨by simp, hcount, hready, fun k hk => sliceAt_calConversion_ne _ _ hk⟩
    · simp only [converted, huse, hy, hen, hok, Bool.not_true, Bool.or_self, Bool.false_eq_true, if_false]
      exact ⟨by simp, by simp [yieldSample, State.setPath], by simp [yieldSample, State.setPath, pathAt, State.mapCv]⟩
    · rw [hx rfl]
      simp only [converted, huse]
  · have hx : exec (.conversionComplete n slot none raw) s = .next (calConversion s n raw) := by
      simp [exec, execConversionComplete, isSlice, isSlot, hn, hslot, hcal]
    exact ⟨_, hx, by simp, calConversion_last raw hlast⟩
  · simp [exec, execSettlingEnd, h, State.mapCv]
  · simp [exec, execSettlingEnd, h]
  · have hx := execSliceCalUpdate_eq .whole hn hflt hoos hcal hdue hready
    have honly := exec_within (ps := [.cv, .er, .hp, .qu]) hx rfl
    have hflt' := sliceMoved_flt s n cal
    have hslice : sliceAt (if calBad cal = true ∧ 1 ≤ (sliceAt s n).bad then declareSlice (sliceMoved s n cal) n else sliceMoved s n cal) n =
        updated s n cal := by
      split <;> simp only [sliceAt_declareSlice, sliceAt_sliceMoved]
    refine ⟨_, hx, honly, ?_⟩
    rw [hslice]
    refine ⟨rfl, rfl, rfl, fun hdir => ?_, rfl, rfl, fun hbad hone => ?_, fun hbad hz => ?_, fun hgood => ?_⟩
    · simp [updated, calUpdate, hdir]
      rfl
    · rw [if_pos ⟨hbad, hone⟩, declareSlice_flt _ hn]
      exact ⟨by simp, declareSlice_slflt (by rw [hflt', hflt])⟩
    · rw [if_neg (by simp [hz])]
      exact ⟨hflt', by simp [updated, hbad, hz]⟩
    · rw [if_neg (by simp [hgood])]
      exact ⟨hflt', by simp [updated, hgood]⟩
  · simp only [exec, execSliceCalUpdate]
    rw [if_neg (by simp [isSlice, hn])]
    rcases h with h | h | h | h
    · rw [if_pos (by simp [h])]
    · rw [if_pos (by simp [h])]
    · rw [if_pos (by simp [h])]
    · simp [h]
  · have hx : exec (.startupCalibrationDone .whole) s = .next (calibrated s) := by
      simp only [exec, execStartupCalibrationDone]
      rw [if_neg (by simp [hcal, hticks])]
      rfl
    refine ⟨_, hx, exec_within hx rfl, calibrated_calDone s, fun n hn => ?_⟩
    obtain ⟨x, hx, hf⟩ := calibrated_view s hn
    simp only [sliceView, Prod.mk.injEq] at hx hf
    obtain ⟨hslice, hflt, hplan⟩ := hx
    obtain ⟨hs', hf', -⟩ := hf
    rw [hs', hf', ← hslice, ← hplan]
    refine ⟨fun c hc => startupSlice_of_ready hn hc hflt, fun hc => ?_⟩
    rw [startupSlice_of_none hc]
    exact ⟨rfl, hflt⟩
  · simp only [exec, execStartupCalibrationDone]
    rw [if_pos (by simpa using h)]
end
section
/-! Comparators and fault capture (04 R94 to R99). -/

namespace Sys2Proof.Laws

open Sys2Proof.Machine

theorem cmpAt_of_cv {s t : State} (h : t.cv = s.cv) (pt : Bool) (i : Nat) : cmpAt t pt i = cmpAt s pt i := by
  rw [cmpAt, h, cmpAt]

theorem cmpTransition_of_not_due {s : State} {pt : Bool} {i : Nat} (h : (cmpAt s pt i).due = false) : cmpTransition s pt i = s := by
  rw [cmpTransition, if_pos (by simp [h])]

/-- A comparator that takes the state it has been waiting for. -/
def cmpMoved (x : Comparator) : Comparator :=
  { x with
    st := x.pend, pend := 0, dwc := 0, due := false, run := 0, cnt := if x.pend = 2 ∨ x.pend = 3 then satAdd x.cnt 1 else x.cnt }

/-- The record and the events of the transition of a comparator that stood as `x`. -/
def cmpTold (s : State) (pt : Bool) (i : Nat) (x : Comparator) : State :=
  let chan := if pt then i / 8 else i
  let base := if pt then 0x42 else 0x40
  let s := if x.st = 2 ∨ x.st = 3 then endSample s (base + (x.st - 2)) chan (x.run / 16 : Nat) else s
  if x.pend = 2 ∨ x.pend = 3 then
    let e := noticeEntry (s.mapTb fun t => { t with frame := x.dueFrame }) (base + (x.pend - 2)) chan none
    raiseAt (push s (if pt then 5 else 4) chan [{ e with tag := tagOf chan (if pt then 5 else 4) x.dueFrame 0 }]) (base + (x.pend - 2)) chan none
      x.dueFrame
  else s

theorem cmpTold_cv (s : State) (pt : Bool) (i : Nat) (x : Comparator) : (cmpTold s pt i x).cv = s.cv := by
  have hraise (z : State) (c n : Nat) (f : Frame) : (raiseAt z c n none f).cv = z.cv := (show Only [.qu, .er, .hp] z _ by simp) .cv rfl
  simp only [cmpTold]
  generalize (if pt = true then i / 8 else i) = chan
  generalize (if pt = true then 0x42 else 0x40) = base
  repeat' split
  all_goals simp only [hraise, push_cv, endSample_cv]

theorem cmpAt_cmpTransition {s : State} {pt : Bool} {i : Nat} (h : (cmpAt s pt i).due = true) :
    cmpAt (cmpTransition s pt i) pt i = cmpMoved (cmpAt s pt i) := by
  have ht : cmpTransition s pt i = cmpTold (s.setCmp pt i (cmpMoved (cmpAt s pt i))) pt i (cmpAt s pt i) := by
    rw [cmpTransition, if_neg (by simp [h])]
    rfl
  rw [ht, cmpAt_of_cv (cmpTold_cv ..)]
  simp [cmpAt_setCmp]

/-- Whether the queue of the record can hold it whole. -/
def captureFits (s : State) (x : Capture) : Bool :=
  (routeOf s.plan 6 x.ch).elim true fun q => decide ((captureEntries x).length ≤ (routeRec s.plan q).depth)

/-- The end of a capture, before its record and events go out. -/
def captureEnded (s : State) (x : Capture) : State :=
  (s.mapCv fun v => { v with
    cap := none, fcdone := true, fcsCh := x.ch, fcsK := x.k, fcsLen := x.total, fcFrame := x.frame, fcsLost := !captureFits s x }).irq 8

/-- The record goes to its queue, or is counted as lost there. -/
def recordSent (s : State) (x : Capture) (fits : Bool) : State :=
  if fits then push s 6 x.ch (captureEntries x)
  else
    (routeOf s.plan 6 x.ch).elim s fun q =>
      s.setQueue q { queueAt s q with lost := satAdd (queueAt s q).lost (captureEntries x).length, ovf := true }

/-- The events of a captured record. -/
def captureTold (s : State) (x : Capture) : State :=
  raise (if 0 < x.misses then endSample s 0x47 x.ch (x.misses : Nat) else s) 0x46 x.ch (some (capturePeak x))

theorem execFaultCapturePush_eq {s : State} {x : Capture} (hcap : s.cv.cap = some x) (hdue : x.due = true) (hen : s.cv.fcen = true)
    (hserve : serving s = true) : exec .faultCapturePush s = .next (captureTold (recordSent (captureEnded s x) x (captureFits s x)) x) := by
  simp only [exec, execFaultCapturePush, hcap]
  rw [if_neg (by simp [hdue, hen, hserve])]
  have hplan (f : Converter → Converter) : ((s.mapCv f).irq 8).plan = s.plan := rfl
  cases hr : routeOf s.plan 6 x.ch <;> simp only [captureTold, recordSent, captureEnded, captureFits, hplan, hr] <;> rfl

theorem recordSent_cv (s : State) (x : Capture) (fits : Bool) : (recordSent s x fits).cv = s.cv := by
  rw [recordSent]
  split
  · simp
  · cases routeOf s.plan 6 x.ch <;> rfl

theorem captureTold_cv (s : State) (x : Capture) : (captureTold s x).cv = s.cv := by
  rw [captureTold]
  split <;> simp

theorem recordSent_intake (s : State) (x : Capture) (fits : Bool) : Intake s (recordSent s x fits) := by
  rw [recordSent]
  split
  · exact push_intake ..
  · cases routeOf s.plan 6 x.ch
    · exact intake_refl s
    · exact intake_of_eq rfl rfl

theorem captureTold_intake (s : State) (x : Capture) : Intake s (captureTold s x) := by
  rw [captureTold]
  split
  · exact intake_trans (endSample_intake ..) (raise_intake ..)
  · exact raise_intake ..

theorem execFaultCaptureManual_eq {ch ap : Nat} (s : State) (hch : ch < 168) (hap : ap < 48) : exec (.faultCaptureManual ch ap) s =
    .next (if serving s then manualCapture (s.mapCv fun v => { v with fcch := ch }) ch ap else s) := by
  simp [exec, execFaultCaptureManual, isChannel, isAperture, hch, hap]

/-- The capture that a manual request starts. -/
def newCapture (s : State) (c k : Nat) : Capture :=
  { ch := c, k := k, frame := s.tb.frame, gain := (feSet s.plan c).gain, manual := true, total := s.plan.caplen,
    div := 2 ^ s.plan.capdiv, wait := k + 1, samples := [], lastFrame := s.tb.frame, misses := 0 }

end Sys2Proof.Laws

open Sys2Proof Sys2Proof.Machine Sys2Proof.Laws

/-- Settles O20: what goes out of a comparator or a capture leaves the registers it has set (`cmpAt_cmpTransition`, `recordSent_cv`,
`captureTold_cv`). -/
theorem comparatorsAndFaultCaptures : Obligations.ComparatorsAndFaultCaptures := by
  have hcmp (pt : Bool) (i : Nat) (s : State) (hi : i < if pt then 1024 else 168) :
      exec (.comparatorDwellComplete pt i) s = .next (if serving s then cmpTransition s pt i else s) := by
    simp only [exec, execComparatorDwellComplete]
    rw [if_neg (by simp [isComparator, hi])]
  refine ⟨⟨fun pt i s hi hserve hdue => ?_, fun pt i s hi h => ?_⟩, fun ch ap s hch hap hserve hen hcap => ?_,
    fun ch ap x s hch hap hserve hen hcap => ?_, fun ch ap s hch hap hserve hen => ?_, fun ch ap s hch hap hserve => ?_,
    fun x s hcap hdue hen hserve => ?_, fun s h => ?_⟩
  · have hx := hcmp pt i s hi
    rw [if_pos hserve] at hx
    refine ⟨_, hx, exec_within hx rfl, ?_⟩
    rw [cmpAt_cmpTransition hdue]
    exact ⟨rfl, rfl, rfl⟩
  · rw [hcmp pt i s hi]
    rcases h with h | h <;> simp [h, cmpTransition_of_not_due]
  · have hx : exec (.faultCaptureManual ch ap) s = .next (startCapture (s.mapCv fun v => { v with fcch := ch }) ch ap true) := by
      simp [execFaultCaptureManual_eq s hch hap, hserve, manualCapture, hen, hcap]
    exact ⟨_, newCapture s ch ap, hx, rfl, rfl, rfl, rfl, rfl, rfl, rfl, rfl, rfl, by simp⟩
  · refine ⟨_, execFaultCaptureManual_eq s hch hap, ?_⟩
    simp [hserve, manualCapture, missTrigger, hen, hcap]
  · rw [execFaultCaptureManual_eq s hch hap]
    simp [hserve, manualCapture, hen, State.mapCv]
  · simp [execFaultCaptureManual_eq s hch hap, hserve]
  · have hx := execFaultCapturePush_eq hcap hdue hen hserve
    have hin := intake_trans (recordSent_intake (captureEnded s x) x (captureFits s x)) (captureTold_intake _ x)
    refine ⟨_, hx, ?_, ?_, ?_, ?_, ?_, ?_, hin.2.2.1 8 (irq_set _ 8 (by omega)), exec_within hx rfl⟩
    all_goals rw [captureTold_cv, recordSent_cv]; rfl
  · simp only [exec, execFaultCapturePush]
    cases hcap : s.cv.cap with
    | none => rfl
    | some x =>
      have h' := h.resolve_left (by simp [hcap])
      exact if_pos (by rcases h' with h | h <;> simp [h])
end

section
/-! The loader: an image taken, its activation asked for, armed, committed and carried out (05 R117 to R122). -/

namespace Sys2Proof.Laws

open Sys2Proof.Machine

/-! ## The banks and the mark in MRAM -/

theorem bankAt_setBank_shadow (s : State) (x : PlanBank) : bankAt (s.setBank (shadowBank s) x) (shadowBank s) = x := by
  by_cases h : shadowBank s = 0 <;> simp [bankAt, State.setBank, State.mapNv, h]

theorem bankAt_setBank_active (s : State) (x : PlanBank) : bankAt (s.setBank (shadowBank s) x) (activeBank s) = bankAt s (activeBank s) := by
  by_cases h : activeBank s = 0
  · simp [bankAt, State.setBank, State.mapNv, shadowBank, h]
  · have hs : shadowBank s = 0 := by simp only [shadowBank]; omega
    simp [bankAt, State.setBank, State.mapNv, hs, h]

theorem bankAt_of_nv {s t : State} (h : t.nv = s.nv) (b : Nat) : bankAt t b = bankAt s b := by
  rw [bankAt, h, bankAt]

theorem setMark_within (s : State) (m : Option (Frame × Nat)) : Only [.qu, .ls, .er, .hp] (s.mapNv fun n => { n with mark := m }) (setMark s m) := by
  have hok : allOk (workOf (s.mapNv fun n => { n with mark := m }) .mark) = true := by simp [allOk, workOf, Pair.ok, Pair.of]
  rw [setMark]
  split
  next h =>
    subst h
    exact only_refl _ _
  next h =>
    rw [commitCrit]
    dsimp only
    rw [if_pos hok]
    split <;> simp

@[simp] theorem setMark_nv (s : State) (m : Option (Frame × Nat)) : (setMark s m).nv = { s.nv with mark := m } := setMark_within s m .nv rfl

@[simp] theorem setMark_pl (s : State) (m : Option (Frame × Nat)) : (setMark s m).pl = s.pl := setMark_within s m .pl rfl

@[simp] theorem releaseResv_pl (s : State) : (releaseResv s).pl = { s.pl with resv := 0 } := by
  rw [releaseResv]
  split
  next h => rw [← h]
  next h => rfl

@[simp] theorem releaseResv_nv (s : State) : (releaseResv s).nv = s.nv := (show Only [.pl, .er] s (releaseResv s) by simp) .nv rfl

@[simp] theorem endActivation_pl (s : State) (code : Nat) : (endActivation s code).pl =
    { s.pl with st := .ready, actref := true, rsn := code, sect := 0xF, locked := false, resv := 0 } := by
  simp [endActivation]

@[simp] theorem endActivation_nv (s : State) (code : Nat) : (endActivation s code).nv = { s.nv with mark := none } := by
  simp [endActivation]

@[simp] theorem setPending_pl (s : State) (n : Frame) :
    (setPending s n).pl = { s.pl with st := .pending, n := n, locked := false, armHdr := none } := by
  simp [setPending]

@[simp] theorem setPending_nv (s : State) (n : Frame) : (setPending s n).nv = { s.nv with mark := some (n, ownerCode s.pl.owner) } := by
  simp [setPending]

@[simp] theorem setArmed_pl (s : State) (n : Frame) : (setArmed s n).pl = { s.pl with st := .armed, n := n } := by simp [setArmed]

@[simp] theorem setArmed_nv (s : State) (n : Frame) : (setArmed s n).nv = { s.nv with mark := some (n, ownerCode s.pl.owner) } := by
  simp [setArmed]

/-! ## Loading -/

theorem shadowBank_of_nv {s t : State} (hb : t.nv.selBank = s.nv.selBank) (hp : t.nv.selPend = s.nv.selPend) : shadowBank t = shadowBank s := by
  rw [shadowBank, activeBank, hb, hp, shadowBank, activeBank]

theorem startLoad_pl (s : State) (req : Requester) : (startLoad s req).pl =
    { s.pl with
      st := .loading, owner := some req, wptr := 0, shadow := none, partialImg := false, legalchg := false, armHdr := none, resv := 0 } := by
  simp [startLoad, State.setBank]

theorem startLoad_nv (s : State) (req : Requester) : (startLoad s req).nv = (s.setBank (shadowBank s) {}).nv := by
  have h : shadowBank (releaseResv s) = shadowBank s := shadowBank_of_nv (by simp) (by simp)
  simp [startLoad, State.setBank, h]

theorem startLoad_shadow (s : State) (req : Requester) : (bankAt (startLoad s req) (shadowBank s)).img = [] := by
  rw [bankAt_of_nv (startLoad_nv s req), bankAt_setBank_shadow]

theorem startLoad_active (s : State) (req : Requester) : bankAt (startLoad s req) (activeBank s) = bankAt s (activeBank s) := by
  rw [bankAt_of_nv (startLoad_nv s req), bankAt_setBank_active]

theorem loads_iff (r : Requester) : loads r = true ↔ r ≠ .legal := by cases r <;> decide

theorem notOwner_of_loads {r : Requester} (s : State) (h : r ≠ .legal) : notOwner s r = { s with pl := { s.pl with ownerr := true } } := by
  rw [notOwner, if_pos ((loads_iff r).mpr h)]
  rfl

theorem execBegin_eq {s : State} (req : Requester) (h : serving s = true) : exec (.begin req) s = .next (plBegin s req) := by
  simp [exec, execBegin, h]

/-! ## Activation -/

theorem activateCode_of_state (s : State) (n : Frame) : activateCode s n = 0x58 ↔ actState s = false := by
  rw [activateCode]
  repeat' split
  all_goals simp_all

theorem activateCode_zero {s : State} {n : Frame} (h : activateCode s n = 0) :
    s.tp.locked = false ∧ frameOk s n = true ∧ (s.pl.legalchg = true → s.sealOpen = true) := by
  revert h
  rw [activateCode]
  repeat' split
  all_goals simp_all

theorem plActivate_of_refused {s : State} {req : Requester} (hst : s.pl.st = .ready ∨ (s.pl.st = .pending ∧ s.pl.locked = false))
    (hown : s.pl.owner = some req) (hcode : activateCode s (plafN s) ≠ 0) : plActivate s req = actRefuse s (activateCode s (plafN s)) := by
  rw [plActivate, if_pos (by simpa [hown] using hst)]
  dsimp only
  split
  next h => exact absurd h hcode
  next => rfl

theorem plActivate_of_code_zero {s : State} {req : Requester} (hst : s.pl.st = .ready ∨ (s.pl.st = .pending ∧ s.pl.locked = false))
    (hown : s.pl.owner = some req) (hcode : activateCode s (plafN s) = 0) : plActivate s req =
      if s.pl.legalchg then pendDec (reserveChange s) (.plan (plafN s) req) true else setPending s (plafN s) := by
  rw [plActivate, if_pos (by simpa [hown] using hst)]
  simp only [hcode]

theorem reserveChange_pres (s : State) : (reserveChange s).er.pres = s.er.pres + (if s.pl.resv = 0 then 3 else 0) := by
  rw [reserveChange]
  split
  · simp only [reserve, fullIrq]
    split <;> simp
  · rfl

theorem reserveChange_pl (s : State) : (reserveChange s).pl = if s.pl.resv = 0 then { s.pl with resv := 3 } else s.pl := by
  rw [reserveChange]
  split
  · simp only [reserve, fullIrq]
    split <;> simp
  · rfl

/-! ## The chain -/

@[simp] theorem sendPort_rx (s : State) (p : Nat) (m : OutMsg) : (sendPort s p m).cb.rx = s.cb.rx := by
  simp only [sendPort]
  repeat' split
  all_goals rfl

@[simp] theorem sendRsp_rx (s : State) (h : CobaltHdr) (op addr status : Nat) (data : List Byte) : (sendRsp s h op addr status data).cb.rx = s.cb.rx := by
  rw [sendRsp]
  split
  · rw [rspRecord, push_cb]
  · exact sendPort_rx ..

@[simp] theorem loaderAnswer_rx (s : State) (h : Option CobaltHdr) (op addr : Nat) (code : Option Nat) :
    (loaderAnswer s h op addr code).cb.rx = s.cb.rx := by
  cases h <;> cases code <;> simp [loaderAnswer]

theorem loaderAnswer_base (s : State) (h : Option CobaltHdr) (op addr : Nat) (code : Option Nat) :
    Only [.qu, .er, .hp, .cb] s (loaderAnswer s h op addr code) := by simp

@[simp] theorem loaderAnswer_pl (s : State) (h : Option CobaltHdr) (op addr : Nat) (code : Option Nat) : (loaderAnswer s h op addr code).pl = s.pl :=
  loaderAnswer_base s h op addr code .pl rfl

@[simp] theorem loaderAnswer_nv (s : State) (h : Option CobaltHdr) (op addr : Nat) (code : Option Nat) : (loaderAnswer s h op addr code).nv = s.nv :=
  loaderAnswer_base s h op addr code .nv rfl

theorem activateCode_takeRx (s : State) (n : Frame) : activateCode (takeRx s) n = activateCode s n := rfl

theorem setMark_rx (s : State) (m : Option (Frame × Nat)) : (setMark s m).cb.rx = s.cb.rx := by
  have h : (setMark s m).cb = s.cb := setMark_within s m .cb rfl
  rw [h]

@[simp] theorem setArmed_rx (s : State) (n : Frame) : (setArmed s n).cb.rx = s.cb.rx := setMark_rx ..

@[simp] theorem setPending_rx (s : State) (n : Frame) : (setPending s n).cb.rx = s.cb.rx := setMark_rx ..

theorem execArm_eq (n : Frame) {s : State} (h : serving s = true) : exec (.arm n) s = .next (plArm (takeRx s) n ((rxOf s 3).map (·.1))) := by
  simp [exec, execArm, h]

theorem execCommit_eq {s : State} (h : serving s = true) :
    exec .commit s = .next (plCommit (takeRx s) ((rxOf s 4).map (·.1)) (((rxOf s 4).map (·.2)).getD 0)) := by
  simp [exec, execCommit, h]

/-! ## The activation -/

theorem execSelectorCommit_eq {s : State} {new : PlanDef} (hserve : serving s = true) (hst : s.pl.st = .pending) (hnew : s.pl.shadow = some new)
    (hlock : s.pl.locked = false) (hn : s.pl.n.toNat ≤ s.tb.frame.toNat + 1) : exec .selectorCommit s = .next
      (if selectorCode s new = 0 then scaleAhead ((commitSelector s).mapPl fun l => { l with locked := true, lockFrame := s.tb.frame }) new
        else endActivation s (selectorCode s new)) := by
  simp only [exec, execSelectorCommit, hst, hnew]
  rw [if_neg (by simp [hserve, hlock, State.fnum, Nat.not_lt.mpr hn])]
  split
  next h => rw [if_pos h]
  next h => rw [if_neg h]

theorem scaleAhead_pl (s : State) (new : PlanDef) : ∃ ps, (scaleAhead s new).pl = { s.pl with scaleAnn := ps } := by
  simp only [scaleAhead, mapPl_pl]
  generalize points.filter _ = ps
  have h : (forEach (ps.filter fun p => !(ptAt s p).scalef) (fun s p => raise s 0x65 p (some (scaleCause s new p : Nat))) s).pl = s.pl :=
    (show Only [.qu, .er, .hp] s (forEach (ps.filter fun p => !(ptAt s p).scalef) (fun s p => raise s 0x65 p (some (scaleCause s new p : Nat))) s)
      by simp) .pl rfl
  exact ⟨ps, by rw [h]⟩

theorem scaleAhead_nv (s : State) (new : PlanDef) : (scaleAhead s new).nv = s.nv :=
  (show Only [.qu, .pl, .er, .hp] s (scaleAhead s new) by simp) .nv rfl

theorem commitSelector_nv (s : State) :
    (commitSelector s).nv = { s.nv with sel := selOf (shadowBank s) s.pl.n, selValid := true, selPend := true } :=
  (show Only [.qu, .ls, .er, .hp] (s.mapNv fun n => { n with sel := selOf (shadowBank s) s.pl.n, selValid := true, selPend := true })
    (commitSelector s) by simp [commitSelector]) .nv rfl

theorem commitSelector_pl (s : State) : (commitSelector s).pl = s.pl := (show Only [.qu, .ls, .er, .hp, .nv] s (commitSelector s) by simp) .pl rfl

theorem execPlanActivation_eq {s : State} {new : PlanDef} (hst : s.pl.st = .pending) (hnew : s.pl.shadow = some new) (hlock : s.pl.locked = true)
    (hn : s.pl.n.toNat ≤ s.tb.frame.toNat) (hafter : s.pl.lockFrame.toNat < s.tb.frame.toNat) : exec .planActivation s = .next
      (if s.sup.st = .run ∨ s.sup.st = .calibrate ∨ s.sup.st = .test then handOver s new
        else if s.sup.st = .recovery then orderReset s 7 else s) := by
  simp only [exec, execPlanActivation, hst, hnew]
  rw [if_neg (by simp [hlock, State.fnum, Nat.not_lt.mpr hn, Nat.not_le.mpr hafter])]
  split <;> simp_all

theorem measurePlan_pl (s : State) (old new : PlanDef) :
    (measurePlan s old new).pl = { s.pl with ldg := new.legalDigest, ldgN := ~~~new.legalDigest } := by
  have hset : (setDigest s new.legalDigest).pl = { s.pl with ldg := new.legalDigest, ldgN := ~~~new.legalDigest } :=
    (show Only [.qu, .ls, .er, .hp] (s.mapPl fun l => { l with ldg := new.legalDigest, ldgN := ~~~new.legalDigest }) (setDigest s new.legalDigest)
      by simp [setDigest]) .pl rfl
  have hext (x : State) (p : PlanDef) : (extendPlan x 2 p).pl = x.pl := (show Only [.tr] x _ by simp) .pl rfl
  have hcheck (x : State) : (legalCheck x).pl = x.pl := (show Only [.tr] x _ by simp) .pl rfl
  simp only [measurePlan]
  split <;> simp only [hcheck, hext, hset]

theorem loaderDone_pl (s : State) : (loaderDone s).pl = { s.pl with
    st := .empty, done := true, owner := none, locked := false, shadow := none, partialImg := false, legalchg := false, armHdr := none } := by
  simp [loaderDone]

theorem loaderDone_mark (s : State) : (loaderDone s).nv.mark = none := by simp [loaderDone]

theorem scaleFollow_pl (s : State) (new : PlanDef) : (scaleFollow s new).pl = { s.pl with scaleAnn := [] } := by
  simp only [scaleFollow, mapPl_pl]
  generalize hx : forEach s.pl.scaleAnn _ s = x
  have hmet : x.pl = s.pl := by
    subst hx
    exact (show Only [.met] s _ by simp) .pl rfl
  have heval : (scaleEval x new).pl = x.pl := (show Only [.qu, .met, .er, .hp] x _ by simp) .pl rfl
  rw [heval, hmet]

/-- The metrology takes the new plan over with its rescales and retired outputs, the plan in force staying. -/
theorem metrologyHandOver_pl (old new : PlanDef) (s : State) : (metrologyHandOver old new s).pl = { s.pl with
    scaleAnn := [], rescale := qexpChanges old new, retire := pulseChanges old new, rescaleIn := 2 } := by
  simp only [metrologyHandOver, mapPl_pl, scaleFollow_pl]
  generalize hx : harmChange old new _ = x
  have hpl : x.pl = s.pl := by
    subst hx
    exact (show Only [.met, .pq, .er, .hp] s _ by simp) .pl rfl
  rw [hpl]

/-- What an activation leaves of the loader. -/
theorem handOver_pl (s : State) (new : PlanDef) : (handOver s new).pl.act = new ∧ (handOver s new).pl.st = .empty ∧ (handOver s new).pl.done = true ∧
    (handOver s new).pl.owner = none ∧ (handOver s new).pl.rescale = qexpChanges s.pl.act new ∧
    (handOver s new).pl.retire = pulseChanges s.pl.act new ∧ (handOver s new).pl.rescaleIn = 2 := by
  simp only [handOver]
  generalize hy : metrologyHandOver s.plan new _ = y
  have hact : y.pl.act = new ∧ y.pl.rescale = qexpChanges s.pl.act new ∧ y.pl.retire = pulseChanges s.pl.act new ∧ y.pl.rescaleIn = 2 := by
    subst hy
    rw [metrologyHandOver_pl]
    generalize hx : converterHandOver s.plan new _ = x
    have hpl : x.pl.act = new := by
      subst hx
      exact congrArg Loader.act ((show Only [.fe, .cv, .qu, .pq] ((mdHandOver s.plan new 0 s).mapPl fun l => { l with act := new }) _ by simp) .pl rfl)
    exact ⟨hpl, rfl, rfl, rfl⟩
  have hcal : (calendarHandOver s.plan new y).pl = y.pl := (show Only [.qu, .bl, .er, .hp] y _ by simp) .pl rfl
  obtain ⟨h1, h2, h3, h4⟩ := hact
  simp [loaderDone_pl, measurePlan_pl, planRecord, hcal, h1, h2, h3, h4]

end Sys2Proof.Laws

open Sys2Proof Sys2Proof.Machine Sys2Proof.Laws

/-- Settles O21: BEGIN is `startLoad`, the data and the verdict go to the shadow bank. -/
theorem loaderTakesAnImage : Obligations.LoaderTakesAnImage := by
  refine ⟨fun req s hserve hreq hst => ?_, fun req s hserve hreq hst => ?_, fun req s hserve hreq hst => ?_, fun req bs s hserve hst hown => ?_,
    fun req s hserve hst hown => ?_, fun req bs s hserve hno hreq => ?_, fun req bs s h => ?_, fun s hserve hst => ?_, fun s h => ?_⟩
  · have hx : exec (.begin req) s = .next (startLoad s req) := by
      rw [execBegin_eq req hserve, plBegin, if_neg (by simp [loads_iff, hreq])]
      rcases hst with h | h | h | ⟨h, ho⟩ <;> simp [h]
      exact fun hno => absurd ho hno
    refine ⟨_, hx, ?_, ?_, ?_, ?_, startLoad_shadow s req, startLoad_active s req, ?_, by simp⟩
    all_goals rw [startLoad_pl]
  · have hx : exec (.begin req) s = .next (startLoad (endActivation s 0x53) req) := by
      rw [execBegin_eq req hserve, plBegin, if_neg (by simp [loads_iff, hreq])]
      rcases hst with h | ⟨h, hl⟩ <;> simp [h]
      exact fun hno => by simp [hl] at hno
    have hbank : shadowBank (endActivation s 0x53) = shadowBank s := shadowBank_of_nv ((congrArg NonVol.selBank (endActivation_nv s 0x53)).trans rfl)
      ((congrArg NonVol.selPend (endActivation_nv s 0x53)).trans rfl)
    have himg := startLoad_shadow (endActivation s 0x53) req
    rw [hbank] at himg
    refine ⟨_, hx, ?_, ?_, ?_, ?_, ?_, ?_, himg, ?_⟩
    case refine_6 =>
      simp only [startLoad_nv, State.setBank, mapNv_nv, endActivation_nv]
      split <;> rfl
    all_goals rw [startLoad_pl, endActivation_pl]
  · have hx : exec (.begin req) s = .next (ownErr s) := by
      rw [execBegin_eq req hserve, plBegin, if_neg (by simp [loads_iff, hreq])]
      rcases hst with h | ⟨h, hl⟩ | ⟨h, ho⟩ <;> simp [h]
      · exact fun hno => by simp [hl] at hno
      · exact fun hno => absurd hno ho
    exact hx
  · have hx : exec (.pldata req bs) s = .next ((s.setBank (shadowBank s) { bankAt s (shadowBank s) with
        img := ((bankAt s (shadowBank s)).img ++ bs).take 524288 }).mapPl fun l => { l with wptr := satAdd l.wptr bs.length }) := by
      simp [exec, execPldata, plData, hserve, hst, hown]
    refine ⟨_, hx, ?_, rfl, ?_, by simp⟩
    · rw [bankAt_of_nv (mapPl_nv ..), bankAt_setBank_shadow]
    · rw [bankAt_of_nv (mapPl_nv ..), bankAt_setBank_active]
  · simp [exec, execVerify, plVerify, hserve, hst, hown, State.mapPl]
  · have hno' : ¬ (s.pl.st = .loading ∧ s.pl.owner = some req) := fun h => hno.elim (fun k => k h.1) (fun k => k h.2)
    simp only [exec, execPldata, execVerify, plData, plVerify, if_neg hno', hserve, if_true, notOwner_of_loads s hreq, and_self]
  · rcases h with h | ⟨rfl, ho⟩
    · simp [exec, execBegin, execPldata, execVerify, h]
    · have hno : ¬ (s.pl.st = .loading ∧ s.pl.owner = some .legal) := fun h => ho h.2
      simp [exec, execBegin, execPldata, execVerify, plBegin, plData, plVerify, hno, notOwner, loads]
  · have hx : exec .verificationDone s = .next (takeVerdict s (shadowVerdict s)) := by simp [exec, execVerificationDone, hserve, hst]
    refine ⟨_, hx, ?_, exec_within hx rfl, ?_⟩
    · cases shadowVerdict s <;> simp [takeVerdict, State.setBank]
    · cases shadowVerdict s with
      | bad c i =>
        exact ⟨rfl, rfl, rfl, rfl, irq_set _ 4 (by omega)⟩
      | good p legal => exact ⟨rfl, rfl, rfl⟩
  · simp only [exec, execVerificationDone]
    rw [if_neg]
    rintro ⟨hst, hserve⟩
    rcases h with h | h
    · simp [h] at hserve
    · exact h hst

/-- Settles O22: an ACTIVATE by the code of its checks, a CANCEL as `endActivation`. -/
theorem activationIsRequested : Obligations.ActivationIsRequested := by
  refine ⟨fun req s hserve hst hown => ?_, fun req s hserve hst hown => ?_, fun req s hserve hreq h => ?_, fun req s h => ?_, fun s => ?_⟩
  · have hx : exec (.activate req) s = .next (plActivate s req) := by simp [exec, execActivate, hserve]
    refine ⟨fun hcode hlegal => ?_, fun hcode => ?_, fun hcode hlegal => ?_⟩
    · rw [plActivate_of_code_zero hst hown hcode, if_neg (by simp [hlegal])] at hx
      exact ⟨_, hx, by simp, by simp, by simp, by simp, by simp [hown]⟩
    · rw [plActivate_of_refused hst hown hcode] at hx
      exact ⟨_, hx, rfl, irq_set _ 4 (by omega), by simp [actRefuse]⟩
    · rw [plActivate_of_code_zero hst hown hcode, if_pos hlegal] at hx
      refine ⟨_, hx, ?_, ?_, ?_, ?_, fun hres => ?_, by simp⟩
      · have htp : (reserveChange s).tp = s.tp := (show Only [.pl, .er, .hp] s (reserveChange s) by simp) .tp rfl
        simp [pendDec, htp]
      · rw [pendDec, mapTp_pl, reserveChange_pl]
        split <;> rfl
      · exact (show Only [.tp, .pl, .er, .hp] s (pendDec (reserveChange s) (.plan (plafN s) req) true) by simp) .nv rfl
      · rw [pendDec, mapTp_er, reserveChange_pres]
      · rw [pendDec, mapTp_pl, reserveChange_pl, if_pos hres]
  · have hx : exec (.cancel req) s = .next (endActivation s 0x53) := by
      simp only [exec, execCancel, plCancel, hserve, if_true]
      rw [if_pos (by simpa [hown] using hst)]
    exact ⟨_, hx, by simp, by simp, by simp, by simp, by simp⟩
  · have hact : ¬ ((s.pl.st = .ready ∨ (s.pl.st = .pending ∧ !s.pl.locked)) ∧ s.pl.owner = some req) := by
      rintro ⟨hst, ho⟩
      rcases h with h | ⟨h, hl⟩ | ⟨h1, h2, h3⟩
      · exact h ho
      · rcases hst with hst | ⟨-, hst⟩
        · simp [h] at hst
        · simp [hl] at hst
      · exact hst.elim h2 fun k => h1 k.1
    have hcan : ¬ ((s.pl.st = .armed ∨ (s.pl.st = .pending ∧ !s.pl.locked)) ∧ s.pl.owner = some req) := by
      rintro ⟨hst, ho⟩
      rcases h with h | ⟨h, hl⟩ | ⟨h1, h2, h3⟩
      · exact h ho
      · rcases hst with hst | ⟨-, hst⟩
        · simp [h] at hst
        · simp [hl] at hst
      · exact hst.elim h3 fun k => h1 k.1
    simp only [exec, execActivate, execCancel, plActivate, plCancel, hserve, if_true, if_neg hact, if_neg hcan, notOwner_of_loads s hreq, and_self]
  · simp [exec, execActivate, execCancel, h]
  · refine ⟨?_, fun h => ?_⟩
    · rw [activateCode_of_state]
      simp [actState]
      tauto
    · obtain ⟨hlock, hframe, hseal⟩ := activateCode_zero h
      simp only [frameOk, Bool.and_eq_true, decide_eq_true_eq] at hframe
      exact ⟨hlock, hframe.1, hframe.2, hseal⟩

/-- Settles O23: ARM and COMMIT as the loader's own moves, with the answer to the chain after them. -/
theorem chainArmsAndCommits : Obligations.ChainArmsAndCommits := by
  refine ⟨fun n s hserve hst => ⟨fun hcode hlegal => ?_, fun hcode => ?_⟩, fun n s hserve hst => ?_, fun s hserve hst => ?_, fun s hserve hst => ?_,
    fun n s h => ?_, fun s hserve hst hlate => ?_, fun s h => ?_⟩
  · have hx := execArm_eq n hserve
    have harm : plArm (takeRx s) n ((rxOf s 3).map (·.1)) =
        loaderAnswer (setArmed (takeRx s) n) ((rxOf s 3).map (·.1)) 3 (n.toNat % 2 ^ 32) none := by
      rw [plArm, if_pos (show (takeRx s).pl.st = .ready from hst), activateCode_takeRx, hcode]
      simp [takeRx, hlegal]
    rw [harm] at hx
    exact ⟨_, hx, by simp, by simp, by simp [takeRx], by simp [takeRx], by simp [takeRx]⟩
  · have hx := execArm_eq n hserve
    have harm : plArm (takeRx s) n ((rxOf s 3).map (·.1)) = loaderAnswer (actRefuse (takeRx s) (activateCode s n)) ((rxOf s 3).map (·.1)) 3
        (n.toNat % 2 ^ 32) (some (activateCode s n)) := by
      rw [plArm, if_pos (show (takeRx s).pl.st = .ready from hst), activateCode_takeRx]
      dsimp only
      split
      next h => exact absurd h hcode
      next => rfl
    rw [harm] at hx
    exact ⟨_, hx, by simp [actRefuse, takeRx], by simp [actRefuse, takeRx], by simp [actRefuse, takeRx]⟩
  · have hx := execArm_eq n hserve
    have harm : plArm (takeRx s) n ((rxOf s 3).map (·.1)) = loaderAnswer (ownErr (takeRx s)) ((rxOf s 3).map (·.1)) 3
        (n.toNat % 2 ^ 32) (some s.pl.rsn) := by
      rw [plArm, if_neg (show (takeRx s).pl.st ≠ .ready from hst)]
      rfl
    rw [harm] at hx
    exact ⟨_, hx, by simp [ownErr, takeRx], by simp [ownErr, takeRx], by simp [ownErr, takeRx]⟩
  · have hx := execCommit_eq hserve
    rw [plCommit, if_pos (show (takeRx s).pl.st = .armed from hst)] at hx
    exact ⟨_, hx, by simp, by simp [takeRx], by simp, by simp [takeRx], by simp [takeRx], by simp [takeRx]⟩
  · have hx := execCommit_eq hserve
    rw [plCommit, if_neg (show (takeRx s).pl.st ≠ .armed from hst)] at hx
    exact ⟨_, hx, by simp [ownErr, takeRx], by simp [ownErr, takeRx], by simp [ownErr, takeRx]⟩
  · simp [exec, execArm, execCommit, execCommitDeadline, h]
  · have hx : exec .commitDeadline s = .next (endActivation s 0x54) := by
      simp [exec, execCommitDeadline, hserve, hst, State.fnum, hlate]
    exact ⟨_, hx, by simp, by simp, by simp, by simp, by simp⟩
  · simp only [exec, execCommitDeadline]
    rw [if_neg]
    rintro ⟨-, hst, hlate⟩
    rcases h with h | h
    · exact h hst
    · exact absurd hlate (Nat.not_lt.mpr h)

/-- Settles O24: the selector commit locks the activation, `handOver` carries it out. -/
theorem activationAtItsFrame : Obligations.ActivationAtItsFrame := by
  refine ⟨fun new s hserve hst hnew hlock hn => ?_, fun s h => ?_, fun new s hst hnew hlock hn hafter => ?_, fun s h => ?_⟩
  · have hx := execSelectorCommit_eq hserve hst hnew hlock hn
    refine ⟨fun hcode => ?_, fun hcode => ?_⟩
    · rw [if_pos hcode] at hx
      obtain ⟨ps, hps⟩ := scaleAhead_pl ((commitSelector s).mapPl fun l => { l with locked := true, lockFrame := s.tb.frame }) new
      refine ⟨_, hx, ?_⟩
      rw [hps, scaleAhead_nv]
      simp [commitSelector_pl, commitSelector_nv, hst]
    · rw [if_neg hcode] at hx
      exact ⟨_, hx, by simp, by simp, by simp, by simp, by simp, by simp⟩
  · simp only [exec, execSelectorCommit]
    split
    next hst hnew =>
      refine if_pos ?_
      rcases h with h | h | h | h
      · simp [h]
      · exact absurd hst h
      · simp [h]
      · simp [State.fnum, h]
    next => rfl
  · have hx := execPlanActivation_eq hst hnew hlock hn hafter
    refine ⟨fun hrun => ?_, fun hrec hno => ?_⟩
    · rw [if_pos hrun] at hx
      obtain ⟨h1, h2, h3, h4, h5, h6, h7⟩ := handOver_pl s new
      exact ⟨_, hx, h1, h2, h3, h4, loaderDone_mark _, h5, h6, h7, irq_set _ 4 (by omega)⟩
    · rw [hx]
      simp [hrec, orderReset, hno, State.mapSup]
  · simp only [exec, execPlanActivation]
    split
    next hst hnew =>
      refine if_pos ?_
      rcases h with h | h | h | h
      · exact absurd hst h
      · simp [h]
      · simp [State.fnum, h]
      · simp [State.fnum, h]
    next => rfl
end

section
/-! Lane B works on complements (08 R190); the comparison of the lanes (08 R191, R193). -/

namespace Sys2Proof.Laws

open Sys2Proof.Machine

/-! ## Complements -/

theorem compl_eq (x : Int) : Machine.compl x = -1 - x := rfl

theorem lAdd_compl (a b : Int) : lAdd true (Machine.compl a) (Machine.compl b) = Machine.compl (lAdd false a b) := by simp [lAdd, compl_eq]; omega

theorem lSub_compl (a b : Int) : lSub true (Machine.compl a) (Machine.compl b) = Machine.compl (lSub false a b) := by simp [lSub, compl_eq]; omega

theorem lMul_compl (a b : Int) : lMul true (Machine.compl a) (Machine.compl b) = Machine.compl (lMul false a b) := by simp only [lMul, compl_eq]; simp; ring

/-- A floor division of the complement is the complement of the floor division. -/
theorem compl_ediv (a : Int) {m : Int} (hm : 0 < m) : Machine.compl a / m = Machine.compl (a / m) := by
  have hr := Int.emod_nonneg a (Int.ne_of_gt hm)
  have hl := Int.emod_lt_of_pos a hm
  have hd := Int.mul_ediv_add_emod a m
  refine (Int.ediv_emod_unique hm (r := m - 1 - a % m)).mpr ⟨?_, by omega, by omega⟩ |>.1
  rw [compl_eq, compl_eq, Int.mul_sub]
  omega

theorem asr_compl (a : Int) (n : Nat) : asr (Machine.compl a) n = Machine.compl (asr a n) := compl_ediv a (by positivity)

theorem lNonneg_compl (a : Int) : lNonneg true (Machine.compl a) = lNonneg false a := by
  have h : Machine.compl a < 0 ↔ 0 ≤ a := by rw [compl_eq]; omega
  simp [lNonneg, h]

theorem lAbs_compl (a : Int) : lAbs true (Machine.compl a) = Machine.compl (lAbs false a) := by
  simp only [lAbs, compl_eq, if_true, Bool.false_eq_true, if_false]
  omega

theorem lSat48_compl (a : Int) : lSat48 true (Machine.compl a) = Machine.compl (lSat48 false a) := by
  simp only [lSat48, compl_eq, sat48, clampI, if_true, Bool.false_eq_true, if_false]
  omega

/-- Rounding half away from zero, as a floor division on each side of zero. -/
theorem rndDiv_two_pow (a : Int) (n : Nat) :
    rndDiv a (2 ^ (n + 1)) = if a < 0 then -((-a + 2 ^ n) / 2 ^ (n + 1)) else (a + 2 ^ n) / 2 ^ (n + 1) := by
  have hhalf : (2 * a.natAbs + 2 ^ (n + 1)) / (2 * 2 ^ (n + 1)) = (a.natAbs + 2 ^ n) / 2 ^ (n + 1) := by
    rw [show 2 * a.natAbs + 2 ^ (n + 1) = 2 * (a.natAbs + 2 ^ n) by rw [Nat.pow_succ]; ring, Nat.mul_div_mul_left _ _ (by omega)]
  have hpow : (2 : Nat) ^ (n + 1) ≠ 0 := by positivity
  simp only [rndDiv, if_neg hpow, hhalf]
  split
  next h => push_cast; rw [abs_of_neg h]
  next h => push_cast; rw [abs_of_nonneg (by omega)]

theorem lRnd_compl (a : Int) (n : Nat) : lRnd true (Machine.compl a) (n + 1) = Machine.compl (lRnd false a (n + 1)) := by
  have hpos : (0 : Int) < 2 ^ (n + 1) := by positivity
  have hsucc : (2 : Int) ^ (n + 1) = 2 * 2 ^ n := by rw [pow_succ]; ring
  simp only [lRnd, if_true, Bool.false_eq_true, if_false, rndDiv_two_pow, Nat.add_sub_cancel]
  by_cases ha : a < 0
  · have hneg : ¬ Machine.compl a < 0 := by simp only [compl_eq]; omega
    rw [if_neg hneg, if_pos ha, asr, show Machine.compl a + 2 ^ n - 2 ^ (n + 1) + 1 = (-a + 2 ^ n) + 2 ^ (n + 1) * (-1) by rw [compl_eq, hsucc]; ring,
      Int.add_mul_ediv_left _ _ (Int.ne_of_gt hpos), compl_eq]
    omega
  · have hneg : Machine.compl a < 0 := by simp only [compl_eq]; omega
    rw [if_pos hneg, if_neg ha, asr, show Machine.compl a - 2 ^ n = Machine.compl (a + 2 ^ n) by rw [compl_eq, compl_eq]; ring, compl_ediv _ hpos]

theorem lInc_compl (a : Int) (df : Nat) (x : Scale) : lInc true (Machine.compl a) df x = Machine.compl (lInc false a df x) := by
  simp only [lInc, inLane, if_true, Bool.false_eq_true, if_false, lMul_compl, asr_compl]

theorem lLpf_compl (y x : Int) (n : Nat) : lLpf true (Machine.compl y) (Machine.compl x) n = Machine.compl (lLpf false y x n) := by
  simp only [lLpf, lSub_compl, asr_compl, lAdd_compl]

theorem lHpf_compl (h hx x : Int) : lHpf true (Machine.compl h) (Machine.compl hx) (Machine.compl x) = Machine.compl (lHpf false h hx x) := by
  simp only [lHpf, lSub_compl, lAdd_compl, asr_compl]

theorem lRin_compl (y xp x : Int) (sh : Nat) : lRin true (Machine.compl y) (Machine.compl xp) (Machine.compl x) sh = Machine.compl (lRin false y xp x sh) := by
  simp only [lRin, lSub_compl, lAdd_compl, asr_compl]

/-! ## The comparison of the lanes -/

section keep
variable {α γ : Type} {f : State → α → State}

/-- What each step of a fold keeps, the fold keeps. -/
theorem forEach_keep (V : State → γ) (h : ∀ x a, V (f x a) = V x) (l : List α) (s : State) : V (forEach l f s) = V s := by
  induction l generalizing s with
  | nil => rfl
  | cons a l ih => exact (ih (f s a)).trans (h s a)

end keep

theorem holdUpsets_met (s : State) (l : List Upset) (p : Nat) :
    (holdUpsets s l p).met.compared = s.met.compared ∧ (holdUpsets s l p).met.acc = s.met.acc := by
  have h := forEach_keep (V := fun x : State => (x.met.compared, x.met.acc)) (f := fun s q =>
    if q < 16 then
      let x := upsetPair l false p q (incPair s p q)
      s.mapMet fun m => { m with incA := tset (16 * p + q) x.1 m.incA, incB := tset (16 * p + q) x.2 m.incB }
    else
      let x := upsetPair l false p q (pincPair s (q - 16))
      s.mapMet fun m => { m with pincA := tset (q - 16) x.1 m.pincA, pincB := tset (q - 16) x.2 m.pincB })
    (fun x q => by dsimp only; split <;> rfl) ((l.filter fun u => !u.prologue && u.point == p).map (·.qty)) s
  exact Prod.mk.inj h

/-- The points whose lanes differ in the frame that runs. -/
def laneMiss (s : State) (l : List Upset) : List Nat :=
  (points.filter fun p => (pointDef s.met.lanePlan p).type != 0 && !faulted s p).filter (mismatch s l)

/-- The prologue differs, in its retry too. -/
def prolFails (s : State) (l : List Upset) : Bool := prolMismatch s l && prolMismatch s (l.filter (·.persistent))

/-- The comparison of the prologue. -/
def prolCompared (s : State) (l : List Upset) (f : Frame) : State :=
  let s' := s.mapMet fun m => { m with compared := true }
  if prolMismatch s l then raiseAt (s'.mapLs fun x => { x with prolmm := true }) 0x72 0xFF (some (if prolFails s l then 2 else 1)) f else s'

/-- What the retries of the frame come to. -/
def laneRetry (s : State) (l : List Upset) (f : Frame) : Retry :=
  let pc := if prolMismatch s l then costOf s.met.lanePlan 128 else 0
  if prolFails s l then ⟨0, pc, [], [], (laneMiss s l).map fun p => (p, 4)⟩
  else (laneMiss s l).foldl (retryPoint (prolCompared s l f) (l.filter (·.persistent))) ⟨retryWindow - pc, pc, [], [], []⟩

/-- The points' upsets held, and the points that disagree noted. -/
def pointsCompared (s : State) (l : List Upset) (f : Frame) : State :=
  (forEach (points.filter fun p => l.any fun u => u.point == p)
    (fun x p => holdUpsets x (if (laneRetry s l f).tried.contains p then l.filter (·.persistent) else l) p) (prolCompared s l f)).mapMet fun m =>
      { m with disagreed := (laneRetry s l f).bad, prolBad := prolFails s l }

/-- The registers and the event of the retries. -/
def retriesTold (s : State) (r : Retry) (f : Frame) : State :=
  let s := if r.tried.isEmpty then s
    else s.mapLs fun x => { x with rlPoint := r.tried.getLastD 0, rlPoints := r.tried.length, rlCyc := r.used }
  if r.agreed.isEmpty then s
  else
    let n := r.agreed.length
    let s := s.mapLs fun x => { x with rtc := satAdd x.rtc n, retry := true }
    injRetried (raiseAt s 0x70 (if n = 1 then r.agreed.headD 0 else 0xFF) (some (n : Nat)) f) r.agreed

theorem lockstep_eq {s : State} {f : Frame} (us : List Upset) (hrun : s.met.laneRun = some f) (hcmp : s.met.compared = false) :
    lockstep s us = retriesTold (katAdvance (pointsCompared s (upsetsOf s us) f) (costSum s.met.lanePlan)
      ((laneMiss s (upsetsOf s us)).isEmpty && !prolMismatch s (upsetsOf s us))) (laneRetry s (upsetsOf s us) f) f := by
  simp only [lockstep, hrun, hcmp]
  rfl

theorem raiseAt_ls (s : State) (code chan : Nat) (v : Option Int) (f : Frame) : (raiseAt s code chan v f).ls = s.ls :=
  (show Only [.qu, .er, .hp] s (raiseAt s code chan v f) by simp) .ls rfl

theorem raiseAt_met (s : State) (code chan : Nat) (v : Option Int) (f : Frame) : (raiseAt s code chan v f).met = s.met :=
  (show Only [.qu, .er, .hp] s (raiseAt s code chan v f) by simp) .met rfl

theorem prolCompared_met (s : State) (l : List Upset) (f : Frame) : (prolCompared s l f).met = { s.met with compared := true } := by
  simp only [prolCompared]
  split
  · rw [raiseAt_met]
    rfl
  · rfl

theorem prolCompared_ls (s : State) (l : List Upset) (f : Frame) :
    (prolCompared s l f).ls = if prolMismatch s l then { s.ls with prolmm := true } else s.ls := by
  simp only [prolCompared]
  split
  · rw [raiseAt_ls]
    rfl
  · rfl

theorem pointsCompared_ls (s : State) (l : List Upset) (f : Frame) : (pointsCompared s l f).ls = (prolCompared s l f).ls :=
  (show Only [.met] (prolCompared s l f) (pointsCompared s l f) by simp [pointsCompared]) .ls rfl

theorem pointsCompared_met (s : State) (l : List Upset) (f : Frame) : (pointsCompared s l f).met.compared = true ∧
    (pointsCompared s l f).met.acc = s.met.acc ∧ (pointsCompared s l f).met.disagreed = (laneRetry s l f).bad ∧
    (pointsCompared s l f).met.prolBad = prolFails s l := by
  have h := forEach_keep (V := fun x : State => (x.met.compared, x.met.acc))
    (f := fun x p => holdUpsets x (if (laneRetry s l f).tried.contains p then l.filter (·.persistent) else l) p)
    (fun x p => by rw [(holdUpsets_met x _ p).1, (holdUpsets_met x _ p).2])
    (points.filter fun p => l.any fun u => u.point == p) (prolCompared s l f)
  rw [prolCompared_met] at h
  obtain ⟨hcmp, hacc⟩ := Prod.mk.inj h
  exact ⟨hcmp, hacc, rfl, rfl⟩

theorem katAdvance_met (s : State) (c : Nat) (b : Bool) : (katAdvance s c b).met = s.met := (show Only [.ls] s (katAdvance s c b) by simp) .met rfl

theorem katAdvance_ls (s : State) (c : Nat) (b : Bool) : (katAdvance s c b).ls.rtc = s.ls.rtc ∧ (katAdvance s c b).ls.prolmm = s.ls.prolmm := by
  rw [katAdvance]
  split <;> exact ⟨rfl, rfl⟩

theorem injRetried_prolmm (s : State) (l : List Nat) : (injRetried s l).ls.prolmm = s.ls.prolmm := by
  rw [injRetried]
  repeat' split
  all_goals rfl

theorem retriesTold_met (s : State) (r : Retry) (f : Frame) : (retriesTold s r f).met = s.met :=
  (show Only [.ls, .qu, .er, .hp] s (retriesTold s r f) by simp [retriesTold]) .met rfl

theorem retriesTold_prolmm (s : State) (r : Retry) (f : Frame) : (retriesTold s r f).ls.prolmm = s.ls.prolmm := by
  simp only [retriesTold]
  repeat' split
  all_goals simp [injRetried_prolmm, raiseAt_ls]

theorem retriesTold_of_none (s : State) {r : Retry} (f : Frame) (ht : r.tried = []) (ha : r.agreed = []) : retriesTold s r f = s := by
  simp [retriesTold, ht, ha]

/-- The outcome of a comparison, part by part. -/
theorem lockstep_met {s : State} {f : Frame} (us : List Upset) (hrun : s.met.laneRun = some f) (hcmp : s.met.compared = false) :
    (lockstep s us).met.compared = true ∧ (lockstep s us).met.acc = s.met.acc ∧
      (lockstep s us).met.disagreed = (laneRetry s (upsetsOf s us) f).bad ∧ (lockstep s us).met.prolBad = prolFails s (upsetsOf s us) := by
  rw [lockstep_eq us hrun hcmp, retriesTold_met, katAdvance_met]
  exact pointsCompared_met ..

theorem lockstep_prolmm {s : State} {f : Frame} (us : List Upset) (hrun : s.met.laneRun = some f) (hcmp : s.met.compared = false) :
    (lockstep s us).ls.prolmm = (s.ls.prolmm || prolMismatch s (upsetsOf s us)) := by
  rw [lockstep_eq us hrun hcmp, retriesTold_prolmm, (katAdvance_ls ..).2, pointsCompared_ls, prolCompared_ls]
  split <;> simp_all

theorem laneMiss_eq_nil {s : State} {l : List Upset} (h : ∀ p, p < 128 → mismatch s l p = false) : laneMiss s l = [] := by
  simp only [laneMiss, List.filter_eq_nil_iff, List.mem_filter]
  rintro p ⟨hp, -⟩
  simp [h p (List.mem_range.mp hp)]

theorem laneRetry_of_agreed {s : State} {l : List Upset} {f : Frame} (hmiss : laneMiss s l = []) (hprol : prolMismatch s l = false) :
    (laneRetry s l f).bad = [] ∧ (laneRetry s l f).tried = [] ∧ (laneRetry s l f).agreed = [] := by
  simp [laneRetry, prolFails, hprol, hmiss]

end Sys2Proof.Laws
end
section
/-! The windows of a bus (06 R142 to R145) and the pulse outputs (06 R148, R149). -/

namespace Sys2Proof.Laws

open Sys2Proof.Machine

/-! ## What leaves the buses alone -/

theorem bus_of_met {s t : State} (h : t.met = s.met) : t.met.bus = s.met.bus := by rw [h]

theorem setPt_bus (s : State) (p : Nat) (x : Point) : (s.setPt p x).met.bus = s.met.bus := rfl

theorem mapRms_bus (g : Rms → Rms) (s : State) (p : Nat) : (mapRms g s p).met.bus = s.met.bus := rfl

theorem gateUpdate_bus (pl : PlanDef) (f : Frame) (s : State) (p : Nat) : (gateUpdate pl f s p).met.bus = s.met.bus := by
  simp only [gateUpdate]
  repeat' split
  all_goals simp only [raiseAt_met, setPt_bus]

theorem pointCompare_bus (pl : PlanDef) (full : Bool) (f : Frame) (s : State) (p : Nat) : (pointCompare pl full f s p).met.bus = s.met.bus :=
  bus_of_met ((show Only [.cv, .qu, .er, .hp] s (pointCompare pl full f s p) by simp) .met rfl)

theorem pqEvaluate_bus (s : State) (pl : PlanDef) (b : Nat) (f : Frame) : (pqEvaluate s pl b f).met.bus = s.met.bus :=
  bus_of_met ((show Only [.qu, .pq, .er, .hp] s (pqEvaluate s pl b f) by simp) .met rfl)

theorem pointWindow_bus (pl : PlanDef) (pos sumW freq : Nat) (valid : Bool) (f : Frame) (s : State) (p : Nat) :
    (pointWindow pl pos sumW freq valid f s p).met.bus = s.met.bus := by
  simp only [pointWindow]
  repeat' split
  all_goals simp only [raiseAt_met, endSample_met, setPt_bus]

theorem takeQh_bus (f : Frame) (s : State) (p : Nat) : (takeQh f s p).met.bus = s.met.bus := by
  simp only [takeQh]
  split
  · simp [atFrame, setPt_bus]
  · rfl

theorem harmWindow_bus (s : State) (pl : PlanDef) (b post : Nat) (f : Frame) (sync flag : Bool) (freq : Nat) :
    (harmWindow s pl b post f sync flag freq).met.bus = s.met.bus := by
  simp only [harmWindow, winNext, mapPq_met]
  refine (forEach_keep (fun x : State => x.met.bus) (fun x p => ?_) _ _).trans ?_
  · rw [takeQh_bus]
    refine forEach_keep (fun x : State => x.met.bus) (fun y k => ?_) _ x
    rfl
  · refine forEach_keep (fun x : State => x.met.bus) (fun y e => ?_) _ s
    rfl

theorem pqWindow_bus (s : State) (pl : PlanDef) (b : Nat) (flag : Bool) : (pqWindow s pl b flag).met.bus = s.met.bus :=
  bus_of_met ((show Only [.pq] s (pqWindow s pl b flag) by simp) .met rfl)

theorem mtEval_bus (pl : PlanDef) (f : Frame) (s : State) (p : Nat) : (mtEval pl f s p).met.bus = s.met.bus :=
  bus_of_met ((show Only [.qu, .bl, .tp, .er, .hp, .ser] s (mtEval pl f s p) by simp) .met rfl)

theorem setBus_bus (s : State) (b : Nat) (x : Bus) : (s.setBus b x).met.bus = tset b x s.met.bus := rfl

theorem busAt_eq_of_bus {s t : State} (h : t.met.bus = s.met.bus) (b : Nat) : busAt t b = busAt s b := by rw [busAt, h, busAt]

/-! ## The end of a window -/

/-- A half-cycle window that closes at `pos`. -/
def halfClosed (x : Bus) (pos : Nat) : Bus :=
  { x with
    dueH := none, prevHalf := x.halfPos - postW pos, halfPos := postW pos,
    halfN := if x.valid && x.halfN == 0 then 1 else min 2 (max 1 x.halfN + 1) }

theorem closeHalf_of_none {s : State} {b : Nat} (h : (busAt s b).dueH = none) : closeHalf s b = s := by
  simp only [closeHalf, h]

theorem closeHalf_bus {s : State} {b pos : Nat} (h : (busAt s b).dueH = some pos) :
    (closeHalf s b).met.bus = tset b (halfClosed (busAt s b) pos) s.met.bus := by
  simp only [closeHalf, h]
  have hrms (g : Rms → Rms) (l : List Nat) (x : State) : (forEach l (mapRms g) x).met.bus = x.met.bus :=
    forEach_keep (fun x : State => x.met.bus) (mapRms_bus g) l x
  split
  · rw [pqEvaluate_bus]
    refine (forEach_keep (fun x : State => x.met.bus) (fun x p => ?_) _ _).trans ?_
    · rw [gateUpdate_bus, pointCompare_bus]
    · rw [setBus_bus, hrms]
      rfl
  · rw [setBus_bus, hrms]
    rfl

theorem busAt_closeHalf_ne (s : State) {b k : Nat} (h : k ≠ b) : busAt (closeHalf s b) k = busAt s k := by
  cases hd : (busAt s b).dueH with
  | none => rw [closeHalf_of_none hd]
  | some pos => rw [busAt, closeHalf_bus hd, tget_tset_ne _ _ h, busAt]

/-- A half-cycle window that may close first leaves what a 10/12-cycle window is made of. -/
theorem busAt_closeHalf_window (s : State) (b : Nat) : ∃ d p q n,
    busAt (closeHalf s b) b = { busAt s b with dueH := d, prevHalf := p, halfPos := q, halfN := n } := by
  cases hd : (busAt s b).dueH with
  | none => exact ⟨_, _, _, _, by rw [closeHalf_of_none hd]⟩
  | some pos => exact ⟨_, _, _, _, by rw [busAt, closeHalf_bus hd, tget_tset_self, halfClosed]⟩

/-- The departure of the frequency as a window leaves it. -/
def departed (pl : PlanDef) (b : Nat) (x : Bus) : Bus :=
  let nom := nominal (bus60 pl b)
  let dev := ((x.freq : Int) - nom).natAbs
  let out := x.valid && decide (nom < dev * 100)
  { x with devOut := out, devPeak := if out then max x.devPeak (dev * 100000 / nom) else 0 }

theorem freqDepart_bus (pl : PlanDef) (b : Nat) (f : Frame) (s : State) :
    (freqDepart pl b f s).met.bus = tset b (departed pl b (busAt s b)) s.met.bus := by
  simp only [freqDepart, apply_ite State.met, raiseAt_met, endSample_met, ite_self]
  rfl

theorem closeWindow_of_none {s : State} {b : Nat} (h : (busAt s b).due10 = none) : closeWindow s b = s := by
  simp only [closeWindow, h]

/-- The frequency of the cycles of a window. -/
def windowFreq (x : Bus) : Nat :=
  if x.cycles = 0 ∨ x.lastX - x.firstX.getD 0 = 0 then 0 else x.cycles * 16000 * 2 ^ 32 / (x.lastX - x.firstX.getD 0)

/-- Whether the frequency of a window that closes is valid. -/
def windowValid (s : State) (b pos : Nat) : Bool :=
  (busRef s.met.lanePlan b).elim false fun r => freqValid
    (rmsAt (forEach (busPts s.met.lanePlan b) (mapRms (rmsClose10 pos ((busAt s b).winPos - postW pos))) s) r.2 r.1).r10 (windowFreq (busAt s b))

/-- The close of a 10/12-cycle window whose frequency is found `valid`. -/
def windowClosed (s : State) (b pos : Nat) (valid : Bool) : State :=
  let x := busAt s b
  let pl := s.met.lanePlan
  let f := laneF s
  let ps := busPts pl b
  let sumW := x.winPos - postW pos
  let s := (forEach ps (mapRms (rmsClose10 pos sumW)) s).setBus b (nextWindows x pos (windowFreq x) valid)
  let s := if valid = x.valid then s else forEach ps (mapRms fun r => { r with sH := 0, pH := 0 }) s
  let s := forEach ps (pointWindow pl pos sumW (windowFreq x) valid f) s
  let ch := ((busRef pl b).bind fun r => memberCh pl r.2 r.1).getD 0xFF
  let s := if x.valid && !valid then raiseAt s 0x60 ch none f
    else if valid && !x.valid && 0 < x.invTicks then endSample s 0x60 ch ((x.invTicks / 16000 : Nat) : Int) else s
  let s := freqDepart pl b f s
  let q := pqBus s b
  let flag := q.flag || q.dip.on || q.swl.on || q.int.on
  let s := pqWindow (harmWindow s pl b (postW pos) f x.valid flag (if x.valid then x.nco else nominal (bus60 pl b))) pl b flag
  let s := s.setPqBus b { pqBus s b with flag := q.dip.on || q.swl.on || q.int.on }
  forEach ps (fun s p => mtEval pl f (pointCompare pl true f s p) p) s

theorem closeWindow_eq {s : State} {b pos : Nat} (h : (busAt s b).due10 = some pos) :
    closeWindow s b = windowClosed (closeHalf s b) b pos (windowValid (closeHalf s b) b pos) := by
  simp only [closeWindow, h, windowClosed, windowValid, windowFreq]
  generalize closeHalf s b = y
  rcases Option.eq_none_or_eq_some (busRef y.met.lanePlan b) with hr | ⟨r, hr⟩ <;> simp only [hr, Option.elim]

theorem windowClosed_bus (s : State) (b pos : Nat) (v : Bool) : (windowClosed s b pos v).met.bus =
    tset b (departed s.met.lanePlan b (nextWindows (busAt s b) pos (windowFreq (busAt s b)) v))
      (tset b (nextWindows (busAt s b) pos (windowFreq (busAt s b)) v) s.met.bus) := by
  have hmt (pl : PlanDef) (f : Frame) (l : List Nat) (x : State) :
      (forEach l (fun s p => mtEval pl f (pointCompare pl true f s p) p) x).met.bus = x.met.bus :=
    forEach_keep (fun x : State => x.met.bus) (fun x p => by rw [mtEval_bus, pointCompare_bus]) l x
  have hpt (pl : PlanDef) (pos sumW freq : Nat) (valid : Bool) (f : Frame) (l : List Nat) (x : State) :
      (forEach l (pointWindow pl pos sumW freq valid f) x).met.bus = x.met.bus :=
    forEach_keep (fun x : State => x.met.bus) (pointWindow_bus pl pos sumW freq valid f) l x
  have hrms (g : Rms → Rms) (l : List Nat) (x : State) : (forEach l (mapRms g) x).met.bus = x.met.bus :=
    forEach_keep (fun x : State => x.met.bus) (mapRms_bus g) l x
  have hpq (x : State) (q : PqBus) : (x.setPqBus b q).met.bus = x.met.bus := rfl
  have hite (c : Prop) [Decidable c] (x y : State) : (if c then x else y).met.bus = if c then x.met.bus else y.met.bus := by split <;> rfl
  simp only [windowClosed]
  rw [hmt, hpq, pqWindow_bus, harmWindow_bus, freqDepart_bus, busAt]
  simp only [hite, raiseAt_met, endSample_met, ite_self, hpt, hrms, setBus_bus, tget_tset_self]

/-- The window that a bus starts when one closes. -/
theorem busAt_closeWindow {s : State} {b pos : Nat} (h : (busAt s b).due10 = some pos) : ∃ pl v,
    busAt (closeWindow s b) b = departed pl b (nextWindows (busAt (closeHalf s b) b) pos (windowFreq (busAt (closeHalf s b) b)) v) := by
  refine ⟨(closeHalf s b).met.lanePlan, windowValid (closeHalf s b) b pos, ?_⟩
  rw [closeWindow_eq h, busAt, windowClosed_bus, tget_tset_self]

theorem busAt_closeWindow_ne (s : State) {b k : Nat} (hk : k ≠ b) : busAt (closeWindow s b) k = busAt s k := by
  cases h : (busAt s b).due10 with
  | none => rw [closeWindow_of_none h]
  | some pos => rw [closeWindow_eq h, busAt, windowClosed_bus, tget_tset_ne _ _ hk, tget_tset_ne _ _ hk, ← busAt, busAt_closeHalf_ne s hk]

theorem execRmsWindowClose_eq {b : Nat} (half : Bool) (s : State) (hb : b < 8) :
    exec (.rmsWindowClose b half) s = .next (if !s.powered then s else if half then closeHalf s b else closeWindow s b) := by
  simp [exec, execRmsWindowClose, isBus, hb]

/-! ## Pulses -/

theorem pair_add_ok {p : Pair 96} (a : Int) (h : p.ok = true) : (p.add a (Machine.compl a)).ok = true := by
  have hn : p.n = ~~~p.v := by simpa [Pair.ok] using h
  have hs : BitVec.ofInt 96 (-1 - a) = -1#96 - BitVec.ofInt 96 a := by
    rw [Int.sub_eq_add_neg, BitVec.ofInt_add, BitVec.ofInt_neg, BitVec.ofInt_neg, ← BitVec.sub_eq_add_neg]
    rfl
  have hadd : ~~~p.v + (-1#96 - BitVec.ofInt 96 a) + 1#96 = ~~~(p.v + BitVec.ofInt 96 a) := by
    rw [BitVec.not_eq_neg_add, BitVec.not_eq_neg_add]
    ring
  rw [Pair.ok, Pair.add, compl_eq, hn, hs, beq_iff_eq]
  exact hadd

theorem allOk_two {p : Pair 96} (h : p.ok = true) : allOk p.two = true := by
  have hn : p.n = ~~~p.v := by simpa [Pair.ok] using h
  simp [allOk, Pair.two, Pair.ok, hn, BitVec.setWidth_not]

theorem checkWork_res_of_ok {s : State} {o : Nat} (h : (tget {} o s.met.pulse).res.ok = true) : checkWork s (.res o) = s := by
  have hok : allOk (workOf s (.res o)) = true := allOk_two h
  simp [checkWork, hok, workW2]

end Sys2Proof.Laws

open Sys2Proof Sys2Proof.Machine Sys2Proof.Laws

/-- Settles O25: the duality form by form, the comparison part by part (`lockstep_met`), the windows by `closeHalf_bus` and
`busAt_closeWindow`. -/
theorem lanesCompareAndWindowsClose : Obligations.LanesCompareAndWindowsClose := by
  refine ⟨fun a b c n df x => ⟨lAdd_compl a b, lSub_compl a b, lMul_compl a b, asr_compl a n, lNonneg_compl a, lAbs_compl a, lSat48_compl a,
    lRnd_compl a n, lInc_compl a df x, lLpf_compl a b n, lHpf_compl a b c, lRin_compl a b c n⟩, ⟨fun us s h => ?_, fun us s hon hrun hcmp => ?_⟩,
    fun b half s hb h => ?_, fun b pos s hb hon hdue => ?_, fun b pos s hb hon hdue => ?_⟩
  · simp only [exec, execLockstepCompare, lockstep]
    rcases h with h | h | h <;> simp [h]
    split <;> simp
  · obtain ⟨f, hf⟩ := Option.ne_none_iff_exists'.mp hrun
    have hx : exec (.lockstepCompare us) s = .next (lockstep s us) := by simp [exec, execLockstepCompare, hon]
    obtain ⟨hdone, hacc, hdis, hbad⟩ := lockstep_met us hf hcmp
    have hmm := lockstep_prolmm us hf hcmp
    refine ⟨_, hx, hdone, hacc, exec_within hx rfl, fun hmiss hprol => ?_, fun hprol => ?_, fun hprol hhold => ?_⟩
    · obtain ⟨hb, ht, ha⟩ := laneRetry_of_agreed (f := f) (laneMiss_eq_nil hmiss) hprol
      refine ⟨hdis.trans hb, hbad.trans (by simp [prolFails, hprol]), ?_, by simp [hmm, hprol]⟩
      rw [lockstep_eq us hf hcmp, retriesTold_of_none _ _ ht ha, (katAdvance_ls ..).1, pointsCompared_ls, prolCompared_ls, hprol]
      rfl
    · simp [hmm, hprol]
    · refine ⟨hbad.trans (by simp [prolFails, hprol, hhold]), fun p hp hdef hfault hdiff => ?_⟩
      rw [hdis]
      simp only [laneRetry, prolFails, hprol, hhold, Bool.and_self, if_true]
      refine List.mem_map.mpr ⟨p, ?_, rfl⟩
      simp [laneMiss, points, hp, hdef, hfault, hdiff]
  · rw [execRmsWindowClose_eq half s hb]
    rcases h with h | ⟨rfl, h⟩ | ⟨rfl, h⟩
    · simp [h]
    · simp [closeHalf_of_none h]
    · simp [closeWindow_of_none h]
  · have hx := execRmsWindowClose_eq true s hb
    simp only [hon, Bool.not_true, Bool.false_eq_true, if_false, if_true] at hx
    refine ⟨_, hx, ?_, fun k hk => busAt_closeHalf_ne s hk⟩
    rw [busAt, closeHalf_bus hdue, tget_tset_self]
    simp [halfClosed]
  · have hx := execRmsWindowClose_eq false s hb
    simp only [hon, Bool.not_true, Bool.false_eq_true, if_false] at hx
    obtain ⟨pl, v, ht⟩ := busAt_closeWindow hdue
    obtain ⟨d, p, q, n, hh⟩ := busAt_closeHalf_window s b
    refine ⟨_, hx, ?_⟩
    rw [ht, hh]
    simp only [departed, nextWindows, windowFreq]
    by_cases hv : v = (busAt s b).valid
    · simp only [if_pos hv]
      exact ⟨trivial, trivial, trivial, trivial, fun h => if_pos h, fun h => if_neg (by simp [h]), fun k hk => busAt_closeWindow_ne s hk⟩
    · simp only [if_neg hv]
      exact ⟨trivial, trivial, trivial, trivial, fun h => if_pos h, fun h => if_neg (by simp [h]), fun k hk => busAt_closeWindow_ne s hk⟩

/-- Settles O26: a pulse takes its quantum from both halves of its residue, which stay complements. -/
theorem pulsesStartAndEnd : Obligations.PulsesStartAndEnd := by
  refine ⟨fun o s ho hpt hsc hscf hact hq hok hf hret hserve hno hk => ?_, fun o s ho h => ?_, fun o s ho hact hend => ?_, fun o s ho h => ?_⟩
  · have hok' := pair_add_ok (-(2 ^ 48)) hok
    have hx : exec (.pulseStart o) s = .next (s.mapMet fun m => { m with pulse := tset o { tget {} o s.met.pulse with
        active := true, cnt := ((tget {} o s.met.pulse).cnt + 1) % 2 ^ 32, endAt := pulseAt s o + widthAp (s.plan.pulses.getD o {}).width,
        res := (tget {} o s.met.pulse).res.add (-(2 ^ 48)) (Machine.compl (-(2 ^ 48))) } m.pulse }) := by
      simp only [exec, execPulseStart]
      rw [if_neg (by simp [isOutput, ho]), if_pos
        ⟨hpt, by rw [hsc]; rfl, by rw [hscf]; rfl, by rw [hact]; rfl, hq, by rw [hf]; rfl, by rw [hret]; rfl, hserve, hno, hk⟩,
        checkWork_res_of_ok (by rw [mapMet_met, tget_tset_self]; exact hok')]
    refine ⟨_, hx, by simp, by simp, ?_, ?_, fun k hk' => by simp [tget_tset_ne _ _ hk']⟩
    · rw [mapMet_met, tget_tset_self, Pair.add, BitVec.ofInt_neg, ← BitVec.sub_eq_add_neg]
      rfl
    · rw [mapMet_met, tget_tset_self]
      exact hok'
  · simp only [exec, execPulseStart]
    rw [if_neg (by simp [isOutput, ho]), if_neg]
    rintro ⟨-, h1, -, h2, h3, -, -, h4, h5, h6⟩
    rcases h with h | h | h | h | h | h
    · omega
    · rw [h] at h2
      exact absurd h2 (by decide)
    · rw [h] at h1
      exact absurd h1 (by decide)
    · rw [h] at h4
      exact absurd h4 (by decide)
    · exact h h5
    · omega
  · have hx : exec (.pulseEnd o) s = .next (s.mapMet fun m => { m with
        pulse := tset o { tget {} o s.met.pulse with active := false, lastEnd := some (tget {} o s.met.pulse).endAt } m.pulse }) := by
      simp only [exec, execPulseEnd]
      rw [if_neg (by simp [isOutput, ho]), if_pos ⟨hact, hend⟩]
    exact ⟨_, hx, by simp, by simp, fun k hk => by simp [tget_tset_ne _ _ hk]⟩
  · simp only [exec, execPulseEnd]
    rw [if_neg (by simp [isOutput, ho]), if_neg]
    rintro ⟨h1, h2⟩
    rcases h with h | h
    · rw [h] at h1
      exact absurd h1 (by decide)
    · omega
end

section
/-! Band windows, aggregation intervals and live verification (07 R170 to R182). -/

namespace Sys2Proof.Laws

open Sys2Proof.Machine

theorem raiseAt_pq (s : State) (code chan : Nat) (v : Option Int) (f : Frame) : (raiseAt s code chan v f).pq = s.pq :=
  (show Only [.qu, .er, .hp] s (raiseAt s code chan v f) by simp) .pq rfl

theorem pqRaise_pq (s : State) (code chan : Nat) (v : Option Int) (f : Frame) : (pqRaise s code chan v f).pq = { s.pq with evt := true } := by
  rw [pqRaise, raiseAt_pq, mapPq_pq]

theorem pqRaise_irqsts (s : State) (code chan : Nat) (v : Option Int) (f : Frame) (i : Nat) (h : s.hp.irqsts.getLsbD i = true) :
    (pqRaise s code chan v f).hp.irqsts.getLsbD i = true :=
  raise_irqsts ((s.mapPq fun q => { q with evt := true }).mapTb fun t => { t with frame := f }) code chan v i h

/-! ## Bands -/

/-- What each step of a fold makes hold at its own key, and keeps at every key, holds at all of them after it. -/
theorem forEach_holds {α κ : Type} {f : State → α → State} {key : α → κ} {P : κ → State → Prop} (hown : ∀ s a, P (key a) (f s a))
    (hkeep : ∀ s a k, P k s → P k (f s a)) {l : List α} {a : α} (ha : a ∈ l) (s : State) : P (key a) (forEach l f s) := by
  have hall (l : List α) (k : κ) (s : State) (h : P k s) : P k (forEach l f s) := by
    induction l generalizing s with
    | nil => exact h
    | cons b l ih => exact ih (f s b) (hkeep s b k h)
  induction l generalizing s with
  | nil => simp at ha
  | cons b l ih =>
    rcases List.mem_cons.mp ha with rfl | ha
    · exact hall l _ _ (hown s a)
    · exact ih ha (f s b)

theorem bandStart_pq (s : State) : (bandStart s).pq.bandTicks = 0 ∧ (bandStart s).pq.bandHist = [] ∧
    (bandStart s).pq.bandDue = s.pq.bandDue ∧ (s.pq.banden = false → (bandStart s).pq.bcur = 0xFFFFFFFF) := by
  refine ⟨rfl, rfl, rfl, fun h => ?_⟩
  simp [bandStart, h]

/-- The channels of the band window that runs. -/
def bandChans (s : State) : List Nat := (chWord s.pq.bcur).filter fun c => c != 0xFF

/-- The channels of a band window that ends, handed to publication. -/
def bandsHandedOn (s : State) : State :=
  if bandChans s = [] then s
  else s.mapPq fun q =>
    { q with bandDue := some { chans := bandChans s, frame := s.tb.frame - 1, ticks := 1, hist := s.pq.bandHist } }

theorem bandsHandedOn_banden (s : State) : (bandsHandedOn s).pq.banden = s.pq.banden := by
  rw [bandsHandedOn]
  split <;> rfl

theorem execBandWindowEnd_of_due {s : State} (h : 3200 ≤ s.pq.bandTicks) : exec .bandWindowEnd s = .next (bandStart (bandsHandedOn s)) := by
  simp only [exec, execBandWindowEnd, if_neg (Nat.not_lt.mpr h), List.isEmpty_iff]
  rfl

/-- A channel's bands published, as those of `d`. -/
def bandShown (d : BandDue) (s : State) (c : Nat) : State :=
  let v := (List.range 35).map fun b => bandValue s s.plan c (tget [] c d.hist) s.fresh b
  (s.mapPq fun q => { q with harm := tmod {} c (fun h =>
    { h with bnd := v, b29 := min (isqrt ((v.map fun x => x * x).sum)) max32, bframe := d.frame, bvalid := true }) q.harm }).nextFresh

theorem bandShown_own (d : BandDue) (s : State) (c : Nat) : (tget {} c (bandShown d s c).pq.harm).bvalid = true ∧
    (tget {} c (bandShown d s c).pq.harm).bframe = d.frame ∧ (tget {} c (bandShown d s c).pq.harm).bnd.length = 35 := by
  simp [bandShown, State.nextFresh, State.mapPq, tmod]

theorem bandShown_ne (d : BandDue) (s : State) {c k : Nat} (h : k ≠ c) : tget {} k (bandShown d s c).pq.harm = tget {} k s.pq.harm := by
  simp [bandShown, State.nextFresh, State.mapPq, tmod, tget_tset_ne _ _ h]

theorem bandShown_due (d : BandDue) (s : State) (c : Nat) : (bandShown d s c).pq.bandDue = s.pq.bandDue := rfl

theorem execBandPublish_of_due {s : State} {d : BandDue} (hd : s.pq.bandDue = some d) (h : 1600 ≤ d.ticks) : exec .bandPublish s = .next
    (forEach (d.chans.filter fun c => (memberChs s.plan).contains c) (bandShown d) (s.mapPq fun q => { q with bandDue := none })) := by
  simp only [exec, execBandPublish, hd, if_neg (Nat.not_lt.mpr h)]
  rfl

/-! ## Aggregation -/

/-- The counts and numbers of the two intervals. -/
def intervals (s : State) : Nat × Nat × Nat × Nat := (s.pq.agg10m, s.pq.agg10s, s.pq.num10m, s.pq.num10s)

@[simp] theorem intervals_setPqBus (s : State) (b : Nat) (x : PqBus) : intervals (s.setPqBus b x) = intervals s := rfl

@[simp] theorem intervals_bumpHist (s : State) (b j i : Nat) : intervals (bumpHist s b j i) = intervals s := rfl

@[simp] theorem intervals_pqRaise (s : State) (code chan : Nat) (v : Option Int) (f : Frame) : intervals (pqRaise s code chan v f) = intervals s := by
  simp only [intervals, pqRaise_pq]

theorem pqBus_bumpHist_ne (s : State) {b k : Nat} (j i : Nat) (h : k ≠ b) : pqBus (bumpHist s b j i) k = pqBus s k := by simp [bumpHist, h]

@[simp] theorem pqBus_pqRaise (s : State) (code chan : Nat) (v : Option Int) (f : Frame) (k : Nat) :
    pqBus (pqRaise s code chan v f) k = pqBus s k := by
  rw [pqBus, pqRaise_pq, pqBus]

theorem tenMinute_keeps {γ : Type} (V : State → γ) (s : State) (pl : PlanDef) (b : Nat) (hbump : ∀ x j i, V (bumpHist x b j i) = V x)
    (hraise : ∀ x code chan v f, V (pqRaise x code chan v f) = V x) : V (tenMinute s pl b) = V s := by
  simp only [tenMinute]
  generalize hy : forEach (pqChans pl b _) _ s = y
  have hV : V y = V s := by
    subst hy
    refine forEach_keep V (fun x c => ?_) _ _
    repeat' split
    all_goals simp only [hraise, hbump]
  repeat' split
  all_goals simp only [hraise, hbump, hV]

theorem close10m_intervals (s : State) (b : Nat) (flagged : Bool) : intervals (close10m s b flagged) = intervals s := by
  simp only [close10m]
  split
  · rfl
  · rw [intervals_setPqBus]
    split
    · rfl
    · split
      · rfl
      · exact tenMinute_keeps intervals s s.plan b (fun _ _ _ => rfl) (by simp)

theorem close10m_ne (s : State) {b k : Nat} (flagged : Bool) (h : k ≠ b) : pqBus (close10m s b flagged) k = pqBus s k := by
  simp only [close10m]
  split
  · rfl
  · rw [pqBus_setPqBus, if_neg h]
    split
    · simp [h]
    · split
      · rfl
      · exact tenMinute_keeps (pqBus · k) s s.plan b (fun x j i => pqBus_bumpHist_ne x j i h) (by simp)

theorem close10m_own {s : State} {b : Nat} (flagged : Bool) (h : udinOf (pqBus s b) ≠ 0) :
    (pqBus (close10m s b flagged) b).aggN = 0 ∧ (pqBus (close10m s b flagged) b).aggV = [] := by
  simp only [close10m, if_neg h]
  rw [pqBus_setPqBus, if_pos rfl]
  exact ⟨rfl, rfl⟩

theorem close10s_intervals (s : State) (b : Nat) (flagged : Bool) : intervals (close10s s b flagged) = intervals s := by
  simp only [close10s]
  repeat' split
  all_goals rfl

theorem close10s_ne (s : State) {b k : Nat} (flagged : Bool) (h : k ≠ b) : pqBus (close10s s b flagged) k = pqBus s k := by
  simp only [close10s]
  repeat' split
  all_goals simp [h, pqBus_bumpHist_ne]

theorem close10s_own {s : State} {b : Nat} (flagged : Bool) (h : udinOf (pqBus s b) ≠ 0) :
    (pqBus (close10s s b flagged) b).cyc10s = 0 ∧ (pqBus (close10s s b flagged) b).first10s = none := by
  simp only [close10s, if_neg h]
  rw [pqBus_setPqBus, if_pos rfl]
  exact ⟨rfl, rfl⟩

/-- The interval that is due, closed bus by bus. -/
def intervalClosed (s : State) (tenMin : Bool) : State :=
  forEach buses (fun s b => if tenMin then close10m s b false else close10s s b false)
    (s.mapPq fun q => if tenMin then { q with agg10m := 0, num10m := s.rtc.lastValid / 600 }
      else { q with agg10s := 0, num10s := s.rtc.lastValid / 10 })

theorem execPqIntervalEnd_of_due {s : State} {tenMin : Bool} (h : pqIntervalDue s tenMin = true) :
    exec (.pqIntervalEnd tenMin) s = .next (intervalClosed s tenMin) := by
  simp only [exec, execPqIntervalEnd]
  rw [if_neg (by simp [h])]
  rfl

theorem intervalClosed_intervals (s : State) (tenMin : Bool) : intervals (intervalClosed s tenMin) =
    if tenMin then (0, s.pq.agg10s, s.rtc.lastValid / 600, s.pq.num10s) else (s.pq.agg10m, 0, s.pq.num10m, s.rtc.lastValid / 10) := by
  rw [intervalClosed, forEach_keep intervals (fun x b => by split; exacts [close10m_intervals .., close10s_intervals ..])]
  cases tenMin <;> rfl

/-- Each bus is closed as it stood. -/
theorem intervalClosed_view (s : State) (tenMin : Bool) {b : Nat} (hb : b < 8) : ∃ x, pqBus x b = pqBus s b ∧
    pqBus (intervalClosed s tenMin) b = pqBus (if tenMin then close10m x b false else close10s x b false) b := by
  obtain ⟨x, hx, hf⟩ := forEach_view (f := fun s b => if tenMin then close10m s b false else close10s s b false) (key := fun b : Nat => b)
    (V := fun k s => pqBus s k)
    (fun s a k (hk : k ≠ a) => by
      split
      exacts [close10m_ne s false hk, close10s_ne s false hk])
    (by rw [List.map_id']; exact List.nodup_range) (List.mem_range.mpr hb)
    (s.mapPq fun q => if tenMin then { q with agg10m := 0, num10m := s.rtc.lastValid / 600 }
      else { q with agg10s := 0, num10s := s.rtc.lastValid / 10 })
  exact ⟨x, hx.trans (by cases tenMin <;> rfl), hf⟩

/-! ## Live verification -/

/-- What the drift steps and the change mark leave of a window. -/
def liveCore (x : Live) : Bool × Nat × Nat × Int × Int × Nat × Frame × Bool × Int × Int :=
  (x.inval, x.ticks, x.ovl, x.gain, x.phs, x.win, x.frame, x.base, x.gbase, x.pbase)

@[simp] theorem liveAt_pqRaise (s : State) (code chan : Nat) (v : Option Int) (f : Frame) (k : Nat) :
    liveAt (pqRaise s code chan v f) k = liveAt s k := by
  rw [liveAt, pqRaise_pq, liveAt]

@[simp] theorem liveAt_endSample (s : State) (code chan : Nat) (v : Int) (k : Nat) : liveAt (endSample s code chan v) k = liveAt s k := by
  rw [liveAt, endSample_pq, liveAt]

theorem driftStep_core (s : State) (c : Nat) (phase : Bool) : liveCore (liveAt (driftStep s c phase) c) = liveCore (liveAt s c) := by
  simp only [driftStep]
  generalize hy : (if phase = true then _ else _ : Live) = y
  have hcore : liveCore y = liveCore (liveAt s c) := by
    subst hy
    split <;> rfl
  repeat' split
  all_goals simp [hcore]

/-- A noisy window as it ends. -/
def noisyEnd (x : Live) (f : Frame) : Live :=
  { x with ticks := 0, ovl := 0, frame := f, baseWait := false, inval := true, invRun := x.invRun + 1, gRun := 0, pRun := 0, gOk := 0, pOk := 0 }

/-- A quiet window as it ends, before its drifts are judged. -/
def quietEnd (x : Live) (f : Frame) (g p : Int) : Live :=
  let y := { x with
    ticks := 0, ovl := 0, frame := f, baseWait := false, gain := satS 32 g, phs := satS 32 p, win := satAdd x.win 1, inval := false, invRun := 0 }
  if !x.base ∧ !x.baseWait then { y with base := true, gbase := y.gain, pbase := y.phs } else y

/-- The drifts of a quiet window judged, its change of state marked. -/
def liveJudged (s : State) (ch : Nat) (x : Live) : State :=
  let s := if x.inval ∧ 0 < x.win then endSample s 0x8B ch (x.invRun : Nat) else s
  let s := if x.base then driftStep (driftStep s ch false) ch true else s
  s.setLive ch (liveChg x (liveAt s ch))

theorem liveJudged_core (s : State) (ch : Nat) (x : Live) : liveCore (liveAt (liveJudged s ch x) ch) = liveCore (liveAt s ch) := by
  simp only [liveJudged, liveAt_setLive, if_true]
  have hchg (y : Live) : liveCore (liveChg x y) = liveCore y := rfl
  rw [hchg]
  split
  · rw [driftStep_core, driftStep_core]
    split <;> simp
  · split <;> simp

theorem execLiveWindowEnd_noisy {s : State} {ch : Nat} (g p : Int) {noisy : Bool} (hch : ch < 160) (hrun : liveRuns s ch = true)
    (ht : 163840 ≤ (liveAt s ch).ticks) (h : (noisy || decide (1638 < (liveAt s ch).ovl)) = true) : exec (.liveWindowEnd ch g p noisy) s = .next
      (if 0 < (liveAt s ch).win ∧ !(liveAt s ch).inval then
        pqRaise (s.setLive ch (noisyEnd (liveAt s ch) (s.tb.frame - 1))) 0x8B ch none (s.tb.frame - 1)
      else s.setLive ch (noisyEnd (liveAt s ch) (s.tb.frame - 1))) := by
  simp only [exec, execLiveWindowEnd]
  rw [if_neg (by simp [isLiveChannel, hch]), if_neg (by simp [hrun, Nat.not_lt.mpr ht]), if_pos h]
  rfl

theorem execLiveWindowEnd_quiet {s : State} {ch : Nat} (g p : Int) {noisy : Bool} (hch : ch < 160) (hrun : liveRuns s ch = true)
    (ht : 163840 ≤ (liveAt s ch).ticks) (h : (noisy || decide (1638 < (liveAt s ch).ovl)) = false) : exec (.liveWindowEnd ch g p noisy) s = .next
      (liveJudged (s.setLive ch (quietEnd (liveAt s ch) (s.tb.frame - 1) g p)) ch (liveAt s ch)) := by
  simp only [exec, execLiveWindowEnd]
  rw [if_neg (by simp [isLiveChannel, hch]), if_neg (by simp [hrun, Nat.not_lt.mpr ht]), if_neg (by simp [h])]
  rfl

end Sys2Proof.Laws

open Sys2Proof Sys2Proof.Machine Sys2Proof.Laws

/-- Settles O27: the bands channel by channel (`bandShown`), the interval bus by bus (`intervalClosed_view`). -/
theorem bandWindowsAndAggregation : Obligations.BandWindowsAndAggregation := by
  refine ⟨⟨fun s h => ?_, fun s h => ?_, fun d s hd h => ?_, fun s h => ?_⟩, fun s h => ?_, fun s h => ?_, fun long s h => ?_, fun s h => ?_,
    fun s h => ?_, fun s h => ?_⟩
  · simp [exec, execBandWindowEnd, h]
  · have hx := execBandWindowEnd_of_due h
    obtain ⟨hticks, hhist, hdue, hcur⟩ := bandStart_pq (bandsHandedOn s)
    refine ⟨_, hx, hticks, hhist, exec_within hx rfl, fun (hne : bandChans s ≠ []) => ?_, fun (he : bandChans s = []) => ?_, fun hoff => hcur ((bandsHandedOn_banden s).trans hoff)⟩
    · rw [hdue, bandsHandedOn, if_neg hne]
      rfl
    · rw [hdue, bandsHandedOn, if_pos he]
  · have hx := execBandPublish_of_due hd h
    refine ⟨_, hx, ?_, exec_within hx rfl, fun c hc hm => ?_, fun c hc => ?_⟩
    · exact forEach_keep (fun x : State => x.pq.bandDue) (bandShown_due d) _ _
    · exact forEach_holds (key := fun c : Nat => c) (P := fun c x => (tget {} c x.pq.harm).bvalid = true ∧
        (tget {} c x.pq.harm).bframe = d.frame ∧ (tget {} c x.pq.harm).bnd.length = 35) (bandShown_own d) (fun s a k hk => by
          by_cases hka : k = a
          · rw [hka]
            exact bandShown_own d s a
          · rw [bandShown_ne d s hka]
            exact hk) (List.mem_filter.mpr ⟨hc, hm⟩) _
    · refine forEach_view_of_ne (key := fun c : Nat => c) (V := fun k x => tget {} k x.pq.harm) (fun s a k hk => bandShown_ne d s hk)
        (fun a ha he => ?_) _
      obtain ⟨hmem, hm⟩ := List.mem_filter.mp ha
      rw [← show c = a from he] at hmem hm
      rcases hc with hc | hc
      · exact hc hmem
      · rw [hc] at hm
        exact absurd hm (by decide)
  · simp only [exec, execBandPublish]
    rcases h with h | ⟨d, hd, h⟩
    · simp only [h]
    · simp only [hd, if_pos h]
  · have hx := execPqIntervalEnd_of_due h
    have hi := intervalClosed_intervals s true
    simp only [intervals, if_true, Prod.mk.injEq] at hi
    obtain ⟨h1, h2, h3, -⟩ := hi
    refine ⟨_, hx, h1, h2, h3, fun b hb hu => ?_, exec_within hx rfl⟩
    obtain ⟨x, hxb, hv⟩ := intervalClosed_view s true hb
    rw [hv, if_pos rfl]
    exact close10m_own false (by rw [hxb]; exact hu)
  · have hx := execPqIntervalEnd_of_due h
    have hi := intervalClosed_intervals s false
    simp only [intervals, Bool.false_eq_true, if_false, Prod.mk.injEq] at hi
    obtain ⟨h1, h2, -, h4⟩ := hi
    refine ⟨_, hx, h2, h1, h4, fun b hb hu => ?_, exec_within hx rfl⟩
    obtain ⟨x, hxb, hv⟩ := intervalClosed_view s false hb
    rw [hv, if_neg (by decide)]
    exact close10s_own false (by rw [hxb]; exact hu)
  · simp [exec, execPqIntervalEnd, h]
  · simp [pqIntervalDue, h]
  · simp [exec, execHclr, h, State.mapPq]
  · simp [exec, execHclr, h]

/-- Settles O28: the end of a window by its noise, the drifts leaving what it shows (`liveJudged_core`). -/
theorem liveWindowsEnd : Obligations.LiveWindowsEnd := by
  refine ⟨fun ch g p noisy s hch hrun ht => ⟨fun hn => ?_, fun hq ho => ?_⟩, fun ch g p noisy s hch h => ?_⟩
  · have hx := execLiveWindowEnd_noisy g p hch hrun ht (show (noisy || decide (1638 < (liveAt s ch).ovl)) = true by simpa using hn)
    refine ⟨_, hx, ?_⟩
    have hlive : liveAt (if 0 < (liveAt s ch).win ∧ !(liveAt s ch).inval then
        pqRaise (s.setLive ch (noisyEnd (liveAt s ch) (s.tb.frame - 1))) 0x8B ch none (s.tb.frame - 1)
      else s.setLive ch (noisyEnd (liveAt s ch) (s.tb.frame - 1))) ch = noisyEnd (liveAt s ch) (s.tb.frame - 1) := by
      split <;> simp
    rw [hlive]
    exact ⟨rfl, rfl, rfl, rfl, rfl, rfl, rfl, exec_within hx rfl⟩
  · have hx := execLiveWindowEnd_quiet g p hch hrun ht
      (show (noisy || decide (1638 < (liveAt s ch).ovl)) = false by simp [hq, Nat.not_lt.mpr ho])
    have hcore := liveJudged_core (s.setLive ch (quietEnd (liveAt s ch) (s.tb.frame - 1) g p)) ch (liveAt s ch)
    simp only [liveAt_setLive, if_true, liveCore, Prod.mk.injEq] at hcore
    obtain ⟨h1, h2, h3, h4, h5, h6, h7, h8, h9, h10⟩ := hcore
    refine ⟨_, hx, ?_⟩
    rw [h1, h2, h3, h4, h5, h6, h7, h8, h9, h10]
    have honly := exec_within (ps := [.pq, .er, .hp, .qu]) hx rfl
    by_cases hb : (!(liveAt s ch).base) = true ∧ (!(liveAt s ch).baseWait) = true
    · simp only [quietEnd, if_pos hb] at honly ⊢
      refine ⟨trivial, trivial, trivial, trivial, trivial, trivial, trivial, fun _ _ => ⟨trivial, trivial, trivial⟩, fun h => ?_, honly⟩
      exact absurd hb.1 (by simp [h])
    · simp only [quietEnd, if_neg hb] at honly ⊢
      refine ⟨trivial, trivial, trivial, trivial, trivial, trivial, trivial, fun h1 h2 => ?_, fun h => ⟨h, trivial, trivial⟩, honly⟩
      exact absurd ⟨by simp [h1], by simp [h2]⟩ hb
  · simp only [exec, execLiveWindowEnd]
    rw [if_neg (by simp [isLiveChannel, hch]), if_pos]
    rcases h with h | h <;> simp [h]

/-- Settles O29: each command of the sprint is one test and one move of its registers. -/
theorem sprintRuns : Obligations.SprintRuns := by
  refine ⟨fun req s hserve hcode => ?_, fun req s hserve hcode => ?_, fun s hst hab h => ?_, fun s h => ?_, fun s hserve hst => ?_, fun s h => ?_,
    fun s hserve h => ?_, fun s h => ?_, fun req e l s hserve hbuf => ?_, fun req s hserve hbuf => ?_, fun req s h => ?_⟩
  · simp [exec, execGo, hserve, sprintGo, hcode, State.mapPq]
  · simp only [exec, execGo, hserve, if_true, sprintGo]
    rfl
  · simp only [exec, execSprintStart]
    rw [if_pos]
    · rfl
    · rcases h with ⟨h0, h⟩ | ⟨h0, h⟩
      · simp [hst, hab, h0, h]
      · have hne : (sprintFrameOf s == 0) = false := beq_eq_false_iff_ne.mpr h0
        rw [hne]
        simp [hst, hab, h, State.fnum]
  · simp only [exec, execSprintStart]
    rw [if_neg]
    rcases h with h | h | ⟨h0, h⟩ | ⟨h0, h⟩
    · simp [h]
    · simp [h]
    · simp [h0, Nat.not_lt.mpr h]
    · have hne : (sprintFrameOf s == 0) = false := beq_eq_false_iff_ne.mpr h0
      rw [hne]
      simp [Nat.not_le.mpr h, State.fnum]
  · rcases hst with h | h <;> simp [exec, execAbort, hserve, sprintAbort, h, State.mapPq]
  · rcases h with h | h | h <;> simp [exec, execAbort, sprintAbort, h]
  · obtain ⟨tr, hx, htr⟩ : ∃ tr, exec .sprintEnd s = .next (endSprint s tr) ∧ tr = s.pq.abort := by
      rcases h with ⟨hab, hat, hst⟩ | ⟨hab, hst, hlen⟩
      · refine ⟨true, ?_, hab.symm⟩
        rcases hst with h | h <;> simp [exec, execSprintEnd, hserve, hab, hat, h]
      · refine ⟨false, ?_, hab.symm⟩
        simp [exec, execSprintEnd, hserve, hab, hst, hlen]
    subst htr
    refine ⟨_, hx, ?_, ?_, ?_, ?_, ?_, ?_, exec_within hx rfl⟩
    case refine_6 => exact pqRaise_irqsts _ _ _ _ _ _ (irq_set _ 7 (by omega))
    all_goals rw [endSprint, pqRaise_pq]
    · simp
    · rfl
    · rfl
    · rfl
    · rfl
  · simp only [exec, execSprintEnd]
    rcases h with h | h | h | ⟨h1, h2⟩
    · simp [h]
    · simp [h]
    · simp [h]
    · rw [if_neg, if_neg]
      · rcases h2 with h | h
        · simp [h]
        · simp [Nat.not_le.mpr h]
      · rcases h1 with h | h
        · simp [h]
        · simp [Nat.not_lt.mpr h]
  · have hx : exec (.sprd0 req) s = .next ((popSprint s).mapHp fun h => { h with data := entryWords (s.pq.buf.headD noEntry) }) := by
      simp [exec, execSprd0, hserve]
    refine ⟨_, hx, ?_, ?_, ?_, exec_within hx rfl⟩
    · simp [popSprint, hbuf]
    · simp [popSprint, hbuf, entryWords]
    · cases l <;> simp [popSprint, hbuf]
  · have hx : exec (.sprd0 req) s = .next ((popSprint s).mapHp fun h => { h with data := entryWords (s.pq.buf.headD noEntry) }) := by
      simp [exec, execSprd0, hserve]
    refine ⟨_, hx, ?_, ?_, exec_within hx rfl⟩
    · simp [popSprint, hbuf]
    · simp [popSprint, hbuf, entryWords, noEntry]
  · simp [exec, execGo, execSprd0, h]
end

section
/-! Writes of legal registers, their requests, and what the legal core makes of them (01 R17, R18; 16 R373, R399). -/

namespace Sys2Proof.Laws

open Sys2Proof.Machine

/-! ## A write -/

theorem noEff_eq (s : State) (req : Requester) : noEff s req = s.mapHp fun h => { h with noeff := h.noeff || decide (req = .host) } := by
  by_cases h : req = .host
  · simp [noEff, h]
  · simp [noEff, h, State.mapHp]

theorem postOne_of_not_serving {s : State} (req : Requester) (ws : List (Nat × Word)) (h : serving s = false) : postOne s req ws = .next s := by
  simp [postOne, h]

theorem postOne_of_open {s : State} {req : Requester} {ws : List (Nat × Word)} (hreq : req ≠ .legal) (hserve : serving s = true)
    (hopen : s.sealOpen = true) (hws : ws ≠ []) :
    postOne s req ws = .next { s with hp := { s.hp with rwl := s.hp.rwl ++ [{ req := req, words := ws }] } } := by
  simp [postOne, postRwl, hserve, hopen, hws, hreq, State.mapHp]

theorem postOne_of_shut {s : State} {ws : List (Nat × Word)} (req : Requester) (hserve : serving s = true) (hshut : s.sealOpen = false)
    (hws : ws ≠ []) : postOne s req ws = .next { s with hp := { s.hp with
      rwlcls := true, rwlr := min (s.hp.rwlr + 1) 0xFFFFFFFF, noeff := s.hp.noeff || decide (req = .host) } } := by
  simp [postOne, postRwl, hserve, hshut, hws, noEff_eq, State.mapHp, satAdd, max32]

theorem postOne_of_legal {s : State} {ws : List (Nat × Word)} (hserve : serving s = true) (hopen : s.sealOpen = true) (hws : ws ≠ [])
    (hok : rwlOk s ws = true) :
    postOne s .legal ws = .next { s with hp := { s.hp with rwlAcc := s.hp.rwlAcc ++ [{ req := .legal, words := ws }] } } := by
  simp [postOne, postRwl, hserve, hopen, hws, answerRwl, hok, State.mapHp]

theorem rwlOk_of_shut {s : State} (ws : List (Nat × Word)) (h : s.sealOpen = false ∨ s.sup.sealNow = true) : rwlOk s ws = false := by
  rcases h with h | h <;> simp [rwlOk, h]

/-- The words of a calibration write that name a coefficient. -/
def calWords (k : Nat) (v n : Word) : List (Nat × Word) :=
  [(0x300000 + k % 0x10000, v), (0x300000 + k % 0x10000 + 4, n)].filter fun e => (rwlReg e.1).isSome

theorem execCalibrationWrite_eq (req : Requester) (k : Nat) (v n : Word) (s : State) :
    exec (.calibrationWrite req k v n) s = postOne s req (calWords k v n) := rfl

theorem calWords_of_both {k : Nat} (v n : Word) (h : (rwlReg (0x300000 + k % 0x10000)).isSome = true)
    (h' : (rwlReg (0x300000 + k % 0x10000 + 4)).isSome = true) :
    calWords k v n = [(0x300000 + k % 0x10000, v), (0x300000 + k % 0x10000 + 4, n)] := by
  simp [calWords, h, h']

theorem calWords_ne_nil {k : Nat} (v n : Word) (h : (rwlReg (0x300000 + k % 0x10000)).isSome = true) : calWords k v n ≠ [] := by
  simp [calWords, h]

theorem calWords_of_none {k : Nat} (v n : Word) (h : rwlReg (0x300000 + k % 0x10000) = none)
    (h' : rwlReg (0x300000 + k % 0x10000 + 4) = none) : calWords k v n = [] := by
  simp [calWords, h, h']

/-! ## The refusal of requests -/

/-- What a refusal keeps, whatever its word. -/
theorem rwlRefuse_keeps (s : State) (a : Nat) (w : Word) : (rwlRefuse s a w).hp.rwl = s.hp.rwl ∧ (rwlRefuse s a w).hp.rwlAcc = s.hp.rwlAcc ∧
    (rwlRefuse s a w).hp.rwlref = s.hp.rwlref ∧ (s.ls.reinref = true → (rwlRefuse s a w).ls.reinref = true) ∧
    (s.met.calRef = true → (rwlRefuse s a w).met.calRef = true) := by
  simp only [rwlRefuse]
  repeat' split
  all_goals simp [reinRefuse, clrRefused, mdRefuse]

theorem rwlRefuse_own (s : State) (a : Nat) (w : Word) : (rwlReg a = some .rein → (rwlRefuse s a w).ls.reinref = true) ∧
    (rwlReg a = some .calctl → (rwlRefuse s a w).met.calRef = true) := by
  constructor <;> intro h <;> simp [rwlRefuse, h, reinRefuse]

theorem refuseRwl_keeps (s : State) (r : RwlReq) : (refuseRwl s r).hp.rwl = s.hp.rwl ∧ (refuseRwl s r).hp.rwlAcc = s.hp.rwlAcc ∧
    (refuseRwl s r).hp.rwlref = true := by
  have h := forEach_keep (fun x : State => (x.hp.rwl, x.hp.rwlAcc)) (f := fun s (e : Nat × Word) => rwlRefuse s e.1 e.2)
    (fun x e => by rw [(rwlRefuse_keeps x e.1 e.2).1, (rwlRefuse_keeps x e.1 e.2).2.1]) r.words s
  exact ⟨congrArg Prod.fst h, congrArg Prod.snd h, rfl⟩

/-- A refused request shows at the registers of its words. -/
theorem refuseRwl_marks (s : State) (r : RwlReq) {e : Nat × Word} (he : e ∈ r.words) :
    (rwlReg e.1 = some .rein → (refuseRwl s r).ls.reinref = true) ∧ (rwlReg e.1 = some .calctl → (refuseRwl s r).met.calRef = true) := by
  have h := forEach_holds (f := fun s (e : Nat × Word) => rwlRefuse s e.1 e.2) (key := fun e => e.1)
    (P := fun a x => (rwlReg a = some .rein → x.ls.reinref = true) ∧ (rwlReg a = some .calctl → x.met.calRef = true))
    (fun s e => rwlRefuse_own s e.1 e.2)
    (fun s e a h => ⟨fun ha => (rwlRefuse_keeps s e.1 e.2).2.2.2.1 (h.1 ha), fun ha => (rwlRefuse_keeps s e.1 e.2).2.2.2.2 (h.2 ha)⟩) he s
  exact h

/-- The accepted requests, refused at the close of the seal. -/
theorem dropRwl_acc (s : State) : (dropRwl s).hp.rwlAcc = [] ∧ (s.hp.rwlAcc ≠ [] → (dropRwl s).hp.rwlref = true) := by
  constructor
  · exact forEach_keep (fun x : State => x.hp.rwlAcc) (fun x r => (refuseRwl_keeps x r).2.1) _ _
  · intro h
    obtain ⟨r, hr⟩ := List.exists_mem_of_ne_nil _ h
    exact forEach_holds (key := fun _ : RwlReq => ()) (P := fun _ x => x.hp.rwlref = true) (fun x r => (refuseRwl_keeps x r).2.2)
      (fun x r _ _ => (refuseRwl_keeps x r).2.2) hr _

@[simp] theorem slateEvent_rwlAcc (s : State) (code chan : Nat) (v : Option Int) : (slateEvent s code chan v).hp.rwlAcc = s.hp.rwlAcc := by
  rw [slateEvent]
  split <;> simp

@[simp] theorem dropModeReq_rwlAcc (s : State) : (dropModeReq s).hp.rwlAcc = s.hp.rwlAcc := by
  rw [dropModeReq]
  split <;> simp [mdRefuse]

theorem sealCloses_acc (s : State) : (sealCloses s).hp.rwlAcc = [] ∧ (s.hp.rwlAcc ≠ [] → (sealCloses s).hp.rwlref = true) := by
  simp only [sealCloses]
  generalize hx : dropModeReq _ = x
  have hacc : x.hp.rwlAcc = s.hp.rwlAcc := by
    subst hx
    simp [privDue]
  rw [← hacc]
  exact dropRwl_acc x

/-! ## The answer, and the accepted requests at the tick -/

theorem execRwlRequestAnswer_eq {r : RwlReq} {rest : List RwlReq} {s : State} (hr : s.hp.rwl = r :: rest) (hserve : serving s = true)
    (hkat : katBusy s = false ∨ ∀ e, e ∈ r.words → rwlReg e.1 ≠ some .rein) :
    exec .rwlRequestAnswer s = .next (answerRwl (s.mapHp fun h => { h with rwl := rest }) r) := by
  simp only [exec, execRwlRequestAnswer, hr]
  rw [if_neg]
  rcases hkat with h | h
  · simp [hserve, h]
  · have hany : (r.words.any fun e => rwlReg e.1 == some .rein) = false := by simpa using h
    rw [hany]
    simp [hserve]

theorem applyRwl_of_one {s : State} {req : Requester} {a : Nat} {w : Word} (h : s.hp.rwlAcc = [{ req := req, words := [(a, w)] }]) :
    applyRwl s = rwlApply (s.mapHp fun h => { h with rwlAcc := [] }) a w := by
  simp [applyRwl, h, forEach]

theorem rwlApply_mdctl (s : State) (w : Word) : rwlApply s 0x260004 w = mdApply s (w &&& 0x13) := rfl

theorem rwlApply_calctl (s : State) (w : Word) : rwlApply s 0x300000 w = calCtl s w := rfl

theorem rwlApply_rein (s : State) (w : Word) : rwlApply s 0xB0024 w = reinApply s w := rfl

theorem rwlApply_tpclr (s : State) (w : Word) : rwlApply s 0x210020 w = clrApply s w := rfl

theorem reserve_pres (s : State) (n : Nat) : (reserve s n).er.pres = s.er.pres + n := by
  simp only [reserve, fullIrq]
  split <;> simp

theorem reserve_tp (s : State) (n : Nat) : (reserve s n).tp = s.tp := (show Only [.er, .hp] s (reserve s n) by simp) .tp rfl

theorem reserve_nv (s : State) (n : Nat) : (reserve s n).nv = s.nv := (show Only [.er, .hp] s (reserve s n) by simp) .nv rfl

end Sys2Proof.Laws

open Sys2Proof Sys2Proof.Machine Sys2Proof.Laws

/-- Settles O30: every command posts its words by the same three rules (`postOne_of_open`, `postOne_of_shut`, `postOne_of_legal`). -/
theorem legalWritesNeedTheSeal : Obligations.LegalWritesNeedTheSeal := by
  refine ⟨⟨fun req w v n k s hreq hserve hopen => ?_, fun req w v n k s hserve hshut => ?_, fun w v n k s hserve hopen => ?_,
    fun req w v n k s => ⟨fun hserve => ?_, fun h h' => ?_⟩⟩, fun s ws h => rwlOk_of_shut ws h, fun s hdeb hst => ?_⟩
  · have hsent {ws : List (Nat × Word)} (hws : ws ≠ []) := postOne_of_open hreq hserve hopen hws
    refine ⟨hsent (by simp), hsent (by simp), hsent (by simp), hsent (by simp), hsent (by simp), hsent (by simp), hsent (by simp), hsent (by simp),
      hsent (by simp), fun h h' => ?_⟩
    rw [execCalibrationWrite_eq, calWords_of_both v n h h']
    exact hsent (by simp)
  · have hsent {ws : List (Nat × Word)} (hws : ws ≠ []) := postOne_of_shut req hserve hshut hws
    exact ⟨hsent (by simp), hsent (by simp), hsent (by simp), hsent (by simp), hsent (by simp), hsent (by simp), hsent (by simp), hsent (by simp),
      hsent (by simp), fun h => hsent (calWords_ne_nil v n h)⟩
  · have hsent {ws : List (Nat × Word)} (hws : ws ≠ []) := postOne_of_legal hserve hopen hws
    refine ⟨hsent (by simp), hsent (by simp), hsent (by simp), hsent (by simp), hsent (by simp), hsent (by simp), hsent (by simp), hsent (by simp),
      hsent (by simp), fun h h' hok => ?_⟩
    rw [execCalibrationWrite_eq, calWords_of_both v n h h']
    exact hsent (by simp) hok
  · have hno (ws : List (Nat × Word)) := postOne_of_not_serving req ws hserve
    exact ⟨hno _, hno _, hno _, hno _, hno _, hno _, hno _, hno _, hno _, hno _⟩
  · rw [execCalibrationWrite_eq, calWords_of_none v n h h']
    simp [postOne, postRwl]
  · have hx : exec .sealDebounceComplete s = .next (sealCloses (s.mapTp fun t => { t with deb := none, pin := false })) := by
      simp [exec, execSealDebounceComplete, hdeb, hst]
    exact ⟨_, hx, sealCloses_acc _⟩

/-- Settles O31: an answer accepts or refuses whole (`refuseRwl_marks`); at the tick each register takes its word. -/
theorem legalRequestsAreAnswered : Obligations.LegalRequestsAreAnswered := by
  refine ⟨fun r rest s hr hserve hkat => ?_, fun s h => ?_, fun r rest s hr hbusy hrein => ?_, fun req w s =>
    ⟨fun hacc => ?_, fun hacc => ?_, fun hacc => ?_, fun hgo hacc => ?_, fun hgo hacc => ?_⟩⟩
  · have hx := execRwlRequestAnswer_eq hr hserve hkat
    refine ⟨fun hok => ?_, fun hno => ?_⟩
    · rw [hx, answerRwl]
      exact congrArg Host.Outcome.next (if_pos hok)
    · rw [answerRwl, if_neg (by rw [show rwlOk (s.mapHp fun h => { h with rwl := rest }) r.words = false from hno]; simp)] at hx
      obtain ⟨h1, h2, h3⟩ := refuseRwl_keeps (s.mapHp fun h => { h with rwl := rest }) r
      exact ⟨_, hx, h1, h2, h3, fun e he => refuseRwl_marks _ r he⟩
  · simp only [exec, execRwlRequestAnswer]
    rcases h with h | h
    · split <;> simp [h]
    · simp [h]
  · obtain ⟨e, he, hreg⟩ := hrein
    simp only [exec, execRwlRequestAnswer, hr]
    rw [if_pos]
    have hany : (r.words.any fun e => rwlReg e.1 == some .rein) = true := List.any_eq_true.mpr ⟨e, he, by simp [hreg]⟩
    simp [hbusy, hany]
  · rw [applyRwl_of_one hacc, rwlApply_mdctl]
    refine ⟨?_, ?_, ?_, ?_⟩
    · rintro rfl
      rfl
    · rintro rfl
      rfl
    · rintro rfl hst
      simp [mdApply, mdRecov, mdReq, wbit, wbits, bits, hst]
    · rintro rfl hno
      simp [mdApply, mdRecov, wbit, orderReset, hno]
  · rw [applyRwl_of_one hacc, rwlApply_calctl]
    simp [calCtl, wbit, pendDec, reserve_tp, reserve_pres]
  · rw [applyRwl_of_one hacc, rwlApply_calctl]
    simp [calCtl, wbit]
  · rw [applyRwl_of_one hacc, rwlApply_rein, reinApply, if_pos (show reinGo w = true from hgo)]
    exact ⟨rfl, reserve_pres ..⟩
  · rw [applyRwl_of_one hacc, rwlApply_tpclr, clrApply, if_pos (show wbit w 31 = true from hgo)]
    refine ⟨?_, reserve_pres ..⟩
    rw [pendDec, mapTp_tp, reserve_tp, show wbits w 15 0 = w.toNat % 2 ^ 16 by simp [wbits, bits]]
    rfl
end

section
/-! Checks of pairs and groups (08 R203, R207), known-answer tests and injections (08 R197, R208, R209). -/

namespace Sys2Proof.Laws

open Sys2Proof.Machine

/-! ## What a check keeps -/

/-- What of lockstep and storage the checks of groups leave alone. -/
def scrubLs (l : Integrity) : Nat × Nat × Nat × Nat × Nat × Bool := (l.scrubTicks, l.scrub, l.passes, l.passWait, l.pairerr, l.rdpair)

/-- A state reached from another by the checks of pairs and groups: events may have been taken in. -/
def Checked (s t : State) : Prop := Intake s t ∧ scrubLs t.ls = scrubLs s.ls

theorem checked_refl (s : State) : Checked s s := ⟨intake_refl s, rfl⟩

theorem checked_trans {s x t : State} (h : Checked s x) (k : Checked x t) : Checked s t := ⟨intake_trans h.1 k.1, k.2.trans h.2⟩

theorem checked_of_eq {s t : State} (hp : t.hp = s.hp) (her : t.er = s.er) (hls : t.ls = s.ls) : Checked s t :=
  ⟨intake_of_eq hp her, by rw [hls]⟩

theorem checked_raise (s : State) (code chan : Nat) (v : Option Int) : Checked s (raise s code chan v) :=
  ⟨raise_intake .., by rw [raise_ls]⟩

theorem checked_endSample (s : State) (code chan : Nat) (v : Int) : Checked s (endSample s code chan v) :=
  ⟨endSample_intake .., by rw [endSample_ls]⟩

theorem checked_forEach {α : Type} {f : State → α → State} (h : ∀ x a, Checked x (f x a)) (l : List α) (s : State) : Checked s (forEach l f s) := by
  induction l generalizing s with
  | nil => exact checked_refl s
  | cons a l ih => exact checked_trans (h s a) (ih (f s a))

theorem checked_closeShort (flag bin : Nat) (next : Bool) (s : State) (p : Nat) : Checked s (closeShort flag bin next s p) := by
  simp only [closeShort]
  split
  · exact checked_refl s
  · have h (x : State) (hx : x.hp = s.hp) (he : x.er = s.er) (hl : x.ls = s.ls) : Checked s (raise x 0xA3 p (some (bin : Nat))) :=
      checked_trans (checked_of_eq hx he hl) (checked_raise ..)
    split
    · refine checked_trans (h ((s.addFin (.iv (ivRecord s p (ivAt s p) true (s.stamp (ivFlags s p { ivAt s p with short := true } + flag))))).setIv p
        { ivAt s p with isOpen := false, subs := [] }) rfl rfl rfl) ?_
      exact checked_of_eq rfl rfl rfl
    · exact h _ rfl rfl rfl

theorem checked_shortClose (flag bin : Nat) (next : Bool) (s : State) (p : Nat) : Checked s (shortClose flag bin next s p) := by
  simp only [shortClose]
  split
  · exact checked_refl s
  · split
    · exact checked_of_eq rfl rfl rfl
    · split
      · split
        · exact checked_refl s
        · exact checked_of_eq rfl rfl rfl
      · exact checked_closeShort ..

theorem checked_updMd (c : IvClose) (s : State) (m d : Nat) : Checked s (updMd c s m d) := by
  simp only [updMd]
  split
  · refine checked_trans ?_ (checked_raise ..)
    exact checked_of_eq rfl rfl rfl
  · exact checked_refl s

theorem checked_finIv (s : State) (c : IvClose) : Checked s (finIv s c) := by
  simp only [finIv]
  split
  · exact checked_of_eq rfl rfl rfl
  · refine checked_trans ?_ (checked_updMd ..)
    refine checked_trans ?_ (checked_updMd ..)
    refine checked_trans ?_ (checked_updMd ..)
    refine checked_trans ?_ (checked_updMd ..)
    exact checked_of_eq rfl rfl rfl

theorem checked_closeNow (flag bin : Nat) (s : State) (p : Nat) : Checked s (closeNow flag bin s p) := by
  simp only [closeNow]
  split
  · refine checked_trans (checked_shortClose flag bin false s p) ?_
    refine checked_trans ?_ (checked_finIv ..)
    exact checked_of_eq rfl rfl rfl
  · exact checked_shortClose flag bin false s p

theorem checked_faultEntry (s : State) (p cause : Nat) (f : Frame) : Checked s (faultEntry s p cause f) := by
  simp only [faultEntry]
  split
  · exact checked_refl s
  · refine checked_trans ?_ (checked_raise ..)
    split
    · exact checked_trans (checked_closeNow fFAULT 5 s p) ⟨intake_of_eq rfl rfl, rfl⟩
    · exact ⟨intake_of_eq rfl rfl, rfl⟩

theorem checked_storageFault (s : State) (p : Nat) : Checked s (storageFault s p) := by
  rw [storageFault]
  split
  · exact checked_refl s
  · exact checked_trans (checked_faultEntry ..) ⟨intake_of_eq rfl rfl, rfl⟩

theorem checked_noteRepair (s : State) (chan : Nat) : Checked s (noteRepair s chan) :=
  checked_trans ⟨intake_of_eq rfl rfl, rfl⟩ (checked_raise ..)

theorem checked_noteLost (s : State) (c : Crit) (slots : Nat) : Checked s (noteLost s c slots) := by
  rw [noteLost]
  refine checked_trans ?_ (checked_forEach checked_storageFault ..)
  have h : Checked s (raise (s.mapLs fun l => { l with mrlost := satAdd l.mrlost 1, lost := true }) 0x74
      (critChan (s.mapLs fun l => { l with mrlost := satAdd l.mrlost 1, lost := true }) c) (some (slots : Nat))) :=
    checked_trans ⟨intake_of_eq rfl rfl, rfl⟩ (checked_raise ..)
  split
  · exact checked_trans h (checked_of_eq rfl rfl rfl)
  · exact h

theorem checked_checkGroup (s : State) (c : Crit) : Checked s (checkGroup s c).1 := by
  simp only [checkGroup]
  split
  · exact checked_refl s
  · have h (x : State) (hx : Checked s x) (b : Bool) (n : Nat) : Checked s (if b then noteRepair x n else x) := by
      split
      · exact checked_trans hx (checked_noteRepair ..)
      · exact hx
    refine h _ ?_ _ _
    repeat' split
    all_goals exact ⟨intake_of_eq rfl rfl, rfl⟩
  · exact checked_noteLost ..

theorem checked_putWork (s : State) (c : Crit) (l : List (Pair 64)) : Checked s (putWork s c l) := by
  cases c <;> exact ⟨intake_of_eq rfl rfl, rfl⟩

theorem checked_fetchWork (s : State) (c : Crit) : Checked s (fetchWork s c) := by
  simp only [fetchWork]
  refine checked_trans (checked_checkGroup s c) ?_
  split
  · exact checked_trans (checked_putWork ..) (checked_noteRepair ..)
  · exact checked_refl _
  · split
    · exact checked_raise ..
    · exact checked_forEach checked_storageFault ..

theorem checked_checkWork (s : State) (c : Crit) : Checked s (checkWork s c) := by
  have hmend (x : State) : Checked x (mendCal x) := by
    rw [mendCal]
    split
    · exact checked_refl x
    · refine checked_trans ?_ (checked_noteRepair ..)
      exact checked_of_eq rfl rfl rfl
  have hput (l : List (Pair 64)) : Checked s (noteRepair (putWork s c l) (critChan s c)) :=
    checked_trans (checked_putWork ..) (checked_noteRepair ..)
  rw [checkWork]
  split
  · rw [sealCheck]
    split
    · exact checked_refl s
    · refine checked_trans ?_ (checked_raise ..)
      exact checked_of_eq rfl rfl rfl
  · dsimp only
    have hmid (x : State) (hx : Checked s x) : Checked s (if c = .cal then mendCal x else x) := by
      split
      · exact checked_trans hx (hmend x)
      · exact hx
    apply hmid
    repeat' split
    · exact checked_refl s
    · exact checked_fetchWork ..
    · exact checked_refl s
    · exact hput _
    · exact hput _
    · exact checked_fetchWork ..

theorem checked_transferFailed (s : State) (c : Crit) (path : Nat) : Checked s (transferFailed s c path) := by
  rw [transferFailed]
  split
  · refine checked_trans ?_ (checked_raise ..)
    exact ⟨intake_of_eq rfl rfl, rfl⟩
  · exact checked_checkWork ..

theorem checked_data {s t : State} (h : Checked s t) : t.hp.data = s.hp.data := by
  have hdata := congrArg Port.data h.1.1
  exact hdata

/-! ## A read of a pair, a slot of the scrub -/

theorem execPairRead_eq {a n : Nat} {s : State} (req : Requester) (ha : pairLen a = some n) (hserve : serving s = true) :
    exec (.pairRead req a) s = .next (checkPair req (s.mapHp fun h => { h with data := readWords s req a (n / 4) }) (a, n)) := by
  simp only [exec, execPairRead, ha, hserve, if_true]

theorem pairFailed_marks (path : Nat) (s : State) (c : Option Crit) : (pairFailed path s c).ls.rdpair = true ∧
    (pairFailed path s c).ls.pairerr = satAdd s.ls.pairerr 1 ∧ (pairFailed path s c).hp.data = s.hp.data := by
  simp only [pairFailed]
  generalize hx : (s.mapLs fun l => { l with pairerr := satAdd l.pairerr 1, rdpair := true, pairRun := l.pairRun + 1 }) = x
  have hend (y : State) (hy : Checked x y) : y.ls.rdpair = true ∧ y.ls.pairerr = satAdd s.ls.pairerr 1 ∧ y.hp.data = s.hp.data := by
    have hls := hy.2
    simp only [scrubLs, Prod.mk.injEq] at hls
    obtain ⟨-, -, -, -, herr, hrd⟩ := hls
    rw [hrd, herr, checked_data hy, ← hx]
    exact ⟨rfl, rfl, rfl⟩
  have hfirst : Checked x (if s.ls.pairRun == 0 then raise x 0x76 ((c.map (critChan x)).getD 0xFF) none else x) := by
    split
    · exact checked_raise ..
    · exact checked_refl x
  cases c with
  | none => exact hend _ (checked_trans hfirst (checked_raise ..))
  | some c => exact hend _ (checked_trans hfirst (checked_transferFailed ..))

/-- The check of a slot, before the scrub goes on. -/
def slotRead (s : State) : State :=
  let n := s.ls.scrub
  let x := s.mapLs fun l => { l with scrubTicks := 0, passWait := if n = 0 then scrubPeriod else l.passWait }
  (critAt n).elim x fun c => if s.sup.commit = .none then (checkGroup x c).1 else x

theorem execScrubSlot_eq {s : State} (ht : 64 ≤ s.ls.scrubTicks) (hw : s.ls.scrub ≠ 0 ∨ s.ls.passWait = 0) (hserve : serving s = true)
    (hrest : s.sup.restored = false) : exec .scrubSlot s = .next ((slotRead s).mapLs fun l =>
      if legalSlots ≤ s.ls.scrub + 1 then { l with scrub := 0, passes := (l.passes + 1) % 256, passRep := 0 }
      else { l with scrub := s.ls.scrub + 1 }) := by
  simp only [exec, execScrubSlot]
  rw [if_neg (by simp [hserve, hrest, Nat.not_lt.mpr ht]; omega)]
  simp only [slotRead]
  cases critAt s.ls.scrub <;> rfl

theorem slotRead_ls (s : State) : (slotRead s).ls.scrubTicks = 0 ∧ (slotRead s).ls.passes = s.ls.passes ∧
    (slotRead s).ls.passWait = if s.ls.scrub = 0 then scrubPeriod else s.ls.passWait := by
  have hend (x y : State) (h : Checked x y) (ht : x.ls.scrubTicks = 0) (hp : x.ls.passes = s.ls.passes)
      (hw : x.ls.passWait = if s.ls.scrub = 0 then scrubPeriod else s.ls.passWait) :
      y.ls.scrubTicks = 0 ∧ y.ls.passes = s.ls.passes ∧ y.ls.passWait = if s.ls.scrub = 0 then scrubPeriod else s.ls.passWait := by
    have hls := h.2
    simp only [scrubLs, Prod.mk.injEq] at hls
    obtain ⟨h1, -, h3, h4, -, -⟩ := hls
    exact ⟨h1.trans ht, h3.trans hp, h4.trans hw⟩
  rw [slotRead]
  cases critAt s.ls.scrub with
  | none => exact hend _ _ (checked_refl _) rfl rfl rfl
  | some c =>
    dsimp only [Option.elim]
    split
    · exact hend _ _ (checked_checkGroup _ c) rfl rfl rfl
    · exact hend _ _ (checked_refl _) rfl rfl rfl

theorem slotRead_only {s : State} (h : critAt s.ls.scrub = none ∨ s.sup.commit ≠ .none) : Only [.ls] s (slotRead s) := by
  rw [slotRead]
  rcases h with h | h
  · simp [h]
  · cases critAt s.ls.scrub <;> simp [h]

/-! ## Known-answer tests -/

theorem execKnownAnswerTestDone_eq {w : Word} {s : State} (a b : Bool) (hw : s.ls.katReq = some w) (hn : 64 ≤ s.ls.katChunks)
    (hserve : serving s = true) : exec (.knownAnswerTestDone a b) s = .next
      (if a || b then reinRefuse (release (katResult (s.mapLs fun l => { l with katReq := none, katLive := false, katChunks := 0 }) a b) 3)
        else pendDec (katResult (s.mapLs fun l => { l with katReq := none, katLive := false, katChunks := 0 }) a b) (.reinstate w)
          (s.sealOpen && !s.tp.locked &&
            (katResult (s.mapLs fun l => { l with katReq := none, katLive := false, katChunks := 0 }) a b).ls.katok)) := by
  have hseal : (katResult (s.mapLs fun l => { l with katReq := none, katLive := false, katChunks := 0 }) a b).tp = s.tp :=
    (show Only [.qu, .ls, .er, .hp] s _ by simp) .tp rfl
  simp only [exec, execKnownAnswerTestDone, hw]
  rw [if_neg (by simp [hserve, Nat.not_lt.mpr hn]), State.sealOpen, hseal, ← State.sealOpen]
  split <;> rfl

theorem katResult_of_pass (s : State) : katResult s false false = s.mapLs fun l => { l with katok := true } := by simp [katResult]

theorem katResult_of_fail {s : State} {a b : Bool} (h : (a || b) = true) : (katResult s a b).ls = { s.ls with katok := false } ∧
    (katResult s a b).er.pres = s.er.pres := by
  have hok : (!a && !b) = false := by cases a <;> cases b <;> simp_all
  rw [katResult, if_pos h, hok]
  refine ⟨by simp, ?_⟩
  have hin := congrArg Recorder.pres (raise_intake (s.mapLs fun l => { l with katok := false }) 0x78 0xFF
    (some (if a && b then 3 else if a then 1 else 2))).2.1
  exact hin

theorem execLsinj_eq {s : State} (w : Word) (h : serving s = true) : exec (.lsinj w) s = .next (writeLsinj s w) := by
  simp [exec, execLsinj, h]

end Sys2Proof.Laws

open Sys2Proof Sys2Proof.Machine Sys2Proof.Laws

/-- Settles O32: checks keep what the read and the scrub show (`Checked`). -/
theorem pairsAreCheckedAndScrubbed : Obligations.PairsAreCheckedAndScrubbed := by
  refine ⟨⟨fun req a n s ha hserve => ⟨fun hok hrun => ?_, fun hbad => ?_⟩, fun req a s h => ?_⟩, fun s ht hw hserve hrest => ?_, fun s h => ?_⟩
  · rw [execPairRead_eq req ha hserve, checkPair, checkPairOn]
    refine congrArg Host.Outcome.next ((if_pos hok).trans ?_)
    exact if_pos hrun
  · have hx := execPairRead_eq req ha hserve
    rw [checkPair, checkPairOn, if_neg (show ¬ pairOk (s.mapHp fun h => { h with data := readWords s req a (n / 4) }) req a n = true from
      fun h => absurd (h.symm.trans hbad) (by decide))] at hx
    obtain ⟨h1, h2, h3⟩ := pairFailed_marks (if req = .app ∧ carmine a then pathMailbox else pathOther)
      (s.mapHp fun h => { h with data := readWords s req a (n / 4) }) (pairCrit (s.mapHp fun h => { h with data := readWords s req a (n / 4) }) a)
    exact ⟨_, hx, h1, h2, h3⟩
  · simp only [exec, execPairRead]
    rcases h with h | h
    · simp only [h]
    · split <;> simp [h]
  · have hx := execScrubSlot_eq ht hw hserve hrest
    obtain ⟨h1, h2, h3⟩ := slotRead_ls s
    refine ⟨_, hx, ?_, fun hlt => ?_, fun hle => ?_, fun h0 => ?_, fun hnone => ?_⟩
    · rw [mapLs_ls]
      split <;> exact h1
    · rw [mapLs_ls, if_neg (Nat.not_le.mpr hlt)]
      exact ⟨rfl, h2⟩
    · rw [mapLs_ls, if_pos hle]
      exact ⟨rfl, by rw [h2], rfl⟩
    · rw [mapLs_ls]
      split <;> exact h3.trans (if_pos h0)
    · refine only_trans (slotRead_only hnone) ?_
      simp
  · simp only [exec, execScrubSlot]
    rw [if_pos]
    rcases h with h | h | h | h <;> simp [h]

/-- Settles O33: the test ends in a refusal or in a decision, the injection is due, refused or kept. -/
theorem knownAnswerTestsAndInjections : Obligations.KnownAnswerTestsAndInjections := by
  refine ⟨fun a b w s hw hn hserve => ⟨fun hfail => ?_, fun ha hb => ?_⟩, fun a b s h => ?_, fun w s hserve hgo => ?_, fun w s hserve hgo hok => ?_,
    fun w s hserve hgo hno => ?_, fun w s h => ?_⟩
  · have hab : (a || b) = true := by simpa using hfail
    have hx := execKnownAnswerTestDone_eq a b hw hn hserve
    rw [if_pos hab] at hx
    obtain ⟨hls, hpres⟩ := katResult_of_fail (s := s.mapLs fun l => { l with katReq := none, katLive := false, katChunks := 0 }) hab
    have honly : Only [.ls, .er, .hp, .qu] s (reinRefuse (release (katResult (s.mapLs fun l =>
      { l with katReq := none, katLive := false, katChunks := 0 }) a b) 3)) := by simp [reinRefuse, release]
    refine ⟨_, hx, ?_, rfl, ?_, ?_, honly .tp rfl, honly⟩
    · simp only [reinRefuse, release, mapLs_ls, mapEr_ls, hls]
    · simp only [reinRefuse, release, mapLs_ls, mapEr_ls, hls]
    · simp only [reinRefuse, release, mapLs_er, mapEr_er, hpres]
  · subst ha hb
    have hx := execKnownAnswerTestDone_eq false false hw hn hserve
    rw [if_neg (by simp), katResult_of_pass] at hx
    exact ⟨_, hx, rfl, rfl, by simp [pendDec], by simp⟩
  · simp only [exec, execKnownAnswerTestDone]
    rcases h with h | h | h
    · simp only [h]
    · split <;> simp [h]
    · split <;> simp [h]
  · rw [execLsinj_eq w hserve, writeLsinj]
    simp only [wbit, hgo]
    rfl
  · have hx := execLsinj_eq w hserve
    have hok' : injOk (s.mapLs fun l => { l with inj := w &&& 0x00FFFFFF }) w = true := hok
    simp only [writeLsinj, wbit, hgo, Bool.not_true, Bool.false_eq_true, if_false, if_pos hok'] at hx
    exact ⟨_, hx, by simp, exec_within hx rfl⟩
  · have hno' : injOk (s.mapLs fun l => { l with inj := w &&& 0x00FFFFFF }) w = false := hno
    rw [execLsinj_eq w hserve]
    simp only [writeLsinj, wbit, hgo, hno']
    rfl
  · simp [exec, execLsinj, h]
end

section
/-! Tariffs, demand intervals and billing closes (09 R214 to R228). -/

namespace Sys2Proof.Laws

open Sys2Proof.Machine

/-- What every step of a fold keeps true is true after it. -/
theorem forEach_preserves {α : Type} {f : State → α → State} (P : State → Prop) (h : ∀ x a, P x → P (f x a)) (l : List α) {s : State} (hs : P s) :
    P (forEach l f s) := by
  induction l generalizing s with
  | nil => exact hs
  | cons a l ih => exact ih (h s a hs)

/-! ## What the close of an interval leaves of billing -/

/-- Billing without the intervals and the steps that wait for their last energy. -/
def blRest (b : Billing) : Billing := { b with fin := [], iv := [] }

/-- The steps that wait are those of before with some more behind them; the rest of billing stands. -/
def Appended (s t : State) : Prop := blRest t.bl = blRest s.bl ∧ ∃ l, t.bl.fin = s.bl.fin ++ l

theorem appended_refl (s : State) : Appended s s := ⟨rfl, [], by simp⟩

theorem appended_trans {s x t : State} (h : Appended s x) (k : Appended x t) : Appended s t := by
  obtain ⟨h1, l, hl⟩ := h
  obtain ⟨k1, m, hm⟩ := k
  exact ⟨k1.trans h1, l ++ m, by rw [hm, hl, List.append_assoc]⟩

theorem appended_of_bl {s t : State} (h : t.bl = s.bl) : Appended s t := ⟨by rw [h], [], by rw [h]; simp⟩

theorem appended_setIv (s : State) (p : Nat) (v : Interval) : Appended s (s.setIv p v) := ⟨rfl, [], by simp [State.setIv]⟩

theorem appended_openIv (s : State) (p : Nat) (short outage : Bool) : Appended s (openIv s p short outage) := appended_setIv ..

theorem appended_addFin (s : State) (d : BndDue) : Appended s (s.addFin d) := ⟨rfl, [d], rfl⟩

theorem appended_regularEnd (s : State) (p : Nat) : Appended s (regularEnd s p) := appended_trans (appended_addFin ..) (appended_openIv ..)

theorem appended_closeShort (flag bin : Nat) (next : Bool) (s : State) (p : Nat) : Appended s (closeShort flag bin next s p) := by
  simp only [closeShort]
  split
  · exact appended_refl s
  · have h (x : State) (hx : Appended s x) : Appended s (raise x 0xA3 p (some (bin : Nat))) := appended_trans hx (appended_of_bl (raise_bl ..))
    split
    · refine appended_trans (h _ ?_) (appended_openIv ..)
      exact appended_trans (appended_addFin ..) (appended_setIv ..)
    · refine h _ ?_
      exact appended_trans (appended_addFin ..) (appended_setIv ..)

theorem appended_shortClose (flag bin : Nat) (next : Bool) (s : State) (p : Nat) : Appended s (shortClose flag bin next s p) := by
  simp only [shortClose]
  split
  · exact appended_refl s
  · split
    · exact appended_regularEnd ..
    · split
      · split
        · exact appended_refl s
        · exact appended_setIv ..
      · exact appended_closeShort ..

theorem appended_forEach {α : Type} {f : State → α → State} (h : ∀ x a, Appended x (f x a)) (l : List α) (s : State) : Appended s (forEach l f s) :=
  forEach_preserves (Appended s) (fun x a hx => appended_trans hx (h x a)) l (appended_refl s)

/-! ## The tariff index -/

/-- The registers and lists that a change of tariff leaves alone. -/
def tariffRest (b : Billing) := (b.w1, b.w2, b.md, b.waiting, b.fbDue, b.fallbk, b.evalSec)

theorem appended_tariffRest {s t : State} (h : Appended s t) : tariffRest t.bl = tariffRest s.bl ∧ t.bl.tidx = s.bl.tidx := by
  have hw1 := congrArg Billing.w1 h.1
  have hw2 := congrArg Billing.w2 h.1
  have hmd := congrArg Billing.md h.1
  have hwait := congrArg Billing.waiting h.1
  have hfb := congrArg Billing.fbDue h.1
  have hfall := congrArg Billing.fallbk h.1
  have hsec := congrArg Billing.evalSec h.1
  have hidx := congrArg Billing.tidx h.1
  simp only [blRest] at hw1 hw2 hmd hwait hfb hfall hsec hidx
  exact ⟨by simp only [tariffRest, hw1, hw2, hmd, hwait, hfb, hfall, hsec], hidx⟩

theorem setIndex_rest (s : State) (p t src : Nat) : tariffRest (setIndex s p t src).bl = tariffRest s.bl := rfl

theorem setIndex_tidx (s : State) (p t src k : Nat) : tidx (setIndex s p t src) k = if k = p then t % 16 + src % 8 * 16 else tidx s k := by
  have hidx : (setIndex s p t src).bl.tidx = tset p (Pair.of (BitVec.ofNat 32 (t % 16 + src % 8 * 16))) s.bl.tidx := rfl
  rw [tidx, hidx, tget_tset]
  split
  · rw [Pair.of, BitVec.toNat_ofNat]
    omega
  · rfl

theorem setTariff_rest (s : State) (p t src : Nat) : tariffRest (setTariff s p t src).bl = tariffRest s.bl := by
  rw [setTariff, setIndex_rest]
  split
  · rfl
  · exact (appended_tariffRest (appended_shortClose ..)).1

theorem setTariff_tidx (s : State) (p t src k : Nat) : tidx (setTariff s p t src) k = if k = p then t % 16 + src % 8 * 16 else tidx s k := by
  rw [setTariff, setIndex_tidx]
  split
  · rfl
  · split
    · rfl
    · rw [tidx, (appended_tariffRest (appended_shortClose ..)).2, tidx]

theorem tariffOf_of_tidx {s : State} {p t src : Nat} (h : tidx s p = t % 16 + src % 8 * 16) : tariffOf s p = t % 16 ∧ srcOf s p = src % 8 := by
  rw [tariffOf, srcOf, h]
  omega

theorem setTariff_face (s : State) (p t src : Nat) : (setTariff s p t src).plan = s.plan ∧ (setTariff s p t src).rtc = s.rtc := by
  have h : Only [.qu, .bl, .er, .hp] s (setTariff s p t src) := by simp
  have hpl : (setTariff s p t src).pl = s.pl := h .pl rfl
  exact ⟨by rw [State.plan, hpl, State.plan], h .rtc rfl⟩

theorem leaveDefault_bl (a b : State) : (leaveDefault a b).bl = b.bl := by
  rw [leaveDefault]
  split <;> simp

/-! ## The resumption of the calendar -/

theorem resumeCalendar_of_none {s : State} {p : Nat} (h : s.bl.waiting.find? (fun e => e.1 == p) = none) : resumeCalendar setTariff s p = s := by
  simp only [resumeCalendar, h]

theorem resumeCalendar_of_some {s : State} {p : Nat} {e : Nat × Nat} (h : s.bl.waiting.find? (fun e => e.1 == p) = some e) :
    (resumeCalendar setTariff s p).bl = (setTariff (s.mapBl fun b => { b with waiting := b.waiting.filter fun e => e.1 != p }) p
      (tariffAt s.plan.calendar s.rtc.sec) 0).bl := by
  obtain ⟨q, n⟩ := e
  simp only [resumeCalendar, h, raise_bl, leaveDefault_bl]
  rfl

theorem resumeCalendar_waiting (s : State) (p : Nat) : (resumeCalendar setTariff s p).bl.waiting = s.bl.waiting.filter fun e => e.1 != p := by
  cases h : s.bl.waiting.find? (fun e => e.1 == p) with
  | none =>
    rw [resumeCalendar_of_none h, List.filter_eq_self.mpr]
    intro e he
    simpa using List.find?_eq_none.mp h e he
  | some e =>
    rw [resumeCalendar_of_some h]
    exact congrArg (fun x => x.2.2.2.1) (setTariff_rest (s.mapBl fun b => { b with waiting := b.waiting.filter fun e => e.1 != p }) p
      (tariffAt s.plan.calendar s.rtc.sec) 0)

theorem resumeCalendar_regs (s : State) (p : Nat) : (resumeCalendar setTariff s p).bl.w1 = s.bl.w1 ∧
    (resumeCalendar setTariff s p).bl.w2 = s.bl.w2 ∧ (resumeCalendar setTariff s p).bl.md = s.bl.md := by
  cases h : s.bl.waiting.find? (fun e => e.1 == p) with
  | none =>
    rw [resumeCalendar_of_none h]
    exact ⟨rfl, rfl, rfl⟩
  | some e =>
    have hr := setTariff_rest (s.mapBl fun b => { b with waiting := b.waiting.filter fun e => e.1 != p }) p (tariffAt s.plan.calendar s.rtc.sec) 0
    rw [resumeCalendar_of_some h]
    exact ⟨congrArg (fun x => x.1) hr, congrArg (fun x => x.2.1) hr, congrArg (fun x => x.2.2.1) hr⟩

theorem tidx_of_bl {s t : State} (h : t.bl = s.bl) (p : Nat) : tidx t p = tidx s p := by rw [tidx, h, tidx]

theorem resumeCalendar_tidx_ne (s : State) {p k : Nat} (h : k ≠ p) : tidx (resumeCalendar setTariff s p) k = tidx s k := by
  cases hf : s.bl.waiting.find? (fun e => e.1 == p) with
  | none => rw [resumeCalendar_of_none hf]
  | some e =>
    rw [tidx_of_bl (resumeCalendar_of_some hf), setTariff_tidx, if_neg h]
    rfl

theorem resumeCalendar_tidx {s : State} {p : Nat} (h : p ∈ s.bl.waiting.map (·.1)) :
    tidx (resumeCalendar setTariff s p) p = tariffAt s.plan.calendar s.rtc.sec % 16 := by
  cases hf : s.bl.waiting.find? (fun e => e.1 == p) with
  | none =>
    obtain ⟨e, he, hep⟩ := List.mem_map.mp h
    exact absurd (by simpa using hep) (List.find?_eq_none.mp hf e he)
  | some e =>
    rw [tidx_of_bl (resumeCalendar_of_some hf), setTariff_tidx, if_pos rfl]
    simp

theorem resumeCalendar_face (s : State) (p : Nat) : (resumeCalendar setTariff s p).plan = s.plan ∧ (resumeCalendar setTariff s p).rtc = s.rtc := by
  cases h : s.bl.waiting.find? (fun e => e.1 == p) with
  | none =>
    rw [resumeCalendar_of_none h]
    exact ⟨rfl, rfl⟩
  | some e =>
    have ho : Only [.qu, .bl, .er, .hp] s (resumeCalendar setTariff s p) := by simp
    have hpl : (resumeCalendar setTariff s p).pl = s.pl := ho .pl rfl
    exact ⟨by rw [State.plan, hpl, State.plan], ho .rtc rfl⟩

/-- The calendar's tariff of a point either still waits or is in force. -/
def Resuming (s : State) (p : Nat) (x : State) : Prop :=
  x.plan = s.plan ∧ x.rtc = s.rtc ∧ (p ∈ x.bl.waiting.map (·.1) ∨ tidx x p = tariffAt s.plan.calendar s.rtc.sec % 16)

theorem resuming_step {s x : State} {p : Nat} (q : Nat) (h : Resuming s p x) : Resuming s p (resumeCalendar setTariff x q) := by
  obtain ⟨hplan, hrtc, hw⟩ := h
  obtain ⟨hplan', hrtc'⟩ := resumeCalendar_face x q
  refine ⟨hplan'.trans hplan, hrtc'.trans hrtc, ?_⟩
  by_cases hq : p = q
  · subst hq
    by_cases hmem : p ∈ x.bl.waiting.map (·.1)
    · exact Or.inr (by rw [resumeCalendar_tidx hmem, hplan, hrtc])
    · have hnone : x.bl.waiting.find? (fun e => e.1 == p) = none :=
        List.find?_eq_none.mpr fun e he => by simpa using fun hep => hmem (List.mem_map.mpr ⟨e, he, hep⟩)
      rw [resumeCalendar_of_none hnone]
      exact hw
  · rw [resumeCalendar_tidx_ne x hq, resumeCalendar_waiting]
    refine hw.imp_left fun hm => ?_
    obtain ⟨e, he, hep⟩ := List.mem_map.mp hm
    exact List.mem_map.mpr ⟨e, List.mem_filter.mpr ⟨he, by simpa [hep] using hq⟩, hep⟩

/-- Every waiting point, taken in turn. -/
def resumeWaiting (s : State) : State := forEach (s.bl.waiting.map (·.1)) (resumeCalendar setTariff) s

theorem resumeWaiting_waiting (s : State) : (resumeWaiting s).bl.waiting = [] := by
  have hsub : ∀ e ∈ (resumeWaiting s).bl.waiting, e ∈ s.bl.waiting :=
    forEach_preserves (fun x => ∀ e ∈ x.bl.waiting, e ∈ s.bl.waiting)
      (fun x q hx e he => hx e (by rw [resumeCalendar_waiting] at he; exact (List.mem_filter.mp he).1)) _ fun e he => he
  have hgone (q : Nat) (hq : q ∈ s.bl.waiting.map (·.1)) : ∀ e ∈ (resumeWaiting s).bl.waiting, e.1 ≠ q := by
    refine forEach_holds (key := id) (P := fun q x => ∀ e ∈ x.bl.waiting, e.1 ≠ q) (fun x q e he => ?_) (fun x q k hx e he => ?_) hq s
    · rw [resumeCalendar_waiting] at he
      simpa using (List.mem_filter.mp he).2
    · rw [resumeCalendar_waiting] at he
      exact hx e (List.mem_filter.mp he).1
  exact List.eq_nil_iff_forall_not_mem.mpr fun e he => hgone e.1 (List.mem_map_of_mem (hsub e he)) e he rfl

theorem resumeWaiting_tidx {s : State} {e : Nat × Nat} (he : e ∈ s.bl.waiting) :
    tidx (resumeWaiting s) e.1 = tariffAt s.plan.calendar s.rtc.sec % 16 := by
  have h : Resuming s e.1 (resumeWaiting s) :=
    forEach_preserves _ (fun x q hx => resuming_step q hx) _ ⟨rfl, rfl, Or.inl (List.mem_map_of_mem he)⟩
  obtain ⟨-, -, hw⟩ := h
  rw [resumeWaiting_waiting] at hw
  exact hw.resolve_left (by simp)

theorem resumeWaiting_regs (s : State) :
    ((resumeWaiting s).bl.w1, (resumeWaiting s).bl.w2, (resumeWaiting s).bl.md) = (s.bl.w1, s.bl.w2, s.bl.md) :=
  forEach_keep (fun x => (x.bl.w1, x.bl.w2, x.bl.md)) (fun x q => by
    obtain ⟨h1, h2, h3⟩ := resumeCalendar_regs x q
    simp only [h1, h2, h3]) _ _

theorem resumeWaiting_of_empty {s : State} (h : s.bl.waiting = []) : resumeWaiting s = s := by
  rw [resumeWaiting, h]
  rfl

/-! ## A calendar switch -/

theorem livePts_nodup (s : State) : (livePts s).Nodup := List.Nodup.filter _ List.nodup_range

/-- A point of SRC 0 takes the tariff `t` of now. -/
def follow (t : Nat) (s : State) (p : Nat) : State := if srcOf s p = 0 then setTariff s p t 0 else s

theorem follow_tidx_ne (t : Nat) (s : State) {p k : Nat} (h : k ≠ p) : tidx (follow t s p) k = tidx s k := by
  rw [follow]
  split
  · rw [setTariff_tidx, if_neg h]
  · rfl

theorem follow_rest (t : Nat) (s : State) (p : Nat) : tariffRest (follow t s p).bl = tariffRest s.bl ∧ (follow t s p).plan = s.plan ∧
    (follow t s p).rtc = s.rtc := by
  rw [follow]
  split
  · exact ⟨setTariff_rest .., setTariff_face ..⟩
  · exact ⟨rfl, rfl, rfl⟩

/-- The points of SRC 0 take the tariff of now. -/
def followCalendar (s : State) : State := forEach (livePts s) (follow (tariffAt s.plan.calendar s.rtc.sec)) s

theorem followCalendar_rest (s : State) : tariffRest (followCalendar s).bl = tariffRest s.bl ∧ (followCalendar s).plan = s.plan ∧
    (followCalendar s).rtc = s.rtc := by
  have h := forEach_keep (fun x => (tariffRest x.bl, x.plan, x.rtc)) (f := follow (tariffAt s.plan.calendar s.rtc.sec)) (fun x p => by
    obtain ⟨h1, h2, h3⟩ := follow_rest (tariffAt s.plan.calendar s.rtc.sec) x p
    rw [h1, h2, h3]) (livePts s) s
  exact ⟨congrArg (·.1) h, congrArg (·.2.1) h, congrArg (·.2.2) h⟩

theorem followCalendar_waiting (s : State) : (followCalendar s).bl.waiting = s.bl.waiting :=
  congrArg (fun x => x.2.2.2.1) (followCalendar_rest s).1

theorem followCalendar_tidx_ne {s : State} {p : Nat} (h : p ∉ livePts s ∨ srcOf s p ≠ 0) : tidx (followCalendar s) p = tidx s p := by
  by_cases hp : p ∈ livePts s
  · obtain ⟨x, hx, hf⟩ := forEach_view (V := fun k x => tidx x k) (key := id) (f := follow (tariffAt s.plan.calendar s.rtc.sec))
      (fun x a k hk => follow_tidx_ne _ x hk) (by simpa using livePts_nodup s) hp s
    have hsrc : srcOf x p ≠ 0 := by
      rw [srcOf, show tidx x p = tidx s p from hx]
      exact h.resolve_left (by simpa using hp)
    refine hf.trans ?_
    rw [follow, if_neg hsrc]
    exact hx
  · exact forEach_view_of_ne (V := fun k x => tidx x k) (key := id) (fun x a k hk => follow_tidx_ne _ x hk)
      (fun a ha hpa => hp (by rwa [hpa])) s

theorem followCalendar_tidx {s : State} {p : Nat} (hp : p ∈ livePts s) (h : srcOf s p = 0) :
    tidx (followCalendar s) p = tariffAt s.plan.calendar s.rtc.sec % 16 := by
  obtain ⟨x, hx, hf⟩ := forEach_view (V := fun k x => tidx x k) (key := id) (f := follow (tariffAt s.plan.calendar s.rtc.sec))
    (fun x a k hk => follow_tidx_ne _ x hk) (by simpa using livePts_nodup s) hp s
  have hsrc : srcOf x p = 0 := by rw [srcOf, show tidx x p = tidx s p from hx]; exact h
  refine hf.trans ?_
  rw [follow, if_pos hsrc]
  show tidx _ p = _
  rw [setTariff_tidx, if_pos rfl]
  simp

theorem tariffEval_eq (s : State) : tariffEval s =
    if switchIn s.plan.calendar s.bl.evalSec s.rtc.sec then resumeWaiting (followCalendar s) else followCalendar s := by
  obtain ⟨hrest, -, hrtc⟩ := followCalendar_rest s
  have hsec : (followCalendar s).bl.evalSec = s.bl.evalSec := congrArg (fun x => x.2.2.2.2.2.2) hrest
  have h : tariffEval s = if (followCalendar s).bl.waiting.isEmpty then followCalendar s
      else if switchIn s.plan.calendar (followCalendar s).bl.evalSec (followCalendar s).rtc.sec then resumeWaiting (followCalendar s)
      else followCalendar s := rfl
  rw [h, hsec, hrtc]
  by_cases hw : (followCalendar s).bl.waiting = []
  · rw [resumeWaiting_of_empty hw, hw]
    simp
  · rw [if_neg (by simpa using hw)]

theorem execTariffSwitch_next {s : State} (hrun : calendarRuns s = true) : ∃ t, exec .tariffSwitch s = .next t ∧ t.bl.w1 = s.bl.w1 ∧
    t.bl.w2 = s.bl.w2 ∧ t.bl.md = s.bl.md ∧ Only [.bl, .er, .hp, .qu] s t ∧
    (s.bl.waiting = [] → (∀ p, p ∈ livePts s → srcOf s p = 0 → tariffOf t p = tariffAt s.plan.calendar s.rtc.sec % 16 ∧ srcOf t p = 0) ∧
      ∀ p, p ∉ livePts s ∨ srcOf s p ≠ 0 → tidx t p = tidx s p) ∧
    (switchIn s.plan.calendar s.bl.evalSec s.rtc.sec = true → t.bl.waiting = [] ∧
      ∀ e, e ∈ s.bl.waiting → tariffOf t e.1 = tariffAt s.plan.calendar s.rtc.sec % 16 ∧ srcOf t e.1 = 0) ∧
    (switchIn s.plan.calendar s.bl.evalSec s.rtc.sec = false → t.bl.waiting = s.bl.waiting) := by
  have hx : exec .tariffSwitch s = .next (tariffEval s) := congrArg Host.Outcome.next (if_pos hrun)
  obtain ⟨hrest, hplan, hrtc⟩ := followCalendar_rest s
  have hindex {t p : Nat} {x : State} (h : tidx x p = t % 16) : tariffOf x p = t % 16 ∧ srcOf x p = 0 := by
    rw [tariffOf, srcOf, h]
    omega
  have hregs : (tariffEval s).bl.w1 = s.bl.w1 ∧ (tariffEval s).bl.w2 = s.bl.w2 ∧ (tariffEval s).bl.md = s.bl.md := by
    have hr := resumeWaiting_regs (followCalendar s)
    have h1 : (followCalendar s).bl.w1 = s.bl.w1 := congrArg (·.1) hrest
    have h2 : (followCalendar s).bl.w2 = s.bl.w2 := congrArg (·.2.1) hrest
    have h3 : (followCalendar s).bl.md = s.bl.md := congrArg (·.2.2.1) hrest
    rw [tariffEval_eq]
    split
    · exact ⟨(congrArg (·.1) hr).trans h1, (congrArg (·.2.1) hr).trans h2, (congrArg (·.2.2) hr).trans h3⟩
    · exact ⟨h1, h2, h3⟩
  refine ⟨tariffEval s, hx, hregs.1, hregs.2.1, hregs.2.2, exec_within hx (by decide), fun hw => ?_, fun hs => ?_, fun hs => ?_⟩
  · have hall : tariffEval s = followCalendar s := by
      rw [tariffEval_eq, resumeWaiting_of_empty ((followCalendar_waiting s).trans hw), ite_self]
    rw [hall]
    exact ⟨fun p hp h0 => hindex (followCalendar_tidx hp h0), fun p hp => followCalendar_tidx_ne hp⟩
  · rw [tariffEval_eq, if_pos hs]
    refine ⟨resumeWaiting_waiting _, fun e he => hindex ?_⟩
    rw [resumeWaiting_tidx ((followCalendar_waiting s).symm ▸ he), hplan, hrtc]
  · rw [tariffEval_eq, if_neg (by simp [hs])]
    exact followCalendar_waiting s

/-! ## The fallback tariff -/

/-- A point goes to its default tariff with SRC 2. -/
def fallBack (s : State) (p : Nat) : State := setTariff s p (defTariff s p) 2

theorem fallBack_tidx (s : State) (p k : Nat) : tidx (fallBack s p) k = if k = p then defTariff s p % 16 + 32 else tidx s k := setTariff_tidx ..

theorem defTariff_of_plan {s t : State} (h : t.plan = s.plan) (p : Nat) : defTariff t p = defTariff s p := by rw [defTariff, h, defTariff]

theorem fallBacks_tidx {s : State} {l : List Nat} {p : Nat} (hp : p ∈ l) : tidx (forEach l fallBack s) p = defTariff s p % 16 + 32 := by
  have hplan : (forEach l fallBack s).plan = s.plan := forEach_keep (·.plan) (fun _ _ => (setTariff_face ..).1) l s
  refine forEach_holds (f := fallBack) (key := id) (P := fun q x => x.plan = s.plan → tidx x q = defTariff s q % 16 + 32)
    (fun x q hx => ?_) (fun x q k hk hx => ?_) hp s hplan
  · rw [id, fallBack_tidx, if_pos rfl, defTariff_of_plan ((setTariff_face ..).1.symm.trans hx)]
  · have hxs : x.plan = s.plan := (setTariff_face ..).1.symm.trans hx
    rw [fallBack_tidx]
    split
    case isTrue hkq => rw [hkq, defTariff_of_plan hxs]
    case isFalse => exact hk hxs

theorem fallBacks_tidx_ne {l : List Nat} {p : Nat} (hp : p ∉ l) (s : State) : tidx (forEach l fallBack s) p = tidx s p :=
  forEach_view_of_ne (V := fun k x => tidx x k) (key := id) (fun x a k hk => (fallBack_tidx x a k).trans (if_neg hk))
    (fun a ha hpa => hp (by rwa [hpa])) s

theorem fallBacks_rest (l : List Nat) (s : State) : tariffRest (forEach l fallBack s).bl = tariffRest s.bl :=
  forEach_keep (fun x => tariffRest x.bl) (fun _ _ => setTariff_rest ..) l s

/-- The lists of points in default, in fallback and waiting once the points `ps` are in fallback. -/
def intoFallback (ps : List Nat) (b : Billing) : Billing :=
  { b with fallbk := b.fallbk ++ ps.filter (fun p => !b.fallbk.contains p),
           deflt := b.deflt.filter fun p => !ps.contains p,
           waiting := b.waiting.filter fun e => !ps.contains e.1 }

theorem applyFallback_bl {s : State} (hst : s.sup.st ≠ .recovery) (hps : (s.bl.fbDue.filter fun p => (livePts s).contains p) ≠ []) :
    (applyFallback s).bl = intoFallback (s.bl.fbDue.filter fun p => (livePts s).contains p)
      (forEach (s.bl.fbDue.filter fun p => (livePts s).contains p) fallBack (s.mapBl fun b => { b with fbDue := [] })).bl := by
  have hc : ¬ (((s.bl.fbDue.filter fun p => (livePts s).contains p).isEmpty || s.sup.st == .recovery) = true) := by
    simp only [Bool.or_eq_true, List.isEmpty_iff, beq_iff_eq, not_or]
    exact ⟨hps, hst⟩
  refine (congrArg State.bl (if_neg hc)).trans ?_
  rw [raise_bl, mapBl_bl, leaveDefault_bl]
  rfl

theorem execTariffFallbackApply_next {s : State} (hst : s.sup.st ≠ .recovery) (hps : (s.bl.fbDue.filter fun p => (livePts s).contains p) ≠ []) :
    ∃ t, exec .tariffFallbackApply s = .next t ∧ t.bl.fbDue = [] ∧
    (∀ p, p ∈ s.bl.fbDue → p ∈ livePts s → tariffOf t p = defTariff s p % 16 ∧ srcOf t p = 2 ∧ p ∈ t.bl.fallbk) ∧
    (∀ p, p ∉ s.bl.fbDue → tidx t p = tidx s p) ∧ t.bl.w1 = s.bl.w1 ∧ Only [.bl, .er, .hp, .qu] s t := by
  have hx : exec .tariffFallbackApply s = .next (applyFallback s) := rfl
  have hbl := applyFallback_bl hst hps
  have hmem {p : Nat} : p ∈ (s.bl.fbDue.filter fun p => (livePts s).contains p) ↔ p ∈ s.bl.fbDue ∧ p ∈ livePts s := by simp
  generalize (s.bl.fbDue.filter fun p => (livePts s).contains p) = ps at hbl hmem
  have hrest := fallBacks_rest ps (s.mapBl fun b => { b with fbDue := [] })
  refine ⟨applyFallback s, hx, ?_, fun p hdue hlive => ?_, fun p hdue => ?_, ?_, exec_within hx (by decide)⟩
  · rw [hbl]
    exact congrArg (fun x => x.2.2.2.2.1) hrest
  · have hp := hmem.mpr ⟨hdue, hlive⟩
    have hidx : tidx (applyFallback s) p = defTariff s p % 16 + 32 := by
      rw [tidx, hbl]
      exact fallBacks_tidx hp
    refine ⟨by rw [tariffOf, hidx]; omega, by rw [srcOf, hidx]; omega, ?_⟩
    rw [hbl]
    generalize (forEach ps fallBack (s.mapBl fun b => { b with fbDue := [] })).bl = b
    simp only [intoFallback, List.mem_append, List.mem_filter]
    by_cases hb : p ∈ b.fallbk
    · exact Or.inl hb
    · exact Or.inr ⟨hp, by simpa using hb⟩
  · rw [tidx, hbl]
    exact fallBacks_tidx_ne (fun hp => hdue (hmem.mp hp).1) _
  · rw [hbl]
    exact congrArg (·.1) hrest

end Sys2Proof.Laws

open Sys2Proof Sys2Proof.Machine Sys2Proof.Laws

/-- Settles O34: a switch is a fold over the live points that moves each index of SRC 0 once, then one over the waiting points that takes each
off the list; the fallback is a fold that moves the ordered points only. -/
theorem tariffsSwitchAndFallBack : Obligations.TariffsSwitchAndFallBack := by
  unfold Obligations.TariffsSwitchAndFallBack
  refine ⟨⟨fun s hrun => execTariffSwitch_next hrun, fun s hrun => ?_⟩, fun s hst hps => execTariffFallbackApply_next hst hps,
    fun s hst => ?_, fun s hdue => ?_⟩
  · exact congrArg Host.Outcome.next (if_neg (by simp [hrun]))
  · exact congrArg Host.Outcome.next (if_pos (by simp [hst]))
  · have h : applyFallback s = s.mapBl fun b => { b with fbDue := [] } := if_pos (by simp [hdue])
    refine congrArg Host.Outcome.next (h.trans ?_)
    rw [State.mapBl, ← hdue]

namespace Sys2Proof.Laws

open Sys2Proof.Machine

/-! ## The ends of the demand intervals -/

/-- The close of point `p`'s interval as it stands. -/
def endClose (s : State) (p : Nat) : BndDue := .iv (ivRecord s p (ivAt s p) false (s.stamp (ivFlags s p (ivAt s p))))

/-- The empty interval that follows point `p`'s. -/
def nextIv (s : State) (p : Nat) : Interval :=
  { ivAt s p with isOpen := true, start := s.stamp 0, e := [0, 0, 0, 0], short := false, outage := false, tinv := s.nowSec.2, ticks := 0 }

theorem regularEnd_eq (s : State) (p : Nat) : regularEnd s p =
    s.mapBl fun b => { b with fin := b.fin ++ [endClose s p], iv := tset p (nextIv s p) b.iv } := rfl

/-- Billing with the closes `l` behind those that wait, and the intervals `iv`. -/
def State.closing (s : State) (l : List BndDue) (iv : Tab Interval) : State := s.mapBl fun b => { b with fin := b.fin ++ l, iv := iv }

/-- An interval whose end has come closes and the next one opens. -/
def endInterval (s : State) (p : Nat) : State := if endDue s p then regularEnd s p else s

/-- What the ends of the intervals of the points `l` make of them. -/
theorem endIntervals_eq {l : List Nat} (hl : l.Nodup) (s : State) : ∃ iv, forEach l endInterval s =
      State.closing s ((l.filter (endDue s)).map (endClose s)) iv ∧
    ∀ p, tget {} p iv = if p ∈ l ∧ endDue s p = true then nextIv s p else ivAt s p := by
  induction l generalizing s with
  | nil => exact ⟨s.bl.iv, by simp [State.closing, State.mapBl, forEach], fun p => by simp [ivAt]⟩
  | cons a l ih =>
    obtain ⟨ha, hl⟩ := List.nodup_cons.mp hl
    obtain ⟨iv, hfold, hiv⟩ := ih hl (endInterval s a)
    have hstep : forEach (a :: l) endInterval s = forEach l endInterval (endInterval s a) := rfl
    by_cases hdue : endDue s a = true
    · have hsa : endInterval s a = State.closing s [endClose s a] (tset a (nextIv s a) s.bl.iv) := (if_pos hdue).trans (regularEnd_eq s a)
      have hget (p : Nat) (hp : p ≠ a) : ivAt (endInterval s a) p = ivAt s p := by
        rw [hsa]
        exact tget_tset_ne _ _ hp _
      have hsame (p : Nat) (hp : p ≠ a) : endDue (endInterval s a) p = endDue s p ∧ endClose (endInterval s a) p = endClose s p ∧
          nextIv (endInterval s a) p = nextIv s p := by
        have h := hget p hp
        simp only [endDue, endClose, nextIv, h]
        rw [hsa]
        exact ⟨rfl, rfl, rfl⟩
      have hne {p : Nat} (hp : p ∈ l) : p ≠ a := fun h => ha (h ▸ hp)
      have hfilter : l.filter (endDue (endInterval s a)) = l.filter (endDue s) := List.filter_congr fun p hp => (hsame p (hne hp)).1
      have hmap : (l.filter (endDue s)).map (endClose (endInterval s a)) = (l.filter (endDue s)).map (endClose s) :=
        List.map_congr_left fun p hp => (hsame p (hne (List.mem_of_mem_filter hp))).2.1
      refine ⟨iv, ?_, fun p => ?_⟩
      · rw [hstep, hfold, hfilter, hmap, List.filter_cons_of_pos hdue, List.map_cons, hsa]
        simp [State.closing, State.mapBl]
      · rw [hiv p]
        by_cases hp : p = a
        · subst hp
          rw [if_neg (fun h => ha h.1), if_pos ⟨List.mem_cons_self, hdue⟩, hsa]
          exact tget_tset_self ..
        · obtain ⟨h1, -, h3⟩ := hsame p hp
          rw [h1, h3, hget p hp]
          simp only [List.mem_cons, hp, false_or]
    · have hsa : endInterval s a = s := if_neg hdue
      rw [hsa] at hfold hiv
      refine ⟨iv, ?_, fun p => ?_⟩
      · rw [hstep, hsa, hfold, List.filter_cons_of_neg hdue]
      · rw [hiv p]
        by_cases hp : p = a
        · rw [hp, if_neg (fun h => hdue h.2), if_neg (fun h => hdue h.2)]
        · simp only [List.mem_cons, hp, false_or]

/-- Folds of steps that agree where `P` holds agree from a state of `P`. -/
theorem forEach_agree {α : Type} {f g : State → α → State} (P : State → Prop) (hP : ∀ x a, P x → P (f x a)) (h : ∀ x a, P x → f x a = g x a)
    (l : List α) {s : State} (hs : P s) : forEach l f s = forEach l g s := by
  induction l generalizing s with
  | nil => rfl
  | cons a l ih =>
    refine (ih (hP s a hs)).trans ?_
    rw [h s a hs]
    rfl

/-- One point at the ends of the intervals: its interval's end, and the calendar where it waits for it. -/
def demandStep (s : State) (p : Nat) : State :=
  if endDue s p then (if (regularEnd s p).rtc.valid then resumeCalendar setTariff (regularEnd s p) p else regularEnd s p) else s

theorem demandStep_of_noneWaiting {s : State} (p : Nat) (h : s.bl.waiting = []) : demandStep s p = endInterval s p := by
  have hw : (regularEnd s p).bl.waiting.find? (fun e => e.1 == p) = none := by
    rw [show (regularEnd s p).bl.waiting = [] from h]
    rfl
  rw [demandStep, endInterval, resumeCalendar_of_none hw, ite_self]

theorem endInterval_waiting (s : State) (p : Nat) : (endInterval s p).bl.waiting = s.bl.waiting := by
  rw [endInterval]
  split <;> rfl

theorem demandEnds_of_noneWaiting {s : State} (h : s.bl.waiting = []) : demandEnds s = forEach (livePts s) endInterval s :=
  forEach_agree (f := demandStep) (fun x => x.bl.waiting = [])
    (fun x p hx => by rw [demandStep_of_noneWaiting p hx, endInterval_waiting, hx]) (fun _ p hx => demandStep_of_noneWaiting p hx) _ h

theorem execDemandIntervalEnd_next {s : State} (hbill : billing s = true) (hrest : s.sup.restored = false) (hwait : s.bl.waiting = []) :
    ∃ t, exec .demandIntervalEnd s = .next t ∧
    t.bl.fin = s.bl.fin ++ ((livePts s).filter (endDue s)).map
      (fun p => .iv (ivRecord s p (ivAt s p) false (s.stamp (ivFlags s p (ivAt s p))))) ∧
    (∀ p, p ∈ livePts s → endDue s p = true → (ivAt t p).isOpen = true ∧ (ivAt t p).e = [0, 0, 0, 0] ∧ (ivAt t p).ticks = 0) ∧
    (∀ p, endDue s p = false → ivAt t p = ivAt s p) ∧ t.bl.w1 = s.bl.w1 ∧ t.bl.md = s.bl.md ∧ t.bl.tidx = s.bl.tidx ∧
    Only [.bl, .er, .hp, .qu] s t := by
  have hx : exec .demandIntervalEnd s = .next (demandEnds s) := congrArg Host.Outcome.next (if_pos (by rw [hbill, hrest]; rfl))
  have honly := exec_within (ps := [.bl, .er, .hp, .qu]) hx (by decide)
  obtain ⟨iv, hfold, hiv⟩ := endIntervals_eq (livePts_nodup s) s
  rw [demandEnds_of_noneWaiting hwait, hfold] at hx honly
  refine ⟨_, hx, rfl, fun p hp hdue => ?_, fun p hdue => ?_, rfl, rfl, rfl, honly⟩
  · have h : ivAt (State.closing s (((livePts s).filter (endDue s)).map (endClose s)) iv) p = nextIv s p :=
      (hiv p).trans (if_pos ⟨hp, hdue⟩)
    rw [h]
    exact ⟨rfl, rfl, rfl⟩
  · exact (hiv p).trans (if_neg (by simp [hdue]))

/-! ## The closes of the billing rule -/

/-- The short closes of the points `ps`. -/
def shortCloses (ps : List Nat) (s : State) : State := forEach ps (shortClose 0 2 true) s

theorem shortCloses_face (ps : List Nat) (s : State) : (shortCloses ps s).plan = s.plan ∧ (shortCloses ps s).tb = s.tb ∧
    setHead (shortCloses ps s) = setHead s := by
  have honly : Only [.bl, .er, .hp, .qu] s (shortCloses ps s) := by simp [shortCloses]
  have hpl : (shortCloses ps s).pl = s.pl := honly .pl rfl
  have hls : (shortCloses ps s).ls = s.ls := honly .ls rfl
  have hplan : (shortCloses ps s).plan = s.plan := by rw [State.plan, hpl, State.plan]
  have hidx := (appended_tariffRest (appended_forEach (appended_shortClose 0 2 true) ps s)).2
  refine ⟨hplan, honly .tb rfl, ?_⟩
  funext p
  rw [setHead, setHead, hplan, faulted, hls, faulted]
  exact congrArg (fun t => (⟨p, tget (Pair.zero 32) p t, (pointDef s.plan p).qexp, faulted s p⟩ : SetHead)) hidx

/-- The set of a close at the boundary `b`. -/
def ruleSet (s : State) (b : Int) : BndDue :=
  .set { pts := (livePts s).map (setHead s), stamp := stampAt b false 0, cause := 1, missed := 0, plan := s.plan.planid, frame := s.tb.frame }

theorem closePeriod_bl (s : State) (b : Int) : (closePeriod s (livePts s) true b 1 0 0).bl =
    { (shortCloses (livePts s) s).bl with fin := (shortCloses (livePts s) s).bl.fin ++ [ruleSet s b],
                                          lcb := Pair.of (BitVec.ofNat 64 b.toNat), lcbW2 := Pair.of (BitVec.ofNat 64 b.toNat) } := by
  obtain ⟨hplan, htb, hhead⟩ := shortCloses_face (livePts s) s
  rw [ruleSet, ← hhead, ← htb, ← hplan]
  rfl

/-- The close of the rule at the boundary `b`. -/
def ruleClosed (s : State) (b : Int) : State := raise (closePeriod s (livePts s) true b 1 0 0) 0xA0 0xFF (some 1)

theorem ruleClosed_bl (s : State) (b : Int) : ∃ l, (ruleClosed s b).bl.fin = s.bl.fin ++ l ++ [ruleSet s b] ∧
    (ruleClosed s b).bl.lcb = Pair.of (BitVec.ofNat 64 b.toNat) ∧ tariffRest (ruleClosed s b).bl = tariffRest s.bl := by
  have happ : Appended s (shortCloses (livePts s) s) := appended_forEach (appended_shortClose 0 2 true) _ s
  obtain ⟨-, l, hl⟩ := id happ
  have hbl : (ruleClosed s b).bl = (closePeriod s (livePts s) true b 1 0 0).bl := raise_bl ..
  rw [hbl, closePeriod_bl]
  exact ⟨l, by rw [← hl], rfl, (appended_tariffRest happ).1⟩

/-- What the rule closes when the last boundary is `b`. -/
def ruleCloseAt (s : State) (b : Int) : State :=
  if closesRun s ∧ s.rtc.valid ∧ (s.bl.evalSec : Int) ≤ b then resumeWaiting (if (s.bl.lcb.v.toNat : Int) < b then ruleClosed s b else s)
  else s

theorem ruleClose_eq (s : State) : ruleClose s = (lastBoundary s.plan.calendar s.rtc.sec).elim s (ruleCloseAt s) := by
  delta ruleClose
  generalize lastBoundary s.plan.calendar s.rtc.sec = o
  cases o <;> rfl

theorem ruleClose_of_boundary {s : State} {b : Int} (hb : lastBoundary s.plan.calendar s.rtc.sec = some b) : ruleClose s = ruleCloseAt s b := by
  rw [ruleClose_eq]
  exact congrArg (fun o => Option.elim o s (ruleCloseAt s)) hb

theorem execBillingCloseRule_next {b : Int} {s : State} (hb : lastBoundary s.plan.calendar s.rtc.sec = some b) (hrun : closesRun s = true)
    (hvalid : s.rtc.valid = true) (hwait : s.bl.waiting = []) (hlcb : (s.bl.lcb.v.toNat : Int) < b) (hsec : (s.bl.evalSec : Int) ≤ b) :
    ∃ t l, exec .billingCloseRule s = .next t ∧ t.bl.lcb = Pair.of (BitVec.ofNat 64 b.toNat) ∧
      t.bl.fin = s.bl.fin ++ l ++ [.set { pts := (livePts s).map (setHead s), stamp := stampAt b false 0, cause := 1, missed := 0,
                                          plan := s.plan.planid, frame := s.tb.frame }] ∧
      t.bl.w1 = s.bl.w1 ∧ Only [.bl, .er, .hp, .qu] s t := by
  have hx : exec .billingCloseRule s = .next (ruleClose s) := rfl
  have honly := exec_within (ps := [.bl, .er, .hp, .qu]) hx (by decide)
  obtain ⟨l, hfin, hset, hrest⟩ := ruleClosed_bl s b
  have hw : (ruleClosed s b).bl.waiting = [] := (congrArg (fun x => x.2.2.2.1) hrest).trans hwait
  have hclose : ruleClose s = ruleClosed s b := by
    rw [ruleClose_of_boundary hb, ruleCloseAt, if_pos ⟨hrun, hvalid, hsec⟩, if_pos hlcb, resumeWaiting_of_empty hw]
  rw [hclose] at hx honly
  exact ⟨_, l, hx, hset, hfin, congrArg (·.1) hrest, honly⟩

theorem ruleClose_of_closed {b : Int} {s : State} (hb : lastBoundary s.plan.calendar s.rtc.sec = some b) (hlcb : b ≤ (s.bl.lcb.v.toNat : Int))
    (hwait : s.bl.waiting = []) : ruleClose s = s := by
  rw [ruleClose_of_boundary hb, ruleCloseAt, if_neg (Int.not_lt.mpr hlcb), resumeWaiting_of_empty hwait, ite_self]

theorem ruleClose_of_not_running {s : State} (h : lastBoundary s.plan.calendar s.rtc.sec = none ∨ closesRun s = false ∨ s.rtc.valid = false) :
    ruleClose s = s := by
  cases hb : lastBoundary s.plan.calendar s.rtc.sec with
  | none =>
    rw [ruleClose_eq]
    exact congrArg (fun o => Option.elim o s (ruleCloseAt s)) hb
  | some b =>
    rw [ruleClose_of_boundary hb, ruleCloseAt]
    refine if_neg fun ⟨hrun, hvalid, _⟩ => ?_
    simp [hb, hrun, hvalid] at h

end Sys2Proof.Laws

open Sys2Proof Sys2Proof.Machine Sys2Proof.Laws

/-- Settles O35: with no point waiting for the calendar the ends of the intervals and the closes of the rule append to what waits for its energy,
point by point, and leave the heads of the set as they were. -/
theorem intervalsAndPeriodsClose : Obligations.IntervalsAndPeriodsClose := by
  unfold Obligations.IntervalsAndPeriodsClose
  refine ⟨⟨fun s hbill hrest hwait => execDemandIntervalEnd_next hbill hrest hwait, fun s h => ?_⟩,
    fun b s hb hrun hvalid hwait hlcb hsec => execBillingCloseRule_next hb hrun hvalid hwait hlcb hsec,
    fun b s hb hlcb hwait => congrArg Host.Outcome.next (ruleClose_of_closed hb hlcb hwait),
    fun s h => congrArg Host.Outcome.next (ruleClose_of_not_running h), fun req w s hserv => congrArg Host.Outcome.next (if_pos hserv),
    fun req w s hserv => congrArg Host.Outcome.next (if_neg (by simp [hserv]))⟩
  exact congrArg Host.Outcome.next (if_neg (by rcases h with h | h <;> simp [h]))

end

section
/-! The clock, its supply and its setting (10 R238 to R256). -/

namespace Sys2Proof.Laws

open Sys2Proof.Machine

/-! ## The clock's registers, beside the acts that wait for the power -/

/-- The clock without the Slate acts that wait for main power. -/
def quietRtc (r : Rtc) : Rtc := { r with evDue := [] }

/-- A register that the waiting acts are not part of is the same where the clocks beside them are. -/
theorem of_quiet {α : Type} {p q : Rtc} (h : quietRtc p = quietRtc q) (f : Rtc → α) (hf : ∀ r, f (quietRtc r) = f r := by intro; rfl) :
    f p = f q := by rw [← hf p, h, hf q]

theorem slateEvent_quiet (s : State) (code chan : Nat) (v : Option Int) : quietRtc (slateEvent s code chan v).rtc = quietRtc s.rtc := by
  rw [slateEvent]
  split
  · rw [raise_rtc]
  · rfl

theorem declare_rtc (s : State) (l : List Nat) : (declare s l).rtc = s.rtc :=
  (show Only [.qu, .bl, .tp, .er, .hp, .ser] s (declare s l) by simp) .rtc rfl

theorem windowEnds_quiet (s : State) (src : Nat) : quietRtc (windowEnds s src).rtc = quietRtc s.rtc := by
  rw [windowEnds]
  simp only [State.setSrc, mapTp_rtc, apply_ite State.rtc, apply_ite quietRtc, slateEvent_quiet, ite_self]

theorem countOne_quiet (stat loop : Bool) (a : State × List Nat) (n : Nat) : quietRtc (countOne stat loop a n).1.rtc = quietRtc a.1.rtc := by
  simp only [countOne, State.setSrc, mapTp_rtc, apply_ite State.rtc, apply_ite quietRtc, windowEnds_quiet, ite_self]

theorem countAll_quiet (stat loop : Bool) (l : List Nat) (a : State × List Nat) :
    quietRtc (l.foldl (countOne stat loop) a).1.rtc = quietRtc a.1.rtc := by
  induction l generalizing a with
  | nil => rfl
  | cons n l ih => exact (ih _).trans (countOne_quiet stat loop a n)

theorem sourceEvents_quiet (s : State) (l : List Nat) (stat loop : Bool) : quietRtc (sourceEvents s l stat loop).rtc = quietRtc s.rtc := by
  rw [sourceEvents_eq, declare_rtc, countAll_quiet]

theorem sourceEvent_quiet (s : State) (n : Nat) : quietRtc (sourceEvent s n).rtc = quietRtc s.rtc := sourceEvents_quiet ..

theorem clockInvalid_quiet (s : State) (cause : Nat) :
    quietRtc (clockInvalid s cause).rtc = quietRtc { s.rtc with valid := false, invcause := cause } := by
  have horder (y) : (pendDec (orderDefault y) .fallback true).rtc = y.rtc := rfl
  simp only [clockInvalid, apply_ite State.rtc, apply_ite quietRtc, horder, slateEvent_quiet, ite_self]
  rfl

/-! ## The second edge -/

/-- The clock one edge on, in the next second. -/
def nextSecond (r : Rtc) : Rtc := { r with edges := r.edges + 1, sec := r.sec + 1, sub := 0, subAcc := 0 }

theorem sourceEvent_tb (s : State) (n : Nat) : (sourceEvent s n).tb = s.tb :=
  (show Only [.qu, .bl, .rtc, .tp, .er, .hp, .ser] s (sourceEvent s n) by simp [sourceEvent]) .tb rfl

theorem timebaseEdge_quiet (s : State) (cyc : Nat) : quietRtc (timebaseEdge s cyc).rtc = quietRtc s.rtc := by
  simp only [timebaseEdge, apply_ite State.rtc, apply_ite quietRtc, sourceEvent_quiet, mapTb_rtc, ite_self]

theorem timebaseEdge_tb (s : State) (cyc : Nat) : (timebaseEdge s cyc).tb.frame = s.tb.frame ∧ (timebaseEdge s cyc).tb.secFrame = s.tb.frame ∧
    (timebaseEdge s cyc).tb.secCyc = min cyc 30719 ∧ (timebaseEdge s cyc).tb.secTicks = 0 := by
  simp only [timebaseEdge, apply_ite State.tb, sourceEvent_tb, ite_self]
  exact ⟨rfl, rfl, rfl, rfl⟩

theorem edgeCounted_parts (s : State) : (edgeCounted s).rtc = { s.rtc with edges := s.rtc.edges + 1 } ∧ (edgeCounted s).tb = s.tb ∧
    (edgeCounted s).sup = s.sup := by
  rw [edgeCounted]
  split <;> exact ⟨rfl, rfl, rfl⟩

/-- The state at the beginning of a second, before main power carries the timebase on. -/
def secondCounted (s : State) : State := (edgeCounted s).mapRtc fun r => { r with sec := r.sec + 1, sub := 0, subAcc := 0 }

theorem secondCounted_parts (s : State) : (secondCounted s).rtc = nextSecond s.rtc ∧ (secondCounted s).tb = s.tb ∧ (secondCounted s).sup = s.sup := by
  obtain ⟨hrtc, htb, hsup⟩ := edgeCounted_parts s
  refine ⟨?_, htb, hsup⟩
  rw [secondCounted, mapRtc_rtc, hrtc]
  rfl

theorem powered_of_sup {s t : State} (h : t.sup = s.sup) : t.powered = s.powered := by rw [State.powered, h, State.powered]

theorem secondBegun_of_powered (cyc : Nat) {s : State} (h : s.powered = true) :
    secondBegun cyc s = refreshPool (timebaseEdge (secondCounted s) cyc) :=
  if_pos (show (secondCounted s).powered = true from (powered_of_sup (secondCounted_parts s).2.2).trans h)

theorem secondBegun_of_unpowered (cyc : Nat) {s : State} (h : s.powered = false) : secondBegun cyc s = secondCounted s :=
  if_neg (show ¬ (secondCounted s).powered = true by rw [powered_of_sup (secondCounted_parts s).2.2, h]; decide)

theorem secondBegun_quiet (cyc : Nat) (s : State) : quietRtc (secondBegun cyc s).rtc = quietRtc (nextSecond s.rtc) := by
  obtain ⟨hrtc, -, -⟩ := secondCounted_parts s
  cases h : s.powered with
  | true =>
    rw [secondBegun_of_powered cyc h, show (refreshPool (timebaseEdge (secondCounted s) cyc)).rtc = (timebaseEdge (secondCounted s) cyc).rtc from rfl,
      timebaseEdge_quiet, hrtc]
  | false => rw [secondBegun_of_unpowered cyc h, hrtc]

theorem secondBegun_tb (cyc : Nat) (s : State) : (secondBegun cyc s).tb.frame = s.tb.frame ∧ (s.powered = true →
    (secondBegun cyc s).tb.secFrame = s.tb.frame ∧ (secondBegun cyc s).tb.secCyc = min cyc 30719 ∧ (secondBegun cyc s).tb.secTicks = 0) := by
  obtain ⟨-, htb, -⟩ := secondCounted_parts s
  cases h : s.powered with
  | true =>
    obtain ⟨hframe, hsec, hcyc, hticks⟩ := timebaseEdge_tb (secondCounted s) cyc
    rw [secondBegun_of_powered cyc h]
    exact ⟨hframe.trans (by rw [htb]), fun _ => ⟨hsec.trans (by rw [htb]), hcyc, hticks⟩⟩
  | false =>
    rw [secondBegun_of_unpowered cyc h, htb]
    exact ⟨rfl, fun k => absurd k (by decide)⟩

theorem secondBegun_sup (cyc : Nat) (s : State) : (secondBegun cyc s).sup = s.sup := by
  obtain ⟨-, -, hsup⟩ := secondCounted_parts s
  cases h : s.powered with
  | true =>
    rw [secondBegun_of_powered cyc h]
    have ho : (refreshPool (timebaseEdge (secondCounted s) cyc)).sup = (secondCounted s).sup :=
      (show Only [.tb, .qu, .bl, .rtc, .tp, .er, .hp, .ser, .fresh] (secondCounted s) (refreshPool (timebaseEdge (secondCounted s) cyc)) by
        simp) .sup rfl
    rw [ho, hsup]
  | false => rw [secondBegun_of_unpowered cyc h, hsup]

/-! ## The alarms of a second -/

/-- The clock's registers beside the alarms'. -/
def noAlarms (r : Rtc) : Rtc := { r with al := [] }

theorem setAlarm_noAlarms (s : State) (n : Nat) (a : Alarm) : noAlarms (s.setAlarm n a).rtc = noAlarms s.rtc := rfl

/-- A register beside the alarms' is the same where the clocks beside them are. -/
theorem of_noAlarms {α : Type} {p q : Rtc} (h : noAlarms p = noAlarms q) (f : Rtc → α) (hf : ∀ r, f (noAlarms r) = f r := by intro; rfl) :
    f p = f q := by rw [← hf p, h, hf q]

/-- An alarm as it stands once it has fired. -/
def firedAlarm (s : State) (n : Nat) : Alarm := { afterFire (alarmAt s n) with fired := true }

/-- An alarm with its latch set. -/
def latchedAlarm (s : State) (a : Alarm) : Alarm :=
  { a with latSet := true, latSec := if a.latSet then a.latSec else s.rtc.sec, latCnt := if a.latSet then min 255 (a.latCnt + 1) else 0 }

theorem fireAlarm_of_latches {s : State} {n : Nat} (h : latchMode s = true) :
    fireAlarm s n = s.setAlarm n (latchedAlarm s (afterFire (alarmAt s n))) := if_pos h

theorem fireAlarm_of_firing {s : State} {n : Nat} (h : latchMode s = false) : (fireAlarm s n).rtc = (s.setAlarm n (firedAlarm s n)).rtc := by
  rw [fireAlarm, if_neg (by simp [h])]
  simp only [apply_ite State.rtc, raise_rtc, irq_rtc, ite_self]
  rfl

theorem fireAlarm_al (s : State) (n : Nat) : ∃ a, (fireAlarm s n).rtc = (s.setAlarm n a).rtc ∧ (latchMode s = false → a.fired = true) ∧
    (latchMode s = true → a.latSet = true) := by
  cases h : latchMode s with
  | true => exact ⟨_, congrArg State.rtc (fireAlarm_of_latches h), fun k => absurd k (by decide), fun _ => rfl⟩
  | false => exact ⟨_, fireAlarm_of_firing h, fun _ => rfl, fun k => absurd k (by decide)⟩

theorem fireAlarm_rtc (s : State) (n : Nat) : noAlarms (fireAlarm s n).rtc = noAlarms s.rtc := by
  obtain ⟨a, ha, -, -⟩ := fireAlarm_al s n
  rw [ha, setAlarm_noAlarms]

theorem latchMode_of_same {s t : State} (hcell : t.rtc.onCell = s.rtc.onCell) (hsup : t.sup = s.sup) : latchMode t = latchMode s := by
  rw [latchMode, hcell, hsup, latchMode]

theorem fireAlarm_latchMode (s : State) (n : Nat) : latchMode (fireAlarm s n) = latchMode s :=
  latchMode_of_same (of_noAlarms (fireAlarm_rtc s n) (·.onCell)) ((show Only [.qu, .rtc, .er, .hp] s (fireAlarm s n) by simp) .sup rfl)

theorem fireAlarm_other (s : State) {n k : Nat} (h : k ≠ n) : alarmAt (fireAlarm s n) k = alarmAt s k := by
  obtain ⟨a, ha, -, -⟩ := fireAlarm_al s n
  rw [alarmAt, ha]
  exact tget_tset_ne _ _ h _

/-- An alarm that has fired, or set its latch while latches are in use. -/
def AlarmOut (n : Nat) (s : State) : Prop :=
  (latchMode s = false → (alarmAt s n).fired = true) ∧ (latchMode s = true → (alarmAt s n).latSet = true)

theorem fireAlarm_out (s : State) (n : Nat) : AlarmOut n (fireAlarm s n) := by
  obtain ⟨a, ha, hfired, hlat⟩ := fireAlarm_al s n
  have hal : alarmAt (fireAlarm s n) n = a := by
    rw [alarmAt, ha]
    exact tget_tset_self ..
  rw [AlarmOut, fireAlarm_latchMode, hal]
  exact ⟨hfired, hlat⟩

theorem fireAlarm_keeps_out (s : State) (n k : Nat) (h : AlarmOut k s) : AlarmOut k (fireAlarm s n) := by
  by_cases hk : k = n
  · rw [hk]
    exact fireAlarm_out s n
  · rwa [AlarmOut, fireAlarm_latchMode, fireAlarm_other s hk]

theorem fireDue_rtc (s : State) : noAlarms (fireDue s).rtc = noAlarms s.rtc := by
  rw [fireDue]
  split
  · exact forEach_keep (fun x => noAlarms x.rtc) (fun x n => fireAlarm_rtc x n) _ s
  · rfl

theorem fireDue_out {s : State} {n : Nat} (hn : n < 8) (hvalid : s.rtc.valid = true) (hhalt : s.rtc.halt = false) (hen : (alarmAt s n).en = true)
    (htime : (alarmAt s n).time = s.rtc.sec) : AlarmOut n (fireDue s) := by
  rw [fireDue, if_pos (by rw [hvalid, hhalt]; rfl)]
  refine forEach_holds (key := id) (P := AlarmOut) fireAlarm_out fireAlarm_keeps_out (a := n) ?_ s
  exact List.mem_filter.mpr ⟨List.mem_range.mpr hn, by simp [hen, htime]⟩

theorem execRtcSecondEdge_next {s : State} (cyc : Nat) (hrun : s.rtc.halt = false) (hlt : s.rtc.sec + 1 < rtcMax) :
    ∃ t, exec (.rtcSecondEdge cyc) s = .next t ∧ t.rtc.sec = s.rtc.sec + 1 ∧ t.rtc.sub = 0 ∧
      t.rtc.valid = s.rtc.valid ∧ t.tb.frame = s.tb.frame ∧
      (s.powered = true → t.tb.secFrame = s.tb.frame ∧ t.tb.secCyc = min cyc 30719 ∧ t.tb.secTicks = 0) ∧
      (∀ n, n < 8 → s.rtc.valid = true → (alarmAt s n).en = true → (alarmAt s n).time = s.rtc.sec + 1 →
        (latchMode s = false → (alarmAt t n).fired = true) ∧ (latchMode s = true → (alarmAt t n).latSet = true)) := by
  have hx : exec (.rtcSecondEdge cyc) s = .next (fireDue (secondBegun cyc s)) :=
    (execRtcSecondEdge_eq cyc s hrun).trans (by rw [if_neg (by omega), if_neg (by omega)])
  have hbegun := secondBegun_quiet cyc s
  have hfired := fireDue_rtc (secondBegun cyc s)
  have htb : (fireDue (secondBegun cyc s)).tb = (secondBegun cyc s).tb :=
    (show Only [.qu, .rtc, .er, .hp] (secondBegun cyc s) (fireDue (secondBegun cyc s)) by simp) .tb rfl
  have hsup : (fireDue (secondBegun cyc s)).sup = (secondBegun cyc s).sup :=
    (show Only [.qu, .rtc, .er, .hp] (secondBegun cyc s) (fireDue (secondBegun cyc s)) by simp) .sup rfl
  obtain ⟨hframe, hsec⟩ := secondBegun_tb cyc s
  have hmode : latchMode (fireDue (secondBegun cyc s)) = latchMode s :=
    latchMode_of_same ((of_noAlarms hfired (·.onCell)).trans (of_quiet hbegun (·.onCell))) (hsup.trans (secondBegun_sup cyc s))
  have hal (n : Nat) : alarmAt (secondBegun cyc s) n = alarmAt s n := of_quiet hbegun (fun r => tget ({} : Alarm) n r.al)
  refine ⟨_, hx, (of_noAlarms hfired (·.sec)).trans (of_quiet hbegun (·.sec)), (of_noAlarms hfired (·.sub)).trans (of_quiet hbegun (·.sub)),
    (of_noAlarms hfired (·.valid)).trans (of_quiet hbegun (·.valid)), by rw [htb, hframe], by rw [htb]; exact hsec, fun n hn hvalid hen htime => ?_⟩
  have hout : AlarmOut n (fireDue (secondBegun cyc s)) :=
    fireDue_out hn ((of_quiet hbegun (·.valid)).trans hvalid) ((of_quiet hbegun (·.halt)).trans hrun) (by rw [hal, hen])
      (by rw [hal, htime]; exact (of_quiet hbegun (·.sec)).symm)
  rwa [AlarmOut, hmode] at hout

end Sys2Proof.Laws

open Sys2Proof Sys2Proof.Machine Sys2Proof.Laws

/-- Settles O36: by the halt and the range of the clock's second. -/
theorem secondEdges : Obligations.SecondEdges := by
  unfold Obligations.SecondEdges
  intro cyc s
  have hend (hrun : s.rtc.halt = false) (hlast : s.rtc.sec = rtcMax) : exec (.rtcSecondEdge cyc) s = .next (edgeCounted s) :=
    (execRtcSecondEdge_eq cyc s hrun).trans (if_pos (by omega))
  refine ⟨fun hhalt => if_pos hhalt, execRtcSecondEdge_next cyc, fun hrun hlast => ?_, fun hrun hlast hpow => ?_, fun hrun hlast hpow => ?_⟩
  · obtain ⟨x, hx, hsec, hvalid, hcause⟩ := execRtcSecondEdge_toEnd cyc s hrun hlast
    have hface := slateEvent_face x 0xCB 0xFF none
    exact ⟨_, hx, (congrArg ClockFace.sec hface).trans hsec, (congrArg ClockFace.valid hface).trans hvalid,
      (slateEvent_invcause ..).trans hcause⟩
  · exact (hend hrun hlast).trans (congrArg Host.Outcome.next (if_pos hpow))
  · exact (hend hrun hlast).trans (congrArg Host.Outcome.next (if_neg (show ¬ s.powered = true by rw [hpow]; decide)))

namespace Sys2Proof.Laws

open Sys2Proof.Machine

/-! ## The crystal, the supply of the Slate domain and the cold start -/

theorem execCrystalStop_next (s : State) : ∃ t, exec .crystalStop s = .next t ∧ t.rtc.oscstop = true ∧ t.rtc.valid = false ∧
    t.rtc.invcause = 2 ∧ t.rtc.sec = s.rtc.sec := by
  have h := (sourceEvent_quiet (clockInvalid (s.mapRtc fun r => { r with oscstop := true }) 2) 9).trans (clockInvalid_quiet _ _)
  exact ⟨_, rfl, of_quiet h (·.oscstop), of_quiet h (·.valid), of_quiet h (·.invcause), of_quiet h (·.sec)⟩

/-- The supply of the Slate domain, the cell or VIO. -/
def onSupply (cell : Bool) (s : State) : State := s.mapRtc fun r => { r with onCell := cell, cellrun := r.cellrun || cell }

theorem execSlateSupplySwitch_next (cell : Bool) (s : State) : exec (.slateSupplySwitch cell) s =
    .next (if cell && s.rtc.vbatlow && s.rtc.vbatOk && decide (s.rtc.vbat < 1800) then clockInvalid (onSupply cell s) 3 else onSupply cell s) := rfl

/-- What a falling VBAT of `mv` shows in the clock's registers. -/
def vbatFalls (powered : Bool) (mv : Nat) (r : Rtc) : Rtc :=
  { r with vbat := if powered then min 4050 (mv / 50 * 50) else r.vbat, vbatOk := powered || r.vbatOk,
           vbatlow := r.vbatlow || decide (mv < 2200) }

/-- The voltage that main power reads. -/
def vbatRead (mv : Nat) (s : State) : State :=
  if s.powered then s.mapRtc fun r => { r with vbat := min 4050 (mv / 50 * 50), vbatOk := true } else s

/-- The voltage with its low mark, the mark's event and its source. -/
def vbatMarked (mv : Nat) (s : State) : State :=
  if mv < 2200 ∧ !(vbatRead mv s).rtc.vbatlow then
    sourceEvent (slateEvent ((vbatRead mv s).mapRtc fun r => { r with vbatlow := true }) 0xC4 0xFF (some (mv : Nat))) 8
  else vbatRead mv s

theorem vbatRead_rtc (mv : Nat) (s : State) : (vbatRead mv s).rtc =
    { s.rtc with vbat := if s.powered then min 4050 (mv / 50 * 50) else s.rtc.vbat, vbatOk := s.powered || s.rtc.vbatOk } := by
  rw [vbatRead]
  cases s.powered <;> rfl

theorem vbatMarked_quiet (mv : Nat) (s : State) : quietRtc (vbatMarked mv s).rtc = quietRtc (vbatFalls s.powered mv s.rtc) := by
  have hlow : (vbatRead mv s).rtc.vbatlow = s.rtc.vbatlow := by rw [vbatRead_rtc]
  rw [vbatMarked, hlow]
  split
  case isTrue h =>
    rw [sourceEvent_quiet, slateEvent_quiet, mapRtc_rtc, vbatRead_rtc, vbatFalls]
    simp [h.1]
  case isFalse h =>
    have hkeep : (s.rtc.vbatlow || decide (mv < 2200)) = s.rtc.vbatlow := by
      cases hl : s.rtc.vbatlow <;> simp_all
    rw [vbatRead_rtc, vbatFalls, hkeep]

theorem execVbatLow_eq (mv : Nat) (s : State) : exec (.vbatLow mv) s =
    .next (if mv < 1800 ∧ (vbatMarked mv s).rtc.onCell then clockInvalid (vbatMarked mv s) 3 else vbatMarked mv s) := rfl

theorem execVbatLow_next (mv : Nat) (s : State) : ∃ t, exec (.vbatLow mv) s = .next t ∧ t.rtc.sec = s.rtc.sec ∧
    t.rtc.vbatlow = (s.rtc.vbatlow || decide (mv < 2200)) ∧
    (s.powered = true → t.rtc.vbat = min 4050 (mv / 50 * 50) ∧ t.rtc.vbatOk = true) ∧ (s.powered = false → t.rtc.vbat = s.rtc.vbat) ∧
    (mv < 1800 → s.rtc.onCell = true → t.rtc.valid = false ∧ t.rtc.invcause = 3) ∧
    (1800 ≤ mv ∨ s.rtc.onCell = false → t.rtc.valid = s.rtc.valid) := by
  have hm := vbatMarked_quiet mv s
  have hcell : (vbatMarked mv s).rtc.onCell = s.rtc.onCell := of_quiet hm (·.onCell)
  have hvbat (h : s.powered = true) : (vbatFalls s.powered mv s.rtc).vbat = min 4050 (mv / 50 * 50) ∧ (vbatFalls s.powered mv s.rtc).vbatOk = true := by
    rw [h]
    exact ⟨rfl, rfl⟩
  have hkept (h : s.powered = false) : (vbatFalls s.powered mv s.rtc).vbat = s.rtc.vbat := by
    rw [h]
    rfl
  rw [execVbatLow_eq, hcell]
  split
  case isTrue hlow =>
    have hi := clockInvalid_quiet (vbatMarked mv s) 3
    exact ⟨_, rfl, (of_quiet hi (·.sec)).trans (of_quiet hm (·.sec)), (of_quiet hi (·.vbatlow)).trans (of_quiet hm (·.vbatlow)),
      fun h => ⟨((of_quiet hi (·.vbat)).trans (of_quiet hm (·.vbat))).trans (hvbat h).1,
        ((of_quiet hi (·.vbatOk)).trans (of_quiet hm (·.vbatOk))).trans (hvbat h).2⟩,
      fun h => ((of_quiet hi (·.vbat)).trans (of_quiet hm (·.vbat))).trans (hkept h),
      fun _ _ => ⟨of_quiet hi (·.valid), of_quiet hi (·.invcause)⟩,
      fun h => absurd hlow (by rcases h with h | h <;> simp [h])⟩
  case isFalse hlow =>
    exact ⟨_, rfl, of_quiet hm (·.sec), of_quiet hm (·.vbatlow),
      fun h => ⟨(of_quiet hm (·.vbat)).trans (hvbat h).1, (of_quiet hm (·.vbatOk)).trans (hvbat h).2⟩,
      fun h => (of_quiet hm (·.vbat)).trans (hkept h), fun h1 h2 => absurd ⟨h1, h2⟩ hlow, fun _ => of_quiet hm (·.valid)⟩

theorem execSlateColdStart_next (s : State) : ∃ t, exec .slateColdStart s = .next t ∧ t.rtc.valid = false ∧ t.rtc.invcause = 1 ∧
    t.rtc.cold = true ∧ t.rtc.sec = 0 ∧
    t.rtc.al = [] ∧ t.rtc.bk = [] ∧ t.rtc.evDue = [(0xC1, 0xFF, some 1), (0xC3, 0xFF, none)] ∧ t.tp.keys = [] ∧ t.tp.src = [] ∧ t.tp.sealSt = 0 ∧
    t.er.due = (s.er.due.filter fun e => !(e.cell || slateAct e.ptype)) ∧ (s.sup.st ≠ .off → t.sup = s.sup) ∧
    (s.sup.st = .off → t.sup = { s.sup with st := .backup }) ∧ Only [.rtc, .clock, .tp, .seal, .sup, .mode, .er] s t := by
  obtain ⟨t, hx⟩ : ∃ t, exec .slateColdStart s = .next t := ⟨_, rfl⟩
  have honly := exec_within (ps := [.rtc, .clock, .tp, .seal, .sup, .mode, .er]) hx (by decide)
  refine ⟨t, hx, ?_⟩
  rw [← Host.Outcome.next.inj hx] at honly ⊢
  by_cases hoff : s.sup.st = .off
  · refine ⟨?_, ?_, ?_, ?_, ?_, ?_, ?_, ?_, ?_, ?_, ?_, fun h => absurd hoff h, fun _ => ?_, honly⟩ <;>
      simp [hoff, dropSlateMarks]
  · refine ⟨?_, ?_, ?_, ?_, ?_, ?_, ?_, ?_, ?_, ?_, ?_, fun _ => ?_, fun h => absurd h hoff, honly⟩ <;>
      simp [hoff, dropSlateMarks]

end Sys2Proof.Laws

open Sys2Proof Sys2Proof.Machine Sys2Proof.Laws

/-- Settles O37: beside the acts that wait for main power, an invalid clock keeps every register but its validity and cause. -/
theorem crystalSupplyAndColdStart : Obligations.CrystalSupplyAndColdStart := by
  unfold Obligations.CrystalSupplyAndColdStart
  refine ⟨⟨execCrystalStop_next, fun s => rfl, fun cell s h => ?_, fun s hlow hok hmv => ?_, execVbatLow_next, fun s hpow => ?_, fun s hpow => ?_⟩,
    execSlateColdStart_next⟩
  · rw [execSlateSupplySwitch_next, if_neg]
    · rfl
    · rcases h with h | h | h | h <;> simp [h]
  · have hi := clockInvalid_quiet (onSupply true s) 3
    have hx := execSlateSupplySwitch_next true s
    rw [if_pos (by simp [hlow, hok, hmv])] at hx
    exact ⟨_, hx, of_quiet hi (·.onCell), (of_quiet hi (·.cellrun)).trans (Bool.or_true _), of_quiet hi (·.valid), of_quiet hi (·.invcause),
      of_quiet hi (·.sec)⟩
  · exact if_neg (show ¬ s.powered = true by rw [hpow]; decide)
  · have hx : exec .vbatlowClear s = .next (((s.mapRtc fun r => { r with vbatlow := false }).draw.2).mapRtc fun r =>
        { r with vbat := 2200 + 50 * (Config.freeNat s.fresh % 38), vbatOk := true }) := if_pos hpow
    exact ⟨_, _, hx, Nat.mod_lt _ (by decide), rfl, exec_within hx (by decide)⟩

namespace Sys2Proof.Laws

open Sys2Proof.Machine

/-! ## Alarms that a set passes -/

/-- The clock beside its alarms stands, and what else changed is the intake of events. -/
def AlarmStep (s t : State) : Prop := noAlarms t.rtc = noAlarms s.rtc ∧ Intake s t

theorem intake_pres {s t : State} (h : Intake s t) : t.er.pres = s.er.pres := by
  have hrec := congrArg Recorder.pres h.2.1
  exact hrec

theorem alarmStep_refl (s : State) : AlarmStep s s := ⟨rfl, intake_refl s⟩

theorem alarmStep_trans {s x t : State} (h : AlarmStep s x) (k : AlarmStep x t) : AlarmStep s t := ⟨k.1.trans h.1, intake_trans h.2 k.2⟩

theorem alarmStep_forEach {α : Type} {f : State → α → State} (h : ∀ x a, AlarmStep x (f x a)) (l : List α) (s : State) : AlarmStep s (forEach l f s) :=
  forEach_preserves (AlarmStep s) (fun x a hx => alarmStep_trans hx (h x a)) l (alarmStep_refl s)

theorem alarmStep_raise (s : State) (code chan : Nat) (v : Option Int) : AlarmStep s (raise s code chan v) :=
  ⟨by rw [raise_rtc], raise_intake ..⟩

theorem alarmStep_irq (s : State) (b : Nat) : AlarmStep s (s.irq b) := ⟨by rw [irq_rtc], irq_intake s b⟩

theorem alarmStep_setAlarm (s : State) (n : Nat) (a : Alarm) : AlarmStep s (s.setAlarm n a) := ⟨rfl, intake_of_eq rfl rfl⟩

theorem alarmStep_ite {c : Prop} [Decidable c] {s x y : State} (hx : AlarmStep s x) (hy : AlarmStep s y) : AlarmStep s (if c then x else y) := by
  split
  · exact hx
  · exact hy

theorem alarmStep_fireAlarm (s : State) (n : Nat) : AlarmStep s (fireAlarm s n) := by
  refine alarmStep_ite (alarmStep_setAlarm ..) ?_
  have hset := alarmStep_setAlarm s n (firedAlarm s n)
  have hlog : AlarmStep s (if (alarmAt s n).log then raise (s.setAlarm n (firedAlarm s n)) 0xC6 n none else s.setAlarm n (firedAlarm s n)) :=
    alarmStep_ite (alarmStep_trans hset (alarmStep_raise ..)) hset
  exact alarmStep_ite (alarmStep_trans hlog (alarmStep_irq ..)) hlog

theorem alarmStep_lateFire (s : State) (n lateness : Nat) : AlarmStep s (lateFire s n lateness) := by
  refine alarmStep_ite (alarmStep_trans (alarmStep_setAlarm ..) (alarmStep_raise ..)) ?_
  have hlate (a : Alarm) : AlarmStep s (raise (s.setAlarm n a) 0xC5 n (some (lateness : Nat))) :=
    alarmStep_trans (alarmStep_setAlarm ..) (alarmStep_raise ..)
  exact alarmStep_ite (alarmStep_trans (hlate _) (alarmStep_irq ..)) (hlate _)

theorem alarmStep_alarmLatch (s : State) (n : Nat) : AlarmStep s (alarmLatch s n) :=
  alarmStep_trans (alarmStep_setAlarm s n _) (alarmStep_lateFire ..)

theorem alarmStep_alarmsAtSet (s : State) (t0 t1 : Nat) : AlarmStep s (alarmsAtSet s t0 t1) := by
  refine alarmStep_trans (alarmStep_forEach (fun x n => ?_) _ s) (alarmStep_forEach alarmStep_fireAlarm _ _)
  exact alarmStep_ite (alarmStep_setAlarm ..) (alarmStep_trans (alarmStep_setAlarm x n _) (alarmStep_lateFire ..))

/-! ## The end of a halt -/

theorem slateEvent_intake (s : State) (code chan : Nat) (v : Option Int) : Intake s (slateEvent s code chan v) := by
  rw [slateEvent]
  split
  · exact raise_intake ..
  · exact intake_of_eq rfl rfl

theorem clockInvalid_intake (s : State) (cause : Nat) : Intake s (clockInvalid s cause) := by
  have hset : Intake s ((s.mapRtc fun r => { r with valid := false, invcause := cause }).mapTb fun t => { t with clkoor := false }) :=
    intake_of_eq rfl rfl
  have hev (x : State) (h : Intake s x) : Intake s (slateEvent x 0xC1 0xFF (some (cause : Nat))) := intake_trans h (slateEvent_intake ..)
  simp only [clockInvalid]
  split
  · split
    · exact intake_trans (hev _ hset) (intake_of_eq rfl rfl)
    · exact hev _ hset
  · exact hset

/-- The last second of the range ends the clock. -/
def endClock (s : State) : State := slateEvent (clockInvalid s 4) 0xCB 0xFF none

theorem endClock_quiet (s : State) : quietRtc (endClock s).rtc = quietRtc { s.rtc with valid := false, invcause := 4 } :=
  (slateEvent_quiet ..).trans (clockInvalid_quiet ..)

theorem endClock_intake (s : State) : Intake s (endClock s) := intake_trans (clockInvalid_intake ..) (slateEvent_intake ..)

/-- The clock resumed at `t0`, before the end of its range is seen to. -/
def resumed (s : State) (t0 : Nat) : State :=
  release (s.mapRtc fun r => { r with halt := false, relWait := false, sec := min rtcMax (t0 / 32768), sub := t0 % 32768,
                                      subAcc := t0 % 32768 * 125 }) 1

theorem resumeAt_eq (s : State) (t0 : Nat) : resumeAt s t0 =
    if decide (s.rtc.sec < rtcMax) && decide (rtcMax ≤ t0 / 32768) then endClock (resumed s t0) else resumed s t0 := rfl

theorem resumeAt_clock (s : State) (t0 : Nat) : (resumeAt s t0).rtc.halt = false ∧ (resumeAt s t0).rtc.setDue = s.rtc.setDue ∧
    (resumeAt s t0).rtc.sec = min rtcMax (t0 / 32768) ∧ (t0 / 32768 < rtcMax → (resumeAt s t0).rtc.valid = s.rtc.valid) ∧
    (resumeAt s t0).er.pres = s.er.pres - 1 := by
  rw [resumeAt_eq]
  split
  case isTrue h =>
    have hq := endClock_quiet (resumed s t0)
    have her : (endClock (resumed s t0)).er.pres = (resumed s t0).er.pres := intake_pres (endClock_intake (resumed s t0))
    simp only [Bool.and_eq_true, decide_eq_true_eq] at h
    exact ⟨of_quiet hq (·.halt), of_quiet hq (·.setDue), of_quiet hq (·.sec), fun hlt => absurd h.2 (Nat.not_le.mpr hlt), her⟩
  case isFalse h => exact ⟨rfl, rfl, rfl, fun _ => rfl, rfl⟩

/-! ## The set -/

/-- The set that waits for its record, of a clock at `t0`. -/
def setEntry (r : Rtc) (t0 : Nat) : Nat × Nat × Nat × Requester × Bool × Bool :=
  (t0 / 32768, t0 % 32768, r.newSec, r.haltReq, r.relpps, !r.valid)

/-- The written second in force. -/
def setClock (s : State) (t0 : Nat) : State :=
  (s.mapRtc fun r => { r with halt := false, relWait := false, sec := s.rtc.newSec, sub := 0, subAcc := 0, valid := true,
                              setDue := r.setDue ++ [setEntry s.rtc t0] }).irq 11

/-- The latches of the time without a clock fire at a set. -/
def setLatches (s : State) (inv : Bool) : State :=
  if inv then forEach (alarms.filter fun n => (alarmAt s n).latSet && !s.sup.restored) alarmLatch s else s

/-- The alarms of the seconds that a set passes. -/
def setAlarms (s : State) (from0 t1 : Nat) : State :=
  if from0 < t1 then alarmsAtSet s from0 t1 else forEach (alarms.filter fun n => (alarmAt s n).en && (alarmAt s n).time == t1) fireAlarm s

/-- The set with its alarms, before the end of the range is seen to. -/
def clockSetTo (s : State) (dur : Nat) : State :=
  setAlarms (setLatches (setClock s (haltT0 s.rtc dur)) (!s.rtc.valid))
    (if !s.rtc.valid then s.rtc.lastValid else haltT0 s.rtc dur / 32768) s.rtc.newSec

theorem clearHalt_of_set {s : State} (dur : Nat) (h : ¬ (rtcMax < s.rtc.newSec ∨ s.tp.locked = true)) : clearHalt s dur =
    if s.rtc.newSec = rtcMax then endClock (clockSetTo s dur) else clockSetTo s dur := if_neg h

theorem clockSetTo_step (s : State) (dur : Nat) : AlarmStep (setClock s (haltT0 s.rtc dur)) (clockSetTo s dur) := by
  refine alarmStep_trans (x := setLatches (setClock s (haltT0 s.rtc dur)) (!s.rtc.valid)) ?_ ?_
  · exact alarmStep_ite (alarmStep_forEach alarmStep_alarmLatch _ _) (alarmStep_refl _)
  · exact alarmStep_ite (alarmStep_alarmsAtSet ..) (alarmStep_forEach alarmStep_fireAlarm _ _)

/-- The clear of HALT that sets the clock. -/
theorem clearHalt_clock {s : State} (dur : Nat) (hnew : s.rtc.newSec ≤ rtcMax) (hlock : s.tp.locked = false) :
    (clearHalt s dur).rtc.halt = false ∧ (clearHalt s dur).rtc.sec = s.rtc.newSec ∧ (clearHalt s dur).rtc.sub = 0 ∧
    (s.rtc.newSec < rtcMax → (clearHalt s dur).rtc.valid = true) ∧
    (s.rtc.newSec = rtcMax → (clearHalt s dur).rtc.valid = false ∧ (clearHalt s dur).rtc.invcause = 4) ∧
    (clearHalt s dur).rtc.setDue = s.rtc.setDue ++ [setEntry s.rtc (haltT0 s.rtc dur)] ∧
    (clearHalt s dur).hp.irqsts.getLsbD 11 = true := by
  obtain ⟨hal, hin⟩ := clockSetTo_step s dur
  have hirq : (clockSetTo s dur).hp.irqsts.getLsbD 11 = true := hin.2.2.1 11 (irq_set _ 11 (by decide))
  rw [clearHalt_of_set dur (by rw [hlock]; simpa using hnew)]
  split
  case isTrue hend =>
    have hq := endClock_quiet (clockSetTo s dur)
    exact ⟨(of_quiet hq (·.halt)).trans (of_noAlarms hal (·.halt)), (of_quiet hq (·.sec)).trans (of_noAlarms hal (·.sec)),
      (of_quiet hq (·.sub)).trans (of_noAlarms hal (·.sub)), fun h => absurd h (by omega),
      fun _ => ⟨of_quiet hq (·.valid), of_quiet hq (·.invcause)⟩, (of_quiet hq (·.setDue)).trans (of_noAlarms hal (·.setDue)),
      (endClock_intake _).2.2.1 11 hirq⟩
  case isFalse hend =>
    exact ⟨of_noAlarms hal (·.halt), of_noAlarms hal (·.sec), of_noAlarms hal (·.sub), fun _ => of_noAlarms hal (·.valid),
      fun h => absurd h hend, of_noAlarms hal (·.setDue), hirq⟩

theorem execClockSet_of_halt {req : Requester} {dur : Nat} {s : State} (hserv : serving s = true) (hhalt : s.rtc.halt = true) :
    exec (.clockSet req dur) s =
      if s.rtc.relpps then .next (s.mapRtc fun r => { r with relWait := true }) else .next (clearHalt s dur) :=
  if_neg (by simp [hserv, hhalt])

/-- The clear that sets nothing. -/
theorem clearHalt_of_refused {s : State} (dur : Nat) (h : rtcMax < s.rtc.newSec ∨ s.tp.locked = true) :
    (clearHalt s dur).rtc = { (resumeAt s (haltT0 s.rtc dur)).rtc with werr := true } := by
  have hx : clearHalt s dur = raise (((resumeAt s (haltT0 s.rtc dur)).mapRtc fun r => { r with werr := true }).irq 11) 0xC2 0xFF
      (some (if rtcMax < s.rtc.newSec then 2 else 3)) := if_pos h
  rw [hx, raise_rtc, irq_rtc, mapRtc_rtc]

end Sys2Proof.Laws

open Sys2Proof Sys2Proof.Machine Sys2Proof.Laws

/-- Settles O38: a set leaves the clock's registers beside the alarms as the written second makes them, a resumption as the held time does. -/
theorem clockHaltsAndIsSet : Obligations.ClockHaltsAndIsSet := by
  unfold Obligations.ClockHaltsAndIsSet
  refine ⟨⟨fun req sub pps s hserv hhalt hfull hlock => ?_, fun req sub pps s hserv hhalt h => ?_, fun req sub pps s hserv hhalt => ?_,
    fun req lo hi s hserv hhalt => ?_, fun req lo hi s hserv hhalt => ?_, fun req sub pps lo hi s hserv => ?_⟩,
    fun req dur s hserv hhalt hpps hnew hlock => ?_, fun req dur s hserv hhalt hpps => ?_, fun req dur s h => ?_,
    fun req dur s hserv hhalt hpps h => ?_, fun s hhalt => ?_, fun s hhalt => ?_⟩
  · have hx : exec (.halt req sub pps) s = .next (setHalt s req sub pps) := congrArg Host.Outcome.next (if_pos hserv)
    have honly := exec_within (ps := [.rtc, .clock, .tb, .er, .hp]) hx rfl
    have hset : setHalt s req sub pps = ((reserve s 1).mapTb fun t => { t with edges := [] }).mapRtc fun r =>
        { r with halt := true, relpps := pps, relWait := false, haltSec := r.sec, haltSub := sub % 32768, sub := sub % 32768,
                 subAcc := sub % 32768 * 125, newSec := r.sec, haltReq := req, haltInv := !r.valid, haltTicks := 0 } :=
      (if_neg (by simp [hhalt])).trans (if_neg (by simp [hfull, hlock]))
    have hsec : (reserve s 1).rtc.sec = s.rtc.sec := congrArg Rtc.sec ((show Only [.er, .hp] s (reserve s 1) by simp) .rtc rfl)
    rw [hset] at hx honly
    exact ⟨_, hx, rfl, hsec, rfl, rfl, hsec, rfl, reserve_pres s 1, hsec, honly⟩
  · have hset : setHalt s req sub pps = s.mapRtc fun r => { r with href := true, relpps := pps } :=
      (if_neg (by simp [hhalt])).trans (if_pos (by rcases h with h | h <;> simp [h]))
    exact congrArg Host.Outcome.next ((if_pos hserv).trans hset)
  · exact congrArg Host.Outcome.next ((if_pos hserv).trans (if_pos hhalt))
  · refine congrArg Host.Outcome.next ((if_pos hserv).trans ((if_pos hhalt).trans ?_))
    simp [State.mapRtc, wbits, bits]
  · have hx : exec (.rtcTimeWrite req lo hi) s = .next (raise (s.mapRtc fun r => { r with werr := true }) 0xC2 0xFF (some 1)) :=
      congrArg Host.Outcome.next ((if_pos hserv).trans (if_neg (by simp [hhalt])))
    exact ⟨_, hx, by rw [raise_rtc, mapRtc_rtc], by simp⟩
  · exact ⟨congrArg Host.Outcome.next (if_neg (by simp [hserv])), congrArg Host.Outcome.next (if_neg (by simp [hserv]))⟩
  · obtain ⟨h1, h2, h3, h4, h5, h6, h7⟩ := clearHalt_clock dur hnew hlock
    refine ⟨_, (execClockSet_of_halt hserv hhalt).trans (if_neg (by simp [hpps])), h1, h2, h3, h4, h5, h6.trans ?_, h7⟩
    rw [setEntry, hpps, haltT0]
  · exact (execClockSet_of_halt hserv hhalt).trans (if_pos hpps)
  · exact if_pos (by rcases h with h | h <;> simp [h])
  · obtain ⟨hh, hdue, hsec, hvalid, -⟩ := resumeAt_clock s (haltT0 s.rtc dur)
    refine ⟨_, (execClockSet_of_halt hserv hhalt).trans (if_neg (by simp [hpps])), ?_⟩
    rw [clearHalt_of_refused dur h]
    exact ⟨hh, rfl, hdue, hvalid, hsec⟩
  · obtain ⟨hh, -, hsec, -, hpres⟩ := resumeAt_clock s (haltT0 s.rtc 327680)
    have hx : exec .haltTimeout s = .next (slateEvent ((resumeAt s (haltT0 s.rtc 327680)).mapRtc fun r => { r with hto := true }) 0xCA 0xFF none) :=
      if_pos hhalt
    have hq := slateEvent_quiet ((resumeAt s (haltT0 s.rtc 327680)).mapRtc fun r => { r with hto := true }) 0xCA 0xFF none
    have her := intake_pres (slateEvent_intake ((resumeAt s (haltT0 s.rtc 327680)).mapRtc fun r => { r with hto := true }) 0xCA 0xFF none)
    exact ⟨_, hx, (of_quiet hq (·.halt)).trans hh, of_quiet hq (·.hto), her.trans hpres, (of_quiet hq (·.sec)).trans hsec,
      exec_within hx (by decide)⟩
  · exact if_neg (by simp [hhalt])

namespace Sys2Proof.Laws

open Sys2Proof.Machine

/-! ## The record of a set and the PPS edges -/

theorem intake_forEach {α : Type} {f : State → α → State} (h : ∀ x a, Intake x (f x a)) (l : List α) (s : State) : Intake s (forEach l f s) :=
  forEach_preserves (Intake s) (fun x a hx => intake_trans hx (h x a)) l (intake_refl s)

theorem intake_ite {c : Prop} [Decidable c] {s x y : State} (hx : Intake s x) (hy : Intake s y) : Intake s (if c then x else y) := by
  split
  · exact hx
  · exact hy

theorem closePeriod_intake (s : State) (ps : List Nat) (all : Bool) (b : Int) (cause missed flags : Nat) :
    Intake s (closePeriod s ps all b cause missed flags) := by
  have hshort : Intake s (forEach ps (shortClose 0 2 true) s) := intake_forEach (fun x p => (checked_shortClose ..).1) ps s
  refine intake_ite (intake_trans hshort (intake_of_eq rfl rfl)) (intake_trans hshort (intake_of_eq rfl rfl))

theorem setTariff_intake (s : State) (p t src : Nat) : Intake s (setTariff s p t src) :=
  intake_trans (intake_ite (intake_refl s) (checked_shortClose ..).1) (intake_of_eq rfl rfl)

theorem leaveDefault_intake (a b : State) : Intake b (leaveDefault a b) := intake_ite (endSample_intake ..) (intake_refl b)

theorem resumeCalendar_intake (s : State) (p : Nat) : Intake s (resumeCalendar setTariff s p) := by
  rw [resumeCalendar]
  split
  · exact intake_refl s
  · refine intake_trans (x := leaveDefault s _) (intake_trans ?_ (leaveDefault_intake ..)) (raise_intake ..)
    exact intake_trans (intake_of_eq rfl rfl) (setTariff_intake ..)

/-- The closes of the boundaries `bs` that were passed. -/
def closeAll (s : State) (bs : List Int) (cause flags : Nat) : State :=
  ((bs.drop (bs.length - 13)).foldl (fun (a : State × Nat) b =>
    (raise (closePeriod a.1 (livePts a.1) true b cause a.2 flags) 0xA0 0xFF (some (cause : Nat)), 0)) (s, bs.length - 13)).1

/-- The closes of the boundaries `bs`, with those beyond the room for them dropped. -/
def catchAll (s : State) (bs : List Int) (cause flags : Nat) : State :=
  if bs.length - 13 = 0 then closeAll s bs cause flags
  else raise ((closeAll s bs cause flags).mapBl fun b => { b with drop := true }) 0xA7 0xFF (some (bs.length - 13 : Nat))

theorem closeAll_intake (s : State) (bs : List Int) (cause flags : Nat) : Intake s (closeAll s bs cause flags) := by
  have hclose (l : List Int) (a : State × Nat) (ha : Intake s a.1) : Intake s (l.foldl (fun (a : State × Nat) b =>
      (raise (closePeriod a.1 (livePts a.1) true b cause a.2 flags) 0xA0 0xFF (some (cause : Nat)), 0)) a).1 := by
    induction l generalizing a with
    | nil => exact ha
    | cons b l ih => exact ih _ (intake_trans ha (intake_trans (closePeriod_intake ..) (raise_intake ..)))
  exact hclose _ _ (intake_refl s)

theorem catchUp_eq (s : State) (lo hi : Int) (cause flags : Nat) :
    catchUp s lo hi cause flags = catchAll s (boundariesIn s.plan.calendar (max lo (s.bl.lcb.v.toNat : Int)) hi) cause flags := rfl

theorem catchUp_intake (s : State) (lo hi : Int) (cause flags : Nat) : Intake s (catchUp s lo hi cause flags) := by
  rw [catchUp_eq]
  generalize boundariesIn s.plan.calendar (max lo (s.bl.lcb.v.toNat : Int)) hi = bs
  have h := closeAll_intake s bs cause flags
  exact intake_ite h (intake_trans (intake_trans h (intake_of_eq rfl rfl)) (raise_intake ..))

/-- The intervals that a set ends, and the boundaries that it passes. -/
def setCloses (s : State) (t0 t1 : Nat) (inv : Bool) : State :=
  let s := if billing s then forEach (livePts s) (closeShort fCADJ 3 true) s else s
  let lo := if inv then s.rtc.lastValid else t0
  if lo < t1 ∧ closesRun s ∧ (inv → 0 < lo) then catchUp s lo t1 3 fCADJ else s

/-- The calendar after a set, with the points that waited for it. -/
def setResumes (s : State) (t1 : Nat) (inv : Bool) : State :=
  let s := s.mapBl fun b => { b with evalSec := t1 }
  if inv then resumeAtSet (clockBack s) t1 else s

theorem clockSetBilling_eq (s : State) (t0 t1 : Nat) (inv : Bool) : clockSetBilling s t0 t1 inv =
    if calendarRuns (setResumes (setCloses s t0 t1 inv) t1 inv) then followCalendar (setResumes (setCloses s t0 t1 inv) t1 inv)
    else setResumes (setCloses s t0 t1 inv) t1 inv := rfl

theorem setCloses_intake (s : State) (t0 t1 : Nat) (inv : Bool) : Intake s (setCloses s t0 t1 inv) := by
  have h : Intake s (if billing s then forEach (livePts s) (closeShort fCADJ 3 true) s else s) :=
    intake_ite (intake_forEach (fun x p => (checked_closeShort ..).1) _ s) (intake_refl s)
  exact intake_ite (intake_trans h (catchUp_intake ..)) h

theorem setResumes_intake (s : State) (t1 : Nat) (inv : Bool) : Intake s (setResumes s t1 inv) := by
  have h : Intake s (s.mapBl fun b => { b with evalSec := t1 }) := intake_of_eq rfl rfl
  refine intake_ite (intake_trans (intake_trans h (intake_of_eq rfl rfl)) ?_) h
  exact intake_forEach resumeCalendar_intake _ _

theorem clockSetBilling_intake (s : State) (t0 t1 : Nat) (inv : Bool) : Intake s (clockSetBilling s t0 t1 inv) := by
  rw [clockSetBilling_eq]
  have h := intake_trans (setCloses_intake s t0 t1 inv) (setResumes_intake (setCloses s t0 t1 inv) t1 inv)
  refine intake_ite (intake_trans h (intake_forEach (fun x p => ?_) _ _)) h
  exact intake_ite (setTariff_intake ..) (intake_refl x)

theorem intake_due {s t : State} (h : Intake s t) : t.er.due = s.er.due := by
  have hrec := congrArg Recorder.due h.2.1
  exact hrec

theorem pqRaise_due (s : State) (code chan : Nat) (v : Option Int) (f : Frame) : (pqRaise s code chan v f).er.due = s.er.due :=
  intake_due (raise_intake ((s.mapPq fun q => { q with evt := true }).mapTb fun t => { t with frame := f }) code chan v)

theorem close10m_due (s : State) (b : Nat) (flagged : Bool) : (close10m s b flagged).er.due = s.er.due := by
  have hset (x : State) (q : PqBus) : (x.setPqBus b q).er.due = x.er.due := rfl
  have hten := tenMinute_keeps (fun x => x.er.due) s s.plan b (fun _ _ _ => rfl) (by simp [pqRaise_due])
  simp only [close10m]
  split
  · rfl
  · rw [hset]
    split
    · rfl
    · split
      · rfl
      · exact hten

/-- The ends of a bus's intervals at a set. -/
def setEnds (s : State) (b : Nat) : State := close10s (close10m s b true) b true

theorem setEnds_due (s : State) (b : Nat) : (setEnds s b).er.due = s.er.due := by
  have hten : (setEnds s b).er = (close10m s b true).er := (show Only [.pq] (close10m s b true) (setEnds s b) by simp [setEnds]) .er rfl
  rw [hten, close10m_due]

theorem pqClockSet_due (s : State) : (pqClockSet s).er.due = s.er.due := by
  have hint : (pqIntervals s s.rtc.sec).er = s.er := (show Only [.pq] s (pqIntervals s s.rtc.sec) by simp) .er rfl
  have hends := forEach_keep (f := setEnds) (fun x => x.er.due) setEnds_due buses (pqIntervals s s.rtc.sec)
  rw [show pqClockSet s = forEach buses setEnds (pqIntervals s s.rtc.sec) from rfl, hends, hint]

/-- The oldest set, recorded. -/
def setRecorded (s : State) (d : Nat × Nat × Nat × Requester × Bool × Bool) (l : List (Nat × Nat × Nat × Requester × Bool × Bool)) : State :=
  raise (privDue (s.mapRtc fun r => { r with setDue := l }) 0x03 (clockSetBytes d)) 0xC0 0xFF (setSpan d)

theorem execClockSetRecord_of_due {s : State} {d : Nat × Nat × Nat × Requester × Bool × Bool}
    {l : List (Nat × Nat × Nat × Requester × Bool × Bool)} (h : s.rtc.setDue = d :: l) : exec .clockSetRecord s =
    if !serving s || s.sup.restored then .next s
    else .next (pqClockSet (clockSetBilling (setRecorded s d l) d.1 d.2.2.1 d.2.2.2.2.2)) := by
  simp only [exec, execClockSetRecord, h]
  rfl

theorem execClockSetRecord_next {s : State} {d : Nat × Nat × Nat × Requester × Bool × Bool}
    {l : List (Nat × Nat × Nat × Requester × Bool × Bool)} (h : s.rtc.setDue = d :: l) (hserv : serving s = true) (hrest : s.sup.restored = false) :
    ∃ t, exec .clockSetRecord s = .next t ∧ t.rtc.setDue = l ∧
    { ptype := 0x03, parts := 1, refusable := true, payload := clockSetBytes d } ∈ t.er.due ∧ t.rtc.sec = s.rtc.sec := by
  have hx := (execClockSetRecord_of_due h).trans (if_neg (by simp [hserv, hrest]))
  have hrtc : (pqClockSet (clockSetBilling (setRecorded s d l) d.1 d.2.2.1 d.2.2.2.2.2)).rtc = { s.rtc with setDue := l } := by
    have ho : Only [.qu, .bl, .pq, .er, .hp] (setRecorded s d l) (pqClockSet (clockSetBilling (setRecorded s d l) d.1 d.2.2.1 d.2.2.2.2.2)) := by simp
    rw [show _ = (setRecorded s d l).rtc from ho .rtc rfl, setRecorded, raise_rtc]
    rfl
  refine ⟨_, hx, by rw [hrtc], ?_, by rw [hrtc]⟩
  rw [pqClockSet_due, intake_due (clockSetBilling_intake ..), setRecorded, raise_er_due]
  exact List.mem_append_right _ (List.mem_singleton_self _)

theorem execPpsLoss_of_valid {s : State} (hpow : s.powered = true) (hvalid : s.rtc.ppsValid = true) : ∃ t, exec .ppsLoss s = .next t ∧
    t.rtc.ppsValid = false ∧ t.rtc.ppsLoss = true ∧ t.rtc.ppsSeen = false ∧ t.rtc.slew = 0 ∧ Only [.rtc, .er, .hp, .qu] s t := by
  have hx : exec .ppsLoss s = .next (raise (s.mapRtc fun r =>
      { r with ppsSeen := false, ppsValid := false, ppsLoss := true, ppsLostAt := r.edges, slew := 0 }) 0xC8 0xFF none) :=
    if_pos (by rw [hpow, hvalid]; rfl)
  refine ⟨_, hx, ?_, ?_, ?_, ?_, exec_within hx (by decide)⟩ <;> rw [raise_rtc] <;> rfl

/-! ### An edge -/

/-- The edge is valid: the first one, or one with its interval. -/
def ppsTakes (s : State) (iv : Nat) : Bool := s.powered && (!s.rtc.ppsSeen || (decide (32752 ≤ iv) && decide (iv ≤ 32784)))

/-- A valid edge, and the end of a halt that waits for it. -/
def ppsSeenBy (s : State) (dur : Nat) : State :=
  if s.rtc.halt && s.rtc.relWait then clearHalt (s.mapRtc fun r => { r with ppsSeen := true }) dur else s.mapRtc fun r => { r with ppsSeen := true }

theorem execPpsEdge_of_valid {s : State} {iv : Nat} (ofs : Int) (dur : Nat) (h : ppsTakes s iv = true) : exec (.ppsEdge iv ofs dur) s =
    .next (if (ppsSeenBy s dur).rtc.ppsMode = 0 then ppsSeenBy s dur else ppsMeasure (ppsSeenBy s dur) iv ofs) :=
  if_neg (by rw [show (s.powered && (!s.rtc.ppsSeen || (decide (32752 ≤ iv) && decide (iv ≤ 32784)))) = true from h]; decide)

theorem execPpsEdge_of_invalid {s : State} {iv : Nat} (ofs : Int) (dur : Nat) (h : ppsTakes s iv = false) : exec (.ppsEdge iv ofs dur) s = .next s :=
  if_pos (by rw [show (s.powered && (!s.rtc.ppsSeen || (decide (32752 ≤ iv) && decide (iv ≤ 32784)))) = false from h]; rfl)

/-- The intervals behind a measurement of the frequency. -/
def ppsIntervals (r : Rtc) (iv : Nat) : List Nat := if r.ppsValid then (iv :: r.ppsIv).take 64 else []

/-- A measurement that steps TRIM. -/
def ppsSteps (r : Rtc) : Bool := decide (2 ≤ r.ppsMode) && r.ppsN + 1 == 64

/-- The clock's registers after an edge's measurement. -/
def ppsMeasured (r : Rtc) (iv : Nat) (ofs : Int) : Rtc :=
  { r with ppse := satS 16 ofs, ppsIv := ppsIntervals r iv, ppsf := satS 32 (ppsFreq r.trim (ppsIntervals r iv)), ppsValid := true, ppsLostAt := 0,
           ppsN := if ppsSteps r then 0 else if r.ppsMode < 2 then 0 else r.ppsN + 1,
           trim := if ppsSteps r then trimStep r.trim (ppsFreq r.trim (ppsIntervals r iv)) else r.trim,
           slew := if r.ppsMode = 3 ∧ 2 ≤ ofs.natAbs ∧ !decide (8192 ≤ ofs.natAbs) then ofs.sign else 0,
           phbig := r.phbig || decide (8192 ≤ ofs.natAbs) }

theorem ppsMeasure_rtc (s : State) (iv : Nat) (ofs : Int) : (ppsMeasure s iv ofs).rtc = ppsMeasured s.rtc iv ofs := by
  simp only [ppsMeasure, apply_ite State.rtc, raise_rtc, mapRtc_rtc, ite_self, endSample_rtc]
  rfl

theorem ppsTakes_of {s : State} {iv : Nat} (hpow : s.powered = true) (h : s.rtc.ppsSeen = false ∨ (32752 ≤ iv ∧ iv ≤ 32784)) :
    ppsTakes s iv = true := by
  rw [ppsTakes, hpow]
  rcases h with h | ⟨h1, h2⟩
  · simp [h]
  · simp [h1, h2]

theorem ppsSeenBy_of_running {s : State} (dur : Nat) (h : s.rtc.halt = false ∨ s.rtc.relWait = false) :
    ppsSeenBy s dur = s.mapRtc fun r => { r with ppsSeen := true } := if_neg (by rcases h with h | h <;> simp [h])

theorem execPpsEdge_measured {s : State} {iv : Nat} (ofs : Int) (dur : Nat) (htake : ppsTakes s iv = true)
    (hrun : s.rtc.halt = false ∨ s.rtc.relWait = false) (hmode : s.rtc.ppsMode ≠ 0) : ∃ t, exec (.ppsEdge iv ofs dur) s = .next t ∧
      t.rtc.ppsSeen = true ∧ t.rtc.ppsValid = true ∧ t.rtc.ppse = satS 16 ofs ∧
      t.rtc.trim = (if 2 ≤ s.rtc.ppsMode ∧ s.rtc.ppsN = 63 then
        trimStep s.rtc.trim (ppsFreq s.rtc.trim (if s.rtc.ppsValid then (iv :: s.rtc.ppsIv).take 64 else [])) else s.rtc.trim) ∧
      Only [.rtc, .er, .hp, .qu] s t := by
  have hx : exec (.ppsEdge iv ofs dur) s = .next (ppsMeasure (s.mapRtc fun r => { r with ppsSeen := true }) iv ofs) := by
    rw [execPpsEdge_of_valid ofs dur htake, ppsSeenBy_of_running dur hrun]
    exact congrArg Host.Outcome.next (if_neg hmode)
  have honly : Only [.rtc, .er, .hp, .qu] s (ppsMeasure (s.mapRtc fun r => { r with ppsSeen := true }) iv ofs) := by simp [ppsMeasure]
  have hrtc := ppsMeasure_rtc (s.mapRtc fun r => { r with ppsSeen := true }) iv ofs
  refine ⟨_, hx, by rw [hrtc]; rfl, by rw [hrtc]; rfl, by rw [hrtc]; rfl, ?_, honly⟩
  have hstep : (ppsSteps { s.rtc with ppsSeen := true } = true) = (2 ≤ s.rtc.ppsMode ∧ s.rtc.ppsN = 63) := by simp [ppsSteps]
  rw [hrtc]
  simp only [ppsMeasured, mapRtc_rtc, hstep]
  rfl

theorem execPpsEdge_ends_halt {s : State} {iv : Nat} (ofs : Int) (dur : Nat) (htake : ppsTakes s iv = true) (hhalt : s.rtc.halt = true)
    (hwait : s.rtc.relWait = true) (hnew : s.rtc.newSec < rtcMax) (hlock : s.tp.locked = false) : ∃ t, exec (.ppsEdge iv ofs dur) s = .next t ∧
      t.rtc.halt = false ∧ t.rtc.sec = s.rtc.newSec ∧ t.rtc.valid = true ∧ t.rtc.sub = 0 := by
  have hseen : ppsSeenBy s dur = clearHalt (s.mapRtc fun r => { r with ppsSeen := true }) dur := if_pos (by rw [hhalt, hwait]; rfl)
  obtain ⟨hh, hsec, hsub, hvalid, -⟩ := clearHalt_clock (s := s.mapRtc fun r => { r with ppsSeen := true }) dur (Nat.le_of_lt hnew) hlock
  refine ⟨_, execPpsEdge_of_valid ofs dur htake, ?_⟩
  rw [hseen]
  split
  · exact ⟨hh, hsec, hvalid hnew, hsub⟩
  · rw [ppsMeasure_rtc]
    exact ⟨hh, hsec, hvalid hnew, hsub⟩

end Sys2Proof.Laws

open Sys2Proof Sys2Proof.Machine Sys2Proof.Laws

/-- Settles O39: billing and power quality keep what is due at the recorder, and an edge's measurement is one update of the clock's registers. -/
theorem clockSetRecordAndPps : Obligations.ClockSetRecordAndPps := by
  unfold Obligations.ClockSetRecordAndPps
  refine ⟨fun d l s h hserv hrest => execClockSetRecord_next h hserv hrest, fun s h => ?_, fun sub cyc s hserv => congrArg Host.Outcome.next (if_pos hserv),
    fun sub cyc s hserv => congrArg Host.Outcome.next (if_neg (by simp [hserv])), fun s hpow hvalid => execPpsLoss_of_valid hpow hvalid,
    fun s hpow hvalid => ?_, fun s hpow => ?_, fun iv dur ofs s hpow h => ⟨fun hrun hmode => ?_, fun hrun hmode => ?_, fun hhalt hwait hnew hlock => ?_⟩,
    fun iv dur ofs s h => ?_⟩
  · cases hdue : s.rtc.setDue with
    | nil => simp only [exec, execClockSetRecord, hdue]
    | cons d l =>
      refine (execClockSetRecord_of_due hdue).trans (if_pos ?_)
      rcases h with h | h | h
      · exact absurd (hdue.symm.trans h) (List.cons_ne_nil _ _)
      · simp [h]
      · simp [h]
  · exact (if_neg (by simp [hvalid])).trans (if_pos hpow)
  · exact (if_neg (by simp [hpow])).trans (if_neg (by simp [hpow]))
  · rw [execPpsEdge_of_valid ofs dur (ppsTakes_of hpow h), ppsSeenBy_of_running dur hrun]
    exact congrArg Host.Outcome.next (if_pos hmode)
  · exact execPpsEdge_measured ofs dur (ppsTakes_of hpow h) hrun hmode
  · exact execPpsEdge_ends_halt ofs dur (ppsTakes_of hpow h) hhalt hwait hnew hlock
  · refine execPpsEdge_of_invalid ofs dur ?_
    rw [ppsTakes]
    rcases h with h | ⟨hseen, h⟩
    · simp [h]
    · rw [hseen]
      simp only [Bool.not_true, Bool.false_or, Bool.and_eq_false_iff, decide_eq_false_iff_not]
      omega

end

section
/-! The seal, the tamper sources and their declarations (11 R260 to R276). -/

namespace Sys2Proof.Laws

open Sys2Proof.Machine

/-! ## What a declaration leaves of the tamper registers -/

/-- The tamper registers beside the sources, the keys, the lock, the latches and the pending decisions. -/
def tpRest (t : Tamper) : Tamper :=
  { t with src := [], disag := 0, locked := false, fallbk := false, erased := false, latches := [], erac := 0, esec := 0, etinv := false,
           emask := 0, ecell := false, dd := [], lockAt := 0, keys := [], keysErased := false }

/-- The flags of the sources of a list. -/
def markSources (s : State) (l : List Nat) : State :=
  forEach l (fun s n => s.setSrc n { srcAt s n with sticky := true, dsec := s.rtc.sec, dtinv := !s.rtc.valid }) s

/-- The sources that a declaration names, as a mask. -/
def sourceMask (l : List Nat) : Nat := l.foldl (fun m n => m + 2 ^ n) 0

/-- The erasure that a declaration orders. -/
def declErase (s : State) (l : List Nat) : State := if respAny s l 16 then pendDec (eraseKeys s (sourceMask l)) .erase true else s

/-- The lock that a declaration orders. -/
def declLock (s x : State) (l : List Nat) : State :=
  if respAny s l 17 then pendDec (x.mapTp fun t => { t with locked := true, lockAt := if respAny s l 17 && !s.tp.locked then x.rtc.edges else t.lockAt })
    .lock true
  else x

/-- The fallback that a declaration orders. -/
def declFall (s x : State) (l : List Nat) : State :=
  if respAny s l 18 then pendDec (x.mapTp fun t => { t with fallbk := true }) .fallback true else x

/-- A declaration up to its events. -/
def declared (s : State) (l : List Nat) : State :=
  declFall (markSources s l) (declLock (markSources s l) (declErase (markSources s l) l) l) l

/-- The events, notices and fallbacks of a declaration in an operating state. -/
def declTell (m x : State) (l : List Nat) : State :=
  let x := if respAny m l 16 then raise x 0xD8 0xFF (some (eraseBin x.rtc.onCell)) else x
  let x := if respAny m l 17 && !m.tp.locked then raise x 0xDE 0xFF none else x
  let x := if respAny m l 18 then orderFallback x (livePts x) else x
  let x := forEach (l.filter fun n => wbit (srcAt x n).cfg 19) logSrc x
  forEach (l.filter fun n => wbit (srcAt x n).cfg 20) notifySrc x

/-- The latches of a declaration in another state. -/
def declLatch (m x : State) (l : List Nat) : State :=
  x.mapTp fun t => { t with latches := t.latches ++ l.mapIdx fun i n =>
    { sec := x.rtc.sec, src := n, log := wbit (srcAt x n).cfg 19, notify := wbit (srcAt x n).cfg 20, fallbk := respAny m l 18 && i == 0,
      lock := (respAny m l 17 && !m.tp.locked) && i == 0, erased := respAny m l 16 && i == 0, cell := x.rtc.onCell } }

theorem declare_eq (s : State) (l : List Nat) : declare s l = if l.isEmpty then s else
    if actsNow (markSources s l) then declTell (markSources s l) (declared s l) l else declLatch (markSources s l) (declared s l) l := rfl

theorem declTell_tp (m x : State) (l : List Nat) : (declTell m x l).tp = x.tp := by
  have hraise (x : State) (code : Nat) (v : Option Int) (c : Bool) : (if c then raise x code 0xFF v else x).tp = x.tp := by
    rw [apply_ite State.tp, raise_tp, ite_self]
  have hlog (x : State) (l : List Nat) : (forEach l logSrc x).tp = x.tp := forEach_keep (·.tp) (fun y n => by
    rw [logSrc, apply_ite State.tp, raise_tp, raise_tp, ite_self]) l x
  have hnotify (x : State) (l : List Nat) : (forEach l notifySrc x).tp = x.tp := forEach_keep (f := notifySrc) (·.tp) (fun _ _ => rfl) l x
  have hfall (x : State) (ps : List Nat) (c : Bool) : (if c then orderFallback x ps else x).tp = x.tp := by cases c <;> rfl
  simp only [declTell]
  rw [hnotify, hlog, hfall, hraise, hraise]

theorem declare_tp {l : List Nat} (h : l ≠ []) (s : State) : ∃ la, (declare s l).tp = { (declared s l).tp with latches := la } := by
  rw [declare_eq, if_neg (by simpa using h)]
  split
  · exact ⟨_, declTell_tp ..⟩
  · exact ⟨_, rfl⟩

theorem respAny_of_cfg {s t : State} (h : ∀ n, (srcAt t n).cfg = (srcAt s n).cfg) (l : List Nat) (b : Nat) : respAny t l b = respAny s l b := by
  simp only [respAny, h]

/-- One flag of a source. -/
def markOne (s : State) (n : Nat) : State := s.setSrc n { srcAt s n with sticky := true, dsec := s.rtc.sec, dtinv := !s.rtc.valid }

/-- A source with its flag of this second. -/
def marked (s : State) (x : Source) : Source := { x with sticky := true, dsec := s.rtc.sec, dtinv := !s.rtc.valid }

theorem markSources_parts (s : State) (l : List Nat) : (markSources s l).rtc = s.rtc ∧ tpRest (markSources s l).tp = tpRest s.tp ∧
    { (markSources s l).tp with src := [] } = { s.tp with src := [] } := by
  have h := forEach_keep (f := markOne) (fun x => (x.rtc, tpRest x.tp, { x.tp with src := [] })) (fun _ _ => rfl) l s
  exact ⟨congrArg (·.1) h, congrArg (·.2.1) h, congrArg (·.2.2) h⟩

theorem markSources_at (s : State) (l : List Nat) (n : Nat) :
    srcAt (markSources s l) n = if n ∈ l then marked s (srcAt s n) else srcAt s n := by
  induction l generalizing s with
  | nil => simp [markSources, forEach]
  | cons k l ih =>
    refine (ih (markOne s k)).trans ?_
    have hrtc : (markOne s k).rtc = s.rtc := rfl
    by_cases hnk : n = k
    · subst hnk
      have hat : srcAt (markOne s n) n = marked s (srcAt s n) := srcAt_setSrc ..
      rw [hat, if_pos List.mem_cons_self]
      split <;> rfl
    · have hat : srcAt (markOne s k) n = srcAt s n := srcAt_setSrc_ne s hnk _
      rw [hat]
      simp only [List.mem_cons, hnk, false_or]
      rfl

theorem markSources_cfg (s : State) (l : List Nat) (n : Nat) : (srcAt (markSources s l) n).cfg = (srcAt s n).cfg := by
  rw [markSources_at]
  split <;> rfl

/-- What the erasure and the lock that a declaration orders leave of the tamper registers. -/
theorem declared_tp (s : State) (l : List Nat) : tpRest (declared s l).tp = tpRest s.tp ∧ (declared s l).tp.src = (markSources s l).tp.src ∧
    (respAny s l 16 = true → (declared s l).tp.keys = [] ∧ (declared s l).tp.erased = true) ∧
    (respAny s l 16 = false → (declared s l).tp.keys = s.tp.keys) ∧
    (declared s l).tp.locked = (s.tp.locked || respAny s l 17) := by
  obtain ⟨-, hrest, hsrc⟩ := markSources_parts s l
  have hkeys : (markSources s l).tp.keys = s.tp.keys := congrArg Tamper.keys (a₁ := { (markSources s l).tp with src := [] }) hsrc
  have hlock : (markSources s l).tp.locked = s.tp.locked := congrArg Tamper.locked (a₁ := { (markSources s l).tp with src := [] }) hsrc
  have hresp (b : Nat) : respAny (markSources s l) l b = respAny s l b := respAny_of_cfg (markSources_cfg s l) l b
  rw [declared, declFall, declLock, declErase, hresp, hresp, hresp, ← hrest, ← hkeys, ← hlock]
  refine ⟨?_, ?_, ?_, ?_, ?_⟩ <;>
    cases respAny s l 16 <;> cases respAny s l 17 <;> cases respAny s l 18 <;> simp [pendDec, eraseKeys, tpRest, privDue]

theorem declare_rest (s : State) (l : List Nat) : tpRest (declare s l).tp = tpRest s.tp := by
  by_cases h : l = []
  · rw [h]
    rfl
  · obtain ⟨la, hla⟩ := declare_tp h s
    rw [hla, ← (declared_tp s l).1]
    rfl

theorem declare_at (s : State) (l : List Nat) (n : Nat) : srcAt (declare s l) n = if n ∈ l then marked s (srcAt s n) else srcAt s n := by
  by_cases h : l = []
  · rw [h]
    rfl
  · obtain ⟨la, hla⟩ := declare_tp h s
    rw [srcAt, hla, ← markSources_at]
    exact congrArg (fun t => tget (srcDef n) n t) (declared_tp s l).2.1

theorem declare_responses {s : State} {l : List Nat} (h : l ≠ []) : (respAny s l 16 = true → (declare s l).tp.keys = [] ∧ (declare s l).tp.erased = true) ∧
    (respAny s l 17 = true → (declare s l).tp.locked = true) := by
  obtain ⟨la, hla⟩ := declare_tp h s
  obtain ⟨-, -, herase, -, hlock⟩ := declared_tp s l
  rw [hla]
  refine ⟨herase, fun h17 => ?_⟩
  rw [show ({ (declared s l).tp with latches := la } : Tamper).locked = (declared s l).tp.locked from rfl, hlock, h17, Bool.or_true]

/-! ## Windows and events -/

theorem windowEnds_tp (s : State) (n : Nat) : tpRest (windowEnds s n).tp = tpRest s.tp ∧ (windowEnds s n).tp.keys = s.tp.keys ∧
    (windowEnds s n).tp.locked = s.tp.locked := by
  rw [windowEnds]
  dsimp only
  split
  · rw [slateEvent_tp]
    exact ⟨rfl, rfl, rfl⟩
  · exact ⟨rfl, rfl, rfl⟩

/-- A source whose window has ended. -/
def windowShut (x : Source) : Source := { x with isOpen := false, cnt := 0, cntB := 0, declared := false }

theorem windowEnds_at (s : State) (n : Nat) : srcAt (windowEnds s n) n = windowShut (srcAt s n) := by
  have hset : srcAt (s.setSrc n (windowShut (srcAt s n))) n = windowShut (srcAt s n) := srcAt_setSrc ..
  rw [windowEnds]
  dsimp only
  split
  · rw [srcAt, slateEvent_tp]
    exact hset
  · exact hset

theorem countOne_tp (stat loop : Bool) (a : State × List Nat) (n : Nat) : tpRest (countOne stat loop a n).1.tp = tpRest a.1.tp ∧
    (countOne stat loop a n).1.tp.keys = a.1.tp.keys ∧ (countOne stat loop a n).1.tp.locked = a.1.tp.locked := by
  rw [countOne]
  dsimp only
  split
  · exact windowEnds_tp a.1 n
  · exact ⟨rfl, rfl, rfl⟩

theorem countAll_rest (stat loop : Bool) (l : List Nat) (a : State × List Nat) : tpRest (l.foldl (countOne stat loop) a).1.tp = tpRest a.1.tp := by
  induction l generalizing a with
  | nil => rfl
  | cons n l ih => exact (ih _).trans (countOne_tp stat loop a n).1

theorem sourceEvents_rest (s : State) (l : List Nat) (stat loop : Bool) : tpRest (sourceEvents s l stat loop).tp = tpRest s.tp := by
  rw [sourceEvents_eq, declare_rest, countAll_rest]

/-- A tamper register beside the declarations' is the same where they are. -/
theorem of_tpRest {α : Type} {p q : Tamper} (h : tpRest p = tpRest q) (f : Tamper → α) (hf : ∀ r, f (tpRest r) = f r := by intro; rfl) :
    f p = f q := by rw [← hf p, h, hf q]

theorem countOne_at (stat loop : Bool) {a : State × List Nat} {n : Nat} (h : windowOver a.1 n = false) :
    srcAt (countOne stat loop a n).1 n = (countEvent (srcAt a.1 n) a.1.tp.slate stat loop).1 ∧
    (countOne stat loop a n).2 = if (countEvent (srcAt a.1 n) a.1.tp.slate stat loop).2 then a.2 ++ [n] else a.2 := by
  rw [countOne]
  dsimp only
  rw [h]
  exact ⟨srcAt_setSrc .., rfl⟩

theorem countEvent_isOpen (x : Source) (now : Nat) (stat loop : Bool) : (countEvent x now stat loop).1.isOpen = true := by
  simp only [countEvent]
  split
  case isTrue h => exact h
  case isFalse => rfl

theorem countEvent_keeps (x : Source) (now : Nat) (stat loop : Bool) : (countEvent x now stat loop).1.cfg = x.cfg ∧
    (countEvent x now stat loop).1.active = x.active ∧ (countEvent x now stat loop).1.mode = x.mode ∧
    (countEvent x now stat loop).1.rate = x.rate := by
  simp only [countEvent]
  split <;> exact ⟨rfl, rfl, rfl, rfl⟩

theorem countEvent_of_closed {x : Source} (h : x.isOpen = false) (now : Nat) (stat loop : Bool) :
    (countEvent x now stat loop).1.cnt = 1 ∧ (countEvent x now stat loop).2 = decide (srcN x ≤ 1) := by
  simp only [countEvent, h, Bool.false_eq_true, if_false]
  exact ⟨rfl, rfl⟩

theorem countEvent_of_open {x : Source} (h : x.isOpen = true) (now : Nat) (stat loop : Bool) :
    (countEvent x now stat loop).1.cnt = min 255 (x.cnt + 1) := by
  simp only [countEvent, h, if_true]

theorem countOne_isOpen (stat loop : Bool) (a : State × List Nat) (n : Nat) : (srcAt (countOne stat loop a n).1 n).isOpen = true := by
  rw [countOne]
  dsimp only
  rw [srcAt_setSrc, countEvent_isOpen]

theorem declare_counts (s : State) (l : List Nat) (n : Nat) : (srcAt (declare s l) n).isOpen = (srcAt s n).isOpen ∧
    (srcAt (declare s l) n).cnt = (srcAt s n).cnt ∧ (srcAt (declare s l) n).active = (srcAt s n).active ∧
    (srcAt (declare s l) n).mode = (srcAt s n).mode ∧ (srcAt (declare s l) n).rate = (srcAt s n).rate := by
  rw [declare_at]
  split <;> exact ⟨rfl, rfl, rfl, rfl, rfl⟩

/-! ## One event -/

/-- Source `n` has counted one event from `s` to `t`: its window is open, and an event that reaches N has declared it. -/
def Counts (n : Nat) (s t : State) : Prop := (srcAt t n).isOpen = true ∧
  ((srcAt s n).isOpen = false → (srcAt t n).cnt = 1 ∧
    (2 ≤ srcN (srcAt s n) → (srcAt t n).sticky = (srcAt s n).sticky ∧ t.tp.locked = s.tp.locked ∧ t.tp.keys = s.tp.keys) ∧
    (srcN (srcAt s n) ≤ 1 → (srcAt t n).sticky = true ∧ (srcAt t n).dsec = s.rtc.sec ∧
      (wbit (srcAt s n).cfg 16 = true → t.tp.keys = [] ∧ t.tp.erased = true) ∧ (wbit (srcAt s n).cfg 17 = true → t.tp.locked = true))) ∧
  ((srcAt s n).isOpen = true → windowOver s n = false → (srcAt t n).cnt = min 255 ((srcAt s n).cnt + 1))

theorem sourceEvents_of_counted {s : State} {n : Nat} (hon : srcMode s n ≠ 0) (hsup : runsOnCell n = true ∨ s.rtc.onCell = false)
    (stat loop : Bool) : sourceEvents s [n] stat loop = declare (countOne stat loop (s, []) n).1 (countOne stat loop (s, []) n).2 := by
  have hc : counted s [n] = [n] := List.filter_cons_of_pos (by rcases hsup with h | h <;> simp [hon, h])
  rw [sourceEvents_eq, hc]
  rfl

theorem sourceEvents_of_uncounted {s : State} {n : Nat} (h : srcMode s n = 0 ∨ (runsOnCell n = false ∧ s.rtc.onCell = true)) (stat loop : Bool) :
    sourceEvents s [n] stat loop = s := by
  have hc : counted s [n] = [] := List.filter_cons_of_neg (by rcases h with h | ⟨h1, h2⟩ <;> simp_all)
  rw [sourceEvents_eq, hc]
  rfl

theorem windowOver_of_closed {s : State} {n : Nat} (h : (srcAt s n).isOpen = false) : windowOver s n = false := by
  rw [windowOver, h, Bool.false_and]

theorem sourceEvents_counts {s : State} {n : Nat} (hon : srcMode s n ≠ 0) (hsup : runsOnCell n = true ∨ s.rtc.onCell = false)
    (stat loop : Bool) : Counts n s (sourceEvents s [n] stat loop) := by
  rw [sourceEvents_of_counted hon hsup]
  obtain ⟨-, hkeys, hlock⟩ := countOne_tp stat loop (s, []) n
  have hsec : (countOne stat loop (s, []) n).1.rtc.sec = s.rtc.sec := of_quiet (countOne_quiet stat loop (s, []) n) (·.sec)
  have hopen := countOne_isOpen stat loop (s, []) n
  have hat (h : windowOver s n = false) := countOne_at stat loop (a := (s, [])) h
  generalize countOne stat loop (s, []) n = a at hkeys hlock hsec hopen hat
  obtain ⟨hdopen, hdcnt, -⟩ := declare_counts a.1 a.2 n
  refine ⟨hdopen.trans hopen, fun hshut => ?_, fun h hw => ?_⟩
  · obtain ⟨hsrc, hlist⟩ := hat (windowOver_of_closed hshut)
    obtain ⟨hcnt, hhit⟩ := countEvent_of_closed hshut s.tp.slate stat loop
    rw [hhit] at hlist
    refine ⟨by rw [hdcnt, hsrc, hcnt], fun hn => ?_, fun hn => ?_⟩
    · rw [if_neg (by simp only [decide_eq_true_eq]; omega)] at hlist
      rw [hlist, show declare a.1 [] = a.1 from rfl, hsrc, countEvent_sticky]
      exact ⟨rfl, hlock, hkeys⟩
    · rw [if_pos (by simpa using hn)] at hlist
      have hcfg (b : Nat) : respAny a.1 [n] b = wbit (srcAt s n).cfg b := by
        rw [respAny, List.any_cons, List.any_nil, Bool.or_false, hsrc, (countEvent_keeps ..).1]
      obtain ⟨herase, hlocks⟩ := declare_responses (s := a.1) (l := [n]) (List.cons_ne_nil _ _)
      have hmark : srcAt (declare a.1 [n]) n = marked a.1 (srcAt a.1 n) := (declare_at ..).trans (if_pos (List.mem_singleton_self n))
      rw [show a.2 = [n] from hlist, hmark]
      exact ⟨rfl, hsec, fun h => herase ((hcfg 16).trans h), fun h => hlocks ((hcfg 17).trans h)⟩
  · rw [hdcnt, (hat hw).1, countEvent_of_open h]

/-- What a source has counted does not depend on its active mark. -/
theorem counts_of_same {n : Nat} {s u t : State} (h : Counts n u t) {a : Bool} (hsrc : srcAt u n = { srcAt s n with active := a })
    (hslate : u.tp.slate = s.tp.slate) (hlock : u.tp.locked = s.tp.locked) (hkeys : u.tp.keys = s.tp.keys) (hsec : u.rtc.sec = s.rtc.sec) :
    Counts n s t := by
  rw [Counts, windowOver, hsrc, hslate, hlock, hkeys, hsec] at h
  exact h

/-! ## Events of several sources -/

/-- What counting leaves of a source. -/
def srcFace (x : Source) : Bool × Nat × Nat := (x.active, x.mode, x.rate)

theorem countEvent_face (x : Source) (now : Nat) (stat loop : Bool) : srcFace (countEvent x now stat loop).1 = srcFace x := by
  obtain ⟨-, hactive, hmode, hrate⟩ := countEvent_keeps x now stat loop
  rw [srcFace, hactive, hmode, hrate, srcFace]

theorem countOne_face (stat loop : Bool) (a : State × List Nat) (k n : Nat) : srcFace (srcAt (countOne stat loop a k).1 n) = srcFace (srcAt a.1 n) := by
  by_cases h : n = k
  · subst h
    rw [countOne]
    dsimp only
    rw [srcAt_setSrc, countEvent_face]
    split
    · rw [windowEnds_at]
      rfl
    · rfl
  · rw [(countOne_other stat loop a h).1]

theorem sourceEvents_srcFace (s : State) (l : List Nat) (stat loop : Bool) (n : Nat) :
    srcFace (srcAt (sourceEvents s l stat loop) n) = srcFace (srcAt s n) := by
  have hall (l : List Nat) (a : State × List Nat) : srcFace (srcAt (l.foldl (countOne stat loop) a).1 n) = srcFace (srcAt a.1 n) := by
    induction l generalizing a with
    | nil => rfl
    | cons k l ih => exact (ih _).trans (countOne_face stat loop a k n)
  obtain ⟨-, -, hactive, hmode, hrate⟩ := declare_counts ((counted s l).foldl (countOne stat loop) (s, [])).1
    ((counted s l).foldl (countOne stat loop) (s, [])).2 n
  rw [sourceEvents_eq, srcFace, hactive, hmode, hrate]
  exact hall _ _

theorem countOne_list (stat loop : Bool) (a : State × List Nat) (k : Nat) : (countOne stat loop a k).2 = a.2 ++ [k] ∨ (countOne stat loop a k).2 = a.2 :=
  iteInduction (motive := fun l => l = a.2 ++ [k] ∨ l = a.2) (fun _ => Or.inl rfl) (fun _ => Or.inr rfl)

theorem countAll_other (stat loop : Bool) {l : List Nat} {n : Nat} (h : n ∉ l) (a : State × List Nat) :
    srcAt (l.foldl (countOne stat loop) a).1 n = srcAt a.1 n ∧ (n ∉ a.2 → n ∉ (l.foldl (countOne stat loop) a).2) := by
  induction l generalizing a with
  | nil => exact ⟨rfl, id⟩
  | cons k l ih =>
    obtain ⟨hnk, hl⟩ := not_or.mp (fun k => h (List.mem_cons.mpr k))
    obtain ⟨hsrc, hlist⟩ := ih hl (countOne stat loop a k)
    refine ⟨hsrc.trans (countOne_other stat loop a hnk).1, fun ha => hlist fun hm => ?_⟩
    rcases countOne_list stat loop a k with h | h <;> rw [h] at hm
    · exact (List.mem_append.mp hm).elim ha fun hs => hnk (List.mem_singleton.mp hs)
    · exact ha hm

theorem countAll_at (stat loop : Bool) {l : List Nat} {n : Nat} (hl : l.Nodup) (hn : n ∈ l) (a : State × List Nat) (hw : windowOver a.1 n = false) :
    srcAt (l.foldl (countOne stat loop) a).1 n = (countEvent (srcAt a.1 n) a.1.tp.slate stat loop).1 := by
  induction l generalizing a with
  | nil => cases hn
  | cons k l ih =>
    obtain ⟨hk, hl⟩ := List.nodup_cons.mp hl
    by_cases hnk : n = k
    · subst hnk
      exact (countAll_other stat loop hk _).1.trans (countOne_at stat loop hw).1
    · obtain ⟨hsrc, hslate⟩ := countOne_other stat loop a hnk
      rw [← hsrc, ← hslate]
      exact ih hl ((List.mem_cons.mp hn).resolve_left hnk) _ (by rwa [windowOver, hsrc, hslate])

theorem sourceEvents_other {s : State} {l : List Nat} {n : Nat} (h : n ∉ l) (stat loop : Bool) : srcAt (sourceEvents s l stat loop) n = srcAt s n := by
  obtain ⟨hsrc, hlist⟩ := countAll_other stat loop (l := counted s l) (fun k => h (List.mem_of_mem_filter k)) (s, [])
  rw [sourceEvents_eq, declare_at, if_neg (hlist (List.not_mem_nil))]
  exact hsrc

theorem sourceEvents_opens {s : State} {l : List Nat} {n : Nat} (hl : l.Nodup) (hn : n ∈ l) (hon : srcMode s n ≠ 0)
    (hsup : runsOnCell n = true ∨ s.rtc.onCell = false) (hshut : (srcAt s n).isOpen = false) (stat loop : Bool) :
    (srcAt (sourceEvents s l stat loop) n).isOpen = true ∧ (srcAt (sourceEvents s l stat loop) n).cnt = 1 := by
  have hat := countAll_at stat loop (hl.filter _) (mem_counted hn hon hsup) (s, []) (windowOver_of_closed hshut)
  obtain ⟨hopen, hcnt, -⟩ := declare_counts ((counted s l).foldl (countOne stat loop) (s, [])).1
    ((counted s l).foldl (countOne stat loop) (s, [])).2 n
  rw [sourceEvents_eq, hopen, hcnt]
  rw [show srcAt ((counted s l).foldl (countOne stat loop) (s, [])).1 n = _ from hat]
  exact ⟨countEvent_isOpen .., (countEvent_of_closed hshut ..).1⟩

/-! ## A burst -/

/-- The source once it has taken its written mode, at burst phase `b`. -/
def modeTaken (b : Nat) (x : Source) : Source :=
  if b % burstPeriod (wbits x.cfg 5 4) = 0 then { x with mode := wbits x.cfg 1 0, rate := wbits x.cfg 5 4 } else x

theorem takeMode_at (s : State) (n : Nat) : srcAt (takeMode s n) n = modeTaken s.tp.burst (srcAt s n) := by
  rw [takeMode, modeTaken]
  split
  · exact srcAt_setSrc ..
  · rfl

theorem takeMode_other (s : State) {n k : Nat} (h : k ≠ n) : srcAt (takeMode s n) k = srcAt s k := by
  rw [takeMode]
  split
  · exact srcAt_setSrc_ne s h _
  · rfl

theorem takeMode_parts (s : State) (n : Nat) : (takeMode s n).rtc = s.rtc ∧ tpRest (takeMode s n).tp = tpRest s.tp := by
  rw [takeMode]
  split <;> exact ⟨rfl, rfl⟩

/-- Every pin takes its written mode where its period divides the phase. -/
def takeModes (s : State) : State := forEach (List.range 8) takeMode s

theorem takeModes_parts (s : State) : (takeModes s).rtc = s.rtc ∧ tpRest (takeModes s).tp = tpRest s.tp := by
  have h := forEach_keep (fun x => (x.rtc, tpRest x.tp)) (f := takeMode) (fun x n => by rw [(takeMode_parts x n).1, (takeMode_parts x n).2])
    (List.range 8) s
  exact ⟨congrArg (·.1) h, congrArg (·.2) h⟩

theorem takeModes_at (s : State) {n : Nat} (hn : n < 8) : srcAt (takeModes s) n = modeTaken s.tp.burst (srcAt s n) := by
  obtain ⟨x, hx, hf⟩ := forEach_view (V := fun k x => (srcAt x k, x.tp.burst)) (key := id) (f := takeMode)
    (fun x a k hk => Prod.ext (takeMode_other x hk) (of_tpRest (takeMode_parts x a).2 (·.burst))) (by simpa using List.nodup_range)
    (List.mem_range.mpr hn) s
  have hsrc : srcAt x n = srcAt s n := congrArg (·.1) hx
  have hburst : x.tp.burst = s.tp.burst := congrArg (·.2) hx
  rw [← hsrc, ← hburst, ← takeMode_at]
  exact congrArg (·.1) hf

/-- The next burst multiple. -/
def nextBurst (s : State) : State := s.mapTp fun t => { t with burst := (t.burst + 1024) % 32768 }

/-- The pins at the next burst multiple. -/
def burstBegun (s : State) : State := takeModes (nextBurst s)

theorem nextBurst_burst (s : State) : (nextBurst s).tp.burst = (s.tp.burst + 1024) % 32768 := by rw [nextBurst, mapTp_tp]

theorem burstBegun_parts (s : State) : (burstBegun s).rtc = s.rtc ∧ (burstBegun s).tp.burst = (s.tp.burst + 1024) % 32768 := by
  obtain ⟨hrtc, hrest⟩ := takeModes_parts (nextBurst s)
  rw [burstBegun, hrtc, of_tpRest hrest (·.burst), nextBurst_burst, nextBurst, mapTp_rtc]
  exact ⟨rfl, rfl⟩

theorem burstBegun_at (s : State) {n : Nat} (hn : n < 8) : srcAt (burstBegun s) n = modeTaken ((s.tp.burst + 1024) % 32768) (srcAt s n) := by
  have hsrc : srcAt (nextBurst s) n = srcAt s n := by rw [srcAt, srcAt, nextBurst, mapTp_tp]
  rw [← nextBurst_burst, ← hsrc, burstBegun, takeModes_at _ hn]

theorem bursts_of_same {s t : State} {n : Nat} (hn : n < 8) (hface : srcFace (srcAt t n) = srcFace (srcAt s n)) (hburst : t.tp.burst = s.tp.burst) :
    bursts t n = bursts s n := by
  have hmode : (srcAt t n).mode = (srcAt s n).mode := congrArg (·.2.1) hface
  have hrate : (srcAt t n).rate = (srcAt s n).rate := congrArg (·.2.2) hface
  have hle : n ≤ 7 := by omega
  rw [bursts, bursts, srcMode, srcMode, if_pos hle, if_pos hle, hmode, hrate, hburst]

theorem execLoopBurst_next (missing : List Nat) (s : State) : ∃ t, exec (.loopBurst missing) s = .next t ∧
    t.tp.burst = (s.tp.burst + 1024) % 32768 ∧ ∀ n, n < 8 →
      (srcAt t n).mode = (if t.tp.burst % burstPeriod (wbits (srcAt s n).cfg 5 4) = 0 then wbits (srcAt s n).cfg 1 0 else (srcAt s n).mode) ∧
      (n ∉ missing → (srcAt t n).cnt = (srcAt s n).cnt ∧ (srcAt t n).sticky = (srcAt s n).sticky) ∧
      (n ∈ missing → bursts t n = true → (srcAt s n).isOpen = false → (srcAt t n).isOpen = true ∧ (srcAt t n).cnt = 1) := by
  obtain ⟨hrtc, hburst⟩ := burstBegun_parts s
  have hx : exec (.loopBurst missing) s = .next (sourceEvents (burstBegun s)
      ((List.range 8).filter fun n => missing.contains n && bursts (burstBegun s) n) false true) := rfl
  have hat {n : Nat} (hn : n < 8) := burstBegun_at s hn
  generalize hu : burstBegun s = u at hx hrtc hburst hat
  have hrest := sourceEvents_rest u ((List.range 8).filter fun n => missing.contains n && bursts u n) false true
  have hface (n : Nat) := sourceEvents_srcFace u ((List.range 8).filter fun n => missing.contains n && bursts u n) false true n
  have htb : (sourceEvents u ((List.range 8).filter fun n => missing.contains n && bursts u n) false true).tp.burst = (s.tp.burst + 1024) % 32768 :=
    (of_tpRest hrest (·.burst)).trans hburst
  refine ⟨_, hx, htb, fun n hn => ⟨?_, fun hmiss => ?_, fun hmiss hb hshut => ?_⟩⟩
  · rw [show (srcAt _ n).mode = (srcAt u n).mode from congrArg (·.2.1) (hface n), htb, hat hn, modeTaken, apply_ite Source.mode]
  · have hother := sourceEvents_other (s := u) (l := (List.range 8).filter fun n => missing.contains n && bursts u n) (n := n)
      (fun hm => hmiss (by simpa using (Bool.and_eq_true_iff.mp (List.mem_filter.mp hm).2).1)) false true
    rw [hother, hat hn, modeTaken]
    split <;> exact ⟨rfl, rfl⟩
  · rw [bursts_of_same hn (hface n) (htb.trans hburst.symm)] at hb
    have hshut' : (srcAt u n).isOpen = false := by
      rw [hat hn, modeTaken, apply_ite Source.isOpen, hshut, ite_self]
    have hon : srcMode u n ≠ 0 := fun h0 => by simp [bursts, h0] at hb
    exact sourceEvents_opens (List.nodup_range.filter _) (List.mem_filter.mpr ⟨List.mem_range.mpr hn, by simp [hmiss, hb]⟩) hon
      (Or.inl (by simp [runsOnCell]; omega)) hshut' false true

/-! ## The static detector and the sources without a pin -/

theorem hasStatic_iff (s : State) (n : Nat) : hasStatic s n = true ↔ srcMode s n = 1 ∨ srcMode s n = 3 := by simp [hasStatic]

theorem isPin_of_lt {n : Nat} (h : n < 8) : isPin n = true := decide_eq_true h

theorem execTamperStaticEvent_of_active {n : Nat} {high : Bool} {s : State} (hn : n < 8) (hmode : srcMode s n = 1 ∨ srcMode s n = 3)
    (hact : activeLevel s n high = true) : ∃ t, exec (.tamperStaticEvent ⟨n, high⟩) s = .next t ∧ Counts n s t ∧ (srcAt t n).active = true := by
  have hx : exec (.tamperStaticEvent ⟨n, high⟩) s =
      .next (sourceEvents (s.setSrc n { srcAt s n with active := true }) [n] true false) :=
    (if_neg (by rw [isPin_of_lt hn]; decide)).trans (if_pos (by rw [(hasStatic_iff s n).mpr hmode, hact]; rfl))
  have hsrc : srcAt (s.setSrc n { srcAt s n with active := true }) n = { srcAt s n with active := true } := srcAt_setSrc ..
  have hon : srcMode (s.setSrc n { srcAt s n with active := true }) n ≠ 0 := by
    rw [srcMode, hsrc]
    intro h0
    rcases hmode with h | h <;> exact absurd (h.symm.trans h0) (by decide)
  have hcount := sourceEvents_counts hon (Or.inl (by simp [runsOnCell]; omega)) true false
  refine ⟨_, hx, counts_of_same hcount hsrc rfl rfl rfl rfl, ?_⟩
  have hface := congrArg (·.1) (sourceEvents_srcFace (s.setSrc n { srcAt s n with active := true }) [n] true false n)
  exact hface.trans (congrArg Source.active hsrc)

theorem execTamperStaticEvent_of_inactive {n : Nat} {high : Bool} {s : State} (hn : n < 8)
    (h : (srcMode s n ≠ 1 ∧ srcMode s n ≠ 3) ∨ activeLevel s n high = false) : exec (.tamperStaticEvent ⟨n, high⟩) s =
      .next (s.setSrc n { srcAt s n with active := false }) := by
  refine (if_neg (by rw [isPin_of_lt hn]; decide)).trans (if_neg fun hc => ?_)
  obtain ⟨hmode, hact⟩ := Bool.and_eq_true_iff.mp hc
  rcases h with ⟨h1, h3⟩ | h
  · exact ((hasStatic_iff s n).mp hmode).elim h1 h3
  · exact absurd (hact.symm.trans h) (by decide)

/-- A die temperature outside its range. -/
def tempOff (s : State) : State := s.mapTp fun t => { t with tempOk := false }

theorem execDieTempSample_out {x : Int} (h : x < -50 ∨ 135 < x) (s : State) :
    exec (.dieTempSample x) s = .next (if s.tp.tempOk then sourceEvent (tempOff s) 10 else tempOff s) := by
  have hout : decide (-50 ≤ x ∧ x ≤ 135) = false := decide_eq_false (by omega)
  simp only [exec, execDieTempSample, hout, Bool.not_false, Bool.true_and]
  rfl

theorem sourceEvent_tempOff_off {s : State} (h : srcMode s 10 = 0) : sourceEvent (tempOff s) 10 = tempOff s :=
  sourceEvents_of_uncounted (s := tempOff s) (Or.inl h) false false

end Sys2Proof.Laws

open Sys2Proof Sys2Proof.Machine Sys2Proof.Laws

/-- Settles O42: an event counts at its own source and declares it when it is the Nth; the other commands move a mark, a window or a mode. -/
theorem tamperSourcesCount : Obligations.TamperSourcesCount := by
  unfold Obligations.TamperSourcesCount
  intro counts
  refine ⟨fun n high s hn hmode hact => execTamperStaticEvent_of_active hn hmode hact, fun n high s hn h => ?_, fun s hon hcell => ?_,
    fun s h => ?_, fun x s hout hok hon => ?_, fun x s hlo hhi => ?_, fun x s hout h => ?_, fun n s hn hopen => ?_, fun n s hn hshut => ?_,
    fun missing s => ?_⟩
  · have hx := execTamperStaticEvent_of_inactive hn h
    exact ⟨_, hx, srcAt_setSrc .., fun k hk => srcAt_setSrc_ne s hk _, by simp⟩
  · exact ⟨_, rfl, sourceEvents_counts hon (Or.inr hcell) false false⟩
  · refine congrArg Host.Outcome.next (sourceEvents_of_uncounted ?_ false false)
    exact h.imp_right fun hcell => ⟨by decide, hcell⟩
  · have hcount : Counts 10 (tempOff s) (sourceEvent (tempOff s) 10) := sourceEvents_counts (s := tempOff s) hon (Or.inl (by decide)) false false
    refine ⟨_, (execDieTempSample_out hout s).trans (congrArg Host.Outcome.next (if_pos hok)), hcount, ?_⟩
    exact of_tpRest (sourceEvents_rest (tempOff s) [10] false false) (·.tempOk)
  · have hin : decide (-50 ≤ x ∧ x ≤ 135) = true := decide_eq_true ⟨hlo, hhi⟩
    simp only [exec, execDieTempSample, hin]
    rfl
  · refine (execDieTempSample_out hout s).trans (congrArg Host.Outcome.next ?_)
    rcases h with h | h
    · exact if_neg (by simp [h])
    · rw [sourceEvent_tempOff_off h, ite_self]
      rfl
  · have hx : exec (.tamperWindowClose n) s = .next (windowEnds s n) :=
      (if_neg (by simpa [isSource] using hn)).trans (congrArg Host.Outcome.next (if_pos hopen))
    refine ⟨_, hx, ?_, ?_, ?_, by simp⟩ <;> rw [windowEnds_at] <;> rfl
  · exact (if_neg (by simpa [isSource] using hn)).trans (congrArg Host.Outcome.next (if_neg (by simp [hshut])))
  · obtain ⟨t, hx, hburst, h⟩ := execLoopBurst_next missing s
    exact ⟨t, hx, hburst, h⟩

namespace Sys2Proof.Laws

open Sys2Proof.Machine

/-! ## The level of SEAL_N and the close of the seal -/

theorem execSealPinChange_bounce (low : Bool) {s : State} (h : s.tp.deb ≠ none) : exec (.sealPinChange low) s =
    .next (sourceEvent (s.mapTp fun x => { x with deb := some low }) 14) := by
  obtain ⟨b, hb⟩ := Option.ne_none_iff_exists'.mp h
  simp only [exec, execSealPinChange, hb]

/-- A level once its debounce is complete. -/
def debounced (s : State) (low : Bool) : State := s.mapTp fun t => { t with deb := none, pin := low }

/-- The rise of SEAL_N, by the state of the seal. -/
def sealRises (s : State) : State :=
  match s.tp.sealSt with
  | 1 => s.mapTp fun t => { t with sealSt := 0, pendcell := false }
  | 2 => sealCloses s
  | _ => s.mapTp fun t => { t with rearm := true }

theorem execSealDebounceComplete_high {s : State} (h : s.tp.deb = some false) :
    exec .sealDebounceComplete s = .next (sealRises (debounced s false)) := by
  simp only [exec, execSealDebounceComplete, h]
  rfl

theorem execSealDebounceComplete_low {s : State} (h : s.tp.deb = some true) : exec .sealDebounceComplete s =
    .next (if s.tp.sealSt = 0 ∧ s.tp.rearm then (debounced s true).mapTp fun t => { t with sealSt := 1, pendcell := s.rtc.onCell }
      else debounced s true) := by
  simp only [exec, execSealDebounceComplete, h]
  rfl

/-- What the refusals at a close of the seal leave alone. -/
def closeView (s : State) : Nat × Pair 32 × Bool × Option OpState × List PrivDue :=
  (s.tp.sealSt, s.tp.sealst, s.sup.sealNow, s.sup.modeReq, s.er.due)

theorem rwlRefuse_closeView (s : State) (a : Nat) (w : Word) : closeView (rwlRefuse s a w) = closeView s := by
  simp only [rwlRefuse]
  repeat' split
  all_goals simp [closeView, clrRefused, reinRefuse, mdRefuse]

theorem dropRwl_closeView (s : State) : closeView (dropRwl s) = closeView s := by
  refine (forEach_keep closeView (fun x r => ?_) s.hp.rwlAcc _).trans rfl
  exact forEach_keep (f := fun s (e : Nat × Word) => rwlRefuse s e.1 e.2) closeView (fun y e => rwlRefuse_closeView ..) r.words x

theorem dropModeReq_closeView (s : State) :
    closeView (dropModeReq s) = (s.tp.sealSt, s.tp.sealst, s.sup.sealNow, none, s.er.due) := by
  rw [dropModeReq]
  split
  · simp [closeView, mdRefuse]
  next h => rw [closeView, Option.not_isSome_iff_eq_none.mp h]

theorem sealCloses_view (s : State) : ∃ e : PrivDue, e.ptype = 0x02 ∧
    closeView (sealCloses s) = (0, sealClosedPair, true, none, s.er.due ++ [e]) := by
  simp only [sealCloses]
  rw [dropRwl_closeView, dropModeReq_closeView]
  simp only [mapSup_tp, mapSup_er, mapSup_sup, slateEvent_tp]
  rw [show (slateEvent _ _ _ _).er.due = _ from intake_due (slateEvent_intake ..)]
  exact ⟨_, rfl, rfl⟩

/-! ## The double decision to open -/

theorem poolNext_tp (s : State) : ∃ n, (poolNext s).2.tp = { s.tp with poolPos := n } := by
  rw [poolNext]
  split
  · exact ⟨_, rfl⟩
  · exact ⟨_, rfl⟩

theorem poolNext_er (s : State) : (poolNext s).2.er = s.er ∧ (poolNext s).2.bl = s.bl ∧ (poolNext s).2.rtc = s.rtc :=
  have h : Only [.tp, .fresh] s (poolNext s).2 := by simp
  ⟨h .er rfl, h .bl rfl, h .rtc rfl⟩

/-- A decision with its outcome shown, before its action. -/
def decShown (s : State) (d : PendDec) (second : Bool) : State :=
  if d.first != second then
    slateEvent (((poolNext s).2.mapTp fun t => { t with ddsts := ddWord d.dec d.first second (poolNext s).1 }).mapTp fun t => { t with dddis := true })
      0xDD 0xFF (some (if d.dec.protecting then 2 else 1))
  else (poolNext s).2.mapTp fun t => { t with ddsts := ddWord d.dec d.first second (poolNext s).1 }

theorem decide2_eq (s : State) (d : PendDec) (second : Bool) : decide2 s d second =
    if d.dec.protecting then decShown s d second
    else if d.first && second then granted (decShown s d second) d.dec
    else refused (release (decShown s d second) d.dec.parts) d.dec := rfl

theorem decShown_tp (s : State) (d : PendDec) (second : Bool) : ∃ n w, (decShown s d second).tp =
    { s.tp with poolPos := n, ddsts := w, dddis := s.tp.dddis || (d.first != second) } := by
  obtain ⟨n, hn⟩ := poolNext_tp s
  rw [decShown]
  cases d.first != second with
  | true =>
    rw [if_pos rfl, slateEvent_tp, mapTp_tp, mapTp_tp, hn, Bool.or_true]
    exact ⟨_, _, rfl⟩
  | false =>
    rw [if_neg (by decide), mapTp_tp, hn, Bool.or_false]
    exact ⟨_, _, rfl⟩

theorem slateEvent_bl (s : State) (code chan : Nat) (v : Option Int) : (slateEvent s code chan v).bl = s.bl :=
  (show Only [.qu, .rtc, .er, .hp] s (slateEvent s code chan v) by simp) .bl rfl

theorem decShown_parts (s : State) (d : PendDec) (second : Bool) : (decShown s d second).er.pres = s.er.pres ∧ (decShown s d second).bl = s.bl := by
  obtain ⟨her, hbl, -⟩ := poolNext_er s
  rw [decShown]
  split
  · have hin := slateEvent_intake (((poolNext s).2.mapTp fun t => { t with ddsts := ddWord d.dec d.first second (poolNext s).1 }).mapTp fun t =>
      { t with dddis := true }) 0xDD 0xFF (some (if d.dec.protecting then 2 else 1))
    exact ⟨(intake_pres hin).trans (by rw [mapTp_er, mapTp_er, her]), by rw [slateEvent_bl, mapTp_bl, mapTp_bl, hbl]⟩
  · exact ⟨by rw [mapTp_er, her], by rw [mapTp_bl, hbl]⟩

theorem sealOpens_opens (s : State) : (sealOpens s).tp = { s.tp with sealSt := 2, sealst := sealOpenPair, sealcnt := satAdd s.tp.sealcnt 1, openAt := s.rtc.edges } ∧
    ∃ e, e ∈ (sealOpens s).er.due ∧ e.ptype = 0x01 := by
  rw [sealOpens]
  dsimp only
  refine ⟨by rw [raise_tp]; rfl, ?_⟩
  rw [raise_er_due]
  exact ⟨_, List.mem_append_right _ (List.mem_singleton_self _), rfl⟩

theorem sealDenied_denies (s : State) (bin : Nat) : (sealDenied s bin).tp = { s.tp with sealSt := 0, rearm := false, deny := true } ∧
    (sealDenied s bin).er.pres = s.er.pres := by
  rw [sealDenied, raise_tp, raise_er_pres]
  exact ⟨rfl, rfl⟩

/-- The decision `d` taken off the pending ones. -/
def decTaken (s : State) (rest : List PendDec) : State := s.mapTp fun t => { t with dd := rest }

theorem execSecondEvaluator_eq {s : State} {d : PendDec} {rest : List PendDec} (h : s.tp.dd = d :: rest) (upset : Bool) :
    exec (.secondEvaluator upset) s =
      if !d.dec.protecting && !serving s then .next s
      else if !d.dec.protecting && !stillAsked (decTaken s rest) d.dec then .next (release (decTaken s rest) d.dec.parts)
      else .next (decide2 (decTaken s rest) d (secondReads (decTaken s rest) d.dec != upset)) := by
  simp only [exec, execSecondEvaluator, h]
  rfl

theorem execSecondEvaluator_sealOpen {s : State} {rest : List PendDec} (h : s.tp.dd = { dec := .sealOpen, first := true } :: rest)
    (hserv : serving s = true) (upset : Bool) : exec (.secondEvaluator upset) s =
      if s.tp.sealSt = 1 then .next (decide2 (decTaken s rest) { dec := .sealOpen, first := true } (s.tp.pin != upset))
      else .next (release (decTaken s rest) 1) := by
  have hd : (PendDec.mk Decision.sealOpen true).dec.protecting = false := by decide
  rw [execSecondEvaluator_eq h, hserv, hd]
  by_cases hst : s.tp.sealSt = 1
  · have hreads : secondReads (decTaken s rest) .sealOpen = s.tp.pin := by simp [secondReads, decTaken, hst]
    have hasked : stillAsked (decTaken s rest) .sealOpen = true := by simp [stillAsked, decTaken, hst]
    rw [if_pos hst, hreads, hasked]
    rfl
  · have hasked : stillAsked (decTaken s rest) .sealOpen = false := by simp [stillAsked, decTaken, hst]
    rw [if_neg hst, hasked]
    rfl

theorem execSecondEvaluator_grants {s : State} {rest : List PendDec} (h : s.tp.dd = { dec := .sealOpen, first := true } :: rest)
    (hserv : serving s = true) (hst : s.tp.sealSt = 1) (hpin : s.tp.pin = true) : ∃ t, exec (.secondEvaluator false) s = .next t ∧
      t.tp.sealSt = 2 ∧ t.sealOpen = true ∧ t.tp.sealcnt = min (s.tp.sealcnt + 1) 0xFFFFFFFF ∧ t.tp.dd = rest ∧
      (∃ e, e ∈ t.er.due ∧ e.ptype = 0x01) := by
  have hx := (execSecondEvaluator_sealOpen h hserv false).trans (if_pos hst)
  rw [hpin] at hx
  obtain ⟨n, w, htp⟩ := decShown_tp (decTaken s rest) { dec := .sealOpen, first := true } true
  obtain ⟨hopen, hdue⟩ := sealOpens_opens (decShown (decTaken s rest) { dec := .sealOpen, first := true } true)
  have hd : decide2 (decTaken s rest) { dec := .sealOpen, first := true } (true != false) =
      sealOpens (decShown (decTaken s rest) { dec := .sealOpen, first := true } true) := rfl
  rw [hd] at hx
  refine ⟨_, hx, by rw [hopen], ?_, ?_, ?_, hdue⟩
  · rw [State.sealOpen, hopen]
    simp
  · rw [hopen, htp]
    rfl
  · rw [hopen, htp]
    rfl

theorem execSecondEvaluator_denies {s : State} {rest : List PendDec} (h : s.tp.dd = { dec := .sealOpen, first := true } :: rest)
    (hserv : serving s = true) (hst : s.tp.sealSt = 1) (hpin : s.tp.pin = true) : ∃ t, exec (.secondEvaluator true) s = .next t ∧
      t.tp.sealSt = 0 ∧ t.tp.deny = true ∧ t.tp.dddis = true ∧ t.sealOpen = false ∧ t.tp.dd = rest ∧ t.er.pres = s.er.pres - 1 := by
  have hx := (execSecondEvaluator_sealOpen h hserv true).trans (if_pos hst)
  rw [hpin] at hx
  obtain ⟨n, w, htp⟩ := decShown_tp (decTaken s rest) { dec := .sealOpen, first := true } false
  have hpres := (decShown_parts (decTaken s rest) { dec := .sealOpen, first := true } false).1
  obtain ⟨hdeny, hden⟩ := sealDenied_denies (release (decShown (decTaken s rest) { dec := .sealOpen, first := true } false) 1) 1
  have hd : decide2 (decTaken s rest) { dec := .sealOpen, first := true } (true != true) =
      sealDenied (release (decShown (decTaken s rest) { dec := .sealOpen, first := true } false) 1) 1 := rfl
  rw [hd] at hx
  have hrel : (release (decShown (decTaken s rest) { dec := .sealOpen, first := true } false) 1).tp =
      (decShown (decTaken s rest) { dec := .sealOpen, first := true } false).tp := rfl
  rw [hrel, htp] at hdeny
  refine ⟨_, hx, by rw [hdeny], by rw [hdeny], ?_, ?_, by rw [hdeny]; rfl, ?_⟩
  · rw [hdeny]
    exact Bool.or_true _
  · rw [State.sealOpen, hdeny]
    rfl
  · rw [hden]
    exact congrArg (· - 1) hpres

theorem execSecondEvaluator_protects {s : State} {d : PendDec} {rest : List PendDec} (h : s.tp.dd = d :: rest) (hprot : d.dec.protecting = true)
    (upset : Bool) : ∃ t, exec (.secondEvaluator upset) s = .next t ∧ t.tp.dd = rest ∧ t.tp.keys = s.tp.keys ∧
      t.tp.locked = s.tp.locked ∧ t.tp.fallbk = s.tp.fallbk ∧ t.bl = s.bl := by
  have hx : exec (.secondEvaluator upset) s =
      .next (decShown (decTaken s rest) d (secondReads (decTaken s rest) d.dec != upset)) := by
    rw [execSecondEvaluator_eq h, decide2_eq, hprot]
    rfl
  obtain ⟨n, w, htp⟩ := decShown_tp (decTaken s rest) d (secondReads (decTaken s rest) d.dec != upset)
  refine ⟨_, hx, ?_, ?_, ?_, ?_, (decShown_parts ..).2⟩ <;> rw [htp] <;> rfl

/-! ## The first evaluation -/

theorem execSealOpenDecision_of_asked {s : State} (hst : s.tp.sealSt = 1) (hcell : s.tp.pendcell = false) (hserv : serving s = true)
    (hdd : (s.tp.dd.any fun d => d.dec == .sealOpen) = false) : exec .sealOpenDecision s =
      if privFull s.er then .next (sealDenied s 2) else .next (pendDec (reserve s 1) .sealOpen true) :=
  if_pos ⟨hst, by simp [hcell], hserv, by simp only [hdd]; decide⟩

theorem execSealOpenDecision_of_unasked {s : State} (h : s.tp.sealSt ≠ 1 ∨ s.tp.pendcell = true ∨ serving s = false ∨
    (s.tp.dd.any fun d => d.dec == .sealOpen) = true) : exec .sealOpenDecision s = .next s :=
  if_neg fun ⟨hst, hcell, hserv, hdd⟩ => by
    rcases h with h | h | h | h
    · exact h hst
    · simp [h] at hcell
    · simp [h] at hserv
    · simp [h] at hdd

end Sys2Proof.Laws

open Sys2Proof Sys2Proof.Machine Sys2Proof.Laws

/-- Settles O40: by the level that has been debounced and the state of the seal; the refusals at a close leave the seal and what is due alone. -/
theorem sealPinMovesTheSeal : Obligations.SealPinMovesTheSeal := by
  unfold Obligations.SealPinMovesTheSeal
  refine ⟨fun low s h => ?_, fun low s h => ?_, fun s h => ?_, fun s h hst hre => ?_, fun s h hno => ?_, fun s h hst => ?_, fun s h hst => ?_,
    fun s h hst => ?_⟩
  · simp only [exec, execSealPinChange, h]
    rfl
  · have hrest := sourceEvents_rest (s.mapTp fun x => { x with deb := some low }) [14] false false
    exact ⟨_, execSealPinChange_bounce low h, of_tpRest hrest (·.deb), of_tpRest hrest (·.sealSt), of_tpRest hrest (·.pin)⟩
  · simp only [exec, execSealDebounceComplete, h]
  · exact (execSealDebounceComplete_low h).trans (congrArg Host.Outcome.next (if_pos ⟨hst, hre⟩))
  · refine (execSealDebounceComplete_low h).trans (congrArg Host.Outcome.next (if_neg fun ⟨hst, hre⟩ => ?_))
    rcases hno with hno | hno
    · simp [hre] at hno
    · exact hno hst
  · rw [execSealDebounceComplete_high h, sealRises, show (debounced s false).tp.sealSt = 1 from hst]
    rfl
  · rw [execSealDebounceComplete_high h, sealRises, show (debounced s false).tp.sealSt = 0 from hst]
    rfl
  · have hx : exec .sealDebounceComplete s = .next (sealCloses (debounced s false)) := by
      rw [execSealDebounceComplete_high h, sealRises, show (debounced s false).tp.sealSt = 2 from hst]
      rfl
    obtain ⟨e, he, hv⟩ := sealCloses_view (debounced s false)
    have hsealSt : (sealCloses (debounced s false)).tp.sealSt = 0 := congrArg (·.1) hv
    have hdue : (sealCloses (debounced s false)).er.due = s.er.due ++ [e] := congrArg (·.2.2.2.2) hv
    refine ⟨_, hx, hsealSt, congrArg (·.2.1) hv, by rw [State.sealOpen, hsealSt]; rfl, congrArg (·.2.2.1) hv, congrArg (·.2.2.2.1) hv, ⟨e, ?_, he⟩,
      exec_within hx (by decide)⟩
    rw [hdue]
    exact List.mem_append_right _ (List.mem_singleton_self e)

/-- Settles O41: the second evaluation shows its outcome first; what follows is the opening, the denial or, for a protecting decision, nothing. -/
theorem sealOpensByTwoEvaluations : Obligations.SealOpensByTwoEvaluations := by
  unfold Obligations.SealOpensByTwoEvaluations
  refine ⟨fun s hst hcell hserv hdd => ⟨fun hfull => ?_, fun hfull => ?_⟩, fun s h => execSealOpenDecision_of_unasked h,
    fun rest s h hserv => ⟨execSecondEvaluator_grants h hserv, execSecondEvaluator_denies h hserv, fun hst upset => ?_⟩,
    fun upset d rest s h => ⟨fun hprot hserv => ?_, fun hprot => execSecondEvaluator_protects h hprot upset⟩, fun upset s h => ?_⟩
  · have hx := (execSealOpenDecision_of_asked hst hcell hserv hdd).trans (if_neg (by simp [hfull]))
    have htp : (reserve s 1).tp = s.tp := (show Only [.er, .hp] s (reserve s 1) by simp) .tp rfl
    exact ⟨_, hx, by rw [pendDec, mapTp_tp, htp], reserve_pres s 1, by simp⟩
  · have hx := (execSealOpenDecision_of_asked hst hcell hserv hdd).trans (if_pos hfull)
    obtain ⟨htp, -⟩ := sealDenied_denies s 2
    exact ⟨_, hx, by rw [htp], by rw [htp], by rw [htp], by simp⟩
  · exact (execSecondEvaluator_sealOpen h hserv upset).trans (if_neg hst)
  · exact (execSecondEvaluator_eq h upset).trans (if_pos (by simp [hprot, hserv]))
  · simp only [exec, execSecondEvaluator, h]

end

section
/-! The records of the recorder and the requests to the legal core (12 R283 to R297, 01 R17, R18). -/

namespace Sys2Proof.Laws

open Sys2Proof.Machine

/-! ## The recorder's own operations -/

theorem storeSum_er (s : State) (m : Summary) : (s.storeSum m).er = storeSummary s.er m := by
  simp only [State.storeSum]
  split
  · rw [irq_er]
    rfl
  · rfl

theorem fullIrq_er (a b : State) : (fullIrq a b).er = b.er := by
  rw [fullIrq, apply_ite State.er, irq_er, ite_self]

theorem fullIrq_legal (a b : State) : (fullIrq a b).hp.legal = b.hp.legal ∧ (fullIrq a b).hp.legalAns = b.hp.legalAns := by
  rw [fullIrq]
  split <;> exact ⟨rfl, rfl⟩

theorem reserve_er (s : State) (n : Nat) : (reserve s n).er = { s.er with pres := s.er.pres + n } := fullIrq_er ..

theorem storeSummary_of_busy {r : Recorder} (h : r.clrbusy = true) (m : Summary) : storeSummary r m = { r with waitS := r.waitS ++ [m] } := if_pos h

theorem storeSummary_of_placed {r : Recorder} {m : Summary} {k : Nat} (h : r.clrbusy = false) (hk : placeOf r m.sev = some k) :
    storeSummary r m = { r with area0 := tset k { m with sseq := r.snext } r.area0, snext := r.snext + 1 } := by
  rw [storeSummary, if_neg (by simp [h])]
  simp only [hk]

theorem storeSummary_of_idle {r : Recorder} (h : r.clrbusy = false) (m : Summary) : (storeSummary r m).clrbusy = false ∧
    (storeSummary r m).waitS = r.waitS ∧ (storeSummary r m).work = r.work := by
  rw [storeSummary, if_neg (by simp [h])]
  split <;> exact ⟨h, rfl, rfl⟩

theorem storeSummary_work (r : Recorder) (m : Summary) : (storeSummary r m).work = r.work := by
  cases h : r.clrbusy with
  | true => rw [storeSummary_of_busy h]
  | false => exact (storeSummary_of_idle h m).2.2

/-! ## The end of a summary's window -/

theorem execSummaryWindowClose_of_key {code chan i : Nat} {m : Summary} {s : State} (hkey : keyIx s.er.work code chan = some i)
    (hm : s.er.work[i]? = some m) : exec (.summaryWindowClose code chan) s =
      if s.powered && windowPast s.er m then .next ((s.mapEr fun r => { r with work := r.work.eraseIdx i }).storeSum m) else .next s := by
  have hclose : closeAt s i id = (s.mapEr fun r => { r with work := r.work.eraseIdx i }).storeSum m := by
    simp only [closeAt, hm, id]
  rw [← hclose]
  simp only [exec, execSummaryWindowClose, hkey, hm]

theorem execSummaryWindowClose_next {code chan i : Nat} {m : Summary} {s : State} (hkey : keyIx s.er.work code chan = some i)
    (hm : s.er.work[i]? = some m) (hpow : s.powered = true) (hpast : m.fops + agwOf s.er m.sev ≤ s.er.ops) :
    ∃ t, exec (.summaryWindowClose code chan) s = .next t ∧ t.er.work = s.er.work.eraseIdx i ∧
    (s.er.clrbusy = true → t.er.waitS = s.er.waitS ++ [m] ∧ t.er.area0 = s.er.area0) ∧
    (s.er.clrbusy = false → ∀ k, placeOf s.er m.sev = some k →
      (∀ d, tget d k t.er.area0 = { m with sseq := s.er.snext }) ∧ t.er.snext = s.er.snext + 1) ∧ Only [.er, .hp] s t := by
  have hx := (execSummaryWindowClose_of_key hkey hm).trans (if_pos (by rw [hpow, windowPast, decide_eq_true hpast]; rfl))
  refine ⟨_, hx, ?_, fun hbusy => ?_, fun hidle k hk => ?_, by simp⟩ <;> rw [storeSum_er]
  · rw [storeSummary_work]
    rfl
  · rw [storeSummary_of_busy (by exact hbusy)]
    exact ⟨rfl, rfl⟩
  · rw [storeSummary_of_placed (k := k) (by exact hidle) (by exact hk)]
    exact ⟨fun d => tget_tset_self .., rfl⟩

theorem execSummaryWindowClose_of_none {code chan : Nat} {s : State} (h : keyIx s.er.work code chan = none) :
    exec (.summaryWindowClose code chan) s = .next s := by
  simp only [exec, execSummaryWindowClose, h]

/-! ## Tokens -/

/-- A bucket at its refill instant. -/
def refilled (b : Bucket) : Bucket := { b with tokens := min b.burst (b.tokens + 1), next := b.next + b.period * 16 }

theorem execTokenRefill_next {code : Nat} {b : Bucket} {s : State} (hb : tget (bucketReset code) code s.er.rl = b) (hper : b.period ≠ 0)
    (hnext : b.next ≤ s.sup.startTicks) : ∃ t, exec (.tokenRefill code) s = .next t ∧ Only [.er] s t ∧
      tget (bucketReset code) code t.er.rl = { b with tokens := min b.burst (b.tokens + 1), next := b.next + b.period * 16 } ∧
      ∀ k d, k ≠ code → tget d k t.er.rl = tget d k s.er.rl := by
  subst hb
  have hx : exec (.tokenRefill code) s = .next (s.setBucket code (refilled (tget (bucketReset code) code s.er.rl))) := if_pos ⟨hper, hnext⟩
  exact ⟨_, hx, by simp, tget_tset_self .., fun k d hk => tget_tset_ne _ _ hk _⟩

theorem execTokenRefill_of_not_due {code : Nat} {s : State} (h : (tget (bucketReset code) code s.er.rl).period = 0 ∨
    s.sup.startTicks < (tget (bucketReset code) code s.er.rl).next) : exec (.tokenRefill code) s = .next s :=
  if_neg fun ⟨hper, hnext⟩ => h.elim hper (Nat.not_lt.mpr hnext)

/-! ## Privileged entries -/

theorem writeEntry_er (s : State) (e : PrivDue) : (writeEntry s e).er =
    { s.er with parts := (Machine.partsOf s e).foldl (fun t p => tset (p.seq % 4096) p t) s.er.parts, pseq := s.er.pseq + e.parts,
                pres := if e.refusable then s.er.pres - e.parts else s.er.pres } := fullIrq_er ..

theorem countLost_er (s : State) (e : PrivDue) : (countLost s e).er.plostN = (if e.lost then s.er.plostN else satAdd s.er.plostN e.parts) ∧
    (countLost s e).er.pseq = s.er.pseq ∧ (countLost s e).er.parts = s.er.parts := by
  simp only [countLost]
  cases e.lost with
  | true => exact ⟨rfl, rfl, rfl⟩
  | false =>
    simp only [Bool.false_eq_true, if_false]
    split
    · exact ⟨rfl, rfl, rfl⟩
    · rw [irq_er]
      exact ⟨rfl, rfl, rfl⟩

theorem writeFirst_of_writable {s : State} {e : PrivDue} (rest : List PrivDue) (h : writable s.er e = true) :
    writeFirst [] (e :: rest) s = writeEntry (s.mapEr fun r => { r with due := rest }) e := if_pos h

theorem writeFirst_of_alone {s : State} {e : PrivDue} (h : writable s.er e = false) :
    writeFirst [] [e] s = (countLost s e).mapEr fun r => { r with due := [{ e with lost := true }] } := if_neg (by simp [h])

theorem execPrivilegedEntryWrite_next {e : PrivDue} {rest : List PrivDue} {s : State} (hdue : s.er.due = e :: rest) (hpow : s.powered = true)
    (hw : writable s.er e = true) : ∃ t, exec .privilegedEntryWrite s = .next t ∧ t.er.due = rest ∧ t.er.pseq = s.er.pseq + e.parts ∧
    t.er.pres = (if e.refusable = true then s.er.pres - e.parts else s.er.pres) ∧ t.er.wm = s.er.wm ∧ Only [.er, .hp] s t ∧
    (e.parts = 1 → ∃ p : PrivPart, (∀ d, tget d (s.er.pseq % 4096) t.er.parts = p) ∧ p.seq = s.er.pseq ∧ p.ptype = e.ptype ∧ p.count = 1 ∧
      p.frame = s.tb.frame ∧ ∀ (d : PrivPart) k, k ≠ s.er.pseq % 4096 → tget d k t.er.parts = tget d k s.er.parts) := by
  have hx : exec .privilegedEntryWrite s = .next (writeEntry (s.mapEr fun r => { r with due := rest }) e) := by
    rw [← writeFirst_of_writable rest hw, ← hdue]
    exact congrArg Host.Outcome.next (if_pos hpow)
  have her := writeEntry_er (s.mapEr fun r => { r with due := rest }) e
  refine ⟨_, hx, by rw [her]; rfl, by rw [her]; rfl, by rw [her]; rfl, by rw [her]; rfl, by simp, fun hone => ?_⟩
  obtain ⟨p, hp, hseq, htype, hcount, hframe⟩ : ∃ p : PrivPart, Machine.partsOf (s.mapEr fun r => { r with due := rest }) e = [p] ∧
      p.seq = s.er.pseq ∧ p.ptype = e.ptype ∧ p.count = 1 ∧ p.frame = s.tb.frame := by
    rw [Machine.partsOf, hone]
    exact ⟨_, rfl, rfl, rfl, rfl, rfl⟩
  rw [hp] at her
  refine ⟨p, fun d => ?_, hseq, htype, hcount, hframe, fun d k hk => ?_⟩ <;>
    rw [her] <;> simp only [List.foldl_cons, List.foldl_nil, hseq]
  · exact tget_tset_self ..
  · exact tget_tset_ne _ _ hk _

end Sys2Proof.Laws

open Sys2Proof Sys2Proof.Machine Sys2Proof.Laws

/-- Settles O43: a summary's window, a bucket and the head of the due entries, each by the condition under which it moves. -/
theorem recordsAreWritten : Obligations.RecordsAreWritten := by
  unfold Obligations.RecordsAreWritten
  refine ⟨⟨fun code chan i m s hkey hm hpow hpast => execSummaryWindowClose_next hkey hm hpow hpast, fun code chan i m s hkey hm h => ?_,
    fun code chan s h => execSummaryWindowClose_of_none h,
    fun code b s hb => ⟨fun hper hnext => execTokenRefill_next hb hper hnext, fun h => execTokenRefill_of_not_due (by rwa [hb])⟩⟩,
    fun e rest s hdue hpow hw => execPrivilegedEntryWrite_next hdue hpow hw, fun e s hdue hpow hw => ?_, fun s h => ?_⟩
  · refine (execSummaryWindowClose_of_key hkey hm).trans (if_neg ?_)
    rcases h with h | h
    · simp [windowPast, h]
    · simp [h]
  · have hx : exec .privilegedEntryWrite s = .next ((countLost s e).mapEr fun r => { r with due := [{ e with lost := true }] }) := by
      rw [← writeFirst_of_alone hw, ← hdue]
      exact congrArg Host.Outcome.next (if_pos hpow)
    obtain ⟨hlost, hseq, hparts⟩ := countLost_er s e
    exact ⟨_, hx, rfl, hseq, hparts, hlost, by simp⟩
  · rcases h with h | h
    · have hnone : writeFirst [] s.er.due s = s := by rw [h]; rfl
      refine congrArg Host.Outcome.next ?_
      rw [hnone, ite_self]
    · exact congrArg Host.Outcome.next (if_neg (by simp [h]))

namespace Sys2Proof.Laws

open Sys2Proof.Machine

/-! ## The requests and the cursor -/

theorem execErpack_of_asker {req : Requester} (h : req = .host ∨ req = .app) (a d0 d1 : Option Word) (s : State) : exec (.erpack req a d0 d1) s =
    .next (if serving s then s.mapHp fun h => { h with legal := h.legal ++ [.ack req a d0 d1] } else s) := by
  rcases h with rfl | rfl <;> rfl

theorem execErsclr_of_asker {req : Requester} (h : req = .host ∨ req = .app) (s : State) : exec (.ersclr req) s =
    .next (if serving s then s.mapHp fun h => { h with legal := h.legal ++ [.clear req] } else s) := by
  rcases h with rfl | rfl <;> rfl

theorem execErpack_of_not_serving {s : State} (h : serving s = false) (req : Requester) (a d0 d1 : Option Word) :
    exec (.erpack req a d0 d1) s = .next s ∧ exec (.ersclr req) s = .next s := by
  have hask (x : State) : (if serving s then x else s) = s := if_neg (by simp [h])
  cases req with
  | host | app => exact ⟨congrArg Host.Outcome.next (hask _), congrArg Host.Outcome.next (hask _)⟩
  | legal | chain => exact ⟨rfl, rfl⟩

/-- The summaries that wait, written after the clear pass. -/
theorem storeAll_of_idle (l : List Summary) {s : State} (h : s.er.clrbusy = false ∧ s.er.waitS = []) :
    (forEach l (fun s m => s.storeSum m) s).er.clrbusy = false ∧ (forEach l (fun s m => s.storeSum m) s).er.waitS = [] ∧
    (forEach l (fun s m => s.storeSum m) s).er.work = s.er.work := by
  have hkeep := forEach_preserves (f := fun s m => s.storeSum m) (fun x => x.er.clrbusy = false ∧ x.er.waitS = [] ∧ x.er.work = s.er.work)
    (fun x m hx => ?_) l ⟨h.1, h.2, rfl⟩
  · exact hkeep
  · obtain ⟨hidle, hwait, hwork⟩ := hx
    obtain ⟨h1, h2, h3⟩ := storeSummary_of_idle hidle m
    rw [storeSum_er]
    exact ⟨h1, h2.trans hwait, h3.trans hwork⟩

theorem cursorMove_of_area {r : Recorder} {lim : Nat} (h : areaLimit r = some lim) :
    (r.mode = 1 → cursorMove r = if r.cidx + 1 ≤ lim then { r with cidx := r.cidx + 1 } else { r with atEnd := true }) ∧
    (r.mode = 2 → cursorMove r = (nextValid r).elim { r with atEnd := true } fun i => { r with cidx := i }) := by
  refine ⟨fun hm => ?_, fun hm => ?_⟩
  · simp only [cursorMove, h, hm]
  · simp only [cursorMove, h, hm]
    cases nextValid r <;> rfl

theorem areaLimit_of_none {r : Recorder} (h : 2 < r.area) : areaLimit r = none := by
  rw [areaLimit]
  split
  · omega
  · omega
  · omega
  · rfl

theorem cursorMove_of_still {r : Recorder} (h : r.mode = 0 ∨ 2 < r.area) : cursorMove r = r := by
  rcases h with h | h
  · rw [cursorMove]
    cases areaLimit r with
    | none => rfl
    | some lim => simp only [h]
  · simp only [cursorMove, areaLimit_of_none h]

/-! ## The legal core's answers -/

/-- The 32 youngest of a list end with its last one. -/
theorem getLast?_youngest {α : Type} (l : List α) (x : α) : (((l ++ [x]).reverse.take 32).reverse).getLast? = some x := by simp

/-- The legal core answers a request: it leaves the queue, and its answer stands last. -/
theorem execLegalRequest_of_request {s : State} {r : LegalReq} {rest : List LegalReq} (hserv : serving s = true) (hl : s.hp.legal = r :: rest) :
    exec .legalRequest s = .next (noteAnswer r (legalOk s r) (answerLegal (s.mapHp fun h => { h with legal := rest }) r)) := by
  simp only [exec, execLegalRequest, hl]
  exact congrArg Host.Outcome.next (if_pos hserv)

theorem noteAnswer_last (r : LegalReq) (ok : Bool) (s : State) :
    (noteAnswer r ok s).hp.legalAns.getLast? = some { req := (legalKind r).1, kind := (legalKind r).2, done := ok } := getLast?_youngest ..

theorem noteAnswer_legal (r : LegalReq) (ok : Bool) (s : State) : (noteAnswer r ok s).hp.legal = s.hp.legal := rfl

/-- The request off the queue. -/
def requestTaken (s : State) (rest : List LegalReq) : State := s.mapHp fun h => { h with legal := rest }

theorem execLegalRequest_next {s : State} {r : LegalReq} {rest : List LegalReq} (hserv : serving s = true) (hl : s.hp.legal = r :: rest) {x : State}
    {ok : Bool} (hans : answerLegal (requestTaken s rest) r = x) (hok : legalOk s r = ok) : exec .legalRequest s = .next (noteAnswer r ok x) ∧
      (noteAnswer r ok x).hp.legalAns.getLast? = some { req := (legalKind r).1, kind := (legalKind r).2, done := ok } := by
  subst hans hok
  exact ⟨execLegalRequest_of_request hserv hl, noteAnswer_last ..⟩

theorem answerLegal_ack (s : State) (req : Requester) (a d0 d1 : Word) (rest : List LegalReq) :
    answerLegal (requestTaken s rest) (.ack req (some a) (some d0) (some d1)) = if ackOk s.er a d0 d1 then
      privDue ((requestTaken s rest).mapEr fun r => { r with wm := a.toNat }) 0x0E (leBytes 4 s.er.wm ++ leBytes 4 a.toNat ++ leBytes 1 (reqNum req))
    else (requestTaken s rest).mapEr fun r => { r with ackref := true } := rfl

/-- A clear that is not answered. -/
def clearRefused (s : State) : State := (newChallenge s).mapEr fun r => { r with clrref := true }

/-- A clear that starts the pass. -/
def clearStarted (s : State) (req : Requester) : State :=
  let x := reserve (newChallenge s) 1
  let l := x.er.area0.filter (·.2.ok)
  (privDue x 0x0D (leBytes 1 (reqNum req) ++ leBytes 1 (if s.sealOpen then 0 else 1) ++ leBytes 2 0 ++ leBytes 4 l.length ++
    leBytes 4 (highestSseq l).toNat)).mapEr fun r => { r with clrbusy := true, clrPos := 0 }

theorem answerLegal_clear (s : State) (req : Requester) (rest : List LegalReq) : answerLegal (requestTaken s rest) (.clear req) =
    if monitorRuns s then clearRefused (requestTaken s rest)
    else if clearOk s then clearStarted (requestTaken s rest) req else clearRefused (requestTaken s rest) := rfl

theorem legalOk_clear (s : State) (req : Requester) : legalOk s (.clear req) = (!monitorRuns s && clearOk s) := rfl

theorem clearStarted_parts (s : State) (req : Requester) : (clearStarted s req).hp.legal = s.hp.legal ∧ (clearStarted s req).er.clrbusy = true ∧
    (clearStarted s req).er.clrPos = 0 ∧ ∃ e, e ∈ (clearStarted s req).er.due ∧ e.ptype = 0x0D :=
  ⟨(fullIrq_legal ..).1, rfl, rfl, _, List.mem_append_right _ (List.mem_singleton_self _), rfl⟩

theorem answerClose_of_ok {s : State} {w : Word} (h : closeOk s w = true) : answerClose s w = s.mapBl fun b => { b with cmdDue := some w } := by
  have hand := h
  simp only [closeOk, Bool.and_eq_true, Option.isNone_iff_eq_none] at hand
  obtain ⟨⟨⟨h8, hreason⟩, -⟩, -⟩ := hand
  simp only [answerClose, h8, hreason, h, Bool.not_true, Bool.false_eq_true, if_false, if_true]

theorem answerClose_of_refused {s : State} {w : Word} (h8 : wbit w 8 = true) (h : closeOk s w = false) :
    ∃ v, answerClose s w = raise (s.mapBl fun b => { b with cref := true }) 0xA2 0xFF v := by
  rw [answerClose, if_neg (by simp [h8])]
  split
  · exact ⟨_, rfl⟩
  · exact ⟨none, if_neg (by simp [h])⟩

theorem answerLegal_close {s : State} (h : monitorRuns s = false) (req : Requester) (w : Word) (rest : List LegalReq) :
    answerLegal (requestTaken s rest) (.close req w) = answerClose (requestTaken s rest) w ∧ legalOk s (.close req w) = closeOk s w := by
  have hm : monitorRuns (requestTaken s rest) = false := h
  refine ⟨if_neg (by simp [hm]), ?_⟩
  rw [show legalOk s (.close req w) = (!monitorRuns s && closeOk s w) from rfl, h]
  rfl

end Sys2Proof.Laws

open Sys2Proof Sys2Proof.Machine Sys2Proof.Laws

/-- Settles O44: every answer is the request's own state change with its mark on the queue of answers. -/
theorem recorderRequestsAreAnswered : Obligations.RecorderRequestsAreAnswered := by
  unfold Obligations.RecorderRequestsAreAnswered
  refine ⟨⟨fun req a d0 d1 s h hserv => ?_, fun req a d0 d1 s h => ?_, fun s hpow hbusy hpos => ?_, fun s h => ?_,
    fun req lim s hserv hlim => ?_, fun req s h => ?_⟩,
    fun req a d0 d1 rest s hserv hl => ⟨fun hok => ?_, fun hok => ?_⟩,
    fun req rest s hserv hl => ⟨fun h => ?_, fun hmon hfull hauth => ?_⟩,
    fun req w rest s hserv hl hmon => ⟨fun hok => ?_, fun h8 hok => ?_⟩, fun s h => ?_⟩
  · rw [execErpack_of_asker h, execErsclr_of_asker h, if_pos hserv, if_pos hserv]
    exact ⟨rfl, rfl⟩
  · rcases h with rfl | rfl | h
    · exact ⟨rfl, rfl⟩
    · exact ⟨rfl, rfl⟩
    · exact execErpack_of_not_serving h req a d0 d1
  · have hx : exec .summaryClearPassEnd s = .next (forEach s.er.waitS (fun s m => s.storeSum m) (s.mapEr fun r =>
      { r with clrbusy := false, waitS := [] })) := if_pos ⟨hpow, hbusy, hpos⟩
    obtain ⟨h1, h2, h3⟩ := storeAll_of_idle s.er.waitS (s := s.mapEr fun r => { r with clrbusy := false, waitS := [] }) ⟨rfl, rfl⟩
    exact ⟨_, hx, h1, h2, h3, by simp⟩
  · refine if_neg fun ⟨hpow, hbusy, hpos⟩ => ?_
    rcases h with h | h | h
    · simp [hpow] at h
    · simp [hbusy] at h
    · omega
  · obtain ⟨h1, h2⟩ := cursorMove_of_area hlim
    have hx : exec (.erwin15Read req) s = .next (s.mapEr cursorMove) := congrArg Host.Outcome.next (if_pos hserv)
    rw [hx, State.mapEr]
    refine ⟨fun hm hle => ?_, fun hm hlt => ?_, fun i hm hi => ?_, fun hm hi => ?_⟩
    · rw [h1 hm, if_pos hle]
    · rw [h1 hm, if_neg (by omega)]
    · rw [h2 hm, hi]
      rfl
    · rw [h2 hm, hi]
      rfl
  · refine congrArg Host.Outcome.next ?_
    by_cases hserv : serving s = true
    · rw [if_pos hserv, State.mapEr, cursorMove_of_still]
      exact h.imp_right fun h => h.resolve_right (by simp [hserv])
    · exact if_neg hserv
  · obtain ⟨hx, hlast⟩ := execLegalRequest_next hserv hl ((answerLegal_ack ..).trans (if_pos hok)) hok
    exact ⟨_, hx, rfl, rfl, ⟨_, List.mem_append_right _ (List.mem_singleton_self _), rfl⟩, hlast, by simp [noteAnswer, requestTaken]⟩
  · obtain ⟨hx, hlast⟩ := execLegalRequest_next hserv hl ((answerLegal_ack ..).trans (if_neg (by simp [hok]))) hok
    exact ⟨_, hx, rfl, rfl, hlast, by simp [noteAnswer, requestTaken]⟩
  · have hno : legalOk s (.clear req) = false := by
      rw [legalOk_clear, clearOk]
      rcases h with h | h | ⟨h1, h2⟩ <;> simp [*]
    have hans : answerLegal (requestTaken s rest) (.clear req) = clearRefused (requestTaken s rest) := by
      rw [answerLegal_clear]
      split
      · rfl
      next hmon => exact if_neg fun hok => by simp [legalOk_clear, hmon, hok] at hno
    obtain ⟨hx, hlast⟩ := execLegalRequest_next hserv hl hans hno
    exact ⟨_, hx, rfl, rfl, rfl, rfl, hlast⟩
  · have hok : clearOk s = true := by
      rw [clearOk, hfull]
      rcases hauth with h | h <;> simp [h]
    have hans : answerLegal (requestTaken s rest) (.clear req) = clearStarted (requestTaken s rest) req := by
      rw [answerLegal_clear, if_neg (by simp [hmon]), if_pos hok]
    obtain ⟨hx, hlast⟩ := execLegalRequest_next hserv hl hans (by rw [legalOk_clear, hmon, hok, Bool.not_false, Bool.and_self])
    obtain ⟨h1, h2, h3, h4⟩ := clearStarted_parts (requestTaken s rest) req
    exact ⟨_, hx, h1, h2, h3, h4, hlast⟩
  · obtain ⟨hans, hleg⟩ := answerLegal_close hmon req w rest
    have hclose : closeOk (requestTaken s rest) w = true := hok
    obtain ⟨hx, hlast⟩ := execLegalRequest_next hserv hl (hans.trans (answerClose_of_ok hclose)) (hleg.trans hok)
    exact ⟨_, hx, rfl, rfl, hlast⟩
  · obtain ⟨hans, hleg⟩ := answerLegal_close hmon req w rest
    obtain ⟨v, hv⟩ := answerClose_of_refused (s := requestTaken s rest) h8 hok
    obtain ⟨hx, hlast⟩ := execLegalRequest_next hserv hl (hans.trans hv) (hleg.trans hok)
    refine ⟨_, hx, ?_, ?_, hlast⟩
    · exact raise_hp_legal ..
    · exact raise_bl ..
  · rcases h with h | h
    · cases hl : s.hp.legal with
      | nil => simp only [exec, execLegalRequest, hl]
      | cons r rest =>
        simp only [exec, execLegalRequest, hl]
        exact congrArg Host.Outcome.next (if_neg (by simp [h]))
    · simp only [exec, execLegalRequest, h]

end

section
/-! The display: rails, drive and scroll (13 R300 to R323). -/

namespace Sys2Proof.Laws

open Sys2Proof.Machine

/-! ## What the drive of the segments leaves of the display -/

/-- The display beside its segments, its regions, the temperature, the rebalance, the deferral and the frontlight. -/
def dpFace (d : Display) : Display :=
  { d with seg := [], rgn := [], sfault := false, temp := 0, band := 0, rebal := false, rebSaved := [], rebSteps := 0, rebKind := true,
           defer := false, deferTicks := 0, lit := false, firstDraw := false }

/-- A register of the display that the drive leaves alone is the same where the rest is. -/
theorem of_dpFace {α : Type} {p q : Display} (h : dpFace p = dpFace q) (f : Display → α) (hf : ∀ d, f (dpFace d) = f d := by intro; rfl) :
    f p = f q := by rw [← hf p, h, hf q]

/-- The display's part beside what the drive changes. -/
def dispFace (s : State) : Display := dpFace s.dp

@[simp] theorem dispFace_forEach {α : Type} (l : List α) (f : State → α → State) (h : ∀ x a, dispFace (f x a) = dispFace x) (s : State) :
    dispFace (forEach l f s) = dispFace s := forEach_keep dispFace h l s

@[simp] theorem dispFace_ite {c : Prop} [Decidable c] (x y : State) : dispFace (if c then x else y) = if c then dispFace x else dispFace y :=
  apply_ite dispFace c x y

@[simp] theorem dispFace_raise (s : State) (code chan : Nat) (v : Option Int) : dispFace (raise s code chan v) = dispFace s := by
  rw [dispFace, raise_dp, dispFace]

@[simp] theorem dispFace_endSample (s : State) (code chan : Nat) (v : Int) : dispFace (endSample s code chan v) = dispFace s := by
  rw [dispFace, endSample_dp, dispFace]

-- `id rfl`: by `rfl` itself the lemma would rewrite under a fold by definitional unfolding, and the fold's side condition would get no proof.
@[simp] theorem dispFace_setSeg (s : State) (n : Nat) (x : Segment) : dispFace (s.setSeg n x) = dispFace s := id rfl

@[simp] theorem dispFace_setRgn (s : State) (r : Nat) (x : Region) : dispFace (s.setRgn r x) = dispFace s := id rfl

@[simp] theorem dispFace_closeJournal (s : State) (r : Nat) : dispFace (closeJournal s r) = dispFace s := id rfl

@[simp] theorem dispFace_addCharge (s : State) (n : Nat) (c : Int) : dispFace (addCharge s n c) = dispFace s := by
  simp [addCharge]

@[simp] theorem dispFace_chargeOpen (s : State) (r : Nat) : dispFace (chargeOpen s r) = dispFace s := by
  refine dispFace_forEach _ _ (fun x n => ?_) s
  dsimp only
  split <;> simp

@[simp] theorem dispFace_startPhase (s : State) (r i : Nat) : dispFace (startPhase s r i) = dispFace s := id rfl

@[simp] theorem dispFace_updateTemp (s : State) : dispFace (updateTemp s) = dispFace s := by
  simp only [updateTemp]
  split <;> rfl

@[simp] theorem dispFace_startClear (s : State) (r part : Nat) : dispFace (startClear s r part) = dispFace s := by
  simp [startClear]

theorem dispFace_journalCheck (s : State) : dispFace (journalCheck s) = dispFace s := by
  simp [journalCheck]

/-! ## The stages of a step boundary -/

@[simp] theorem dispFace_stopWaves (s : State) (r : Nat) : dispFace (stopWaves s r) = dispFace s := by simp [stopWaves]

@[simp] theorem dispFace_takeWaves (s : State) (r : Nat) (t : BitVec 24) : dispFace (takeWaves s r t) = dispFace s := by simp [takeWaves]

@[simp] theorem dispFace_request (s : State) (r : Nat) (t : BitVec 24) : dispFace (request s r t) = dispFace s := by
  simp only [request]
  split <;> simp

@[simp] theorem dispFace_endClear (s : State) (r : Nat) : dispFace (endClear s r) = dispFace s := by
  simp only [endClear]
  split <;> simp

@[simp] theorem dispFace_startUpdate (s : State) (r : Nat) : dispFace (startUpdate s r) = dispFace s := by simp [startUpdate]

@[simp] theorem dispFace_segPhaseEnd (r i : Nat) (s : State) (n : Nat) : dispFace (segPhaseEnd r i s n) = dispFace s := by
  simp only [segPhaseEnd]
  split
  · rfl
  · split <;> simp

@[simp] theorem dispFace_phaseEnd (s : State) (r : Nat) : dispFace (phaseEnd s r) = dispFace s := by
  simp only [phaseEnd, dispFace_ite]
  split
  · simp
  · split <;> simp

@[simp] theorem dispFace_regionStep (s : State) (r : Nat) : dispFace (regionStep s r) = dispFace s := by simp [regionStep]

@[simp] theorem dispFace_faultCharges (s : State) : dispFace (faultCharges s) = dispFace s := by simp [faultCharges]

theorem dispFace_mapDp (s : State) (f : Display → Display) (h : ∀ d, dpFace (f d) = dpFace d) : dispFace (s.mapDp f) = dispFace s := h s.dp

@[simp] theorem dispFace_outputCheck (missed : List Nat) (s : State) (n : Nat) : dispFace (outputCheck missed s n) = dispFace s := by
  have hfault (x : State) : dispFace (x.mapDp fun d => { d with sfault := true }) = dispFace x := rfl
  simp [outputCheck, hfault]

@[simp] theorem dispFace_rebEnd (s : State) : dispFace (rebEnd s) = dispFace s := (dispFace_raise ..).trans rfl

@[simp] theorem dispFace_rebStepDone (s : State) : dispFace (rebStepDone s) = dispFace s := by
  have hstep (x : State) : dispFace (x.mapDp fun d => { d with rebSteps := d.rebSteps + 1 }) = dispFace x := rfl
  simp only [rebStepDone, hstep]
  exact dispFace_forEach _ _ (fun x n => dispFace_addCharge ..) s

@[simp] theorem dispFace_rebBoundary (s : State) : dispFace (rebBoundary s) = dispFace s := by
  have hkind (x : State) (b : Bool) : dispFace (x.mapDp fun d => { d with rebKind := b }) = dispFace x := rfl
  simp only [rebBoundary, dispFace_ite, dispFace_rebEnd, dispFace_rebStepDone]
  split
  · rfl
  · split
    · rfl
    · exact dispFace_rebStepDone s

@[simp] theorem dispFace_clearsEnded (was : Bool) (s : State) : dispFace (clearsEnded was s) = dispFace s := by
  rw [clearsEnded]
  split <;> rfl

@[simp] theorem dispFace_deferCheck (s : State) : dispFace (deferCheck s) = dispFace s := by
  simp only [deferCheck]
  split
  · split
    · rfl
    · exact (dispFace_raise ..).trans rfl
  · split
    · exact (dispFace_endSample ..).trans rfl
    · rfl

@[simp] theorem dispFace_rebStart (s : State) : dispFace (rebStart s) = dispFace s := by
  simp only [rebStart]
  split <;> rfl

@[simp] theorem dispFace_startAll (s : State) : dispFace (startAll s) = dispFace s := by
  simp only [startAll]
  split
  · refine (dispFace_forEach _ _ (fun x r => ?_) _).trans ?_ <;> simp
  · rfl

/-- A step boundary up to the profile. -/
def stepped (s : State) (missed : List Nat) : State :=
  clearsEnded (clearing s) (forEach regions regionStep (rebBoundary (forEach allSegs (outputCheck missed) (faultCharges s))))

theorem dispFace_stepped (s : State) (missed : List Nat) : dispFace (stepped s missed) = dispFace s := by simp [stepped]

theorem stepBoundary_eq (s : State) (missed : List Nat) :
    stepBoundary s missed = rebStart (startAll (deferCheck (downBoundary (takeProfile (stepped s missed))))) := rfl

theorem takeProfile_drive (s : State) : (takeProfile s).dp.grid = s.dp.grid ∧
    (((takeProfile s).dp.profile = s.dp.profile ∧ (takeProfile s).dp.profNext = s.dp.profNext) ∨
      (some (takeProfile s).dp.profile = s.dp.profNext ∧ (takeProfile s).dp.profNext = none)) := by
  rw [takeProfile]
  split
  next b hb =>
    split
    · exact ⟨rfl, Or.inr ⟨hb.symm, rfl⟩⟩
    · exact ⟨rfl, Or.inl ⟨rfl, rfl⟩⟩
  · exact ⟨rfl, Or.inl ⟨rfl, rfl⟩⟩

theorem downBoundary_drive (s : State) : ((downBoundary s).dp.grid = s.dp.grid ∨ (downBoundary s).dp.grid = none) ∧
    (downBoundary s).dp.profile = s.dp.profile ∧ (downBoundary s).dp.profNext = s.dp.profNext := by
  simp only [downBoundary]
  split
  · have hreb : dispFace (if s.dp.rebal then rebEnd s else s) = dispFace s := by simp
    exact ⟨Or.inr rfl, of_dpFace hreb (·.profile), of_dpFace hreb (·.profNext)⟩
  · exact ⟨Or.inl rfl, rfl, rfl⟩

theorem stepBoundary_drive (s : State) (missed : List Nat) :
    ((stepBoundary s missed).dp.grid = s.dp.grid ∨ (stepBoundary s missed).dp.grid = none) ∧
    (((stepBoundary s missed).dp.profile = s.dp.profile ∧ (stepBoundary s missed).dp.profNext = s.dp.profNext) ∨
      (some (stepBoundary s missed).dp.profile = s.dp.profNext ∧ (stepBoundary s missed).dp.profNext = none)) := by
  have hend : dispFace (stepBoundary s missed) = dispFace (downBoundary (takeProfile (stepped s missed))) := by rw [stepBoundary_eq]; simp
  have hstep := dispFace_stepped s missed
  obtain ⟨hgrid, hprof⟩ := takeProfile_drive (stepped s missed)
  obtain ⟨hdown, hkeepP, hkeepN⟩ := downBoundary_drive (takeProfile (stepped s missed))
  rw [hgrid, of_dpFace hstep (·.grid)] at hdown
  rw [← hkeepP, ← hkeepN, of_dpFace hstep (·.profile), of_dpFace hstep (·.profNext)] at hprof
  rw [of_dpFace hend (·.grid), of_dpFace hend (·.profile), of_dpFace hend (·.profNext)]
  exact ⟨hdown, hprof⟩

theorem execDriveStep_of_still {l : List Nat} {s : State} (h : s.dp.grid = none ∨ s.powered = false ∨ (∃ n, s.dp.grid = some n ∧ n < 320)) :
    exec (.driveStep l) s = .next s := by
  cases hg : s.dp.grid with
  | none => simp only [exec, execDriveStep, hg]
  | some n =>
    simp only [exec, execDriveStep, hg]
    refine if_pos ?_
    rcases h with h | h | ⟨m, hm, hlt⟩
    · exact absurd (hg.symm.trans h) (Option.some_ne_none n)
    · exact Or.inr (by simp [h])
    · exact Or.inl (Option.some.inj (hm.symm.trans hg) ▸ hlt)

theorem execDriveStep_next {l : List Nat} {n : Nat} {s : State} (hg : s.dp.grid = some n) (hn : 320 ≤ n) (hpow : s.powered = true) :
    ∃ t, exec (.driveStep l) s = .next t ∧ Only [.dp, .fresh, .er, .hp, .qu] s t ∧ (t.dp.grid = some 0 ∨ t.dp.grid = none) ∧
    ((t.dp.profile = s.dp.profile ∧ t.dp.profNext = s.dp.profNext) ∨ (some t.dp.profile = s.dp.profNext ∧ t.dp.profNext = none)) := by
  have hx : exec (.driveStep l) s = .next (stepBoundary (s.mapDp fun d => { d with grid := some 0 }) l) := by
    simp only [exec, execDriveStep, hg]
    exact if_neg (by simp [hpow]; omega)
  obtain ⟨hgrid, hprof⟩ := stepBoundary_drive (s.mapDp fun d => { d with grid := some 0 }) l
  exact ⟨_, hx, exec_within hx rfl, hgrid, hprof⟩

/-! ## The load of a profile and the free regions -/

theorem loadProfile_dp (s : State) : (profileCheck (stageBytes s) = 0 →
      (loadProfile s).dp = { s.dp with profNext := some (stageBytes s), pcrc := word (leAt (stageBytes s) 0x3FC 4) }) ∧
    (profileCheck (stageBytes s) ≠ 0 → (loadProfile s).dp = { s.dp with profref := true, prsn := profileCheck (stageBytes s) }) := by
  rw [loadProfile]
  dsimp only
  generalize profileCheck (stageBytes s) = r
  split
  · refine ⟨fun _ => ?_, fun h => absurd rfl h⟩
    rw [raise_dp]
    rfl
  next hr =>
    refine ⟨fun h => absurd h hr, fun _ => ?_⟩
    rw [raise_dp]
    rfl

/-- A region once a target has been asked for. -/
def requested (s : State) (r : Nat) (t : BitVec 24) : Region :=
  match (rgnAt s r).st with
  | .pending => { rgnAt s r with target := t }
  | .driving => { rgnAt s r with pend := some t }
  | .idle => { rgnAt s r with target := t, st := if (segsOf r).all (fun n => segShows (segAt s n) (wantsDark t r n)) then .idle else .pending }

theorem request_eq (s : State) (r : Nat) (t : BitVec 24) : request s r t = s.setRgn r (requested s r t) := by
  simp only [request, requested]
  cases hst : (rgnAt s r).st with
  | pending => rfl
  | driving => rfl
  | idle =>
    dsimp only
    split
    · rw [← hst]
    · rfl

/-- The word of a free region as written. -/
def freeWritten (s : State) (r : Nat) (w : Word) : State := s.mapDp fun d => { d with free := tset (r - 12) (w &&& 0x3FFF) d.free }

theorem execDpfree_of_region {req : Requester} {r : Nat} (h12 : 12 ≤ r) (h16 : r < 16) (w : Word) (s : State) : exec (.dpfree req r w) s =
    .next (if serving s then writeFree s req r w else s) := if_neg (by simp [isFreeRegion, h12, h16])

theorem writeFree_eq {req : Requester} (h : req = .host ∨ req = .app) (s : State) (r : Nat) (w : Word) : writeFree s req r w =
    (freeWritten s r w).setRgn r (requested (freeWritten s r w) r ((w &&& 0x3FFF).setWidth 24)) := (if_pos h).trans (request_eq ..)

theorem execDpfree_next {req : Requester} {r : Nat} {w : Word} {s : State} (h12 : 12 ≤ r) (h16 : r < 16) (hreq : req = .host ∨ req = .app)
    (hserv : serving s = true) : ∃ t, exec (.dpfree req r w) s = .next t ∧ tget 0 (r - 12) t.dp.free = w &&& 0x3FFF ∧ Only [.dp] s t ∧
    (∀ k, k ≠ r → rgnAt t k = rgnAt s k) ∧ rgnAt t r = requested s r ((w &&& 0x3FFF).setWidth 24) := by
  have hx := (execDpfree_of_region (req := req) h12 h16 w s).trans (congrArg Host.Outcome.next ((if_pos hserv).trans (writeFree_eq hreq s r w)))
  exact ⟨_, hx, tget_tset_self .., exec_within hx rfl, fun k hk => (rgnAt_setRgn ..).trans (if_neg hk),
    (rgnAt_setRgn ..).trans (if_pos rfl)⟩

end Sys2Proof.Laws

open Sys2Proof Sys2Proof.Machine Sys2Proof.Laws

/-- Settles O46: the stages of a step boundary move the profile and the grid in two places only, and a request is one update of its region. -/
theorem displayDrive : Obligations.DisplayDrive := by
  unfold Obligations.DisplayDrive
  refine ⟨fun l s h => execDriveStep_of_still h, fun l n s hg hn hpow => execDriveStep_next hg hn hpow, fun req s hserv => ?_,
    fun req s hserv => congrArg Host.Outcome.next (if_neg (by simp [hserv])), fun req r w s h12 h16 hreq hserv => ?_,
    fun req r w s h12 h16 h => ?_⟩
  · have hx : exec (.pload req) s = .next (loadProfile s) := congrArg Host.Outcome.next (if_pos hserv)
    obtain ⟨hok, hbad⟩ := loadProfile_dp s
    exact ⟨_, hx, exec_within hx rfl, hok, hbad⟩
  · obtain ⟨t, hx, hfree, honly, hother, hrgn⟩ := execDpfree_next (w := w) h12 h16 hreq hserv
    refine ⟨t, hx, hfree, honly, hother, ?_⟩
    refine hrgn.trans ?_
    delta requested
    cases (rgnAt s r).st <;> rfl
  · rw [execDpfree_of_region h12 h16]
    rcases h with rfl | rfl | h
    · exact congrArg Host.Outcome.next (ite_self s)
    · exact congrArg Host.Outcome.next (ite_self s)
    · exact congrArg Host.Outcome.next (if_neg (by simp [h]))

namespace Sys2Proof.Laws

open Sys2Proof.Machine

/-! ## The rails -/

/-- The display as a power-up leaves it, with the regions that were driving idle. -/
def poweredUp (d : Display) : Display :=
  { d with vneg := .enabled, railTicks := 0, poweringUp := true, poweringDown := false, lit := false, firstDraw := false, retry := 0, rebal := false,
           seg := d.seg.map fun e => (e.1, { e.2 with fault := false, miss := 0, wave := 0 }) }

/-- The display beside its regions. -/
def noRgn (d : Display) : Display := { d with rgn := [] }

theorem of_noRgn {α : Type} {p q : Display} (h : noRgn p = noRgn q) (f : Display → α) (hf : ∀ d, f (noRgn d) = f d := by intro; rfl) :
    f p = f q := by rw [← hf p, h, hf q]

/-- A region that is driven no more. -/
def undriven (s : State) (r : Nat) : State :=
  s.setRgn r { rgnAt s r with st := if (rgnAt s r).st = .driving then .idle else (rgnAt s r).st, clear := 0, phase := 0, steps := 0 }

theorem powerUp_eq (s : State) : powerUp s = forEach regions undriven ((journalCheck s).mapDp poweredUp) := rfl

theorem powerUp_dp (s : State) : noRgn (powerUp s).dp = noRgn (poweredUp (journalCheck s).dp) := by
  rw [powerUp_eq]
  exact forEach_keep (f := undriven) (fun x => noRgn x.dp) (fun _ _ => rfl) regions _

theorem railsOff_iff (d : Display) : railsOff d = true ↔ d.vneg = .off ∧ d.vpos = .off ∧ d.vcom = .off := by
  simp [railsOff, and_assoc]

theorem powerUp_rails {s : State} (h : railsOff s.dp = true) : (powerUp s).dp.vneg = .enabled ∧ (powerUp s).dp.vpos = .off ∧
    (powerUp s).dp.vcom = .off ∧ (powerUp s).dp.poweringUp = true ∧ (powerUp s).dp.lit = false ∧ (powerUp s).dp.railTicks = 0 ∧
    (powerUp s).dp.retry = 0 := by
  have hd := powerUp_dp s
  have hj : dpFace (journalCheck s).dp = dpFace s.dp := dispFace_journalCheck s
  obtain ⟨-, hpos, hcom⟩ := (railsOff_iff s.dp).mp h
  exact ⟨of_noRgn hd (·.vneg), ((of_noRgn hd (·.vpos)).trans (of_dpFace hj (·.vpos))).trans hpos,
    ((of_noRgn hd (·.vcom)).trans (of_dpFace hj (·.vcom))).trans hcom, of_noRgn hd (·.poweringUp), of_noRgn hd (·.lit),
    of_noRgn hd (·.railTicks), of_noRgn hd (·.retry)⟩

/-- The drive cut: VCOM off, dark, the rest of the rails on their way down. -/
def driveCut (d : Display) : Display :=
  { d with lit := false, flkEff := 0, firstDraw := false, rebal := false, rebSaved := [], poweringUp := false, poweringDown := !railsOff d,
           vcom := .off, grid := none }

/-- The segments with the imbalances of before the rebalance that a cut ends. -/
def imbalancesBack (s : State) : State :=
  forEach (if s.dp.rebal then s.dp.rebSaved else []) (fun s e => s.setSeg e.1 { segAt s e.1 with dci := e.2 }) s

theorem cutDrive_dp (s : State) : ∃ x : State, dispFace x = dispFace s ∧ (cutDrive s).dp = driveCut x.dp :=
  ⟨imbalancesBack s, dispFace_forEach _ _ (fun _ _ => dispFace_setSeg ..) s, rfl⟩

theorem cutDrive_rails (s : State) : (cutDrive s).dp.lit = false ∧ (cutDrive s).dp.vcom = .off ∧ (cutDrive s).dp.grid = none ∧
    (cutDrive s).dp.poweringUp = false ∧ (cutDrive s).dp.poweringDown = !railsOff s.dp ∧ (cutDrive s).dp.en = s.dp.en := by
  obtain ⟨x, hx, hd⟩ := cutDrive_dp s
  rw [hd]
  exact ⟨rfl, rfl, rfl, rfl, congrArg (!·) (of_dpFace hx railsOff), of_dpFace hx (·.en)⟩

/-- A rail that is good: the next one is enabled, and after VCOM the clears start. -/
def railCame (r : Nat) (s : State) : State :=
  match r with
  | 0 => if s.dp.poweringUp && s.dp.vneg == .enabled then s.mapDp fun d => { d with vneg := .good, vpos := .enabled, railTicks := 0 } else s
  | 1 => if s.dp.poweringUp && s.dp.vpos == .enabled then s.mapDp fun d => { d with vpos := .good, vcom := .enabled, railTicks := 0 } else s
  | _ => if s.dp.poweringUp && s.dp.vcom == .enabled then
      startClears (s.mapDp fun d => { d with vcom := .good, poweringUp := false, railBad := false, grid := some 0 })
    else s

theorem execRailGood_of_rail {r : Nat} (h : r < 3) (s : State) : exec (.railGood r) s = .next (if s.powered then railCame r s else s) := by
  have hrail : (!isRail r) = false := by simp [isRail, h]
  simp only [exec, execRailGood, hrail]
  cases s.powered with
  | false => rfl
  | true => interval_cases r <;> rfl

theorem execRailGood_of_powered {r : Nat} (h : r < 3) {s t : State} (hpow : s.powered = true) (ht : railCame r s = t) :
    exec (.railGood r) s = .next t := by rw [execRailGood_of_rail h, if_pos hpow, ht]

@[simp] theorem dispFace_startClears (s : State) : dispFace (startClears s) = dispFace s := by
  simp [startClears]

theorem execRailGood_last {s : State} (hpow : s.powered = true) (hup : s.dp.poweringUp = true) (hcom : s.dp.vcom = .enabled) :
    ∃ t, exec (.railGood 2) s = .next t ∧ t.dp.vcom = .good ∧ t.dp.poweringUp = false ∧ t.dp.railBad = false ∧
      t.dp.grid = some 0 ∧ Only [.dp, .fresh] s t := by
  have hx := execRailGood_of_powered (r := 2) (by decide) hpow (if_pos (by rw [hup, hcom]; rfl))
  have hface := dispFace_startClears (s.mapDp fun d => { d with vcom := .good, poweringUp := false, railBad := false, grid := some 0 })
  exact ⟨_, hx, of_dpFace hface (·.vcom), of_dpFace hface (·.poweringUp), of_dpFace hface (·.railBad), of_dpFace hface (·.grid),
    exec_within hx (by decide)⟩

theorem execRailFault_of_rail {r : Nat} (h : r < 3) (s : State) : exec (.railFault r) s =
    if !railMayFault s.dp r || s.dp.poweringDown || !s.powered then .next s
    else .next (raise ((cutDrive (if s.dp.rebal then rebEnd s else s)).mapDp fun d => { d with rfault := true, railBad := true, retry := 0 }) 0xE0 0xFF
      (some (r + 1 : Nat))) := if_neg (by simp [isRail, h])

theorem execRailFault_next {r : Nat} {s : State} (hr : r < 3) (hmay : railMayFault s.dp r = true) (hdown : s.dp.poweringDown = false)
    (hpow : s.powered = true) : ∃ t, exec (.railFault r) s = .next t ∧ t.dp.rfault = true ∧ t.dp.railBad = true ∧ t.dp.vcom = .off ∧
    t.dp.lit = false ∧ t.dp.grid = none ∧ t.dp.retry = 0 ∧ dispCond t.dp = (if s.dp.en then 2 else 0) ∧ Only [.dp, .er, .hp, .qu] s t := by
  have hx := (execRailFault_of_rail hr s).trans (if_neg (by simp [hmay, hdown, hpow]))
  have hreb : dispFace (if s.dp.rebal then rebEnd s else s) = dispFace s := by simp
  obtain ⟨hlit, hcom, hgrid, -, -, hen⟩ := cutDrive_rails (if s.dp.rebal then rebEnd s else s)
  rw [of_dpFace hreb (·.en)] at hen
  refine ⟨_, hx, ?_, ?_, ?_, ?_, ?_, ?_, ?_, exec_within hx rfl⟩ <;> rw [raise_dp, mapDp_dp]
  · exact hcom
  · exact hlit
  · exact hgrid
  · rw [← hen, dispCond]
    cases (cutDrive (if s.dp.rebal then rebEnd s else s)).dp.en <;> rfl

theorem execDisplayPowerDown_of_up {s : State} (h : railsOff s.dp = false) (forced : Bool) : exec (.displayPowerDown forced) s =
    if forced then .next (if s.sup.commit = .none then s else cutDrive s)
    else if s.dp.en then .next s
    else if s.dp.vcom = .good then .next (s.mapDp fun d => { d with lit := false, flkEff := 0, poweringDown := true })
    else .next (cutDrive s) := if_neg (by simp [h])

theorem execDisplayPowerDown_unforced {s : State} (h : railsOff s.dp = false) (hen : s.dp.en = false) : exec (.displayPowerDown false) s =
    if s.dp.vcom = .good then .next (s.mapDp fun d => { d with lit := false, flkEff := 0, poweringDown := true })
    else .next (cutDrive s) := (execDisplayPowerDown_of_up h false).trans ((if_neg (by decide)).trans (if_neg (by simp [hen])))

theorem execRailDischarged_of_rail {r : Nat} (h : r < 3) (s : State) : exec (.railDischarged r) s =
    if !s.dp.poweringDown then .next s
    else if r = 2 ∧ s.dp.vcom = .off then .next (s.mapDp fun d => { d with vpos := .off })
    else if r = 1 ∧ s.dp.vpos = .off then .next (s.mapDp fun d => { d with vneg := .off, poweringDown := false })
    else .next s := if_neg (by simp [isRail, h])

end Sys2Proof.Laws

open Sys2Proof Sys2Proof.Machine Sys2Proof.Laws

/-- Settles O45: each rail command by the rail and the state of the sequence; a cut of the drive leaves every rail but VCOM where it was. -/
theorem displayRails : Obligations.DisplayRails := by
  unfold Obligations.DisplayRails
  refine ⟨fun s hp hen hbad hoff hdown => ?_, fun s h => ?_, fun s hp hen hbad hretry hoff => ?_, fun s h => ?_,
    fun s hpow hup => ⟨fun hneg => ?_, fun hpos => ?_, fun hcom => execRailGood_last hpow hup hcom⟩, fun r s hr h => ?_,
    fun r s hr hmay hdown hpow => execRailFault_next hr hmay hdown hpow, fun r s hr h => ?_,
    fun s hoff => ⟨fun hen hcom => ?_, fun hen hcom => ?_, fun hcom => ?_, fun hen => ?_, fun hcom => ?_⟩, fun f s hoff => if_pos hoff,
    fun s hdown => ⟨fun hcom => ?_, fun hpos => ?_⟩, fun r s hr h => ?_⟩
  · have hx : exec .displayPowerUp s = .next (powerUp s) := if_pos (by simp [hp, hen, hbad, hoff, hdown])
    obtain ⟨h1, h2, h3, h4, h5, h6, -⟩ := powerUp_rails hoff
    exact ⟨_, hx, h1, h2, h3, h4, h5, h6, exec_within hx (by decide)⟩
  · exact if_neg (by rcases h with h | h | h | h | h <;> simp [h])
  · have hx : exec .railRetry s = .next (powerUp s) := if_pos (by simp [hp, hen, hbad, hoff, hretry])
    obtain ⟨h1, -, -, h4, -, -, h7⟩ := powerUp_rails hoff
    exact ⟨_, hx, h1, h4, h7, exec_within hx (by decide)⟩
  · exact if_neg (by rcases h with h | h | h | h | h <;> simp [h])
  · exact execRailGood_of_powered (by decide) hpow (if_pos (by rw [hup, hneg]; rfl))
  · exact execRailGood_of_powered (by decide) hpow (if_pos (by rw [hup, hpos]; rfl))
  · rw [execRailGood_of_rail hr]
    have hstill : s.powered = false ∨ railCame r s = s := by
      refine h.imp_right fun h => ?_
      rcases h with h | h <;> rcases r with _ | _ | r <;> exact if_neg (by simp_all [railAt])
    rcases hstill with h | h
    · rw [h]
      rfl
    · rw [h, ite_self]
  · rw [execRailFault_of_rail hr]
    exact if_pos (by rcases h with h | h | h <;> simp [h])
  · exact (execDisplayPowerDown_unforced hoff hen).trans (if_pos hcom)
  · have hx := (execDisplayPowerDown_unforced hoff hen).trans (if_neg hcom)
    obtain ⟨h1, h2, h3, h4, h5, -⟩ := cutDrive_rails s
    exact ⟨_, hx, h1, h2, h3, h4, by rw [h5, hoff]; rfl, exec_within hx (by decide)⟩
  · have hx := (execDisplayPowerDown_of_up hoff true).trans (congrArg Host.Outcome.next (if_neg hcom))
    obtain ⟨h1, h2, h3, h4, h5, -⟩ := cutDrive_rails s
    exact ⟨_, hx, h1, h2, h3, h4, by rw [h5, hoff]; rfl, exec_within hx (by decide)⟩
  · exact (execDisplayPowerDown_of_up hoff false).trans ((if_neg (by decide)).trans (if_pos hen))
  · exact (execDisplayPowerDown_of_up hoff true).trans (congrArg Host.Outcome.next (if_pos hcom))
  · exact ((execRailDischarged_of_rail (by decide) s).trans (if_neg (by simp [hdown]))).trans (if_pos ⟨rfl, hcom⟩)
  · exact (((execRailDischarged_of_rail (by decide) s).trans (if_neg (by simp [hdown]))).trans (if_neg (by simp))).trans (if_pos ⟨rfl, hpos⟩)
  · rw [execRailDischarged_of_rail hr]
    rcases h with h | rfl | ⟨rfl, h⟩ | ⟨rfl, h⟩
    · simp [h]
    · simp
    · simp [h]
    · simp [h]

namespace Sys2Proof.Laws

open Sys2Proof.Machine

/-! ## The scroll -/

@[simp] theorem dispFace_pairFailed (path : Nat) (s : State) (c : Option Crit) : dispFace (pairFailed path s c) = dispFace s := by
  have h : (pairFailed path s c).dp = s.dp :=
    (show Only [.qu, .pl, .met, .ls, .bl, .tp, .er, .hp, .nv, .seal] s (pairFailed path s c) by simp) .dp rfl
  rw [dispFace, h, dispFace]

@[simp] theorem dispFace_drawIndicators (s : State) : dispFace (drawIndicators s) = dispFace s := by
  simp [drawIndicators]

/-- The item's targets at the regions. -/
def itemTargets (s : State) : State :=
  forEach (itemRegions (scrollItem s)) (fun x r => request x r (BitVec.ofNat 24 ((shownTargets (itemShown s (scrollItem s))).getD r 0))) s

/-- The item on show as drawn. -/
def itemDrawn (s : State) : State :=
  (itemTargets s).mapDp fun d => { d with drawn := shownTargets (itemShown s (scrollItem s)), sinceDraw := 0,
                                          err := !(itemShown s (scrollItem s)).bad.isEmpty }

theorem dispFace_drawItem (s : State) : dispFace (drawItem s) = dispFace (itemDrawn s) := by
  have h : drawItem s = drawIndicators (if (itemShown s (scrollItem s)).bad.isEmpty then itemDrawn s
    else raise (forEach (itemShown s (scrollItem s)).bad (pairFailed pathDisplay) (itemDrawn s)) 0xE4 0xFF
      (some (itemBin (scrollItem s).code : Nat))) := rfl
  rw [h]
  simp

theorem drawItem_scroll (s : State) : (drawItem s).dp.item = s.dp.item ∧ (drawItem s).dp.shown = s.dp.shown ∧
    (drawItem s).dp.suspend = s.dp.suspend ∧ (drawItem s).dp.sinceDraw = 0 ∧
    (drawItem s).dp.drawn = shownTargets (itemShown s (scrollItem s)) := by
  have h := dispFace_drawItem s
  have ht : dispFace (itemTargets s) = dispFace s := by simp [itemTargets]
  exact ⟨(of_dpFace h (·.item)).trans (of_dpFace ht (·.item)), (of_dpFace h (·.shown)).trans (of_dpFace ht (·.shown)),
    (of_dpFace h (·.suspend)).trans (of_dpFace ht (·.suspend)), of_dpFace h (·.sinceDraw), of_dpFace h (·.drawn)⟩

theorem showItem_scroll (s : State) (i : Nat) : (showItem s i).dp.item = i ∧ (showItem s i).dp.shown = 0 ∧
    (showItem s i).dp.suspend = s.dp.suspend ∧ (showItem s i).dp.sinceDraw = 0 := by
  obtain ⟨h1, h2, h3, h4, -⟩ := drawItem_scroll (s.mapDp fun d => { d with item := i, shown := 0 })
  rw [showItem, h1, h2, h3, h4, mapDp_dp]
  exact ⟨rfl, rfl, rfl, rfl⟩

theorem nextItem_scroll (s : State) : (nextItem s).dp.item = (if s.dp.item + 1 < s.plan.scroll.length then s.dp.item + 1 else 0) ∧
    (nextItem s).dp.shown = 0 ∧ (nextItem s).dp.suspend = s.dp.suspend ∧ (nextItem s).dp.sinceDraw = 0 := by
  rw [nextItem]
  exact showItem_scroll ..

theorem execButtonPress_next {s : State} (hlit : s.dp.lit = true) (hserv : serving s = true) (hmode : s.plan.scrollMode ≠ 0) :
    ∃ t, exec .buttonPress s = .next t ∧ t.dp.item = (if s.dp.item + 1 < s.plan.scroll.length then s.dp.item + 1 else 0) ∧ t.dp.shown = 0 ∧
    t.dp.suspend = (if s.plan.scrollMode = 2 then some 0 else s.dp.suspend) := by
  have hx : exec .buttonPress s = .next (nextItem (if s.plan.scrollMode = 2 then s.mapDp fun d => { d with suspend := some 0 } else s)) :=
    if_neg (by simp [hlit, hserv, hmode])
  refine ⟨_, hx, ?_⟩
  split
  · obtain ⟨h1, h2, h3, -⟩ := nextItem_scroll (s.mapDp fun d => { d with suspend := some 0 })
    rw [h1, h2, h3]
    exact ⟨rfl, rfl, rfl⟩
  · obtain ⟨h1, h2, h3, -⟩ := nextItem_scroll s
    exact ⟨h1, h2, h3⟩

theorem execItemRedraw_of_on {s : State} (hlit : s.dp.lit = true) (hserv : serving s = true) : exec .itemRedraw s =
    if shownTargets (itemShown s (scrollItem s)) ≠ s.dp.drawn ∧ 80000 ≤ s.dp.sinceDraw then .next (drawItem s) else .next (drawIndicators s) :=
  if_neg (by simp [hlit, hserv])

theorem execAutoScrollResume_of_some {s : State} {n : Nat} (h : s.dp.suspend = some n) : exec .autoScrollResume s =
    if 960000 ≤ n then .next (s.mapDp fun d => { d with suspend := none }) else .next s := by
  simp only [exec, execAutoScrollResume, h]

end Sys2Proof.Laws

open Sys2Proof Sys2Proof.Machine Sys2Proof.Laws

/-- Settles O47: the draw of an item asks for its regions, which leaves the scroll's own registers to the command that draws. -/
theorem scrollAdvances : Obligations.ScrollAdvances := by
  unfold Obligations.ScrollAdvances
  refine ⟨fun s hlit hserv hmode hsus hdwell => ?_, fun s h => ?_, fun s hlit hserv hmode => execButtonPress_next hlit hserv hmode,
    fun s hlit hserv hmode => ?_, fun s h => ?_, fun n s hsus hn => ?_, fun s h => ?_, fun s hlit hserv hne hold => ?_, fun s hlit hserv h => ?_,
    fun s h => ?_⟩
  · have hx : exec .scrollDwellExpiry s = .next (nextItem s) := if_pos (by simp [hlit, hserv, hmode, hsus, hdwell])
    obtain ⟨h1, h2, -, h4⟩ := nextItem_scroll s
    exact ⟨_, hx, h1, h2, h4⟩
  · refine if_neg ?_
    rcases h with h | h | h | h | h
    · simp [h]
    · simp [h]
    · simp [h]
    · simp [h]
    · simp [Nat.not_le.mpr h]
  · have hx : exec .buttonLongPress s = .next (showItem s 0) := if_neg (by simp [hlit, hserv, hmode])
    obtain ⟨h1, h2, h3, -⟩ := showItem_scroll s 0
    exact ⟨_, hx, h1, h2, h3⟩
  · have hoff : (!s.dp.lit || s.plan.scrollMode == 0 || !serving s) = true := by rcases h with h | h | h <;> simp [h]
    exact ⟨if_pos hoff, if_pos hoff⟩
  · exact (execAutoScrollResume_of_some hsus).trans (if_pos hn)
  · rcases h with h | ⟨n, hsus, hn⟩
    · simp only [exec, execAutoScrollResume, h]
    · exact (execAutoScrollResume_of_some hsus).trans (if_neg (Nat.not_le.mpr hn))
  · obtain ⟨h1, -, -, h4, h5⟩ := drawItem_scroll s
    exact ⟨_, (execItemRedraw_of_on hlit hserv).trans (if_pos ⟨hne, hold⟩), h4, h5, h1⟩
  · have hx := (execItemRedraw_of_on hlit hserv).trans (if_neg fun ⟨hne, hold⟩ => h.elim hne fun hlt => Nat.not_le.mpr hlt hold)
    have hface := dispFace_drawIndicators s
    exact ⟨_, hx, of_dpFace hface (·.sinceDraw), of_dpFace hface (·.drawn), of_dpFace hface (·.item)⟩
  · exact if_pos (by rcases h with h | h <;> simp [h])

end

section
/-! Trust: the boot stages, firmware, quotes, tags and keys (14 R322 to R340). -/

namespace Sys2Proof.Laws

open Sys2Proof.Machine

/-! ## The boot stages -/

/-- The public key and its hash, as a boot stage finds them. -/
def keyFace (t : Trust) : List Byte × Option (BitVec 256) × Bool := (t.pub, t.pubHash, t.keyok)

@[simp] theorem keyFace_raise (s : State) (code chan : Nat) (v : Option Int) : keyFace (raise s code chan v).tr = keyFace s.tr := by rw [raise_tr]

@[simp] theorem keyFace_failSlot (s : State) (n : Nat) (bin : Option Int) : keyFace (failSlot s n bin).tr = keyFace s.tr := by
  rw [failSlot, raise_tr]
  rfl

@[simp] theorem keyFace_bootMark (s : State) (app : Bool) : keyFace (bootMark s app).tr = keyFace s.tr := by
  simp only [bootMark]
  repeat' split
  all_goals simp

@[simp] theorem keyFace_tryBoot (s : State) (app b : Bool) : keyFace (tryBoot s app b).1.tr = keyFace s.tr := by
  simp only [tryBoot]
  repeat' split
  all_goals simp

@[simp] theorem keyFace_selectBoot (s : State) (app : Bool) : keyFace (selectBoot s app).1.tr = keyFace s.tr := by
  have hput (x : State) (b fell : Bool) : keyFace (x.mapTr fun t =>
      if app then { t with runA := b, nextA := b, fallback := t.fallback || fell }
      else { t with runL := b, nextL := b, fallback := t.fallback || fell }).tr = keyFace x.tr := by cases app <;> rfl
  have hmark := keyFace_bootMark s app
  have htry {x y : State} {b v : Bool} (hx : tryBoot x app b = (y, v)) : keyFace y.tr = keyFace x.tr := by rw [← keyFace_tryBoot x app b, hx]
  simp only [selectBoot]
  split
  next x hx => rw [hput, htry hx, hmark]
  next x hx =>
    split
    next y hy => rw [hput, htry hy, htry hx, hmark]
    next y hy => rw [htry hy, htry hx, hmark]

@[simp] theorem keyFace_extendMeas (s : State) (reg kind : Nat) (d : BitVec 256) : keyFace (extendMeas s reg kind d).tr = keyFace s.tr := by
  have hroom : keyFace (logRoom s.tr) = keyFace s.tr := by
    rw [logRoom]
    split <;> rfl
  exact hroom

@[simp] theorem keyFace_bootMeasure (s : State) (legalOk appOk : Bool) : keyFace (bootMeasure s legalOk appOk).tr = keyFace s.tr := by
  simp only [bootMeasure, extendPlan, keyFace_extendMeas, apply_ite State.tr, apply_ite keyFace, ite_self]

@[simp] theorem keyFace_bootCheck (s : State) (legalOk : Bool) : keyFace (bootCheck s legalOk).tr = keyFace s.tr := by
  rw [bootCheck]
  split <;> rfl

/-- What a working device key leaves of the public key. -/
theorem bootKey_face (s : State) (pub : List Byte) : (keyFace (bootKey s true pub).tr).1 = pub ∧
    (s.tr.pubHash = none → keyFace (bootKey s true pub).tr = (pub, some (Sha.digest pub), true)) ∧
    (s.tr.pubHash = some (Sha.digest pub) → keyFace (bootKey s true pub).tr = (pub, s.tr.pubHash, true)) := by
  simp only [bootKey, Bool.not_true, Bool.false_eq_true, if_false, mapTr_tr]
  split
  next h => exact ⟨rfl, fun _ => rfl, fun h' => absurd (h.symm.trans h') (Option.some_ne_none _).symm⟩
  next g h =>
    refine ⟨?_, fun h' => absurd (h.symm.trans h') (Option.some_ne_none _), fun h' => ?_⟩
    · split
      · rfl
      · rw [keyFace_raise]
        rfl
    · rw [if_pos (Option.some.inj (h.symm.trans h'))]
      exact Prod.ext rfl (Prod.ext rfl rfl)

/-- The device after the boot stages, before their outcome is kept. -/
def staged (s : State) (k : Bool) (pub : List Byte) : State × Bool × Bool :=
  let l := selectBoot (bootKey s k pub) false
  let a := selectBoot l.1 true
  (bootCheck (bootMeasure a.1 l.2 a.2) l.2, l.2, a.2)

theorem execBootStages_of_boot {s : State} (k : Bool) (pub : List Byte) (hst : s.sup.st = .boot) (hcom : s.sup.commit = .none)
    (hboot : s.sup.boot = none) (hmon : s.sup.recmon = false) : exec (.bootStages k pub) s =
      .next (((staged s k pub).1.mapTr fun t => { t with confOut := [] }).mapSup fun u =>
        { u with wdlMark := false, boot := some (staged s k pub).2 }) := if_pos ⟨hst, hcom, hboot, by rw [hmon]; rfl⟩

theorem staged_sup (s : State) (k : Bool) (pub : List Byte) : (staged s k pub).1.sup = s.sup := by
  have h : Only [.qu, .er, .tr, .hp, .fresh] s (staged s k pub).1 := by simp [staged]
  exact h .sup rfl

theorem staged_face (s : State) (k : Bool) (pub : List Byte) : keyFace (staged s k pub).1.tr = keyFace (bootKey s k pub).tr := by
  simp [staged]

theorem execBootStages_next (k : Bool) (pub : List Byte) {s : State} (hst : s.sup.st = .boot) (hcom : s.sup.commit = .none)
    (hboot : s.sup.boot = none) (hmon : s.sup.recmon = false) : ∃ t l a, exec (.bootStages k pub) s = .next t ∧ t.sup.boot = some (l, a) ∧
    t.sup.st = .boot ∧ t.tr.confOut = [] ∧ (k = true → t.tr.pub = pub) ∧
    (k = true → s.tr.pubHash = none → t.tr.keyok = true ∧ t.tr.pubHash = some (Sha.digest pub)) ∧
    (k = true → s.tr.pubHash = some (Sha.digest pub) → t.tr.keyok = true ∧ t.tr.pubHash = s.tr.pubHash) ∧
    Only [.er, .hp, .qu, .tr, .sup, .fresh] s t := by
  have hx := execBootStages_of_boot k pub hst hcom hboot hmon
  have hface := staged_face s k pub
  refine ⟨_, _, _, hx, rfl, ?_, rfl, fun hk => ?_, fun hk hnone => ?_, fun hk hsame => ?_, exec_within hx rfl⟩
  · rw [mapSup_sup, mapTr_sup, staged_sup]
    exact hst
  · subst hk
    exact (congrArg (·.1) hface).trans (bootKey_face s pub).1
  · subst hk
    have h := hface.trans ((bootKey_face s pub).2.1 hnone)
    exact ⟨congrArg (·.2.2) h, congrArg (·.2.1) h⟩
  · subst hk
    have h := hface.trans ((bootKey_face s pub).2.2 hsame)
    exact ⟨congrArg (·.2.2) h, congrArg (·.2.1) h⟩

end Sys2Proof.Laws

open Sys2Proof Sys2Proof.Machine Sys2Proof.Laws

/-- Settles O48: of the stages only the one of the device key touches the public key and its hash. -/
theorem bootStagesRunOnce : Obligations.BootStagesRunOnce := by
  unfold Obligations.BootStagesRunOnce
  refine ⟨fun k pub s hst hcom hboot hmon => execBootStages_next k pub hst hcom hboot hmon, fun k pub s h => if_neg fun ⟨hst, hcom, hboot, hmon⟩ => ?_⟩
  rcases h with h | h | h | h
  · exact h hst
  · exact h hboot
  · exact h hcom
  · simp [h] at hmon

namespace Sys2Proof.Laws

open Sys2Proof.Machine

/-! ## Firmware -/

theorem fwReq_iff (req : Requester) : fwReq req = true ↔ req ≠ .legal := by cases req <;> decide

/-- The load slot of a core, empty for an image of `req`. -/
def fwBegun (s : State) (req : Requester) (app : Bool) : State :=
  (s.setSlot (loadSlot s app) { slotAt s (loadSlot s app) with img := [], factory := false }).mapTr fun t =>
    { t with fst := .loading, fcore := app, fcode := 0, fowner := some req, fptr := 0 }

theorem fwBegin_of_legal (s : State) (app : Bool) : fwBegin s .legal app = s := if_pos (by decide)

theorem fwBegin_of_loader {req : Requester} (h : req ≠ .legal) (s : State) (app : Bool) : fwBegin s req app =
    if s.tr.fst = .loading ∧ s.tr.fowner ≠ some req then s.mapTr fun t => { t with fwown := true } else fwBegun s req app :=
  if_neg (by rw [(fwReq_iff req).mpr h]; decide)

theorem execTrfwctlBegin_of_serving {s : State} (hserv : serving s = true) (req : Requester) (app : Bool) :
    exec (.trfwctlBegin req app) s = .next (fwBegin s req app) := congrArg Host.Outcome.next (if_pos hserv)

theorem execTrfwctlBegin_next {req : Requester} (app : Bool) {s : State} (hserv : serving s = true) (hreq : req ≠ .legal)
    (h : s.tr.fst ≠ .loading ∨ s.tr.fowner = some req) : ∃ t,
    exec (.trfwctlBegin req app) s = .next t ∧ t.tr.fst = .loading ∧ t.tr.fcore = app ∧ t.tr.fowner = some req ∧ t.tr.fptr = 0 ∧
    (slotAt t (loadSlot s app)).img = [] ∧ (slotAt t (loadSlot s app)).factory = false ∧
    (∀ k, k ≠ loadSlot s app → slotAt t k = slotAt s k) ∧ Only [.tr] s t := by
  have hx : exec (.trfwctlBegin req app) s = .next (fwBegun s req app) := by
    rw [execTrfwctlBegin_of_serving hserv, fwBegin_of_loader hreq, if_neg fun ⟨h1, h2⟩ => h.elim (fun h => h h1) h2]
  have hat : slotAt (fwBegun s req app) (loadSlot s app) = { slotAt s (loadSlot s app) with img := [], factory := false } :=
    (slotAt_setSlot ..).trans (if_pos rfl)
  exact ⟨_, hx, rfl, rfl, rfl, rfl, by rw [hat], by rw [hat], fun k hk => (slotAt_setSlot ..).trans (if_neg hk), exec_within hx rfl⟩

/-- The data in the load slot. -/
def fwTaken (s : State) (bs : List Byte) : State :=
  (s.setSlot (loadSlot s s.tr.fcore) { slotAt s (loadSlot s s.tr.fcore) with
    img := ((slotAt s (loadSlot s s.tr.fcore)).img ++ bs).take 1048576 }).mapTr fun t => { t with fptr := satAdd t.fptr bs.length }

theorem fwData_of_owner {s : State} {req : Requester} (hst : s.tr.fst = .loading) (how : s.tr.fowner = some req) (bs : List Byte) :
    fwData s req bs = fwTaken s bs := if_pos ⟨hst, how⟩

theorem execTrfwdata_next {req : Requester} (bs : List Byte) {s : State} (hserv : serving s = true) (hst : s.tr.fst = .loading)
    (how : s.tr.fowner = some req) : ∃ t, exec (.trfwdata req bs) s = .next t ∧
    (slotAt t (loadSlot s s.tr.fcore)).img = ((slotAt s (loadSlot s s.tr.fcore)).img ++ bs).take 1048576 ∧
    t.tr.fptr = min (s.tr.fptr + bs.length) 0xFFFFFFFF ∧ (∀ k, k ≠ loadSlot s s.tr.fcore → slotAt t k = slotAt s k) ∧ Only [.tr] s t := by
  have hx : exec (.trfwdata req bs) s = .next (fwTaken s bs) := by
    rw [← fwData_of_owner hst how]
    exact congrArg Host.Outcome.next (if_pos hserv)
  have hat : slotAt (fwTaken s bs) (loadSlot s s.tr.fcore) = { slotAt s (loadSlot s s.tr.fcore) with
    img := ((slotAt s (loadSlot s s.tr.fcore)).img ++ bs).take 1048576 } := (slotAt_setSlot ..).trans (if_pos rfl)
  exact ⟨_, hx, by rw [hat], rfl, fun k hk => (slotAt_setSlot ..).trans (if_neg hk), exec_within hx rfl⟩

theorem fwReject_parts (s : State) (code : Nat) : (fwReject s code).tr = { s.tr with fst := .rejected, fcode := code } ∧
    (fwReject s code).hp.irqsts.getLsbD 5 = true := by
  rw [fwReject, raise_tr]
  exact ⟨rfl, raise_irqsts _ _ _ _ 5 (irq_set _ 5 (by decide))⟩

theorem fwVerify_of_owner {s : State} {req : Requester} (hst : s.tr.fst = .loading) (how : s.tr.fowner = some req) : fwVerify s req =
    if fwCheck s (imgOf s (loadSlot s s.tr.fcore)) s.tr.fptr s.tr.fcore = 0 then (s.mapTr fun t => { t with fst := .valid, fcode := 0 }).irq 5
    else fwReject s (fwCheck s (imgOf s (loadSlot s s.tr.fcore)) s.tr.fptr s.tr.fcore) := by
  rw [fwVerify, if_pos ⟨hst, how⟩]
  generalize fwCheck s (imgOf s (loadSlot s s.tr.fcore)) s.tr.fptr s.tr.fcore = c
  cases c <;> rfl

theorem execTrfwctlVerify_next {req : Requester} {s : State} (hserv : serving s = true) (hst : s.tr.fst = .loading)
    (how : s.tr.fowner = some req) : ∃ t, exec (.trfwctlVerify req) s = .next t ∧
    t.tr.fst = (if fwCheck s (imgOf s (loadSlot s s.tr.fcore)) s.tr.fptr s.tr.fcore = 0 then .valid else .rejected) ∧
    t.tr.fcode = fwCheck s (imgOf s (loadSlot s s.tr.fcore)) s.tr.fptr s.tr.fcore ∧ t.hp.irqsts.getLsbD 5 = true ∧ Only [.tr, .er, .hp, .qu] s t := by
  have hx : exec (.trfwctlVerify req) s = .next (fwVerify s req) := congrArg Host.Outcome.next (if_pos hserv)
  refine ⟨_, hx, ?_, ?_, ?_, exec_within hx rfl⟩ <;> rw [fwVerify_of_owner hst how] <;>
    generalize fwCheck s (imgOf s (loadSlot s s.tr.fcore)) s.tr.fptr s.tr.fcore = c <;> split
  case isTrue => rfl
  case isFalse => rw [(fwReject_parts s c).1]
  case isTrue h => exact h.symm
  case isFalse => rw [(fwReject_parts s c).1]
  case isTrue => exact irq_set _ 5 (by decide)
  case isFalse => exact (fwReject_parts s c).2

/-! ### Acceptance -/

theorem fwAcceptReq_of_owner {s : State} {req : Requester} (hst : s.tr.fst = .valid) (how : s.tr.fowner = some req) : fwAcceptReq s req =
    if fwAuth s = 0 then (if s.tr.fcore then fwAccept (reserve s 2) else pendDec (reserve s 2) .firmware true) else fwReject s (fwAuth s) := by
  rw [fwAcceptReq, if_pos ⟨hst, how⟩]
  have htr : (reserve s 2).tr = s.tr := (show Only [.er, .hp] s (reserve s 2) by simp) .tr rfl
  generalize fwAuth s = c
  cases c with
  | zero =>
    dsimp only
    rw [htr]
    rfl
  | succ c => rfl

theorem execAccept_of_owner {s : State} {req : Requester} (hserv : serving s = true) (hst : s.tr.fst = .valid) (how : s.tr.fowner = some req) :
    exec (.accept req) s = .next (if fwAuth s = 0 then (if s.tr.fcore then fwAccept (reserve s 2) else pendDec (reserve s 2) .firmware true)
      else fwReject s (fwAuth s)) := by
  rw [← fwAcceptReq_of_owner hst how]
  exact congrArg Host.Outcome.next (if_pos hserv)

theorem fwAccept_app {s : State} (h : s.tr.fcore = true) : (fwAccept s).tr.fst = .accepted ∧ (fwAccept s).tr.nextA = !runningB s true ∧
    (fwAccept s).tr.nextL = s.tr.nextL ∧ (∃ e, e ∈ (fwAccept s).er.due ∧ e.ptype = 0x04) ∧ (fwAccept s).er.pres = s.er.pres := by
  simp only [fwAccept, h]
  rw [raise_tr, raise_er_due, raise_er_pres, irq_er]
  exact ⟨rfl, rfl, rfl, ⟨_, List.mem_append_right _ (List.mem_singleton_self _), rfl⟩, rfl⟩

theorem execAccept_app {req : Requester} {s : State} (hserv : serving s = true) (hst : s.tr.fst = .valid) (how : s.tr.fowner = some req)
    (hauth : fwAuth s = 0) (happ : s.tr.fcore = true) : ∃ t, exec (.accept req) s = .next t ∧ t.tr.fst = .accepted ∧ t.tr.nextA = !runningB s true ∧
      t.tr.nextL = s.tr.nextL ∧ (∃ e, e ∈ t.er.due ∧ e.ptype = 0x04) ∧ t.er.pres = s.er.pres + 2 := by
  have hx := execAccept_of_owner hserv hst how
  rw [if_pos hauth, if_pos happ] at hx
  have htr : (reserve s 2).tr = s.tr := (show Only [.er, .hp] s (reserve s 2) by simp) .tr rfl
  obtain ⟨h1, h2, h3, h4, h5⟩ := fwAccept_app (s := reserve s 2) (by rw [htr]; exact happ)
  refine ⟨_, hx, h1, h2.trans ?_, by rw [h3, htr], h4, h5.trans (reserve_pres s 2)⟩
  rw [runningB, runningB, htr]

theorem execAccept_legal {req : Requester} {s : State} (hserv : serving s = true) (hst : s.tr.fst = .valid) (how : s.tr.fowner = some req)
    (hauth : fwAuth s = 0) (happ : s.tr.fcore = false) : ∃ t, exec (.accept req) s = .next t ∧
      t.tp.dd = s.tp.dd ++ [{ dec := .firmware, first := true }] ∧ t.er.pres = s.er.pres + 2 ∧ t.tr = s.tr := by
  have hx := execAccept_of_owner hserv hst how
  rw [if_pos hauth, if_neg (by simp [happ])] at hx
  have honly : Only [.er, .hp] s (reserve s 2) := by simp
  have htr : (reserve s 2).tr = s.tr := honly .tr rfl
  have htp : (reserve s 2).tp = s.tp := honly .tp rfl
  exact ⟨_, hx, by rw [pendDec, mapTp_tp, htp], reserve_pres s 2, htr⟩

/-! ### Reset and confirmation -/

theorem execReset_of_serving {s : State} (hserv : serving s = true) {req : Requester} (hreq : req ≠ .legal) :
    exec (.reset req) s = .next (orderReset s 5) := by
  refine congrArg Host.Outcome.next ((if_pos hserv).trans (if_pos ?_))
  rw [(fwReq_iff req).mpr hreq, hserv]
  rfl

theorem fwReset_of_legal (s : State) : fwReset s .legal = s := if_neg (by simp [fwReq])

theorem execConfirm_of_serving {s : State} (hserv : serving s = true) (req : Requester) : exec (.confirm req) s = .next (fwConfirm s req) :=
  congrArg Host.Outcome.next (if_pos hserv)

theorem execConfirmTimeout_eq (app : Bool) (s : State) : exec (.confirmTimeout app) s =
    if (if app then s.tr.confA else s.tr.confL) = true ∧ 64000 ≤ s.tr.confTicks ∧ s.sup.commit = .none then
      .next (orderReset (s.mapTr fun t => { t with confOut := t.confOut ++ [app], confL := t.confL && app, confA := t.confA && !app }) 9)
    else .next s := rfl

theorem orderReset_of_none {s : State} (h : s.sup.commit = .none) (cause : Nat) : orderReset s cause =
    s.mapSup fun u => { u with commit := .due, cause := cause, commitW := s.tb.frame + 1 } := if_pos h

end Sys2Proof.Laws

open Sys2Proof Sys2Proof.Machine Sys2Proof.Laws

/-- Settles O49: each request by its requester and the state of the load; the checks' codes come from the model's own checks. -/
theorem firmwareIsLoadedAndConfirmed : Obligations.FirmwareIsLoadedAndConfirmed := by
  unfold Obligations.FirmwareIsLoadedAndConfirmed
  refine ⟨⟨fun req app s hserv hreq h => execTrfwctlBegin_next app hserv hreq h, fun req app s hserv hreq hst how => ?_,
    fun req bs s hserv hst how => execTrfwdata_next bs hserv hst how, fun req s hserv hst how => execTrfwctlVerify_next hserv hst how,
    fun req bs s h => ?_, fun req s hserv hst how => ⟨execAccept_app hserv hst how, execAccept_legal hserv hst how, fun hauth => ?_⟩,
    fun req s h => ?_, fun req app s h => ?_⟩,
    fun req s hreq hserv hcom => ?_, fun req s h => ?_, fun s hserv hconf => ?_, fun s hserv hconf => ?_, fun req s h => ?_,
    fun s hconf hticks hcom => ?_, fun s hconf hticks hcom => ?_, fun app s h => ?_⟩
  · rw [execTrfwctlBegin_of_serving hserv, fwBegin_of_loader hreq, if_pos ⟨hst, how⟩]
    rfl
  · by_cases hserv : serving s = true
    · have hno : ¬ (s.tr.fst = .loading ∧ s.tr.fowner = some req) := fun ⟨h1, h2⟩ => by simp [hserv, h1, h2] at h
      exact ⟨congrArg Host.Outcome.next ((if_pos hserv).trans (if_neg hno)), congrArg Host.Outcome.next ((if_pos hserv).trans (if_neg hno))⟩
    · exact ⟨congrArg Host.Outcome.next (if_neg hserv), congrArg Host.Outcome.next (if_neg hserv)⟩
  · have hx := execAccept_of_owner hserv hst how
    rw [if_neg hauth] at hx
    obtain ⟨htr, hirq⟩ := fwReject_parts s (fwAuth s)
    exact ⟨_, hx, htr, hirq, by simp⟩
  · refine congrArg Host.Outcome.next ?_
    by_cases hserv : serving s = true
    · exact (if_pos hserv).trans (if_neg fun ⟨h1, h2⟩ => by simp [hserv, h1, h2] at h)
    · exact if_neg hserv
  · rcases h with h | rfl
    · exact congrArg Host.Outcome.next (if_neg (by simp [h]))
    · refine congrArg Host.Outcome.next ?_
      rw [fwBegin_of_legal, ite_self]
  · rw [execReset_of_serving hserv hreq, orderReset_of_none hcom]
    rfl
  · by_cases hserv : serving s = true
    · by_cases hreq : req = .legal
      · subst hreq
        refine congrArg Host.Outcome.next ?_
        rw [fwReset_of_legal, ite_self]
      · rw [execReset_of_serving hserv hreq]
        exact congrArg Host.Outcome.next (if_neg ((h.resolve_left hreq).resolve_left (by simp [hserv])))
    · exact congrArg Host.Outcome.next (if_neg hserv)
  · exact (execConfirm_of_serving hserv .legal).trans (congrArg Host.Outcome.next (if_pos hconf))
  · exact (execConfirm_of_serving hserv .app).trans (congrArg Host.Outcome.next (if_pos hconf))
  · by_cases hserv : serving s = true
    · rw [execConfirm_of_serving hserv]
      refine congrArg Host.Outcome.next ?_
      rcases h with h | rfl | rfl | ⟨rfl, h⟩ | ⟨rfl, h⟩
      · exact absurd (hserv.symm.trans h) (by decide)
      · rfl
      · rfl
      · exact if_neg (by simp [h])
      · exact if_neg (by simp [h])
    · exact congrArg Host.Outcome.next (if_neg hserv)
  · rw [execConfirmTimeout_eq, if_pos ⟨hconf, hticks, hcom⟩, orderReset_of_none (by exact hcom)]
    simp [State.mapSup, State.mapTr]
  · rw [execConfirmTimeout_eq, if_pos ⟨hconf, hticks, hcom⟩, orderReset_of_none (by exact hcom)]
    simp [State.mapSup, State.mapTr]
  · rw [execConfirmTimeout_eq, if_neg]
    rintro ⟨hconf, hticks, hcom⟩
    rcases h with h | h | h
    · omega
    · exact h hcom
    · exact absurd (hconf.symm.trans h) (by decide)

namespace Sys2Proof.Laws

open Sys2Proof.Machine

/-! ## Bytes and words -/

theorem leNat_lt (l : List Byte) : leNat l < 256 ^ l.length := by
  induction l with
  | nil => simp [leNat]
  | cons b l ih =>
    have hb := b.isLt
    rw [leNat, List.length_cons, Nat.pow_succ]
    omega

theorem leBytes_leNat (l : List Byte) : leBytes l.length (leNat l) = l := by
  induction l with
  | nil => rfl
  | cons b l ih =>
    have hb : b.toNat < 256 := b.isLt
    have hhead : BitVec.ofNat 8 (b.toNat + 256 * leNat l) = b := BitVec.eq_of_toNat_eq (by rw [BitVec.toNat_ofNat]; omega)
    rw [List.length_cons, leBytes, leNat, hhead, show (b.toNat + 256 * leNat l) / 256 = leNat l by omega, ih]

/-- The words of a list of bytes give its bytes again. -/
theorem bytesOfWords_wordsOf (k : Nat) (l : List Byte) (h : l.length = 4 * k) : bytesOfWords (wordsOf k l) = l := by
  induction k generalizing l with
  | zero => exact (List.eq_nil_of_length_eq_zero (by omega)).symm
  | succ k ih =>
    have htake : (l.take 4).length = 4 := by rw [List.length_take]; omega
    have hlt : leNat (l.take 4) < 2 ^ 32 := by
      have := leNat_lt (l.take 4)
      rw [htake] at this
      exact this
    have hword : leBytes 4 (BitVec.ofNat 32 (leNat (l.take 4))).toNat = l.take 4 := by
      rw [BitVec.toNat_ofNat, Nat.mod_eq_of_lt hlt]
      have := leBytes_leNat (l.take 4)
      rwa [htake] at this
    have hrest : bytesOfWords (wordsOf k (l.drop 4)) = l.drop 4 := ih _ (by rw [List.length_drop]; omega)
    rw [wordsOf, bytesOfWords, List.flatMap_cons, hword]
    exact (congrArg (l.take 4 ++ ·) hrest).trans (List.take_append_drop 4 l)

theorem tget_mapIdx {α : Type} (d : α) (l : List α) (k i : Nat) : tget d (k + i) (l.mapIdx fun j w => (k + j, w)) = l.getD i d := by
  induction l generalizing k i with
  | nil => rfl
  | cons a l ih =>
    rw [List.mapIdx_cons, tget]
    cases i with
    | zero => simp
    | succ i =>
      have hshift : (fun j (w : α) => (k + (j + 1), w)) = fun j w => (k + 1 + j, w) := by funext j w; rw [Nat.add_assoc, Nat.add_comm 1 j]
      rw [if_neg (by omega), hshift, show k + (i + 1) = k + 1 + i by omega, ih, List.getD_cons_succ]

theorem wordsOf_length (k : Nat) (l : List Byte) : (wordsOf k l).length = k := by
  induction k generalizing l with
  | zero => rfl
  | succ k ih => rw [wordsOf, List.length_cons, ih]

theorem map_tget_mapIdx (l : List Word) : (List.range l.length).map (fun i => tget 0 i (l.mapIdx fun i w => (i, w))) = l := by
  have hget (i : Nat) : tget (0 : Word) i (l.mapIdx fun i w => (i, w)) = l.getD i 0 := by
    have h := tget_mapIdx 0 l 0 i
    simpa using h
  refine List.ext_getElem (by rw [List.length_map, List.length_range]) fun i h1 h2 => ?_
  rw [List.getElem_map, List.getElem_range, hget, List.getD_eq_getElem _ _ h2]

theorem leBytes_length (k n : Nat) : (leBytes k n).length = k := by
  induction k generalizing n with
  | zero => rfl
  | succ k ih => rw [leBytes, List.length_cons, ih]

theorem bytesOfWords_length (l : List Word) : (bytesOfWords l).length = 4 * l.length := by
  induction l with
  | nil => rfl
  | cons w l ih =>
    rw [bytesOfWords, List.flatMap_cons, List.length_append, leBytes_length, List.length_cons, Nat.mul_succ, Nat.add_comm]
    exact congrArg (· + 4) ih

/-! ## The tag -/

theorem tagBytes_length (t : Trust) : (tagBytes t).length = 512 := by
  rw [tagBytes, bytesOfWords_length, List.length_map, List.length_range]

/-- The tag area with the bytes `bs` at `o`. -/
def tagNew (t : Trust) (o : Nat) (bs : List Byte) : List Byte := (tagBytes t).take o ++ bs ++ (tagBytes t).drop (o + bs.length)

/-- A tag write in its place. -/
def tagWritten (s : State) (o : Nat) (bs : List Byte) : State := s.mapTr fun t =>
  { t with tag := (wordsOf 128 (tagNew s.tr o bs)).mapIdx (fun i w => (i, w)), tagDue := t.tagDue ++ [(bs.length, s.tb.ticks)] }

theorem tagWrite_of_place {req : Requester} (hreq : req = .host ∨ req = .app) {s : State} {bs : List Byte} {o : Nat} (hbs : bs ≠ [])
    (hlen : o + bs.length ≤ 512) : tagWrite s req (tagBase + o) bs = tagWritten s o bs := by
  have hplace : tagBase ≤ tagBase + o ∧ tagBase + o + bs.length ≤ tagBase + 512 := by
    generalize tagBase = b
    omega
  rw [tagWrite, if_pos ⟨hreq, hplace.1, hplace.2, hbs⟩, Nat.add_sub_cancel_left, tagWritten, tagNew]

theorem tagWritten_bytes {s : State} {bs : List Byte} {o : Nat} (hlen : o + bs.length ≤ 512) :
    tagBytes (tagWritten s o bs).tr = tagNew s.tr o bs := by
  have hnew : (tagNew s.tr o bs).length = 4 * 128 := by
    have h := tagBytes_length s.tr
    simp only [tagNew, List.length_append, List.length_take, List.length_drop, h]
    omega
  have hwords := map_tget_mapIdx (wordsOf 128 (tagNew s.tr o bs))
  rw [wordsOf_length] at hwords
  rw [tagBytes, tagWritten, mapTr_tr, hwords, bytesOfWords_wordsOf _ _ hnew]

theorem tagWrite_of_no_place {req : Requester} {s : State} {a : Nat} {bs : List Byte} (h : req = .legal ∨ req = .chain ∨ bs = [] ∨ a < tagBase ∨
    tagBase + 512 < a + bs.length) : tagWrite s req a bs = s := by
  refine if_neg fun ⟨hreq, hlo, hhi, hbs⟩ => ?_
  rcases h with rfl | rfl | h | h | h
  · simp at hreq
  · simp at hreq
  · exact hbs h
  · omega
  · omega

theorem execUserTagWrite_next {req : Requester} {bs : List Byte} {o : Nat} {s : State} (hpow : s.powered = true) (hreq : req = .host ∨ req = .app)
    (hbs : bs ≠ []) (hlen : o + bs.length ≤ 512) : ∃ t,
    exec (.userTagWrite req (tagBase + o) bs) s = .next t ∧ t.tr.tagDue = s.tr.tagDue ++ [(bs.length, s.tb.ticks)] ∧ t.tr.tagd = s.tr.tagd ∧
    tagBytes t.tr = (tagBytes s.tr).take o ++ bs ++ (tagBytes s.tr).drop (o + bs.length) ∧ Only [.tr] s t := by
  have hx : exec (.userTagWrite req (tagBase + o) bs) s = .next (tagWritten s o bs) := by
    rw [← tagWrite_of_place hreq hbs hlen]
    exact congrArg Host.Outcome.next (if_pos hpow)
  exact ⟨_, hx, rfl, by rw [tagWritten, mapTr_tr], tagWritten_bytes hlen, exec_within hx rfl⟩

theorem extendMeas_tr (s : State) (reg kind : Nat) (d : BitVec 256) : (extendMeas s reg kind d).tr.tagDue = s.tr.tagDue ∧
    (extendMeas s reg kind d).tr.tagd = s.tr.tagd ∧ measOf (extendMeas s reg kind d).tr reg = extendOf (measOf s.tr reg) d := by
  have hroom : (logRoom s.tr).tagDue = s.tr.tagDue ∧ (logRoom s.tr).tagd = s.tr.tagd ∧ (logRoom s.tr).meas = s.tr.meas := by
    rw [logRoom]
    split <;> exact ⟨rfl, rfl, rfl⟩
  obtain ⟨hdue, htagd, hmeas⟩ := hroom
  refine ⟨hdue, htagd, (tget_tset_self ..).trans ?_⟩
  rw [measOf, hmeas, measOf]

/-- The digest `d` of the tag, taken with `rest` still due. -/
def tagDigested (s : State) (rest : List (Nat × Nat)) (d : BitVec 256) : State :=
  extendMeas (s.mapTr fun t => { t with tagDue := rest, tagd := d }) 6 5 d

theorem tagDigested_tr (s : State) (rest : List (Nat × Nat)) (d : BitVec 256) : (tagDigested s rest d).tr.tagDue = rest ∧
    (tagDigested s rest d).tr.tagd = d ∧ measOf (tagDigested s rest d).tr 6 = extendOf (measOf s.tr 6) d :=
  extendMeas_tr (s.mapTr fun t => { t with tagDue := rest, tagd := d }) 6 5 d

theorem execTagDigestUpdate_of_due {s : State} {n k : Nat} {rest : List (Nat × Nat)} (h : s.tr.tagDue = (n, k) :: rest) : exec .tagDigestUpdate s =
    if !s.powered || decide (s.tb.ticks ≤ k) then .next s
    else .next (raise (tagDigested s rest (Sha.digest (tagBytes s.tr))) 0xEC 0xFF (some (n : Nat))) := by
  simp only [exec, execTagDigestUpdate, tagDigested, h]

theorem execTagDigestUpdate_next {s : State} {n k : Nat} {rest : List (Nat × Nat)} (h : s.tr.tagDue = (n, k) :: rest) (hpow : s.powered = true)
    (hk : k < s.tb.ticks) : ∃ t, exec .tagDigestUpdate s = .next t ∧ t.tr.tagDue = rest ∧ t.tr.tagd = Sha.digest (tagBytes s.tr) ∧
    measOf t.tr 6 = extendOf (measOf s.tr 6) (Sha.digest (tagBytes s.tr)) ∧ Only [.tr, .er, .hp, .qu] s t := by
  have hx := (execTagDigestUpdate_of_due h).trans (if_neg (by simp [hpow, hk]))
  obtain ⟨h1, h2, h3⟩ := tagDigested_tr s rest (Sha.digest (tagBytes s.tr))
  rw [← raise_tr _ 0xEC 0xFF (some (n : Nat))] at h1 h2 h3
  exact ⟨_, hx, h1, h2, h3, exec_within hx (by decide)⟩

theorem execTagDigestUpdate_of_not_due {s : State} (h : s.tr.tagDue = [] ∨ s.powered = false ∨ (∃ n k rest, s.tr.tagDue = (n, k) :: rest ∧ s.tb.ticks ≤ k)) :
    exec .tagDigestUpdate s = .next s := by
  cases hdue : s.tr.tagDue with
  | nil => simp only [exec, execTagDigestUpdate, hdue]
  | cons e rest =>
    obtain ⟨n, k⟩ := e
    refine (execTagDigestUpdate_of_due hdue).trans (if_pos ?_)
    rcases h with h | h | ⟨n', k', rest', h, hk⟩
    · exact absurd (hdue.symm.trans h) (by simp)
    · simp [h]
    · obtain ⟨⟨-, rfl⟩, -⟩ : (n = n' ∧ k = k') ∧ rest = rest' := by simpa using hdue.symm.trans h
      simp [hk]

/-! ## The keys -/

theorem execTrkctlGo_of_serving {s : State} (hserv : serving s = true) (req : Requester) (w : Word) : exec (.trkctlGo req w) s = .next (keyGo s req w) :=
  congrArg Host.Outcome.next (if_pos hserv)

/-- A key blob in its slot. -/
def keyLoaded (s : State) (slot : Nat) (k : List Byte) : State :=
  (s.mapTp fun t => { t with keys := tset slot k t.keys, keysErased := false }).mapTr fun t => { t with kres := 1, kreason := 0 }

/-- A key load refused with code `r`. -/
def keyRefused (s : State) (r : Nat) : State :=
  raise (s.mapTr fun t => { t with kres := 2, kreason := r - 1, keyref := true }) 0xEF 0xFF (some (r : Nat))

theorem keyLoad_plain (s : State) (slot : Nat) :
    keyLoad s slot false = if !s.sealOpen then (1, []) else if 32 ≤ slot then (4, []) else (0, keyBlob s.tr) := rfl

theorem keyGo_plain {s : State} {req : Requester} {w : Word} (hreq : req = .host ∨ req = .app) (hgo : w.getLsbD 31 = true) (hwrap : w.getLsbD 8 = false) :
    keyGo s req w = if !s.sealOpen then keyRefused s 1 else if 32 ≤ w.toNat % 64 then keyRefused s 4 else keyLoaded s (w.toNat % 64) (keyBlob s.tr) := by
  have hslot : wbits w 5 0 = w.toNat % 64 := by simp [wbits, bits]
  rw [keyGo, if_pos ⟨hreq, hgo⟩, hslot, show wbit w 8 = false from hwrap]
  have hload := keyLoad_plain s (w.toNat % 64)
  cases hseal : s.sealOpen <;> rw [hseal] at hload
  · simp only [hload]
    rfl
  · by_cases h : 32 ≤ w.toNat % 64
    · rw [if_neg (by decide), if_pos h] at hload
      simp only [hload, if_pos h]
      rfl
    · rw [if_neg (by decide), if_neg h] at hload
      simp only [hload, if_neg h]
      rfl

theorem keyRefused_parts (s : State) (r : Nat) : (keyRefused s r).tp = s.tp ∧ (keyRefused s r).tr = { s.tr with kres := 2, kreason := r - 1, keyref := true } := by
  rw [keyRefused, raise_tp, raise_tr]
  exact ⟨rfl, rfl⟩

theorem keyGo_of_not_go {s : State} {req : Requester} {w : Word} (h : req = .legal ∨ req = .chain ∨ w.getLsbD 31 = false) : keyGo s req w = s := by
  refine if_neg fun ⟨hreq, hgo⟩ => ?_
  rcases h with rfl | rfl | h
  · simp at hreq
  · simp at hreq
  · exact absurd (hgo.symm.trans h) (by decide)

/-! ## Quotes -/

theorem sendRsp_intake (s : State) (h : CobaltHdr) (op addr status : Nat) (data : List Byte) : Intake s (sendRsp s h op addr status data) := by
  rw [sendRsp]
  split
  · exact push_intake ..
  · next p _ =>
    have hsent := show Only [.cb] s (sendPort s p
      { type := 2, dst := h.src, src := ownAddr s, tag := h.tag, op := op, addr := addr, status := status, data := data }) by simp
    exact intake_of_eq (hsent .hp rfl) (hsent .er rfl)

theorem execQuoteRequest_of_serving {s : State} (hserv : serving s = true) (path : Requester) (n : List Byte) :
    exec (.quoteRequest path n) s = .next (quoteAsk s path n none) :=
  congrArg Host.Outcome.next (if_pos hserv)

theorem quoteAsk_of_room {s : State} (hroom : s.tr.quotes.length < 4) (hkey : s.tr.keyok = true) (path : Requester) (n : List Byte) :
    quoteAsk s path n none = s.mapTr fun t =>
      { t with quotes := quoteInsert { path := path, nonce := nonceOf s path n, tick := s.tb.ticks, hdr := none } t.quotes } := by
  have h : quoteRefusal s = 0 := by
    rw [quoteRefusal, if_neg (Nat.not_le.mpr hroom), hkey]
    rfl
  rw [quoteAsk, h]
  rfl

/-- A quote request refused with reason `r`, before its event. -/
def quoteRefused (s : State) (path : Requester) (r : Nat) : State :=
  if path = .host then (s.mapTr fun t => { t with qref := true, qreason := r }).irq 6 else s

theorem quoteAsk_of_refusal {s : State} {r : Nat} (h : quoteRefusal s = r) (hr : r ≠ 0) (path : Requester) (n : List Byte) :
    quoteAsk s path n none = raise (quoteRefused s path r) 0xEE 0xFF (some (r : Nat)) := by
  simp only [quoteAsk, h]
  rfl

theorem quoteRefusal_of_none {s : State} (h : 4 ≤ s.tr.quotes.length ∨ s.tr.keyok = false) :
    quoteRefusal s = (if 4 ≤ s.tr.quotes.length then 1 else 2) ∧ quoteRefusal s ≠ 0 := by
  by_cases hroom : 4 ≤ s.tr.quotes.length
  · simp [quoteRefusal, hroom]
  · simp [quoteRefusal, hroom, h.resolve_left hroom]

theorem quoteRefused_host (s : State) (r : Nat) : (quoteRefused s .host r).tr = { s.tr with qref := true, qreason := r } ∧
    (quoteRefused s .host r).hp.irqsts.getLsbD 6 = true :=
  ⟨rfl, irq_set _ 6 (by decide)⟩

theorem quoteRefused_other {path : Requester} (h : path ≠ .host) (s : State) (r : Nat) : quoteRefused s path r = s := if_neg h

theorem execQuoteRequest_of_refusal {s : State} (hserv : serving s = true) (h : 4 ≤ s.tr.quotes.length ∨ s.tr.keyok = false) (path : Requester)
    (n : List Byte) : ∃ t, exec (.quoteRequest path n) s = .next t ∧ t.tr.quotes = s.tr.quotes ∧
      (path = .host → t.tr.qref = true ∧ t.tr.qreason = (if 4 ≤ s.tr.quotes.length then 1 else 2) ∧ t.hp.irqsts.getLsbD 6 = true) ∧
      (path ≠ .host → t.tr = s.tr) := by
  obtain ⟨hr, hne⟩ := quoteRefusal_of_none h
  refine ⟨_, (execQuoteRequest_of_serving hserv path n).trans (congrArg _ (quoteAsk_of_refusal hr (hr ▸ hne) path n)), ?_⟩
  generalize (if 4 ≤ s.tr.quotes.length then 1 else 2) = r
  rw [raise_tr]
  by_cases hpath : path = .host
  · subst hpath
    obtain ⟨htr, hirq⟩ := quoteRefused_host s r
    rw [htr]
    exact ⟨rfl, fun _ => ⟨rfl, rfl, raise_irqsts _ _ _ _ _ hirq⟩, fun h => absurd rfl h⟩
  · rw [quoteRefused_other hpath]
    exact ⟨rfl, fun h => absurd h hpath, fun _ => rfl⟩

theorem execQuoteGenerate_of_waiting {q : QuoteReq} {rest : List QuoteReq} {s : State} (hrun : s.tr.quoteRun = none) (h : s.tr.quotes = q :: rest) :
    exec .quoteGenerate s =
      .next (if serving s then s.mapTr fun t => { t with quotes := rest, quoteRun := some (q, quoteBody s q.nonce) } else s) := by
  simp only [exec, execQuoteGenerate, hrun, h]

theorem execQuoteGenerate_of_idle {s : State} (h : serving s = false ∨ s.tr.quoteRun ≠ none ∨ s.tr.quotes = []) : exec .quoteGenerate s = .next s := by
  cases hrun : s.tr.quoteRun with
  | some r => simp only [exec, execQuoteGenerate, hrun]
  | none =>
    cases hq : s.tr.quotes with
    | nil => simp only [exec, execQuoteGenerate, hrun, hq]
    | cons q rest =>
      refine (execQuoteGenerate_of_waiting hrun hq).trans (congrArg _ (if_neg ?_))
      simpa [hrun, hq] using h

/-- The quote `out` issued to the requester of `q`. -/
def quoteIssued (s : State) (q : QuoteReq) (out : List Byte) : State := s.mapTr fun t =>
  { t with quoteRun := none, qcnt := t.qcnt + 1, quote := if q.path = .host then out else t.quote,
           qdone := t.qdone || q.path == .host, issued := if q.path = .host then t.issued else t.issued ++ [(q.path, out)] }

/-- An issued quote with the host's interrupt and the responses that carry it up the chain. -/
def quoteSent (s : State) (q : QuoteReq) (out : List Byte) : State :=
  let s := if q.path = .host then s.irq 6 else s
  match q.hdr with
  | none => s
  | some h => sendRsp (sendRsp (sendRsp s h 5 0 0 (bytesAt out 0 180)) h 5 180 0 (bytesAt out 180 180)) h 5 360 0 (bytesAt out 360 72)

theorem quoteSent_of_hdr {s : State} {q : QuoteReq} (out : List Byte) : ∃ x, x = (if q.path = .host then s.irq 6 else s) ∧
    Intake x (quoteSent s q out) ∧ (quoteSent s q out).tr = x.tr := by
  refine ⟨_, rfl, ?_⟩
  rw [quoteSent]
  cases q.hdr with
  | none => exact ⟨intake_refl _, rfl⟩
  | some h => exact ⟨intake_trans (intake_trans (sendRsp_intake ..) (sendRsp_intake ..)) (sendRsp_intake ..), by simp only [sendRsp_tr]⟩

theorem quoteSent_tr (s : State) (q : QuoteReq) (out : List Byte) : (quoteSent s q out).tr = s.tr := by
  obtain ⟨x, rfl, -, htr⟩ := quoteSent_of_hdr (s := s) (q := q) out
  rw [htr]
  split <;> rfl

theorem quoteSent_irq {q : QuoteReq} (hq : q.path = .host) (s : State) (out : List Byte) : (quoteSent s q out).hp.irqsts.getLsbD 6 = true := by
  obtain ⟨x, rfl, hin, -⟩ := quoteSent_of_hdr (s := s) (q := q) out
  rw [if_pos hq] at hin
  exact hin.2.2.1 6 (irq_set s 6 (by decide))

theorem execQuoteComplete_of_run {q : QuoteReq} {b : List Byte} {s : State} (hserv : serving s = true) (h : s.tr.quoteRun = some (q, b)) :
    exec .quoteComplete s = .next (raise (quoteSent (quoteIssued s q (b ++ leBytes 64 (Config.sign b))) q (b ++ leBytes 64 (Config.sign b)))
      0xED 0xFF (some (quoteBin q.path))) := by
  simp only [exec, execQuoteComplete, h, hserv, Bool.not_true, Bool.false_eq_true, if_false]
  rfl

theorem execQuoteComplete_next {q : QuoteReq} {b : List Byte} {s : State} (hserv : serving s = true) (h : s.tr.quoteRun = some (q, b)) :
    ∃ t, exec .quoteComplete s = .next t ∧ t.tr.quoteRun = none ∧ t.tr.qcnt = s.tr.qcnt + 1 ∧ Only [.tr, .er, .hp, .qu, .cb] s t ∧
    (q.path = .host → t.tr.quote = b ++ leBytes 64 (Config.sign b) ∧ t.tr.qdone = true ∧ t.hp.irqsts.getLsbD 6 = true) ∧
    (q.path ≠ .host → t.tr.quote = s.tr.quote ∧ t.tr.issued = s.tr.issued ++ [(q.path, b ++ leBytes 64 (Config.sign b))]) := by
  have hx := execQuoteComplete_of_run hserv h
  refine ⟨_, hx, ?_⟩
  have hparts := exec_within hx (ps := [.tr, .er, .hp, .qu, .cb]) (by decide)
  generalize b ++ leBytes 64 (Config.sign b) = out at hparts ⊢
  rw [raise_tr, quoteSent_tr, quoteIssued, mapTr_tr]
  refine ⟨rfl, rfl, hparts, fun hq => ⟨if_pos hq, ?_, raise_irqsts _ _ _ _ _ (quoteSent_irq hq _ _)⟩, fun hq => ⟨if_neg hq, if_neg hq⟩⟩
  simp [hq]

theorem execQuoteComplete_of_idle {s : State} (h : serving s = false ∨ s.tr.quoteRun = none) : exec .quoteComplete s = .next s := by
  cases hrun : s.tr.quoteRun with
  | none => simp only [exec, execQuoteComplete, hrun]
  | some r =>
    have hserv : serving s = false := h.resolve_right (by simp [hrun])
    simp only [exec, execQuoteComplete, hrun, hserv, Bool.not_false, if_true]

end Sys2Proof.Laws

open Sys2Proof Sys2Proof.Machine Sys2Proof.Laws

/-- Settles O50: a quote request joins the queue or is refused by `quoteRefusal`, the answer of a quote keeps the host's interrupt through
the responses of the chain, the words of a written tag give its bytes again, and a key goes to its slot or is refused. -/
theorem quotesTagsAndKeys : Obligations.QuotesTagsAndKeys := by
  unfold Obligations.QuotesTagsAndKeys
  refine ⟨⟨fun path n s hserv hroom hkey => ?_, fun path n s hserv h => execQuoteRequest_of_refusal hserv h path n,
    fun q rest s hserv hrun hq => ?_, fun s h => execQuoteGenerate_of_idle h, fun q b s hserv h => execQuoteComplete_next hserv h,
    fun s h => execQuoteComplete_of_idle h, fun path n s hserv => congrArg Host.Outcome.next (if_neg (by simp [hserv]))⟩,
    fun req bs o s hpow hreq hbs hlen => execUserTagWrite_next hpow hreq hbs hlen, fun req a bs s h => ?_,
    fun n k rest s h hpow hk => execTagDigestUpdate_next h hpow hk, fun s h => ?_,
    fun req w s hserv hreq hgo hwrap => ⟨fun hseal hslot => ?_, fun hseal hslot => ?_, fun hseal => ?_⟩, fun req w s h => ?_⟩
  · exact (execQuoteRequest_of_serving hserv path n).trans (congrArg _ (quoteAsk_of_room hroom hkey path n))
  · exact (execQuoteGenerate_of_waiting hrun hq).trans (congrArg _ (if_pos hserv))
  · by_cases hpow : s.powered = true
    · exact congrArg Host.Outcome.next ((if_pos hpow).trans (tagWrite_of_no_place (h.resolve_left (by simp [hpow]))))
    · exact congrArg Host.Outcome.next (if_neg hpow)
  · exact execTagDigestUpdate_of_not_due h
  · have hx := (execTrkctlGo_of_serving hserv req w).trans (congrArg _ (keyGo_plain hreq hgo hwrap))
    rw [if_neg (by simp [hseal]), if_neg (by omega)] at hx
    exact ⟨_, hx, tget_tset_self .., rfl, rfl, by simp [keyLoaded]⟩
  · have hx := (execTrkctlGo_of_serving hserv req w).trans (congrArg _ (keyGo_plain hreq hgo hwrap))
    rw [if_neg (by simp [hseal]), if_pos hslot] at hx
    exact ⟨_, hx, keyRefused_parts s 4⟩
  · have hx := (execTrkctlGo_of_serving hserv req w).trans (congrArg _ (keyGo_plain hreq hgo hwrap))
    rw [if_pos (by simp [hseal])] at hx
    exact ⟨_, hx, keyRefused_parts s 1⟩
  · by_cases hserv : serving s = true
    · exact (execTrkctlGo_of_serving hserv req w).trans (congrArg _ (keyGo_of_not_go (h.resolve_left (by simp [hserv]))))
    · exact congrArg Host.Outcome.next (if_neg hserv)

end

section
namespace Sys2Proof.Laws

open Sys2Proof.Machine

/-! ## A write of one word -/

theorem leNat_leBytes (k n : Nat) : leNat (leBytes k n) = n % 256 ^ k := by
  induction k generalizing n with
  | zero => rw [leBytes, leNat, Nat.pow_zero, Nat.mod_one]
  | succ k ih =>
    calc leNat (leBytes (k + 1) n) = n % 256 + 256 * (n / 256 % 256 ^ k) := by rw [leBytes, leNat, ih, BitVec.toNat_ofNat]
      _ = n % 256 ^ (k + 1) := by rw [Nat.pow_succ, Nat.mul_comm (256 ^ k), Nat.mod_mul]

/-- A word at `a` acts alone: it belongs to no group, is no word of the legal core and no append. -/
abbrev AloneAt (a : Nat) : Prop := grouped a = false ∧ rwlReg a = none ∧ appendPort a 1 = none

theorem wordsOf_leBytes (w : Word) : wordsOf 1 (leBytes 4 w.toNat) = [w] := by
  have hlt := w.isLt
  have hval : leNat (leBytes 4 w.toNat) = w.toNat := by
    rw [leNat_leBytes]
    exact Nat.mod_eq_of_lt (by simpa using hlt)
  rw [wordsOf, List.take_of_length_le (by rw [leBytes_length]), hval, BitVec.ofNat_toNat, BitVec.setWidth_eq, wordsOf]

theorem wordList_of_alone {a : Nat} (ha : AloneAt a) (w : Word) : wordList a (leBytes 4 w.toNat) = [(a, w)] := by
  have hport : appendPort a ((leBytes 4 w.toNat).length / 4) = none := by
    rw [leBytes_length]
    exact ha.2.2
  rw [wordList, hport, leBytes_length, show 4 / 4 = 1 from rfl, wordsOf_leBytes]
  rfl

theorem appended_of_alone {a : Nat} (ha : AloneAt a) (w : Word) : appended a (leBytes 4 w.toNat) = none := by
  rw [appended, leBytes_length, show 4 / 4 = 1 from rfl, ha.2.2]
  rfl

theorem wordAt_of_ne {a b : Nat} (w : Word) (h : a ≠ b) : wordAt [(a, w)] b = none := by
  simp [wordAt, h]

theorem grouped_parts {a : Nat} (h : grouped a = false) : (a < 0x40800 ∨ 0x40880 ≤ a) ∧ a ≠ 0x200008 ∧ a ≠ 0x20000C ∧
    (a < 0x240800 ∨ 0x240A00 ≤ a) ∧ (a < 0x220060 ∨ 0x220068 < a) := by
  simp only [grouped, Bool.or_eq_false_iff, Bool.and_eq_false_iff, decide_eq_false_iff_not, Nat.not_le, Nat.not_lt, beq_eq_false_iff_ne] at h
  obtain ⟨⟨⟨⟨⟨⟨hpush, hlo⟩, hhi⟩, htag⟩, hack⟩, -⟩, -⟩ := h
  exact ⟨hpush, hlo, hhi, htag, hack⟩

theorem foldl_of_fixed {α β : Type} {f : α → β → α} {a : α} {l : List β} (h : ∀ b ∈ l, f a b = a) : l.foldl f a = a := by
  induction l with
  | nil => rfl
  | cons b l ih =>
    rw [List.foldl_cons, h b (List.mem_cons_self ..)]
    exact ih fun c hc => h c (List.mem_cons_of_mem _ hc)

theorem pushWords_of_alone {a : Nat} (ha : AloneAt a) (s : State) (req : Requester) (w : Word) : pushWords s req [(a, w)] = (s, 0) := by
  have hpush := (grouped_parts ha.1).1
  refine foldl_of_fixed fun i hi => ?_
  have hi := List.mem_range.mp hi
  have hne := wordAt_of_ne w (show a ≠ 0x40800 + 0x10 * i by omega)
  simp only [hne]

/-- A write of a word that acts alone: the word, and NOEFF. -/
theorem applyWrite_of_alone {a : Nat} (ha : AloneAt a) (s : State) (req : Requester) (w : Word) : applyWrite s req a (leBytes 4 w.toNat) =
    { s := if wordNoEff s req a w then noEff (applyWord req s (a, w)) req else applyWord req s (a, w), code := 0, noeff := wordNoEff s req a w } := by
  obtain ⟨-, hlo, hhi, htag, hack⟩ := grouped_parts ha.1
  have hrwl (s : State) : postRwl s req (rwlWords [(a, w)]) = s := by simp [rwlWords, ha.2.1, postRwl]
  have htime : hasTime [(a, w)] = false := by simp [hasTime, wordAt_of_ne w hlo, wordAt_of_ne w hhi]
  have htimes (s : State) : timeWords s [(a, w)] = s := by simp only [timeWords, wordAt_of_ne w hlo, wordAt_of_ne w hhi]
  have hacks (s : State) : ackWords s req [(a, w)] = s := by
    simp only [ackWords, wordAt_of_ne w (show a ≠ 0x220060 by omega), wordAt_of_ne w (show a ≠ 0x220064 by omega),
      wordAt_of_ne w (show a ≠ 0x220068 by omega), ite_self]
  have htags (s : State) : tagWords s req [(a, w)] = s := by
    have hnone : ([(a, w)].filter fun e => decide (0x240800 ≤ e.1) && decide (e.1 < 0x240A00)) = [] := by
      simp only [List.filter_eq_nil_iff, List.mem_singleton, forall_eq, Bool.and_eq_true, decide_eq_true_eq]
      omega
    simp only [tagWords, hnone]
  have hne : writeNoEff s req a (leBytes 4 w.toNat) = wordNoEff s req a w := by
    simp [writeNoEff, wordList_of_alone ha, appended_of_alone ha]
  simp only [applyWrite, hne, wordList_of_alone ha, appended_of_alone ha, hrwl, htime, htimes, hacks, htags, pushWords_of_alone ha, appendBytes,
    Bool.false_and, Bool.or_false, forEach, List.foldl_cons, List.foldl_nil]

/-! ## A word that any requester may write -/

/-- Words that Table 17.3 gives to some requesters alone. -/
def ownedWord (a : Nat) : Bool :=
  hostOrApp a || loaderPort a || decide (0x2000C0 ≤ a ∧ a < 0x200100) || decide (0x260024 ≤ a ∧ a ≤ 0x260030) || decide (0x240080 ≤ a ∧ a < 0x2400C0)

theorem noAccess_of_unowned {a : Nat} (h : ownedWord a = false) (req : Requester) (w : Word) : noAccess req a w = false := by
  simp only [ownedWord, Bool.or_eq_false_iff, decide_eq_false_iff_not, not_and, Nat.not_lt, Nat.not_le] at h
  obtain ⟨⟨⟨⟨hhost, hload⟩, halarm⟩, hdog⟩, hmeas⟩ := h
  have hport : a ≠ 0x240004 := by
    rintro rfl
    exact absurd hload (by decide)
  have halarm : ¬(0x2000C0 ≤ a ∧ a < 0x200100) := by omega
  have hdogs : a ≠ 0x260024 ∧ a ≠ 0x260028 ∧ a ≠ 0x26002C ∧ a ≠ 0x260030 := by omega
  obtain ⟨hdog1, hdog2, hdog3, hdog4⟩ := hdogs
  have hkey : a ≠ 0x240080 ∧ ¬(0x2400A0 ≤ a ∧ a < 0x2400C0) := by omega
  simp only [noAccess, hhost, hload, beq_eq_false_iff_ne.mpr hport, beq_eq_false_iff_ne.mpr hdog1, beq_eq_false_iff_ne.mpr hdog2,
    beq_eq_false_iff_ne.mpr hdog3, beq_eq_false_iff_ne.mpr hdog4, beq_eq_false_iff_ne.mpr hkey.1, ← Bool.decide_and, halarm, hkey.2, decide_false,
    Bool.false_and, Bool.or_false]

/-- A word of its own that any requester may write in the writable bits `~m`. -/
abbrev PlainAt (a : Nat) (m : Word) : Prop := AloneAt a ∧ access a = .free m ∧ ownedWord a = false ∧ carmine a = false

theorem applyWrite_of_plain {a : Nat} {m : Word} (ha : PlainAt a m) (s : State) (req : Requester) (w : Word) :
    applyWrite s req a (leBytes 4 w.toNat) =
      { s := if w &&& m != 0 then noEff (freeWord s req a (w &&& ~~~m)) req else freeWord s req a (w &&& ~~~m), code := 0, noeff := w &&& m != 0 } := by
  obtain ⟨halone, hacc, hown, hcarm⟩ := ha
  have hno := noAccess_of_unowned hown req w
  have hword : applyWord req s (a, w) = freeWord s req a (w &&& ~~~m) := by
    simp only [applyWord, hacc, hno, halone.1, viaLegal, hcarm, Bool.and_false, Bool.false_and, Bool.or_false, Bool.false_eq_true, if_false]
  have hne : wordNoEff s req a w = (w &&& m != 0) := by simp only [wordNoEff, hacc, hno, Bool.or_false]
  rw [applyWrite_of_alone halone, hword, hne]

theorem plainAt_irqmsk : PlainAt 0x250014 0xFFFF8000 := by decide

theorem plainAt_irqsts : PlainAt 0x250010 0xFFFF8000 := by decide

theorem plainAt_scr {i : Nat} (h : i < 4) : PlainAt (0x60 + 4 * i) 0 := by
  revert i
  decide

theorem aloneAt_reserved : AloneAt 0xFF0000 := by decide

theorem aloneAt_zero : AloneAt 0 := by decide

theorem access_reserved : access 0xFF0000 = .unmap := by decide

theorem access_zero : access 0 = .ro := by decide

theorem and_not_zero (w : Word) : w &&& ~~~0 = w := by
  show w &&& ~~~0#32 = w
  rw [BitVec.not_zero, BitVec.and_allOnes]

theorem freeWord_irqmsk (s : State) (req : Requester) (w : Word) : freeWord s req 0x250014 w = s.mapHp fun h => { h with irqmsk := w.setWidth 15 } := rfl

theorem freeWord_irqsts (s : State) (req : Requester) (w : Word) :
    freeWord s req 0x250010 w = s.mapHp fun h => { h with irqsts := h.irqsts &&& ~~~(w.setWidth 15) } := rfl

theorem freeWord_scr (s : State) (req : Requester) {i : Nat} (h : i < 4) (w : Word) :
    freeWord s req (0x60 + 4 * i) w = s.mapHp fun h => { h with scr := tset i w h.scr } := by
  interval_cases i <;> rfl

/-- A word below 2^15 writes nothing above the fifteen causes. -/
theorem unmasked_of_lt {w : Word} (h : w.toNat < 2 ^ 15) : (w &&& 0xFFFF8000 != 0) = false := by
  have hand : w &&& 0xFFFF8000 = 0 := by
    refine BitVec.eq_of_toNat_eq ?_
    rw [BitVec.toNat_and]
    refine Nat.eq_of_testBit_eq fun i => ?_
    rw [Nat.testBit_and]
    by_cases hi : i < 15
    · have : (0xFFFF8000 : Word).toNat.testBit i = false := by interval_cases i <;> rfl
      rw [this, Bool.and_false]
      exact (Nat.zero_testBit i).symm
    · have : w.toNat.testBit i = false := Nat.testBit_lt_two_pow (Nat.lt_of_lt_of_le h (Nat.pow_le_pow_right (by decide) (by omega)))
      rw [this, Bool.false_and]
      exact (Nat.zero_testBit i).symm
  rw [hand]
  rfl

theorem setWidth_unmasked (w : Word) : (w &&& ~~~0xFFFF8000).setWidth 15 = w.setWidth 15 := by
  refine BitVec.eq_of_getLsbD_eq fun i hi => ?_
  interval_cases i <;> simp

/-- Without NOEFF, or for another requester, a write is its word. -/
theorem noEff_of_effective {s : State} {req : Requester} {b : Bool} (h : req ≠ .host ∨ b = false) : (if b then noEff s req else s) = s := by
  rcases h with h | rfl
  · rw [noEff, if_neg h, ite_self]
  · rfl

theorem execRegisterWrite_of_serving {a : Nat} (hal : a % 4 = 0) {s : State} (hserv : serving s = true) (req : Requester) (w : Word) :
    exec (.registerWrite req a w) s = .next (applyWrite s req a (leBytes 4 w.toNat)).s := by
  have hx : exec (.registerWrite req a w) s = .next (applyWrite s req (a - a % 4) (leBytes 4 w.toNat)).s := congrArg Host.Outcome.next (if_pos hserv)
  rw [hx, hal, Nat.sub_zero]

/-- A write of the writable bits of a plain word, or one of another requester than the host, is its word. -/
theorem execRegisterWrite_of_plain {a : Nat} {m : Word} (ha : PlainAt a m) (hal : a % 4 = 0) {s : State} (hserv : serving s = true) {req : Requester}
    {w : Word} (h : req ≠ .host ∨ (w &&& m != 0) = false) : exec (.registerWrite req a w) s = .next (freeWord s req a (w &&& ~~~m)) := by
  rw [execRegisterWrite_of_serving hal hserv, applyWrite_of_plain ha, noEff_of_effective h]

theorem execRegisterWrite_of_noEff {a : Nat} (ha : AloneAt a) (hal : a % 4 = 0) {s : State} (hserv : serving s = true) {req : Requester}
    {w : Word} (h : wordNoEff s req a w = true) : exec (.registerWrite req a w) s = .next (noEff (applyWord req s (a, w)) req) := by
  rw [execRegisterWrite_of_serving hal hserv, applyWrite_of_alone ha, if_pos h]

end Sys2Proof.Laws

open Sys2Proof Sys2Proof.Machine Sys2Proof.Laws

/-- Settles O52: a single word that belongs to no group acts alone, and its address gives its access. -/
theorem registerWritesTakeEffect : Obligations.RegisterWritesTakeEffect := by
  unfold Obligations.RegisterWritesTakeEffect
  refine ⟨fun req w s hserv => ⟨fun h => ?_, fun h => ?_, fun h i hi => ?_, fun h => ?_, ?_⟩, fun req a w s h => congrArg Host.Outcome.next (if_neg (by simp [h]))⟩
  · rw [execRegisterWrite_of_plain plainAt_irqmsk rfl hserv (h.imp_right unmasked_of_lt), freeWord_irqmsk, setWidth_unmasked]
    rfl
  · rw [execRegisterWrite_of_plain plainAt_irqsts rfl hserv (h.imp_right unmasked_of_lt), freeWord_irqsts, setWidth_unmasked]
    rfl
  · rw [execRegisterWrite_of_plain (plainAt_scr hi) (by omega) hserv (.inl h), freeWord_scr s req hi, and_not_zero]
    rfl
  · have hword : applyWord req s (0xFF0000, w) = s.mapHp fun p => { p with unmap := true, una := 0xFF0000, unr := reqNum req } := by
      simp only [applyWord, access_reserved, noteUnmap, h, Bool.false_eq_true, if_false]
    rw [execRegisterWrite_of_noEff aloneAt_reserved rfl hserv rfl, hword, noEff_eq]
    rfl
  · have hword : applyWord req s (0, w) = s := by simp only [applyWord, access_zero]
    rw [execRegisterWrite_of_noEff aloneAt_zero rfl hserv rfl, hword, noEff_eq]
    rfl

end

section
namespace Sys2Proof.Laws

open Sys2Proof.Machine

/-! ## What a READ leaves of the port -/

theorem checked_pairGood (s : State) : Checked s (pairGood s) := by
  rw [pairGood]
  split
  · exact checked_refl s
  · exact checked_trans (checked_of_eq rfl rfl rfl) (checked_endSample ..)

theorem portRest_pairFailed (path : Nat) (s : State) (c : Option Crit) : portRest (pairFailed path s c).hp = portRest s.hp := by
  simp only [pairFailed]
  generalize hx : (s.mapLs fun l => { l with pairerr := satAdd l.pairerr 1, rdpair := true, pairRun := l.pairRun + 1 }) = x
  have hmark : x.hp = s.hp := by
    rw [← hx]
    rfl
  have hfirst : Checked x (if s.ls.pairRun == 0 then raise x 0x76 ((c.map (critChan x)).getD 0xFF) none else x) := by
    split
    · exact checked_raise ..
    · exact checked_refl x
  rw [← hmark]
  cases c with
  | none => exact (checked_trans hfirst (checked_raise ..)).1.1
  | some c => exact (checked_trans hfirst (checked_transferFailed ..)).1.1

theorem portRest_checkPair (req : Requester) (s : State) (e : Nat × Nat) : portRest (checkPair req s e).hp = portRest s.hp := by
  rw [checkPair, checkPairOn]
  split
  · exact (checked_pairGood s).1.1
  · exact portRest_pairFailed ..

theorem portRest_forEach {α : Type} {f : State → α → State} (h : ∀ x a, portRest (f x a).hp = portRest x.hp) (l : List α) (s : State) :
    portRest (forEach l f s).hp = portRest s.hp :=
  forEach_keep (fun s => portRest s.hp) h l s

/-- A conditional effect that keeps the port. -/
theorem hp_ite {s x : State} (b : Prop) [Decidable b] (h : x.hp = s.hp) : (if b then x else s).hp = s.hp := by
  split
  · exact h
  · rfl

theorem popQueue_hp (s : State) (req : Requester) (q : Nat) : (popQueue s req q).hp = s.hp :=
  (show Only [.qu] s (popQueue s req q) by simp) .hp rfl

theorem popSprint_hp (s : State) : (popSprint s).hp = s.hp := (show Only [.pq] s (popSprint s) by simp) .hp rfl

theorem portRest_readEffects (s : State) (req : Requester) (a n : Nat) : portRest (readEffects s req a n).hp = portRest s.hp := by
  have hpops := portRest_forEach (f := fun s q => if inRange a n (0x40020 + 0x40 * q) then popQueue s req q else s)
    (fun x q => congrArg portRest (hp_ite _ (popQueue_hp x req q))) (List.range 32) s
  refine (portRest_forEach (portRest_checkPair req) ..).trans (Eq.trans ?_ hpops)
  exact congrArg portRest ((hp_ite _ (mapEr_hp ..)).trans (hp_ite _ (popSprint_hp _)))

/-! ## The CRC of a transaction -/

theorem crcBreak_of_none {s : State} (h : s.hp.crcRun = 0) : crcBreak s = s := if_pos h

theorem crcGood_of_settled {s : State} (hrun : s.hp.crcRun = 0) (hdone : s.hp.crcDone = []) : crcGood s = s := by
  have hsame : ({ s.hp with crcDone := [] } : Port) = s.hp := by rw [← hdone]
  simp only [crcGood, crcBreak_of_none hrun, hdone, forEach, List.foldl_nil, State.mapHp, hsame]

theorem hostTransaction_of_good {s : State} (hserv : serving s = true) (hrun : s.hp.crcRun = 0) (hdone : s.hp.crcDone = []) (sent : List Byte)
    (bad : List Word) (go : State → State) : hostTransaction s (goodWire sent) sent bad go = go s := by
  simp [hostTransaction, goodWire, hserv, crcGood_of_settled hrun hdone]

theorem hostTransaction_of_bad {s : State} (hserv : serving s = true) {wire : Wire} {sent : List Byte} (hend : wire.complete = true)
    (hcrc : wire.crc ≠ crc16 sent) (bad : List Word) (go : State → State) :
    hostTransaction s wire sent bad go = answerHost (crcError s) 1 false bad := by
  simp [hostTransaction, hserv, hend, hcrc]

theorem hostTransaction_of_early {s : State} (hserv : serving s = true) {wire : Wire} (hend : wire.complete = false) (sent : List Byte)
    (bad : List Word) (go : State → State) : hostTransaction s wire sent bad go = abortHost s := by
  simp [hostTransaction, hserv, hend]

theorem hostTransaction_of_not_serving {s : State} (hserv : serving s = false) (wire : Wire) (sent : List Byte)
    (bad : List Word) (go : State → State) : hostTransaction s wire sent bad go = s := by
  simp [hostTransaction, hserv]

/-- The port after a wrong CRC, but for its interrupt causes. -/
theorem crcError_port (s : State) : portRest (crcError s).hp =
    portRest { s.hp with crcerr := true, crcc := satAdd s.hp.crcc 1, crcRun := s.hp.crcRun + 1 } := by
  rw [crcError]
  split
  · exact (raise_intake ..).1
  · rfl

/-- A transaction with a wrong CRC. -/
theorem wrong_crc (s : State) (bad : List Word) : (answerHost (crcError s) 1 false bad).hp.crcerr = true ∧
    (answerHost (crcError s) 1 false bad).hp.crcRun = s.hp.crcRun + 1 ∧ (answerHost (crcError s) 1 false bad).hp.crcc = satAdd s.hp.crcc 1 ∧
    (answerHost (crcError s) 1 false bad).hp.code = 1 ∧
    (answerHost (crcError s) 1 false bad).hp.status = some (1, irqN (answerHost (crcError s) 1 false bad).hp, false) ∧
    (answerHost (crcError s) 1 false bad).hp.data = bad ∧ Only [.hp, .er, .qu] s (answerHost (crcError s) 1 false bad) := by
  have h := crcError_port s
  refine ⟨congrArg Port.crcerr h, congrArg Port.crcRun h, congrArg Port.crcc h, rfl, rfl, rfl, ?_⟩
  simp [answerHost]

/-- A transaction ended early. -/
theorem ended_early (s : State) : (abortHost s).hp.abort = true ∧ (abortHost s).hp.status = none ∧ (abortHost s).hp.data = [] ∧
    (abortHost s).hp.idle = 0 ∧ Only [.hp, .er, .qu] s (abortHost s) := by
  have h := (raise_intake ((crcBreak s).mapHp fun h => { h with idle := 0, abort := true, status := none, data := [], ignoring := false }) 0xF1 0xFF
    (some 1)).1
  exact ⟨congrArg Port.abort h, congrArg Port.status h, congrArg Port.data h, congrArg Port.idle h, by simp [abortHost]⟩

/-- A transaction that no edge has followed in time. -/
def timedOut (s : State) : State :=
  raise ((crcBreak s).mapHp fun h => { h with idle := 0, tmo := true, status := none, data := [], ignoring := true }) 0xF1 0xFF (some 2)

theorem timedOut_port (s : State) : (timedOut s).hp.tmo = true ∧ (timedOut s).hp.ignoring = true ∧ (timedOut s).hp.status = none ∧
    (timedOut s).hp.data = [] ∧ (timedOut s).hp.idle = 0 ∧ Only [.hp, .er, .qu] s (timedOut s) := by
  have h := (raise_intake ((crcBreak s).mapHp fun h => { h with idle := 0, tmo := true, status := none, data := [], ignoring := true }) 0xF1 0xFF
    (some 2)).1
  exact ⟨congrArg Port.tmo h, congrArg Port.ignoring h, congrArg Port.status h, congrArg Port.data h, congrArg Port.idle h, by simp [timedOut]⟩

theorem execHostTimeout_of_due {s : State} (hserv : serving s = true) (hign : s.hp.ignoring = false) (h : s.hp.hto ≤ s.hp.idle) :
    exec .hostTimeout s = .next (timedOut s) := by
  refine if_neg ?_
  simp [hserv, hign, h]

theorem execHostTimeout_of_not_due {s : State} (h : serving s = false ∨ s.hp.ignoring = true ∨ s.hp.idle < s.hp.hto) : exec .hostTimeout s = .next s := by
  refine if_pos ?_
  rcases h with h | h | h <;> simp [h]

/-- What a READ of the host does. -/
def hostRead (a n : Nat) (s : State) : State :=
  if lenAddrOk a n 4096 then answerHost (readEffects s .host a (n / 4)) 0 false (readWords s .host a (n / 4)) else answerHost s 3 false (zeroWords n)

theorem execRead_host (a n : Nat) (w : Wire) (s : State) :
    exec (.read .host a n w) s = .next (hostTransaction s w (readSent a n) (zeroWords n) (hostRead a n)) := rfl

/-- What a WRITE of the host does. -/
def hostWrite (a : Nat) (bs : List Byte) (s : State) : State :=
  if lenAddrOk a bs.length 65532 then
    answerHost (applyWrite s .host a bs).s (applyWrite s .host a bs).code (applyWrite s .host a bs).noeff []
  else answerHost s 3 false []

theorem execWrite_host (a : Nat) (bs : List Byte) (w : Wire) (s : State) :
    exec (.write .host a bs w) s = .next (hostTransaction s w (writeSent a bs) [] (hostWrite a bs)) := rfl

theorem execPoll_eq (w : Wire) (s : State) :
    exec (.poll w) s = .next (hostTransaction s w pollSent [0] fun s => answerHost s 0 false [irqSum s.hp]) := rfl

theorem execRead_other {req : Requester} (hreq : req ≠ .host) (a n : Nat) (w : Wire) (s : State) : exec (.read req a n w) s =
    .next (if serving s && lenAddrOk a n 4096 then (readEffects s req a (n / 4)).mapHp fun h => { h with data := readWords s req a (n / 4) } else s) := by
  refine (if_neg hreq).trans ?_
  split <;> rfl

theorem execWrite_other {req : Requester} (hreq : req ≠ .host) (a : Nat) (bs : List Byte) (w : Wire) (s : State) : exec (.write req a bs w) s =
    .next (if serving s && lenAddrOk a bs.length 65532 then (applyWrite s req a bs).s else s) := by
  refine (if_neg hreq).trans ?_
  split <;> rfl

theorem execScsAbort_of_open {s : State} (hserv : serving s = true) (hign : s.hp.ignoring = false) : exec .scsAbort s = .next (abortHost s) := by
  simp only [exec, execScsAbort, hserv, hign, Bool.not_true, Bool.false_eq_true, if_false]

end Sys2Proof.Laws

open Sys2Proof Sys2Proof.Machine Sys2Proof.Laws

/-- Settles O51: a transaction with its CRC does what its command says, one without it or ended early touches the port and its event alone. -/
theorem hostTransactionsAreAnswered : Obligations.HostTransactionsAreAnswered := by
  unfold Obligations.HostTransactionsAreAnswered
  refine ⟨fun a n s hserv hrun hdone hlen => ?_, fun a n s hserv hrun hdone hlen => ?_, fun a bs s hserv hrun hdone hlen => ?_, fun i w s hi hserv hrun hdone => ?_,
    fun a bs w s hserv hend hcrc => ?_, fun a n w s hserv hend hcrc => ?_, fun w s hserv hend hcrc => ?_, fun s hserv hrun hdone => ?_,
    fun b s h1 h2 h3 hserv hrun => ?_, fun b s h => ?_, fun a n bs w s hserv hend => ?_, fun s hserv hign => ?_, fun s hserv hign => ?_,
    fun s hserv hign h => ?_, fun s h => execHostTimeout_of_not_due h, fun req a n bs w s hreq hserv => ⟨fun hlen => ?_, fun hlen => ?_, fun hlen => ?_, fun hlen => ?_⟩,
    fun req w a n bs s hserv => ?_⟩
  · rw [execRead_host, hostTransaction_of_good hserv hrun hdone, hostRead, if_pos hlen]
    have hcode : (portRest (readEffects s .host a (n / 4)).hp).code = (portRest s.hp).code := by rw [portRest_readEffects]
    exact ⟨_, _, rfl, rfl, rfl, hcode, rfl, rfl⟩
  · rw [execRead_host, hostTransaction_of_good hserv hrun hdone, hostRead, if_neg (by simp [hlen])]
    rfl
  · rw [execWrite_host, hostTransaction_of_good hserv hrun hdone, hostWrite, if_neg (by simp [hlen])]
    rfl
  · have hlen : lenAddrOk (0x60 + 4 * i) (leBytes 4 w.toNat).length 65532 = true := by
      rw [leBytes_length]
      interval_cases i <;> decide
    rw [execWrite_host, hostTransaction_of_good hserv hrun hdone, hostWrite, if_pos hlen, applyWrite_of_plain (plainAt_scr hi), freeWord_scr s .host hi, and_not_zero]
    have hne : (w &&& 0 != 0) = false := by simp
    rw [hne]
    exact ⟨_, rfl, tget_tset_self .., rfl, rfl, rfl, rfl, by simp [answerHost]⟩
  · rw [execWrite_host, hostTransaction_of_bad hserv hend hcrc]
    obtain ⟨herr, hrun, hcount, hcode, hstatus, hdata, hparts⟩ := wrong_crc s []
    exact ⟨_, rfl, herr, hrun, hcount, hcode, hstatus, hdata, hparts⟩
  · rw [execRead_host, hostTransaction_of_bad hserv hend hcrc]
    obtain ⟨herr, hrun, -, hcode, -, hdata, hparts⟩ := wrong_crc s (zeroWords n)
    exact ⟨_, rfl, herr, hrun, hcode, hdata, hparts⟩
  · rw [execPoll_eq, hostTransaction_of_bad hserv hend hcrc]
    obtain ⟨herr, hrun, -, hcode, -, hdata, hparts⟩ := wrong_crc s [0]
    exact ⟨_, rfl, herr, hrun, hcode, hdata, hparts⟩
  · rw [execPoll_eq, hostTransaction_of_good hserv hrun hdone]
    rfl
  · have hx : exec (.unknownCommand b) s = .next (answerHost (crcBreak s) 2 false []) := if_neg (by simp only [h1, h2, h3, hserv]; simp)
    rw [hx, crcBreak_of_none hrun]
    rfl
  · refine if_pos ?_
    rcases h with h | h | h | h
    · exact .inl h
    · exact .inr (.inl h)
    · exact .inr (.inr (.inl h))
    · simp [h]
  · rw [execRead_host, execWrite_host, execPoll_eq, hostTransaction_of_early hserv hend, hostTransaction_of_early hserv hend,
      hostTransaction_of_early hserv hend]
    obtain ⟨habort, hstatus, hdata, -, hparts⟩ := ended_early s
    exact ⟨_, rfl, rfl, rfl, habort, hstatus, hdata, hparts⟩
  · exact ⟨_, execScsAbort_of_open hserv hign, ended_early s⟩
  · simp only [exec, execScsAbort, hserv, hign, Bool.not_true, Bool.false_eq_true, if_false, if_true]
    rfl
  · exact ⟨_, execHostTimeout_of_due hserv hign h, timedOut_port s⟩
  · exact ⟨_, (execRead_other hreq ..).trans (congrArg Host.Outcome.next (if_pos (by simp [hserv, hlen]))), rfl⟩
  · exact (execRead_other hreq ..).trans (congrArg Host.Outcome.next (if_neg (by simp [hlen])))
  · exact (execWrite_other hreq ..).trans (congrArg Host.Outcome.next (if_pos (by simp [hserv, hlen])))
  · exact (execWrite_other hreq ..).trans (congrArg Host.Outcome.next (if_neg (by simp [hlen])))
  · refine ⟨if_pos (by simp [hserv]), ?_, ?_, ?_⟩
    · rw [execPoll_eq, hostTransaction_of_not_serving hserv]
    · by_cases hreq : req = .host
      · rw [hreq, execRead_host, hostTransaction_of_not_serving hserv]
      · exact (execRead_other hreq ..).trans (congrArg Host.Outcome.next (if_neg (by simp [hserv])))
    · by_cases hreq : req = .host
      · rw [hreq, execWrite_host, hostTransaction_of_not_serving hserv]
      · exact (execWrite_other hreq ..).trans (congrArg Host.Outcome.next (if_neg (by simp [hserv])))

end

section
namespace Sys2Proof.Laws

open Sys2Proof.Machine

/-! ## Sign-on of the optical port -/

theorem execSignOn_of_heard {p : Option Nat} {s : State} (hopen : signOnOpen s = true) (h : p = none ∨ p = some s.ser.phys) :
    exec (.signOn p) s = .next (s.mapSer fun x => { x with awaitOpt := true, optOk := false, optTicks := 0, answer := [x.zmax] }) := by
  refine if_pos ?_
  rcases h with rfl | rfl <;> simp [hopen]

theorem execSignOn_of_not {p : Option Nat} {s : State} (h : signOnOpen s = false ∨ (p ≠ none ∧ p ≠ some s.ser.phys)) : exec (.signOn p) s = .next s := by
  refine if_neg ?_
  rcases h with h | ⟨hnone, hphys⟩
  · simp [h]
  · simp [hnone, hphys]

theorem execOptionSelect_of_awaited {s : State} (hopen : signOnOpen s = true) (hawait : s.ser.awaitOpt = true) (p y z : Nat) :
    exec (.optionSelect p y z) s = if p = 2 ∧ y = 2 ∧ z ≤ s.ser.zmax then
      .next (s.mapSer fun x => { x with awaitOpt := false, optOk := true, optTicks := 0, z := z }) else .next (toSignOn s) :=
  if_neg (by simp [hopen, hawait])

end Sys2Proof.Laws

open Sys2Proof Sys2Proof.Machine Sys2Proof.Laws

/-- Settles O53: each row of the sign-on has one condition and one update of the serial part. -/
theorem opticalSignOn : Obligations.OpticalSignOn := by
  unfold Obligations.OpticalSignOn
  refine ⟨fun p s hopen h => execSignOn_of_heard hopen h, fun p s h => execSignOn_of_not h, fun z s hopen hawait hz => ?_,
    fun p y z s hopen hawait h => ?_, fun p y z s h => if_pos ?_, fun s hawait h => if_pos ⟨hawait, h⟩, fun s h => if_neg ?_,
    fun s hopen hok h => if_pos (by simp [hopen, hok, h]), fun s h => if_neg ?_⟩
  · exact (execOptionSelect_of_awaited hopen hawait 2 2 z).trans (if_pos ⟨rfl, rfl, hz⟩)
  · refine (execOptionSelect_of_awaited hopen hawait p y z).trans (if_neg fun ⟨hp, hy, hz⟩ => ?_)
    omega
  · rcases h with h | h <;> simp [h]
  · rintro ⟨hawait, hticks⟩
    rcases h with h | h
    · exact absurd (hawait.symm.trans h) (by decide)
    · omega
  · rcases h with h | h | h <;> simp [h]

namespace Sys2Proof.Laws

open Sys2Proof.Machine

/-! ## HDLC connections -/

/-- A frame on `p` answered with `l`. -/
def answered (s : State) (p : Nat) (l : List Nat) : State := (heard s p).answer l

theorem isAssoc_iff {p c u : Nat} {a : Assoc} : isAssoc p c u a = true ↔ a.port = p ∧ a.client = c ∧ a.upper = u := by
  simp [isAssoc, and_assoc]

theorem dropAssoc_assoc (s : State) (p c u : Nat) : (dropAssoc s p c u).ser.assoc = s.ser.assoc.filter fun a => !isAssoc p c u a := rfl

theorem find?_filter_not {α : Type} (f : α → Bool) (l : List α) : (l.filter fun a => !f a).find? f = none := by
  simp

theorem find?_filter_of_imp {α : Type} {f g : α → Bool} (h : ∀ a, f a = true → g a = true) (l : List α) : (l.filter g).find? f = l.find? f := by
  rw [List.find?_filter]
  exact congrArg (l.find? ·) (funext fun a => by specialize h a; cases hf : f a <;> simp_all)

/-- The associations after the end of a connection. -/
theorem endConnection_ser (s : State) (p c u : Nat) : (endConnection s p c u).ser.assoc = s.ser.assoc.filter (fun a => !isAssoc p c u a && (p != 0 || a.port != 0)) ∧
    (p = 0 → (endConnection s p c u).ser.st0 = 0) ∧ Only [.ser] s (endConnection s p c u) := by
  rw [endConnection]
  by_cases hp : p = 0
  · rw [if_pos hp]
    refine ⟨?_, fun _ => rfl, by simp⟩
    subst hp
    show (s.ser.assoc.filter _).filter _ = _
    rw [List.filter_filter]
    exact congrArg (s.ser.assoc.filter ·) (funext fun a => by simp [Bool.and_comm])
  · rw [if_neg hp]
    refine ⟨?_, fun h => absurd h hp, by simp⟩
    rw [dropAssoc_assoc]
    exact congrArg (s.ser.assoc.filter ·) (funext fun a => by simp [hp])

theorem endConnection_drops (s : State) (p c u : Nat) : assocOf (endConnection s p c u) p c u = none ∧
    (p = 0 → (endConnection s p c u).ser.st0 = 0 ∧ ∀ a, a ∈ (endConnection s p c u).ser.assoc → a.port ≠ 0) := by
  obtain ⟨hassoc, hst, -⟩ := endConnection_ser s p c u
  refine ⟨?_, fun hp => ⟨hst hp, fun a ha => ?_⟩⟩
  · rw [assocOf, hassoc, List.find?_eq_none]
    intro a ha
    have := (List.mem_filter.mp ha).2
    simp only [Bool.and_eq_true, Bool.not_eq_true'] at this
    simp [this.1]
  · rw [hassoc] at ha
    have := (List.mem_filter.mp ha).2
    simp [hp] at this
    exact this.2

theorem endConnection_keeps {p : Nat} (hp : p ≠ 0) (s : State) {c u c' u' : Nat} (h : (c', u') ≠ (c, u)) :
    assocOf (endConnection s p c u) p c' u' = assocOf s p c' u' := by
  rw [assocOf, (endConnection_ser s p c u).1, assocOf]
  refine find?_filter_of_imp (fun a ha => ?_) _
  obtain ⟨-, hc, hu⟩ := isAssoc_iff.mp ha
  have hne : isAssoc p c u a = false := by
    rw [Bool.eq_false_iff]
    intro hold
    obtain ⟨-, hc', hu'⟩ := isAssoc_iff.mp hold
    exact h (by rw [← hc, ← hu, hc', hu'])
  simp [hne, hp]

/-! ## Association requests -/

theorem execAarq_of_open {p u : Nat} {s : State} (hopen : hdlcOpen s p = true) (hdev : logicalDevice s u = true) (c : Nat) (auth : DlmsAuth) (ciph ok : Bool) :
    exec (.aarq p c u auth ciph ok) s = .next (aarqAnswer (heard s p) p c u auth ciph ok) := by
  simp only [exec, execAarq, hopen, hdev, Bool.not_true, Bool.false_eq_true, if_false]

theorem dropAssoc_length_le (s : State) (p c u : Nat) : (dropAssoc s p c u).ser.assoc.length ≤ s.ser.assoc.length := List.length_filter_le ..

theorem dropAssoc_of_none {s : State} {p c u : Nat} (h : assocOf s p c u = none) : (dropAssoc s p c u).ser.assoc = s.ser.assoc := by
  rw [dropAssoc_assoc, List.filter_eq_self]
  intro a ha
  simpa using List.find?_eq_none.mp h a ha

/-- A client above the public one. -/
theorem authAllowed_of_client {c : Nat} (h1 : 1 ≤ c) (h2 : c ≤ 0x7F) (h3 : c ≠ 0x10) : authAllowed c .lls = true ∧ authAllowed c .hlsGmac = true := by
  simp [authAllowed, h1, h2, h3]

theorem aarqAnswer_of_full {s : State} {p c u : Nat} (h : 32 ≤ (dropAssoc s p c u).ser.assoc.length) (auth : DlmsAuth) (ciph ok : Bool) :
    aarqAnswer s p c u auth ciph ok = s.answer [2] := if_pos h

theorem aarqAnswer_of_level {s : State} {p c u : Nat} (h : s.ser.assoc.length < 32) {auth : DlmsAuth} (hauth : authAllowed c auth = false) (ciph ok : Bool) :
    aarqAnswer s p c u auth ciph ok = s.answer [1] := by
  have hroom := dropAssoc_length_le s p c u
  simp only [aarqAnswer, if_neg (show ¬32 ≤ (dropAssoc s p c u).ser.assoc.length by omega), hauth, Bool.not_false, if_true]
  rfl

/-- A request of an allowed level with room for an association. -/
theorem aarqAnswer_of_allowed {s : State} {p c u : Nat} (h : s.ser.assoc.length < 32) {auth : DlmsAuth} (hauth : authAllowed c auth = true) (ciph ok : Bool) :
    aarqAnswer s p c u auth ciph ok =
      if (auth == .hlsGmac || ciph) && !keysLoaded s then raise (s.answer [1]) 0xFA 0xFF none
      else if auth != .lowest && !ok then raise (s.answer [1]) 0xFB 0xFF (some (if auth = .lls then 1 else 2))
      else ((dropAssoc s p c u).mapSer fun x => { x with assoc := x.assoc ++
        [{ port := p, client := c, upper := u, keyed := auth == .hlsGmac || ciph, ciph := ciph }] }).answer [0] := by
  have hroom := dropAssoc_length_le s p c u
  simp only [aarqAnswer, if_neg (show ¬32 ≤ (dropAssoc s p c u).ser.assoc.length by omega), hauth, Bool.not_true, Bool.false_eq_true, if_false]
  rfl

/-- A refusal with its event. -/
theorem refused_aarq (s : State) (code : Nat) (v : Option Int) : (raise (s.answer [1]) code 0xFF v).ser.answer = [1] ∧
    (raise (s.answer [1]) code 0xFF v).ser.assoc = s.ser.assoc ∧ Only [.ser, .er, .hp, .qu] s (raise (s.answer [1]) code 0xFF v) := by
  rw [raise_ser]
  exact ⟨rfl, rfl, by simp [State.answer]⟩

/-! ## Services -/

theorem countApdu_parts (s : State) (a : Assoc) : Only [.ser] s (countApdu s a) ∧
    (countApdu s a).ser.invE = (if a.ciph = true then (s.ser.invE + 1) % 2 ^ 32 else s.ser.invE) ∧ (countApdu s a).ser.notify = s.ser.notify := by
  rw [countApdu]
  cases a.ciph
  · exact ⟨by simp [heard], rfl, rfl⟩
  · exact ⟨by simp [heard], rfl, rfl⟩

theorem execGet_of_assoc {s : State} {p c u : Nat} {x : Assoc} (h : assocOf s p c u = some x) (hopen : hdlcOpen s p = true) (a : Nat) :
    exec (.get p c u a) s =
      if a = eventStatus then
        if u = 1 then .next (((countApdu s x).answer (countApdu s x).ser.notify).mapSer fun x => { x with notify := [] })
        else .next ((countApdu s x).answer [])
      else
        match pairLen (a - a % 4) with
        | some n => .next ((checkPairOn pathDlms .app (countApdu s x) (a - a % 4, n)).answer ((readWords (countApdu s x) .app (a - a % 4) (n / 8)).map (·.toNat)))
        | none => .next ((readEffects (countApdu s x) .app (a - a % 4) 1).answer ((readWords (countApdu s x) .app (a - a % 4) 1).map (·.toNat))) := by
  simp only [exec, execGet, h, hopen, Bool.not_true, Bool.false_eq_true, if_false]
  rfl

theorem dlmsWrite_of_assoc {s : State} {p c u : Nat} {x : Assoc} (h : assocOf s p c u = some x) (hopen : hdlcOpen s p = true) (hc : c ≠ 0x10)
    {a : Nat} (hal : a % 4 = 0) (w : Word) : dlmsWrite s p c u a w =
      (applyWrite (countApdu s x) .app a (leBytes 4 w.toNat)).s.answer [(applyWrite (countApdu s x) .app a (leBytes 4 w.toNat)).code] := by
  simp [dlmsWrite, h, hopen, hc, hal]

theorem dlmsWrite_of_not {s : State} {p c u : Nat} (h : c = 0x10 ∨ assocOf s p c u = none ∨ hdlcOpen s p = false) (a : Nat) (w : Word) :
    dlmsWrite s p c u a w = s := by
  rw [dlmsWrite]
  split
  · rfl
  · next x hx =>
    refine if_pos ?_
    rcases h with h | h | h
    · simp [h]
    · exact absurd (hx.symm.trans h) (by simp)
    · simp [h]

theorem execDataNotification_of_held {s : State} {n : Nat} {rest : List Nat} (h : s.ser.notify = n :: rest) : exec .dataNotification s =
    if hdlcOpen s 1 && s.ser.push then .next (s.mapSer fun x => { x with notify := rest, sent := x.sent ++ [n] }) else .next s := by
  simp only [exec, execDataNotification, h]

/-! ## Single registers -/

theorem readWord_irqmsk (s : State) (req : Requester) : readWord s req 0x250014 = word s.hp.irqmsk.toNat := by
  have hstored : storedAddr 0x250014 = false := by decide
  rw [readWord, hstored, Bool.and_false]
  cases req <;> rfl

theorem readWords_one (s : State) (req : Requester) (a : Nat) : readWords s req a 1 = [readWord s req a] := rfl

theorem pairLen_irqmsk : pairLen 0x250014 = none := by decide

/-- A READ of the one word `IRQMSK` pops nothing and checks no pair. -/
theorem readEffects_irqmsk (s : State) (req : Requester) : readEffects s req 0x250014 1 = s := by
  have hpairs : pairsIn 0x250014 1 = [] := by decide
  have hpops : forEach (List.range 32) (fun s q => if inRange 0x250014 1 (0x40020 + 0x40 * q) then popQueue s req q else s) s = s :=
    forEach_keep id (fun x q => if_neg (by simp [inRange]; omega)) _ s
  rw [readEffects, hpops, hpairs]
  rfl

theorem execGet_of_not {s : State} {p c u : Nat} (h : assocOf s p c u = none ∨ hdlcOpen s p = false) (a : Nat) : exec (.get p c u a) s = .next s := by
  cases hx : assocOf s p c u with
  | none => simp only [exec, execGet, hx]
  | some x =>
    have hopen := h.resolve_left (by simp [hx])
    simp only [exec, execGet, hx, hopen, Bool.not_false, if_true]

end Sys2Proof.Laws

open Sys2Proof Sys2Proof.Machine Sys2Proof.Laws

/-- Settles O54: an association request is one list of conditions, the end of a connection one filter, and a service one register access. -/
theorem associationsServe : Obligations.AssociationsServe := by
  unfold Obligations.AssociationsServe
  refine ⟨fun p u s hopen => ?_, fun p u l s h => if_pos ?_, fun p c u s hopen => ?_, fun p c u s hopen => if_neg (by simp [hopen]),
    fun p c u s hopen hsil => ?_, fun p c u s h => if_neg ?_, fun p u s hopen hdev hnone => ?_,
    fun p c u s hopen hdev hroom h1 h2 h3 hkeys => ?_, fun p c u auth ciph ok s hopen hdev hnone hfull => ?_,
    fun p c u ciph ok s hopen hdev hroom hc => ?_, fun p c u ciph ok s hopen hdev hroom h1 h2 h3 hkeys => ?_,
    fun p c u s hopen hdev hroom h1 h2 h3 => ?_, fun p c u auth ciph ok s => ⟨fun hopen hdev => ?_, fun hopen => if_pos (by simp [hopen])⟩,
    fun p c u x s hx hopen => ?_, fun p c u a n x s hx hopen hal hlt hpair => ?_, fun p c x s hx hopen => ?_,
    fun p c u w x s hx hopen hc => ?_, fun p c u x s hx hopen hc => ?_,
    fun p c u a w s h => ⟨congrArg Host.Outcome.next (dlmsWrite_of_not h a w), congrArg Host.Outcome.next (dlmsWrite_of_not h a w)⟩,
    fun p c u a s h => execGet_of_not h a, fun s hdue hat => ?_, fun s h => if_neg ?_, fun n rest s hn hopen hpush => ?_, fun s h => ?_⟩
  · have hx : exec (.hdlcFrame p u s.ser.phys) s = .next (answered s p [if logicalDevice s u then ansOk else ansDm]) := if_neg (by simp [hopen])
    exact hx
  · rcases h with h | h <;> simp [h]
  · obtain ⟨hdrop, hport⟩ := endConnection_drops s p c u
    exact ⟨_, if_pos hopen, hdrop, rfl, hport, fun hp c' u' hne => endConnection_keeps hp s hne,
      only_trans (endConnection_ser s p c u).2.2 (by simp [State.answer])⟩
  · obtain ⟨hdrop, hport⟩ := endConnection_drops s p c u
    exact ⟨_, if_pos (by simp [hopen, hsil]), hdrop, hport, (endConnection_ser s p c u).2.2⟩
  · rcases h with h | h <;> simp [h]
  · have hallowed := aarqAnswer_of_allowed (s := heard s p) (p := p) (u := u) (c := 0x10) (auth := .lowest) (by simp [heard, hnone]) rfl false false
    refine ⟨_, (execAarq_of_open hopen hdev 0x10 .lowest false false).trans (congrArg _ hallowed), rfl, ?_, by simp [State.answer, heard, dropAssoc]⟩
    simp [State.answer, heard, dropAssoc, hnone]
  · have hallowed := aarqAnswer_of_allowed (s := heard s p) (p := p) (u := u) hroom (authAllowed_of_client h1 h2 h3).2 true true
    rw [show keysLoaded (heard s p) = true from hkeys, if_neg (by simp), if_neg (by simp)] at hallowed
    refine ⟨_, (execAarq_of_open hopen hdev c .hlsGmac true true).trans (congrArg _ hallowed), rfl, List.mem_append_right _ (List.mem_singleton_self _),
      by simp [State.answer, heard, dropAssoc]⟩
  · have hfull' : 32 ≤ (dropAssoc (heard s p) p c u).ser.assoc.length := by
      rw [dropAssoc_of_none (show assocOf (heard s p) p c u = none from hnone)]
      exact hfull
    exact ⟨_, (execAarq_of_open hopen hdev c auth ciph ok).trans (congrArg _ (aarqAnswer_of_full hfull' ..)), rfl, rfl, by simp [State.answer, heard]⟩
  · have hlevel : authAllowed c .lowest = false := by simp [authAllowed, hc]
    exact ⟨_, (execAarq_of_open hopen hdev c .lowest ciph ok).trans (congrArg _ (aarqAnswer_of_level (s := heard s p) hroom hlevel ..)), rfl, rfl,
      by simp [State.answer, heard]⟩
  · have hallowed := aarqAnswer_of_allowed (s := heard s p) (p := p) (u := u) hroom (authAllowed_of_client h1 h2 h3).2 ciph ok
    rw [show keysLoaded (heard s p) = false from hkeys, if_pos (by simp)] at hallowed
    obtain ⟨hans, hassoc, hparts⟩ := refused_aarq (heard s p) 0xFA none
    exact ⟨_, (execAarq_of_open hopen hdev c .hlsGmac ciph ok).trans (congrArg _ hallowed), hans, hassoc, only_trans (by simp [heard]) hparts⟩
  · have hallowed := aarqAnswer_of_allowed (s := heard s p) (p := p) (u := u) hroom (authAllowed_of_client h1 h2 h3).1 false false
    rw [if_neg (by simp), if_pos (by simp)] at hallowed
    obtain ⟨hans, hassoc, hparts⟩ := refused_aarq (heard s p) 0xFB (some 1)
    exact ⟨_, (execAarq_of_open hopen hdev c .lls false false).trans (congrArg _ hallowed), hans, hassoc, only_trans (by simp [heard]) hparts⟩
  · have hx : exec (.aarq p c u auth ciph ok) s = .next (answered s p [ansDm]) := by
      simp only [exec, execAarq, hopen, hdev, Bool.not_true, Bool.not_false, Bool.false_eq_true, if_false, if_true, answered]
    exact hx
  · have hget := (execGet_of_assoc hx hopen 0x250014).trans (if_neg (by decide))
    rw [show 0x250014 - 0x250014 % 4 = 0x250014 from rfl, pairLen_irqmsk, readEffects_irqmsk, readWords_one, readWord_irqmsk] at hget
    obtain ⟨hparts, hinv, -⟩ := countApdu_parts s x
    refine ⟨_, hget, ?_, hinv, only_trans hparts (by simp [State.answer])⟩
    have hlt := (countApdu s x).hp.irqmsk.isLt
    have hsame : (countApdu s x).hp = s.hp := hparts .hp rfl
    rw [← hsame]
    show [(BitVec.ofNat 32 (countApdu s x).hp.irqmsk.toNat).toNat] = _
    rw [BitVec.toNat_ofNat, Nat.mod_eq_of_lt (by omega)]
  · have hget := (execGet_of_assoc hx hopen a).trans (if_neg (by rw [eventStatus]; omega))
    rw [hal, Nat.sub_zero, hpair] at hget
    exact ⟨_, hget, rfl⟩
  · have hget := (execGet_of_assoc hx hopen (2 ^ 32)).trans (if_pos rfl)
    rw [if_pos rfl] at hget
    obtain ⟨hparts, -, hnotify⟩ := countApdu_parts s x
    exact ⟨_, hget, hnotify, rfl, only_trans hparts (by simp [State.answer])⟩
  · have hset := dlmsWrite_of_assoc hx hopen hc (a := 0x250014) rfl w
    rw [applyWrite_of_plain plainAt_irqmsk, noEff_of_effective (.inl (by decide)), freeWord_irqmsk, setWidth_unmasked] at hset
    exact ⟨_, congrArg Host.Outcome.next hset, rfl, rfl, by simp [State.answer]⟩
  · have hset := dlmsWrite_of_assoc hx hopen hc (a := 0x250010) rfl 0x7FFF
    rw [applyWrite_of_plain plainAt_irqsts, noEff_of_effective (.inl (by decide)), freeWord_irqsts, setWidth_unmasked] at hset
    refine ⟨_, congrArg Host.Outcome.next hset, ?_, rfl, by simp [State.answer]⟩
    show (countApdu s x).hp.irqsts &&& 0#15 = 0#15
    rw [BitVec.and_zero]
  · refine ⟨_, if_pos ⟨hdue, hat⟩, rfl, fun a => ?_, by simp⟩
    simp
  · rintro ⟨hdue, hat⟩
    rcases h with h | h
    · exact absurd (hdue.symm.trans h) (by decide)
    · omega
  · exact (execDataNotification_of_held hn).trans (if_pos (by simp [hopen, hpush]))
  · cases hn : s.ser.notify with
    | nil => simp only [exec, execDataNotification, hn]
    | cons n rest =>
      have hshut : (hdlcOpen s 1 && s.ser.push) = false := by
        rcases h with h | h | h
        · exact absurd (hn.symm.trans h) (by simp)
        · simp [h]
        · simp [h]
      exact (execDataNotification_of_held hn).trans (if_neg (by simp [hshut]))

end

section
namespace Sys2Proof.Laws

open Sys2Proof.Machine

/-! ## Ports -/

/-- The link engine without its ports. -/
def linkRest (s : State) : Cobalt := { s.cb with ports := [] }

theorem portAt_of_cb {s t : State} (h : t.cb = s.cb) (k : Nat) : portAt t k = portAt s k := by
  rw [portAt, h, portAt]

theorem portUp_of_port {s t : State} {k : Nat} (h : portAt t k = portAt s k) : portUp t k = portUp s k := congrArg (fun x : CbPort => x.st == 2) h

theorem portAt_setPort_self (s : State) (p : Nat) (x : CbPort) : portAt (s.setPort p x) p = x := (portAt_setPort ..).trans (if_pos rfl)

theorem portAt_setPort_ne {p k : Nat} (h : k ≠ p) (s : State) (x : CbPort) : portAt (s.setPort p x) k = portAt s k :=
  (portAt_setPort ..).trans (if_neg h)

/-- A message to a port leaves the other ports and the rest of the link engine. -/
theorem sendPort_keeps (s : State) (p : Nat) (m : OutMsg) : linkRest (sendPort s p m) = linkRest s ∧ (∀ k, k ≠ p → portAt (sendPort s p m) k = portAt s k) ∧
    (portAt (sendPort s p m) p).st = (portAt s p).st := by
  rw [sendPort]
  split
  · exact ⟨rfl, fun _ _ => rfl, rfl⟩
  · split
    · exact ⟨rfl, fun k hk => portAt_setPort_ne hk .., by rw [portAt_setPort_self]⟩
    · exact ⟨rfl, fun k hk => portAt_setPort_ne hk .., by rw [portAt_setPort_self]⟩

theorem tget_of_absent {α : Type} {d : α} {k : Nat} {t : Tab α} (h : ∀ e ∈ t, e.1 ≠ k) : tget d k t = d := by
  induction t with
  | nil => rfl
  | cons e t ih => exact (if_neg (h e (List.mem_cons_self ..))).trans (ih fun e he => h e (List.mem_cons_of_mem _ he))

theorem tget_tdel_self {α : Type} (d : α) (k : Nat) (t : Tab α) : tget d k (tdel k t) = d :=
  tget_of_absent fun _ he => by simpa using (List.mem_filter.mp he).2

/-! ## A change of a port's state -/

theorem portState_at (s : State) (p st : Nat) : portAt (portState s p st) p = { portAt s p with st := st, chg := true } ∧
    (∀ k, k ≠ p → portAt (portState s p st) k = portAt s k) ∧ linkRest (portState s p st) = linkRest s ∧
    (portState s p st).hp.irqsts.getLsbD 12 = true := by
  have hcb : (portState s p st).cb = (s.setPort p { portAt s p with st := st, chg := true }).cb := rfl
  exact ⟨(portAt_of_cb hcb p).trans (portAt_setPort_self ..), fun k hk => (portAt_of_cb hcb k).trans (portAt_setPort_ne hk ..), rfl,
    irq_set _ 12 (by decide)⟩

theorem masterRole_parts (s : State) (p role : Nat) : (masterRole s p role).cb = s.cb ∧
    (masterRole s p role).tb.role = (if p ≠ 0 ∧ role = 2 ∧ s.tb.role = 0 ∧ s.tb.st = .free then 1 else s.tb.role) := by
  rw [masterRole]
  split
  · next h => exact ⟨(show Only [.tb, .hp] s (setRole s 1) by simp) .cb rfl, congrArg Timebase.role (setRole_tb s 1)⟩
  · exact ⟨rfl, rfl⟩

/-! ## Refused ports -/

theorem refusePort_at (s : State) (p reason : Nat) : (portAt (refusePort s p reason) p).st = 3 ∧ (portAt (refusePort s p reason) p).refTicks = 0 ∧
    (portAt (refusePort s p reason) p).out = [] := by
  obtain ⟨hport, -, -, -⟩ := portState_at s p 3
  have hset := portAt_setPort_self (portState s p 3) p { portAt (portState s p 3) p with refTicks := 0, out := [], wait := [] }
  have hcb := portAt_of_cb (raise_cb ((portState s p 3).setPort p { portAt (portState s p 3) p with refTicks := 0, out := [], wait := [] })
    0xF9 p (some (reason : Nat))) p
  have hat : portAt (refusePort s p reason) p = { portAt (portState s p 3) p with refTicks := 0, out := [], wait := [] } := hcb.trans hset
  rw [hat, hport]
  exact ⟨rfl, rfl, rfl⟩

/-! ## Renumbering -/

theorem linkQueues_of_pl {s t : State} (h : t.pl = s.pl) : linkQueues t = linkQueues s := by
  simp only [linkQueues, State.plan, h]

theorem pumpIfDone_of_no_queue {s : State} (h : linkQueues s = []) : pumpIfDone s = s := by
  rw [pumpIfDone, linkPump_of_none h, ite_self]

theorem pumpIfDone_of_running {s : State} (h : s.cb.enumRun = true) : pumpIfDone s = s := if_pos h

theorem enumIfMaster_of_follower {s : State} {p : Nat} (h : p = 0 ∨ portUp s 0 = true) : enumIfMaster s p = s := by
  refine if_neg ?_
  rintro ⟨hp, hno⟩
  rcases h with h | h
  · exact hp h
  · simp [noUpstream, h] at hno

theorem enumIfMaster_of_master {s : State} {p : Nat} (hp : p ≠ 0) (h : portUp s 0 = false) : enumIfMaster s p = enumStart s :=
  if_pos ⟨hp, by simp [noUpstream, h]⟩

theorem enumFinish_rest (s : State) : linkRest (enumFinish s) = { linkRest s with enumRun := false, enumPort := 0 } ∧
    Only [.cb] s (enumFinish s) ∧ ∀ k, k ≠ 0 → portAt (enumFinish s) k = portAt s k := by
  refine ⟨?_, by simp, ?_⟩
  · rw [enumFinish]
    split
    · rfl
    · exact (sendPort_keeps ..).1
  · intro k hk
    rw [enumFinish]
    split
    · rfl
    · exact (sendPort_keeps ..).2.1 k hk

theorem enumStep_of_down {l : List Nat} {s : State} (h : ∀ p ∈ l, portUp s p = false) : enumStep l s = enumFinish s := by
  induction l with
  | nil => rfl
  | cons p l ih =>
    rw [enumStep, h p (List.mem_cons_self ..), Bool.not_false, if_pos rfl]
    exact ih fun p hp => h p (List.mem_cons_of_mem _ hp)

/-- The port `p` numbered next. -/
def enumPort (s : State) (p : Nat) : State :=
  sendPort (s.mapCb fun c => { c with enumPort := p }) p { type := 0x20, dst := 0, src := ownAddr s, data := leBytes 2 s.cb.enumNext }

theorem enumStep_of_up {p : Nat} {l : List Nat} {s : State} (hup : portUp s p = true) (hnext : s.cb.enumNext ≤ 0xFFFF) :
    enumStep (p :: l) s = enumPort s p := by
  rw [enumStep, hup, Bool.not_true, if_neg (by decide), if_neg (by omega)]
  rfl

theorem enumPort_rest (s : State) (p : Nat) : linkRest (enumPort s p) = { linkRest s with enumPort := p } ∧ Only [.cb] s (enumPort s p) ∧
    ∀ k, k ≠ p → portAt (enumPort s p) k = portAt s k :=
  ⟨(sendPort_keeps ..).1, by simp [enumPort], (sendPort_keeps (s.mapCb fun c => { c with enumPort := p }) p _).2.1⟩

/-- The renumbering has begun at this device. -/
def enumBegun (s : State) : State := s.mapCb fun c => { c with enumRun := true, enumNext := ownAddr s + 1, rng := [] }

theorem enumStart_of_down {s : State} (h : ∀ p, 1 ≤ p → p < 4 → portUp s p = false) : enumStart s = enumFinish (enumBegun s) := by
  refine enumStep_of_down fun p hp => ?_
  have hp : p = 1 ∨ p = 2 ∨ p = 3 := by simpa [cdPorts] using hp
  exact h p (by omega) (by omega)

theorem enumStart_of_up {s : State} (hup : portUp s 1 = true) (haddr : ownAddr s < 0xFFFF) : enumStart s = enumPort (enumBegun s) 1 :=
  enumStep_of_up hup (by show ownAddr s + 1 ≤ 0xFFFF; omega)

/-! ## HELLO -/

/-- A port that has heard a HELLO of depth `d`. -/
def helloSeen (s : State) (p d : Nat) : State := s.setPort p { portAt s p with pdepth := d % 32, silent := 0 }

/-- A port that a HELLO has brought up. -/
def portOpened (s : State) (p d role : Nat) : State :=
  raise (portState (masterRole (helloSeen s p d) p role) p 2) 0xF3 p (some (((portAt s p).downTicks / 16000 : Nat) : Int))

theorem execHello_of_heard {s : State} {p : Nat} (hp : p < 4) (hserv : serving s = true) (hst : (portAt s p).st = 1 ∨ (portAt s p).st = 2) (d : Nat)
    (h : Bool) (role : Nat) : exec (.hello p d h role) s =
      if p = 0 ∧ 16 ≤ d then .next (refusePort (helloSeen s p d) 0 1)
      else if (portAt s p).st = 2 then .next (masterRole (helloSeen s p d) p role)
      else .next (pumpIfDone (enumIfMaster (portOpened s p d role) p)) := by
  refine (if_neg (by simp [isPort, hp])).trans (if_neg ?_)
  rcases hst with h | h <;> simp [hserv, h]

theorem execHello_of_not_heard {s : State} {p : Nat} (hp : p < 4) (h : serving s = false ∨ ((portAt s p).st ≠ 1 ∧ (portAt s p).st ≠ 2)) (d : Nat)
    (b : Bool) (role : Nat) : exec (.hello p d b role) s = .next s := by
  refine (if_neg (by simp [isPort, hp])).trans (if_pos ?_)
  rcases h with h | ⟨h1, h2⟩
  · simp [h]
  · simp [h1, h2]

theorem helloSeen_role (s : State) (p d role : Nat) : portAt (masterRole (helloSeen s p d) p role) p = { portAt s p with pdepth := d % 32, silent := 0 } ∧
    ∀ k, k ≠ p → portAt (masterRole (helloSeen s p d) p role) k = portAt s k := by
  have hcb := (masterRole_parts (helloSeen s p d) p role).1
  exact ⟨(portAt_of_cb hcb p).trans (portAt_setPort_self ..), fun k hk => (portAt_of_cb hcb k).trans (portAt_setPort_ne hk ..)⟩

theorem portOpened_at (s : State) (p d role : Nat) :
    portAt (portOpened s p d role) p = { portAt s p with pdepth := d % 32, silent := 0, st := 2, chg := true } ∧
    (∀ k, k ≠ p → portAt (portOpened s p d role) k = portAt s k) ∧ linkRest (portOpened s p d role) = linkRest s ∧
    (portOpened s p d role).tb.role = (if p ≠ 0 ∧ role = 2 ∧ s.tb.role = 0 ∧ s.tb.st = .free then 1 else s.tb.role) ∧
    Only [.cb, .tb, .hp, .er, .qu] s (portOpened s p d role) := by
  obtain ⟨hat, hother, hrest, -⟩ := portState_at (masterRole (helloSeen s p d) p role) p 2
  obtain ⟨hseen, hseenOther⟩ := helloSeen_role s p d role
  obtain ⟨hcb, hrole⟩ := masterRole_parts (helloSeen s p d) p role
  have hraise := raise_cb (portState (masterRole (helloSeen s p d) p role) p 2) 0xF3 p (some (((portAt s p).downTicks / 16000 : Nat) : Int))
  refine ⟨(portAt_of_cb hraise p).trans (hat.trans ?_), fun k hk => (portAt_of_cb hraise k).trans ((hother k hk).trans (hseenOther k hk)), ?_, ?_,
    by simp [portOpened, helloSeen]⟩
  · rw [hseen]
  · have hopen : linkRest (portOpened s p d role) = linkRest (portState (masterRole (helloSeen s p d) p role) p 2) := by
      rw [linkRest, portOpened, hraise, linkRest]
    rw [hopen, hrest, linkRest, hcb]
    rfl
  · rw [portOpened, raise_tb]
    exact hrole

/-! ## DOWN -/

/-- A port has gone DOWN; the pump and the renumbering follow. -/
def portLost (s : State) (p cause : Nat) : State :=
  let x := portAt s p
  let s := portState s p 0
  let s := s.setPort p { portAt s p with out := [], wait := [], drops := 0, downTicks := 0 }
  let s := s.mapCb fun c => if p = 0 then { c with addrValid := false } else { c with rng := tdel (p - 1) c.rng }
  if x.st = 2 then raise s 0xF2 p (some (cause : Nat)) else s

theorem downPort_eq (s : State) (p cause : Nat) : downPort s p cause = pumpIfDone (enumIfMaster (portLost s p cause) p) := rfl

theorem portLost_cb (s : State) (p cause : Nat) : ∃ x, x = (portState s p 0).setPort p { portAt (portState s p 0) p with out := [], wait := [], drops := 0, downTicks := 0 } ∧
    (portLost s p cause).cb = (if p = 0 then { x.cb with addrValid := false } else { x.cb with rng := tdel (p - 1) x.cb.rng }) := by
  refine ⟨_, rfl, ?_⟩
  rw [portLost]
  split
  · rw [raise_cb]
    rfl
  · rfl

theorem portLost_at (s : State) (p cause : Nat) : (portAt (portLost s p cause) p).st = 0 ∧ (portAt (portLost s p cause) p).out = [] ∧
    (portAt (portLost s p cause) p).wait = [] ∧ (∀ k, k ≠ p → portAt (portLost s p cause) k = portAt s k) ∧
    (p = 0 → (portLost s p cause).cb.addrValid = false) ∧ (p ≠ 0 → rangeOf (portLost s p cause) p = (0xFFFF, 0)) ∧
    (portLost s p cause).cb.en = s.cb.en ∧ Only [.cb, .hp, .er, .qu] s (portLost s p cause) := by
  obtain ⟨x, hx, hcb⟩ := portLost_cb s p cause
  obtain ⟨hstate, hstateOther, hrest, -⟩ := portState_at s p 0
  have hports (k : Nat) : portAt (portLost s p cause) k = portAt x k := by
    rw [portAt, hcb, portAt]
    split <;> rfl
  have hat : portAt (portLost s p cause) p = { portAt (portState s p 0) p with out := [], wait := [], drops := 0, downTicks := 0 } := by
    rw [hports, hx, portAt_setPort_self]
  rw [hat, hstate]
  refine ⟨rfl, rfl, rfl, fun k hk => ?_, fun hp => ?_, fun hp => ?_, ?_, ?_⟩
  · rw [hports, hx, portAt_setPort_ne hk, hstateOther k hk]
  · rw [hcb, if_pos hp]
  · rw [rangeOf, hcb, if_neg hp]
    exact tget_tdel_self ..
  · have hen : (portState s p 0).cb.en = s.cb.en := rfl
    rw [hcb, ← hen, hx]
    split <;> rfl
  · by_cases h : (portAt s p).st = 2 <;> simp [portLost, h]

theorem downPort_of_follower {s : State} {p : Nat} (hp : p = 0 ∨ portUp s 0 = true) (hq : linkQueues s = []) (cause : Nat) :
    downPort s p cause = portLost s p cause := by
  obtain ⟨-, -, -, hother, -, -, -, hparts⟩ := portLost_at s p cause
  have hup : p = 0 ∨ portUp (portLost s p cause) 0 = true := by
    rcases hp with h | h
    · exact .inl h
    · by_cases hp : p = 0
      · exact .inl hp
      · exact .inr ((portUp_of_port (hother 0 (Ne.symm hp))).trans h)
  rw [downPort_eq, enumIfMaster_of_follower hup, pumpIfDone_of_no_queue ((linkQueues_of_pl (hparts .pl rfl)).trans hq)]

/-- The last port of a master has gone DOWN: the numbering that it starts ends at once. -/
theorem downPort_of_last {s : State} {p : Nat} (hp : p ≠ 0) (hdown : ∀ k, k < 4 → k ≠ p → portUp s k = false) (hq : linkQueues s = []) (cause : Nat) :
    downPort s p cause = enumFinish (enumBegun (portLost s p cause)) := by
  obtain ⟨hst, -, -, hother, -, -, -, hparts⟩ := portLost_at s p cause
  have hnone (k : Nat) (hk : k < 4) : portUp (portLost s p cause) k = false := by
    by_cases h : k = p
    · rw [h, portUp, hst]
      rfl
    · exact (portUp_of_port (hother k h)).trans (hdown k hk h)
  have hfin := (enumFinish_rest (enumBegun (portLost s p cause))).2.1
  have hpl : (enumFinish (enumBegun (portLost s p cause))).pl = s.pl := (hfin .pl rfl).trans (hparts .pl rfl)
  rw [downPort_eq, enumIfMaster_of_master hp (hnone 0 (by decide)), enumStart_of_down fun k _ hk => hnone k hk,
    pumpIfDone_of_no_queue ((linkQueues_of_pl hpl).trans hq)]

theorem execPortDown_of_failed {s : State} {p : Nat} (hp : p < 4) (hserv : serving s = true) (hst : (portAt s p).st = 2) {c : DownCause}
    (hfail : mayFail (portAt s p) c = true) : exec (.portDown p c) s = .next (downPort s p (downBin c)) :=
  (if_neg (by simp [isPort, hp])).trans (if_neg (by simp [hserv, hst, hfail]))

theorem execPortDown_of_not {s : State} {p : Nat} (hp : p < 4) {c : DownCause}
    (h : serving s = false ∨ (portAt s p).st ≠ 2 ∨ mayFail (portAt s p) c = false) : exec (.portDown p c) s = .next s := by
  refine (if_neg (by simp [isPort, hp])).trans (if_pos ?_)
  rcases h with h | h | h
  · exact .inl (by simp [h])
  · exact .inr (.inl h)
  · exact .inr (.inr (by simp [h]))

/-! ## `CBCTL` -/

/-- A write of `CBCTL` at one port. -/
def cbctlStep (w : Word) (s : State) (p : Nat) : State := if !wbit w p && (portAt s p).st != 0 then downPort s p 4 else s

/-- `CBCTL` with its new enables, before its effects. -/
def cbctlSet (s : State) (w : Word) : State := s.mapCb fun c => { c with en := w.setWidth 4 }

theorem writeCbctl_eq (s : State) (w : Word) :
    writeCbctl s w = forEach [1, 2, 3] (cbctlStep w) (cbctlStep w (cbctlSet s w) 0) := rfl

theorem cbctlStep_of_idle {s : State} {p : Nat} (h : (portAt s p).st = 0) (w : Word) : cbctlStep w s p = s := if_neg (by simp [h])

theorem cbctlSteps_of_idle {l : List Nat} {s : State} (h : ∀ p ∈ l, (portAt s p).st = 0) (w : Word) : forEach l (cbctlStep w) s = s := by
  induction l with
  | nil => rfl
  | cons p l ih =>
    rw [forEach, List.foldl_cons, cbctlStep_of_idle (h p (List.mem_cons_self ..))]
    exact ih fun p hp => h p (List.mem_cons_of_mem _ hp)

theorem downPort_zero {s : State} (hq : linkQueues s = []) (cause : Nat) : downPort s 0 cause = portLost s 0 cause :=
  downPort_of_follower (.inl rfl) hq cause

theorem cbctlStep_of_off {s : State} {p : Nat} (h : (portAt s p).st ≠ 0) {w : Word} (hw : w.getLsbD p = false) : cbctlStep w s p = downPort s p 4 :=
  if_pos (by simp [h, wbit, hw])

theorem portAt_cbctlSet (s : State) (w : Word) (k : Nat) : portAt (cbctlSet s w) k = portAt s k := rfl

theorem linkQueues_cbctlSet (s : State) (w : Word) : linkQueues (cbctlSet s w) = linkQueues s := linkQueues_of_pl rfl

theorem cdPort_of_mem {p : Nat} (h : p ∈ [1, 2, 3]) : 1 ≤ p ∧ p < 4 := by
  have h : p = 1 ∨ p = 2 ∨ p = 3 := by simpa using h
  omega

end Sys2Proof.Laws

open Sys2Proof Sys2Proof.Machine Sys2Proof.Laws

/-- Settles O55: a change of a port's state touches that port alone, and without queues of the link engine only a numbering follows it. -/
theorem portsComeUpAndGoDown : Obligations.PortsComeUpAndGoDown := by
  unfold Obligations.PortsComeUpAndGoDown
  refine ⟨fun p s hp hst hen => ?_, fun p s hp h => ?_, fun p d role h s hp hserv hst hlink hq => ?_, fun d role h s hserv hst hdown => ?_,
    fun p d role h s hp hserv hst hp0 hd => ?_, fun p d role h s hp hp0 hserv hst => ?_, fun d role h s hserv hst hd => ?_,
    fun p d role h s hp hno => execHello_of_not_heard hp hno d h role, fun p s hp hst hticks => ?_, fun p s hp h => ?_,
    fun p c s hp hserv hst hfail hup hq => ?_, fun p c s h1 hp hserv hst hfail hdown hq => ?_, fun p c s hp h => execPortDown_of_not hp h,
    fun req w s hserv hst => ?_, fun req w s hserv hst hw hdown hq => ?_, fun req w s hserv => congrArg Host.Outcome.next (if_neg (by simp [hserv])),
    fun p s hp => ?_, fun p s hp => ?_⟩
  · obtain ⟨hat, hother, -, hirq⟩ := portState_at s p 1
    have hx : exec (.commaAlign p) s = .next (portState s p 1) := (if_neg (by simp [isPort, hp])).trans (if_pos ⟨hst, hen⟩)
    rw [hx]
    exact ⟨_, rfl, by rw [hat], by rw [hat], hirq, hother, by simp⟩
  · refine (if_neg (by simp [isPort, hp])).trans (if_neg ?_)
    rintro ⟨hst, hen⟩
    rcases h with h | h
    · exact h hst
    · exact absurd (hen.symm.trans h) (by decide)
  · obtain ⟨hat, hother, -, hrole, hparts⟩ := portOpened_at s p d role
    have hnot : ¬(p = 0 ∧ 16 ≤ d) := by omega
    have hup : p = 0 ∨ portUp (portOpened s p d role) 0 = true := by
      rcases hlink with ⟨h, -⟩ | ⟨h, hup⟩
      · exact .inl h
      · exact .inr ((portUp_of_port (hother 0 (Ne.symm h))).trans hup)
    have hx := execHello_of_heard hp hserv (.inl hst) d h role
    rw [if_neg hnot, if_neg (by omega), enumIfMaster_of_follower hup,
      pumpIfDone_of_no_queue ((linkQueues_of_pl (hparts .pl rfl)).trans hq)] at hx
    exact ⟨_, hx, by rw [hat], by rw [hat], by rw [hat], by rw [hat], hother, hrole, hparts⟩
  · obtain ⟨hat, hother, -, -, hparts⟩ := portOpened_at s 1 d role
    have hmaster : portUp (portOpened s 1 d role) 0 = false := (portUp_of_port (hother 0 (by decide))).trans hdown
    have hone : portUp (portOpened s 1 d role) 1 = true := by
      rw [portUp, hat]
      rfl
    have haddr : ownAddr (portOpened s 1 d role) = 0 := by
      rw [ownAddr, noUpstream, hmaster]
      rfl
    obtain ⟨hrest, hnumber, -⟩ := enumPort_rest (enumBegun (portOpened s 1 d role)) 1
    have hup := (sendPort_keeps ((enumBegun (portOpened s 1 d role)).mapCb fun c => { c with enumPort := 1 }) 1
      { type := 0x20, dst := 0, src := ownAddr (enumBegun (portOpened s 1 d role)), data := leBytes 2 (enumBegun (portOpened s 1 d role)).cb.enumNext }).2.2
    have hrun := congrArg Cobalt.enumRun hrest
    have hnext := congrArg Cobalt.enumNext hrest
    have hport := congrArg Cobalt.enumPort hrest
    have hx := execHello_of_heard (p := 1) (by decide) hserv (.inl hst) d h role
    rw [if_neg (by omega), if_neg (by omega), enumIfMaster_of_master (by decide) hmaster, enumStart_of_up hone (by omega), pumpIfDone_of_running hrun] at hx
    refine ⟨_, hx, hup.trans (portUp_iff.mp hone), hrun, hport, hnext.trans (congrArg (· + 1) haddr), ?_⟩
    exact only_trans hparts (only_mono (by decide) (only_trans (by simp [enumBegun]) hnumber))
  · have hx := execHello_of_heard hp hserv (.inr hst) d h role
    rw [if_neg (by omega), if_pos hst] at hx
    obtain ⟨hat, hother⟩ := helloSeen_role s p d role
    refine ⟨_, hx, hat, hother, ?_⟩
    rw [masterRole, if_neg (by omega)]
    simp [helloSeen]
  · have hx := execHello_of_heard hp hserv (.inr hst) d h role
    rw [if_neg (by omega), if_pos hst] at hx
    obtain ⟨hat, hother⟩ := helloSeen_role s p d role
    exact ⟨_, hx, hat, hother, by simp [helloSeen]⟩
  · have hx := execHello_of_heard (p := 0) (by decide) hserv hst d h role
    rw [if_pos ⟨rfl, hd⟩] at hx
    obtain ⟨hthree, hticks, hout⟩ := refusePort_at (helloSeen s 0 d) 0 1
    exact ⟨_, hx, hthree, hticks, hout, by simp [helloSeen]⟩
  · obtain ⟨hat, hother, -, -⟩ := portState_at s p 0
    have hx : exec (.portRefusedRetry p) s = .next (portState s p 0) := (if_neg (by simp [isPort, hp])).trans (if_pos ⟨hst, hticks⟩)
    exact ⟨_, hx, by rw [hat], hother, by simp⟩
  · refine (if_neg (by simp [isPort, hp])).trans (if_neg ?_)
    rintro ⟨hst, hticks⟩
    omega
  · have hx := execPortDown_of_failed hp hserv hst hfail
    rw [downPort_of_follower hup hq] at hx
    obtain ⟨hzero, hout, hwait, hother, haddr, hrange, -, hparts⟩ := portLost_at s p (downBin c)
    exact ⟨_, hx, hzero, hout, hwait, hother, haddr, hrange, hparts⟩
  · have hx := execPortDown_of_failed hp hserv hst hfail
    rw [downPort_of_last (by omega) hdown hq] at hx
    obtain ⟨hzero, -, -, -, -, -, -, hparts⟩ := portLost_at s p (downBin c)
    obtain ⟨hrest, hnumber, hports⟩ := enumFinish_rest (enumBegun (portLost s p (downBin c)))
    refine ⟨_, hx, (congrArg CbPort.st (hports p (by omega))).trans hzero, congrArg Cobalt.rng hrest, congrArg Cobalt.enumRun hrest, ?_⟩
    exact only_trans hparts (only_mono (by decide) (only_trans (by simp [enumBegun]) hnumber))
  · refine (congrArg Host.Outcome.next (if_pos hserv)).trans ?_
    rw [writeCbctl_eq, cbctlStep_of_idle (s := cbctlSet s w) (hst 0 (by decide)),
      cbctlSteps_of_idle (s := cbctlSet s w) fun p hp => hst p (cdPort_of_mem hp).2]
    rfl
  · obtain ⟨hzero, -, -, hother, -, -, hen, hparts⟩ := portLost_at (cbctlSet s w) 0 4
    have hup : (portAt (cbctlSet s w) 0).st ≠ 0 := by
      rw [portAt_cbctlSet, hst]
      decide
    have hfirst : cbctlStep w (cbctlSet s w) 0 = portLost (cbctlSet s w) 0 4 := by
      rw [cbctlStep_of_off hup hw, downPort_zero ((linkQueues_cbctlSet s w).trans hq)]
    have hrest (p : Nat) (hp : p ∈ [1, 2, 3]) : (portAt (portLost (cbctlSet s w) 0 4) p).st = 0 := by
      obtain ⟨h1, h4⟩ := cdPort_of_mem hp
      rw [hother p (by omega), portAt_cbctlSet]
      exact hdown p h1 h4
    have hx : exec (.cbctlWrite req w) s = .next (writeCbctl s w) := congrArg Host.Outcome.next (if_pos hserv)
    rw [writeCbctl_eq, hfirst, cbctlSteps_of_idle hrest] at hx
    exact ⟨_, hx, hzero, hen, only_trans (by simp [cbctlSet]) hparts⟩
  · have hx : exec (.codeViolation p) s = .next (s.setPort p { portAt s p with viol := min 65535 ((portAt s p).viol + 1), err := true }) :=
      if_neg (by simp [isPort, hp])
    exact ⟨_, hx, portAt_setPort_self .., fun k hk => portAt_setPort_ne hk .., by simp⟩
  · have hx : exec (.messageCrcError p) s = .next (s.setPort p { portAt s p with crcDrops := min 65535 ((portAt s p).crcDrops + 1), err := true }) :=
      if_neg (by simp [isPort, hp])
    exact ⟨_, hx, portAt_setPort_self .., fun k hk => portAt_setPort_ne hk .., by simp⟩

namespace Sys2Proof.Laws

open Sys2Proof.Machine

/-! ## The send window -/

theorem fillWindow_of_no_wait {x : CbPort} (h : x.wait = []) : fillWindow x = x := by
  rw [fillWindow]
  split
  · next hw => exact absurd (h.symm.trans hw) (by simp)
  · rfl

theorem fillWindow_of_one {x : CbPort} {m : OutMsg} (hout : x.out = []) (hwait : x.wait = [m]) :
    fillWindow x = { x with out := [{ m with hseq := x.nextSeq, sends := 1 }], nextSeq := (x.nextSeq + 1) % 256, wait := [] } := by
  simp [fillWindow, hwait, hout]

theorem refill_keeps (s : State) (p : Nat) : ∀ k, k ≠ p → portAt (refill s p) k = portAt s k := by
  intro k hk
  rw [refill]
  split
  · rfl
  · exact portAt_setPort_ne hk ..

theorem refill_of_no_wait {s : State} {p : Nat} (h : (portAt s p).wait = []) : portAt (refill s p) p = portAt s p := by
  rw [refill]
  split
  · rfl
  · simp only [portAt_setPort_self, fillWindow_of_no_wait h]

theorem refill_of_one {s : State} {p : Nat} {m : OutMsg} (hstep : s.sup.tstep < 3) (hout : (portAt s p).out = []) (hwait : (portAt s p).wait = [m]) :
    portAt (refill s p) p = { portAt s p with out := [{ m with hseq := (portAt s p).nextSeq, sends := 1 }],
                                              nextSeq := ((portAt s p).nextSeq + 1) % 256, wait := [] } := by
  rw [refill, if_neg (by omega), portAt_setPort_self, fillWindow_of_one hout hwait, fillWindow_of_no_wait rfl, fillWindow_of_no_wait rfl,
    fillWindow_of_no_wait rfl]

/-! ## Acknowledgement -/

/-- The port `p` without its message `h`. -/
def acknowledged (s : State) (p h : Nat) : State :=
  s.setPort p { portAt s p with out := (portAt s p).out.filter fun m => m.hseq != h, drops := 0 }

theorem execAck_of_port {p : Nat} (hp : p < 4) (h : Nat) (s : State) : exec (.ack p h) s =
    if (portAt s p).out.any fun m => m.hseq == h then .next (refill (acknowledged s p h) p) else .next s :=
  if_neg (by simp [isPort, hp])

theorem acknowledged_at {s : State} {p h : Nat} {m : OutMsg} (hout : (portAt s p).out = [m]) (hm : m.hseq = h) :
    portAt (acknowledged s p h) p = { portAt s p with out := [], drops := 0 } := by
  rw [acknowledged, portAt_setPort_self, hout]
  simp [hm]

theorem execAck_of_single {s : State} {p h : Nat} {m : OutMsg} (hp : p < 4) (hout : (portAt s p).out = [m]) (hm : m.hseq = h) :
    exec (.ack p h) s = .next (refill (acknowledged s p h) p) ∧ (∀ k, k ≠ p → portAt (refill (acknowledged s p h) p) k = portAt s k) ∧
    Only [.cb] s (refill (acknowledged s p h) p) :=
  ⟨(execAck_of_port hp h s).trans (if_pos (by simp [hout, hm])), fun k hk => (refill_keeps _ p k hk).trans (portAt_setPort_ne hk ..),
    by simp [acknowledged]⟩

theorem execResend_of_port {p : Nat} (hp : p < 4) (h : Nat) (s : State) :
    exec (.nak p h) s = .next (resend s p h) ∧ exec (.resendTimeout p h) s = .next (resend s p h) :=
  ⟨if_neg (by simp [isPort, hp]), if_neg (by simp [isPort, hp])⟩

theorem resend_of_none {s : State} {p h : Nat} (hnone : ∀ m, m ∈ (portAt s p).out → m.hseq ≠ h) : resend s p h = s := by
  have hfind : (portAt s p).out.find? (fun m => m.hseq == h) = none := by
    rw [List.find?_eq_none]
    intro m hm
    simpa using hnone m hm
  simp only [resend, hfind]

/-- A message of the port `p` sent again. -/
def sentAgain (s : State) (p : Nat) (m : OutMsg) : State :=
  s.setPort p { portAt s p with out := [{ m with sends := m.sends + 1 }], rtx := satAdd (portAt s p).rtx 1 }

/-- The one message of the port `p` dropped. -/
def dropped (s : State) (p : Nat) : State :=
  s.setPort p { portAt s p with out := [], drops := (portAt s p).drops + 1, err := true, crcDrops := min 65535 ((portAt s p).crcDrops + 1) }

theorem resend_of_single {s : State} {p h : Nat} {m : OutMsg} (hout : (portAt s p).out = [m]) (hm : m.hseq = h) :
    resend s p h = if m.sends < 4 then sentAgain s p m else raise (refill (dropped s p) p) 0xF8 p (some (dropBin m.type : Nat)) := by
  subst hm
  simp [resend, hout, sentAgain, dropped]

/-! ## ENUM and ENUM-DONE -/

/-- This device with the address `a`. -/
def enumTaken (s : State) (a : Nat) : State := s.mapCb fun c => { c with addr := a % 65536, addrValid := true }

theorem execEnum_of_up {s : State} (hup : portUp s 0 = true) (hserv : serving s = true) (a : Nat) : exec (.enum a) s = .next (enumStart (enumTaken s a)) :=
  if_neg (by simp [hup, hserv])

/-- The range of the port in hand taken. -/
def rangeTaken (s : State) (p hi : Nat) : State := s.mapCb fun c => { c with rng := tset (p - 1) (c.enumNext, hi) c.rng, enumNext := hi + 1 }

theorem rangeOf_of_rng {s t : State} (h : t.cb.rng = s.cb.rng) (p : Nat) : rangeOf t p = rangeOf s p := by
  rw [rangeOf, h, rangeOf]

theorem rangeOf_rangeTaken (s : State) (p hi : Nat) : rangeOf (rangeTaken s p hi) p = (s.cb.enumNext, hi) := tget_tset_self ..

theorem execEnumDone_of_numbered {s : State} {p : Nat} (hrun : s.cb.enumRun = true) (hport : s.cb.enumPort = p) (hp : cdPorts.contains p = true) (hi : Nat) :
    exec (.enumDone p hi) s = .next (pumpIfDone (enumStep (cdPorts.filter fun q => decide (p < q)) (rangeTaken s p hi))) :=
  if_neg (by simp only [hrun, hport, hp]; simp)

end Sys2Proof.Laws

open Sys2Proof Sys2Proof.Machine Sys2Proof.Laws

/-- Settles O56: the window of a port with one message empties and fills in one step each, and a numbering goes to the first port that is UP. -/
theorem messagesAreAcknowledged : Obligations.MessagesAreAcknowledged := by
  unfold Obligations.MessagesAreAcknowledged
  refine ⟨fun p h m s hp hout hm hwait => ?_, fun p h m m' s hp hstep hout hm hwait => ?_, fun p h s hp hnone => ?_, fun p h m s hp hout hm hsends => ?_,
    fun p h m s hp hout hm hsends hwait => ?_, fun a s hup hserv hdown => ?_, fun a s hup hserv hone ha => ?_, fun a s h => ?_,
    fun hi s hrun hport hq => ?_, fun hi s hrun hport htwo hhi => ?_, fun p hi s h => ?_⟩
  · obtain ⟨hx, hother, hparts⟩ := execAck_of_single hp hout hm
    have hat := acknowledged_at hout hm
    have hfill := refill_of_no_wait (s := acknowledged s p h) (p := p) (by rw [hat]; exact hwait)
    refine ⟨_, hx, ?_, ?_, hother, hparts⟩ <;> rw [hfill, hat]
  · obtain ⟨hx, hother, hparts⟩ := execAck_of_single hp hout hm
    have hat := acknowledged_at hout hm
    have hfill := refill_of_one (s := acknowledged s p h) (p := p) (m := m') hstep (by rw [hat]) (by rw [hat]; exact hwait)
    refine ⟨_, hx, ?_, ?_, hother, hparts⟩ <;> rw [hfill, hat]
  · obtain ⟨hnak, htimeout⟩ := execResend_of_port hp h s
    rw [resend_of_none hnone] at hnak htimeout
    refine ⟨(execAck_of_port hp h s).trans (if_neg ?_), hnak, htimeout⟩
    simpa using hnone
  · obtain ⟨hnak, htimeout⟩ := execResend_of_port hp h s
    rw [resend_of_single hout hm, if_pos hsends] at hnak htimeout
    refine ⟨_, hnak, htimeout, ?_, ?_, fun k hk => portAt_setPort_ne hk .., by simp [sentAgain]⟩ <;> rw [sentAgain, portAt_setPort_self]
  · obtain ⟨hnak, htimeout⟩ := execResend_of_port hp h s
    rw [resend_of_single hout hm, if_neg (by omega)] at hnak htimeout
    have hat : portAt (dropped s p) p = { portAt s p with out := [], drops := (portAt s p).drops + 1, err := true,
                                                          crcDrops := min 65535 ((portAt s p).crcDrops + 1) } := portAt_setPort_self ..
    have hfill := refill_of_no_wait (s := dropped s p) (p := p) (by rw [hat]; exact hwait)
    have hraise (k : Nat) := portAt_of_cb (raise_cb (refill (dropped s p) p) 0xF8 p (some (dropBin m.type : Nat))) k
    refine ⟨_, hnak, htimeout, ?_, ?_, ?_, fun k hk => (hraise k).trans ((refill_keeps _ p k hk).trans (portAt_setPort_ne hk ..)),
      by simp [dropped]⟩ <;> rw [hraise, hfill, hat]
  · have hx := execEnum_of_up hup hserv a
    rw [enumStart_of_down (s := enumTaken s a) hdown] at hx
    obtain ⟨hrest, hnumber, -⟩ := enumFinish_rest (enumBegun (enumTaken s a))
    exact ⟨_, hx, congrArg Cobalt.addr hrest, congrArg Cobalt.addrValid hrest, congrArg Cobalt.rng hrest, congrArg Cobalt.enumRun hrest,
      only_trans (by simp [enumBegun, enumTaken]) hnumber⟩
  · have hmod : a % 65536 = a := Nat.mod_eq_of_lt (by omega)
    have haddr : ownAddr (enumTaken s a) = a := (ownAddr_of_up (s := enumTaken s a) hup).trans hmod
    have hx := execEnum_of_up hup hserv a
    rw [enumStart_of_up (s := enumTaken s a) hone (by omega)] at hx
    obtain ⟨hrest, hnumber, -⟩ := enumPort_rest (enumBegun (enumTaken s a)) 1
    exact ⟨_, hx, (congrArg Cobalt.addr hrest).trans hmod, congrArg Cobalt.addrValid hrest, congrArg Cobalt.rng hrest, congrArg Cobalt.enumRun hrest,
      congrArg Cobalt.enumPort hrest, (congrArg Cobalt.enumNext hrest).trans (congrArg (· + 1) haddr),
      only_trans (by simp [enumBegun, enumTaken]) hnumber⟩
  · refine if_pos ?_
    rcases h with h | h <;> simp [h]
  · have hx := execEnumDone_of_numbered hrun hport (by decide) hi
    obtain ⟨hrest, hnumber, -⟩ := enumFinish_rest (rangeTaken s 3 hi)
    have hrng := congrArg Cobalt.rng hrest
    have hparts : Only [.cb] s (enumFinish (rangeTaken s 3 hi)) := only_trans (by simp [rangeTaken]) hnumber
    have hempty : enumStep (cdPorts.filter fun q => decide (3 < q)) (rangeTaken s 3 hi) = enumFinish (rangeTaken s 3 hi) := rfl
    rw [hempty, pumpIfDone_of_no_queue ((linkQueues_of_pl (hparts .pl rfl)).trans hq)] at hx
    exact ⟨_, hx, (rangeOf_of_rng (s := rangeTaken s 3 hi) hrng 3).trans (rangeOf_rangeTaken ..), congrArg Cobalt.enumRun hrest, hparts⟩
  · have hx := execEnumDone_of_numbered hrun hport (by decide) hi
    obtain ⟨hrest, hnumber, -⟩ := enumPort_rest (rangeTaken s 1 hi) 2
    have hrng := congrArg Cobalt.rng hrest
    have hstep : enumStep (cdPorts.filter fun q => decide (1 < q)) (rangeTaken s 1 hi) = enumPort (rangeTaken s 1 hi) 2 :=
      enumStep_of_up htwo (by show hi + 1 ≤ 0xFFFF; omega)
    have hstill := (congrArg Cobalt.enumRun hrest).trans hrun
    rw [hstep, pumpIfDone_of_running hstill] at hx
    exact ⟨_, hx, (rangeOf_of_rng (s := rangeTaken s 1 hi) hrng 1).trans (rangeOf_rangeTaken ..), hstill, congrArg Cobalt.enumPort hrest,
      congrArg Cobalt.enumNext hrest, only_trans (by simp [rangeTaken]) hnumber⟩
  · refine if_pos ?_
    rcases h with h | h | rfl | h
    · simp [h]
    · simp [h]
    · simp [cdPorts]
    · have hnot : p ≠ 1 ∧ p ≠ 2 ∧ p ≠ 3 := by omega
      simp [cdPorts, hnot]

end

section
namespace Sys2Proof.Laws

open Sys2Proof.Machine

/-! ## Commands of the chain -/

theorem hopOf_of_own {s : State} {dst : Nat} (haddr : hasAddr s = true) (h : dst = ownAddr s) : hopOf s dst = .self :=
  if_pos (by simp [haddr, h])

theorem execCmd_of_own {h : CobaltHdr} {s : State} (hsrc : h.src = 0) (haddr : hasAddr s = true) (hserv : serving s = true) (hdst : h.dst = ownAddr s)
    (op a n : Nat) (d : List Byte) : exec (.cmd h op a n d) s = .next (takeCmd s h op a) := by
  refine (if_neg (by simp [hsrc, haddr, hserv])).trans ?_
  rw [hopOf_of_own haddr hdst]

theorem execCmd_of_port {h : CobaltHdr} {s : State} {p : Nat} (hsrc : h.src = 0) (haddr : hasAddr s = true) (hserv : serving s = true)
    (hhop : hopOf s h.dst = .port p) (op a n : Nat) (d : List Byte) : exec (.cmd h op a n d) s =
      if p ≠ 0 ∧ 3 ≤ s.sup.tstep then .next (sendRsp s h op a 9 [])
      else .next (sendPort s p { type := 1, dst := h.dst, src := h.src, tag := h.tag, op := op, addr := a, len := n, data := d }) := by
  refine (if_neg (by simp [hsrc, haddr, hserv])).trans ?_
  rw [hhop]

theorem knownOp_iff {op : Nat} : knownOp op = true ↔ 1 ≤ op ∧ op ≤ 6 := by simp [knownOp]

theorem execOpRead_of_serving {s : State} (hserv : serving s = true) (h : CobaltHdr) (a n : Nat) : exec (.opRead h a n) s =
    if lenAddrOk a n 180 then
      .next (sendRsp (readEffects (takeRx s) .chain a (n / 4)) h 1 a 0 (bytesOfWords (readWords (takeRx s) .chain a (n / 4))))
    else .next (sendRsp (takeRx s) h 1 a 3 []) :=
  if_neg (by simp [hserv])

theorem execOpWrite_of_serving {s : State} (hserv : serving s = true) (h : CobaltHdr) (a : Nat) (d : List Byte) : exec (.opWrite h a d) s =
    if lenAddrOk a d.length 180 then
      .next (sendRsp (applyWrite (takeRx s) .chain a d).s h 2 a (applyWrite (takeRx s) .chain a d).code [])
    else .next (sendRsp (takeRx s) h 2 a 3 []) :=
  if_neg (by simp [hserv])

theorem execAggdef_of_serving {s : State} (hserv : serving s = true) (h : CobaltHdr) (w : Word) (m : List Byte) : exec (.aggdef h w m) s =
    if aggOk w m then .next (sendRsp (aggSet (takeRx s) w m) h 6 w.toNat 0 []) else .next (sendRsp (takeRx s) h 6 w.toNat 3 []) :=
  if_neg (by simp [hserv])

/-- The device code at address 0. -/
theorem readWord_device (s : State) (req : Requester) : readWord s req 0 = 0x50428128 := by
  have hstored : storedAddr 0 = false := by decide
  rw [readWord, hstored, Bool.and_false]
  cases req <;> rfl

theorem readEffects_device (s : State) (req : Requester) : readEffects s req 0 1 = s := by
  have hpairs : pairsIn 0 1 = [] := by decide
  have hpops : forEach (List.range 32) (fun s q => if inRange 0 1 (0x40020 + 0x40 * q) then popQueue s req q else s) s = s :=
    forEach_keep id (fun x q => if_neg (by simp [inRange]; omega)) _ s
  rw [readEffects, hpops, hpairs]
  rfl

theorem quoteAsk_of_room_chain {s : State} (hroom : s.tr.quotes.length < 4) (hkey : s.tr.keyok = true) (n : List Byte) (h : CobaltHdr) :
    quoteAsk s .chain n (some h) = s.mapTr fun t =>
      { t with quotes := quoteInsert { path := .chain, nonce := nonceOf s .chain n, tick := s.tb.ticks, hdr := some h } t.quotes } := by
  have hnone : quoteRefusal s = 0 := by
    rw [quoteRefusal, if_neg (Nat.not_le.mpr hroom), hkey]
    rfl
  rw [quoteAsk, hnone]
  rfl

/-! ## Responses -/

theorem execRsp_of_awaited {h : CobaltHdr} {e : Nat × Nat × Nat × Nat × Nat} {s : State} (hserv : serving s = true) (hmaster : noUpstream s = true)
    (hwait : awaited s h.src h.tag = some e) (op a st : Nat) (d : List Byte) : exec (.rsp h op a st d) s =
      .next (rspRecord (if op = 5 ∧ st = 0 ∧ a ≠ 360 then s else unwait s h.src h.tag) h.src op h.tag a st d) := by
  simp only [exec, execRsp, hserv, hmaster, hwait, Bool.not_true, Bool.false_eq_true, if_false, if_true]

theorem execChainResponseTimeout_of_awaited {dst tag : Nat} {e : Nat × Nat × Nat × Nat × Nat} {s : State} (hwait : awaited s dst tag = some e) :
    exec (.chainResponseTimeout dst tag) s = if e.2.2.2.2 ≤ s.cb.rspto ∨ !serving s then .next s
      else .next (raise (statusRecord (unwait s dst tag) dst e.2.2.1 tag e.2.2.2.1 8) 0xF7 0xFF none) := by
  simp only [exec, execChainResponseTimeout, hwait]

theorem awaited_of_cb {s t : State} (h : t.cb = s.cb) (dst tag : Nat) : awaited t dst tag = awaited s dst tag := by
  rw [awaited, h, awaited]

theorem awaited_unwait (s : State) (dst tag : Nat) : awaited (unwait s dst tag) dst tag = none := by
  refine List.find?_eq_none.mpr fun e he => ?_
  have hne := (List.mem_filter.mp he).2
  rw [Bool.not_eq_true'] at hne
  rw [hne]
  decide

theorem statusRecord_cb (s : State) (dst op tag addr status : Nat) : (statusRecord s dst op tag addr status).cb = s.cb :=
  (show Only [.qu, .er, .hp] s (statusRecord s dst op tag addr status) by simp) .cb rfl

end Sys2Proof.Laws

open Sys2Proof Sys2Proof.Machine Sys2Proof.Laws

/-- Settles O57: a command goes by its hop, and each row of the chain's operations has one condition and one answer. -/
theorem chainCommandsAreAnswered : Obligations.ChainCommandsAreAnswered := by
  unfold Obligations.ChainCommandsAreAnswered
  refine ⟨fun h op a n d s hsrc hserv haddr hdst => ⟨fun h1 h6 => ?_, fun hop => ?_⟩, fun h op a n p d s hsrc hserv haddr hhop => ⟨fun hp hstep => ?_, fun hopen => ?_⟩,
    fun h op a n d s hno => if_pos ?_, fun h a n s hserv hlen => ?_, fun h s hserv => ?_, fun h w s hserv => ?_, fun h a bs s hserv hlen => ?_,
    fun h n s hserv hroom hkey => ?_, fun h w m s hserv hok => ?_, fun w m s hzero => if_pos hzero, fun h w m s hserv hok => ?_,
    fun h op a st d s hserv hmaster hwait => ?_, fun h op a st d e s hserv hmaster hwait => ⟨fun hlast => ?_, fun hpart => ?_⟩,
    fun h op a st d s hserv hup => ?_, fun dst tag e s hserv hwait hlate => ?_, fun dst tag s hno => ?_, fun h aid fl pts f v s hserv hmaster => ?_,
    fun h aid fl pts f v s hserv hup => ?_, fun h op a n st aid fl pts d w f v s hserv => ⟨if_pos ?_, if_pos ?_, congrArg Host.Outcome.next (if_neg ?_), if_pos ?_, if_pos ?_, if_pos ?_⟩⟩
  · rw [execCmd_of_own hsrc haddr hserv hdst, takeCmd, if_pos (knownOp_iff.mpr ⟨h1, h6⟩)]
    rfl
  · rw [execCmd_of_own hsrc haddr hserv hdst, takeCmd, if_neg (fun hk => by have := knownOp_iff.mp hk; omega)]
  · rw [execCmd_of_port hsrc haddr hserv hhop, if_pos ⟨hp, hstep⟩]
  · rw [execCmd_of_port hsrc haddr hserv hhop, if_neg (by omega), hsrc]
  · rcases hno with h | h | h <;> simp [h]
  · exact (execOpRead_of_serving hserv h a n).trans (if_neg (by simp [hlen]))
  · refine (execOpRead_of_serving hserv h 0 4).trans ((if_pos (by decide)).trans ?_)
    rw [show 4 / 4 = 1 from rfl, readEffects_device, readWords_one, readWord_device]
    rfl
  · refine (execOpWrite_of_serving hserv h _ _).trans ((if_pos ?_).trans ?_)
    · rw [leBytes_length]
      decide
    · rw [applyWrite_of_plain plainAt_irqmsk, noEff_of_effective (.inl (by decide)), freeWord_irqmsk, setWidth_unmasked]
      rfl
  · exact (execOpWrite_of_serving hserv h a bs).trans (if_neg (by simp [hlen]))
  · refine (congrArg Host.Outcome.next (if_pos hserv)).trans ?_
    rw [quoteAsk_of_room_chain (s := takeRx s) hroom hkey]
    rfl
  · exact (execAggdef_of_serving hserv h w m).trans (if_pos hok)
  · exact (execAggdef_of_serving hserv h w m).trans (if_neg (by simp [hok]))
  · simp only [exec, execRsp, hserv, hmaster, hwait, Bool.not_true, Bool.false_eq_true, if_false, if_true]
    rfl
  · rw [execRsp_of_awaited hserv hmaster hwait, if_neg (by omega)]
  · rw [execRsp_of_awaited hserv hmaster hwait, if_pos hpart]
  · simp only [exec, execRsp, hserv, hup, Bool.not_true, Bool.false_eq_true, if_false]
  · have hx := (execChainResponseTimeout_of_awaited hwait).trans (if_neg (by simp [hserv, hlate]))
    refine ⟨_, hx, ?_, exec_within hx rfl⟩
    rw [awaited_of_cb (raise_cb ..), awaited_of_cb (statusRecord_cb ..), awaited_unwait]
  · cases hwait : awaited s dst tag with
    | none => simp only [exec, execChainResponseTimeout, hwait]
    | some e =>
      refine (execChainResponseTimeout_of_awaited hwait).trans (if_pos ?_)
      rcases hno with h | h | h
      · exact absurd (hwait.symm.trans h) (by simp)
      · exact .inr (by simp [h])
      · exact .inl (h e hwait)
  · simp only [exec, execAgg, hserv, hmaster, Bool.not_true, Bool.false_eq_true, if_false, if_true]
  · simp only [exec, execAgg, hserv, hup, Bool.not_true, Bool.false_eq_true, if_false]
  all_goals simp [hserv]

end

section
namespace Sys2Proof.Laws

open Sys2Proof.Machine

/-! ## The committed frame number -/

theorem putWork_nvFrame {c : Crit} (hc : c ≠ .frame) (s : State) (l : List (Pair 64)) : (putWork s c l).nv.frame = s.nv.frame := by
  cases c with
  | frame => exact absurd rfl hc
  | set i => exact congrArg (·.frame) ((show Only [.bl] s (putWork s (.set i) l) by simp [putWork]) .nv rfl)
  | _ => rfl

theorem storageFault_nv (s : State) (p : Nat) : (storageFault s p).nv = s.nv :=
  (show Only [.qu, .ls, .bl, .er, .hp] s (storageFault s p) by simp) .nv rfl

theorem storageFaults_nv (l : List Nat) (s : State) : (forEach l storageFault s).nv = s.nv := forEach_keep (fun s => s.nv) storageFault_nv l s

theorem noteRepair_nv (s : State) (chan : Nat) : (noteRepair s chan).nv = s.nv :=
  (show Only [.qu, .ls, .er, .hp] s (noteRepair s chan) by simp) .nv rfl

theorem noteLost_nvFrame (s : State) (c : Crit) (slots : Nat) : (noteLost s c slots).nv.frame = s.nv.frame := by
  rw [noteLost, storageFaults_nv]
  split
  · exact congrArg (·.frame) (raise_nv ..)
  · exact congrArg (·.frame) (raise_nv ..)

theorem checkGroup_nvFrame (s : State) (c : Crit) : (checkGroup s c).1.nv.frame = s.nv.frame := by
  simp only [checkGroup]
  split
  · rfl
  · next l fixA fixB _ =>
    have hfix : (if fixA then s.mapLs fun x =>
          { x with bankA := tset c.base (writeBank x.stuckA c.base (tget [] c.base s.ls.bankA) (mkGroup c.base (groupSeq (tget [] c.base s.ls.bankB)) l)) x.bankA }
        else if fixB then s.mapLs fun x =>
          { x with bankB := tset c.base (writeBank x.stuckB c.base (tget [] c.base s.ls.bankB) (mkGroup c.base (groupSeq (tget [] c.base s.ls.bankA)) l)) x.bankB }
        else s).nv = s.nv := by
      split
      · rfl
      · split <;> rfl
    split
    · rw [noteRepair_nv, hfix]
    · rw [hfix]
  · exact noteLost_nvFrame ..

theorem fetchWork_nvFrame {c : Crit} (hc : c ≠ .frame) (s : State) : (fetchWork s c).nv.frame = s.nv.frame := by
  have hgroup := checkGroup_nvFrame s c
  simp only [fetchWork]
  split
  · rw [noteRepair_nv, putWork_nvFrame hc, hgroup]
  · exact hgroup
  · split
    · rw [raise_nv, hgroup]
    · rw [storageFaults_nv, hgroup]

theorem mendCal_nv (s : State) : (mendCal s).nv = s.nv := by
  rw [mendCal]
  split
  · rfl
  · exact noteRepair_nv ..

theorem sealCheck_nv (s : State) : (sealCheck s).nv = s.nv := (show Only [.qu, .tp, .er, .hp, .seal] s (sealCheck s) by simp) .nv rfl

theorem checkWork_nvFrame {c : Crit} (hc : c ≠ .frame) (s : State) : (checkWork s c).nv.frame = s.nv.frame := by
  have hmend (x : State) : (if c = .cal then mendCal x else x).nv = x.nv := by
    split
    · exact mendCal_nv x
    · rfl
  simp only [checkWork]
  split
  · rw [sealCheck_nv]
  · rw [hmend]
    split
    · rfl
    · exact fetchWork_nvFrame hc s
    · split
      · rfl
      · rw [noteRepair_nv, putWork_nvFrame hc]
    · split
      · rw [noteRepair_nv, putWork_nvFrame hc]
      · exact fetchWork_nvFrame hc s

theorem commitCrit_nvFrame {c : Crit} (hc : c ≠ .frame) (s : State) : (commitCrit s c).nv.frame = s.nv.frame := by
  have hgroup (x : State) (l : List (Pair 64)) : (commitGroup x c l).nv = x.nv := (show Only [.qu, .ls, .er, .hp] x (commitGroup x c l) by simp) .nv rfl
  simp only [commitCrit]
  split
  · rfl
  · rw [hgroup]
    split
    · rfl
    · exact checkWork_nvFrame hc s

theorem commitList_nvFrame {l : List Crit} (hl : ∀ c ∈ l, c ≠ .frame) (s : State) : (commitList l s).nv.frame = s.nv.frame := by
  rw [commitList]
  induction l generalizing s with
  | nil => rfl
  | cons c l ih =>
    rw [forEach, List.foldl_cons]
    exact (ih (fun d hd => hl d (List.mem_cons_of_mem _ hd)) _).trans (commitCrit_nvFrame (hl c (List.mem_cons_self ..)) s)

theorem frame_not_mem_powerFailList (s : State) : ∀ c ∈ powerFailList s, c ≠ .frame := by
  rintro c hc rfl
  simp [powerFailList, criticals, onChange] at hc

/-! ## The power-fail commit -/

/-- What a commit takes from the supervisor: its frame and its cause. -/
def commitView (s : State) : Frame × Nat := (s.sup.commitW, s.sup.cause)

theorem calRevert_commitView (s : State) : commitView (calRevert s) = commitView s := by
  rw [calRevert]
  split
  · rw [commitView, raise_sup]
    rfl
  · rfl

/-- The outputs, the display, the sprint and the voltage events stopped at a commit. -/
def outputsStopped (s : State) : State :=
  let s := s.mapMet fun m => { m with pulse := m.pulse.map fun e => (e.1, { e.2 with active := false }) }
  let s := cutDrive s
  let s := if s.pq.st == .waiting || s.pq.st == .capturing then endSprint s true else s
  forEach buses evCloseAll s

theorem commitStops_eq (s : State) :
    commitStops s = if (outputsStopped s).sup.st = .calibrate then calRevert (outputsStopped s) else outputsStopped s := by
  simp only [commitStops, outputsStopped]

theorem outputsStopped_sup (s : State) : (outputsStopped s).sup = s.sup :=
  (show Only [.qu, .met, .pq, .er, .dp, .hp] s (outputsStopped s) by simp [outputsStopped]) .sup rfl

theorem commitStops_commitView (s : State) : commitView (commitStops s) = commitView s := by
  have hstop : commitView (outputsStopped s) = commitView s := by rw [commitView, outputsStopped_sup, commitView]
  rw [commitStops_eq]
  split
  · rw [calRevert_commitView, hstop]
  · exact hstop

theorem commitView_of_only {ps : List Part} {s t : State} (h : Only ps s t) (hsup : ps.contains .sup = false) : commitView t = commitView s := by
  have hsame : t.sup = s.sup := h .sup hsup
  rw [commitView, hsame, commitView]

theorem commitFrame_commitView (s : State) (f : Frame) : commitView (commitFrame s f) = commitView s :=
  commitView_of_only (ps := [.qu, .ls, .er, .hp, .nv]) (by simp) rfl

theorem commitList_within (l : List Crit) (s : State) : Only [.qu, .pl, .met, .ls, .bl, .tp, .er, .hp, .nv, .seal] s (commitList l s) := by simp

/-- The state of which a commit writes every value. -/
def commitReady (s : State) : State := cutAll (commitStops (finAll (commitBounds s)))

theorem commitReady_commitView (s : State) : commitView (commitReady s) = commitView s := by
  rw [commitReady, commitView_of_only (ps := [.er, .hp]) (s := commitStops (finAll (commitBounds s))) (by simp) rfl, commitStops_commitView,
    commitView_of_only (ps := [.qu, .bl, .er, .hp]) (s := s) (by simp) rfl]

/-- Every value written at the commit's frame `w`. -/
def allWritten (s : State) (w : Frame) : State := commitList (powerFailList (commitFrame s w)) (commitFrame s w)

theorem allWritten_frame (s : State) (w : Frame) : (allWritten s w).nv.frame = Pair.of w ∧ commitView (allWritten s w) = commitView s := by
  rw [allWritten, commitList_nvFrame (frame_not_mem_powerFailList _), commitFrame_nv,
    commitView_of_only (commitList_within _ _) rfl, commitFrame_commitView]
  exact ⟨rfl, rfl⟩

/-- The values of a commit written at its frame. -/
def commitWritten (s : State) : State := if frameOnly s then commitFrame s s.sup.commitW else allWritten (commitReady s) s.sup.commitW

theorem commitWritten_frame (s : State) : (commitWritten s).nv.frame = Pair.of s.sup.commitW ∧ commitView (commitWritten s) = commitView s := by
  rw [commitWritten]
  split
  · rw [commitFrame_nv]
    exact ⟨rfl, commitFrame_commitView ..⟩
  · obtain ⟨hframe, hkeep⟩ := allWritten_frame (commitReady s) s.sup.commitW
    exact ⟨hframe, hkeep.trans (commitReady_commitView s)⟩

theorem execPowerFailCommit_of_due {s : State} (hdue : s.sup.commit = .due) (hw : s.sup.commitW.toNat ≤ s.tb.frame.toNat) (dur : Nat) :
    exec (.powerFailCommit dur) s = .next (commitDone (commitWritten s) dur) := by
  refine (if_pos ⟨hdue, hw⟩).trans (congrArg (fun x => Host.Outcome.next (commitDone x dur)) ?_)
  rw [commitWritten, allWritten, commitReady]

/-! ## BOOT -/

theorem bootNumber_mod (n : Nat) : (bootNumber n).toNat % 2 ^ 20 = 0 := by
  rw [bootNumber, BitVec.toNat_ofNat, Nat.mod_mod_of_dvd _ (Nat.pow_dvd_pow 2 (by decide)), Nat.mul_mod_left]

/-- The number that a BOOT starts at. -/
def bootStart (s : State) : Frame :=
  match (checkGroup s .frame).2 with
  | .good l _ _ => bootNumber ((l.headD (Pair.zero 64)).v.toNat % 2 ^ 48)
  | _ => bootNumber 0

theorem bootFrame_eq (s : State) : bootFrame s = commitFrame ((checkGroup s .frame).1.mapTb fun t => { t with frame := bootStart s }) (bootStart s) := rfl

theorem bootStart_mod (s : State) : (bootStart s).toNat % 2 ^ 20 = 0 := by
  rw [bootStart]
  split <;> exact bootNumber_mod _

/-- What a BOOT keeps or sets that no check of a stored value touches. -/
def bootFace (s : State) : (OpState × CommitPhase) × Timebase × Port × Nat × Nat := ((s.sup.st, s.sup.commit), s.tb, portRest s.hp, s.rtc.sec, s.tp.sealSt)

theorem bootFace_of_only {s t : State} (h : Only [.qu, .pl, .met, .ls, .bl, .er, .hp, .nv] s t) (hport : portRest t.hp = portRest s.hp) :
    bootFace t = bootFace s := by
  have hsup : t.sup = s.sup := h .sup rfl
  have htb : t.tb = s.tb := h .tb rfl
  have hrtc : t.rtc = s.rtc := h .rtc rfl
  have htp : t.tp = s.tp := h .tp rfl
  simp only [bootFace, hsup, htb, hrtc, htp, hport]

theorem portRest_markWorn (s : State) (c : Crit) (l : List Slot) : portRest (markWorn s c l).hp = portRest s.hp := by
  simp only [markWorn]
  split
  · rfl
  · exact (raise_intake ..).1

theorem portRest_commitGroup (s : State) (c : Crit) (l : List (Pair 64)) : portRest (commitGroup s c l).hp = portRest s.hp := by
  simp only [commitGroup, writeGroup, mapLs_hp]
  split
  · rfl
  · exact portRest_markWorn ..

theorem portRest_commitFrame (s : State) (f : Frame) : portRest (commitFrame s f).hp = portRest s.hp := portRest_commitGroup ..

theorem bootFace_commitFrame (s : State) (f : Frame) : bootFace (commitFrame s f) = bootFace s :=
  bootFace_of_only (by simp) (portRest_commitFrame s f)

theorem bootFace_checkGroup (s : State) (c : Crit) : bootFace (checkGroup s c).1 = bootFace s :=
  bootFace_of_only (by simp) (checked_checkGroup s c).1.1

theorem bootFrame_face (s : State) : bootFace (bootFrame s) = ((s.sup.st, s.sup.commit), { s.tb with frame := bootStart s }, portRest s.hp, s.rtc.sec, s.tp.sealSt) ∧
    (bootFrame s).nv.frame = Pair.of (bootStart s) := by
  have hport := (checked_checkGroup s .frame).1.1
  rw [bootFrame_eq, commitFrame_nv, bootFace_commitFrame]
  simp [bootFace, hport]

/-- A stored value read back where its banks hold one. -/
def bootRead (s : State) (c : Crit) : State :=
  match selectGroup c.base (tget [] c.base s.ls.bankA) (tget [] c.base s.ls.bankB) with
  | .good l _ _ => putWork s c l
  | .blank => s
  | .lost => if c = .sel then s.mapNv fun n => { n with selValid := false } else s

/-- What a BOOT reads keeps the frame number committed and the rest of its start. -/
def bootKept (s : State) : ((OpState × CommitPhase) × Timebase × Port × Nat × Nat) × Pair 48 := (bootFace s, s.nv.frame)

theorem bootKept_read {c : Crit} (hc : c ≠ .frame) (s : State) : bootKept (bootRead s c) = bootKept s := by
  rw [bootRead]
  split
  · next l _ _ _ =>
    have hface : bootFace (putWork s c l) = bootFace s :=
      bootFace_of_only (by simp) (congrArg portRest ((show Only [.pl, .met, .ls, .bl, .nv] s (putWork s c l) by simp) .hp rfl))
    rw [bootKept, hface, putWork_nvFrame hc, bootKept]
  · rfl
  · split <;> rfl

theorem bootKept_setDigest (s : State) (d : BitVec 256) : bootKept (setDigest s d) = bootKept s := by
  have hface : bootFace (setDigest s d) = bootFace s := bootFace_of_only (by simp) (portRest_commitGroup ..)
  have hnv : (setDigest s d).nv = s.nv := (show Only [.qu, .pl, .ls, .er, .hp] s (setDigest s d) by simp) .nv rfl
  rw [bootKept, hface, hnv, bootKept]

theorem bootSelector_eq (s : State) : bootSelector s =
    let s := bootRead (bootRead s .sel) .digest
    if s.nv.selPend then
      let s := s.mapNv fun n => { n with selPend := false, selRest := true }
      match (bankAt s s.nv.selBank).plan with
      | some p => setDigest s p.legalDigest
      | none => s
    else s := rfl

theorem bootKept_selector (s : State) : bootKept (bootSelector s) = bootKept s := by
  have hread : bootKept (bootRead (bootRead s .sel) .digest) = bootKept s := (bootKept_read (by decide) _).trans (bootKept_read (by decide) _)
  rw [bootSelector_eq, ← hread]
  generalize bootRead (bootRead s .sel) .digest = x
  simp only
  split
  · split
    · rw [bootKept_setDigest]
      rfl
    · rfl
  · rfl

theorem bootKept_subUnknown (s : State) : bootKept (subUnknown s) = bootKept s := by
  rw [subUnknown]
  split <;> rfl

/-- A BOOT with its parts reset and its frame number, before it reads the plan. -/
def bootNumbered (s : State) (ok : Bool) : State :=
  let s := subUnknown (bootFrame (bootParts s ok))
  let s := s.mapNv fun n => { n with done := { n.done with valid := ok } }
  s.mapCb fun c => { c with aggFrame := s.fnum }

theorem bootKept_numbered (s : State) (ok : Bool) : ∃ f : Frame, f.toNat % 2 ^ 20 = 0 ∧ bootKept (bootNumbered s ok) =
    (((.boot, .none), { xsrc := s.tb.xsrc, missed := 4, frame := f }, portRest {}, s.rtc.sec, s.tp.sealSt), Pair.of f) := by
  have hmarks : bootKept (bootNumbered s ok) = bootKept (subUnknown (bootFrame (bootParts s ok))) := by
    rw [bootNumbered]
    generalize subUnknown (bootFrame (bootParts s ok)) = x
    rfl
  obtain ⟨hface, hnv⟩ := bootFrame_face (bootParts s ok)
  refine ⟨bootStart (bootParts s ok), bootStart_mod _, ?_⟩
  rw [hmarks, bootKept_subUnknown, bootKept, hface, hnv]
  generalize bootStart (bootParts s ok) = f
  rfl

theorem bootReset_eq (s : State) : bootReset s =
    raise (bootPlan (bootSelector (bootNumbered (if s.pl.st = .loading then s.setBank (shadowBank s) {} else s)
      (s.nv.done.valid && decide (s.nv.frame.v.toNat ≤ s.nv.done.w.toNat))))) 0x00 0xFF (stateBin .boot) := by
  simp only [bootReset, bootNumbered]

theorem bootKept_raise (s : State) (code chan : Nat) (v : Option Int) : bootKept (raise s code chan v) = bootKept s := by
  rw [bootKept, bootFace_of_only (s := s) (by simp) (raise_intake ..).1, raise_nv, bootKept]

theorem bootKept_plan (s : State) : bootKept (bootPlan s) = bootKept s := rfl

/-- A BOOT starts at a multiple of 2^20, which it commits, with an empty port, the clock and the seal as they stood. -/
theorem bootKept_reset (s : State) : ∃ f : Frame, f.toNat % 2 ^ 20 = 0 ∧ bootKept (bootReset s) =
    (((.boot, .none), { xsrc := s.tb.xsrc, missed := 4, frame := f }, portRest {}, s.rtc.sec, s.tp.sealSt), Pair.of f) := by
  generalize hx : (if s.pl.st = .loading then s.setBank (shadowBank s) {} else s) = x
  have hbank : x.tb = s.tb ∧ x.rtc = s.rtc ∧ x.tp = s.tp := by
    rw [← hx]
    split <;> exact ⟨rfl, rfl, rfl⟩
  obtain ⟨htb, hrtc, htp⟩ := hbank
  obtain ⟨f, hmod, hkept⟩ := bootKept_numbered x (s.nv.done.valid && decide (s.nv.frame.v.toNat ≤ s.nv.done.w.toNat))
  refine ⟨f, hmod, ?_⟩
  rw [bootReset_eq, hx, bootKept_raise, bootKept_plan, bootKept_selector, hkept, htb, hrtc, htp]

/-- What a BOOT has set and kept. -/
theorem bootReset_parts (s : State) : (bootReset s).sup.st = .boot ∧ (bootReset s).sup.commit = .none ∧ (bootReset s).tb.xsrc = s.tb.xsrc ∧
    (bootReset s).hp.rwl = [] ∧ (bootReset s).hp.legal = [] ∧ (bootReset s).rtc.sec = s.rtc.sec ∧ (bootReset s).tp.sealSt = s.tp.sealSt ∧
    (bootReset s).tb.frame.toNat % 2 ^ 20 = 0 ∧ (bootReset s).nv.frame = Pair.of (bootReset s).tb.frame := by
  obtain ⟨f, hmod, hkept⟩ := bootKept_reset s
  generalize bootReset s = t at hkept ⊢
  simp only [bootKept, bootFace, Prod.mk.injEq] at hkept
  obtain ⟨⟨⟨hst, hcom⟩, htb, hport, hsec, hseal⟩, hnv⟩ := hkept
  have hrwl := congrArg Port.rwl hport
  have hlegal := congrArg Port.legal hport
  rw [htb]
  exact ⟨hst, hcom, rfl, hrwl, hlegal, hsec, hseal, hmod, hnv⟩

/-! ## Orders of a commit -/

theorem orderReset_of_ordered {s : State} (h : s.sup.commit ≠ .none) (cause : Nat) : orderReset s cause = s := if_neg h

/-- The marks of a power-fail warning. -/
def warned (s : State) (pin : Bool) : State := s.mapCb fun c =>
  { c with pfwPin := c.pfwPin || pin, pfwCmp := c.pfwCmp || !pin, warnSrc := if c.warn then c.warnSrc else !pin, warn := true }

/-- Four faulty slices taken as the reason of a reset. -/
def slicesMarked (s : State) : State := (s.mapSup fun u => { u with slcrst := true }).mapCv fun c => { c with fourFaulty := false }

/-- The Slate's registers lost with its supply. -/
def slateLost (s : State) : State :=
  (s.mapRtc fun r => { lastValid := r.lastValid, invTicks := r.invTicks, onCell := r.onCell }).mapTp fun t =>
    { mtcfg := t.mtcfg, mtthr1 := t.mtthr1, mtthr2 := t.mtthr2 }

end Sys2Proof.Laws

open Sys2Proof Sys2Proof.Machine Sys2Proof.Laws

/-- Settles O58: the commit keeps its frame and cause through every value it writes, and a BOOT keeps what no stored value touches. -/
theorem powerFailsAndReturns : Obligations.PowerFailsAndReturns := by
  unfold Obligations.PowerFailsAndReturns
  refine ⟨fun pin s hpow hcom => ?_, fun pin s hpow hcom => ?_, fun pin s hpow => if_pos (by simp [hpow]), fun s hfour hst hcom => ?_, fun s h => if_neg ?_,
    fun dur s hdue hw => ?_, fun dur s h => if_neg ?_, fun s hoff hback => ?_, fun s h => if_pos h, fun s hback => ?_, fun s h => if_neg h,
    fun ck s h => ?_, fun ck s hoff hback => if_neg (by simp [hoff, hback]), fun s hheld hmain hcool => ?_, fun s h => if_neg ?_⟩
  · have hx : exec (.powerFailWarning pin) s = .next (orderReset ((warned s pin).irq 13) 2) := if_neg (by simp [hpow])
    rw [orderReset_of_none (by exact hcom)] at hx
    exact ⟨_, hx, rfl, irq_set (warned s pin) 13 (by decide), rfl, rfl, rfl, by simp [warned]⟩
  · have hx : exec (.powerFailWarning pin) s = .next (orderReset ((warned s pin).irq 13) 2) := if_neg (by simp [hpow])
    rw [orderReset_of_ordered (by exact hcom)] at hx
    exact ⟨_, hx, irq_set (warned s pin) 13 (by decide), rfl, by simp [warned]⟩
  · have hx : exec .faultySliceReset s = .next (orderReset (raise (slicesMarked s) 0x0A 0xFF none) 8) := if_pos ⟨hfour, hst, hcom⟩
    have hnone : (raise (slicesMarked s) 0x0A 0xFF none).sup.commit = .none := by
      rw [raise_sup]
      exact hcom
    rw [orderReset_of_none hnone] at hx
    refine ⟨_, hx, rfl, rfl, ?_, ?_, ?_, exec_within hx (by decide)⟩ <;> simp only [mapSup_sup, mapSup_cv, raise_sup, raise_cv, raise_tb] <;> rfl
  · rintro ⟨hfour, hst, hcom⟩
    rcases h with h | ⟨h1, h2, h3⟩ | h
    · exact absurd (hfour.symm.trans h) (by decide)
    · rcases hst with h | h | h
      · exact h1 h
      · exact h2 h
      · exact h3 h
    · exact h hcom
  · have hx := execPowerFailCommit_of_due hdue hw dur
    have hkept : (commitDone (commitWritten s) dur).tb.frame = s.tb.frame := frame_of_only (exec_within hx rfl)
    obtain ⟨hframe, hview⟩ := commitWritten_frame s
    generalize commitWritten s = x at hx hframe hview hkept
    simp only [commitView, Prod.mk.injEq] at hview
    obtain ⟨hw, hcause⟩ := hview
    refine ⟨_, hx, rfl, rfl, rfl, hkept, hframe, ?_⟩
    rw [← hw, ← hcause]
    rfl
  · rintro ⟨hdue, hw⟩
    rcases h with h | h
    · exact h hdue
    · exact Nat.not_le.mpr h hw
  · have hx : exec .mainPowerLoss s = .next (s.mapSup fun u => { u with st := .backup, main := false, commit := .none, boot := none, restored := true,
                                                                         sphase := 0, recmon := false }) :=
      if_neg (by simp [hoff, hback])
    exact ⟨_, hx, rfl, rfl, rfl, exec_within hx (by decide)⟩
  · have hx : exec .slatePowerLoss s = .next ((dropSlateMarks (slateLost s)).mapSup fun u => { u with st := .off }) := if_pos hback
    exact ⟨_, hx, rfl, rfl, rfl, rfl, rfl, exec_within hx (by decide)⟩
  · have hx : exec (.powerOn ck) s = .next (bootReset (s.mapTb fun t => { t with xsrc := ck })) := if_pos h
    obtain ⟨hst, -, hparts⟩ := bootReset_parts (s.mapTb fun t => { t with xsrc := ck })
    exact ⟨_, hx, hst, hparts⟩
  · have hx : exec .resetRelease s = .next (bootReset s) := if_pos ⟨hheld, hmain, fun h3 => hcool.resolve_left (by simp [h3])⟩
    obtain ⟨hst, hcom, hsrc, -, -, -, -, hmod, hnv⟩ := bootReset_parts s
    exact ⟨_, hx, hst, hcom, hsrc, hmod, hnv⟩
  · rintro ⟨hheld, hmain, hcool⟩
    rcases h with h | h | ⟨h3, h⟩
    · exact h hheld
    · exact absurd (hmain.symm.trans h) (by decide)
    · have := hcool h3
      omega

end

section
namespace Sys2Proof.Laws

open Sys2Proof.Machine

/-! ## The thermal ladder -/

/-- The counts of samples below the thresholds after a sample `x`. -/
def belowAfter (x : Int) (l : List Nat) : List Nat := List.zipWith (fun h n => if x < h - 500 then n + 1 else 0) stepThr l

/-- A sample `x` read, with the step that it leaves. -/
def sampled (s : State) (x : Int) : State := s.mapSup fun u =>
  { u with tj := satS 16 x, tjPeak := max u.tjPeak (satS 16 x), below := belowAfter x u.below,
           tstep := leaveSteps (max u.tstep (stepOf x)) (belowAfter x u.below) }

/-- The steps from `was` up to `up` entered. -/
def stepsEntered (x : Int) (was up : Nat) (s : State) : State := forEach ((List.range (up - was)).map fun i => was + i + 1) (enterStep x) s

theorem powered_iff {s : State} : s.powered = true ↔ ¬(s.sup.st = .off ∨ s.sup.st = .backup) ∧ s.sup.commit ≠ .held := by
  rw [State.powered]
  cases s.sup.st <;> simp

theorem execThermalSample_of_powered {s : State} (hpow : s.powered = true) (x : Int) : exec (.thermalSample x) s =
    .next (releasePorts s.sup.tstep (stepsEntered x s.sup.tstep (max s.sup.tstep (stepOf x)) (sampled s x))) := by
  obtain ⟨hst, hcom⟩ := powered_iff.mp hpow
  exact (if_neg hst).trans (if_neg hcom)

theorem stepOf_eq (x : Int) : stepOf x = (if 11500 < x then 1 else 0) + (if 11800 < x then 1 else 0) + (if 12200 < x then 1 else 0) + (if 13000 < x then 1 else 0) := by
  simp only [stepOf, stepThr, List.filter_cons, List.filter_nil]
  split_ifs <;> simp_all

theorem satS_of_range {x : Int} (hlo : -32768 ≤ x) (hhi : x ≤ 32767) : satS 16 x = x := by
  rw [satS, clampI]
  omega

theorem stepsEntered_of_none {x : Int} {was up : Nat} (h : up ≤ was) (s : State) : stepsEntered x was up s = s := by
  rw [stepsEntered, Nat.sub_eq_zero_of_le h]
  rfl

theorem stepsEntered_of_one (x : Int) (was : Nat) (s : State) : stepsEntered x was (was + 1) s = enterStep x s (was + 1) := by
  rw [stepsEntered, Nat.add_sub_cancel_left]
  rfl

theorem releasePorts_of_cool {was : Nat} {s : State} (h : was < 3 ∨ 3 ≤ s.sup.tstep) : releasePorts was s = s := if_neg (by omega)

/-- A threshold that is not yet left counts no sample, or none at all. -/
theorem leaveSteps_of_hot {k : Nat} {l : List Nat} (h : l.getD k 0 < 1000) : leaveSteps (k + 1) l = k + 1 := if_neg (by omega)

theorem leaveSteps_of_left {k : Nat} {l : List Nat} (h : 1000 ≤ l.getD k 0) : leaveSteps (k + 1) l = leaveSteps k l := if_pos h

theorem belowAfter_of_hot {x : Int} {k : Nat} (h : stepThr.getD k 0 - 500 ≤ x) (l : List Nat) : (belowAfter x l).getD k 0 = 0 := by
  rw [List.getD_eq_getElem?_getD] at h
  rw [belowAfter, List.getD_eq_getElem?_getD, List.getElem?_zipWith]
  cases hthr : stepThr[k]? with
  | none => rfl
  | some t =>
    cases l[k]? with
    | none => rfl
    | some n =>
      rw [hthr] at h
      exact if_neg (Int.not_lt.mpr h)

theorem enterStep_sup {k : Nat} (hk : k ≠ 4) (x : Int) (s : State) : (enterStep x s k).sup = { s.sup with tstepE := true } := by
  simp only [enterStep, if_neg hk, raise_sup]
  rfl

theorem enterStep_top {s : State} (h : s.sup.commit = .none) (x : Int) :
    (enterStep x s 4).sup = { s.sup with tstepE := true, commit := .due, cause := 3, commitW := s.tb.frame + 1 } := by
  have hnone : (raise (s.mapSup fun u => { u with tstepE := true }) 0x09 0xFF (some x)).sup.commit = .none := by
    rw [raise_sup]
    exact h
  simp only [enterStep, if_true]
  rw [orderReset_of_none hnone, mapSup_sup, raise_sup, raise_tb]
  rfl

/-! ## The watchdogs -/

theorem wdRuns_iff {s : State} : wdRuns s = true ↔ serving s = true ∧ s.sup.commit = .none := by simp [wdRuns]

/-- The expiries of the legal watchdog within 3,600 operating-seconds, with the one of now. -/
def recentExpiries (s : State) : List Nat := (s.sup.wdlExp.filter fun t => decide (s.er.ops < t + 3600)) ++ [s.er.ops]

/-- A legal-watchdog expiry marked, before its event and its reset. -/
def legalMarked (s : State) : State := s.mapSup fun u =>
  { u with lwdog := true, wdlExp := recentExpiries s, wdlTicks := 0, wdlMark := u.wdlMark || decide (3 ≤ (recentExpiries s).length) }

theorem legalExpiry_eq (s : State) :
    legalExpiry s = orderReset (raise (legalMarked s) 0x06 0xFF (some ((min 3 (recentExpiries s).length : Nat) : Int))) 4 := rfl

theorem legalExpiry_parts {s : State} (h : s.sup.commit = .none) : (legalExpiry s).sup.lwdog = true ∧ (legalExpiry s).sup.wdlTicks = 0 ∧
    (legalExpiry s).sup.commit = .due ∧ (legalExpiry s).sup.cause = 4 ∧ (legalExpiry s).sup.commitW = s.tb.frame + 1 ∧
    Only [.sup, .er, .hp, .qu] s (legalExpiry s) := by
  have hparts : Only [.sup, .er, .hp, .qu] s (legalExpiry s) := by simp
  have hnone : (legalMarked s).sup.commit = .none := h
  have hframe : (legalMarked s).tb.frame = s.tb.frame := rfl
  refine and_assoc.mp (and_assoc.mp (and_assoc.mp (and_assoc.mp ⟨?_, hparts⟩)))
  rw [legalExpiry_eq, orderReset_of_none (by rw [raise_sup]; exact hnone), mapSup_sup, raise_sup, raise_tb, hframe]
  exact ⟨⟨⟨⟨rfl, rfl⟩, rfl⟩, rfl⟩, rfl⟩

theorem appExpiry_parts (s : State) : (appExpiry s).sup = { s.sup with awdog := true, wdaTicks := 0 } ∧ (appExpiry s).ser.assoc = [] := by
  have hsup : (abandonFw (abandonPlan s)).sup = s.sup := by
    have h : Only [.qu, .pl, .met, .ls, .bl, .tp, .er, .tr, .hp, .nv, .seal] s (abandonFw (abandonPlan s)) := by simp
    exact h .sup rfl
  simp only [appExpiry, raise_sup, raise_ser]
  exact ⟨by rw [mapSup_sup, mapSer_sup, hsup], rfl⟩

end Sys2Proof.Laws

open Sys2Proof Sys2Proof.Machine Sys2Proof.Laws

/-- Settles O60: a sample enters the steps up to the highest threshold it exceeds and leaves those whose count has run, and an expiry is one
update of the supervisor. -/
theorem thermalLadderAndWatchdogs : Obligations.ThermalLadderAndWatchdogs := by
  unfold Obligations.ThermalLadderAndWatchdogs
  refine ⟨fun x s hpow hlo hhi hstep => ?_, fun x s hpow hstep hlo hhi => ?_, fun x s hpow hstep hlo hhi hcom => ?_, fun x b c d s hpow hstep hbelow hlo hhi => ?_,
    fun x a b d s hpow hstep hbelow hlo hhi => ?_, fun x s hoff hback hheld => ?_, fun x s h => if_pos h, fun s hserv => ⟨?_, ?_⟩,
    fun req w s hserv => ⟨fun hreq => ?_, fun hreq => ?_⟩, fun req w s hserv => ⟨?_, ?_⟩, fun w s hruns hw => ?_, fun s hruns hticks => ?_, fun s h => ?_,
    fun w s hruns hrun hw => ?_, fun s hruns hrun hticks => ?_, fun s h => ?_⟩
  · have hx := execThermalSample_of_powered hpow x
    have hup : max s.sup.tstep (stepOf x) = 0 := by
      rw [hstep, stepOf_eq]
      split_ifs <;> omega
    have hleave : leaveSteps (max s.sup.tstep (stepOf x)) (belowAfter x s.sup.below) = 0 := by
      rw [hup]
      rfl
    have hsat := satS_of_range hlo (by omega)
    rw [stepsEntered_of_none (by omega), releasePorts_of_cool (by omega)] at hx
    exact ⟨_, hx, hsat, hleave, congrArg (max s.sup.tjPeak) hsat, rfl, by simp [sampled]⟩
  · have hx := execThermalSample_of_powered hpow x
    have hup : max s.sup.tstep (stepOf x) = 0 + 1 := by
      rw [hstep, stepOf_eq]
      split_ifs <;> omega
    have hleave : leaveSteps (max s.sup.tstep (stepOf x)) (belowAfter x s.sup.below) = 1 := by
      rw [hup, leaveSteps_of_hot (by rw [belowAfter_of_hot (k := 0) (by show (11500 : Int) - 500 ≤ x; omega)]; decide)]
    have hsat := satS_of_range (x := x) (by omega) (by omega)
    rw [hup, hstep, stepsEntered_of_one, releasePorts_of_cool (by omega)] at hx
    have hsup := enterStep_sup (k := 0 + 1) (by decide) x (sampled s x)
    exact ⟨_, hx, by rw [hsup]; exact hsat, by rw [hsup]; exact hleave, by rw [hsup], by rw [hsup]; rfl, by simp [sampled]⟩
  · have hx := execThermalSample_of_powered hpow x
    have hup : max s.sup.tstep (stepOf x) = 3 + 1 := by
      rw [hstep, stepOf_eq]
      split_ifs <;> omega
    have hleave : leaveSteps (max s.sup.tstep (stepOf x)) (belowAfter x s.sup.below) = 4 := by
      rw [hup, leaveSteps_of_hot (by rw [belowAfter_of_hot (k := 3) (by show (13000 : Int) - 500 ≤ x; omega)]; decide)]
    have hsup := enterStep_top (s := sampled s x) hcom x
    have hfour : (enterStep x (sampled s x) (3 + 1)).sup.tstep = 4 := by
      rw [hsup]
      exact hleave
    rw [hup, hstep, stepsEntered_of_one, releasePorts_of_cool (by omega)] at hx
    exact ⟨_, hx, hfour, by rw [hsup], by rw [hsup], by rw [hsup]; rfl, by simp [sampled]⟩
  · have hx := execThermalSample_of_powered hpow x
    have hup : max s.sup.tstep (stepOf x) = 0 + 1 := by
      rw [hstep, stepOf_eq]
      split_ifs <;> omega
    have hleave : leaveSteps (max s.sup.tstep (stepOf x)) (belowAfter x s.sup.below) = 0 := by
      have hcount : (belowAfter x s.sup.below).getD 0 0 = 1000 := by
        rw [hbelow]
        exact if_pos (show x < 11500 - 500 by omega)
      rw [hup, leaveSteps_of_left (by omega)]
      rfl
    have hsat := satS_of_range hlo (by omega)
    rw [stepsEntered_of_none (by omega), releasePorts_of_cool (by omega)] at hx
    exact ⟨_, hx, hsat, hleave, by simp [sampled]⟩
  · have hx := execThermalSample_of_powered hpow x
    have hup : max s.sup.tstep (stepOf x) = 2 + 1 := by
      rw [hstep, stepOf_eq]
      split_ifs <;> omega
    have hleave : leaveSteps (max s.sup.tstep (stepOf x)) (belowAfter x s.sup.below) = 2 := by
      have hcount : (belowAfter x s.sup.below).getD 2 0 = 1000 := by
        rw [hbelow]
        exact if_pos (show x < 12200 - 500 by omega)
      rw [hup, leaveSteps_of_left (by omega),
        leaveSteps_of_hot (by rw [belowAfter_of_hot (k := 1) (by show (11800 : Int) - 500 ≤ x; omega)]; decide)]
    have hsat := satS_of_range (x := x) (by omega) (by omega)
    rw [stepsEntered_of_none (by omega)] at hx
    have hsup : (releasePorts s.sup.tstep (sampled s x)).sup = (sampled s x).sup :=
      (show Only [.cb] (sampled s x) (releasePorts s.sup.tstep (sampled s x)) by simp) .sup rfl
    exact ⟨_, hx, by rw [hsup]; exact hsat, by rw [hsup]; exact hleave, by simp [sampled]⟩
  · exact (if_neg (by simp [hoff, hback])).trans (if_pos hheld)
  · exact congrArg Host.Outcome.next (if_pos hserv)
  · exact congrArg Host.Outcome.next (if_pos hserv)
  · refine congrArg Host.Outcome.next ((if_pos hserv).trans ((if_neg hreq).trans ?_))
    rw [noEff_eq]
    rfl
  · refine congrArg Host.Outcome.next ((if_pos hserv).trans ((if_neg hreq).trans ?_))
    rw [noEff_eq]
    rfl
  · exact congrArg Host.Outcome.next (if_neg (by simp [hserv]))
  · exact congrArg Host.Outcome.next (if_neg (by simp [hserv]))
  · obtain ⟨hserv, hcom⟩ := wdRuns_iff.mp hruns
    have hx : exec (.wdlkick .legal w) s = .next (legalExpiry s) :=
      congrArg Host.Outcome.next ((if_pos hserv).trans ((if_pos rfl).trans ((if_neg hw).trans (if_pos hruns))))
    exact ⟨_, hx, legalExpiry_parts hcom⟩
  · have hx : exec .legalWatchdogExpiry s = .next (legalExpiry s) := if_pos (by simp [hruns, hticks])
    exact ⟨_, hx, legalExpiry_parts (wdRuns_iff.mp hruns).2⟩
  · refine if_neg ?_
    rcases h with h | h <;> simp [h]
  · obtain ⟨hserv, hcom⟩ := wdRuns_iff.mp hruns
    have hx : exec (.wdakick .app w) s = .next (appExpiry s) :=
      congrArg Host.Outcome.next ((if_pos hserv).trans ((if_pos rfl).trans ((if_neg hw).trans (if_pos (by simp [hruns, hrun])))))
    obtain ⟨hsup, hassoc⟩ := appExpiry_parts s
    exact ⟨_, hx, by rw [hsup], by rw [hsup], by rw [hsup, hcom], hassoc, exec_only _ _ _ hx .plan rfl⟩
  · have hx : exec .appWatchdogExpiry s = .next (appExpiry s) := if_pos (by simp [hruns, hrun, hticks])
    obtain ⟨hsup, hassoc⟩ := appExpiry_parts s
    exact ⟨_, hx, by rw [hsup], by rw [hsup], by rw [hsup, (wdRuns_iff.mp hruns).2], hassoc, exec_only _ _ _ hx .plan rfl⟩
  · refine if_neg ?_
    rcases h with h | h | h <;> simp [h]

end

section
namespace Sys2Proof.Laws

open Sys2Proof.Machine

/-! ## The end of BOOT -/

theorem startTimebase_tb (s : State) : (s.tb.markerSeen = true ∨ s.tb.missed < 4 → (startTimebase s).tb.st = .acquire ∧ (startTimebase s).tb.role = 2) ∧
    (s.tb.markerSeen = false → 4 ≤ s.tb.missed → (startTimebase s).tb.st = .free) := by
  rw [startTimebase]
  split
  · next h =>
    rw [setRole_tb]
    refine ⟨fun _ => ⟨rfl, rfl⟩, fun hseen hmissed => ?_⟩
    simp [hseen, Nat.not_lt.mpr hmissed] at h
  · next h =>
    refine ⟨fun hcome => ?_, fun _ _ => rfl⟩
    simp only [Bool.or_eq_true, decide_eq_true_eq] at h
    exact absurd hcome h

/-- The end of BOOT with the cores that have an image. -/
def bootEnded (s : State) (legal app : Bool) : State :=
  let s := startTimebase s
  let s := s.mapSup fun u => { u with sphase := 1, startTicks := 0, bfr := s.tb.frame, legrun := legal, apprun := app, boot := none,
                                      recmon := !legal, wdlTicks := 0, wdaTicks := 0, startDone := false, recDue := none }
  s.mapTr fun t => { t with confL := legal, confA := app, confTicks := 0 }

theorem execBootComplete_of_done {s : State} {legal app : Bool} (hst : s.sup.st = .boot) (hboot : s.sup.boot = some (legal, app))
    (hcom : s.sup.commit = .none) :
    exec .bootComplete s = .next (if legal then enterState (bootEnded s legal app) .start else safeInForce (bootEnded s legal app)) := by
  simp only [exec, execBootComplete, hst, hboot, hcom, ne_eq, not_true_eq_false, if_false]
  rfl

theorem execBootComplete_of_not {s : State} (h : s.sup.st ≠ .boot ∨ s.sup.boot = none ∨ s.sup.commit ≠ .none) : exec .bootComplete s = .next s := by
  simp only [exec, execBootComplete]
  split
  · next hst hboot =>
    refine if_pos ?_
    rcases h with h | h | h
    · exact absurd hst h
    · exact absurd (hboot.symm.trans h) (by simp)
    · exact h
  · rfl

/-! ## The safe plan -/

theorem safePlanOf_safe (s : State) : (safePlanOf s).safe = true := by
  rw [safePlanOf]
  split <;> rfl

theorem safeInForce_pl (s : State) : (safeInForce s).pl.act.safe = true := by
  by_cases hsafe : s.plan.safe = true
  · rw [safeInForce, if_pos hsafe]
    exact hsafe
  · have hpl : (safeInForce s).pl = { s.pl with act := safePlanOf s } := by
      have h : Only [.fe, .cv, .qu, .met, .pq, .er, .hp] (s.mapPl fun l => { l with act := safePlanOf s }) (safeInForce s) := by
        simp [safeInForce, hsafe]
      exact h .pl rfl
    rw [hpl]
    exact safePlanOf_safe s

theorem safeInForce_sup (s : State) : (safeInForce s).sup = s.sup :=
  (show Only [.fe, .cv, .qu, .pl, .met, .pq, .er, .hp, .plan] s (safeInForce s) by simp) .sup rfl

/-! ## The calibration set that waits -/

theorem gateChange_calNext (old new : PlanDef) (s : State) (p : Nat) : (gateChange old new s p).met.calNext = s.met.calNext := by
  rw [gateChange]
  split <;> rfl

theorem scaleEval_calNext (s : State) (pl : PlanDef) : (scaleEval s pl).met.calNext = s.met.calNext := by
  have hpoint (x : State) (p : Nat) : (scalePoint pl x p).met.calNext = x.met.calNext := by
    simp only [scalePoint]
    generalize (if (pointDef pl p).type = 0 then 0 else scaleCause x pl p) = c
    split
    · rfl
    · split
      · rw [raise_met]
        rfl
      · rfl
  have hpulse (x : State) (o : Nat) : (scalePulse pl x o).met.calNext = x.met.calNext := by simp only [scalePulse, mapMet_met]
  have hpulses := forEach_keep (fun s => s.met.calNext) hpulse (List.range 8)
  have hpoints := forEach_keep (fun s => s.met.calNext) hpoint points s
  rw [scaleEval]
  exact (hpulses _).trans hpoints

theorem safeInForce_calNext (s : State) : (safeInForce s).met.calNext = s.met.calNext := by
  simp only [safeInForce]
  split
  · rfl
  · have hevents (x : State) : (forEach buses evCloseAll x).met = x.met := (show Only [.pq, .er, .hp] x (forEach buses evCloseAll x) by simp) .met rfl
    rw [hevents]
    have hgates (old new : PlanDef) (x : State) : (forEach points (gateChange old new) x).met.calNext = x.met.calNext :=
      forEach_keep (fun s => s.met.calNext) (gateChange_calNext old new) points x
    have hconv (old new : PlanDef) (x : State) : (converterHandOver old new x).met = x.met :=
      (show Only [.fe, .cv, .qu, .pq] x (converterHandOver old new x) by simp) .met rfl
    rw [hgates, hconv, mapPl_met]

/-! ## The steps of START -/

/-- A device that starts, with no commit, no entry due and its steps not done. -/
def stepsRun (s : State) : Prop := s.starting = true ∧ s.sup.commit = .none ∧ s.sup.recDue = none ∧ s.sup.startDone = false

theorem stepsRun_guard {s : State} (h : stepsRun s) :
    ¬(!s.starting || s.sup.commit != .none || s.sup.recDue.isSome || s.sup.startDone) = true := by
  obtain ⟨hstart, hcom, hrec, hdone⟩ := h
  simp [hstart, hcom, hrec, hdone]

theorem execStartSequence_of_first {s : State} (h : stepsRun s) (hphase : s.sup.sphase = 0 ∨ s.sup.sphase = 1) (a b : Bool) :
    exec (.startSequence a b) s = .next (startStep1 s) := by
  refine (if_neg (stepsRun_guard h)).trans ?_
  rcases hphase with hphase | hphase <;> rw [hphase] <;> rfl

theorem execStartSequence_of_second {s : State} (h : stepsRun s) (hphase : s.sup.sphase = 2) (a b : Bool) :
    exec (.startSequence a b) s = if 70 ≤ s.sup.startTicks ∧ s.cv.calDone then .next (startStep2 s a b) else .next s := by
  refine (if_neg (stepsRun_guard h)).trans ?_
  rw [hphase]
  rfl

theorem execStartSequence_of_third {s : State} (h : stepsRun s) (hphase : s.sup.sphase = 3) (a b : Bool) :
    exec (.startSequence a b) s = if s.cv.setl = 0 then .next (startStep3 s) else .next s := by
  refine (if_neg (stepsRun_guard h)).trans ?_
  rw [hphase]
  rfl

theorem execStartSequence_of_fourth {s : State} (h : stepsRun s) (hphase : s.sup.sphase = 4) (a b : Bool) :
    exec (.startSequence a b) s = if s.cv.setl = 0 then .next (s.mapSup fun u => { u with startDone := true, sphase := 5 }) else .next s := by
  refine (if_neg (stepsRun_guard h)).trans ?_
  rw [hphase]
  rfl

/-- The values of MRAM restored and reported, before the plan of START is chosen. -/
def restored (s : State) : State :=
  let s := restoreBanks s
  let s := s.mapMet fun m => { m with cal := s.nv.cal, calNext := none }
  let s := commitReport (discardReport (shadowReverify s))
  let s := drawSeeds (refreshPool (newChallenge (reserveAgain s)))
  let s := s.mapSer fun x => { x with invE := (x.invE / 256 * 256 + 256) % 2 ^ 32, invA := (x.invA / 256 * 256 + 256) % 2 ^ 32 }
  s.mapSup fun u => { u with sphase := 2 }

/-- The plan of START, and a RECOVERY that is due without one. -/
def planChosen (s : State) : State :=
  if s.sup.recmon then s
  else if (activePlan s).isNone then s.mapSup fun u => { u with recDue := some 4 }
  else if s.sup.order then safeInForce s
  else s

theorem startStep1_eq (s : State) : startStep1 s = scaleEval (planChosen (restored s)) (planChosen (restored s)).plan := by
  delta startStep1 planChosen restored
  rfl

theorem planChosen_parts (s : State) : (planChosen s).sup.sphase = s.sup.sphase ∧ (planChosen s).met.calNext = s.met.calNext := by
  rw [planChosen]
  split
  · exact ⟨rfl, rfl⟩
  · split
    · exact ⟨rfl, rfl⟩
    · split
      · rw [safeInForce_sup]
        exact ⟨rfl, safeInForce_calNext s⟩
      · exact ⟨rfl, rfl⟩

theorem discardReport_met (s : State) : (discardReport s).met = s.met := by
  rw [discardReport]
  split
  · exact setMark_within s none .met rfl
  · rfl

theorem restored_parts (s : State) : (restored s).sup.sphase = 2 ∧ (restored s).met.calNext = none := by
  refine ⟨rfl, ?_⟩
  rw [restored]
  generalize restoreBanks s = x
  have hreport (y : State) : (commitReport (discardReport (shadowReverify y))).met = y.met := by
    have h1 : (commitReport (discardReport (shadowReverify y))).met = (discardReport (shadowReverify y)).met :=
      (show Only [.sup, .qu, .er, .hp] (discardReport (shadowReverify y)) (commitReport (discardReport (shadowReverify y))) by simp) .met rfl
    have h2 : (shadowReverify y).met = y.met := (show Only [.pl, .hp, .nv] y (shadowReverify y) by simp) .met rfl
    rw [h1, discardReport_met, h2]
  have hdraw (y : State) : (drawSeeds (refreshPool (newChallenge (reserveAgain y)))).met = y.met :=
    (show Only [.er, .fresh, .tp, .pq] y (drawSeeds (refreshPool (newChallenge (reserveAgain y)))) by simp) .met rfl
  simp only [mapSup_met, mapSer_met, hdraw, hreport, mapMet_met]

theorem startStep1_parts (s : State) : (startStep1 s).sup.sphase = 2 ∧ (startStep1 s).met.calNext = none := by
  obtain ⟨hphase, hcal⟩ := planChosen_parts (restored s)
  obtain ⟨hphase', hcal'⟩ := restored_parts s
  have hscale (x : State) (pl : PlanDef) : (scaleEval x pl).sup = x.sup := (show Only [.qu, .met, .er, .hp] x (scaleEval x pl) by simp) .sup rfl
  rw [startStep1_eq, hscale, scaleEval_calNext]
  exact ⟨hphase.trans hphase', hcal.trans hcal'⟩

theorem katResult_parts (s : State) (a b : Bool) : (katResult s a b).ls.katok = (!a && !b) ∧ (katResult s a b).sup = s.sup ∧ (katResult s a b).cv = s.cv := by
  have hparts : Only [.qu, .ls, .er, .hp] s (katResult s a b) := by simp
  refine ⟨?_, hparts .sup rfl, hparts .cv rfl⟩
  rw [katResult]
  split
  · rw [raise_ls]
    rfl
  · rfl

theorem faultySlices_of_cv {s t : State} (h : t.cv = s.cv) : faultySlices t = faultySlices s := by
  rw [faultySlices, h, faultySlices]

/-- A failed known-answer test of a device with a legal image. -/
theorem startStep2_failed {s : State} {a b : Bool} (h : a = true ∨ b = true) (hmon : s.sup.recmon = false) :
    (startStep2 s a b).sup.recDue = some 2 ∧ (startStep2 s a b).ls.katok = false := by
  obtain ⟨hok, hsup, -⟩ := katResult_parts s a b
  have hbad : (!a && !b) = false := by rcases h with rfl | rfl <;> simp
  rw [hbad] at hok
  have hmon' : (katResult s a b).sup.recmon = false := by rw [hsup, hmon]
  simp only [startStep2, hok, hmon', Bool.not_false, if_true, Bool.false_eq_true, if_false]
  exact ⟨rfl, hok⟩

/-- A passed known-answer test with fewer than four faulty slices. -/
theorem startStep2_passed {s : State} (hslices : faultySlices s < 4) (hrec : s.sup.recDue = none) :
    (startStep2 s false false).sup.recDue = none ∧ (startStep2 s false false).sup.sphase = 3 ∧ (startStep2 s false false).ls.katok = true ∧
    (startStep2 s false false).cv.filt = true := by
  obtain ⟨hok, hsup, hcv⟩ := katResult_parts s false false
  have hfew : ¬4 ≤ faultySlices (katResult s false false) := by
    rw [faultySlices_of_cv hcv]
    omega
  have hstep : startStep2 s false false = startStep2.startSinc (katResult s false false) := by
    simp only [startStep2, hok, Bool.not_false, Bool.and_self, Bool.not_true, Bool.false_eq_true, if_false, if_neg hfew]
  rw [hstep, startStep2.startSinc]
  exact ⟨by rw [← hrec, ← hsup]; rfl, rfl, hok, rfl⟩

/-! ## RUN -/

theorem enterState_sup (s : State) (st : OpState) : (enterState s st).sup = { s.sup with st := st } := by
  rw [enterState, raise_sup]
  rfl

/-- The events and the latches of the cell and the clock sets under way, taken in. -/
def latchesTaken (s : State) : State :=
  restoreClockSet (processLatches ((forEach s.rtc.evDue (fun s e => raise s e.1 e.2.1 e.2.2) s).mapRtc fun r => { r with evDue := [] }))

theorem restoreLatches_eq (s : State) :
    restoreLatches s = ((latchesTaken s).mapSup fun u => { u with restored := false }).mapTp fun t => { t with pendcell := false } := rfl

theorem restoreLatches_sup (s : State) : (restoreLatches s).sup = { s.sup with restored := false } := by
  have hparts : Only [.qu, .bl, .rtc, .tp, .er, .hp, .ser] s (latchesTaken s) := by simp [latchesTaken]
  have hsup : (latchesTaken s).sup = s.sup := hparts .sup rfl
  rw [restoreLatches_eq, mapTp_sup, mapSup_sup, hsup]

/-- The first tick of RUN, with what it restores. -/
def runEntered (s : State) : State :=
  let s := restoreFallback (restoreActivation s)
  let s := if s.rtc.setDue.isEmpty then restoreBilling s else pqClockSet (restoreBilling s)
  let s := if s.rtc.valid then pqIntervals s s.rtc.sec else s
  bandStart (s.mapPq fun q => { q with bandTicks := 0 })

theorem runEntered_sup (s : State) : (runEntered s).sup = s.sup := by
  have hparts : Only [.qu, .pl, .met, .pq, .ls, .bl, .rtc, .tp, .er, .hp, .nv, .seal, .plan] s (runEntered s) := by
    simp [runEntered]
  exact hparts .sup rfl

theorem execRunEntry_of_ended {s : State} (hst : s.sup.st = .start) (hdone : s.sup.startDone = true) (hrec : s.sup.recDue = none)
    (hcom : s.sup.commit = .none) : exec .runEntry s = .next (runEntered (restoreLatches (leaveStart (enterState s .run)))) :=
  if_pos ⟨hst, hdone, hrec, hcom⟩

theorem startEntered_parts (s : State) (legal app : Bool) :
    (enterState (bootEnded s legal app) .start).sup = { (bootEnded s legal app).sup with st := .start } ∧
    (enterState (bootEnded s legal app) .start).tr = (bootEnded s legal app).tr ∧
    (enterState (bootEnded s legal app) .start).tb = (startTimebase s).tb ∧ (enterState (bootEnded s legal app) .start).pl = s.pl := by
  have hpl : (startTimebase s).pl = s.pl := (show Only [.tb, .hp] s (startTimebase s) by simp) .pl rfl
  refine ⟨enterState_sup .., raise_tr .., raise_tb .., ?_⟩
  rw [← hpl]
  exact raise_pl ..

/-! ## RECOVERY -/

/-- The entry tick of RECOVERY up to its tariff. -/
def recoveryBegun (s : State) (r : Nat) : State :=
  let s := enterState (leaveStart s) .recovery
  let s := raise (s.mapSup fun u => { u with rreason := r }) 0x05 0xFF (some (r : Nat))
  let s := (restoreLatches s).mapRtc fun r => { r with setDue := [] }
  let s := if s.nv.selRest then (restoreActivation (s.mapSup fun u => { u with st := .run })).mapSup fun u => { u with st := .recovery }
    else s
  finAll (forEach points (closeNow 0 2) s)

theorem execRecoveryEntry_of_due {s : State} {r : Nat} (hrec : s.sup.recDue = some r) (hcom : s.sup.commit = .none) :
    exec .recoveryEntry s = .next (recoveryPlan (recoveryTariff (recoveryBegun s r))) := by
  simp only [exec, execRecoveryEntry, hrec, hcom, ne_eq, not_true_eq_false, if_false]
  rfl

theorem recoveryBegun_sup (s : State) (r : Nat) : (recoveryBegun s r).sup.st = .recovery ∧ (recoveryBegun s r).sup.rreason = r := by
  have hclose (x : State) : (finAll (forEach points (closeNow 0 2) x)).sup = x.sup :=
    (show Only [.qu, .bl, .er, .hp] x (finAll (forEach points (closeNow 0 2) x)) by simp) .sup rfl
  have hact (x : State) : (restoreActivation x).sup = x.sup :=
    (show Only [.qu, .pl, .met, .ls, .bl, .tp, .er, .hp, .nv, .seal, .plan] x (restoreActivation x) by simp) .sup rfl
  rw [recoveryBegun, hclose]
  split
  · rw [mapSup_sup, hact, mapSup_sup, mapRtc_sup, restoreLatches_sup, raise_sup, mapSup_sup]
    exact ⟨rfl, rfl⟩
  · rw [mapRtc_sup, restoreLatches_sup, raise_sup, mapSup_sup, enterState_sup]
    exact ⟨rfl, rfl⟩

/-- Every point in T1 with SRC 3. -/
theorem recoveryTariff_points (s : State) {p : Nat} (hp : p < 128) : tidx (recoveryTariff s) p = 0x31 := by
  have hset (x : State) : tget (Pair.zero 32) p (forEach points (fun s p => s.putTidx p (Pair.of 0x31#32)) x).bl.tidx = Pair.of 0x31#32 :=
    forEach_holds (key := id) (P := fun p s => tget (Pair.zero 32) p s.bl.tidx = Pair.of 0x31#32) (fun s p => tget_tset_self ..)
      (fun s a k h => (tget_tset ..).trans (by split <;> simp [h])) (List.mem_range.mpr hp) x
  rw [recoveryTariff, tidx, mapBl_bl, hset]
  rfl

/-- The safe plan in force, at the latest by RECOVERY. -/
def planMadeSafe (s : State) : State := if s.plan.safe then s else scaleEval (safeInForce s) (safeInForce s).plan

/-- The safe plan with its digest, measured and checked. -/
def planMeasured (s : State) : State :=
  let s := s.mapPl fun l => { l with ldg := s.plan.legalDigest, ldgN := ~~~s.plan.legalDigest }
  legalCheck (extendPlan s 3 s.plan)

theorem recoveryPlan_eq (s : State) : recoveryPlan s =
    if (planMeasured (planMadeSafe s)).cv.filt && (planMeasured (planMadeSafe s)).cv.sinc == { ({} : SincSet) with l := sincL {} }
    then planMeasured (planMadeSafe s) else filterChange (planMeasured (planMadeSafe s)) false {} := rfl

theorem recoveryPlan_parts (s : State) : (recoveryPlan s).pl.act.safe = true ∧ (recoveryPlan s).bl = s.bl ∧ (recoveryPlan s).sup = s.sup := by
  have hparts : Only [.fe, .cv, .qu, .pl, .met, .pq, .er, .tr, .hp, .plan] s (recoveryPlan s) := by simp
  refine ⟨?_, hparts .bl rfl, hparts .sup rfl⟩
  have hplan : (planMadeSafe s).pl.act.safe = true := by
    rw [planMadeSafe]
    split
    · next h => exact h
    · have hscale : (scaleEval (safeInForce s) (safeInForce s).plan).pl = (safeInForce s).pl :=
        (show Only [.qu, .met, .er, .hp] (safeInForce s) (scaleEval (safeInForce s) (safeInForce s).plan) by simp) .pl rfl
      rw [hscale]
      exact safeInForce_pl s
  have hmeasured (x : State) : (planMeasured x).pl.act = x.pl.act := by
    have hcheck (y : State) : (legalCheck (extendPlan y 3 y.plan)).pl = y.pl := (show Only [.tr] y (legalCheck (extendPlan y 3 y.plan)) by simp) .pl rfl
    rw [planMeasured, hcheck, mapPl_pl]
  have hfilter (x : State) (b : Bool) : (if b then x else filterChange x false {}).pl = x.pl := by
    split
    · rfl
    · exact (show Only [.cv] x (filterChange x false {}) by simp) .pl rfl
  rw [recoveryPlan_eq, hfilter, hmeasured]
  exact hplan

end Sys2Proof.Laws

open Sys2Proof Sys2Proof.Machine Sys2Proof.Laws

/-- Settles O59: each step of START is one equation, and the entries into RUN and RECOVERY change the supervisor at known places only. -/
theorem startsAndEnters : Obligations.StartsAndEnters := by
  unfold Obligations.StartsAndEnters
  refine ⟨fun a s hst hboot hcom => ?_, fun a s hst hboot hcom => ?_, fun s h => execBootComplete_of_not h, fun a b s hstart hcom hrec hdone => ?_,
    fun a b s h => if_pos ?_, fun s hst hdone hrec hcom => ?_, fun s h => if_neg ?_, fun r s hrec hcom => ?_, fun s h => ?_⟩
  · have hx := execBootComplete_of_done hst hboot hcom
    obtain ⟨hmark, hfree⟩ := startTimebase_tb s
    rw [if_pos rfl] at hx
    obtain ⟨hsup, htr, htb, hpl⟩ := startEntered_parts s true a
    have hframe : (enterState (bootEnded s true a) .start).tb.frame = s.tb.frame := exec_only _ _ _ hx .frame rfl
    refine ⟨_, hx, ?_, ?_, ?_, ?_, ?_, ?_, ?_, ?_, hframe, hpl, ?_, ?_⟩
    · rw [hsup]
    · rw [hsup]
      rfl
    · rw [hsup]
      rfl
    · rw [hsup, ← hframe, htb]
      rfl
    · rw [hsup]
      rfl
    · rw [hsup]
      rfl
    · rw [htr]
      rfl
    · rw [htr]
      rfl
    · rw [htb]
      exact hmark
    · rw [htb]
      exact hfree
  · have hx := execBootComplete_of_done hst hboot hcom
    rw [if_neg (by decide)] at hx
    have hsup := safeInForce_sup (bootEnded s false a)
    have hkeep : (startTimebase s).sup = s.sup := (show Only [.tb, .hp] s (startTimebase s) by simp) .sup rfl
    have hboot' : (bootEnded s false a).sup.st = .boot := (congrArg Supervisor.st hkeep).trans hst
    refine ⟨_, hx, ?_, ?_, ?_, ?_, safeInForce_pl _, ?_⟩
    · rw [hsup, hboot']
    · rw [hsup]
      rfl
    · rw [hsup]
      rfl
    · rw [hsup]
      rfl
    · rw [State.starting, hsup, hboot']
      rfl
  · have hopen : stepsRun s := ⟨hstart, hcom, hrec, hdone⟩
    refine ⟨fun hphase => ⟨_, execStartSequence_of_first hopen hphase a b, startStep1_parts s⟩, fun hphase h => ?_,
      fun hphase hticks hcal => ⟨fun hbad hmon => ?_, fun ha hb hslices => ?_⟩, fun hphase hsetl => ?_, fun hphase hsetl => ⟨fun hmon => ?_, fun hmon hord => ?_, fun hmon hord => ?_⟩,
      fun hphase hsetl => ?_⟩
    · rw [execStartSequence_of_second hopen hphase, if_neg]
      rintro ⟨hticks, hcal⟩
      rcases h with h | h
      · omega
      · exact absurd (hcal.symm.trans h) (by decide)
    · have hx := (execStartSequence_of_second hopen hphase a b).trans (if_pos ⟨hticks, hcal⟩)
      exact ⟨_, hx, startStep2_failed hbad hmon⟩
    · have hx := (execStartSequence_of_second hopen hphase a b).trans (if_pos ⟨hticks, hcal⟩)
      rw [ha, hb] at hx ⊢
      exact ⟨_, hx, startStep2_passed hslices hrec⟩
    · rcases hphase with hphase | hphase
      · exact (execStartSequence_of_third hopen hphase a b).trans (if_neg hsetl)
      · exact (execStartSequence_of_fourth hopen hphase a b).trans (if_neg hsetl)
    · rw [execStartSequence_of_third hopen hphase, if_pos hsetl, startStep3, if_pos hmon]
      rfl
    · rw [execStartSequence_of_third hopen hphase, if_pos hsetl, startStep3, if_neg (by simp [hmon]), if_pos hord]
      rfl
    · have hx := (execStartSequence_of_third hopen hphase a b).trans (if_pos hsetl)
      have hstep : startStep3 s = filterChange (s.mapSup fun u => { u with sphase := 4 }) true {} := by
        rw [startStep3, if_neg (by simp [hmon]), if_neg (by simp [hord])]
      rw [hstep] at hx
      exact ⟨_, hx, rfl, rfl, by simp⟩
    · exact (execStartSequence_of_fourth hopen hphase a b).trans (if_pos hsetl)
  · rcases h with h | h | h | h
    · simp [h]
    · simp [h]
    · simp [Option.isSome_iff_ne_none.mpr h]
    · simp [h]
  · have hx := execRunEntry_of_ended hst hdone hrec hcom
    have hsup : (runEntered (restoreLatches (leaveStart (enterState s .run)))).sup =
        { (leaveStart (enterState s .run)).sup with restored := false } := (runEntered_sup _).trans (restoreLatches_sup _)
    have hleave : (leaveStart (enterState s .run)).sup = { s.sup with st := .run, stime := min 65535 s.sup.startTicks, sphase := 0, startDone := false, recDue := none } := by
      rw [leaveStart, mapSup_sup, enterState_sup]
    refine ⟨_, hx, ?_, ?_, ?_, exec_only _ _ _ hx .frame rfl⟩ <;> rw [hsup, hleave]
  · rintro ⟨hst, hdone, hrec, hcom⟩
    rcases h with h | h | h | h
    · exact h hst
    · exact absurd (hdone.symm.trans h) (by decide)
    · exact h hrec
    · exact h hcom
  · have hx := execRecoveryEntry_of_due hrec hcom
    obtain ⟨hsafe, hbl, hsup⟩ := recoveryPlan_parts (recoveryTariff (recoveryBegun s r))
    obtain ⟨hst, hreason⟩ := recoveryBegun_sup s r
    have hkeep : (recoveryTariff (recoveryBegun s r)).sup = (recoveryBegun s r).sup :=
      (show Only [.bl] (recoveryBegun s r) (recoveryTariff (recoveryBegun s r)) by simp) .sup rfl
    refine ⟨_, hx, by rw [hsup, hkeep, hst], by rw [hsup, hkeep, hreason], hsafe, fun p hp => ?_, exec_only _ _ _ hx .frame rfl⟩
    have htidx : tidx (recoveryPlan (recoveryTariff (recoveryBegun s r))) p = 0x31 := by
      rw [tidx, hbl]
      exact recoveryTariff_points _ hp
    rw [tariffOf, srcOf, htidx]
    exact ⟨rfl, rfl⟩
  · cases hrec : s.sup.recDue with
    | none => simp only [exec, execRecoveryEntry, hrec]
    | some r =>
      have hcom := h.resolve_left (by simp [hrec])
      simp only [exec, execRecoveryEntry, hrec]
      exact if_pos hcom

end
